-- ==== Sys2Proof/Word.lean ====
section
/-!
DEFINITION. The word types of the model.
-/
namespace Sys2Proof

/-- One byte, as carried on a wire or held in memory. -/
abbrev Byte := BitVec 8

/-- A 32-bit Bruop word (R200). -/
abbrev Word := BitVec 32

end Sys2Proof
end

