-- ==== Sys2Proof/Syntax.lean ====
section
/-!
DEFINITION. The commands the M5 takes: one constructor per row of the command table, each with the operands
that the rule of its row names. A command comes from outside the block: a frame on a port, a register write, an
instruction issued to a core, an expiry of a timer, an event on a pin. Where the spec leaves a choice to the device
(which free core takes a ready task, which engine instance takes an entry) the choice is an operand, and the meaning
checks that the spec allows it (assumption 3).
-/
namespace Sys2Proof

/-! ## Operand groups -/

/-- Errors of a DRAM code word: symbols in error by ×4 device, whether a second read returns good data, and the device that
the read indicates, if any (R409, R415). -/
structure LineErr where
  symbols : List (Nat × Nat)
  once : Bool
  device : Option Nat
  deriving DecidableEq, Repr

/-- What a stored code word holds besides good data (R408 to R415). -/
inductive BadWord where
  | correctable | uncorrectable | uncorrectableOnce | poison
  | line (e : LineErr)
  deriving DecidableEq, Repr

/-- A frame received by E0 or E1 as the transport sees it: addresses, encapsulation and header fields, then the
body after the 16-byte header (R64 to R68). -/
structure RxFrame where
  port : Nat
  dstMac : Nat
  srcMac : Nat
  /-- 0 raw Ethernet, 1 UDP over IPv4, 2 UDP over IPv6 (R64). -/
  encap : Nat
  /-- EtherType of a raw frame, or destination UDP port. -/
  proto : Nat
  vlan : Option Nat
  srcIp : Nat
  dstIp : Nat
  srcUdp : Nat
  /-- IPv4: no options, not fragmented, valid header checksum; IPv6: UDP is the first Next Header (R65). -/
  ipOk : Bool
  /-- The UDP checksum is zero or valid (R65). -/
  udpOk : Bool
  version : Nat
  /-- TYPE (R67, R68). -/
  type : Nat
  count : Nat
  length : Nat
  sender : Nat
  epoch : Nat
  /-- Bytes received after the header, padding included. -/
  payload : List Byte
  /-- What a word of the ingress buffer that takes the payload has come to hold besides good data (R408, R413). -/
  bad : Option BadWord := none
  deriving DecidableEq, Repr

/-- Format A fields (R216). -/
structure AFmt where
  stop : Bool
  d : BitVec 5
  a : BitVec 5
  b : BitVec 5
  deriving DecidableEq, Repr

/-- Format A of the accumulator group (R219). -/
structure AccFmt where
  stop : Bool
  d : BitVec 5
  a : BitVec 5
  b : BitVec 5
  acc : BitVec 2
  sat : Bool
  k : BitVec 5
  deriving DecidableEq, Repr

/-- Format A of the min/max and block-exponent group with FN[5:0] (R220). -/
structure IxFmt where
  stop : Bool
  d : BitVec 5
  a : BitVec 5
  b : BitVec 5
  low : BitVec 6
  deriving DecidableEq, Repr

/-- Format I (R216). -/
structure IFmt where
  stop : Bool
  d : BitVec 5
  a : BitVec 5
  imm : BitVec 16
  deriving DecidableEq, Repr

/-- Format M (R216). -/
structure MFmt where
  stop : Bool
  d : BitVec 5
  a : BitVec 5
  sz : BitVec 3
  mode : BitVec 2
  cb : BitVec 3
  off : BitVec 8
  deriving DecidableEq, Repr

/-- Format V (R250). -/
structure VFmt where
  stop : Bool
  d : BitVec 5
  a : BitVec 5
  b : BitVec 5
  u : Bool
  pm : Bool
  k : BitVec 3
  deriving DecidableEq, Repr

/-- Format VM (R250). -/
structure VMFmt where
  stop : Bool
  d : BitVec 5
  a : BitVec 5
  b : BitVec 5
  u : Bool
  pm : Bool
  k : BitVec 3
  low : BitVec 3
  deriving DecidableEq, Repr

/-- Format X (R274). -/
structure XFmt where
  stop : Bool
  d : BitVec 5
  a : BitVec 5
  b : BitVec 5
  k : BitVec 5
  deriving DecidableEq, Repr

/-- Source of a Cleip request: the carrier (0 E0, 1 E1, 2 MS, 3 FP) and, on Ethernet, the source addresses, the
encapsulation, the VLAN and the PCP (R460, R466, R483). -/
structure CleipSrc where
  carrier : Nat
  mac : Nat
  ip : Nat
  udp : Nat
  encap : Nat
  vlan : Option Nat
  pcp : Nat
  deriving DecidableEq, Repr

/-- How a frame reached its port: its destination MAC and IP addresses, its EtherType or destination UDP port, and whether
its IP and UDP headers pass R65 (R64, R460). -/
structure FrameTo where
  dstMac : Nat
  /-- EtherType of a raw frame, or destination UDP port. -/
  proto : Nat
  dstIp : Nat
  /-- IPv4: no options, not fragmented, valid header checksum; IPv6: UDP is the first Next Header (R65). -/
  ipOk : Bool
  /-- The UDP checksum is zero or valid (R65). -/
  udpOk : Bool
  deriving DecidableEq, Repr

/-- A Cleip request with the header fields of R464 and its body. The operation code is fixed by the command. -/
structure CleipReq where
  src : CleipSrc
  version : Nat
  resp : Bool
  last : Bool
  tid : Nat
  index : Nat
  sub : Nat
  length : Nat
  offset : Nat
  body : List Byte
  /-- On Ethernet, how its frame reached the port (R460). -/
  frame : FrameTo
  /-- A flash write this request needs succeeds (R479, R496). -/
  flashOk : Bool
  /-- Comparisons of the cipher engine that disagree while it serves this request: 0, 1 or 2 (R499). -/
  cipherFaults : Nat
  deriving DecidableEq, Repr

/-- Which run of a task instance is meant: the first run, its Halo shadow, or a vote (R164, R165). -/
inductive RunRole where
  | main | shadow | vote
  deriving DecidableEq, Repr

/-- One run of one task of one job. -/
structure TaskRef where
  q : Nat
  seq : BitVec 32
  task : Nat
  role : RunRole
  deriving DecidableEq, Repr

/-- Where a run of a task executes: a core, or an engine of a kind (1 LDPC decode, 2 LDPC encode, 3 polar, 4 FFT,
5 modem slice). -/
inductive Place where
  | core (c : Nat)
  | engine (kind n : Nat)
  deriving DecidableEq, Repr

/-- A peer's addresses, encapsulation and VLAN (R104, R373). -/
structure Peer where
  mac : Nat
  encap : Nat
  ip : Nat
  udp : Nat
  vlan : Option Nat
  deriving DecidableEq, Repr

/-- Who waits for a response (R402). -/
inductive Requester where
  | core (c : Nat) | vector (c : Nat) | dma (chan : Nat) | descriptor (chan : Nat) | engine (kind n : Nat)
  deriving DecidableEq, Repr

/-- The PCS of a port has reported a fault since an instant (R105). -/
structure PcsFault where
  port : Nat
  since : Nat
  deriving DecidableEq, Repr

/-- A write transfer on MS: the address it names and the bytes after it (R462). -/
structure MsWrite where
  address : Nat
  bytes : List Byte
  deriving DecidableEq, Repr

/-- A read transfer on MS: the address it names and how many bytes it reads (R462). -/
structure MsRead where
  address : Nat
  n : Nat
  deriving DecidableEq, Repr

/-- How an eCPRI message comes: how its frame reached the port, and its type (R371). -/
structure EcpriForm where
  frame : FrameTo
  type : Nat
  deriving DecidableEq, Repr

/-- An absent option of PTP that a message belongs to (R446). -/
inductive PtpOption where
  | unicast | peerDelay | management | udp
  deriving DecidableEq, Repr

/-- Destination and domain of a PTP message, and the absent option that it uses, if any (R446). -/
structure PtpHead where
  dstMac : Nat
  domain : Nat
  absent : Option PtpOption
  deriving DecidableEq, Repr

/-- Whose the Sync messages of an exchange are: of TB, or of TA; their destination; and the absent option that they use, if
any (R443, R446). -/
structure SyncFrom where
  tb : Bool
  dstMac : Nat
  absent : Option PtpOption
  deriving DecidableEq, Repr

/-- The fields of an Announce that the BMCA reads (R446). -/
structure Announce where
  source : Nat
  gmIdentity : Nat
  gmClass : Nat
  accuracy : Nat
  variance : Nat
  priority1 : Nat
  priority2 : Nat
  stepsRemoved : Nat
  deriving DecidableEq, Repr

/-- What one poll of a module returns (R508): temperature in 1/256 degree, bias of host lanes 1 to 4 in
2 µA, serial and the start of the vendor name as numbers. -/
structure ModuleReading where
  temp : Int
  bias : List Nat
  serial : Nat
  vendor : Nat
  deriving DecidableEq, Repr

/-- The commands, in the table's order. -/
inductive Instr where
  /-- R79: A DESC transport frame arrives and each descriptor in it is classified as new, held, duplicate, stale, beyond credit or for a disabled queue. -/
  | desc (f : RxFrame)
  /-- R80: A DATA segment arrives and is checked, stored for an assembling job, or discarded. -/
  | data (f : RxFrame)
  /-- R98: An ACK entry from the host advances ACK_SEQ of a completion queue and retires the jobs it passes. -/
  | ack (f : RxFrame)
  /-- R100: A RESEND entry makes the device retransmit the records and result segments of a completion queue from FROM_SEQ. -/
  | resend (f : RxFrame)
  /-- R178: A MIRROR frame from a source device is journaled at the next expected stream position and acknowledged by the buddy. -/
  | mirror (f : RxFrame)
  /-- R89: A MIRROR_ACK from the buddy completes step 6 of acceptance for the entries it covers and releases held records. -/
  | mirrorAck (f : RxFrame)
  /-- R96: A received IEEE 802.1Qbb pause stops transmission on a priority and halts the retransmission timers of queues on that port. -/
  | pfcPauseRx (port prio quanta : Nat)
  /-- R81: An assembling job reaches ASSEMBLY_TIMEOUT and all its parts are discarded without any entry being sent. -/
  | assemblyTimeout (q : Nat) (seq : BitVec 32)
  /-- R83: A Complete job whose SEQ equals NEXT_SEQ runs the acceptance steps: checks, copy to pool buffers, journaling and passing to the scheduler. -/
  | jobAccept (q : Nat)
  /-- R89: A MIRROR_ACK is MIRROR_TIMEOUT overdue after both ports were tried, so the buddy is declared unreachable and waiting jobs are accepted UNMIRRORED. -/
  | mirrorTimeout
  /-- R87: Pending acceptance entries of a port have been held for ACCEPT_COALESCE and are transmitted. -/
  | acceptCoalesceExpiry (port : Nat)
  /-- R97: A released record has been held for COMPL_COALESCE and is transmitted with its result segments. -/
  | complCoalesceExpiry (q : Nat)
  /-- R99: The retransmission timer of a completion queue expires and every unacknowledged record is retransmitted with RETX set, the timer doubling. -/
  | retxTimeout (q : Nat)
  /-- R94: CREDIT_REFRESH passes and the CREDIT entry of every enabled queue is sent again. -/
  | creditRefresh
  /-- R92: The device grants sequence and unit credit to the next queue in round-robin order, reserving journal, result-store and ingress space. -/
  | creditGrant
  /-- R105: A port's fault persists for PORT_DOWN_TIME and every queue active on it moves to the other port with credit, retransmission and pending acceptances. -/
  | portDown (fault : PcsFault)
  /-- R105: A home port has been up for PORT_UP_HOLD and its queues return to it. -/
  | portUpHoldExpiry (port : Nat)
  /-- R44: A finalised job's record is released to its completion queue once every earlier record of the queue has been released. -/
  | recordRelease (q : Nat)
  /-- R123: A timed job enters admission at its Horizon, or is retried on released capacity or each SLOT_NS, and is admitted guaranteed, demoted or left unadmitted. -/
  | admission (q : Nat) (seq : BitVec 32)
  /-- R128: A cluster dispatcher or accelerator queue starts a ready task at its rank on a free core, writing its start state. -/
  | taskDispatch (t : TaskRef) (p : Place)
  /-- R156: A faulted task is started again from its pinned inputs on another core or engine instance, preferring the reserve. -/
  | taskReplay (t : TaskRef) (p : Place)
  /-- R132: A timed job's deadline arrives and an unfinished job is aborted under ABORT, continued under FINISH, or expired if no task started. -/
  | jobDeadline (q : Nat) (seq : BitVec 32)
  /-- R131: A task of a guaranteed job exceeds its budget plus margin and its job's remaining demand moves to the best-effort ledger. -/
  | overrunMark (t : TaskRef)
  /-- R133: A core task's watchdog expires and the core stops it with the watchdog cause for replay. -/
  | watchdogExpiry (c : Nat)
  /-- R136: LEARN_PERIOD passes and every task's histogram is decayed and its learned budget recomputed. -/
  | learnPeriod
  /-- R143: DVFS_PERIOD passes and each powered cluster's operating point is chosen and migration is evaluated. -/
  | dvfsPeriod
  /-- R144: A cluster's island temperature crosses THERMAL_OPP or its clear threshold and its thermal ceiling changes. -/
  | thermalCeiling (k : Nat) (temp : Int)
  /-- R138: An island temperature has stayed above THERMAL_MIGRATE for 100 ms and thermal migration is triggered. -/
  | thermalMigrate (k : Nat)
  /-- R140: At the cell's first slot boundary after the target is awake, admissions and unstarted tasks move to the target and moved jobs are re-tested. -/
  | migrationSwitch (cell : Nat)
  /-- R145: A cluster has met the gating conditions for GATE_IDLE and is gated in P1. -/
  | gateIdleExpiry (k : Nat)
  /-- R142: The rail's ready indication arrives after a raise request and the cluster clock is switched to the new operating point. -/
  | oppSwitchDone (k : Nat)
  /-- R167: A cluster island misses four heartbeats, times out a crossing or trips its supply monitor, and is clamped, its cells relocated and its tasks replayed. -/
  | islandLoss (island : Nat)
  /-- R167: A reset cluster island passes its built-in test and returns to service with live versions rewritten as poisoned, or is retired. -/
  | islandRestored (island : Nat) (passed : Bool)
  /-- R160: A strike becomes older than RETIRE_WINDOW and lapses. -/
  | strikeLapse (region : Nat)
  /-- R188: No enabled condition has held for OVERCAST_EXIT_HOLD and the device leaves Overcast. -/
  | overcastExit
  /-- R172: A lockstep mismatch, watchdog or uncorrectable error in the active supervisor pair makes the standby take over. -/
  | supervisorSwitchover (cause : Nat)
  /-- R172: A failed supervisor pair finishes its reset, test and reload and becomes standby or is retired. -/
  | supervisorPairRetested (passed : Bool)
  /-- R172: Every 1 ms the active supervisor pair copies its state to the standby. -/
  | standbyCopy
  /-- R174: A write of 1 to FW_UPDATE_CMD starts an uninterrupted firmware update on the standby pair. -/
  | fwUpdateCmd (r : CleipReq)
  /-- R174: The standby pair has loaded the new release and converted the state, and a planned switch-over follows. -/
  | fwStandbyLoaded
  /-- R174: The former active pair is standby on the new release and the image is written to flash as the boot image. -/
  | fwUpdateDone
  /-- R178: MIRROR_TIMEOUT divided by 4 passes and the source resends every unacknowledged mirror entry. -/
  | mirrorResend
  /-- R177: 1 ms passes with nothing mirrored and a keep-alive marker is sent. -/
  | mirrorKeepalive
  /-- R180: BUDDY_FENCE_TIME passes with no MIRROR_ACK under REQUIRED and the device fences itself. -/
  | buddyFence
  /-- R181: No MIRROR frame has arrived from a REQUIRED source for BUDDY_DEAD_TIME and an automatic take-over starts. -/
  | buddyDead (source : Nat)
  /-- R181: A write of a source number to TAKEOVER_CMD starts a take-over, and 0xFFFF ends the fence and discards the share. -/
  | takeoverCmd (r : CleipReq)
  /-- R184: A write of its own number to BUDDY_RELEASE discards a taken-over device's journal and resets its queues. -/
  | buddyRelease (r : CleipReq)
  /-- R175: A write of BUDDY reads the candidate's identity and features and accepts or refuses it. -/
  | buddy (r : CleipReq) (answer : Option (Nat × Nat))
  /-- R171: A write of REGION_RESTORE starts the test of a retired or lost region. -/
  | regionRestore (r : CleipReq)
  /-- R171: The restore test of a region ends and the region returns to service or stays lost. -/
  | regionRestoreDone (region : Nat) (passed : Bool)
  /-- R171: A write of REGION_RETIRE retires a lost Anvil quarter or DRAM subchannel and withdraws its buffers. -/
  | regionRetire (r : CleipReq)
  /-- R188: A write of OVERCAST_MASK re-evaluates Overcast at once. -/
  | overcastMask (r : CleipReq)
  /-- R108: A write of QUEUE_RESET with GO returns a queue to its initial state and leaves it enabled. -/
  | queueReset (r : CleipReq)
  /-- R108: A write of QUEUE_CONFIG records queue settings, refusing a clear of ENABLE while the queue holds work. -/
  | queueConfig (r : CleipReq)
  /-- R32: A write of a pool object is checked against memory extents and fills the pool's buffers with zeros. -/
  | poolConfig (r : CleipReq)
  /-- R102: A write of RESULT_STORE_BYTES, RESULT_BUF_SIZE or RESULT_HANDLES reshapes and refills the result store. -/
  | resultStoreConfig (r : CleipReq)
  /-- R119: A write of a CELL_CONFIG record is checked whole and may start a migration to a new home cluster. -/
  | cellConfig (r : CleipReq)
  /-- R151: A write of MIGRATE_CMD starts an operator migration of a cell to a target cluster. -/
  | migrateCmd (r : CleipReq)
  /-- R150: A write of ADMIT_PROBE evaluates the cell check for a candidate record without applying it. -/
  | admitProbe (r : CleipReq)
  /-- R137: A write of KERNEL_TABLE seeds learned budgets for loaded tasks. -/
  | kernelTable (r : CleipReq)
  /-- R146: A write of an installer bound of a policy value is checked against its range and the present value. -/
  | policyBound (r : CleipReq)
  /-- R476: A Cleip write of an object with no row of its own is checked, applied or refused, and audited. -/
  | objectWrite (r : CleipReq)
  /-- R465: A Cleip READ returns the value of an object. -/
  | cleipRead (r : CleipReq)
  /-- R465: A Cleip READ_BLOCK returns a segment of a DOMAIN object from OFFSET. -/
  | cleipReadBlock (r : CleipReq)
  /-- R470: A WRITE_BLOCK segment is staged, and the segment with LAST applies the block write as a single write. -/
  | cleipWriteBlock (r : CleipReq)
  /-- R472: A SUBSCRIBE of mode 0 cancels a subscription. -/
  | subscribeCancel (r : CleipReq)
  /-- R472: A SUBSCRIBE of mode 1 creates or renews a subscription that sends an event when the value changes. -/
  | subscribeOnChange (r : CleipReq)
  /-- R472: A SUBSCRIBE of mode 2 creates or renews a subscription that sends an event for each occurrence. -/
  | subscribeOnEvent (r : CleipReq)
  /-- R472: The INTERVAL of an on-change subscription passes and the value is compared and an event sent if it changed. -/
  | subscriptionInterval (n : Nat)
  /-- R473: An Ethernet subscription reaches SUB_LEASE without renewal and lapses with a final TIMEOUT event. -/
  | subLeaseLapse (n : Nat)
  /-- R471: An open block write receives no segment for CLEIP_BLOCK_TIMEOUT and is discarded and audited. -/
  | cleipBlockTimeout (key : Nat)
  /-- R467: A held response reaches CLEIP_REPLAY_HOLD and is no longer held. -/
  | cleipReplayHoldExpiry (src : CleipSrc) (tid : Nat)
  /-- R461: A write of CLEIP_ETYPE, TRANSPORT_ETYPE or a UDP port is refused if it would make carriers collide. -/
  | carrierIdWrite (r : CleipReq)
  /-- R462: An I2C write transfer on MS delivers one Cleip request with its CRC-32, waking the device from P3. -/
  | msWriteTransfer (x : MsWrite) (flashOk : Bool)
  /-- R462: An I2C read transfer on MS returns MS_STATUS and any pending response or event. -/
  | msReadTransfer (x : MsRead)
  /-- R486: The factory port instruction BYPASS is put in force. -/
  | bypass
  /-- R486: The factory port instruction IDCODE selects the identification register. -/
  | idcode
  /-- R486: The factory port instruction SAMPLE/PRELOAD is put in force. -/
  | samplePreload
  /-- R486: The factory port instruction EXTEST is put in force while RESET_N is low. -/
  | extest
  /-- R487: The factory port instruction CLEIP selects the 10-bit Cleip data register. -/
  | cleip
  /-- R486: A vendor debug instruction is put in force while the maker lock is unblown. -/
  | vendorDebug (code : BitVec 8)
  /-- R487: An Update-DR with code 0b01 appends a byte to the current FP write transfer. -/
  | fpAppendByte (b : Byte)
  /-- R487: An Update-DR with code 0b10 ends the current FP transfer. -/
  | fpStop (flashOk : Bool)
  /-- R487: An Update-DR with code 0b11 fetches the next byte of the FP read stream. -/
  | fpFetchByte
  /-- R488: A write of the serial's low word to MAKER_LOCK_BLOW blows the maker-lock fuse. -/
  | makerLockBlow (r : CleipReq)
  /-- R493: A write of AUDIT_EXPORTED advances the audit export mark. -/
  | auditExported (r : CleipReq)
  /-- R495: A write of KEY_LOAD_PLAIN loads a plain key into a slot and saves the wrapped key store to flash. -/
  | keyLoadPlain (r : CleipReq)
  /-- R495: A write of KEY_LOAD_WRAPPED unwraps a key under a key-encryption slot and loads it. -/
  | keyLoadWrapped (r : CleipReq)
  /-- R495: A write of KEY_ERASE empties a key slot. -/
  | keyErase (r : CleipReq)
  /-- R498: A write of CIPHER_LOCK sets lock bits, refusing any clear. -/
  | cipherLock (r : CleipReq)
  /-- R498: A write of CIPHER_LOCK_BOOT sets the lock loaded at restart, clears allowed only on FP. -/
  | cipherLockBoot (r : CleipReq)
  /-- R499: The cipher engine's 1 ms known-answer test ends and the engine returns to service or stays failed. -/
  | cipherSelfTestDone (passed : Bool)
  /-- R482: A block write of CONFIG_BACKUP checks its seal and restores the writable P objects whole or not at all. -/
  | configBackupRestore (r : CleipReq)
  /-- R503: After a P object write the device rebuilds and seals CONFIG_BACKUP within 200 ms. -/
  | configBackupRebuild
  /-- R551: A block write of FW_IMAGE is authenticated and, in recovery mode, installed in slot A followed by a restart. -/
  | fwImage (r : CleipReq)
  /-- R216: MOVC reads a control register into a general register. -/
  | movc (c : Nat) (stop : Bool) (d : BitVec 5) (ctrl : BitVec 10)
  /-- R216: MOVTC writes a general register to a control register. -/
  | movtc (c : Nat) (stop : Bool) (a : BitVec 5) (ctrl : BitVec 10)
  /-- R216: JR jumps to the address in a general register. -/
  | jr (c : Nat) (stop : Bool) (a : BitVec 5)
  /-- R218: ADD writes gA + gB. -/
  | add (c : Nat) (f : AFmt)
  /-- R218: SUB writes gA − gB. -/
  | sub (c : Nat) (f : AFmt)
  /-- R218: ADDS writes the saturating sum. -/
  | adds (c : Nat) (f : AFmt)
  /-- R218: SUBS writes the saturating difference. -/
  | subs (c : Nat) (f : AFmt)
  /-- R218: AND writes the bitwise AND. -/
  | and (c : Nat) (f : AFmt)
  /-- R218: OR writes the bitwise OR. -/
  | or (c : Nat) (f : AFmt)
  /-- R218: XOR writes the bitwise XOR. -/
  | xor (c : Nat) (f : AFmt)
  /-- R218: ANDN writes gA AND NOT gB. -/
  | andn (c : Nat) (f : AFmt)
  /-- R218: SLL shifts left by a register amount. -/
  | sll (c : Nat) (f : AFmt)
  /-- R218: SRL shifts logically right by a register amount. -/
  | srl (c : Nat) (f : AFmt)
  /-- R218: SRA shifts arithmetically right with floor. -/
  | sra (c : Nat) (f : AFmt)
  /-- R218: SLT writes 1 if gA is less than gB signed. -/
  | slt (c : Nat) (f : AFmt)
  /-- R218: SLTU writes 1 if gA is less than gB unsigned. -/
  | sltu (c : Nat) (f : AFmt)
  /-- R218: MIN writes the signed minimum. -/
  | min (c : Nat) (f : AFmt)
  /-- R218: MAX writes the signed maximum. -/
  | max (c : Nat) (f : AFmt)
  /-- R218: MINU writes the unsigned minimum. -/
  | minu (c : Nat) (f : AFmt)
  /-- R218: MAXU writes the unsigned maximum. -/
  | maxu (c : Nat) (f : AFmt)
  /-- R218: MUL writes the low 32 bits of the product. -/
  | mul (c : Nat) (f : AFmt)
  /-- R218: MULH writes the high 32 bits of the signed product. -/
  | mulh (c : Nat) (f : AFmt)
  /-- R218: MULHU writes the high 32 bits of the unsigned product. -/
  | mulhu (c : Nat) (f : AFmt)
  /-- R212: MULS writes the product clipped to 32 bits. -/
  | muls (c : Nat) (f : AFmt)
  /-- R212: ABS writes the wrapping absolute value. -/
  | abs (c : Nat) (f : AFmt)
  /-- R212: ABSS writes the saturating absolute value. -/
  | abss (c : Nat) (f : AFmt)
  /-- R212: NEG writes the wrapping negation. -/
  | neg (c : Nat) (f : AFmt)
  /-- R212: NEGS writes the saturating negation. -/
  | negs (c : Nat) (f : AFmt)
  /-- R218: SLLS shifts left with saturation. -/
  | slls (c : Nat) (f : AFmt)
  /-- R217: ADDI adds a sign-extended immediate. -/
  | addi (c : Nat) (f : IFmt)
  /-- R217: ANDI ANDs a zero-extended immediate. -/
  | andi (c : Nat) (f : IFmt)
  /-- R217: ORI ORs a zero-extended immediate. -/
  | ori (c : Nat) (f : IFmt)
  /-- R217: XORI XORs a zero-extended immediate. -/
  | xori (c : Nat) (f : IFmt)
  /-- R217: LUI loads an upper immediate. -/
  | lui (c : Nat) (f : IFmt)
  /-- R217: The major-0x07 form of SLL shifts left by the B field. -/
  | sllImmediate (c : Nat) (f : AFmt)
  /-- R217: The major-0x07 form of SRL shifts logically right by the B field. -/
  | srlImmediate (c : Nat) (f : AFmt)
  /-- R217: The major-0x07 form of SRA shifts arithmetically right by the B field. -/
  | sraImmediate (c : Nat) (f : AFmt)
  /-- R217: The major-0x07 form of SLLS shifts left with saturation by the B field. -/
  | sllsImmediate (c : Nat) (f : AFmt)
  /-- R219: MAC adds a 16 × 16 product to an accumulator. -/
  | mac (c : Nat) (f : AccFmt)
  /-- R219: MSU subtracts a 16 × 16 product from an accumulator. -/
  | msu (c : Nat) (f : AccFmt)
  /-- R219: MACHH adds the product of the high halves to an accumulator. -/
  | machh (c : Nat) (f : AccFmt)
  /-- R219: ACCLD loads an accumulator with a shifted sign-extended register. -/
  | accld (c : Nat) (f : AccFmt)
  /-- R219: ACCX extracts an accumulator shifted right and narrowed to 32 bits. -/
  | accx (c : Nat) (f : AccFmt)
  /-- R219: ACCX16 extracts an accumulator narrowed to 16 bits and sign-extended. -/
  | accx16 (c : Nat) (f : AccFmt)
  /-- R219: ACCCLR clears an accumulator. -/
  | accclr (c : Nat) (f : AccFmt)
  /-- R213: MAXIX keeps the signed maximum and its index. -/
  | maxix (c : Nat) (f : IxFmt)
  /-- R213: MINIX keeps the signed minimum and its index. -/
  | minix (c : Nat) (f : IxFmt)
  /-- R213: MAXUX keeps the unsigned maximum and its index. -/
  | maxux (c : Nat) (f : IxFmt)
  /-- R213: MINUX keeps the unsigned minimum and its index. -/
  | minux (c : Nat) (f : IxFmt)
  /-- R214: BEXP writes the redundant sign bits of a register. -/
  | bexp (c : Nat) (f : IxFmt)
  /-- R214: BEXPM accumulates the minimum redundant sign bits. -/
  | bexpm (c : Nat) (f : IxFmt)
  /-- R214: BEXPA writes the normalising shift of an accumulator. -/
  | bexpa (c : Nat) (f : IxFmt)
  /-- R220: SAT16 clips a register to 16-bit range. -/
  | sat16 (c : Nat) (f : IxFmt)
  /-- R216: The conditional branch with COND EQZ branches when gA is zero. -/
  | beqz (c : Nat) (stop : Bool) (a : BitVec 5) (off : BitVec 18)
  /-- R216: The conditional branch with COND NEZ branches when gA is not zero. -/
  | bnez (c : Nat) (stop : Bool) (a : BitVec 5) (off : BitVec 18)
  /-- R216: The conditional branch with COND LTZ branches when gA is negative. -/
  | bltz (c : Nat) (stop : Bool) (a : BitVec 5) (off : BitVec 18)
  /-- R216: The conditional branch with COND GEZ branches when gA is not negative. -/
  | bgez (c : Nat) (stop : Bool) (a : BitVec 5) (off : BitVec 18)
  /-- R216: The conditional branch with COND GTZ branches when gA is positive. -/
  | bgtz (c : Nat) (stop : Bool) (a : BitVec 5) (off : BitVec 18)
  /-- R216: The conditional branch with COND LEZ branches when gA is not positive. -/
  | blez (c : Nat) (stop : Bool) (a : BitVec 5) (off : BitVec 18)
  /-- R216: BR branches unconditionally. -/
  | br (c : Nat) (stop : Bool) (off : BitVec 25)
  /-- R216: BAL branches and writes the return address to g31. -/
  | bal (c : Nat) (stop : Bool) (off : BitVec 25)
  /-- R215: LOOP starts a hardware loop level. -/
  | loop (c : Nat) (stop : Bool) (a : BitVec 5) (lvl : Bool) (last : BitVec 20)
  /-- R209: LD loads from TCM or a segment, with offset, linear or circular post-modify addressing. -/
  | ld (c : Nat) (f : MFmt)
  /-- R209: ST stores to TCM or, posted, through a segment. -/
  | st (c : Nat) (f : MFmt)
  /-- R210: CBSET sets the base and length of a circular buffer. -/
  | cbset (c : Nat) (stop : Bool) (n : BitVec 3) (a b : BitVec 5) (res : BitVec 13)
  /-- R217: NOP does nothing. -/
  | nop (c : Nat) (f : IFmt)
  /-- R221: TEND ends the task after vector and MXC drain and hands the output lengths to the dispatcher. -/
  | tend (c : Nat) (f : IFmt)
  /-- R221: FENCE stalls until every posted store has completed or faulted. -/
  | fence (c : Nat) (f : IFmt)
  /-- R223: TRAP raises a precise exception with a code that forms a signature. -/
  | trap (c : Nat) (f : IFmt)
  /-- R224: A posted segment store reports an error, raised imprecisely at the next fence, TEND or full buffer. -/
  | postedStoreError (c ea : Nat) (cause : Nat)
  /-- R402: A request has waited 4,096 cycles for its response and ends with a timeout to its requester. -/
  | interconnectTimeout (who : Requester) (addr : Nat)
  /-- R230: SPANSET sets VTYPE and grants the element count in SPAN and gD. -/
  | spanset (c : Nat) (stop : Bool) (d a : BitVec 5) (etype : BitVec 3) (grp : BitVec 2) (res : BitVec 5)
  /-- R248: VSYNC stalls until the vector queue has drained. -/
  | vsync (c : Nat) (f : VFmt)
  /-- R256: VMOVHW copies a Bruop-H register into the low bits of a Bruop-W register. -/
  | vmovhw (c : Nat) (f : VFmt)
  /-- R256: VMOVWH copies the low bits of a Bruop-W register into a Bruop-H register. -/
  | vmovwh (c : Nat) (f : VFmt)
  /-- R252: VADD adds elementwise. -/
  | vadd (c : Nat) (scalar : Bool) (f : VFmt)
  /-- R252: VSUB subtracts elementwise. -/
  | vsub (c : Nat) (scalar : Bool) (f : VFmt)
  /-- R252: VADDS adds with saturation. -/
  | vadds (c : Nat) (scalar : Bool) (f : VFmt)
  /-- R252: VSUBS subtracts with saturation. -/
  | vsubs (c : Nat) (scalar : Bool) (f : VFmt)
  /-- R252: VAND ANDs elementwise. -/
  | vand (c : Nat) (scalar : Bool) (f : VFmt)
  /-- R252: VOR ORs elementwise. -/
  | vor (c : Nat) (scalar : Bool) (f : VFmt)
  /-- R252: VXOR XORs elementwise. -/
  | vxor (c : Nat) (scalar : Bool) (f : VFmt)
  /-- R252: VANDN writes a AND NOT b. -/
  | vandn (c : Nat) (scalar : Bool) (f : VFmt)
  /-- R252: VSLL shifts left elementwise. -/
  | vsll (c : Nat) (scalar : Bool) (f : VFmt)
  /-- R252: VSRL shifts logically right elementwise. -/
  | vsrl (c : Nat) (scalar : Bool) (f : VFmt)
  /-- R252: VSRA shifts arithmetically right elementwise. -/
  | vsra (c : Nat) (scalar : Bool) (f : VFmt)
  /-- R252: VSLLS shifts left with saturation. -/
  | vslls (c : Nat) (scalar : Bool) (f : VFmt)
  /-- R252: VMIN takes the signed minimum. -/
  | vmin (c : Nat) (scalar : Bool) (f : VFmt)
  /-- R252: VMAX takes the signed maximum. -/
  | vmax (c : Nat) (scalar : Bool) (f : VFmt)
  /-- R252: VMINU takes the unsigned minimum. -/
  | vminu (c : Nat) (scalar : Bool) (f : VFmt)
  /-- R252: VMAXU takes the unsigned maximum. -/
  | vmaxu (c : Nat) (scalar : Bool) (f : VFmt)
  /-- R252: VABS takes the wrapping absolute value. -/
  | vabs (c : Nat) (scalar : Bool) (f : VFmt)
  /-- R252: VABSS takes the saturating absolute value. -/
  | vabss (c : Nat) (scalar : Bool) (f : VFmt)
  /-- R252: VNEG negates with wrapping. -/
  | vneg (c : Nat) (scalar : Bool) (f : VFmt)
  /-- R252: VNEGS negates with saturation. -/
  | vnegs (c : Nat) (scalar : Bool) (f : VFmt)
  /-- R252: VMUL keeps the low bits of the product. -/
  | vmul (c : Nat) (scalar : Bool) (f : VFmt)
  /-- R252: VMULH keeps the high bits of the signed product. -/
  | vmulh (c : Nat) (scalar : Bool) (f : VFmt)
  /-- R238: VMULQ forms the wrapping fixed-point product. -/
  | vmulq (c : Nat) (scalar : Bool) (f : VFmt)
  /-- R238: VMULQS forms the saturating fixed-point product. -/
  | vmulqs (c : Nat) (scalar : Bool) (f : VFmt)
  /-- R238: VCMUL forms the wrapping complex product. -/
  | vcmul (c : Nat) (scalar : Bool) (f : VFmt)
  /-- R238: VCMULS forms the saturating complex product. -/
  | vcmuls (c : Nat) (scalar : Bool) (f : VFmt)
  /-- R238: VCMULJ forms a × conj(b) with wrapping. -/
  | vcmulj (c : Nat) (scalar : Bool) (f : VFmt)
  /-- R238: VCMULJS forms a × conj(b) with saturation. -/
  | vcmuljs (c : Nat) (scalar : Bool) (f : VFmt)
  /-- R252: VCONJ conjugates complex elements. -/
  | vconj (c : Nat) (scalar : Bool) (f : VFmt)
  /-- R252: VMULJ multiplies complex elements by j. -/
  | vmulj (c : Nat) (scalar : Bool) (f : VFmt)
  /-- R252: VMOV copies a vector register. -/
  | vmov (c : Nat) (f : VFmt)
  /-- R252: VSPLAT broadcasts a scalar into a vector register. -/
  | vsplat (c : Nat) (f : VFmt)
  /-- R253: VMAC accumulates the low bits of a product. -/
  | vmac (c : Nat) (f : VFmt)
  /-- R253: VMSU subtracts the low bits of a product. -/
  | vmsu (c : Nat) (f : VFmt)
  /-- R253: VMACQ accumulates a fixed-point product with wrapping. -/
  | vmacq (c : Nat) (f : VFmt)
  /-- R253: VMACQS accumulates a fixed-point product with saturation. -/
  | vmacqs (c : Nat) (f : VFmt)
  /-- R253: VCMAC accumulates a complex product with wrapping. -/
  | vcmac (c : Nat) (f : VFmt)
  /-- R253: VCMACS accumulates a complex product with saturation. -/
  | vcmacs (c : Nat) (f : VFmt)
  /-- R253: VCMACJ accumulates vA × conj(vB) with wrapping. -/
  | vcmacj (c : Nat) (f : VFmt)
  /-- R253: VCMACJS accumulates vA × conj(vB) with saturation. -/
  | vcmacjs (c : Nat) (f : VFmt)
  /-- R253: VWMUL writes the exact wide product. -/
  | vwmul (c : Nat) (f : VFmt)
  /-- R253: VWMAC accumulates the exact wide product. -/
  | vwmac (c : Nat) (f : VFmt)
  /-- R253: VWCMAC accumulates the exact wide complex product. -/
  | vwcmac (c : Nat) (f : VFmt)
  /-- R253: VWCMACJ accumulates the exact wide conjugate product. -/
  | vwcmacj (c : Nat) (f : VFmt)
  /-- R253: VWIDEN sign-extends to the wide type. -/
  | vwiden (c : Nat) (f : VFmt)
  /-- R253: VNSRA narrows a wide operand by a right shift with wrapping. -/
  | vnsra (c : Nat) (f : VFmt)
  /-- R253: VNSRAS narrows a wide operand by a right shift with saturation. -/
  | vnsras (c : Nat) (f : VFmt)
  /-- R241: VLD loads elements at unit stride. -/
  | vld (c : Nat) (f : VMFmt)
  /-- R241: VST stores elements at unit stride. -/
  | vst (c : Nat) (f : VMFmt)
  /-- R241: VLDS loads elements at a register stride. -/
  | vlds (c : Nat) (f : VMFmt)
  /-- R241: VSTS stores elements at a register stride. -/
  | vsts (c : Nat) (f : VMFmt)
  /-- R241: VGATH gathers elements by index. -/
  | vgath (c : Nat) (f : VMFmt)
  /-- R241: VSCAT scatters elements by index in increasing order. -/
  | vscat (c : Nat) (f : VMFmt)
  /-- R242: VGATHF gathers up to the first ACCESS element and sets SPAN there. -/
  | vgathf (c : Nat) (f : VMFmt)
  /-- R255: VCMPEQ writes predicate bits for equal elements. -/
  | vcmpeq (c : Nat) (f : VFmt)
  /-- R255: VCMPNE writes predicate bits for unequal elements. -/
  | vcmpne (c : Nat) (f : VFmt)
  /-- R255: VCMPLT writes predicate bits for signed less-than. -/
  | vcmplt (c : Nat) (f : VFmt)
  /-- R255: VCMPLE writes predicate bits for signed less-or-equal. -/
  | vcmple (c : Nat) (f : VFmt)
  /-- R255: VCMPLTU writes predicate bits for unsigned less-than. -/
  | vcmpltu (c : Nat) (f : VFmt)
  /-- R255: VCMPLEU writes predicate bits for unsigned less-or-equal. -/
  | vcmpleu (c : Nat) (f : VFmt)
  /-- R255: KAND ANDs two predicates. -/
  | kand (c : Nat) (f : VFmt)
  /-- R255: KOR ORs two predicates. -/
  | kor (c : Nat) (f : VFmt)
  /-- R255: KXOR XORs two predicates. -/
  | kxor (c : Nat) (f : VFmt)
  /-- R255: KANDN writes kA AND NOT kB. -/
  | kandn (c : Nat) (f : VFmt)
  /-- R255: KNOT inverts a predicate. -/
  | knot (c : Nat) (f : VFmt)
  /-- R255: KSET sets predicate bits to 1. -/
  | kset (c : Nat) (f : VFmt)
  /-- R239: VREDMAXIX reduces to the signed maximum and its lowest index. -/
  | vredmaxix (c : Nat) (f : VFmt)
  /-- R239: VREDMINIX reduces to the signed minimum and its lowest index. -/
  | vredminix (c : Nat) (f : VFmt)
  /-- R239: VREDMAXUX reduces to the unsigned maximum and its lowest index. -/
  | vredmaxux (c : Nat) (f : VFmt)
  /-- R239: VREDMINUX reduces to the unsigned minimum and its lowest index. -/
  | vredminux (c : Nat) (f : VFmt)
  /-- R239: VBEXP returns the block exponent of the active elements. -/
  | vbexp (c : Nat) (f : VFmt)
  /-- R255: VREDSUM sums the active elements into a general register. -/
  | vredsum (c : Nat) (f : VFmt)
  /-- R255: VMVG moves one element to a general register. -/
  | vmvg (c : Nat) (f : VFmt)
  /-- R255: VMVV writes one element from a general register. -/
  | vmvv (c : Nat) (f : VFmt)
  /-- R255: KPOPC counts the set bits of a predicate. -/
  | kpopc (c : Nat) (f : VFmt)
  /-- R255: KFIRST returns the lowest set bit of a predicate. -/
  | kfirst (c : Nat) (f : VFmt)
  /-- R255: VIOTA writes each element's index. -/
  | viota (c : Nat) (f : VFmt)
  /-- R246: A recorded vector fault is delivered imprecisely to the first bundle reaching WB, ending the task. -/
  | vectorFaultDelivery (c : Nat)
  /-- R265: MXMAC adds mA × mB to a z tile. -/
  | mxmac (c : Nat) (f : XFmt)
  /-- R265: MXMACH adds mA^H × mB to a z tile. -/
  | mxmach (c : Nat) (f : XFmt)
  /-- R265: MXMUL writes mA × mB to a z tile. -/
  | mxmul (c : Nat) (f : XFmt)
  /-- R265: MXMULH writes mA^H × mB to a z tile. -/
  | mxmulh (c : Nat) (f : XFmt)
  /-- R265: MXMSU subtracts mA × mB from a z tile. -/
  | mxmsu (c : Nat) (f : XFmt)
  /-- R275: MXCLR clears a z tile. -/
  | mxclr (c : Nat) (f : XFmt)
  /-- R265: MXPACK narrows a z tile into an m tile. -/
  | mxpack (c : Nat) (f : XFmt)
  /-- R275: MXTRN transposes an m tile. -/
  | mxtrn (c : Nat) (f : XFmt)
  /-- R275: MXHERM conjugate-transposes an m tile. -/
  | mxherm (c : Nat) (f : XFmt)
  /-- R265: MXRD reads one z element into a register pair. -/
  | mxrd (c : Nat) (f : XFmt)
  /-- R265: MXBEXP returns the block exponent of a z tile. -/
  | mxbexp (c : Nat) (f : XFmt)
  /-- R275: MXWR writes one element of an m tile. -/
  | mxwr (c : Nat) (f : XFmt)
  /-- R266: MXLD loads an m tile from TCM. -/
  | mxld (c : Nat) (f : XFmt)
  /-- R271: MXST stores an m tile to TCM after commit. -/
  | mxst (c : Nat) (f : XFmt)
  /-- R271: MXSTZ stores a narrowed z tile to TCM after commit. -/
  | mxstz (c : Nat) (f : XFmt)
  /-- R258: MXLOCK requests the quad's MXC lock and stalls until granted. -/
  | mxlock (c : Nat) (f : XFmt)
  /-- R259: MXUNLOCK releases the MXC lock after drain. -/
  | mxunlock (c : Nat) (f : XFmt)
  /-- R272: MXSAVE writes the holder's MXC state to TCM. -/
  | mxsave (c : Nat) (f : XFmt)
  /-- R272: MXRESTORE loads the holder's MXC state from TCM. -/
  | mxrestore (c : Nat) (f : XFmt)
  /-- R271: MXSYNC stalls until every older MXC operation is applied and stores complete. -/
  | mxsync (c : Nat) (f : XFmt)
  /-- R258: The MXC grants its lock to the oldest waiting core 2 cycles after release, clearing the tiles. -/
  | mxcLockGrant (m : Nat)
  /-- R261: A rank-1 task has waited MXC_WAIT_EVICT cycles for the lock and the lower-ranked holder is evicted. -/
  | mxcWaitEvict (m : Nat)
  /-- R270: An MXC operation begun before a squash runs to its end and the MXC resumes accepting and granting. -/
  | mxcSquashDrainEnd (m : Nat)
  /-- R273: An imprecise MXC error is delivered to the first bundle reaching WB. -/
  | mxcImpreciseError (c : Nat) (code : Nat) (addr : Nat)
  /-- R286: An idle decoder takes an LDPC decode entry, combining with the HARQ soft buffer and decoding each block. -/
  | ldpcDecode (n : Nat)
  /-- R289: An idle encoder takes an LDPC encode entry and writes rate-matched blocks. -/
  | ldpcEncode (n : Nat)
  /-- R290: An idle polar engine takes a decode entry and runs CRC-aided list decoding. -/
  | polarDecode (n : Nat)
  /-- R290: An idle polar engine takes an encode entry and writes E coded bits. -/
  | polarEncode (n : Nat)
  /-- R291: An idle FFT engine takes an FFT entry and writes the bins used. -/
  | fft (n : Nat)
  /-- R291: An idle FFT engine takes an iFFT entry and writes time samples with cyclic prefix. -/
  | ifft (n : Nat)
  /-- R297: An engine entry finishes, writing its output and result words after the end-to-end check, or reports an error for replay. -/
  | engineEntryEnd (kind n : Nat) (fail : Option Nat)
  /-- R298: An entry's engine watchdog expires and the entry ends with WATCHDOG. -/
  | engineWatchdog (kind n : Nat)
  /-- R313: A free modem slice takes a receive entry and hunts, demodulates and records bursts on the channel. -/
  | nbReceive (n : Nat)
  /-- R321: A free modem slice takes a transmit entry, shapes the burst and checks the spectral mask. -/
  | nbTransmit (n : Nat)
  /-- R322: A withdrawn modem slice finishes its 1 ms built-in test and returns to service or stays withdrawn. -/
  | nbSliceBistDone (n : Nat) (passed : Bool)
  /-- R305: A write of a narrowband profile, its taps or a channel record is refused while an unfinalised task uses it. -/
  | nbConfigWrite (r : CleipReq)
  /-- R334: A write of GROUP_ENABLE powers a lane group on, starting its lanes in HUNT, or powers it off. -/
  | groupEnable (r : CleipReq)
  /-- R334: A 264-bit block is received on a lane and its header advances the lane's state machine. -/
  | laneBlockReceived (lane : Nat) (header upper lower : List Bool)
  /-- R334: A lane in HUNT counts 64 consecutive valid headers and becomes LOCKED. -/
  | laneLock (lane : Nat)
  /-- R334: A lane sees 16 invalid headers within 64 blocks, or no signal for 1 µs, and returns to HUNT. -/
  | laneLockLoss (lane : Nat) (noSignal : Bool)
  /-- R335: A filler row is received, deleted and used to place each lane for deskew. -/
  | fillerRow (group : Nat) (skews : List Nat)
  /-- R338: DESKEW_MAX block times after the earliest lane, a data row is released with erased blocks reconstructed or flagged absent. -/
  | rowRelease (group : Nat)
  /-- R333: LANE_CMD command 1 slips a lane under manual search. -/
  | laneCmdSlip (r : CleipReq)
  /-- R339: LANE_CMD command 2 moves a NORMAL lane to VERIFY. -/
  | laneCmdDrain (r : CleipReq)
  /-- R339: LANE_CMD command 3 starts verification of a DRAINED lane back to NORMAL. -/
  | laneCmdRestore (r : CleipReq)
  /-- R342: A write of LANE_CONFIG sets polarity, electrical settings, loopback or PRBS on a lane. -/
  | laneConfig (r : CleipReq)
  /-- R329: At a row boundary the lane group transmits a data row with parity, or a filler row. -/
  | laneRowTransmit (group : Nat)
  /-- R358: A basic frame is received and the framer, header checks, DELAY and container bits are processed. -/
  | basicFrameReceived (link : Nat)
  /-- R357: A section is parsed from the section stream and its resource blocks are landed or discarded. -/
  | sectionReceived (link : Nat)
  /-- R360: The device transmits a basic frame, with RDI in BF0 while LOF or LOM is declared. -/
  | basicFrameTransmit (link : Nat)
  /-- R367: A queued section is sent on its link in order, or discarded if it is too late. -/
  | sectionTransmit (queue : Nat)
  /-- R392: A container sample is sent from its transmit version no later than its air time less TX_ADVANCE. -/
  | containerSampleTransmit (cont : Nat)
  /-- R359: A defect's set condition has held for its set time and the defect is declared. -/
  | defectSet (link defect : Nat)
  /-- R359: A defect's clear condition has held for its clear time and the defect clears. -/
  | defectClear (link defect : Nat)
  /-- R369: A management-channel response is received from a radio unit and matched by TID. -/
  | mcMessageReceived (link : Nat) (bytes : List Byte)
  /-- R370: A management-channel request has no response within MC_TIMEOUT and is retried or reported as TIMEOUT. -/
  | mcTimeout (link : Nat)
  /-- R514: RU_POLL passes and the radio unit's identity and life objects are read. -/
  | ruPoll (link : Nat)
  /-- R364: LATE_MAX after a slot ends, its fronthaul version is sealed and unreceived items are written as zeros and marked absent. -/
  | versionSeal (v : Nat)
  /-- R387: A receive version's retention period has passed and no job holds it, so its buffer returns to the shadow set. -/
  | versionRetainExpiry (v : Nat)
  /-- R372: An eCPRI type 0 message carrying one data section is received. -/
  | ecpriIqData (port : Nat) (src : Peer) (form : EcpriForm) (id seqId : BitVec 16) (bytes : List Byte)
  /-- R372: An eCPRI type 2 message carrying one control section is received. -/
  | ecpriRtControl (port : Nat) (src : Peer) (form : EcpriForm) (id seqId : BitVec 16) (bytes : List Byte)
  /-- R371: An eCPRI type 5 one-way delay message is answered. -/
  | ecpriDelayMeasurement (port : Nat) (src : Peer) (form : EcpriForm) (action ident : Nat) (t2 : Nat)
  /-- R375: A write of LINK_CONFIG enables or configures a link. -/
  | linkConfig (r : CleipReq)
  /-- R353: A write of TD_CONTAINERS is checked for rate, area and overlap. -/
  | tdContainers (r : CleipReq)
  /-- R381: A write of ANVIL_POOL_ROLE sets the roles of Anvil pools. -/
  | anvilPoolRole (r : CleipReq)
  /-- R384: A write of FH_CELL configures frequency-domain landing for a cell. -/
  | fhCell (r : CleipReq)
  /-- R386: A write of TD_LANDING names the receive and transmit pools of containers. -/
  | tdLanding (r : CleipReq)
  /-- R399: A write of a channel's DOORBELL starts a chain from IDLE or re-reads a parked descriptor. -/
  | doorbell (chan : Nat) (addr : BitVec 40)
  /-- R399: A write of CHAN_RESET stops a channel within 200 ns and returns it to IDLE. -/
  | chanReset (chan : Nat)
  /-- R399: A fetched descriptor is checked for OWN and the chain limit and its transfer begins or the channel halts. -/
  | dmaDescriptorFetched (chan : Nat)
  /-- R397: A descriptor with OP 0 copies LEN bytes. -/
  | dmaCopy (chan : Nat)
  /-- R397: A descriptor with OP 1 fills LEN bytes with a pattern. -/
  | dmaFill (chan : Nat)
  /-- R397: A descriptor with OP 2 interleaves antenna streams. -/
  | dmaAntennaInterleave (chan : Nat)
  /-- R397: A descriptor with OP 3 de-interleaves antenna streams. -/
  | dmaAntennaDeinterleave (chan : Nat)
  /-- R397: A descriptor with OP 4 splits elements into bit planes. -/
  | dmaBitPlaneSplit (chan : Nat)
  /-- R397: A descriptor with OP 5 merges bit planes into elements. -/
  | dmaBitPlaneMerge (chan : Nat)
  /-- R400: A descriptor's transfer ends, is written back and the end-check read issues, or an error halts the channel. -/
  | dmaTransferEnd (chan : Nat)
  /-- R399: A parked channel's end-check read returns and the channel fetches NEXT or stays parked. -/
  | endCheckReturn (chan : Nat)
  /-- R416: Drizzle reads the next code word in an idle bank cycle, correcting or re-reading and poisoning as needed. -/
  | drizzleRead (unit : Nat) (found : Option BadWord)
  /-- R418: A Drizzle lap ends above, or runs past, its limit and ALARM is set. -/
  | drizzleLapLimit (unit : Nat)
  /-- R417: Firmware finishes rewriting both master copies of a code image from flash, or declares the image lost. -/
  | codeImageRewriteDone (image : Nat) (ok : Bool)
  /-- R422: A DRAM fast fill completes and the pool or region it serves is configured. -/
  | fastFillDone (what : Nat)
  /-- R427: T_REFI passes and a rank is refreshed. -/
  | dramRefresh (rank : Nat)
  /-- R427: A rank idle for RANK_PD_IDLE clocks enters power-down. -/
  | rankPowerDown (rank : Nat)
  /-- R424: A write of DRAM_CONFIG records a geometry for the next cold reset. -/
  | dramConfig (r : CleipReq)
  /-- R428: A write of TSA or TSB sets the inactive DRAM timing set. -/
  | timingSetWrite (r : CleipReq)
  /-- R430: A write of DRAM_DELAYS sets lane delays of the inactive set. -/
  | dramDelays (r : CleipReq)
  /-- R428: A write of DRAM_FREQ_CMD starts switching channels to the inactive timing set. -/
  | dramFreqCmd (r : CleipReq)
  /-- R428: A channel finishes its frequency change and held requests are released. -/
  | dramFreqChangeDone (chan : Nat)
  /-- R440: At each multiple of 1,000 ns the time unit sends a beat with time, increment and any step to every island. -/
  | timeBeat
  /-- R440: An island receives no beat for 4 µs and sets BEAT_ALARM. -/
  | beatTimeout (island : Nat)
  /-- R363: A device-time second boundary latches counters, raises PPS_OUT and evaluates degraded seconds. -/
  | secondBoundary
  /-- R511: A device-time day boundary updates every module's drift history and REPLACE_BY. -/
  | dayBoundary
  /-- R436: The selected 10 MHz input fails and the time clock moves to the system reference. -/
  | ref10mhzLoss
  /-- R441: A write of TIME_SET steps device time when a step is permitted. -/
  | timeSet (r : CleipReq)
  /-- R441: A write of ADJUST slews or steps device time. -/
  | adjust (r : CleipReq)
  /-- R442: A write of INCREMENT sets the time increment under host servo. -/
  | increment (r : CleipReq)
  /-- R450: A write of ACTIVE_DOMAIN switches the steering domain seamlessly. -/
  | activeDomain (r : CleipReq)
  /-- R436: A write of TIME_REF_SEL selects the time reference and clears REF_LOST. -/
  | timeRefSel (r : CleipReq)
  /-- R458: A write of PTP_DOMAIN sets a domain number, refusing equal values for TA and TB. -/
  | ptpDomain (r : CleipReq)
  /-- R449: A write of TC_DOMAINS sets the domains forwarded as transparent clock. -/
  | tcDomains (r : CleipReq)
  /-- R444: A Sync exchange completes and the domain's offset is estimated and its state advanced. -/
  | ptpSync (src : SyncFrom) (port : Nat) (t1 t2 t3 t4 : Int) (correction : Int)
  /-- R446: An Announce is received and the BMCA re-evaluates the master. -/
  | ptpAnnounce (port : Nat) (head : PtpHead) (a : Announce)
  /-- R446: A Delay_Req is received on a MASTER port and answered. -/
  | ptpDelayReq (port : Nat) (head : PtpHead) (requester : Nat) (correction : Int)
  /-- R444: No Announce arrives within the receipt timeout and the domain enters HOLDOVER. -/
  | announceReceiptTimeout (tb : Bool)
  /-- R446: The interval of Announce, Sync or Delay_Req passes and the message is sent. -/
  | ptpMessageTransmit (tb : Bool) (port kind : Nat)
  /-- R449: A PTP frame of a TC domain is forwarded to the other port with residence time added. -/
  | tcForward (port dstMac domain kind : Nat) (residence : Int) (frame : List Byte)
  /-- R452: A rising edge of PPS_IN is timestamped and PPS_IN_OFFSET updated. -/
  | ppsInEdge (t : Nat)
  /-- R445: The active domain has been in HOLDOVER for HOLDOVER_LIMIT and HOLDOVER_EXCEEDED is set. -/
  | holdoverLimit
  /-- R508: OM_POLL passes and every enabled module position is read and its hours counted. -/
  | omPoll (pos : Nat) (reading : Option ModuleReading)
  /-- R507: A write of MODULE_MAP maps a module position's host lanes to fronthaul lanes. -/
  | moduleMap (r : CleipReq)
  /-- R512: OPTICS_CMD drain issues drain commands on every mapped lane of a position. -/
  | opticsCmdDrain (r : CleipReq)
  /-- R512: OPTICS_CMD restore issues restore commands on every mapped lane of a position. -/
  | opticsCmdRestore (r : CleipReq)
  /-- R517: A write of POWER_TARGET starts Dusk to P2 or Dawn from P2. -/
  | powerTarget (r : CleipReq)
  /-- R517: A write of 1 to DEEP_CMD starts Dusk to P3. -/
  | deepCmd (r : CleipReq)
  /-- R521: A block votes on its Dusk prepare, passing the prepare on or refusing the Dusk. -/
  | duskVote (flashFails : Bool)
  /-- R522: A block has not voted within 50 µs and refuses with reason 0x01. -/
  | duskVoteTimeout
  /-- R524: After the point of no return the islands are off and retention CRCs written, completing entry. -/
  | duskEntryComplete
  /-- R528: The always-on regulator reaches normal mode during Dawn and the retention check starts. -/
  | aonRegRdy
  /-- R528: The island power switches have closed during Dawn. -/
  | pswRdy
  /-- R528: Every island PLL has locked during Dawn and the SRAM fill starts. -/
  | pllLock
  /-- R528: The fill and retention check complete during Dawn, clamps are released and a restart follows. -/
  | memRdy (badBanks : List Nat)
  /-- R530: A rising edge on WAKE high for 1 µs wakes the device from P2 or P3. -/
  | wakeEdge
  /-- R530: Device time reaches WAKE_ALARM and the device wakes. -/
  | wakeAlarm
  /-- R533: The always-on supply falls below its brown-out threshold for 2 µs and Dawn starts with source 6. -/
  | aonBrownout
  /-- R520: Every instance of an engine island has been idle for GATE_IDLE and the island is gated. -/
  | engineIslandGate (island : Nat)
  /-- R519: An access or pending entry reaches a gated island and wakes it. -/
  | gatedIslandWake (island : Nat) (badBanks : List Nat)
  /-- R539: VIN_MAIN falls below 1.70 V and the always-on regulator switches to VIN_BKUP. -/
  | vinMainLow
  /-- R539: VIN_MAIN has stayed at or above 1.72 V for 10 ms and the regulator switches back. -/
  | vinMainRestored
  /-- R540: Every 1 ms VIN_BKUP is measured and BKUP_OK updated. -/
  | bkupOkMeasure (mv : Nat)
  /-- R541: VIN_BKUP falls below 2.6 V for 2 µs while powering the island and its contents are lost. -/
  | vinBkupLoss
  /-- R542: PWR_GOOD falls while RESET_N is high and every island except I47 is clamped and held in reset. -/
  | pwrGoodFall
  /-- R542: PWR_GOOD rises again after a main power loss and a restart with cause 0x02 begins. -/
  | pwrGoodRise
  /-- R547: RESET_N falls for at least 10 µs and a warm reset begins with DRAM entering self-refresh. -/
  | resetNFall
  /-- R547: RESET_N is still low 100 ms after its fall and the reset becomes cold. -/
  | resetNCold
  /-- R552: RESET_N is released and the device boots cold from flash or warm from the DRAM copy. -/
  | resetNRelease (fpEn aui0 aui1 : Bool)
  /-- R554: Boot reaches its serviceable step and the device grants credit, starts links and PTP and answers Cleip. -/
  | serviceable
  /-- R547: A write of 1 to RESET_CMD starts a warm reset after the response. -/
  | resetCmdWarm (r : CleipReq)
  /-- R547: A write of 2 to RESET_CMD starts a cold reset after the response. -/
  | resetCmdCold (r : CleipReq)
  /-- R566: The always-on island detects loss of SYS_REFCLK and asserts ALERT_N. -/
  | sysRefclkLoss
  /-- R558: An island reads above 105 °C, or all return to 103 °C, and ALERT_N is asserted or released. -/
  | temperatureAlarm (hot : Bool)
  /-- R105: The PCS of a down Ethernet port reports link up and alignment, the port enters PORT_STATE 2 and the PORT condition of Overcast stops holding. -/
  | portUp (port : Nat)
  /-- R96: The pause time of a received IEEE 802.1Qbb pause runs out and transmission and retransmission timers on that priority resume. -/
  | pfcPauseExpiry (port prio : Nat)
  /-- R423: The registering clock driver reports a command parity error, the command is retried up to 3 times and the subchannel is lost if it still fails. -/
  | commandParityError (sub : Nat) (retryOk : Bool)
  /-- R173: A supervisor switch-over completes, ending BUSY answers and resuming learning, DVFS, gating, migration, the time increment and lane searches. -/
  | switchOverComplete
  /-- R452: No PPS_IN edge arrives within 1 s plus 1 ms of the last one and PPS_IN_PRESENT clears. -/
  | ppsInEdgeMissing
  /-- R538: VIN_MAIN or VIN_BKUP first comes into range with I47 unpowered, I47 leaves its power-on reset and the real-time counter starts. -/
  | alwaysOnPowerOn (mainOk : Bool) (bkupMv : Nat)
  /-- R487: The factory port enters Test-Logic-Reset through TRST_N or TMS, ending any Cleip transfer so the next appended byte starts a new one. -/
  | testLogicReset
  deriving DecidableEq, Repr

end Sys2Proof
end

