-- ==== Sys2Proof/Decode.lean ====
section
/-!
DEFINITION. The command that a word of the table's bits spells, and the formats of the words of a core's instruction
memory. No row of the command table gives bits (the block takes its commands on ports, pins and timers), so no word spells a
command by the table; the codes of Bruop words stand in Machine/Fetch.lean.
-/
namespace Sys2Proof

/-- The command that a word spells by the bits of the table: none, since no row has bits. -/
def decodeTableWord (_nbits _w : Nat) : Option Instr := none

/-! ## Fields of Bruop words (R216, R250, R274) -/

/-- S: the stop bit (R196). -/
def wordStop (w : BitVec 32) : Bool := w.getLsbD 31
/-- MAJ: the major opcode. -/
def wordMajor (w : BitVec 32) : Nat := (w.extractLsb' 26 5).toNat
/-- D. -/
def wordD (w : BitVec 32) : BitVec 5 := w.extractLsb' 21 5
/-- A. -/
def wordA (w : BitVec 32) : BitVec 5 := w.extractLsb' 16 5
/-- B. -/
def wordB (w : BitVec 32) : BitVec 5 := w.extractLsb' 11 5
/-- FN of formats V, VS and X. -/
def wordFn (w : BitVec 32) : Nat := (w.extractLsb' 0 6).toNat

/-- Format A. -/
def aFmt (w : BitVec 32) : AFmt := { stop := wordStop w, d := wordD w, a := wordA w, b := wordB w }
/-- Format A of the accumulator group (R219). -/
def accFmt (w : BitVec 32) : AccFmt :=
  { stop := wordStop w, d := wordD w, a := wordA w, b := wordB w, acc := w.extractLsb' 6 2, sat := w.getLsbD 5
    k := w.extractLsb' 0 5 }
/-- Format A of the min/max and block-exponent group (R220). -/
def ixFmt (w : BitVec 32) : IxFmt :=
  { stop := wordStop w, d := wordD w, a := wordA w, b := wordB w, low := w.extractLsb' 0 6 }
/-- Format I. -/
def iFmt (w : BitVec 32) : IFmt := { stop := wordStop w, d := wordD w, a := wordA w, imm := w.extractLsb' 0 16 }
/-- Format M. -/
def mFmt (w : BitVec 32) : MFmt :=
  { stop := wordStop w, d := wordD w, a := wordA w, sz := w.extractLsb' 13 3, mode := w.extractLsb' 11 2
    cb := w.extractLsb' 8 3, off := w.extractLsb' 0 8 }
/-- Format V (R250). -/
def vFmt (w : BitVec 32) : VFmt :=
  { stop := wordStop w, d := wordD w, a := wordA w, b := wordB w, u := w.getLsbD 10, pm := w.getLsbD 9
    k := w.extractLsb' 6 3 }
/-- Format VM (R250). -/
def vmFmt (w : BitVec 32) : VMFmt :=
  { stop := wordStop w, d := wordD w, a := wordA w, b := wordB w, u := w.getLsbD 10, pm := w.getLsbD 9
    k := w.extractLsb' 6 3, low := w.extractLsb' 0 3 }
/-- Format X (R274). -/
def xFmt (w : BitVec 32) : XFmt :=
  { stop := wordStop w, d := wordD w, a := wordA w, b := wordB w, k := w.extractLsb' 6 5 }

end Sys2Proof
end

