-- ==== Sys2Proof/Config.lean ====
section
/-!
DEFINITION. What the spec leaves open: free values as opaque constants with no body, so that no proof can see a value.
Nothing in Lean can evaluate them.
-/
namespace Sys2Proof.Config

/-- A value the spec does not state, drawn by its number in the order of use (assumption 5). -/
opaque freeNat : Nat → Nat

/-- The fused key K0 (R494), byte by byte. -/
opaque k0 : Nat → BitVec 8

/-- The JESD216 parameter table of the boot flash on the board (R548, R565). -/
opaque jesd216 : List Byte

/-- The mode-switch sequence that a JESD216 table gives (R565). -/
opaque xspiSwitch (table : List Byte) : List Byte

/-- The dummy cycles for 200 MHz that a JESD216 table gives (R565). -/
opaque xspiDummy (table : List Byte) : Nat

/-- DRAM_RESERVED: bytes at the top of DRAM that the device holds for its own regions, which the firmware release and the
DRAM geometry in effect fix (R102, R109 gives no value). -/
opaque dramReserved (release geometry : Nat) : Nat

/-- Bytes of the DRAM timing sets and delays that the boot image carries (R428, R430), by object key and offset. -/
opaque bootByte : Nat → Nat → BitVec 8

/-- LATE_MAX for a cell carried by an eCPRI virtual link: R364 names LATE_MAX, and R375 gives it for lane links only. -/
opaque ecpriLateMax : Nat

/-- TX_ADVANCE for a virtual link: R367 names it, and R375 gives it for lane links only. -/
opaque ecpriTxAdvance : Nat

/-- The code image whose master copy holds a DRAM line, and the same line of the other copy (R417); none elsewhere. -/
opaque codeLine (line : Nat) : Option (Nat × Nat)

/-- Base-graph entry of TS 38.212 that R286 names: base graph 2 or 1, lifting size, row and column; none where the graph
has no edge, else the circular shift. -/
opaque ldpcShift (bg2 : Bool) (z row col : Nat) : Option Nat

/-- The polar reliability order of TS 38.212 (Q of clause 5.3.1.2) and its input interleaving pattern of 164 (clause
5.3.1.1), which R290 rests on. -/
opaque polarReliability (i : Nat) : Nat
opaque polarIil (m : Nat) : Nat

/-- The arithmetic of the list decoder, which R290 does not state: the soft value of the modulo-2 sum of two bits, that of the
second bit once the sum is known, the metric of a path after a bit is taken against its soft value, the order among paths of
one metric, and the index by which a path is named. -/
opaque polarSum (a b : Int) : Int
opaque polarSecond (a b : Int) (sum : Bool) : Int
opaque polarMetric (metric : BitVec 32) (soft : Int) (bit : Bool) : BitVec 32
opaque polarTie (taken : List Bool) : Nat
opaque polarIndex (paths : List (List Bool)) (place : Nat) : Nat

/-- Fraction bits of an 18-bit twiddle factor (R292). -/
opaque twiddleFrac : Nat

/-- The radices of the stages of a transform of n samples, in order, where their product is n (R292). -/
opaque fftRadices (n : Nat) : List Nat

/-- A part after a stage that 24 bits cannot hold (R292). -/
opaque fftOver (v : Int) : BitVec 24

/-- Sample t of the Gaussian frequency pulse for BT in 1/100, samples per symbol and a span of symbols (R304). -/
opaque nbGauss (bt sps span t : Nat) : Nat

/-- A part of a sample that the AGC scales stands above the whole number below its exact value; and a part under a gain
measured over samples that are all zero (R309). -/
opaque nbAgcUp (v : Int) (sum count : Nat) : Bool
opaque nbAgcIdle (v : Int) : Int

/-- The discriminator's output at sample i of samples that the AGC has scaled (R309). -/
opaque nbDiscriminator (x : List (Int × Int)) (i : Nat) : Int

/-- Which level of the modulation a hard decision takes, for a profile, the area of its pulse and the matched filter's output,
at a sample position under estimates of timing and frequency; and the size of the soft value of one of the symbol's bits
(R304, R311). -/
opaque nbSliced (profile : Nat) (area : Int) (y : List Int) (pos timing freq : Int) : BitVec 2
opaque nbSoftSize (profile : Nat) (area : Int) (y : List Int) (pos timing freq : Int) (bit : Nat) : BitVec 7

/-- Error of the timing and of the frequency estimate at a symbol whose level is known or decided, in 1/256 sample and in
1/65,536 of the symbol rate (R311). -/
opaque nbTimingErr (profile : Nat) (area : Int) (y : List Int) (pos timing freq level : Int) : Int
opaque nbFreqErr (profile : Nat) (area : Int) (y : List Int) (pos timing freq level : Int) : Int

/-- Correlation with the sync pattern at a sample position, and the fractional timing of a detection in 1/16 sample (R310). -/
opaque nbCorrelation (profile : Nat) (area : Int) (y : List Int) (pos : Nat) : Nat
opaque nbFraction (profile : Nat) (area : Int) (y : List Int) (pos : Nat) : BitVec 4

/-- Unclipped frequency offset over the sync word in 1/65,536 of the symbol rate; and the SNR estimate in 0.25 dB (R311,
R319). -/
opaque nbFreq (profile : Nat) (area : Int) (y : List Int) (pos : Nat) : Int
opaque nbSnr (profile : Nat) (area : Int) (y : List Int) (pos symbols : Nat) : BitVec 8

/-- Byte i of a SLOT_EMPTY record where the spec states none (R312, R319). -/
opaque nbEmptyByte (profile : Nat) (area : Int) (y : List Int) (i : Nat) : BitVec 8

/-- The 16-bit part of a sample for a part of a carrier of amplitude 1, in the fixed point of Machine/Trig.lean: full scale
and rounding (R321). -/
opaque nbSample (v : Int) : BitVec 16

/-- The mask check's window and the distance between its segments, and the bins of a profile's occupied band (R321). -/
opaque nbWindow (t : Nat) : Int
opaque nbHop : Nat
opaque nbOccupied (profile bin : Nat) : Bool

/-- d of R511 of a lane whose baseline bias is 0, and the DRIFT byte of a d outside 0 to 255. -/
opaque driftNoBase (bias : Nat) : Int
opaque driftByte (d : Int) : BitVec 8

/-- clockIdentity of the boundary clock of a PTP domain, which the spec does not give (R446, R447). -/
opaque clockIdentity (domain : Nat) : Nat

/-- Whether a parity error strikes a DMA engine's data path during a transfer, by the count of free values drawn (R401). -/
opaque dataPathFails (n : Nat) : Bool

end Sys2Proof.Config
end

