-- ==== Sys2Proof/Machine/State.lean ====
section
/-!
DEFINITION. The state of the M5: every register, queue, buffer, counter, mode and pin that the spec gives the block,
as plain data, with the queue of waiting commands. A docstring names the rule of the spec that gives each piece; where
the spec gives no reset value the log entry is named at State.reset. Maps from numbers are lists of pairs with rising
keys; an unlisted key stands for the default named at its reader in Machine/Ops.lean.
-/
namespace Sys2Proof.Machine

/-! ## Part and identity (01) -/

/-- The three ordering variants of R10. -/
inductive Variant where
  | m5f | m5h | m5e
  deriving DecidableEq, Repr

/-- What fuses fix for one part (R10, R12, R488, R112, R551). -/
structure Part where
  /-- VARIANT (R12); the shipped variant. -/
  variant : Variant
  /-- SERIAL (R12), 64 bits. -/
  serial : Nat
  /-- PORT_MAC of E0 from fuses (R112), 48 bits. -/
  mac0 : Nat
  /-- PORT_MAC of E1 from fuses (R112), 48 bits. -/
  mac1 : Nat
  /-- Cores fused out of service; empty on a full part (R10). -/
  fusedCores : List Nat
  deriving DecidableEq, Repr

/-! ## Jobs, records, buffers and the journal (02) -/

/-- A job descriptor, field by field (R28). -/
structure Desc where
  sqid : Nat
  seq : BitVec 32
  graph : Nat
  prot : Bool
  guaranteed : Bool
  timed : Bool
  cell : Nat
  deadline : Nat
  budget : Nat
  inH : List Nat
  outH : List Nat
  param : List Nat
  deriving DecidableEq, Repr

/-- A completion record, field by field (R47). -/
structure Rec where
  seq : BitVec 32
  status : Nat
  lateRelease : Bool
  migrated : Bool
  voted : Bool
  shadowed : Bool
  replayed : Bool
  regionKind : Nat
  regionId : Nat
  finish : Nat
  attempts : Nat
  outValid : Nat
  outLen : List Nat
  deriving DecidableEq, Repr

/-- The body of a journal entry or mirror entry (R57, R176, R177). -/
inductive JBody where
  | accept (d : Desc) (epochK : Nat)
  | final (r : Rec) (bufs : List Nat) (acceptSlot : Nat) (finTime : Nat) (relLate : Bool)
  | marker (bytes : List Nat)
  deriving DecidableEq, Repr

/-- One copy of a journal entry with the tag fields of R56. -/
structure JEntry where
  kind : Nat
  started : Bool
  sqid : Nat
  seq : BitVec 32
  crc : Nat
  body : JBody
  deriving DecidableEq, Repr

/-- How a pinned or current version of a handle stands (R35 to R37, R62, R170). -/
inductive VerState where
  | pending | valid | absent | lost | damaged
  deriving DecidableEq, Repr

/-- One version of a handle (R35): the physical buffer that holds it, its length and its pins (R38). -/
structure Version where
  handle : Nat
  phys : Nat
  len : Nat
  st : VerState
  order : Nat
  superseded : Bool
  pins : List Nat
  deriving DecidableEq, Repr

/-- The physical buffers of one pool (R32, R33, R39): the next shadow buffer never used and those returned. -/
structure PoolSt where
  fresh : Nat
  avail : List Nat
  deriving DecidableEq, Repr

/-- What a job reads for an input slot: a version of a handle, a fronthaul version (R383), an absent one (R388), a handle
of role 2 or 4 with no version, which reads as zeros (R382), or a fronthaul version lost at a restart (R62, R63). -/
inductive VerRef where
  | pool (n : Nat) | fh (n : Nat) | absent | zeros | lost
  deriving DecidableEq, Repr

/-- One task of a loaded graph (R24, R121, R578). -/
structure TaskDef where
  /-- 0 core; 1 LDPC decoder, 2 LDPC encoder, 3 polar engine, 4 FFT engine, 5 modem slice. -/
  kind : Nat
  /-- Kernel entry address recorded by Trolux (R202). -/
  entry : Nat
  /-- The graph declares a DMA channel for the task (R394). -/
  dma : Bool
  /-- Graph-internal buffers of the task (R205): device address, bytes, writable. -/
  internals : List (Nat × Nat × Bool)
  /-- TCM free for the kernel (R203): SCRATCH_BASE and SCRATCH_END. -/
  scratch : Nat × Nat
  /-- KIND and parameter block of an accelerator entry (R279, R280). -/
  ekind : Nat
  block : BitVec 512
  /-- Staged output that replaces the block: predecessor task and place in its outputs (R279). -/
  blockFrom : Option (Nat × Nat)
  /-- The entry uses the job's HARQ soft buffer (R288). -/
  harq : Bool
  preds : List Nat
  /-- Inputs in the order the graph fixes: 0 to 3 for a job input slot, 4 + 4t + o for output o of predecessor t. -/
  reads : List Nat
  /-- Outputs: 0 to 3 for a job output slot, 4 × p for a task-to-task buffer staged in pool p (R24, R39). -/
  writes : List Nat
  /-- The kernel image that the dispatcher loads into instruction memory (R208). -/
  image : List Byte
  /-- Kernel image base and limit in the cluster's instruction memory (06). -/
  kbase : Nat
  klimit : Nat
  usesMxc : Bool
  /-- Trolux static estimate in cycles (R121); engine time in ns for an accelerator task. -/
  static : Nat
  latency : Nat
  deriving DecidableEq, Repr

/-- A loaded task graph (R24, R29, R578). -/
structure Graph where
  tasks : List TaskDef
  inUsed : List Nat
  outUsed : List Nat
  /-- Parameter words that carry endpoint-context numbers, and HARQ buffers. -/
  ctxParams : List Nat
  harqParams : List Nat
  /-- Required features, bits [3:0] as in the feature word (R13, R16). -/
  features : Nat
  /-- Accelerator instances or narrowband channels the graph names: (kind, number). -/
  names : List (Nat × Nat)
  /-- Absent-input policy RUN; false is SKIP. -/
  runAbsent : Bool
  /-- Overrun policy ABORT; false is FINISH. -/
  abort : Bool
  deriving DecidableEq, Repr

/-- One run of a task instance. -/
structure TaskRun where
  role : RunRole
  /-- 0 ready, 1 running, 2 finished, 3 faulted and awaiting replay, 4 withdrawn, 5 waiting as an engine entry. -/
  phase : Nat
  place : Option Place
  /-- Places on which this run faulted (R54, R156). -/
  badPlaces : List Place
  startTime : Nat
  starts : Nat
  evictions : Nat
  cycles : Nat
  /-- Staging buffers taken per output slot (R39): (slot, physical buffer, length). -/
  staging : List (Nat × Nat × Nat)
  crc : Nat
  /-- Since when the run has been ready, while it is (UNTIMED_AGE, R128). -/
  readySince : Option Nat
  /-- The running run whose cycles marked its job as overrun (R131). -/
  marked : Bool
  /-- A replay that found no free core and waits as a ready task at its job's rank (R156). -/
  replay : Bool
  deriving DecidableEq, Repr

/-- One task instance of a job (R24). -/
structure TaskInst where
  done : Bool
  /-- When it finished (R52). -/
  doneAt : Nat
  runs : List TaskRun
  /-- Signatures seen with the place each was seen on (R54). -/
  sigs : List (List Nat × Place)
  /-- Counted faults (R158). -/
  counted : Nat
  replayed : Bool
  voted : Bool
  deriving DecidableEq, Repr

/-- A job's standing in admission (R123 to R125). -/
inductive Admission where
  | none | untimed | guaranteed | bestEffort
  deriving DecidableEq, Repr

/-- A job from its acceptance to its retirement (02). -/
structure Job where
  desc : Desc
  /-- Acceptance order (R34). -/
  order : Nat
  acceptTime : Nat
  /-- Resolved deadline d in ns (R117). -/
  deadline : Option Int
  /-- Past step 6 of R83: the acceptance entry is ready for transmission (R79). -/
  pastStep6 : Bool
  unmirrored : Bool
  /-- Slot of the ACCEPT entry, and of the COMMIT or FINAL entry. -/
  acceptSlot : Nat
  finalSlot : Option Nat
  /-- Version read per input slot (R35), and fifth the HARQ soft buffer (R288); none where the graph uses none. -/
  inVers : List (Option VerRef)
  expanded : Bool
  started : Bool
  startedBeforeReset : Bool
  incomplete : Bool
  admission : Admission
  /-- Admission has tested the job at least once (R120). -/
  tried : Bool
  /-- Cycles charged to B(c, s) at a guaranteed admission (R123, R127). -/
  charge : Nat
  demoted : Bool
  overrun : Bool
  /-- Cluster on which admission placed the job, and the shadow cluster. -/
  cluster : Nat
  migrated : Bool
  tasks : List TaskInst
  lastPlace : Option Place
  /-- Fixed outcome, once finalised. -/
  record : Option Rec
  /-- Finalisation time (R51, R57). -/
  finTime : Nat
  released : Bool
  /-- Versions the job makes, per output slot, and fifth of the HARQ soft buffer. -/
  outVers : List (Option Nat)
  /-- Versions that the job's writes superseded (R92, R109 RESULT_FREE). -/
  supers : List Nat
  /-- Result-store buffers reserved for the job (R92). -/
  resv : Nat
  ingressUnits : Nat
  /-- Results lost (R62, R101), a mask of output slots. -/
  lostOut : Nat
  buddyOf : Option Nat
  deriving DecidableEq, Repr

/-! ## Transport (03) -/

/-- A stored DATA segment (R70). -/
structure Seg where
  /-- Port of arrival, whose headroom it may occupy (R80, R95). -/
  port : Nat
  slot : Nat
  total : Nat
  offset : Nat
  bytes : List (BitVec 8)
  /-- What a word of the ingress buffer that holds it has come to hold besides good data (R408). -/
  bad : Option BadWord
  deriving DecidableEq, Repr

/-- A job not yet accepted, in assembly (R81). -/
structure Asm where
  desc : Option Desc
  mask : Nat
  descPort : Nat
  segs : List Seg
  started : Nat
  complete : Bool
  /-- Waiting at step 3 of R83 for a physical buffer (R85). -/
  waiting : Bool
  deriving DecidableEq, Repr

/-- A submission and completion queue (R79, R91, R98, R99, R110, R111). -/
structure Queue where
  /-- QUEUE_CONFIG ENABLE (R110). -/
  enable : Bool
  /-- QUEUE_CONFIG HOME_PORT (R110). -/
  homePort : Nat
  /-- QUEUE_CONFIG RESULT_SLOTS (R110). -/
  resultSlots : Nat
  /-- QUEUE_CONFIG DEPTH (R110). -/
  depth : Nat
  /-- QUEUE_CONFIG UNITS_MAX (R110). -/
  unitsMax : Nat
  /-- NEXT_SEQ (R78). -/
  nextSeq : BitVec 32
  /-- CREDIT_SEQ (R91). -/
  creditSeq : BitVec 32
  /-- RELEASED_SEQ (R46). -/
  releasedSeq : BitVec 32
  /-- ACK_SEQ (R98). -/
  ackSeq : BitVec 32
  /-- ACCEPTED_UNITS (R91), 40 bits. -/
  acceptedUnits : Nat
  /-- CREDIT_UNITS (R91), 40 bits. -/
  creditUnits : Nat
  /-- The pending record of step 3 of R83: sequence number and units. -/
  pendingRec : Option (BitVec 32 × Nat)
  /-- ACTIVE_PORT (R104). -/
  activePort : Nat
  /-- Retransmission timer (R99): time of its next expiry and present interval in ns. -/
  retxDue : Nat
  retxInterval : Nat
  /-- Remaining time of a retransmission timer halted by a pause (R96), none while it runs. -/
  retxHalted : Option Nat
  /-- Time of the last RESEND served (R100). -/
  lastResend : Option Nat
  /-- Released records not yet transmitted, with their release time (R97). -/
  toSend : List (BitVec 32 × Nat)
  /-- The credit values have changed and the CREDIT entry has not gone out yet (R94, R96). -/
  creditDue : Bool
  /-- RESEND entries that a pause of their port of arrival holds back: port and FROM_SEQ (R96, R100). -/
  resends : List (Nat × BitVec 32)
  /-- Address learned on each port (R104). -/
  peer0 : Option Peer
  peer1 : Option Peer
  deriving DecidableEq, Repr

/-- The second of the two copies that I47 keeps of a queue's sequence state; the first stands in Queue (R46, R78, R83). -/
structure AonCopy where
  nextSeq : BitVec 32
  releasedSeq : BitVec 32
  acceptedUnits : Nat
  pendingRec : Option (BitVec 32 × Nat)
  deriving DecidableEq, Repr

/-- A pending acceptance entry of a port (R72, R87). -/
structure AcceptEntry where
  sqid : Nat
  code : Nat
  unmirrored : Bool
  rep : Bool
  firstSeq : BitVec 32
  lastSeq : BitVec 32
  nextSeq : BitVec 32
  /-- When it became pending. -/
  since : Nat
  deriving DecidableEq, Repr

/-- An Ethernet port E0 or E1 (R95, R96, R104, R105, R112). -/
structure Port where
  /-- PORT_STATE (R112). -/
  state : Nat
  upSince : Nat
  /-- Pending acceptance entries (R87), oldest first. -/
  pending : List AcceptEntry
  /-- Received pauses (R96): priority and end time. -/
  pauses : List (Nat × Nat)
  /-- Bytes held in the port's headroom (R95). -/
  headroom : Nat
  /-- A pause for TRANSPORT_PCP has been sent and not released (R95). -/
  xoff : Bool
  /-- Queues never used whose home port this is are active on the other port (R104, R105). -/
  away : Bool
  deriving DecidableEq, Repr

/-! ## Scheduling and cells (04) -/

/-- A CELL_CONFIG record (R115). -/
structure CellCfg where
  enable : Bool
  kind : Nat
  migratable : Bool
  halo : Bool
  home : Nat
  horizon : Nat
  slotNs : Nat
  epochPeriod : Nat
  epochOffset : Nat
  gBudget : Nat
  deriving DecidableEq, Repr

/-- A migration under way (R140). -/
structure Migration where
  target : Nat
  reason : Nat
  startTime : Nat
  /-- Step 3 of R140 has been taken. -/
  switched : Bool
  source : Nat
  deriving DecidableEq, Repr

/-- CELL_STATE of a cell (R148). -/
structure CellSt where
  cluster : Nat
  migration : Option Migration
  migrations : Nat
  lastReason : Nat
  demoted : Nat
  lastMove : Option Nat
  /-- B(c, s) by slot: epoch, slot number and the estimates charged (R123). -/
  ledger : List ((Int × Int) × Nat)
  deriving DecidableEq, Repr

/-- A cycle histogram and learned budget of a core task (R134, R136, R137). -/
structure Budget where
  hist : List (Nat × Nat)
  learned : Nat
  valid : Bool
  samples : Nat
  deriving DecidableEq, Repr

/-- A cluster (R142 to R145, R149, R167). -/
structure Cluster where
  /-- OPP (R149). -/
  opp : Nat
  /-- An operating-point raise waiting for the rail's ready indication (R142). -/
  oppPending : Option Nat
  /-- By when that raise is complete (R142). -/
  oppDue : Nat
  /-- Voltage requested of VDD_CL in mV (R142). -/
  vReq : Nat
  /-- GATED (R149). -/
  gated : Bool
  /-- SHORT (R149). -/
  short : Bool
  /-- Thermal ceiling (R144). -/
  thermal : Nat
  /-- TEMP (R149), in units of 0.125 °C. -/
  temp : Int
  /-- Since when the temperature exceeds THERMAL_MIGRATE (R138). -/
  hotSince : Option Nat
  /-- Since when the gating conditions hold (R145). -/
  idleSince : Option Nat
  /-- Lost island: time of loss (R167). -/
  lostAt : Option Nat
  /-- Times of island losses within the window (R169). -/
  losses : List Nat
  /-- Cycles of ranks 2 to 4 measured in the present DVFS_PERIOD (R143). -/
  lowRankCycles : Nat
  /-- Since when they are not counted yet (R143). -/
  lowAt : Nat
  deriving DecidableEq, Repr

/-! ## Fault masking (05) -/

/-- One REGION_STATE byte (R192): state and times of the strikes within the window. -/
structure Region where
  state : Nat
  strikes : List Nat
  /-- When it was retired (R161). -/
  retiredAt : Nat
  deriving DecidableEq, Repr

/-- A task that was running when its job was finalised and may still report a fault until it stops (R53, R298). -/
structure LateRun where
  place : Place
  sqid : Nat
  seq : BitVec 32
  task : Nat
  start : Nat
  /-- When it has stopped. -/
  until' : Nat
  /-- The error that an engine entry would have ended with: code, offset and address. -/
  err : Option (Nat × Nat × Nat)
  deriving DecidableEq, Repr

/-- One FAULT_LOG record (R193). -/
structure FaultRec where
  time : Nat
  region : Nat
  cause : Nat
  action : Nat
  sqid : Nat
  seq : BitVec 32
  task : Nat
  start : Nat
  signature : Nat
  address : Nat
  deriving DecidableEq, Repr

/-- A mirror stream entry (R77, R176): the journal tag kind with its body. -/
structure MirrorEntry where
  pos : BitVec 32
  entry : JEntry
  /-- When it was last sent, or due (R178). -/
  sent : Nat
  /-- Attempts made: the first takes the home port, each retry the other (R175). -/
  tries : Nat
  /-- It waits for a pause or a port (R96, R105). -/
  held : Bool
  deriving DecidableEq, Repr

/-- The share held for one mirrored source (R175 to R183). -/
structure MirrorSrc where
  source : Nat
  /-- Next expected stream position (R178). -/
  expected : BitVec 32
  synced : Bool
  /-- Entries journaled in the share, in JA and in JB (R178). -/
  entries : List JEntry
  entriesB : List JEntry
  lastFrame : Nat
  /-- A MIRROR_ACK that a pause or a fence holds back: port and peer (R96, R178, R180). -/
  ackDue : Option (Nat × Peer)
  /-- IDENTITY marker bytes (R177). -/
  identity : List Nat
  /-- 0 idle, 1 running take-over, 2 done; the source is fenced out while not idle (R180, R181). -/
  takeover : Nat
  /-- The latest entry of the stream is DORMANT (R526). -/
  dormant : Bool
  deriving DecidableEq, Repr

/-- The outgoing mirror stream and the buddy (R89, R175 to R180). -/
structure MirrorTx where
  nextPos : BitVec 32
  acked : BitVec 32
  unacked : List MirrorEntry
  /-- Time of the oldest unacknowledged transmission, and ports tried (R89). -/
  sentAt : Nat
  tries : Nat
  lastSend : Nat
  lastAck : Nat
  reachable : Bool
  fenced : Bool
  deriving DecidableEq, Repr

/-- The object dictionary as stored (R478, R479). Keys are index × 256 + subindex. A P value is written to both flash
copies before it is applied, or not applied at all, so these lists are the flash configuration area's values of the P
objects as well. -/
structure Objects where
  /-- Scalar objects whose value differs from the default. -/
  vals : List (Nat × Nat)
  /-- DOMAIN objects held as bytes: key to bytes that differ from the default, by offset. -/
  doms : List (Nat × List (Nat × Nat))
  deriving DecidableEq, Repr

/-- A supervisor pair (R172): 0 active, 1 standby, 2 under test, 3 retired, 4 loading for an update. -/
structure Supervisors where
  active : Nat
  pair0 : Nat
  pair1 : Nat
  /-- A switch-over is under way since (R173). -/
  switching : Option Nat
  lastCopy : Nat
  /-- FW_UPDATE_STATE (R191) and the step reached (R174). -/
  updState : Nat
  updStep : Nat
  updStart : Nat
  fwRunning : Nat
  /-- The active pair's objects as the standby holds them (R172). -/
  copy : Objects
  deriving DecidableEq, Repr

/-- Overcast (R186 to R190). -/
structure OvercastSt where
  on : Bool
  /-- Conditions holding now (R186). -/
  cause : Nat
  /-- Start of the present Overcast. -/
  since : Nat
  /-- Last instant at which each condition held, bit by bit. -/
  lastHeld : List Nat
  /-- OVERCAST_TIME accumulated in completed Overcasts (R190). -/
  total : Nat
  deriving DecidableEq, Repr

/-! ## Bruop core, vector units and MXC (06, 07, 08) -/

/-- A segment register set SEGn (R201, R205). -/
structure SegReg where
  /-- SEGnBASE, 40 bits (R201). -/
  base : BitVec 40
  /-- SEGnLIM (R201). -/
  lim : BitVec 32
  /-- SEGnATTR bit 0 (R201). -/
  valid : Bool
  /-- SEGnATTR bit 1 (R201). -/
  readOnly : Bool
  /-- What the segment reads when its version has no physical buffer: these bytes, then zeros (R37, R382, R387). -/
  virt : Option (List Byte)
  deriving DecidableEq, Repr

/-- A register that R198 lets only one instruction of a bundle write. -/
inductive WReg where
  | g (r : Nat) | acc (r : Nat) | ctl (n : Nat)
  deriving DecidableEq, Repr

/-- A vector memory operation of an issued bundle, its general registers already read (R241, R244). -/
structure VMemOp where
  store : Bool
  /-- VGATHF (R242). -/
  first : Bool
  wide : Bool
  reg : Nat
  ebytes : Nat
  grp : Nat
  /-- Address of each element, in element order, and whether the element is active. -/
  elems : List (Int × Bool)
  pc : Nat
  /-- Bundles committed once its own has, which orders its fault (R247). -/
  made : Nat
  deriving DecidableEq, Repr

/-- What stands in the vector queue: a vector load or gather, a store or scatter, or another vector instruction (R244). -/
inductive VEntry where
  | load | store | other
  deriving DecidableEq, Repr

/-- One pending effect of an instruction of the open bundle (R197, R222). -/
inductive Eff where
  | wg (r : BitVec 5) (v : BitVec 32)
  | wacc (n : BitVec 2) (v : BitVec 40)
  | sat
  | wctl (n : Nat) (v : BitVec 32)
  | loop (lvl : Bool) (cnt : BitVec 32) (endPc : Nat)
  | goto (pc : Nat)
  | link
  | store (ea : Nat) (size : Nat) (v : BitVec 64)
  /-- A load of n bytes with the pointer it leaves, whose access is made when its bundle is complete (R199). -/
  | load (f : MFmt) (ea n : Nat) (ptr : Option (BitVec 32))
  /-- A read of a control register, made when its bundle is complete (R258). -/
  | movc (r : BitVec 5) (n : Nat)
  | spanset (vtype : BitVec 5) (span : Nat)
  | wh (r : BitVec 5) (v : BitVec 128)
  | ww (r : BitVec 5) (grp : Nat) (v : Nat)
  | wk (r : BitVec 3) (v : BitVec 1024)
  | vmem (op : VMemOp)
  | wm (t : BitVec 3) (v : List (BitVec 32))
  | wz (t : BitVec 2) (v : List (BitVec 40 × BitVec 40))
  | mxsat
  | mxclr (t : BitVec 2)
  | mxld (t : BitVec 3) (rows : List Nat)
  | mxst (rows : List Nat) (data : List (BitVec 32))
  | mxlock
  | mxunlock
  /-- An MXC operation whose result is a general register (R268, R270). -/
  | mxop
  | mxsave (a : Nat)
  | mxrestore (a : Nat)
  | fence
  | tend
  /-- Stalls until the vector queue has drained (R248). -/
  | vsync
  /-- Stalls until every MXC operation is applied (R271). -/
  | mxsync
  /-- A vector instruction clipped (R237). -/
  | vsat
  deriving DecidableEq, Repr

/-- A precise exception found by an instruction of the open bundle: at decode for CAUSE 1 to 3, else when it executes. -/
structure PendExc where
  slot : Nat
  cause : Nat
  sub : Nat
  eaddr : Nat
  deriving DecidableEq, Repr

/-- The bundle being issued (R196 to R198). -/
structure Bundle where
  count : Nat
  scalars : Nat
  mems : Nat
  vecs : Nat
  flows : Nat
  writes : List WReg
  effs : List Eff
  exc : Option PendExc
  /-- Slot of its TEND (R222). -/
  tendSlot : Nat
  /-- Place of its load/store instruction among its instructions (R223). -/
  memAt : Nat
  /-- It is complete and past RD, so that its MXC operation has begun (R268, R270). -/
  begun : Bool
  deriving DecidableEq, Repr

/-- A posted store that has not reported (R224): its address and the core address it writes. -/
structure Posted where
  pc : Nat
  ea : Nat
  /-- Bundles committed when it was made. -/
  made : Nat
  deriving DecidableEq, Repr

/-- A Bruop core with its vector units (06, 07). -/
structure Core where
  /-- The running task; none when the core is free. -/
  task : Option TaskRef
  /-- The core executes instructions: set at task start, cleared by an exception, TEND, eviction or abort. -/
  running : Bool
  /-- g0 to g31, 32 bits each (R200, R202). -/
  g : Vector (BitVec 32) 32
  /-- acc0 to acc3, 40 bits each (R200, R202). -/
  acc : Vector (BitVec 40) 4
  /-- CSTAT.SAT (R201). -/
  sat : Bool
  /-- EPC (R201, R222). -/
  epc : BitVec 32
  /-- ECAUSE (R201, R223). -/
  ecause : BitVec 32
  /-- EADDR (R201). -/
  eaddr : BitVec 32
  /-- KBASE (R201). -/
  kbase : BitVec 32
  /-- KLIMIT (R201). -/
  klimit : BitVec 32
  /-- Cycles counted up to cycleAt (R201, CYCLE and CYCLEH). -/
  cycles : Nat
  cycleAt : Nat
  /-- LPCNT0 and LPCNT1 (R201, R215). -/
  lpcnt : Vector (BitVec 32) 2
  /-- LPSTART0 and LPSTART1 (R201, R215). -/
  lpstart : Vector (BitVec 32) 2
  /-- LPEND0 and LPEND1 (R201, R215). -/
  lpend : Vector (BitVec 32) 2
  /-- CBnBASE (R201). -/
  cbBase : Vector (BitVec 32) 8
  /-- CBnLEN (R201). -/
  cbLen : Vector (BitVec 32) 8
  /-- SEGn (R201). -/
  seg : Vector SegReg 8
  /-- Address of the bundle being fetched (R199, R208). -/
  pc : Nat
  /-- The open bundle (R196). -/
  bundle : Bundle
  /-- Bundles committed since task start, which orders pending faults (R247). The model's own field. -/
  commits : Nat
  /-- Posted stores not yet known to be complete (R224). -/
  sbuf : List Posted
  /-- A posted store error not yet raised (R224): its store, cause. -/
  sberr : Option (Posted × Nat)
  /-- Written bits of the TCM lines, as the list of lines whose bit is set (R204). -/
  lines : List Nat
  /-- h0 to h31, 128 bits each (R226, R229). -/
  h : Vector (BitVec 128) 32
  /-- w0 to w31, 1,024 bits each (R226, R229). -/
  w : Vector (BitVec 1024) 32
  /-- k0 to k7, 1,024 bits each (R236, R229). -/
  k : Vector (BitVec 1024) 8
  /-- SPAN (R234, R229). -/
  span : Nat
  /-- VTYPE: GRP in [4:3], TYPE in [2:0] (R234, R229). -/
  vtype : BitVec 5
  /-- VFR_PC (R234). -/
  vfrPc : BitVec 32
  /-- VFR_INFO (R234). -/
  vfrInfo : BitVec 32
  /-- VFR_ADDR (R234). -/
  vfrAddr : BitVec 32
  /-- The vector queue, oldest first (R244). The model carries out an instruction when the next one enters behind it, at the
  latest when it completes: only the youngest entry can be a memory instruction not yet carried out. -/
  vq : List VEntry
  /-- The youngest entry, while it is a memory instruction not yet carried out. -/
  vpend : Option VMemOp
  /-- A vector fault is recorded and not yet delivered (R245, R246). -/
  vfault : Bool
  /-- Entries of the queue up to the faulting one, while the fault has not been detected (R246). The model's own field. -/
  vpos : Option Nat
  /-- The recorded fault has been detected (R246). -/
  vseen : Bool
  /-- It was found by the read half of a merge, which is not read again (R412); the same of the pending MXC error. -/
  vmerge : Bool
  mxmerge : Bool
  /-- Bundles committed when the vector fault's instruction entered the queue. -/
  vfaultMade : Nat
  /-- An imprecise MXC error not yet delivered: code, TCM address (R273), and bundles committed before it. -/
  mxerr : Option (Nat × Nat × Nat)
  /-- A vector access at this address has been told that its target does not answer (R402). -/
  slow : Option Nat
  /-- MXWAIT in thousandths of a cycle (R264). -/
  mxwait : Nat
  /-- MXHOLD in thousandths of a cycle (R264). -/
  mxhold : Nat
  /-- Task DMA channel, as a device channel number (R394). -/
  dmaChan : Option Nat
  deriving DecidableEq, Repr

/-- A matrix coprocessor (R258 to R264). -/
structure Mxc where
  /-- Local core of the lock holder (R258, MXOWNER). -/
  holder : Option Nat
  /-- Waiting cores in order of request: local core, and the thousandths of a cycle that it has waited while the holder ran a
  task of rank 2, 3 or 4 (R258, R261). -/
  waiting : List (Nat × Nat)
  /-- A release whose grant has not been made yet (R258). -/
  released : Bool
  /-- A squash drain is under way (R270). -/
  draining : Bool
  /-- Device time of the present grant (MXHOLD, R264). -/
  grantAt : Nat
  /-- m0 to m7: 64 c16 elements each (R263). -/
  m : Vector (Vector (BitVec 32) 64) 8
  /-- z0 to z3: 64 complex elements of 40-bit parts each, real first (R263). -/
  z : Vector (Vector (BitVec 40 × BitVec 40) 64) 4
  /-- MXSTAT.SAT (R264). -/
  sat : Bool
  deriving DecidableEq, Repr

/-! ## DMA (13) -/

/-- State of a DMA channel (R399, R404). -/
inductive ChanState where
  | idle | running | parked | halted
  deriving DecidableEq, Repr

/-- A DMA channel with its window registers (R393, R399, R404). -/
structure Chan where
  state : ChanState
  /-- LAST_STATUS (R404). -/
  lastStatus : Nat
  /-- COUNT (R404). -/
  count : Nat
  /-- CUR_DESC (R404), 40 bits. -/
  cur : Nat
  /-- LAST_DOORBELL (R404), 40 bits. -/
  lastDoorbell : Nat
  /-- The descriptor being run, as fetched, once it has been fetched (R399). -/
  desc : Option (List (BitVec 64))
  /-- The transfer of the descriptor has been carried out with this status and byte count, and has not ended. -/
  moved : Option (Nat × Nat × Nat)
  /-- An end-check read is outstanding, and a further one is due (R399). -/
  checks : Nat
  /-- Owning core of a task channel (R394). -/
  owner : Option Nat
  /-- The error met was found by the read half of a merge, which is not read again (R412). -/
  merged : Bool
  deriving DecidableEq, Repr

/-! ## Memory (14) -/

/-- One Drizzle scrubber (R416, R418). -/
structure Drizzle where
  nextAddr : Nat
  lapStart : Nat
  lastLap : Nat
  alarm : Bool
  /-- The alarm of the lap under way has been raised (R418). -/
  late : Bool
  deriving DecidableEq, Repr

/-- A DRAM channel's frequency change and command-parity state (R423, R428). -/
structure DramChan where
  /-- Active set of the channel: 0 TSA, 1 TSB. -/
  set : Nat
  changing : Bool
  parityRetries : Nat
  selfRefresh : Bool
  deriving DecidableEq, Repr

/-- A DRAM rank: power-down, last refresh and the time of its last request (R427). -/
structure DramRank where
  powerDown : Bool
  lastRefresh : Nat
  lastRequest : Nat
  deriving DecidableEq, Repr

/-- An entry of a subchannel's write queue (R426): its line, the bytes it holds as a mask, and the posted stores of cores
among them (R224). -/
structure WEntry where
  line : Nat
  mask : Nat
  posted : List (Nat × Posted)
  deriving DecidableEq, Repr

/-- The memories and their controllers (13, 14). -/
structure Mem where
  /-- All addressed memory by device address (R407): bytes that are not zero. -/
  bytes : List Host.Cell
  /-- Instruction memory by core × 65,536 + address (R208): bytes that are not zero. -/
  imem : List Host.Cell
  /-- Code words that hold an error or poison, by device address of the poison unit (R408, R410). -/
  bad : List (Nat × BadWord)
  /-- Instruction-memory words that hold an error or poison (R208). -/
  ibad : List (Nat × BadWord)
  /-- Words of the always-on SRAM that hold an error or poison, by offset: the 78 banks of R531 in its order (R408). -/
  aonBad : List (Nat × BadWord)
  /-- DRAM ranges written or filled since the contents were lost (R421, R422): start and length. -/
  dramValid : List (Nat × Nat)
  /-- DRAM_CONFIG written (R424) is an object; this is DRAM_IN_EFFECT (R433). -/
  inEffect : Nat
  /-- DRAM_ACTIVE_SET (R433). -/
  activeSet : Nat
  chans : List (Nat × DramChan)
  ranks : List (Nat × DramRank)
  drizzle : List (Nat × Drizzle)
  /-- Since when the scrubbers without a record above have been in their first lap (R418). -/
  scrubFrom : Nat
  /-- Confirmed uncorrectable lines of each region within the last second: time and line (R432). -/
  ueLines : List (Nat × List (Nat × Nat))
  /-- Fill map as granule numbers (R422). -/
  fillMap : List Nat
  /-- DRAM ranges filled since the map was cleared, start and length, and subchannels filled whole (R171, R422). -/
  filled : List (Nat × Nat)
  filledSubs : List Nat
  /-- Subchannels filled whole since the DRAM contents were lost (R421). -/
  validSubs : List Nat
  /-- Fast fills under way: what they serve, start, length (R422). -/
  fills : List (Nat × Nat × Nat)
  /-- Instruction-memory images to reload, by core (R417), and images being rewritten from flash. -/
  reload : List Nat
  rewriting : List Nat
  /-- Endpoint contexts lay in a subchannel that was lost (R170). -/
  ctxDamaged : Bool
  /-- The write queues of the subchannels, oldest entry first (R426). -/
  wqueue : List WEntry
  /-- MEM_ERROR_LOG ring of 256 records of 32 bytes, as numbers (R434), and MEM_ERROR_NEXT. -/
  errLog : List (Nat × Nat)
  errNext : Nat
  deriving DecidableEq, Repr

/-! ## Cleip, ports, audit and keys (16, 17) -/

/-- One audit record without its seal (R490), and the seal (R491). -/
structure AuditRec where
  seq : BitVec 32
  time : Nat
  kind : Nat
  role : Nat
  carrier : Nat
  long : Bool
  sealKind : Nat
  index : Nat
  sub : Nat
  status : Nat
  tid : Nat
  offset : Nat
  length : Nat
  source : Nat
  old : Nat
  new : Nat
  epoch : Nat
  mac : Nat
  deriving DecidableEq, Repr

/-- A held response with its request (R467). -/
structure HeldResp where
  requester : CleipSrc
  tid : Nat
  request : List Byte
  response : List Byte
  time : Nat
  deriving DecidableEq, Repr

/-- An open block write (R469 to R471). -/
structure BlockWrite where
  requester : CleipSrc
  key : Nat
  start : Nat
  data : List Byte
  lastSeg : Nat
  tid : Nat
  /-- The audit record that the bytes staged so far would leave, without status (R471, R490). -/
  rec' : AuditRec
  deriving DecidableEq, Repr

/-- A subscription (R472, R473). -/
structure Subscr where
  requester : CleipSrc
  /-- Key of the object as subscribed (an alias keeps its own index, R481). -/
  key : Nat
  mode : Nat
  interval : Nat
  nextTid : Nat
  renewed : Nat
  lastCompare : Nat
  /-- Value sent in the last event (mode 1). -/
  lastValue : Option (List Byte)
  /-- Events that a pause of the subscriber's port holds back, oldest first (R96, R474). -/
  queue : List (List Byte)
  deriving DecidableEq, Repr

/-- The MS or FP serial side of Cleip (R462, R463, R487). -/
structure Serial where
  /-- Undelivered response, with its CRC-32 appended. -/
  response : Option (List Byte)
  /-- Events waiting to be read, oldest first, each with its subscription (R474). -/
  events : List (Nat × List Byte)
  /-- A request stored in P3, to be served after Dawn (R463). -/
  stored : Option (List Byte)
  deriving DecidableEq, Repr

/-- The factory port (R485 to R487). -/
structure FactoryPort where
  /-- FP_EN as sampled at the last rising edge of RESET_N (R485). -/
  fpEn : Bool
  /-- FP enabled (R485). -/
  enabled : Bool
  /-- Instruction register (R486). -/
  ir : Nat
  /-- Bytes of the current write transfer (R487). -/
  wr : List Byte
  /-- The current read stream: its MS_STATUS and the bytes not yet fetched; none before the first fetch after a stop
  (R487). -/
  rd : Option (Nat × List Byte)
  /-- Value that Capture-DR loads: bit 9 and byte (R487). -/
  capture : Nat
  deriving DecidableEq, Repr

/-- A request in service whose answer waits for a longer operation (R463, R467, R468): its operation code, the object it
writes and the audit record it will leave, without status and time. -/
structure InService where
  op : Nat
  req : CleipReq
  key : Nat
  rec' : AuditRec
  deriving DecidableEq, Repr

/-- The audit journal (R489 to R493). -/
structure Audit where
  /-- Records by place in the ring (R489). -/
  recs : List (Nat × AuditRec)
  /-- AUDIT_HEAD (R505); 0xFFFF_FFFF before the first record. -/
  head : BitVec 32
  /-- AUDIT_EXPORTED (R493). -/
  exported : BitVec 32
  /-- AUDIT_LOST (R493). -/
  lost : Nat
  /-- SEAL of the newest record, and SEAL_KIND of the present chain (R491). -/
  lastSeal : Nat
  sealKind : Nat
  /-- The next record must be a seal restart, and its OLD. -/
  restartOld : Option Nat
  deriving DecidableEq, Repr

/-- A key slot (R494). -/
structure KeySlot where
  aes256 : Bool
  key : List Byte
  deriving DecidableEq, Repr

/-- The key store and the cipher engine (R494 to R499). -/
structure Keys where
  /-- K1 to K31, loaded slots only; K0 is fused and opaque (R494). -/
  slots : List (Nat × KeySlot)
  /-- The two copies in the flash configuration area, wrapped under K0 (R496). -/
  flash : Option (List (Nat × KeySlot))
  flash2 : Option (List (Nat × KeySlot))
  /-- Both copies failed at the restart under way (R496). -/
  lost : Bool
  /-- CIPHER_LOCK (R498). -/
  lock : BitVec 32
  /-- CIPHER_STATE (R505). -/
  state : Nat
  /-- BOOT_KEY_PENDING (R497). -/
  bootPending : Bool
  deriving DecidableEq, Repr

/-- Cleip (16). -/
structure CleipSt where
  held : List HeldResp
  blocks : List BlockWrite
  subs : List (Nat × Subscr)
  inService : List InService
  /-- Requests that wait behind one in service, with their operation codes, oldest first (R466). -/
  waiting : List (Nat × CleipReq)
  ms : Serial
  fp : Serial
  /-- CONFIG_BACKUP as last sealed and its GENERATION; a rebuild is due since (R502, R503). -/
  backup : List Byte
  generation : Nat
  rebuildDue : Option Nat
  /-- New MS_ADDRESS waiting for its response to be delivered (R482). -/
  msAddr : Nat
  deriving DecidableEq, Repr

/-! ## Engines and the narrowband modem (09, 10) -/

/-- An engine queue entry: header fields, parameter block and where it stands (R279, R280, R306). -/
structure Entry where
  task : TaskRef
  /-- KIND (R280): 1 to 6 for the engines, 0 for the narrowband modem. -/
  kind : Nat
  /-- RANK: the dispatch rank minus 1 (R280). -/
  rank : Nat
  /-- D_KEY: the resolved deadline in 8 ns, low 32 bits, or all ones (R280). -/
  dkey : BitVec 32
  start : Nat
  inAddr : Nat
  /-- What the input reads when its version has no physical buffer. -/
  inVirt : Option (List Byte)
  inLen : Nat
  outAddr : Nat
  outCap : Nat
  /-- The 64-byte parameter block as a number, bit 511 most significant (R279). -/
  block : BitVec 512
  /-- Soft-buffer addresses, their pool's buffer size, and whether the handle is valid (R286, R288). -/
  harqIn : Nat
  harqOut : Nat
  harqSize : Nat
  harqBad : Bool
  isReplay : Bool
  deriving DecidableEq, Repr

/-- How an engine run came out, before its end (R282, R297). -/
inductive EngResult where
  | done (bytes : List Byte) (harq : List Byte) (words : Nat)
  | error (code offset addr : Nat)
  deriving DecidableEq, Repr

/-- An engine instance or modem slice (R281, R295, R301). -/
structure Engine where
  entry : Option Entry
  startTime : Nat
  result : Option EngResult
  /-- Withdrawn for its built-in test since (R322); a failed slice stays withdrawn. -/
  testing : Option Nat
  failed : Bool
  /-- Busy time in the present second, and in the last full second, in ns (R300). -/
  busy : Nat
  lastBusy : Nat
  /-- Guaranteed engine time in the present DVFS_PERIOD (R186). -/
  gTime : Nat
  /-- The same in the last full DVFS_PERIOD (R186). -/
  lastGTime : Nat
  deriving DecidableEq, Repr

/-! ## Time (15) -/

/-- A PTP domain (R443 to R447, R458). -/
structure Domain where
  /-- DOMAIN_STATE (R458). -/
  state : Nat
  /-- OFFSET (R458), ns. -/
  offset : Int
  /-- MEAN_PATH_DELAY (R458), ns. -/
  pathDelay : Nat
  /-- GM_IDENTITY, GM_CLOCK_CLASS (R458). -/
  gmIdentity : Nat
  gmClass : Nat
  /-- Best Announce of each port, as (identity, priority vector) numbers, with its receipt time. -/
  ann0 : Option (Nat × Nat × Nat)
  ann1 : Option (Nat × Nat × Nat)
  /-- Consecutive exchanges within 20 ns, and above STEP_LIMIT (R444). -/
  good : Nat
  bad : Nat
  /-- Slave port while a master is selected. -/
  slave : Option Nat
  holdoverSince : Nat
  deriving DecidableEq, Repr

/-- The time unit (R435 to R441, R450 to R452, R457). -/
structure TimeUnit where
  /-- Device time in ns (R435). -/
  now : Nat
  /-- What the counter holds beyond now, in 2^-32 ns (R436). -/
  frac : Nat
  /-- INCREMENT (R436). -/
  increment : Nat
  /-- Outstanding slew in 10^-9 ns units (R438). -/
  slew : Int
  /-- The effective increment since the last beat, and what it works off of the slew in 1,000 ns (R437, R438). -/
  incNow : Nat
  slewNow : Int
  /-- A step waiting for the next beat, and whether the servo demanded it (R437, R441). -/
  step : Option Int
  stepDemanded : Bool
  /-- TRACED, STEP_REFUSED, HOLDOVER_EXCEEDED, BEAT_ALARM, TIME_LOST, PPS_IN_PRESENT, REF_LOST (R457). -/
  traced : Bool
  stepRefused : Bool
  holdoverExceeded : Bool
  beatAlarm : Bool
  timeLost : Bool
  ppsPresent : Bool
  refLost : Bool
  /-- The time clock runs from the 10 MHz input (R436). -/
  on10MHz : Bool
  /-- Beat alarms per island (R440), islands in alarm with the time of the last alarm. -/
  alarms : List (Nat × Nat)
  lastPps : Option Nat
  /-- PPS_IN_OFFSET (R456). -/
  ppsOffset : Int
  /-- PPS_OUT is high until (R451). -/
  ppsOut : Option Nat
  ta : Domain
  tb : Domain
  /-- Frames forwarded in the present second per direction (R449). -/
  tcCount0 : Nat
  tcCount1 : Nat
  /-- The present multiple of 1 s has been treated as a second boundary (R363). -/
  secondDone : Bool
  deriving DecidableEq, Repr

/-! ## Fronthaul lanes, links and versions (11, 12, 13) -/

/-- States of a lane (R334, R345). -/
inductive LaneState where
  | off | hunt | locked | aligned | test
  deriving DecidableEq, Repr

/-- Drain states of a lane (R339). -/
inductive DrainState where
  | normal | verify | drained
  deriving DecidableEq, Repr

/-- The kind of a received block as its header shows it (R327). -/
inductive BlkKind where
  | data | filler | bad
  deriving DecidableEq, Repr

/-- A received block waiting in the deskew buffer (R335, R336). -/
structure LaneBlk where
  kind : BlkKind
  payload : BitVec 256
  deriving DecidableEq, Repr

/-- A fronthaul lane (R334, R339, R344 to R346). -/
structure Lane where
  state : LaneState
  drain : DrainState
  /-- The VERIFY under way returns the lane to NORMAL (command 3) rather than to DRAINED. -/
  restoring : Bool
  miswired : Bool
  skewExcess : Bool
  signal : Bool
  laneSeen : Nat
  skew : Nat
  slipPos : Nat
  /-- Last received bit and its run (R331), destuffed bits not yet cut into a word, and bits that a slip has still to pass over
  (R332). -/
  rxRun : Bool × Nat
  rxBits : List Bool
  rxSkip : Nat
  /-- Consecutive valid headers in HUNT, and invalid-header flags of the last 64 blocks (R334). -/
  goodRun : Nat
  window : List Bool
  /-- Receive scrambler register: the last 58 received payload bits (R328). -/
  scr : BitVec 58
  /-- Bits received in far-end loopback and not yet sent again (R342). -/
  echo : List Bool
  /-- The deskew buffer, oldest block first. -/
  blocks : List LaneBlk
  /-- Erased until the next agreeing filler (R334, R335). -/
  erased : Bool
  verifyCount : Nat
  /-- Consecutive data rows in which the lane was erased (R339). -/
  erasedRun : Nat
  /-- HDR_ERRORS, STUFF_VIOLATIONS, LOCK_LOSSES, BLOCKS_RECONSTRUCTED, BLOCKS_ERASED, FILLER_DELETED,
  DRAIN_MISMATCHES, PRBS_ERRORS (R346), wrapping. -/
  counters : List (BitVec 32)
  countersPrev : List (BitVec 32)
  deriving DecidableEq, Repr

/-- A section that a link has still to send, whole or in part, and the instant by which its first byte must be sent (R367). -/
structure TxSec where
  limit : Int
  bytes : List Byte
  deriving DecidableEq, Repr

/-- A container's receive place in the stream (R351). -/
structure ContRx where
  /-- Stream bits gathered for the sample in progress, none where absent, and its index. -/
  bits : List (Option Bool)
  index : Nat
  deriving DecidableEq, Repr

/-- An open management-channel request (R369, R370). -/
structure McReq where
  tid : Nat
  index : Nat
  sub : Nat
  sentAt : Nat
  tries : Nat
  deriving DecidableEq, Repr

/-- A link on a lane group (R347 to R370, R375, R377). -/
structure Link where
  /-- 0 OFF, 1 HUNT, 2 FRAME, 3 SYNC (R358). -/
  framer : Nat
  /-- Counts of the 64 row phases (R358), sparse. -/
  phaseCounts : List (Nat × Nat)
  phase : Nat
  ownCount : Nat
  expectMf : Nat
  hdrFails : Nat
  noMarker : Nat
  framesNoBf0 : Nat
  /-- Rows released to the framing layer and not yet taken, with the device time of their release (R335, R362): 16 blocks
  each, none where absent (R338, R347). -/
  rx : List (Nat × List (Option (BitVec 256)))
  /-- Rows of the frames being sent that the lane group has not yet taken: 16 payloads each (R347). -/
  txRows : List (List (BitVec 256))
  /-- Sections taken from the transmit queue and not yet laid into a frame, and whether the first is partly sent (R354). -/
  txSecs : List TxSec
  txPart : Bool
  /-- Transmit stores of the containers: bits not yet sent and the next sample to enter (R351, R352). -/
  txStore : List (Nat × ContRx)
  /-- Management-channel bytes still to be sent, and whether their first slot has been sent (R368). -/
  mcTx : List Byte
  mcTxMid : Bool
  /-- MF_NUM, DELAY, AIR_TIME_ERR, AIS of the last valid header (R361, R362, R377). -/
  mfNum : Nat
  delay : Int
  airTimeErr : Bool
  lastAis : Bool
  lastRdi : Bool
  hdrAir : Nat
  /-- Consecutive headers with AIS and RDI as last seen (R359). -/
  aisRun : Nat
  rdiRun : Nat
  /-- Bad and good seconds in a row, errored rows of the present second (R359). -/
  badSecs : Nat
  goodSecs : Nat
  secErrRows : Nat
  /-- Declared defects LOS LOF LOM AIS RDI DEG, bit 5 down to bit 0 as in R377. -/
  defects : Nat
  /-- Since when each set or clear condition has held, by defect bit. -/
  condSince : List (Nat × Nat)
  rdiSent : Bool
  /-- Descrambled section stream not yet parsed, with absent marks and the release times of the rows, and whether parsing is in
  step (R354, R357, R389). -/
  stream : List (BitVec 8 × Bool × Nat)
  inStep : Bool
  /-- Places in the stream at which a SEC_PTR names a section header (R354, R357). -/
  secPtrs : List Nat
  containers : List (Nat × ContRx)
  /-- Management channel: bytes of the open message (R368). -/
  mcBuf : Option (List Byte)
  mcReq : Option McReq
  mcNextTid : Nat
  /-- BLOCK_COUNT and rows since the last filler of the transmitter (R329), next BFN and MF_NUM sent. -/
  txBlockCount : Nat
  txSinceFiller : Nat
  txBfn : Nat
  txMfNum : Nat
  /-- Transmit scrambler registers per lane (R328), and the last bit and run length of each serial stream (R330). -/
  txScr : List (BitVec 58)
  txRuns : List (Bool × Nat)
  /-- Sixteen link counters (R374), wrapping, and the copy latched at the last second with LATCH_SEC (R363). -/
  counters : List (BitVec 32)
  countersPrev : List (BitVec 32)
  latchSec : Nat
  deriving DecidableEq, Repr

/-- A fronthaul version: frequency-domain per cell and slot, or container per container and slot (R364, R385, R386). -/
structure FhVersion where
  container : Bool
  /-- Cell, or container number 128g + c. -/
  id : Nat
  /-- Absolute slot number modulo 2^64. -/
  slot : Int
  pool : Nat
  phys : Option Nat
  sealed : Bool
  sealTime : Nat
  /-- Expected and landed items: bit numbers of the absence map, or sample numbers. -/
  expected : List Nat
  landed : List Nat
  sections : Nat
  overflow : Bool
  released : Bool
  /-- Counted in VERSIONS_EXPIRED (R388). -/
  expired : Bool
  /-- It lay in a region that was lost (R170). -/
  damaged : Bool
  pins : List Nat
  deriving DecidableEq, Repr

/-- A queued transmit section (R390, R391). -/
structure TxSection where
  slotStart : Int
  symbol : Nat
  control : Bool
  order : Nat
  ver : Nat
  bytes : List Byte
  deriving DecidableEq, Repr

/-- An eCPRI virtual link (R372 to R374). -/
structure VLink where
  seqRx : Option Nat
  seqTx : Nat
  activePort : Nat
  peer0 : Option Peer
  peer1 : Option Peer
  deriving DecidableEq, Repr

/-- The fronthaul (11 to 13). -/
structure Fronthaul where
  lanes : List (Nat × Lane)
  links : List (Nat × Link)
  vers : List (Nat × FhVersion)
  nextVer : Nat
  /-- Transmit queues: 0 to 3 Asboant links, 4 to 67 virtual links (R391). -/
  txq : List (Nat × List TxSection)
  /-- Section streams committed so far, which orders their sections (R391). -/
  txOrder : Nat
  vlinks : List (Nat × VLink)
  /-- Next container sample to transmit, by container (R392). -/
  contTx : List (Nat × Nat)
  deriving DecidableEq, Repr

/-! ## Optics and radio units (18) -/

/-- MODULE_STATE of a position (R512, R515). -/
structure Module where
  state : Nat
  drainBlocked : Bool
  unplanned : Bool
  temp : Int
  bias : List Nat
  drift : Nat
  replaceBy : Nat
  serial : Option Nat
  fails : Nat
  lastPoll : Option Nat
  /-- State to which an UNREADABLE position returns (R512). -/
  before : Nat
  /-- Restore or drain commands still to be accepted, by lane. -/
  todo : List Nat
  restoring : Bool
  deriving DecidableEq, Repr

/-- MODULE_LIFE (R509 to R511, R515). -/
structure Life where
  serial : Nat
  vendor : Nat
  /-- Times in ns, so that no fraction of an hour is lost. -/
  powered : Nat
  laserOn : Nat
  /-- Equivalent laser time in ns scaled by 2^16. -/
  equiv : Nat
  baseSum : List Nat
  baseCount : Nat
  firstDay : Nat
  lastDay : Nat
  hist : List Int
  equivHist : List Nat
  deriving DecidableEq, Repr

/-- RU_STATE of a link (R514, R515). -/
structure RuState where
  serial : Nat
  hours : Nat
  temp : Int
  replaceBy : Nat
  readDay : Nat
  lastPoll : Nat
  /-- Object of the poll now being read, in the order of R514; none when idle. -/
  step : Option Nat
  deriving DecidableEq, Repr

/-- Optics (18). -/
structure Optics where
  modules : List (Nat × Module)
  lives : List (Nat × Life)
  rus : List (Nat × RuState)
  /-- Day whose boundary was evaluated last (R511). -/
  day : Nat
  deriving DecidableEq, Repr

/-! ## Power, supplies, reset and boot (19, 20, 21) -/

/-- Where the power controller stands (R517 to R529, R535). -/
structure Power where
  /-- POWER_STATE phase and state (R535). -/
  phase : Nat
  state : Nat
  /-- Target of a running Dusk, and the block whose vote is awaited, with the time of its prepare (R521, R522). -/
  target : Nat
  block : Nat
  prepAt : Nat
  /-- A wake latched after the point of no return: source and time (R525). -/
  latched : Option (Nat × Nat)
  seen : Nat
  /-- Step of Dawn reached: 0 none, 1 waked, 2 AON_REG_RDY, 3 PSW_RDY, 4 PLL_LOCK (R528). -/
  dawn : Nat
  /-- Dawn began as a wake of this source (R528). -/
  wakeSource : Nat
  /-- LAST_WAKE and LAST_REFUSAL (R535), 128 bits. -/
  lastWake : Nat
  lastRefusal : Nat
  /-- Engine islands gated (R520): island numbers, and idle times. -/
  gatedIslands : List Nat
  islandIdle : List (Nat × Nat)
  /-- Banks that fail the retention check of the Dawn under way (R531). -/
  lostBanks : List Nat
  /-- RESET_N fell during P3: restart cause to take after the ready steps (R547). -/
  pendingCause : Option Nat
  deriving DecidableEq, Repr

/-- Supplies, pins and boot (R536 to R555). -/
structure Supply where
  onBackup : Bool
  pwrGood : Bool
  bkupOk : Bool
  /-- VIN_BKUP_MV (R555). -/
  bkupMv : Nat
  /-- VIN_MAIN within range. -/
  mainOk : Bool
  /-- I47 holds power. -/
  aonUp : Bool
  /-- RESET_N level and the time of its fall (R547). -/
  resetN : Bool
  resetFallAt : Nat
  /-- Last release of RESET_N, from which XSPI_RESET_N stays low for 20 µs (R565). -/
  resetRiseAt : Nat
  /-- EeAUI4 as sampled at the last release of RESET_N (R570). -/
  aui4e0 : Bool
  aui4e1 : Bool
  /-- Restart in progress: its cause (R546) and the time of release; none once serviceable. -/
  restart : Option Nat
  releaseAt : Nat
  /-- RESTART_CAUSE, RESTART_TIME, BOOT_STATE, BOOT_SLOT, BOOT_GENERATION, BOOT_TIME (R555). -/
  cause : Nat
  restartTime : Nat
  bootState : Nat
  bootSlot : Nat
  bootGeneration : Nat
  bootTime : Nat
  /-- FW_RELEASE as booted (R14). -/
  fwRelease : Nat
  refclkLost : Bool
  /-- Islands above 105 °C, and the alarm (R558). -/
  hot : Bool
  /-- A reset that a response must precede (R547). -/
  resetAfter : Option Nat
  deriving DecidableEq, Repr

/-- A boot image held in a flash slot (R549). -/
structure Image where
  bytes : List Byte
  generation : Nat
  release : Nat
  stateFormat : Nat
  variants : Nat
  deriving DecidableEq, Repr

/-- The xSPI bus to the boot flash (R548, R565). -/
structure Xspi where
  /-- In 8D-8D-8D mode; otherwise in 1S-1S-1S mode at 25 MHz. -/
  octal : Bool
  /-- The JESD216 parameter table as read, and the mode-switch sequence and the dummy cycles for 200 MHz taken from it. -/
  table : List Byte
  switchSeq : List Byte
  dummy : Nat
  deriving DecidableEq, Repr

/-- Boot flash and images (R548 to R551, R174). -/
structure Flash where
  xspi : Xspi
  slotA : Option Image
  slotB : Option Image
  /-- FW_IMAGE as written (R191). -/
  fwImage : List Byte
  /-- DEVICE_EPOCH copy in flash (R106). -/
  epoch : Nat
  /-- The maker-lock fuse is blown (R488). -/
  makerLock : Bool
  deriving DecidableEq, Repr

/-! ## What the device sends -/

/-- IP and UDP headers of a frame (R65). -/
structure IpUdp where
  v6 : Bool
  src : Nat
  dst : Nat
  dscp : Nat
  /-- TTL or hop limit. -/
  hop : Nat
  df : Bool
  srcPort : Nat
  dstPort : Nat
  checksum : Nat
  deriving DecidableEq, Repr

/-- An Ethernet frame that a port sends: addresses, 802.1Q tag (priority and VLAN), EtherType, IP and UDP headers and what
follows them (R64, R65, R104). -/
structure EthFrame where
  port : Nat
  dstMac : Nat
  srcMac : Nat
  tag : Option (Nat × Nat)
  etype : Nat
  ip : Option IpUdp
  payload : List Byte
  deriving DecidableEq, Repr

/-- Everything the device has sent or raised outwards, newest last. -/
inductive Out where
  | frame (f : EthFrame)
  | pfc (port prio : Nat) (on : Bool)
  /-- What a read of MS returns (R462). -/
  | serial (bytes : List Byte)
  | mc (link tid index sub : Nat)
  | row (group : Nat) (filler : Bool) (serial : List (List Bool))
  | sectionSent (queue : Nat) (bytes : List Byte)
  | sample (container : Nat) (index : Nat) (value : BitVec 32)
  | header (link : Nat) (mfNum air : Nat) (rdi : Bool)
  /-- A PTP message, EtherType 0x88F7 and untagged: Announce 0, Sync 1 or Delay_Req 2 (R446, R447). -/
  | ptp (port dstMac domain kind : Nat) (params : Announce)
  | ptpResp (port dstMac domain requester t4 : Nat) (correction : Int)
  | forward (port : Nat) (frame : List Byte)
  | beat (time increment : Nat) (step : Option Int)
  | pps
  | clk10
  /-- The channel mask written to the two-wire switch at 0x70 of an OM bus (R506). -/
  | om (bus mask : Nat)
  /-- Nine SCL pulses and a stop condition on an OM bus (R564). -/
  | omClear (bus : Nat)
  | vsel (rail opp : Nat)
  | tdo (reg : Nat)
  | vendor (code : Nat)
  deriving DecidableEq, Repr

/-! ## The machine -/

/-- The whole device. -/
structure State where
  /-- Commands waiting, first in first out. The model's own field. -/
  pending : List Instr
  /-- Counter from which free values are drawn. The model's own field (assumption 5). -/
  free : Nat
  /-- What the device has sent, oldest first. The model's own field (assumption 6). -/
  out : List Out
  /-- What a received pause holds back: port, priority and output (R96). -/
  held : List (Nat × Nat × Out)
  part : Part
  time : TimeUnit
  obj : Objects
  cleip : CleipSt
  fport : FactoryPort
  audit : Audit
  keys : Keys
  /-- DEVICE_EPOCH copy in the always-on island (R106). -/
  epoch : Nat
  /-- The core from which the cores take turns to execute when no command waits. The model's own field. -/
  turn : Nat
  queues : List (Nat × Queue)
  /-- The second always-on copy of what R46, R78 and R83 keep twice, by queue. -/
  aon2 : List (Nat × AonCopy)
  ports : List (Nat × Port)
  asms : List ((Nat × BitVec 32) × Asm)
  jobs : List Job
  nextOrder : Nat
  graphs : List (Nat × Graph)
  /-- Handle map: handle to current version (R35); unlisted handles still have their first buffer. -/
  hmap : List (Nat × Nat)
  vers : List (Nat × Version)
  nextVer : Nat
  pools : List (Nat × PoolSt)
  /-- Journal halves by slot number (R56). -/
  ja : List (Nat × JEntry)
  jb : List (Nat × JEntry)
  /-- Reservations (R92): journal entries, result buffers, ingress bytes. -/
  jReserved : Nat
  rReserved : Nat
  /-- Reservations of retired jobs whose superseded versions are still pinned: buffers and versions (R92). -/
  rLinger : List (Nat × List Nat)
  iReserved : Nat
  /-- Queue served last by the credit grant (R92). -/
  lastGrant : Nat
  lastRefresh : Nat
  cellCfg : List (Nat × CellCfg)
  cellSt : List (Nat × CellSt)
  budgets : List (Nat × Budget)
  lastLearn : Nat
  lastDvfs : Nat
  clusters : List (Nat × Cluster)
  /-- Codes on CL_VSEL_0 to CL_VSEL_3 (R537). -/
  rails : List Nat
  cores : List (Nat × Core)
  mxcs : List (Nat × Mxc)
  engines : List (Nat × Engine)
  /-- Engine entries waiting, in creation order (R281). -/
  entries : List Entry
  chans : List (Nat × Chan)
  mem : Mem
  regions : List (Nat × Region)
  faultLog : List (Nat × FaultRec)
  /-- Tasks of finalised jobs that have not stopped yet (R53, R298). -/
  late : List LateRun
  faultNext : Nat
  overcast : OvercastSt
  sv : Supervisors
  mirrorTx : MirrorTx
  srcs : List MirrorSrc
  fh : Fronthaul
  opt : Optics
  power : Power
  supply : Supply
  flash : Flash
  deriving DecidableEq, Repr

/-! ## Outcomes that are no next state -/

/-- Why the block stops. -/
inductive Fault where
  /-- A command names a unit number that the numbering of the spec does not have (a core from 576 on, a lane from 68 on,
  a port other than E0 and E1, R7 to R10). Raised by the meanings of the commands that name a unit. No such command can
  be given to the hardware, so the stop is safe. -/
  | noSuchUnit (n : Nat)
  deriving DecidableEq, Repr

/-- Why a command has no meaning here. -/
inductive Refusal where
  /-- The command has no meaning in the model yet. Raised by the arms of exec that name no meaning; safe. -/
  | notModelled (mnemonic : String)
  deriving DecidableEq, Repr

/-! ## Values at reset: the parts -/

/-- A queue that has never been configured, with the reset column of R110 and R111. -/
def Queue.init (q : Nat) : Queue :=
  { enable := false, homePort := q % 2, resultSlots := 1, depth := 512, unitsMax := 16384
    nextSeq := 0, creditSeq := 0, releasedSeq := 0xFFFFFFFF, ackSeq := 0xFFFFFFFF
    acceptedUnits := 0, creditUnits := 0, pendingRec := none, activePort := q % 2
    retxDue := 0, retxInterval := 0, retxHalted := none, lastResend := none, toSend := [], creditDue := false
    resends := [], peer0 := none, peer1 := none }

/-- What I47 keeps twice of a queue. -/
def Queue.aon (x : Queue) : AonCopy :=
  { nextSeq := x.nextSeq, releasedSeq := x.releasedSeq, acceptedUnits := x.acceptedUnits, pendingRec := x.pendingRec }

/-- A port that is down (R112). -/
def Port.init : Port :=
  { state := 0, upSince := 0, pending := [], pauses := [], headroom := 0, xoff := false, away := false }

/-- A cluster after a restart: OPP0 and ungated (R149); the temperature reads 0 (assumption 2). -/
def Cluster.init : Cluster :=
  { opp := 0, oppPending := none, oppDue := 0, vReq := 800, gated := false, short := false, thermal := 0, temp := 0
    hotSince := none, idleSince := none, lostAt := none, losses := [], lowRankCycles := 0, lowAt := 0 }

/-- A region in service (R192). -/
def Region.init : Region := { state := 0, strikes := [], retiredAt := 0 }

/-- An empty bundle (R196). -/
def Bundle.init : Bundle :=
  { count := 0, scalars := 0, mems := 0, vecs := 0, flows := 0, writes := [], effs := [], exc := none
    tendSlot := 0, memAt := 0, begun := false }

/-- An invalid segment (R201, R205). -/
def SegReg.init : SegReg := { base := 0, lim := 0, valid := false, readOnly := false, virt := none }

/-- A core that runs nothing. Registers read zero (assumption 2). -/
def Core.init : Core :=
  { task := none, running := false, g := .replicate 32 0, acc := .replicate 4 0, sat := false
    epc := 0, ecause := 0, eaddr := 0, kbase := 0, klimit := 0, cycles := 0, cycleAt := 0
    lpcnt := .replicate 2 0, lpstart := .replicate 2 0, lpend := .replicate 2 0
    cbBase := .replicate 8 0, cbLen := .replicate 8 0, seg := .replicate 8 SegReg.init
    pc := 0, bundle := Bundle.init, commits := 0, sbuf := [], sberr := none, lines := []
    h := .replicate 32 0, w := .replicate 32 0, k := .replicate 8 0, span := 0, vtype := 0
    vfrPc := 0, vfrInfo := 0, vfrAddr := 0, vq := [], vpend := none, vfault := false, vpos := none, vseen := false, vmerge := false
    mxmerge := false, vfaultMade := 0, mxerr := none, slow := none, mxwait := 0
    mxhold := 0, dmaChan := none }

/-- A free matrix coprocessor (R258, R263). -/
def Mxc.init : Mxc :=
  { holder := none, waiting := [], released := false, draining := false, grantAt := 0
    m := .replicate 8 (.replicate 64 0), z := .replicate 4 (.replicate 64 (0, 0)), sat := false }

/-- An idle DMA channel (R404). -/
def Chan.init : Chan :=
  { state := .idle, lastStatus := 0, count := 0, cur := 0, lastDoorbell := 0, desc := none, moved := none
    checks := 0, owner := none, merged := false }

/-- A scrubber that has not begun a lap (R433). -/
def Drizzle.init : Drizzle := { nextAddr := 0, lapStart := 0, lastLap := 0, alarm := false, late := false }

/-- A DRAM channel on set TSA (R433). -/
def DramChan.init : DramChan := { set := 0, changing := false, parityRetries := 0, selfRefresh := false }

/-- A DRAM rank in use. -/
def DramRank.init : DramRank := { powerDown := false, lastRefresh := 0, lastRequest := 0 }

/-- An idle engine (R281). -/
def Engine.init : Engine :=
  { entry := none, startTime := 0, result := none, testing := none, failed := false, busy := 0, lastBusy := 0, gTime := 0, lastGTime := 0 }

/-- A PTP domain before its first exchange (R458). -/
def Domain.init : Domain :=
  { state := 1, offset := 0, pathDelay := 0, gmIdentity := 0, gmClass := 248
    ann0 := none, ann1 := none, good := 0, bad := 0, slave := none, holdoverSince := 0 }

/-- A lane that is off (R346). -/
def Lane.init : Lane :=
  { echo := [], state := .off, drain := .normal, restoring := false, miswired := false, skewExcess := false, signal := false
    laneSeen := 0, skew := 0, slipPos := 0, rxRun := (false, 0), rxBits := [], rxSkip := 0, goodRun := 0, window := [], scr := 0, blocks := [], erased := true
    verifyCount := 0, erasedRun := 0, counters := List.replicate 8 0
    countersPrev := List.replicate 8 0 }

/-- A link that is off (R377). -/
def Link.init : Link :=
  { framer := 0, phaseCounts := [], phase := 0, ownCount := 0, expectMf := 0, hdrFails := 0, noMarker := 0
    framesNoBf0 := 0, rx := [], txRows := [], mfNum := 0, delay := 0, airTimeErr := false, lastAis := false
    lastRdi := false, hdrAir := 0, aisRun := 0, rdiRun := 0, badSecs := 0, goodSecs := 0, secErrRows := 0
    defects := 0, condSince := [], rdiSent := false, stream := [], inStep := false, secPtrs := [], containers := []
    txSecs := [], txPart := false, txStore := [], mcTx := [], mcTxMid := false
    mcBuf := none, mcReq := none, mcNextTid := 0, txBlockCount := 0, txSinceFiller := 0, txBfn := 0, txMfNum := 0
    txScr := List.replicate 17 0, txRuns := List.replicate 17 (false, 0), counters := List.replicate 16 0, countersPrev := List.replicate 16 0, latchSec := 0 }

/-- A virtual link that has carried nothing (R372). -/
def VLink.init : VLink := { seqRx := none, seqTx := 0, activePort := 0, peer0 := none, peer1 := none }

/-- A module position never polled (R515). -/
def Module.init : Module :=
  { state := 0, drainBlocked := false, unplanned := false, temp := 0, bias := [], drift := 0, replaceBy := 0
    serial := none, fails := 0, lastPoll := none, before := 0, todo := [], restoring := false }

/-- A radio unit never polled (R515). -/
def RuState.init : RuState :=
  { serial := 0, hours := 0, temp := 0, replaceBy := 0, readDay := 0, lastPoll := 0, step := none }

/-- Time at power-on (R435, R436, R457). -/
def TimeUnit.init : TimeUnit :=
  { now := 0, frac := 0, increment := 0x200000000, slew := 0, incNow := 0x200000000, slewNow := 0, step := none, stepDemanded := false, traced := false, stepRefused := false
    holdoverExceeded := false, beatAlarm := false, timeLost := false, ppsPresent := false, refLost := false
    on10MHz := false, alarms := [], lastPps := none, ppsOffset := 0, ppsOut := none, ta := Domain.init
    tb := Domain.init, tcCount0 := 0, tcCount1 := 0, secondDone := true }

/-- Memories with nothing written. -/
def Mem.init : Mem :=
  { bytes := [], imem := [], bad := [], ibad := [], aonBad := [], dramValid := [], inEffect := 0x801, activeSet := 0, chans := []
    ranks := [], drizzle := [], scrubFrom := 0, ueLines := [], fillMap := [], filled := [], filledSubs := [], validSubs := [], fills := [], reload := [], rewriting := [], ctxDamaged := false, wqueue := []
    errLog := [], errNext := 0 }

/-- A serial side with nothing stored. -/
def Serial.init : Serial := { response := none, events := [], stored := none }

/-- The supervisors at power-on: pair 0 active, pair 1 standby (R172, R191). -/
def Supervisors.init : Supervisors :=
  { active := 0, pair0 := 0, pair1 := 1, switching := none, lastCopy := 0, updState := 0, updStep := 0, updStart := 0
    fwRunning := 0x0302, copy := { vals := [], doms := [] } }

/-- An outgoing mirror stream not yet begun (R178). -/
def MirrorTx.init : MirrorTx :=
  { nextPos := 0, acked := 0xFFFFFFFF, unacked := [], sentAt := 0, tries := 0, lastSend := 0, lastAck := 0
    reachable := false, fenced := false }

/-- The xSPI bus after XSPI_RESET_N (R548, R565). -/
def Xspi.init : Xspi := { octal := false, table := [], switchSeq := [], dummy := 0 }

/-- A blank-part boot flash programmed as R549 describes: generation 1 in slot A, slot B erased. -/
def Flash.init : Flash :=
  { xspi := Xspi.init, slotA := some { bytes := [], generation := 1, release := 0x0302, stateFormat := 0, variants := 7 }
    slotB := none, fwImage := [], epoch := 0, makerLock := false }

/-- Supplies before the first power-on (R538). -/
def Supply.init : Supply :=
  { onBackup := false, pwrGood := false, bkupOk := false, bkupMv := 0, mainOk := false
    aonUp := false, resetN := false, resetFallAt := 0, resetRiseAt := 0
    aui4e0 := false, aui4e1 := false, restart := none, releaseAt := 0, cause := 0x01, restartTime := 0
    bootState := 0, bootSlot := 0xFF, bootGeneration := 0, bootTime := 0, fwRelease := 0x0302, refclkLost := false
    hot := false, resetAfter := none }

/-- The power controller at power-on (R535). -/
def Power.init : Power :=
  { phase := 0, state := 1, target := 0, block := 0, prepAt := 0, latched := none, seen := 0, dawn := 0
    wakeSource := 0, lastWake := 0, lastRefusal := 0, gatedIslands := [], islandIdle := []
    lostBanks := [], pendingCause := none }

/-- The device before its first power-on: every object at its default, every register at the value R-rules give it,
and at zero where they give none (assumption 2). RESET_N and PWR_GOOD are low and I47 is unpowered (R538). -/
def State.reset : State :=
  { pending := [], free := 0, out := [], held := []
    part := { variant := .m5f, serial := 0, mac0 := 0, mac1 := 0, fusedCores := [] }
    time := TimeUnit.init
    obj := { vals := [], doms := [] }
    cleip := { held := [], blocks := [], subs := [], inService := [], waiting := [], ms := Serial.init, fp := Serial.init
               backup := [], generation := 0, rebuildDue := none, msAddr := 0x4C }
    fport := { fpEn := false, enabled := false, ir := 0x01, wr := [], rd := none, capture := 0 }
    audit := { recs := [], head := 0xFFFFFFFF, exported := 0xFFFFFFFF, lost := 0, lastSeal := 0, sealKind := 0
               restartOld := none }
    keys := { slots := [], flash := none, flash2 := none, lost := false, lock := 0, state := 0, bootPending := false }
    epoch := 0, turn := 0, queues := [], aon2 := [], ports := [], asms := [], jobs := [], nextOrder := 0, graphs := [], hmap := []
    vers := [], nextVer := 0, pools := [], ja := [], jb := [], jReserved := 0, rReserved := 0, rLinger := [], iReserved := 0
    lastGrant := 4095, lastRefresh := 0, cellCfg := [], cellSt := [], budgets := [], lastLearn := 0, lastDvfs := 0
    clusters := [], rails := [3, 3, 3, 3], cores := [], mxcs := [], engines := [], entries := [], chans := [], mem := Mem.init
    regions := [], faultLog := [], late := [], faultNext := 0
    overcast := { on := false, cause := 0, since := 0, lastHeld := [0, 0, 0, 0, 0], total := 0 }
    sv := Supervisors.init, mirrorTx := MirrorTx.init, srcs := []
    fh := { lanes := [], links := [], vers := [], nextVer := 0, txq := [], txOrder := 0, vlinks := [], contTx := [] }
    opt := { modules := [], lives := [], rus := [], day := 0 }
    power := Power.init, supply := Supply.init, flash := Flash.init }

end Sys2Proof.Machine
end

