-- ==== Sys2Proof/Machine/Maps.lean ====
section
/-!
DEFINITION. Finite maps from numbers, as lists of pairs with rising keys, and byte lists as numbers.
-/
namespace Sys2Proof.Machine

/-- The value listed for a key. -/
def kget {α : Type} : List (Nat × α) → Nat → Option α
  | [], _ => none
  | (a, v) :: r, k => if a = k then some v else kget r k

/-- The map with one key set, keys kept rising. -/
def kset {α : Type} : List (Nat × α) → Nat → α → List (Nat × α)
  | [], k, v => [(k, v)]
  | (a, w) :: r, k, v =>
    if k < a then (k, v) :: (a, w) :: r else if a = k then (k, v) :: r else (a, w) :: kset r k v

/-- The map without one key. -/
def kdel {α : Type} : List (Nat × α) → Nat → List (Nat × α)
  | [], _ => []
  | (a, w) :: r, k => if a = k then kdel r k else (a, w) :: kdel r k

/-- The keys of a map rise strictly. -/
def kwf {α : Type} : List (Nat × α) → Bool
  | [] => true
  | [_] => true
  | (a, _) :: (b, w) :: r => decide (a < b) && kwf ((b, w) :: r)

/-- The value listed for a key, or a default. -/
def kgetD {α : Type} (m : List (Nat × α)) (k : Nat) (d : α) : α := (kget m k).getD d

/-- Add an element to a set kept as a rising list. -/
def sinsert : List Nat → Nat → List Nat
  | [], k => [k]
  | a :: r, k => if k < a then k :: a :: r else if a = k then a :: r else a :: sinsert r k

/-- Replace every element that meets a test by its image. -/
def updWhere {α : Type} (p : α → Bool) (f : α → α) (l : List α) : List α :=
  l.map fun x => if p x then f x else x

/-- The n-th element of a list of numbers, zero beyond its end. -/
def nth0 (l : List Nat) (i : Nat) : Nat := l.getD i 0

/-! ## Bytes and numbers -/

/-- The number of n bytes, least significant first. -/
def leNat : List Byte → Nat
  | [] => 0
  | b :: r => b.toNat + 256 * leNat r

/-- The number of a byte list, most significant first. -/
def beNat (l : List Byte) : Nat := leNat l.reverse

/-- The n least significant bytes of a number, least significant first. -/
def leBytes : Nat → Nat → List Byte
  | 0, _ => []
  | n + 1, v => BitVec.ofNat 8 v :: leBytes n (v / 256)

/-- The n least significant bytes of a number, most significant first. -/
def beBytes (n v : Nat) : List Byte := (leBytes n v).reverse

/-- Bits hi down to lo of a number. -/
def bits (v hi lo : Nat) : Nat := v / 2 ^ lo % 2 ^ (hi + 1 - lo)

/-- One bit of a number. -/
def tbit (v n : Nat) : Bool := v.testBit n

/-- A truth value as a number. -/
def b2n (b : Bool) : Nat := if b then 1 else 0

/-- A two's complement number of w bits. -/
def sgn (w v : Nat) : Int := if v % 2 ^ w < 2 ^ (w - 1) then (v % 2 ^ w : Nat) else (v % 2 ^ w : Nat) - (2 ^ w : Nat)

/-- The w-bit pattern of an integer. -/
def unsgn (w : Nat) (v : Int) : Nat := (v % (2 ^ w : Nat)).toNat

/-- n copies of a byte. -/
def fill (n : Nat) (b : Byte) : List Byte := List.replicate n b

/-- n bytes of a list from an offset, zero beyond its end. -/
def slice (l : List Byte) (off n : Nat) : List Byte :=
  let t := (l.drop off).take n
  t ++ List.replicate (n - t.length) 0

/-- The part of a list from an offset, at most n bytes. -/
def cut (l : List Byte) (off n : Nat) : List Byte := (l.drop off).take n

end Sys2Proof.Machine
end

