-- ==== Sys2Proof/Machine/Objects.lean ====
section
/-!
DEFINITION. The object dictionary as the object tables of the spec give it (R12 to R582): index, subindex, type, access
of the three roles, default, persistence and range. Generated from the tables of spec/ by hand-checked extraction.
-/
namespace Sys2Proof.Machine

/-- The types of R478. -/
inductive ObjTy where
  | u8 | u16 | u32 | u64 | i16 | i32 | fix16 | bool | time80 | string | domain
  deriving DecidableEq, Repr

/-- One row of an object table: it stands for `span` consecutive indexes. Access codes: 0 none, 1 r, 2 w, 3 rw, for
host, installer and maker. -/
structure ObjRow where
  index : Nat
  span : Nat
  sub : Nat
  ty : ObjTy
  host : Nat
  installer : Nat
  maker : Nat
  dflt : Nat
  kept : Bool
  lo : Int
  hi : Int
  deriving DecidableEq, Repr

/-- Key of an object: index and subindex in one number (R478). -/
def okey (index sub : Nat) : Nat := index * 256 + sub

/-- Objects from 0x1000:01 to 0x1010:07. -/
def objRows1a : List ObjRow := [
  -- DEVICE_NAME (R12)
  ⟨0x1000, 1, 0x01, .string, 1, 1, 1, 0, false, 0, 0⟩,
  -- VARIANT (R12)
  ⟨0x1000, 1, 0x02, .u8, 1, 1, 1, 0, false, 0, 255⟩,
  -- STEPPING (R12)
  ⟨0x1000, 1, 0x03, .u8, 1, 1, 1, 177, false, 0, 255⟩,
  -- FW_RELEASE (R12)
  ⟨0x1000, 1, 0x04, .u16, 1, 1, 1, 770, false, 0, 65535⟩,
  -- SERIAL (R12)
  ⟨0x1000, 1, 0x05, .u64, 1, 1, 1, 0, false, 0, 18446744073709551615⟩,
  -- FEATURES (R12)
  ⟨0x1010, 1, 0x01, .u64, 1, 1, 1, 0, false, 0, 18446744073709551615⟩,
  -- LD_MASK (R12)
  ⟨0x1010, 1, 0x02, .u64, 1, 1, 1, 0, false, 0, 18446744073709551615⟩,
  -- LE_MASK (R12)
  ⟨0x1010, 1, 0x03, .u32, 1, 1, 1, 0, false, 0, 4294967295⟩,
  -- PC_MASK (R12)
  ⟨0x1010, 1, 0x04, .u16, 1, 1, 1, 0, false, 0, 65535⟩,
  -- FT_MASK (R12)
  ⟨0x1010, 1, 0x05, .u32, 1, 1, 1, 0, false, 0, 4294967295⟩,
  -- NB_CHANNELS (R12)
  ⟨0x1010, 1, 0x06, .u16, 1, 1, 1, 0, false, 0, 65535⟩,
  -- CAPACITY_STREAMS (R12)
  ⟨0x1010, 1, 0x07, .u16, 1, 1, 1, 0, false, 0, 65535⟩]

/-- Objects from 0x2000:01 to 0x2204:04. -/
def objRows2a : List ObjRow := [
  -- MAKER_LOCK (R505)
  ⟨0x2000, 1, 0x01, .u8, 1, 1, 1, 0, false, 0, 255⟩,
  -- FP_STATE (R505)
  ⟨0x2000, 1, 0x02, .u8, 1, 1, 1, 0, false, 0, 255⟩,
  -- MAKER_LOCK_BLOW (R505)
  ⟨0x2000, 1, 0x03, .u32, 0, 0, 2, 0, false, 0, 4294967295⟩,
  -- FP_REFUSED (R505)
  ⟨0x2000, 1, 0x04, .u32, 1, 1, 1, 0, false, 0, 4294967295⟩,
  -- CLEIP_ETYPE (R482)
  ⟨0x2010, 1, 0x01, .u16, 1, 3, 3, 34997, true, 1536, 65535⟩,
  -- CLEIP_UDP (R482)
  ⟨0x2010, 1, 0x02, .u16, 1, 3, 3, 46775, true, 1024, 65535⟩,
  -- CLEIP_ENCAP (R482)
  ⟨0x2010, 1, 0x03, .u8, 1, 3, 3, 7, true, 0, 7⟩,
  -- MS_ADDRESS (R482)
  ⟨0x2010, 1, 0x04, .u8, 1, 3, 3, 76, true, 8, 119⟩,
  -- CLEIP_REPLAY_HOLD (R482)
  ⟨0x2010, 1, 0x05, .u32, 1, 3, 3, 2000, true, 100, 60000⟩,
  -- CLEIP_BLOCK_TIMEOUT (R482)
  ⟨0x2010, 1, 0x06, .u32, 1, 3, 3, 1000, true, 100, 60000⟩,
  -- SUB_LEASE (R482)
  ⟨0x2010, 1, 0x07, .u32, 1, 3, 3, 60, true, 10, 3600⟩,
  -- CONFIG_BACKUP (R482)
  ⟨0x2010, 1, 0x08, .domain, 1, 3, 3, 0, false, 0, 0⟩,
  -- SUBSCRIPTIONS (R482)
  ⟨0x2010, 1, 0x09, .domain, 1, 1, 1, 0, false, 0, 0⟩,
  -- AUDIT_HEAD (R505)
  ⟨0x2100, 1, 0x01, .u32, 1, 1, 1, 0, false, 0, 4294967295⟩,
  -- AUDIT_EXPORTED (R505)
  ⟨0x2100, 1, 0x02, .u32, 1, 3, 3, 4294967295, false, 0, 4294967295⟩,
  -- AUDIT_LOST (R505)
  ⟨0x2100, 1, 0x03, .u32, 1, 1, 1, 0, false, 0, 4294967295⟩,
  -- AUDIT_WARN (R505)
  ⟨0x2100, 1, 0x04, .u16, 1, 3, 3, 12288, true, 1024, 16384⟩,
  -- AUDIT_JOURNAL (R505)
  ⟨0x2101, 1, 0x01, .domain, 1, 1, 1, 0, false, 0, 0⟩,
  -- KEY_SLOTS (R505)
  ⟨0x2200, 1, 0x01, .domain, 1, 1, 1, 0, false, 0, 0⟩,
  -- KEY_LOAD_PLAIN (R505)
  ⟨0x2201, 1, 0x01, .domain, 0, 2, 2, 0, false, 0, 0⟩,
  -- KEY_LOAD_WRAPPED (R505)
  ⟨0x2201, 1, 0x02, .domain, 2, 2, 2, 0, false, 0, 0⟩,
  -- KEY_ERASE (R505)
  ⟨0x2201, 1, 0x03, .u8, 2, 2, 2, 0, false, 0, 255⟩,
  -- CIPHER_LOCK (R505)
  ⟨0x2202, 1, 0x01, .u32, 1, 3, 3, 0, false, 0, 4294967295⟩,
  -- CIPHER_LOCK_BOOT (R505)
  ⟨0x2202, 1, 0x02, .u32, 1, 3, 3, 1, true, 0, 4294967295⟩,
  -- CIPHER_STATE (R505)
  ⟨0x2203, 1, 0x01, .u8, 1, 1, 1, 0, false, 0, 255⟩,
  -- BOOT_KEY_PENDING (R505)
  ⟨0x2203, 1, 0x02, .bool, 1, 1, 1, 0, false, 0, 1⟩,
  -- CIPHER_BLOCKS (R505)
  ⟨0x2204, 1, 0x01, .u32, 1, 1, 1, 0, false, 0, 4294967295⟩,
  -- CIPHER_MISMATCHES (R505)
  ⟨0x2204, 1, 0x02, .u32, 1, 1, 1, 0, false, 0, 4294967295⟩,
  -- KEY_LOADS (R505)
  ⟨0x2204, 1, 0x03, .u32, 1, 1, 1, 0, false, 0, 4294967295⟩,
  -- KEY_LOAD_FAILS (R505)
  ⟨0x2204, 1, 0x04, .u32, 1, 1, 1, 0, false, 0, 4294967295⟩]

/-- Objects from 0x3000:01 to 0x3010:0B. -/
def objRows3a : List ObjRow := [
  -- DEVICE_TIME (R456)
  ⟨0x3000, 1, 0x01, .time80, 1, 1, 1, 0, false, 0, 1208925819614629174706175⟩,
  -- TIME_SET (R456)
  ⟨0x3000, 1, 0x02, .time80, 1, 3, 3, 0, false, 0, 1208925819614629174706175⟩,
  -- SERVO_MODE (R456)
  ⟨0x3000, 1, 0x03, .u8, 1, 3, 3, 0, true, 0, 1⟩,
  -- INCREMENT (R456)
  ⟨0x3000, 1, 0x04, .u64, 3, 3, 3, 8589934592, false, 0, 18446744073709551615⟩,
  -- ADJUST (R456)
  ⟨0x3000, 1, 0x05, .i32, 3, 3, 3, 0, false, -2147483648, 2147483647⟩,
  -- STEP_LIMIT (R456)
  ⟨0x3000, 1, 0x06, .u32, 1, 3, 3, 100, true, 10, 10000⟩,
  -- SLEW_RATE (R456)
  ⟨0x3000, 1, 0x07, .u32, 1, 3, 3, 40, true, 1, 10000⟩,
  -- ACTIVE_DOMAIN (R456)
  ⟨0x3000, 1, 0x08, .u8, 3, 3, 3, 0, true, 0, 1⟩,
  -- SWITCH_MODE (R456)
  ⟨0x3000, 1, 0x09, .u8, 1, 3, 3, 0, true, 0, 1⟩,
  -- TIME_REF_SEL (R456)
  ⟨0x3000, 1, 0x0A, .u8, 1, 3, 3, 0, true, 0, 1⟩,
  -- HOLDOVER_LIMIT (R456)
  ⟨0x3000, 1, 0x0B, .u32, 1, 3, 3, 3600, true, 60, 86400⟩,
  -- STEP_ALLOW (R456)
  ⟨0x3000, 1, 0x0C, .bool, 1, 3, 3, 0, false, 0, 1⟩,
  -- PPS_OUT_MODE (R456)
  ⟨0x3000, 1, 0x0D, .u8, 1, 3, 3, 2, true, 0, 2⟩,
  -- PPS_OUT_WIDTH (R456)
  ⟨0x3000, 1, 0x0E, .u32, 1, 3, 3, 100000, true, 1, 500000⟩,
  -- TIME_FLAGS (R456)
  ⟨0x3000, 1, 0x0F, .u16, 1, 1, 1, 0, false, 0, 65535⟩,
  -- CLK10_OUT_EN (R456)
  ⟨0x3000, 1, 0x10, .bool, 1, 3, 3, 0, true, 0, 1⟩,
  -- PPS_IN_MODE (R456)
  ⟨0x3000, 1, 0x11, .u8, 1, 3, 3, 0, true, 0, 2⟩,
  -- PPS_IN_DELAY (R456)
  ⟨0x3000, 1, 0x12, .i32, 1, 3, 3, 0, true, -100000, 100000⟩,
  -- PPS_IN_OFFSET (R456)
  ⟨0x3000, 1, 0x13, .i32, 1, 1, 1, 0, false, -2147483648, 2147483647⟩,
  -- PTP_ENABLE (R458)
  ⟨0x3010, 1, 0x01, .bool, 1, 3, 3, 1, true, 0, 1⟩,
  -- PTP_DOMAIN (R458)
  ⟨0x3010, 1, 0x02, .u8, 1, 3, 3, 24, true, 24, 43⟩,
  -- PTP_PORTS (R458)
  ⟨0x3010, 2, 0x03, .u8, 1, 3, 3, 3, true, 0, 3⟩,
  -- PTP_MAC (R458)
  ⟨0x3010, 2, 0x04, .u8, 1, 3, 3, 0, true, 0, 1⟩,
  -- LOCAL_PRIO_E0 (R458)
  ⟨0x3010, 2, 0x05, .u8, 1, 3, 3, 128, true, 1, 255⟩,
  -- LOCAL_PRIO_E1 (R458)
  ⟨0x3010, 2, 0x06, .u8, 1, 3, 3, 128, true, 1, 255⟩,
  -- PRIORITY2 (R458)
  ⟨0x3010, 2, 0x07, .u8, 1, 3, 3, 128, true, 0, 255⟩,
  -- ASYMMETRY_E0 (R458)
  ⟨0x3010, 2, 0x08, .i32, 1, 3, 3, 0, true, -2147483648, 2147483647⟩,
  -- ASYMMETRY_E1 (R458)
  ⟨0x3010, 2, 0x09, .i32, 1, 3, 3, 0, true, -2147483648, 2147483647⟩,
  -- DOMAIN_STATE (R458)
  ⟨0x3010, 2, 0x0A, .u8, 1, 1, 1, 1, false, 0, 255⟩,
  -- OFFSET (R458)
  ⟨0x3010, 2, 0x0B, .i32, 1, 1, 1, 0, false, -2147483648, 2147483647⟩]

/-- Objects from 0x3010:0C to 0x3030:09. -/
def objRows3b : List ObjRow := [
  -- MEAN_PATH_DELAY (R458)
  ⟨0x3010, 2, 0x0C, .u32, 1, 1, 1, 0, false, 0, 4294967295⟩,
  -- PORT_STATES (R458)
  ⟨0x3010, 2, 0x0D, .u8, 1, 1, 1, 0, false, 0, 255⟩,
  -- GM_IDENTITY (R458)
  ⟨0x3010, 2, 0x0E, .u64, 1, 1, 1, 0, false, 0, 18446744073709551615⟩,
  -- GM_CLOCK_CLASS (R458)
  ⟨0x3010, 2, 0x0F, .u8, 1, 1, 1, 248, false, 0, 255⟩,
  -- HOLDOVER_TIME (R458)
  ⟨0x3010, 2, 0x10, .u32, 1, 1, 1, 0, false, 0, 4294967295⟩,
  -- PTP_ENABLE (R458)
  ⟨0x3011, 1, 0x01, .bool, 1, 3, 3, 0, true, 0, 1⟩,
  -- PTP_DOMAIN (R458)
  ⟨0x3011, 1, 0x02, .u8, 1, 3, 3, 25, true, 24, 43⟩,
  -- TC_DOMAINS (R456)
  ⟨0x3020, 1, 0x01, .domain, 1, 3, 3, 0, true, 0, 0⟩,
  -- TC_RATE_LIMIT (R456)
  ⟨0x3020, 1, 0x02, .u32, 1, 3, 3, 1024, true, 16, 65536⟩,
  -- PTP_RX (R459)
  ⟨0x3030, 1, 0x01, .u32, 1, 1, 1, 0, false, 0, 4294967295⟩,
  -- PTP_TX (R459)
  ⟨0x3030, 1, 0x02, .u32, 1, 1, 1, 0, false, 0, 4294967295⟩,
  -- PTP_DISCARDED (R459)
  ⟨0x3030, 1, 0x03, .u32, 1, 1, 1, 0, false, 0, 4294967295⟩,
  -- TC_FORWARDED (R459)
  ⟨0x3030, 1, 0x04, .u32, 1, 1, 1, 0, false, 0, 4294967295⟩,
  -- TC_DISCARDED (R459)
  ⟨0x3030, 1, 0x05, .u32, 1, 1, 1, 0, false, 0, 4294967295⟩,
  -- STEPS_APPLIED (R459)
  ⟨0x3030, 1, 0x06, .u32, 1, 1, 1, 0, false, 0, 4294967295⟩,
  -- STEPS_REFUSED (R459)
  ⟨0x3030, 1, 0x07, .u32, 1, 1, 1, 0, false, 0, 4294967295⟩,
  -- DOMAIN_SWITCHES (R459)
  ⟨0x3030, 1, 0x08, .u32, 1, 1, 1, 0, false, 0, 4294967295⟩,
  -- ANNOUNCE_TIMEOUTS (R459)
  ⟨0x3030, 1, 0x09, .u32, 1, 1, 1, 0, false, 0, 4294967295⟩]

/-- Objects from 0x4000:01 to 0x4030:04. The range 0 to 7 of ENCAP_ENABLE is a DESIGN CHOICE (assumption 73). -/
def objRows4a : List ObjRow := [
  -- TRANSPORT_ETYPE (R109)
  ⟨0x4000, 1, 0x01, .u16, 3, 3, 3, 34998, true, 1536, 65535⟩,
  -- TRANSPORT_UDP (R109)
  ⟨0x4000, 1, 0x02, .u16, 3, 3, 3, 46774, true, 1024, 65535⟩,
  -- ENCAP_ENABLE (R109)
  ⟨0x4000, 1, 0x03, .u8, 3, 3, 3, 7, true, 0, 7⟩,
  -- TRANSPORT_PCP (R109)
  ⟨0x4000, 1, 0x04, .u8, 3, 3, 3, 5, true, 0, 7⟩,
  -- DEVICE_EPOCH (R109)
  ⟨0x4000, 1, 0x05, .u32, 1, 1, 1, 0, true, 0, 4294967295⟩,
  -- DEDUP_WINDOW (R109)
  ⟨0x4000, 1, 0x06, .u32, 1, 3, 3, 65536, true, 1024, 1073741824⟩,
  -- ASSEMBLY_TIMEOUT (R109)
  ⟨0x4000, 1, 0x07, .u32, 3, 3, 3, 10000, true, 100, 1000000⟩,
  -- ACCEPT_COALESCE (R109)
  ⟨0x4000, 1, 0x08, .u32, 3, 3, 3, 1000, true, 0, 100000⟩,
  -- COMPL_COALESCE (R109)
  ⟨0x4000, 1, 0x09, .u32, 3, 3, 3, 2000, true, 0, 100000⟩,
  -- RETX_TIMEOUT (R109)
  ⟨0x4000, 1, 0x0A, .u32, 3, 3, 3, 500000, true, 50000, 32000000⟩,
  -- RESEND_HOLDOFF (R109)
  ⟨0x4000, 1, 0x0B, .u32, 3, 3, 3, 50000, true, 10000, 1000000⟩,
  -- CREDIT_REFRESH (R109)
  ⟨0x4000, 1, 0x0C, .u32, 3, 3, 3, 100000, true, 10000, 10000000⟩,
  -- MIRROR_MODE (R109)
  ⟨0x4000, 1, 0x0D, .u8, 1, 3, 3, 0, true, 0, 1⟩,
  -- MIRROR_TIMEOUT (R109)
  ⟨0x4000, 1, 0x0E, .u32, 1, 3, 3, 200000, true, 20000, 10000000⟩,
  -- PORT_DOWN_TIME (R109)
  ⟨0x4000, 1, 0x0F, .u32, 1, 3, 3, 1000000, true, 10000, 100000000⟩,
  -- PORT_UP_HOLD (R109)
  ⟨0x4000, 1, 0x10, .u32, 1, 3, 3, 1000, true, 0, 60000⟩,
  -- INGRESS_FREE (R109)
  ⟨0x4010, 1, 0x01, .u32, 1, 1, 1, 62914560, false, 0, 4294967295⟩,
  -- PFC_XOFF (R109)
  ⟨0x4010, 1, 0x02, .u32, 1, 3, 3, 1048576, true, 65536, 2097152⟩,
  -- RESULT_STORE_BYTES (R109)
  ⟨0x4010, 1, 0x03, .u64, 1, 3, 3, 17179869184, true, 1073741824, 68719476736⟩,
  -- RESULT_BUF_SIZE (R109)
  ⟨0x4010, 1, 0x04, .u32, 1, 3, 3, 65536, true, 4096, 16777216⟩,
  -- RESULT_HANDLES (R109)
  ⟨0x4010, 1, 0x05, .u32, 1, 3, 3, 4096, true, 1, 2147483648⟩,
  -- RESULT_FREE (R109)
  ⟨0x4010, 1, 0x06, .u32, 1, 1, 1, 258048, false, 0, 4294967295⟩,
  -- DRAM_RESERVED (R109)
  ⟨0x4010, 1, 0x07, .u64, 1, 1, 1, 0, false, 0, 18446744073709551615⟩,
  -- QUEUE_CONFIG (R110)
  ⟨0x4020, 1, 0x01, .domain, 3, 3, 3, 0, true, 0, 0⟩,
  -- QUEUE_STATE (R111)
  ⟨0x4021, 1, 0x01, .domain, 1, 1, 1, 0, false, 0, 0⟩,
  -- QUEUE_RESET (R109)
  ⟨0x4022, 1, 0x01, .u16, 3, 3, 3, 0, false, 0, 65535⟩,
  -- RX_BAD_HEADER (R113)
  ⟨0x4030, 1, 0x01, .u32, 1, 1, 1, 0, false, 0, 4294967295⟩,
  -- RX_DUPLICATE_DESC (R113)
  ⟨0x4030, 1, 0x02, .u32, 1, 1, 1, 0, false, 0, 4294967295⟩,
  -- RX_DUPLICATE_DATA (R113)
  ⟨0x4030, 1, 0x03, .u32, 1, 1, 1, 0, false, 0, 4294967295⟩,
  -- RX_STALE (R113)
  ⟨0x4030, 1, 0x04, .u32, 1, 1, 1, 0, false, 0, 4294967295⟩]

/-- Objects from 0x4030:05 to 0x4400:05. -/
def objRows4b : List ObjRow := [
  -- RX_NO_CREDIT (R113)
  ⟨0x4030, 1, 0x05, .u32, 1, 1, 1, 0, false, 0, 4294967295⟩,
  -- ASSEMBLY_EXPIRED (R113)
  ⟨0x4030, 1, 0x06, .u32, 1, 1, 1, 0, false, 0, 4294967295⟩,
  -- POOL_WAITS (R113)
  ⟨0x4030, 1, 0x07, .u32, 1, 1, 1, 0, false, 0, 4294967295⟩,
  -- TX_RETX_RECORDS (R113)
  ⟨0x4030, 1, 0x08, .u32, 1, 1, 1, 0, false, 0, 4294967295⟩,
  -- ACK_INVALID (R113)
  ⟨0x4030, 1, 0x09, .u32, 1, 1, 1, 0, false, 0, 4294967295⟩,
  -- MIRROR_TIMEOUTS (R113)
  ⟨0x4030, 1, 0x0A, .u32, 1, 1, 1, 0, false, 0, 4294967295⟩,
  -- RX_DISABLED (R113)
  ⟨0x4030, 1, 0x0B, .u32, 1, 1, 1, 0, false, 0, 4294967295⟩,
  -- PORT_MAC (R112)
  ⟨0x4040, 2, 0x01, .u64, 1, 3, 3, 0, true, 0, 18446744073709551615⟩,
  -- PORT_IPV4 (R112)
  ⟨0x4040, 2, 0x02, .u32, 3, 3, 3, 0, true, 0, 4294967295⟩,
  -- PORT_IPV6 (R112)
  ⟨0x4040, 2, 0x03, .domain, 3, 3, 3, 0, true, 0, 0⟩,
  -- VLAN_ID (R112)
  ⟨0x4040, 2, 0x04, .u16, 3, 3, 3, 0, true, 0, 4094⟩,
  -- PEER_MAC (R112)
  ⟨0x4040, 2, 0x05, .u64, 3, 3, 3, 0, true, 0, 18446744073709551615⟩,
  -- PEER_IPV4 (R112)
  ⟨0x4040, 2, 0x06, .u32, 3, 3, 3, 0, true, 0, 4294967295⟩,
  -- PEER_IPV6 (R112)
  ⟨0x4040, 2, 0x07, .domain, 3, 3, 3, 0, true, 0, 0⟩,
  -- PORT_STATE (R112)
  ⟨0x4040, 2, 0x08, .u8, 1, 1, 1, 0, false, 0, 255⟩,
  -- POOL_KIND (R32)
  ⟨0x4301, 254, 0x01, .u8, 1, 1, 1, 0, false, 0, 255⟩,
  -- POOL_BUF_SIZE (R32)
  ⟨0x4301, 254, 0x02, .u32, 3, 3, 3, 0, true, 0, 4294967295⟩,
  -- POOL_COUNT (R32)
  ⟨0x4301, 254, 0x03, .u32, 3, 3, 3, 0, true, 0, 16777216⟩,
  -- POOL_SHADOW (R32)
  ⟨0x4301, 254, 0x04, .u32, 3, 3, 3, 0, true, 0, 4294967295⟩,
  -- POOL_BASE (R32)
  ⟨0x4301, 254, 0x05, .u64, 3, 3, 3, 0, true, 0, 18446744073709551615⟩,
  -- POOL_CLUSTER (R32)
  ⟨0x4301, 254, 0x06, .u8, 3, 3, 3, 0, true, 0, 255⟩,
  -- JOURNAL_ENTRIES (R61)
  ⟨0x4400, 1, 0x01, .u32, 1, 1, 1, 131072, false, 0, 4294967295⟩,
  -- JOURNAL_FREE (R61)
  ⟨0x4400, 1, 0x02, .u32, 1, 1, 1, 131072, false, 0, 4294967295⟩,
  -- JOURNAL_REPAIRS (R61)
  ⟨0x4400, 1, 0x03, .u32, 1, 1, 1, 0, false, 0, 4294967295⟩,
  -- RELEASE_HOLD (R61)
  ⟨0x4400, 1, 0x04, .u32, 3, 3, 3, 100000, true, 1000, 10000000⟩,
  -- DET_FAULTS (R61)
  ⟨0x4400, 1, 0x05, .u32, 1, 1, 1, 0, false, 0, 4294967295⟩]

/-- Objects from 0x5000:01 to 0x5001:02. -/
def objRows5a : List ObjRow := [
  -- HORIZON_DEFAULT (R147)
  ⟨0x5000, 1, 0x01, .u8, 3, 3, 3, 4, true, 1, 16⟩,
  -- U_MAX (R147)
  ⟨0x5000, 1, 0x02, .fix16, 3, 3, 3, 29491, true, 8192, 32440⟩,
  -- U_ACC (R147)
  ⟨0x5000, 1, 0x03, .fix16, 3, 3, 3, 29491, true, 8192, 32440⟩,
  -- ESTIMATE_MODE (R147)
  ⟨0x5000, 1, 0x04, .u8, 3, 3, 3, 2, true, 0, 2⟩,
  -- OVERRUN_MARGIN (R147)
  ⟨0x5000, 1, 0x05, .fix16, 3, 3, 3, 8192, true, 0, 32767⟩,
  -- EVICT_MAX (R147)
  ⟨0x5000, 1, 0x06, .u8, 3, 3, 3, 4, true, 1, 16⟩,
  -- UNTIMED_AGE (R147)
  ⟨0x5000, 1, 0x07, .u32, 3, 3, 3, 10000, true, 100, 10000000⟩,
  -- WD_FACTOR (R147)
  ⟨0x5000, 1, 0x08, .u8, 3, 3, 3, 8, true, 2, 64⟩,
  -- WD_MIN (R147)
  ⟨0x5000, 1, 0x09, .u32, 3, 3, 3, 1000000, true, 10000, 4000000000⟩,
  -- DVFS_PERIOD (R147)
  ⟨0x5000, 1, 0x0A, .u32, 3, 3, 3, 10000, true, 1000, 1000000⟩,
  -- DVFS_TARGET (R147)
  ⟨0x5000, 1, 0x0B, .fix16, 3, 3, 3, 24576, true, 8192, 32440⟩,
  -- OPP_CEILING (R147)
  ⟨0x5000, 1, 0x0C, .u8, 3, 3, 3, 0, true, 0, 3⟩,
  -- GATE_IDLE (R147)
  ⟨0x5000, 1, 0x0D, .u32, 3, 3, 3, 500, true, 50, 10000000⟩,
  -- CLUSTERS_WARM (R147)
  ⟨0x5000, 1, 0x0E, .u8, 3, 3, 3, 1, true, 0, 15⟩,
  -- MIGRATE_ENABLE (R147)
  ⟨0x5000, 1, 0x0F, .u8, 3, 3, 3, 7, true, 0, 7⟩,
  -- MIGRATE_HIGH (R147)
  ⟨0x5000, 1, 0x10, .fix16, 3, 3, 3, 27853, true, 16384, 32767⟩,
  -- MIGRATE_LOW (R147)
  ⟨0x5000, 1, 0x11, .fix16, 3, 3, 3, 19661, true, 4096, 28672⟩,
  -- MIGRATE_HOLDOFF (R147)
  ⟨0x5000, 1, 0x12, .u32, 3, 3, 3, 1000, true, 10, 3600000⟩,
  -- THERMAL_MIGRATE (R147)
  ⟨0x5000, 1, 0x13, .i16, 3, 3, 3, 98, true, 70, 103⟩,
  -- THERMAL_OPP (R147)
  ⟨0x5000, 1, 0x14, .i16, 3, 3, 3, 101, true, 70, 103⟩,
  -- LEARN_ENABLE (R147)
  ⟨0x5000, 1, 0x15, .bool, 3, 3, 3, 1, true, 0, 1⟩,
  -- LEARN_TAIL (R147)
  ⟨0x5000, 1, 0x16, .u32, 3, 3, 3, 100, true, 1, 100000⟩,
  -- LEARN_MARGIN (R147)
  ⟨0x5000, 1, 0x17, .fix16, 3, 3, 3, 2048, true, 0, 16384⟩,
  -- LEARN_MIN (R147)
  ⟨0x5000, 1, 0x18, .u32, 3, 3, 3, 1000, true, 16, 1000000⟩,
  -- LEARN_PERIOD (R147)
  ⟨0x5000, 1, 0x19, .u32, 3, 3, 3, 1000, true, 10, 60000⟩,
  -- DECAY_SHIFT (R147)
  ⟨0x5000, 1, 0x1A, .u8, 3, 3, 3, 6, true, 2, 16⟩,
  -- MXC_QUAD_TASKS (R277)
  ⟨0x5000, 1, 0x1B, .u8, 3, 3, 3, 2, true, 1, 4⟩,
  -- MXC_WAIT_EVICT (R277)
  ⟨0x5000, 1, 0x1C, .u32, 3, 3, 3, 20000, true, 1000, 1000000⟩,
  -- HORIZON_DEFAULT_LOWER (R146)
  ⟨0x5001, 1, 0x01, .u8, 1, 3, 3, 1, true, 0, 255⟩,
  -- U_MAX_LOWER (R146)
  ⟨0x5001, 1, 0x02, .fix16, 1, 3, 3, 8192, true, -32768, 32767⟩]

/-- Objects from 0x5001:03 to 0x5002:04. -/
def objRows5b : List ObjRow := [
  -- U_ACC_LOWER (R146)
  ⟨0x5001, 1, 0x03, .fix16, 1, 3, 3, 8192, true, -32768, 32767⟩,
  -- ESTIMATE_MODE_LOWER (R146)
  ⟨0x5001, 1, 0x04, .u8, 1, 3, 3, 0, true, 0, 255⟩,
  -- OVERRUN_MARGIN_LOWER (R146)
  ⟨0x5001, 1, 0x05, .fix16, 1, 3, 3, 0, true, -32768, 32767⟩,
  -- EVICT_MAX_LOWER (R146)
  ⟨0x5001, 1, 0x06, .u8, 1, 3, 3, 1, true, 0, 255⟩,
  -- UNTIMED_AGE_LOWER (R146)
  ⟨0x5001, 1, 0x07, .u32, 1, 3, 3, 100, true, 0, 4294967295⟩,
  -- WD_FACTOR_LOWER (R146)
  ⟨0x5001, 1, 0x08, .u8, 1, 3, 3, 2, true, 0, 255⟩,
  -- WD_MIN_LOWER (R146)
  ⟨0x5001, 1, 0x09, .u32, 1, 3, 3, 10000, true, 0, 4294967295⟩,
  -- DVFS_PERIOD_LOWER (R146)
  ⟨0x5001, 1, 0x0A, .u32, 1, 3, 3, 1000, true, 0, 4294967295⟩,
  -- DVFS_TARGET_LOWER (R146)
  ⟨0x5001, 1, 0x0B, .fix16, 1, 3, 3, 8192, true, -32768, 32767⟩,
  -- OPP_CEILING_LOWER (R146)
  ⟨0x5001, 1, 0x0C, .u8, 1, 3, 3, 0, true, 0, 255⟩,
  -- GATE_IDLE_LOWER (R146)
  ⟨0x5001, 1, 0x0D, .u32, 1, 3, 3, 50, true, 0, 4294967295⟩,
  -- CLUSTERS_WARM_LOWER (R146)
  ⟨0x5001, 1, 0x0E, .u8, 1, 3, 3, 0, true, 0, 255⟩,
  -- MIGRATE_ENABLE_LOWER (R146)
  ⟨0x5001, 1, 0x0F, .u8, 1, 3, 3, 0, true, 0, 255⟩,
  -- MIGRATE_HIGH_LOWER (R146)
  ⟨0x5001, 1, 0x10, .fix16, 1, 3, 3, 16384, true, -32768, 32767⟩,
  -- MIGRATE_LOW_LOWER (R146)
  ⟨0x5001, 1, 0x11, .fix16, 1, 3, 3, 4096, true, -32768, 32767⟩,
  -- MIGRATE_HOLDOFF_LOWER (R146)
  ⟨0x5001, 1, 0x12, .u32, 1, 3, 3, 10, true, 0, 4294967295⟩,
  -- THERMAL_MIGRATE_LOWER (R146)
  ⟨0x5001, 1, 0x13, .i16, 1, 3, 3, 70, true, -32768, 32767⟩,
  -- THERMAL_OPP_LOWER (R146)
  ⟨0x5001, 1, 0x14, .i16, 1, 3, 3, 70, true, -32768, 32767⟩,
  -- LEARN_ENABLE_LOWER (R146)
  ⟨0x5001, 1, 0x15, .bool, 1, 3, 3, 0, true, 0, 1⟩,
  -- LEARN_TAIL_LOWER (R146)
  ⟨0x5001, 1, 0x16, .u32, 1, 3, 3, 1, true, 0, 4294967295⟩,
  -- LEARN_MARGIN_LOWER (R146)
  ⟨0x5001, 1, 0x17, .fix16, 1, 3, 3, 0, true, -32768, 32767⟩,
  -- LEARN_MIN_LOWER (R146)
  ⟨0x5001, 1, 0x18, .u32, 1, 3, 3, 16, true, 0, 4294967295⟩,
  -- LEARN_PERIOD_LOWER (R146)
  ⟨0x5001, 1, 0x19, .u32, 1, 3, 3, 10, true, 0, 4294967295⟩,
  -- DECAY_SHIFT_LOWER (R146)
  ⟨0x5001, 1, 0x1A, .u8, 1, 3, 3, 2, true, 0, 255⟩,
  -- MXC_QUAD_TASKS_LOWER (R146)
  ⟨0x5001, 1, 0x1B, .u8, 1, 3, 3, 1, true, 0, 255⟩,
  -- MXC_WAIT_EVICT_LOWER (R146)
  ⟨0x5001, 1, 0x1C, .u32, 1, 3, 3, 1000, true, 0, 4294967295⟩,
  -- HORIZON_DEFAULT_UPPER (R146)
  ⟨0x5002, 1, 0x01, .u8, 1, 3, 3, 16, true, 0, 255⟩,
  -- U_MAX_UPPER (R146)
  ⟨0x5002, 1, 0x02, .fix16, 1, 3, 3, 32440, true, -32768, 32767⟩,
  -- U_ACC_UPPER (R146)
  ⟨0x5002, 1, 0x03, .fix16, 1, 3, 3, 32440, true, -32768, 32767⟩,
  -- ESTIMATE_MODE_UPPER (R146)
  ⟨0x5002, 1, 0x04, .u8, 1, 3, 3, 2, true, 0, 255⟩]

/-- Objects from 0x5002:05 to 0x5103:01. -/
def objRows5c : List ObjRow := [
  -- OVERRUN_MARGIN_UPPER (R146)
  ⟨0x5002, 1, 0x05, .fix16, 1, 3, 3, 32767, true, -32768, 32767⟩,
  -- EVICT_MAX_UPPER (R146)
  ⟨0x5002, 1, 0x06, .u8, 1, 3, 3, 16, true, 0, 255⟩,
  -- UNTIMED_AGE_UPPER (R146)
  ⟨0x5002, 1, 0x07, .u32, 1, 3, 3, 10000000, true, 0, 4294967295⟩,
  -- WD_FACTOR_UPPER (R146)
  ⟨0x5002, 1, 0x08, .u8, 1, 3, 3, 64, true, 0, 255⟩,
  -- WD_MIN_UPPER (R146)
  ⟨0x5002, 1, 0x09, .u32, 1, 3, 3, 4000000000, true, 0, 4294967295⟩,
  -- DVFS_PERIOD_UPPER (R146)
  ⟨0x5002, 1, 0x0A, .u32, 1, 3, 3, 1000000, true, 0, 4294967295⟩,
  -- DVFS_TARGET_UPPER (R146)
  ⟨0x5002, 1, 0x0B, .fix16, 1, 3, 3, 32440, true, -32768, 32767⟩,
  -- OPP_CEILING_UPPER (R146)
  ⟨0x5002, 1, 0x0C, .u8, 1, 3, 3, 3, true, 0, 255⟩,
  -- GATE_IDLE_UPPER (R146)
  ⟨0x5002, 1, 0x0D, .u32, 1, 3, 3, 10000000, true, 0, 4294967295⟩,
  -- CLUSTERS_WARM_UPPER (R146)
  ⟨0x5002, 1, 0x0E, .u8, 1, 3, 3, 15, true, 0, 255⟩,
  -- MIGRATE_ENABLE_UPPER (R146)
  ⟨0x5002, 1, 0x0F, .u8, 1, 3, 3, 7, true, 0, 255⟩,
  -- MIGRATE_HIGH_UPPER (R146)
  ⟨0x5002, 1, 0x10, .fix16, 1, 3, 3, 32767, true, -32768, 32767⟩,
  -- MIGRATE_LOW_UPPER (R146)
  ⟨0x5002, 1, 0x11, .fix16, 1, 3, 3, 28672, true, -32768, 32767⟩,
  -- MIGRATE_HOLDOFF_UPPER (R146)
  ⟨0x5002, 1, 0x12, .u32, 1, 3, 3, 3600000, true, 0, 4294967295⟩,
  -- THERMAL_MIGRATE_UPPER (R146)
  ⟨0x5002, 1, 0x13, .i16, 1, 3, 3, 103, true, -32768, 32767⟩,
  -- THERMAL_OPP_UPPER (R146)
  ⟨0x5002, 1, 0x14, .i16, 1, 3, 3, 103, true, -32768, 32767⟩,
  -- LEARN_ENABLE_UPPER (R146)
  ⟨0x5002, 1, 0x15, .bool, 1, 3, 3, 1, true, 0, 1⟩,
  -- LEARN_TAIL_UPPER (R146)
  ⟨0x5002, 1, 0x16, .u32, 1, 3, 3, 100000, true, 0, 4294967295⟩,
  -- LEARN_MARGIN_UPPER (R146)
  ⟨0x5002, 1, 0x17, .fix16, 1, 3, 3, 16384, true, -32768, 32767⟩,
  -- LEARN_MIN_UPPER (R146)
  ⟨0x5002, 1, 0x18, .u32, 1, 3, 3, 1000000, true, 0, 4294967295⟩,
  -- LEARN_PERIOD_UPPER (R146)
  ⟨0x5002, 1, 0x19, .u32, 1, 3, 3, 60000, true, 0, 4294967295⟩,
  -- DECAY_SHIFT_UPPER (R146)
  ⟨0x5002, 1, 0x1A, .u8, 1, 3, 3, 16, true, 0, 255⟩,
  -- MXC_QUAD_TASKS_UPPER (R146)
  ⟨0x5002, 1, 0x1B, .u8, 1, 3, 3, 4, true, 0, 255⟩,
  -- MXC_WAIT_EVICT_UPPER (R146)
  ⟨0x5002, 1, 0x1C, .u32, 1, 3, 3, 1000000, true, 0, 4294967295⟩,
  -- CELL_CONFIG (R115)
  ⟨0x5100, 1, 0x01, .domain, 3, 3, 3, 0, true, 0, 0⟩,
  -- CELL_STATE (R148)
  ⟨0x5101, 1, 0x01, .domain, 1, 1, 1, 0, false, 0, 0⟩,
  -- ADMIT_PROBE (R150)
  ⟨0x5102, 1, 0x01, .domain, 3, 3, 3, 0, false, 0, 0⟩,
  -- PROBE_RESULT (R150)
  ⟨0x5102, 1, 0x02, .u8, 1, 1, 1, 0, false, 0, 255⟩,
  -- PROBE_HEADROOM (R150)
  ⟨0x5102, 1, 0x03, .i32, 1, 1, 1, 0, false, -2147483648, 2147483647⟩,
  -- MIGRATE_CMD (R151)
  ⟨0x5103, 1, 0x01, .u32, 3, 3, 3, 0, false, 0, 4294967295⟩]

/-- Objects from 0x5200:01 to 0x5400:0A. -/
def objRows5d : List ObjRow := [
  -- KERNEL_TABLE (R137)
  ⟨0x5200, 1, 0x01, .domain, 1, 3, 3, 0, false, 0, 0⟩,
  -- CLUSTER_STATE (R149)
  ⟨0x5300, 1, 0x01, .domain, 1, 1, 1, 0, false, 0, 0⟩,
  -- ADMIT_GUARANTEED (R152)
  ⟨0x5400, 1, 0x01, .u32, 1, 1, 1, 0, false, 0, 4294967295⟩,
  -- ADMIT_DEMOTED (R152)
  ⟨0x5400, 1, 0x02, .u32, 1, 1, 1, 0, false, 0, 4294967295⟩,
  -- ADMIT_BEST_EFFORT (R152)
  ⟨0x5400, 1, 0x03, .u32, 1, 1, 1, 0, false, 0, 4294967295⟩,
  -- EXPIRED_UNSTARTED (R152)
  ⟨0x5400, 1, 0x04, .u32, 1, 1, 1, 0, false, 0, 4294967295⟩,
  -- EVICTIONS (R152)
  ⟨0x5400, 1, 0x05, .u32, 1, 1, 1, 0, false, 0, 4294967295⟩,
  -- OVERRUN_MARKS (R152)
  ⟨0x5400, 1, 0x06, .u32, 1, 1, 1, 0, false, 0, 4294967295⟩,
  -- WATCHDOG_EXPIRIES (R152)
  ⟨0x5400, 1, 0x07, .u32, 1, 1, 1, 0, false, 0, 4294967295⟩,
  -- MIGRATIONS (R152)
  ⟨0x5400, 1, 0x08, .u32, 1, 1, 1, 0, false, 0, 4294967295⟩,
  -- OPP_CHANGES (R152)
  ⟨0x5400, 1, 0x09, .u32, 1, 1, 1, 0, false, 0, 4294967295⟩,
  -- CAPACITY_SHORT_EVENTS (R152)
  ⟨0x5400, 1, 0x0A, .u32, 1, 1, 1, 0, false, 0, 4294967295⟩]

/-- Objects from 0x6000:01 to 0x6030:09. -/
def objRows6a : List ObjRow := [
  -- SPARE_CORES (R191)
  ⟨0x6000, 1, 0x01, .u8, 1, 3, 3, 1, true, 0, 4⟩,
  -- ENGINE_SPARES (R191)
  ⟨0x6000, 1, 0x02, .u16, 1, 3, 3, 0, true, 0, 65535⟩,
  -- REPLAY_MAX (R191)
  ⟨0x6000, 1, 0x03, .u8, 3, 3, 3, 4, true, 2, 16⟩,
  -- RETIRE_STRIKES (R191)
  ⟨0x6000, 1, 0x04, .u8, 1, 3, 3, 3, true, 1, 15⟩,
  -- RETIRE_WINDOW (R191)
  ⟨0x6000, 1, 0x05, .u32, 1, 3, 3, 86400, true, 3600, 2592000⟩,
  -- ISLAND_RESTORES (R191)
  ⟨0x6000, 1, 0x06, .u8, 1, 3, 3, 2, true, 1, 8⟩,
  -- OVERCAST_MASK (R191)
  ⟨0x6000, 1, 0x07, .u8, 1, 3, 3, 15, true, 0, 31⟩,
  -- OVERCAST_EXIT_HOLD (R191)
  ⟨0x6000, 1, 0x08, .u32, 1, 3, 3, 100, true, 0, 60000⟩,
  -- OVERCAST (R191)
  ⟨0x6000, 1, 0x09, .u8, 1, 1, 1, 0, false, 0, 255⟩,
  -- OVERCAST_CAUSE (R191)
  ⟨0x6000, 1, 0x0A, .u8, 1, 1, 1, 0, false, 0, 255⟩,
  -- OVERCAST_TIME (R191)
  ⟨0x6000, 1, 0x0B, .u64, 1, 1, 1, 0, false, 0, 18446744073709551615⟩,
  -- SV_ACTIVE (R191)
  ⟨0x6000, 1, 0x0C, .u8, 1, 1, 1, 0, false, 0, 255⟩,
  -- FW_RUNNING (R191)
  ⟨0x6000, 1, 0x0D, .u16, 1, 1, 1, 770, false, 0, 65535⟩,
  -- FW_UPDATE_CMD (R191)
  ⟨0x6000, 1, 0x0E, .u8, 1, 3, 3, 0, false, 0, 255⟩,
  -- FW_UPDATE_STATE (R191)
  ⟨0x6000, 1, 0x0F, .u8, 1, 1, 1, 0, false, 0, 255⟩,
  -- FW_IMAGE (R191)
  ⟨0x6001, 1, 0x01, .domain, 1, 3, 3, 0, false, 0, 0⟩,
  -- REGION_STATE (R191)
  ⟨0x6010, 1, 0x01, .domain, 1, 1, 1, 0, true, 0, 0⟩,
  -- REGION_RESTORE (R191)
  ⟨0x6011, 1, 0x01, .u16, 1, 3, 3, 0, false, 0, 65535⟩,
  -- REGION_RETIRE (R191)
  ⟨0x6011, 1, 0x02, .u16, 1, 3, 3, 0, false, 0, 65535⟩,
  -- FAULT_LOG (R191)
  ⟨0x6020, 1, 0x01, .domain, 1, 1, 1, 0, false, 0, 0⟩,
  -- FAULT_LOG_NEXT (R191)
  ⟨0x6020, 1, 0x02, .u16, 1, 1, 1, 0, false, 0, 65535⟩,
  -- DEVICE_NUMBER (R195)
  ⟨0x6030, 1, 0x01, .u16, 1, 3, 3, 0, true, 0, 1023⟩,
  -- BUDDY (R195)
  ⟨0x6030, 1, 0x02, .u16, 1, 3, 3, 65535, true, 0, 65535⟩,
  -- MIRROR_FROM0 (R195)
  ⟨0x6030, 1, 0x03, .u16, 1, 3, 3, 65535, true, 0, 65535⟩,
  -- MIRROR_FROM1 (R195)
  ⟨0x6030, 1, 0x04, .u16, 1, 3, 3, 65535, true, 0, 65535⟩,
  -- MIRROR_SHARE (R195)
  ⟨0x6030, 1, 0x05, .u32, 1, 3, 3, 16384, true, 1024, 32768⟩,
  -- TAKEOVER_MODE (R195)
  ⟨0x6030, 1, 0x06, .u8, 1, 3, 3, 0, true, 0, 1⟩,
  -- BUDDY_FENCE_TIME (R195)
  ⟨0x6030, 1, 0x07, .u32, 1, 3, 3, 20, true, 2, 1000⟩,
  -- BUDDY_DEAD_TIME (R195)
  ⟨0x6030, 1, 0x08, .u32, 1, 3, 3, 50, true, 12, 2000⟩,
  -- TAKEOVER_CMD (R195)
  ⟨0x6030, 1, 0x09, .u16, 3, 3, 3, 65535, false, 0, 65535⟩]

/-- Objects from 0x6030:0A to 0x6040:0B. -/
def objRows6b : List ObjRow := [
  -- BUDDY_STATE (R195)
  ⟨0x6030, 1, 0x0A, .u8, 1, 1, 1, 0, false, 0, 255⟩,
  -- TAKEOVER_STATE (R195)
  ⟨0x6030, 1, 0x0B, .u8, 1, 1, 1, 0, false, 0, 255⟩,
  -- BUDDY_RELEASE (R195)
  ⟨0x6030, 1, 0x0C, .u16, 1, 3, 1, 0, false, 0, 65535⟩,
  -- BUDDY_MAC (R195)
  ⟨0x6031, 2, 0x01, .u64, 1, 3, 3, 0, true, 0, 18446744073709551615⟩,
  -- BUDDY_IPV4 (R195)
  ⟨0x6031, 2, 0x02, .u32, 1, 3, 3, 0, true, 0, 4294967295⟩,
  -- BUDDY_IPV6 (R195)
  ⟨0x6031, 2, 0x03, .domain, 1, 3, 3, 0, true, 0, 0⟩,
  -- REPLAYS (R194)
  ⟨0x6040, 1, 0x01, .u32, 1, 1, 1, 0, false, 0, 4294967295⟩,
  -- HALO_PAIRS (R194)
  ⟨0x6040, 1, 0x02, .u32, 1, 1, 1, 0, false, 0, 4294967295⟩,
  -- HALO_MISMATCHES (R194)
  ⟨0x6040, 1, 0x03, .u32, 1, 1, 1, 0, false, 0, 4294967295⟩,
  -- VOTES (R194)
  ⟨0x6040, 1, 0x04, .u32, 1, 1, 1, 0, false, 0, 4294967295⟩,
  -- REPLAY_LIMITS (R194)
  ⟨0x6040, 1, 0x05, .u32, 1, 1, 1, 0, false, 0, 4294967295⟩,
  -- RETIREMENTS (R194)
  ⟨0x6040, 1, 0x06, .u32, 1, 1, 1, 0, false, 0, 4294967295⟩,
  -- ISLAND_LOSSES (R194)
  ⟨0x6040, 1, 0x07, .u32, 1, 1, 1, 0, false, 0, 4294967295⟩,
  -- SV_SWITCHOVERS (R194)
  ⟨0x6040, 1, 0x08, .u32, 1, 1, 1, 0, false, 0, 4294967295⟩,
  -- OVERCAST_ENTRIES (R194)
  ⟨0x6040, 1, 0x09, .u32, 1, 1, 1, 0, false, 0, 4294967295⟩,
  -- TAKEOVERS (R194)
  ⟨0x6040, 1, 0x0A, .u32, 1, 1, 1, 0, false, 0, 4294967295⟩,
  -- FENCES (R194)
  ⟨0x6040, 1, 0x0B, .u32, 1, 1, 1, 0, false, 0, 4294967295⟩]

/-- Objects from 0x7000:01 to 0x7150:01. -/
def objRows7a : List ObjRow := [
  -- GROUP_ENABLE (R343)
  ⟨0x7000, 1, 0x01, .u8, 1, 3, 3, 0, true, 0, 15⟩,
  -- SLIP_MODE (R343)
  ⟨0x7000, 1, 0x02, .u8, 1, 3, 3, 0, true, 0, 15⟩,
  -- DESKEW_MAX (R343)
  ⟨0x7000, 1, 0x03, .u8, 1, 3, 3, 32, true, 1, 48⟩,
  -- DRAIN_VERIFY (R343)
  ⟨0x7000, 1, 0x04, .u32, 1, 3, 3, 1048576, true, 1024, 16777216⟩,
  -- LANE_CONFIG (R343)
  ⟨0x7020, 1, 0x01, .domain, 1, 3, 3, 0, true, 0, 0⟩,
  -- LANE_STATUS (R343)
  ⟨0x7021, 1, 0x01, .domain, 1, 1, 1, 0, false, 0, 0⟩,
  -- LANE_CMD (R343)
  ⟨0x7022, 1, 0x01, .u16, 3, 3, 3, 0, false, 0, 65535⟩,
  -- LANE_COUNTERS (R343)
  ⟨0x7030, 1, 0x01, .domain, 1, 1, 1, 0, false, 0, 0⟩,
  -- LANE_COUNTERS_PREV (R343)
  ⟨0x7031, 1, 0x01, .domain, 1, 1, 1, 0, false, 0, 0⟩,
  -- LINK_CONFIG (R374)
  ⟨0x7100, 1, 0x01, .domain, 1, 3, 3, 0, true, 0, 0⟩,
  -- LOS_SET (R374)
  ⟨0x7101, 1, 0x01, .u32, 1, 3, 3, 2, true, 1, 1000⟩,
  -- LOS_CLEAR (R374)
  ⟨0x7101, 1, 0x02, .u32, 1, 3, 3, 100, true, 10, 10000⟩,
  -- LOF_SET (R374)
  ⟨0x7101, 1, 0x03, .u32, 1, 3, 3, 3, true, 1, 1000⟩,
  -- LOF_CLEAR (R374)
  ⟨0x7101, 1, 0x04, .u32, 1, 3, 3, 1000, true, 10, 100000⟩,
  -- LOM_SET (R374)
  ⟨0x7101, 1, 0x05, .u32, 1, 3, 3, 300, true, 140, 10000⟩,
  -- LOM_CLEAR (R374)
  ⟨0x7101, 1, 0x06, .u32, 1, 3, 3, 1000, true, 140, 100000⟩,
  -- AIS_SET (R374)
  ⟨0x7101, 1, 0x07, .u8, 1, 3, 3, 2, true, 1, 16⟩,
  -- AIS_CLEAR (R374)
  ⟨0x7101, 1, 0x08, .u8, 1, 3, 3, 2, true, 1, 16⟩,
  -- RDI_SET (R374)
  ⟨0x7101, 1, 0x09, .u8, 1, 3, 3, 2, true, 1, 16⟩,
  -- RDI_CLEAR (R374)
  ⟨0x7101, 1, 0x0A, .u8, 1, 3, 3, 2, true, 1, 16⟩,
  -- DEG_SET (R374)
  ⟨0x7101, 1, 0x0B, .u8, 1, 3, 3, 7, true, 2, 10⟩,
  -- DEG_CLEAR (R374)
  ⟨0x7101, 1, 0x0C, .u8, 1, 3, 3, 7, true, 2, 10⟩,
  -- DEG_THRESHOLD (R374)
  ⟨0x7101, 1, 0x0D, .u32, 1, 3, 3, 12310, true, 1, 100000000⟩,
  -- TD_CONTAINERS (R374)
  ⟨0x7110, 1, 0x01, .domain, 1, 3, 3, 0, true, 0, 0⟩,
  -- LINK_STATUS (R374)
  ⟨0x7120, 1, 0x01, .domain, 1, 1, 1, 0, false, 0, 0⟩,
  -- LINK_COUNTERS (R374)
  ⟨0x7130, 1, 0x01, .domain, 1, 1, 1, 0, false, 0, 0⟩,
  -- LINK_COUNTERS_PREV (R374)
  ⟨0x7131, 1, 0x01, .domain, 1, 1, 1, 0, false, 0, 0⟩,
  -- MC_TIMEOUT (R374)
  ⟨0x7140, 1, 0x01, .u32, 1, 3, 3, 10000, true, 1000, 1000000⟩,
  -- MC_RETRIES (R374)
  ⟨0x7140, 1, 0x02, .u8, 1, 3, 3, 3, true, 0, 15⟩,
  -- ECPRI_ENCAP (R374)
  ⟨0x7150, 1, 0x01, .u8, 1, 3, 3, 0, true, 0, 7⟩]

/-- Objects from 0x7150:02 to 0x7152:04. -/
def objRows7b : List ObjRow := [
  -- ECPRI_UDP (R374)
  ⟨0x7150, 1, 0x02, .u16, 1, 3, 3, 46780, true, 1024, 65535⟩,
  -- ECPRI_PCP (R374)
  ⟨0x7150, 1, 0x03, .u8, 1, 3, 3, 6, true, 0, 7⟩,
  -- ECPRI_VLINKS (R374)
  ⟨0x7151, 1, 0x01, .domain, 1, 3, 3, 0, true, 0, 0⟩,
  -- ECPRI_RX (R374)
  ⟨0x7152, 1, 0x01, .u32, 1, 1, 1, 0, false, 0, 4294967295⟩,
  -- ECPRI_TX (R374)
  ⟨0x7152, 1, 0x02, .u32, 1, 1, 1, 0, false, 0, 4294967295⟩,
  -- ECPRI_DISCARDED (R374)
  ⟨0x7152, 1, 0x03, .u32, 1, 1, 1, 0, false, 0, 4294967295⟩,
  -- ECPRI_SEQ_GAPS (R374)
  ⟨0x7152, 1, 0x04, .u32, 1, 1, 1, 0, false, 0, 4294967295⟩]

/-- Objects from 0x8100:01 to 0x8400:09. -/
def objRows8a : List ObjRow := [
  -- NB_PROFILE (R303)
  ⟨0x8100, 16, 0x01, .domain, 3, 3, 3, 0, true, 0, 0⟩,
  -- NB_TAPS (R303)
  ⟨0x8110, 16, 0x01, .domain, 3, 3, 3, 0, true, 0, 0⟩,
  -- NB_CHANNEL_TABLE (R302)
  ⟨0x8200, 1, 0x01, .domain, 3, 3, 3, 0, true, 0, 0⟩,
  -- NB_ENTRIES (R323)
  ⟨0x8400, 1, 0x01, .u32, 1, 1, 1, 0, false, 0, 4294967295⟩,
  -- NB_RECEPTIONS (R323)
  ⟨0x8400, 1, 0x02, .u32, 1, 1, 1, 0, false, 0, 4294967295⟩,
  -- NB_HEADER_FAILS (R323)
  ⟨0x8400, 1, 0x03, .u32, 1, 1, 1, 0, false, 0, 4294967295⟩,
  -- NB_PREEMPTIONS (R323)
  ⟨0x8400, 1, 0x04, .u32, 1, 1, 1, 0, false, 0, 4294967295⟩,
  -- NB_CAPTURES (R323)
  ⟨0x8400, 1, 0x05, .u32, 1, 1, 1, 0, false, 0, 4294967295⟩,
  -- NB_SIGNAL_LOST (R323)
  ⟨0x8400, 1, 0x06, .u32, 1, 1, 1, 0, false, 0, 4294967295⟩,
  -- NB_IGNORED_SYNCS (R323)
  ⟨0x8400, 1, 0x07, .u32, 1, 1, 1, 0, false, 0, 4294967295⟩,
  -- NB_TENTATIVE_DISCARDED (R323)
  ⟨0x8400, 1, 0x08, .u32, 1, 1, 1, 0, false, 0, 4294967295⟩,
  -- NB_MASK_FAILS (R323)
  ⟨0x8400, 1, 0x09, .u32, 1, 1, 1, 0, false, 0, 4294967295⟩]

/-- Objects from 0x9000:01 to 0x9230:01. -/
def objRows9a : List ObjRow := [
  -- SRAM_CORRECTED (R433)
  ⟨0x9000, 1, 0x01, .u32, 1, 1, 1, 0, false, 0, 4294967295⟩,
  -- SRAM_UNCORRECTABLE (R433)
  ⟨0x9000, 1, 0x02, .u32, 1, 1, 1, 0, false, 0, 4294967295⟩,
  -- DRAM_CORRECTED (R433)
  ⟨0x9000, 1, 0x03, .u32, 1, 1, 1, 0, false, 0, 4294967295⟩,
  -- DRAM_UNCORRECTABLE (R433)
  ⟨0x9000, 1, 0x04, .u32, 1, 1, 1, 0, false, 0, 4294967295⟩,
  -- POISONED_WORDS (R433)
  ⟨0x9000, 1, 0x05, .u32, 1, 1, 1, 0, false, 0, 4294967295⟩,
  -- POISON_READS (R433)
  ⟨0x9000, 1, 0x06, .u32, 1, 1, 1, 0, false, 0, 4294967295⟩,
  -- UNWRITTEN_READS (R433)
  ⟨0x9000, 1, 0x07, .u32, 1, 1, 1, 0, false, 0, 4294967295⟩,
  -- RMW_ERRORS (R433)
  ⟨0x9000, 1, 0x08, .u32, 1, 1, 1, 0, false, 0, 4294967295⟩,
  -- CODE_RELOADS (R433)
  ⟨0x9000, 1, 0x09, .u32, 1, 1, 1, 0, false, 0, 4294967295⟩,
  -- INGRESS_ERRORS (R433)
  ⟨0x9000, 1, 0x0A, .u32, 1, 1, 1, 0, false, 0, 4294967295⟩,
  -- FORWARDED_READS (R433)
  ⟨0x9000, 1, 0x0B, .u32, 1, 1, 1, 0, false, 0, 4294967295⟩,
  -- HELD_READS (R433)
  ⟨0x9000, 1, 0x0C, .u32, 1, 1, 1, 0, false, 0, 4294967295⟩,
  -- DRIZZLE_ALARMS (R433)
  ⟨0x9000, 1, 0x0D, .u32, 1, 1, 1, 0, false, 0, 4294967295⟩,
  -- IMAGE_LOSSES (R433)
  ⟨0x9000, 1, 0x0E, .u32, 1, 1, 1, 0, false, 0, 4294967295⟩,
  -- MEM_ERROR_LOG (R433)
  ⟨0x9050, 1, 0x01, .domain, 1, 1, 1, 0, false, 0, 0⟩,
  -- MEM_ERROR_NEXT (R433)
  ⟨0x9050, 1, 0x02, .u16, 1, 1, 1, 0, false, 0, 65535⟩,
  -- LAP_LIMIT_CORE (R433)
  ⟨0x9100, 1, 0x01, .u32, 1, 3, 3, 10000, true, 100, 3600000⟩,
  -- LAP_LIMIT_ANVIL (R433)
  ⟨0x9100, 1, 0x02, .u32, 1, 3, 3, 60000, true, 100, 3600000⟩,
  -- LAP_LIMIT_AON (R433)
  ⟨0x9100, 1, 0x03, .u32, 1, 3, 3, 60000, true, 100, 3600000⟩,
  -- LAP_LIMIT_DRAM (R433)
  ⟨0x9100, 1, 0x04, .u32, 1, 3, 3, 86400000, true, 3600000, 604800000⟩,
  -- DRIZZLE_LAPS (R433)
  ⟨0x9101, 1, 0x01, .domain, 1, 1, 1, 0, false, 0, 0⟩,
  -- DRAM_CONFIG (R433)
  ⟨0x9200, 1, 0x01, .u32, 1, 3, 3, 2049, true, 0, 4294967295⟩,
  -- DRAM_IN_EFFECT (R433)
  ⟨0x9200, 1, 0x02, .u32, 1, 1, 1, 0, false, 0, 4294967295⟩,
  -- TSA (R433)
  ⟨0x9210, 1, 0x01, .domain, 1, 3, 3, 0, true, 0, 0⟩,
  -- TSB (R433)
  ⟨0x9211, 1, 0x01, .domain, 1, 3, 3, 0, true, 0, 0⟩,
  -- DRAM_ACTIVE_SET (R433)
  ⟨0x9212, 1, 0x01, .u8, 1, 1, 1, 0, false, 0, 255⟩,
  -- DRAM_FREQ_CMD (R433)
  ⟨0x9213, 1, 0x01, .u8, 1, 3, 3, 0, false, 0, 255⟩,
  -- FILL_MAP (R433)
  ⟨0x9220, 1, 0x01, .domain, 1, 1, 1, 0, false, 0, 0⟩,
  -- SUBCH_UE_LIMIT (R433)
  ⟨0x9221, 1, 0x01, .u16, 1, 3, 3, 16, true, 2, 4096⟩,
  -- RANK_PD_IDLE (R433)
  ⟨0x9230, 1, 0x01, .u32, 1, 3, 3, 0, true, 0, 65535⟩]

/-- Objects from 0x9240:01 to 0x9820:04. -/
def objRows9b : List ObjRow := [
  -- DRAM_DELAYS (R433)
  ⟨0x9240, 1, 0x01, .domain, 1, 3, 3, 0, true, 0, 0⟩,
  -- ANVIL_POOL_ROLE (R381)
  ⟨0x9800, 1, 0x01, .domain, 1, 3, 3, 0, true, 0, 0⟩,
  -- FH_CELL (R384)
  ⟨0x9810, 1, 0x01, .domain, 1, 3, 3, 0, true, 0, 0⟩,
  -- TD_LANDING (R386)
  ⟨0x9811, 1, 0x01, .domain, 1, 3, 3, 0, true, 0, 0⟩,
  -- LANDING_OVERFLOWS (R406)
  ⟨0x9820, 1, 0x01, .u32, 1, 1, 1, 0, false, 0, 4294967295⟩,
  -- VERSIONS_EXPIRED (R406)
  ⟨0x9820, 1, 0x02, .u32, 1, 1, 1, 0, false, 0, 4294967295⟩,
  -- TX_SECTIONS_INVALID (R406)
  ⟨0x9820, 1, 0x03, .u32, 1, 1, 1, 0, false, 0, 4294967295⟩,
  -- ANVIL_FREE_BUFFERS (R406)
  ⟨0x9820, 1, 0x04, .u32, 1, 1, 1, 0, false, 0, 4294967295⟩]

/-- Objects from 0xA000:01 to 0xA020:06. -/
def objRowsAa : List ObjRow := [
  -- POWER_STATE (R535)
  ⟨0xA000, 1, 0x01, .u8, 1, 1, 1, 1, false, 0, 255⟩,
  -- POWER_TARGET (R535)
  ⟨0xA000, 1, 0x02, .u8, 3, 3, 3, 1, false, 0, 2⟩,
  -- DEEP_CMD (R535)
  ⟨0xA000, 1, 0x03, .u8, 1, 3, 3, 0, false, 0, 255⟩,
  -- WAKE_ALARM (R535)
  ⟨0xA000, 1, 0x04, .time80, 1, 3, 3, 0, false, 0, 1208925819614629174706175⟩,
  -- WAKE_ENABLE (R535)
  ⟨0xA000, 1, 0x05, .u8, 1, 3, 3, 3, true, 0, 3⟩,
  -- AON_LP_ENABLE (R535)
  ⟨0xA000, 1, 0x06, .bool, 1, 3, 3, 1, true, 0, 1⟩,
  -- ENGINE_GATE (R535)
  ⟨0xA000, 1, 0x07, .bool, 3, 3, 3, 1, true, 0, 1⟩,
  -- LAST_WAKE (R535)
  ⟨0xA010, 1, 0x01, .domain, 1, 1, 1, 0, false, 0, 0⟩,
  -- LAST_REFUSAL (R535)
  ⟨0xA010, 1, 0x02, .domain, 1, 1, 1, 0, false, 0, 0⟩,
  -- DUSK_ENTRIES (R535)
  ⟨0xA020, 1, 0x01, .u32, 1, 1, 1, 0, true, 0, 4294967295⟩,
  -- DUSK_REFUSALS (R535)
  ⟨0xA020, 1, 0x02, .u32, 1, 1, 1, 0, true, 0, 4294967295⟩,
  -- WAKES_DURING_DUSK (R535)
  ⟨0xA020, 1, 0x03, .u32, 1, 1, 1, 0, true, 0, 4294967295⟩,
  -- DAWNS (R535)
  ⟨0xA020, 1, 0x04, .u32, 1, 1, 1, 0, true, 0, 4294967295⟩,
  -- RETENTION_FAILS (R535)
  ⟨0xA020, 1, 0x05, .u32, 1, 1, 1, 0, true, 0, 4294967295⟩,
  -- AON_BROWNOUTS (R535)
  ⟨0xA020, 1, 0x06, .u32, 1, 1, 1, 0, true, 0, 4294967295⟩]

/-- Objects from 0xB000:01 to 0xB020:04. -/
def objRowsBa : List ObjRow := [
  -- RESTART_CAUSE (R555)
  ⟨0xB000, 1, 0x01, .u8, 1, 1, 1, 0, false, 0, 255⟩,
  -- RESTART_TIME (R555)
  ⟨0xB000, 1, 0x02, .u64, 1, 1, 1, 0, false, 0, 18446744073709551615⟩,
  -- BOOT_STATE (R555)
  ⟨0xB000, 1, 0x03, .u8, 1, 1, 1, 0, false, 0, 255⟩,
  -- BOOT_SLOT (R555)
  ⟨0xB000, 1, 0x04, .u8, 1, 1, 1, 0, false, 0, 255⟩,
  -- BOOT_GENERATION (R555)
  ⟨0xB000, 1, 0x05, .u32, 1, 1, 1, 0, false, 0, 4294967295⟩,
  -- BOOT_TIME (R555)
  ⟨0xB000, 1, 0x06, .u32, 1, 1, 1, 0, false, 0, 4294967295⟩,
  -- RESET_CMD (R555)
  ⟨0xB000, 1, 0x07, .u8, 1, 3, 3, 0, false, 0, 255⟩,
  -- SUPPLY_STATE (R555)
  ⟨0xB010, 1, 0x01, .u8, 1, 1, 1, 0, false, 0, 255⟩,
  -- VIN_BKUP_MV (R555)
  ⟨0xB010, 1, 0x02, .u16, 1, 1, 1, 0, false, 0, 65535⟩,
  -- BKUP_OK_LEVEL (R555)
  ⟨0xB010, 1, 0x03, .u16, 1, 3, 3, 3000, true, 2750, 3500⟩,
  -- MAIN_LOSSES (R555)
  ⟨0xB020, 1, 0x01, .u32, 1, 1, 1, 0, true, 0, 4294967295⟩,
  -- INPUT_SWITCHES (R555)
  ⟨0xB020, 1, 0x02, .u32, 1, 1, 1, 0, true, 0, 4294967295⟩,
  -- WARM_RESETS (R555)
  ⟨0xB020, 1, 0x03, .u32, 1, 1, 1, 0, true, 0, 4294967295⟩,
  -- COLD_RESETS (R555)
  ⟨0xB020, 1, 0x04, .u32, 1, 1, 1, 0, true, 0, 4294967295⟩]

/-- Objects from 0xC000:01 to 0xC040:03. -/
def objRowsCa : List ObjRow := [
  -- OM_POLL (R515)
  ⟨0xC000, 1, 0x01, .u32, 1, 3, 3, 1000, true, 100, 60000⟩,
  -- WARN_DAYS (R515)
  ⟨0xC000, 1, 0x02, .u16, 3, 3, 3, 30, true, 1, 365⟩,
  -- DRAIN_DAYS (R515)
  ⟨0xC000, 1, 0x03, .u16, 3, 3, 3, 7, true, 0, 365⟩,
  -- AUTO_DRAIN (R515)
  ⟨0xC000, 1, 0x04, .bool, 1, 3, 3, 1, true, 0, 1⟩,
  -- AUTO_RESTORE (R515)
  ⟨0xC000, 1, 0x05, .bool, 1, 3, 3, 1, true, 0, 1⟩,
  -- BIAS_EOL (R515)
  ⟨0xC000, 1, 0x06, .u8, 1, 3, 3, 50, true, 10, 200⟩,
  -- RATED_HOURS (R515)
  ⟨0xC000, 1, 0x07, .u32, 1, 3, 3, 100000, true, 1000, 1000000⟩,
  -- T_REF (R515)
  ⟨0xC000, 1, 0x08, .i16, 1, 3, 3, 50, true, 0, 90⟩,
  -- RU_POLL (R515)
  ⟨0xC000, 1, 0x09, .u32, 1, 3, 3, 60, true, 10, 86400⟩,
  -- MODULE_MAP (R515)
  ⟨0xC010, 1, 0x01, .domain, 1, 3, 3, 0, true, 0, 0⟩,
  -- MODULE_STATE (R515)
  ⟨0xC011, 1, 0x01, .domain, 1, 1, 1, 0, false, 0, 0⟩,
  -- OPTICS_CMD (R515)
  ⟨0xC012, 1, 0x01, .u16, 3, 3, 3, 0, false, 0, 65535⟩,
  -- MODULE_LIFE (R515)
  ⟨0xC020, 1, 0x01, .domain, 1, 1, 1, 0, true, 0, 0⟩,
  -- RU_STATE (R515)
  ⟨0xC030, 1, 0x01, .domain, 1, 1, 1, 0, false, 0, 0⟩,
  -- UNPLANNED_REMOVALS (R515)
  ⟨0xC040, 1, 0x01, .u32, 1, 1, 1, 0, false, 0, 4294967295⟩,
  -- DRAINS_COMPLETED (R515)
  ⟨0xC040, 1, 0x02, .u32, 1, 1, 1, 0, false, 0, 4294967295⟩,
  -- MODULE_READ_FAILS (R515)
  ⟨0xC040, 1, 0x03, .u32, 1, 1, 1, 0, false, 0, 4294967295⟩]

/-- Objects from 0xD000:01 to 0xD040:04. -/
def objRowsDa : List ObjRow := [
  -- DMA_CHAIN_LIMIT (R405)
  ⟨0xD000, 1, 0x01, .u32, 1, 3, 3, 65536, true, 16, 16777216⟩,
  -- DMA_CHANNEL_ERR (R405)
  ⟨0xD020, 1, 0x01, .domain, 1, 1, 1, 0, false, 0, 0⟩,
  -- DMA_DESCRIPTORS (R405)
  ⟨0xD040, 1, 0x01, .u32, 1, 1, 1, 0, false, 0, 4294967295⟩,
  -- DMA_ERRORS (R405)
  ⟨0xD040, 1, 0x02, .u32, 1, 1, 1, 0, false, 0, 4294967295⟩,
  -- DMA_CHAIN_LIMITS (R405)
  ⟨0xD040, 1, 0x03, .u32, 1, 1, 1, 0, false, 0, 4294967295⟩,
  -- DMA_TIMEOUTS (R405)
  ⟨0xD040, 1, 0x04, .u32, 1, 1, 1, 0, false, 0, 4294967295⟩]

/-- Objects from 0xE000:01 to 0xE020:01. -/
def objRowsEa : List ObjRow := [
  -- ENGINE_WD_FACTOR (R300)
  ⟨0xE000, 1, 0x01, .u8, 1, 3, 3, 4, true, 2, 64⟩,
  -- ENGINE_WD_MIN (R300)
  ⟨0xE000, 1, 0x02, .u32, 1, 3, 3, 20000, true, 1000, 1000000⟩,
  -- ACC_ENTRIES (R300)
  ⟨0xE010, 1, 0x01, .u32, 1, 1, 1, 0, false, 0, 4294967295⟩,
  -- ACC_ERRORS (R300)
  ⟨0xE010, 1, 0x02, .u32, 1, 1, 1, 0, false, 0, 4294967295⟩,
  -- ACC_CHECK_FAILS (R300)
  ⟨0xE010, 1, 0x03, .u32, 1, 1, 1, 0, false, 0, 4294967295⟩,
  -- ACC_MODEL_OVERRUNS (R300)
  ⟨0xE010, 1, 0x04, .u32, 1, 1, 1, 0, false, 0, 4294967295⟩,
  -- ACC_ABORTS (R300)
  ⟨0xE010, 1, 0x05, .u32, 1, 1, 1, 0, false, 0, 4294967295⟩,
  -- LDPC_BLOCKS (R300)
  ⟨0xE010, 1, 0x06, .u32, 1, 1, 1, 0, false, 0, 4294967295⟩,
  -- LDPC_BLOCKS_FAILED (R300)
  ⟨0xE010, 1, 0x07, .u32, 1, 1, 1, 0, false, 0, 4294967295⟩,
  -- LDPC_EARLY (R300)
  ⟨0xE010, 1, 0x08, .u32, 1, 1, 1, 0, false, 0, 4294967295⟩,
  -- POLAR_CRC_FAILS (R300)
  ⟨0xE010, 1, 0x09, .u32, 1, 1, 1, 0, false, 0, 4294967295⟩,
  -- FFT_SATURATIONS (R300)
  ⟨0xE010, 1, 0x0A, .u32, 1, 1, 1, 0, false, 0, 4294967295⟩,
  -- ENGINE_LOAD (R300)
  ⟨0xE020, 1, 0x01, .domain, 1, 1, 1, 0, false, 0, 0⟩]

/-- Objects from 0xF010:01 to 0xF100:04. -/
def objRowsFa : List ObjRow := [
  -- CLEIP_RX (R482)
  ⟨0xF010, 1, 0x01, .u32, 1, 1, 1, 0, false, 0, 4294967295⟩,
  -- CLEIP_TX (R482)
  ⟨0xF010, 1, 0x02, .u32, 1, 1, 1, 0, false, 0, 4294967295⟩,
  -- CLEIP_BAD_FRAMES (R482)
  ⟨0xF010, 1, 0x03, .u32, 1, 1, 1, 0, false, 0, 4294967295⟩,
  -- CLEIP_REPLAYS (R482)
  ⟨0xF010, 1, 0x04, .u32, 1, 1, 1, 0, false, 0, 4294967295⟩,
  -- CLEIP_INFLIGHT_DISCARDS (R482)
  ⟨0xF010, 1, 0x05, .u32, 1, 1, 1, 0, false, 0, 4294967295⟩,
  -- CLEIP_EVENTS_SENT (R482)
  ⟨0xF010, 1, 0x06, .u32, 1, 1, 1, 0, false, 0, 4294967295⟩,
  -- CLEIP_EVENTS_DROPPED (R482)
  ⟨0xF010, 1, 0x07, .u32, 1, 1, 1, 0, false, 0, 4294967295⟩,
  -- MS_CRC_ERRORS (R482)
  ⟨0xF010, 1, 0x08, .u32, 1, 1, 1, 0, false, 0, 4294967295⟩,
  -- MS_OVERRUNS (R482)
  ⟨0xF010, 1, 0x09, .u32, 1, 1, 1, 0, false, 0, 4294967295⟩,
  -- BLOCK_TIMEOUTS (R482)
  ⟨0xF010, 1, 0x0A, .u32, 1, 1, 1, 0, false, 0, 4294967295⟩,
  -- MXC_LOCK_GRANTS (R277)
  ⟨0xF100, 1, 0x01, .u32, 1, 1, 1, 0, false, 0, 4294967295⟩,
  -- MXC_WAIT_EVICTIONS (R277)
  ⟨0xF100, 1, 0x02, .u32, 1, 1, 1, 0, false, 0, 4294967295⟩,
  -- MXC_SQUASH_DRAINS (R277)
  ⟨0xF100, 1, 0x03, .u32, 1, 1, 1, 0, false, 0, 4294967295⟩,
  -- MXC_ERRORS (R277)
  ⟨0xF100, 1, 0x04, .u32, 1, 1, 1, 0, false, 0, 4294967295⟩]

/-- Every object row, by index and subindex. -/
def objTable : List ObjRow :=
  objRows1a ++ objRows2a ++ objRows3a ++ objRows3b ++ objRows4a ++ objRows4b ++ objRows5a ++ objRows5b ++ objRows5c ++ objRows5d ++ objRows6a ++ objRows6b ++ objRows7a ++ objRows7b ++ objRows8a ++ objRows9a ++ objRows9b ++ objRowsAa ++ objRowsBa ++ objRowsCa ++ objRowsDa ++ objRowsEa ++ objRowsFa

/-- The row that a key belongs to. -/
def objRowIn : List ObjRow → Nat → Nat → Option ObjRow
  | [], _, _ => none
  | r :: t, i, sub =>
    if decide (r.index ≤ i) && decide (i < r.index + r.span) && decide (r.sub = sub) then some r else objRowIn t i sub

/-- The row of an object by index and subindex. -/
def objRow (i sub : Nat) : Option ObjRow := objRowIn objTable i sub

/-- DEVICE_NAME (R12). -/
abbrev keyDeviceName : Nat := 0x100001
/-- VARIANT (R12). -/
abbrev keyVariant : Nat := 0x100002
/-- STEPPING (R12). -/
abbrev keyStepping : Nat := 0x100003
/-- FW_RELEASE (R12). -/
abbrev keyFwRelease : Nat := 0x100004
/-- SERIAL (R12). -/
abbrev keySerial : Nat := 0x100005
/-- FEATURES (R12). -/
abbrev keyFeatures : Nat := 0x101001
/-- LD_MASK (R12). -/
abbrev keyLdMask : Nat := 0x101002
/-- LE_MASK (R12). -/
abbrev keyLeMask : Nat := 0x101003
/-- PC_MASK (R12). -/
abbrev keyPcMask : Nat := 0x101004
/-- FT_MASK (R12). -/
abbrev keyFtMask : Nat := 0x101005
/-- NB_CHANNELS (R12). -/
abbrev keyNbChannels : Nat := 0x101006
/-- CAPACITY_STREAMS (R12). -/
abbrev keyCapacityStreams : Nat := 0x101007
/-- MAKER_LOCK (R505). -/
abbrev keyMakerLock : Nat := 0x200001
/-- FP_STATE (R505). -/
abbrev keyFpState : Nat := 0x200002
/-- MAKER_LOCK_BLOW (R505). -/
abbrev keyMakerLockBlow : Nat := 0x200003
/-- FP_REFUSED (R505). -/
abbrev keyFpRefused : Nat := 0x200004
/-- CLEIP_ETYPE (R482). -/
abbrev keyCleipEtype : Nat := 0x201001
/-- CLEIP_UDP (R482). -/
abbrev keyCleipUdp : Nat := 0x201002
/-- CLEIP_ENCAP (R482). -/
abbrev keyCleipEncap : Nat := 0x201003
/-- MS_ADDRESS (R482). -/
abbrev keyMsAddress : Nat := 0x201004
/-- CLEIP_REPLAY_HOLD (R482). -/
abbrev keyCleipReplayHold : Nat := 0x201005
/-- CLEIP_BLOCK_TIMEOUT (R482). -/
abbrev keyCleipBlockTimeout : Nat := 0x201006
/-- SUB_LEASE (R482). -/
abbrev keySubLease : Nat := 0x201007
/-- CONFIG_BACKUP (R482). -/
abbrev keyConfigBackup : Nat := 0x201008
/-- SUBSCRIPTIONS (R482). -/
abbrev keySubscriptions : Nat := 0x201009
/-- AUDIT_HEAD (R505). -/
abbrev keyAuditHead : Nat := 0x210001
/-- AUDIT_EXPORTED (R505). -/
abbrev keyAuditExported : Nat := 0x210002
/-- AUDIT_LOST (R505). -/
abbrev keyAuditLost : Nat := 0x210003
/-- AUDIT_WARN (R505). -/
abbrev keyAuditWarn : Nat := 0x210004
/-- AUDIT_JOURNAL (R505). -/
abbrev keyAuditJournal : Nat := 0x210101
/-- KEY_SLOTS (R505). -/
abbrev keyKeySlots : Nat := 0x220001
/-- KEY_LOAD_PLAIN (R505). -/
abbrev keyKeyLoadPlain : Nat := 0x220101
/-- KEY_LOAD_WRAPPED (R505). -/
abbrev keyKeyLoadWrapped : Nat := 0x220102
/-- KEY_ERASE (R505). -/
abbrev keyKeyErase : Nat := 0x220103
/-- CIPHER_LOCK (R505). -/
abbrev keyCipherLock : Nat := 0x220201
/-- CIPHER_LOCK_BOOT (R505). -/
abbrev keyCipherLockBoot : Nat := 0x220202
/-- CIPHER_STATE (R505). -/
abbrev keyCipherState : Nat := 0x220301
/-- BOOT_KEY_PENDING (R505). -/
abbrev keyBootKeyPending : Nat := 0x220302
/-- CIPHER_BLOCKS (R505). -/
abbrev keyCipherBlocks : Nat := 0x220401
/-- CIPHER_MISMATCHES (R505). -/
abbrev keyCipherMismatches : Nat := 0x220402
/-- KEY_LOADS (R505). -/
abbrev keyKeyLoads : Nat := 0x220403
/-- KEY_LOAD_FAILS (R505). -/
abbrev keyKeyLoadFails : Nat := 0x220404
/-- DEVICE_TIME (R456). -/
abbrev keyDeviceTime : Nat := 0x300001
/-- TIME_SET (R456). -/
abbrev keyTimeSet : Nat := 0x300002
/-- SERVO_MODE (R456). -/
abbrev keyServoMode : Nat := 0x300003
/-- INCREMENT (R456). -/
abbrev keyIncrement : Nat := 0x300004
/-- ADJUST (R456). -/
abbrev keyAdjust : Nat := 0x300005
/-- STEP_LIMIT (R456). -/
abbrev keyStepLimit : Nat := 0x300006
/-- SLEW_RATE (R456). -/
abbrev keySlewRate : Nat := 0x300007
/-- ACTIVE_DOMAIN (R456). -/
abbrev keyActiveDomain : Nat := 0x300008
/-- SWITCH_MODE (R456). -/
abbrev keySwitchMode : Nat := 0x300009
/-- TIME_REF_SEL (R456). -/
abbrev keyTimeRefSel : Nat := 0x30000A
/-- HOLDOVER_LIMIT (R456). -/
abbrev keyHoldoverLimit : Nat := 0x30000B
/-- STEP_ALLOW (R456). -/
abbrev keyStepAllow : Nat := 0x30000C
/-- PPS_OUT_MODE (R456). -/
abbrev keyPpsOutMode : Nat := 0x30000D
/-- PPS_OUT_WIDTH (R456). -/
abbrev keyPpsOutWidth : Nat := 0x30000E
/-- TIME_FLAGS (R456). -/
abbrev keyTimeFlags : Nat := 0x30000F
/-- CLK10_OUT_EN (R456). -/
abbrev keyClk10OutEn : Nat := 0x300010
/-- PPS_IN_MODE (R456). -/
abbrev keyPpsInMode : Nat := 0x300011
/-- PPS_IN_DELAY (R456). -/
abbrev keyPpsInDelay : Nat := 0x300012
/-- PPS_IN_OFFSET (R456). -/
abbrev keyPpsInOffset : Nat := 0x300013
/-- PTP_ENABLE (R458), by family member. -/
abbrev keyPtpEnable (n : Nat) : Nat := (0x3010 + n) * 256 + 0x01
/-- PTP_DOMAIN (R458), by family member. -/
abbrev keyPtpDomain (n : Nat) : Nat := (0x3010 + n) * 256 + 0x02
/-- PTP_PORTS (R458), by family member. -/
abbrev keyPtpPorts (n : Nat) : Nat := (0x3010 + n) * 256 + 0x03
/-- PTP_MAC (R458), by family member. -/
abbrev keyPtpMac (n : Nat) : Nat := (0x3010 + n) * 256 + 0x04
/-- LOCAL_PRIO_E0 (R458), by family member. -/
abbrev keyLocalPrioE0 (n : Nat) : Nat := (0x3010 + n) * 256 + 0x05
/-- LOCAL_PRIO_E1 (R458), by family member. -/
abbrev keyLocalPrioE1 (n : Nat) : Nat := (0x3010 + n) * 256 + 0x06
/-- PRIORITY2 (R458), by family member. -/
abbrev keyPriority2 (n : Nat) : Nat := (0x3010 + n) * 256 + 0x07
/-- ASYMMETRY_E0 (R458), by family member. -/
abbrev keyAsymmetryE0 (n : Nat) : Nat := (0x3010 + n) * 256 + 0x08
/-- ASYMMETRY_E1 (R458), by family member. -/
abbrev keyAsymmetryE1 (n : Nat) : Nat := (0x3010 + n) * 256 + 0x09
/-- DOMAIN_STATE (R458), by family member. -/
abbrev keyDomainState (n : Nat) : Nat := (0x3010 + n) * 256 + 0x0A
/-- OFFSET (R458), by family member. -/
abbrev keyOffset (n : Nat) : Nat := (0x3010 + n) * 256 + 0x0B
/-- MEAN_PATH_DELAY (R458), by family member. -/
abbrev keyMeanPathDelay (n : Nat) : Nat := (0x3010 + n) * 256 + 0x0C
/-- PORT_STATES (R458), by family member. -/
abbrev keyPortStates (n : Nat) : Nat := (0x3010 + n) * 256 + 0x0D
/-- GM_IDENTITY (R458), by family member. -/
abbrev keyGmIdentity (n : Nat) : Nat := (0x3010 + n) * 256 + 0x0E
/-- GM_CLOCK_CLASS (R458), by family member. -/
abbrev keyGmClockClass (n : Nat) : Nat := (0x3010 + n) * 256 + 0x0F
/-- HOLDOVER_TIME (R458), by family member. -/
abbrev keyHoldoverTime (n : Nat) : Nat := (0x3010 + n) * 256 + 0x10
/-- TC_DOMAINS (R456). -/
abbrev keyTcDomains : Nat := 0x302001
/-- TC_RATE_LIMIT (R456). -/
abbrev keyTcRateLimit : Nat := 0x302002
/-- PTP_RX (R459). -/
abbrev keyPtpRx : Nat := 0x303001
/-- PTP_TX (R459). -/
abbrev keyPtpTx : Nat := 0x303002
/-- PTP_DISCARDED (R459). -/
abbrev keyPtpDiscarded : Nat := 0x303003
/-- TC_FORWARDED (R459). -/
abbrev keyTcForwarded : Nat := 0x303004
/-- TC_DISCARDED (R459). -/
abbrev keyTcDiscarded : Nat := 0x303005
/-- STEPS_APPLIED (R459). -/
abbrev keyStepsApplied : Nat := 0x303006
/-- STEPS_REFUSED (R459). -/
abbrev keyStepsRefused : Nat := 0x303007
/-- DOMAIN_SWITCHES (R459). -/
abbrev keyDomainSwitches : Nat := 0x303008
/-- ANNOUNCE_TIMEOUTS (R459). -/
abbrev keyAnnounceTimeouts : Nat := 0x303009
/-- TRANSPORT_ETYPE (R109). -/
abbrev keyTransportEtype : Nat := 0x400001
/-- TRANSPORT_UDP (R109). -/
abbrev keyTransportUdp : Nat := 0x400002
/-- ENCAP_ENABLE (R109). -/
abbrev keyEncapEnable : Nat := 0x400003
/-- TRANSPORT_PCP (R109). -/
abbrev keyTransportPcp : Nat := 0x400004
/-- DEVICE_EPOCH (R109). -/
abbrev keyDeviceEpoch : Nat := 0x400005
/-- DEDUP_WINDOW (R109). -/
abbrev keyDedupWindow : Nat := 0x400006
/-- ASSEMBLY_TIMEOUT (R109). -/
abbrev keyAssemblyTimeout : Nat := 0x400007
/-- ACCEPT_COALESCE (R109). -/
abbrev keyAcceptCoalesce : Nat := 0x400008
/-- COMPL_COALESCE (R109). -/
abbrev keyComplCoalesce : Nat := 0x400009
/-- RETX_TIMEOUT (R109). -/
abbrev keyRetxTimeout : Nat := 0x40000A
/-- RESEND_HOLDOFF (R109). -/
abbrev keyResendHoldoff : Nat := 0x40000B
/-- CREDIT_REFRESH (R109). -/
abbrev keyCreditRefresh : Nat := 0x40000C
/-- MIRROR_MODE (R109). -/
abbrev keyMirrorMode : Nat := 0x40000D
/-- MIRROR_TIMEOUT (R109). -/
abbrev keyMirrorTimeout : Nat := 0x40000E
/-- PORT_DOWN_TIME (R109). -/
abbrev keyPortDownTime : Nat := 0x40000F
/-- PORT_UP_HOLD (R109). -/
abbrev keyPortUpHold : Nat := 0x400010
/-- INGRESS_FREE (R109). -/
abbrev keyIngressFree : Nat := 0x401001
/-- PFC_XOFF (R109). -/
abbrev keyPfcXoff : Nat := 0x401002
/-- RESULT_STORE_BYTES (R109). -/
abbrev keyResultStoreBytes : Nat := 0x401003
/-- RESULT_BUF_SIZE (R109). -/
abbrev keyResultBufSize : Nat := 0x401004
/-- RESULT_HANDLES (R109). -/
abbrev keyResultHandles : Nat := 0x401005
/-- RESULT_FREE (R109). -/
abbrev keyResultFree : Nat := 0x401006
/-- DRAM_RESERVED (R109). -/
abbrev keyDramReserved : Nat := 0x401007
/-- QUEUE_CONFIG (R110). -/
abbrev keyQueueConfig : Nat := 0x402001
/-- QUEUE_STATE (R111). -/
abbrev keyQueueState : Nat := 0x402101
/-- QUEUE_RESET (R109). -/
abbrev keyQueueReset : Nat := 0x402201
/-- RX_BAD_HEADER (R113). -/
abbrev keyRxBadHeader : Nat := 0x403001
/-- RX_DUPLICATE_DESC (R113). -/
abbrev keyRxDuplicateDesc : Nat := 0x403002
/-- RX_DUPLICATE_DATA (R113). -/
abbrev keyRxDuplicateData : Nat := 0x403003
/-- RX_STALE (R113). -/
abbrev keyRxStale : Nat := 0x403004
/-- RX_NO_CREDIT (R113). -/
abbrev keyRxNoCredit : Nat := 0x403005
/-- ASSEMBLY_EXPIRED (R113). -/
abbrev keyAssemblyExpired : Nat := 0x403006
/-- POOL_WAITS (R113). -/
abbrev keyPoolWaits : Nat := 0x403007
/-- TX_RETX_RECORDS (R113). -/
abbrev keyTxRetxRecords : Nat := 0x403008
/-- ACK_INVALID (R113). -/
abbrev keyAckInvalid : Nat := 0x403009
/-- MIRROR_TIMEOUTS (R113). -/
abbrev keyMirrorTimeouts : Nat := 0x40300A
/-- RX_DISABLED (R113). -/
abbrev keyRxDisabled : Nat := 0x40300B
/-- PORT_MAC (R112), by family member. -/
abbrev keyPortMac (n : Nat) : Nat := (0x4040 + n) * 256 + 0x01
/-- PORT_IPV4 (R112), by family member. -/
abbrev keyPortIpv4 (n : Nat) : Nat := (0x4040 + n) * 256 + 0x02
/-- PORT_IPV6 (R112), by family member. -/
abbrev keyPortIpv6 (n : Nat) : Nat := (0x4040 + n) * 256 + 0x03
/-- VLAN_ID (R112), by family member. -/
abbrev keyVlanId (n : Nat) : Nat := (0x4040 + n) * 256 + 0x04
/-- PEER_MAC (R112), by family member. -/
abbrev keyPeerMac (n : Nat) : Nat := (0x4040 + n) * 256 + 0x05
/-- PEER_IPV4 (R112), by family member. -/
abbrev keyPeerIpv4 (n : Nat) : Nat := (0x4040 + n) * 256 + 0x06
/-- PEER_IPV6 (R112), by family member. -/
abbrev keyPeerIpv6 (n : Nat) : Nat := (0x4040 + n) * 256 + 0x07
/-- PORT_STATE (R112), by family member. -/
abbrev keyPortState (n : Nat) : Nat := (0x4040 + n) * 256 + 0x08
/-- POOL_KIND (R32), by family member. -/
abbrev keyPoolKind (n : Nat) : Nat := (0x4300 + n) * 256 + 0x01
/-- POOL_BUF_SIZE (R32), by family member. -/
abbrev keyPoolBufSize (n : Nat) : Nat := (0x4300 + n) * 256 + 0x02
/-- POOL_COUNT (R32), by family member. -/
abbrev keyPoolCount (n : Nat) : Nat := (0x4300 + n) * 256 + 0x03
/-- POOL_SHADOW (R32), by family member. -/
abbrev keyPoolShadow (n : Nat) : Nat := (0x4300 + n) * 256 + 0x04
/-- POOL_BASE (R32), by family member. -/
abbrev keyPoolBase (n : Nat) : Nat := (0x4300 + n) * 256 + 0x05
/-- POOL_CLUSTER (R32), by family member. -/
abbrev keyPoolCluster (n : Nat) : Nat := (0x4300 + n) * 256 + 0x06
/-- JOURNAL_ENTRIES (R61). -/
abbrev keyJournalEntries : Nat := 0x440001
/-- JOURNAL_FREE (R61). -/
abbrev keyJournalFree : Nat := 0x440002
/-- JOURNAL_REPAIRS (R61). -/
abbrev keyJournalRepairs : Nat := 0x440003
/-- RELEASE_HOLD (R61). -/
abbrev keyReleaseHold : Nat := 0x440004
/-- DET_FAULTS (R61). -/
abbrev keyDetFaults : Nat := 0x440005
/-- HORIZON_DEFAULT (R147). -/
abbrev keyHorizonDefault : Nat := 0x500001
/-- U_MAX (R147). -/
abbrev keyUMax : Nat := 0x500002
/-- U_ACC (R147). -/
abbrev keyUAcc : Nat := 0x500003
/-- ESTIMATE_MODE (R147). -/
abbrev keyEstimateMode : Nat := 0x500004
/-- OVERRUN_MARGIN (R147). -/
abbrev keyOverrunMargin : Nat := 0x500005
/-- EVICT_MAX (R147). -/
abbrev keyEvictMax : Nat := 0x500006
/-- UNTIMED_AGE (R147). -/
abbrev keyUntimedAge : Nat := 0x500007
/-- WD_FACTOR (R147). -/
abbrev keyWdFactor : Nat := 0x500008
/-- WD_MIN (R147). -/
abbrev keyWdMin : Nat := 0x500009
/-- DVFS_PERIOD (R147). -/
abbrev keyDvfsPeriod : Nat := 0x50000A
/-- DVFS_TARGET (R147). -/
abbrev keyDvfsTarget : Nat := 0x50000B
/-- OPP_CEILING (R147). -/
abbrev keyOppCeiling : Nat := 0x50000C
/-- GATE_IDLE (R147). -/
abbrev keyGateIdle : Nat := 0x50000D
/-- CLUSTERS_WARM (R147). -/
abbrev keyClustersWarm : Nat := 0x50000E
/-- MIGRATE_ENABLE (R147). -/
abbrev keyMigrateEnable : Nat := 0x50000F
/-- MIGRATE_HIGH (R147). -/
abbrev keyMigrateHigh : Nat := 0x500010
/-- MIGRATE_LOW (R147). -/
abbrev keyMigrateLow : Nat := 0x500011
/-- MIGRATE_HOLDOFF (R147). -/
abbrev keyMigrateHoldoff : Nat := 0x500012
/-- THERMAL_MIGRATE (R147). -/
abbrev keyThermalMigrate : Nat := 0x500013
/-- THERMAL_OPP (R147). -/
abbrev keyThermalOpp : Nat := 0x500014
/-- LEARN_ENABLE (R147). -/
abbrev keyLearnEnable : Nat := 0x500015
/-- LEARN_TAIL (R147). -/
abbrev keyLearnTail : Nat := 0x500016
/-- LEARN_MARGIN (R147). -/
abbrev keyLearnMargin : Nat := 0x500017
/-- LEARN_MIN (R147). -/
abbrev keyLearnMin : Nat := 0x500018
/-- LEARN_PERIOD (R147). -/
abbrev keyLearnPeriod : Nat := 0x500019
/-- DECAY_SHIFT (R147). -/
abbrev keyDecayShift : Nat := 0x50001A
/-- MXC_QUAD_TASKS (R277). -/
abbrev keyMxcQuadTasks : Nat := 0x50001B
/-- MXC_WAIT_EVICT (R277). -/
abbrev keyMxcWaitEvict : Nat := 0x50001C
/-- HORIZON_DEFAULT_LOWER (R146). -/
abbrev keyHorizonDefaultLower : Nat := 0x500101
/-- U_MAX_LOWER (R146). -/
abbrev keyUMaxLower : Nat := 0x500102
/-- U_ACC_LOWER (R146). -/
abbrev keyUAccLower : Nat := 0x500103
/-- ESTIMATE_MODE_LOWER (R146). -/
abbrev keyEstimateModeLower : Nat := 0x500104
/-- OVERRUN_MARGIN_LOWER (R146). -/
abbrev keyOverrunMarginLower : Nat := 0x500105
/-- EVICT_MAX_LOWER (R146). -/
abbrev keyEvictMaxLower : Nat := 0x500106
/-- UNTIMED_AGE_LOWER (R146). -/
abbrev keyUntimedAgeLower : Nat := 0x500107
/-- WD_FACTOR_LOWER (R146). -/
abbrev keyWdFactorLower : Nat := 0x500108
/-- WD_MIN_LOWER (R146). -/
abbrev keyWdMinLower : Nat := 0x500109
/-- DVFS_PERIOD_LOWER (R146). -/
abbrev keyDvfsPeriodLower : Nat := 0x50010A
/-- DVFS_TARGET_LOWER (R146). -/
abbrev keyDvfsTargetLower : Nat := 0x50010B
/-- OPP_CEILING_LOWER (R146). -/
abbrev keyOppCeilingLower : Nat := 0x50010C
/-- GATE_IDLE_LOWER (R146). -/
abbrev keyGateIdleLower : Nat := 0x50010D
/-- CLUSTERS_WARM_LOWER (R146). -/
abbrev keyClustersWarmLower : Nat := 0x50010E
/-- MIGRATE_ENABLE_LOWER (R146). -/
abbrev keyMigrateEnableLower : Nat := 0x50010F
/-- MIGRATE_HIGH_LOWER (R146). -/
abbrev keyMigrateHighLower : Nat := 0x500110
/-- MIGRATE_LOW_LOWER (R146). -/
abbrev keyMigrateLowLower : Nat := 0x500111
/-- MIGRATE_HOLDOFF_LOWER (R146). -/
abbrev keyMigrateHoldoffLower : Nat := 0x500112
/-- THERMAL_MIGRATE_LOWER (R146). -/
abbrev keyThermalMigrateLower : Nat := 0x500113
/-- THERMAL_OPP_LOWER (R146). -/
abbrev keyThermalOppLower : Nat := 0x500114
/-- LEARN_ENABLE_LOWER (R146). -/
abbrev keyLearnEnableLower : Nat := 0x500115
/-- LEARN_TAIL_LOWER (R146). -/
abbrev keyLearnTailLower : Nat := 0x500116
/-- LEARN_MARGIN_LOWER (R146). -/
abbrev keyLearnMarginLower : Nat := 0x500117
/-- LEARN_MIN_LOWER (R146). -/
abbrev keyLearnMinLower : Nat := 0x500118
/-- LEARN_PERIOD_LOWER (R146). -/
abbrev keyLearnPeriodLower : Nat := 0x500119
/-- DECAY_SHIFT_LOWER (R146). -/
abbrev keyDecayShiftLower : Nat := 0x50011A
/-- MXC_QUAD_TASKS_LOWER (R146). -/
abbrev keyMxcQuadTasksLower : Nat := 0x50011B
/-- MXC_WAIT_EVICT_LOWER (R146). -/
abbrev keyMxcWaitEvictLower : Nat := 0x50011C
/-- HORIZON_DEFAULT_UPPER (R146). -/
abbrev keyHorizonDefaultUpper : Nat := 0x500201
/-- U_MAX_UPPER (R146). -/
abbrev keyUMaxUpper : Nat := 0x500202
/-- U_ACC_UPPER (R146). -/
abbrev keyUAccUpper : Nat := 0x500203
/-- ESTIMATE_MODE_UPPER (R146). -/
abbrev keyEstimateModeUpper : Nat := 0x500204
/-- OVERRUN_MARGIN_UPPER (R146). -/
abbrev keyOverrunMarginUpper : Nat := 0x500205
/-- EVICT_MAX_UPPER (R146). -/
abbrev keyEvictMaxUpper : Nat := 0x500206
/-- UNTIMED_AGE_UPPER (R146). -/
abbrev keyUntimedAgeUpper : Nat := 0x500207
/-- WD_FACTOR_UPPER (R146). -/
abbrev keyWdFactorUpper : Nat := 0x500208
/-- WD_MIN_UPPER (R146). -/
abbrev keyWdMinUpper : Nat := 0x500209
/-- DVFS_PERIOD_UPPER (R146). -/
abbrev keyDvfsPeriodUpper : Nat := 0x50020A
/-- DVFS_TARGET_UPPER (R146). -/
abbrev keyDvfsTargetUpper : Nat := 0x50020B
/-- OPP_CEILING_UPPER (R146). -/
abbrev keyOppCeilingUpper : Nat := 0x50020C
/-- GATE_IDLE_UPPER (R146). -/
abbrev keyGateIdleUpper : Nat := 0x50020D
/-- CLUSTERS_WARM_UPPER (R146). -/
abbrev keyClustersWarmUpper : Nat := 0x50020E
/-- MIGRATE_ENABLE_UPPER (R146). -/
abbrev keyMigrateEnableUpper : Nat := 0x50020F
/-- MIGRATE_HIGH_UPPER (R146). -/
abbrev keyMigrateHighUpper : Nat := 0x500210
/-- MIGRATE_LOW_UPPER (R146). -/
abbrev keyMigrateLowUpper : Nat := 0x500211
/-- MIGRATE_HOLDOFF_UPPER (R146). -/
abbrev keyMigrateHoldoffUpper : Nat := 0x500212
/-- THERMAL_MIGRATE_UPPER (R146). -/
abbrev keyThermalMigrateUpper : Nat := 0x500213
/-- THERMAL_OPP_UPPER (R146). -/
abbrev keyThermalOppUpper : Nat := 0x500214
/-- LEARN_ENABLE_UPPER (R146). -/
abbrev keyLearnEnableUpper : Nat := 0x500215
/-- LEARN_TAIL_UPPER (R146). -/
abbrev keyLearnTailUpper : Nat := 0x500216
/-- LEARN_MARGIN_UPPER (R146). -/
abbrev keyLearnMarginUpper : Nat := 0x500217
/-- LEARN_MIN_UPPER (R146). -/
abbrev keyLearnMinUpper : Nat := 0x500218
/-- LEARN_PERIOD_UPPER (R146). -/
abbrev keyLearnPeriodUpper : Nat := 0x500219
/-- DECAY_SHIFT_UPPER (R146). -/
abbrev keyDecayShiftUpper : Nat := 0x50021A
/-- MXC_QUAD_TASKS_UPPER (R146). -/
abbrev keyMxcQuadTasksUpper : Nat := 0x50021B
/-- MXC_WAIT_EVICT_UPPER (R146). -/
abbrev keyMxcWaitEvictUpper : Nat := 0x50021C
/-- CELL_CONFIG (R115). -/
abbrev keyCellConfig : Nat := 0x510001
/-- CELL_STATE (R148). -/
abbrev keyCellState : Nat := 0x510101
/-- ADMIT_PROBE (R150). -/
abbrev keyAdmitProbe : Nat := 0x510201
/-- PROBE_RESULT (R150). -/
abbrev keyProbeResult : Nat := 0x510202
/-- PROBE_HEADROOM (R150). -/
abbrev keyProbeHeadroom : Nat := 0x510203
/-- MIGRATE_CMD (R151). -/
abbrev keyMigrateCmd : Nat := 0x510301
/-- KERNEL_TABLE (R137). -/
abbrev keyKernelTable : Nat := 0x520001
/-- CLUSTER_STATE (R149). -/
abbrev keyClusterState : Nat := 0x530001
/-- ADMIT_GUARANTEED (R152). -/
abbrev keyAdmitGuaranteed : Nat := 0x540001
/-- ADMIT_DEMOTED (R152). -/
abbrev keyAdmitDemoted : Nat := 0x540002
/-- ADMIT_BEST_EFFORT (R152). -/
abbrev keyAdmitBestEffort : Nat := 0x540003
/-- EXPIRED_UNSTARTED (R152). -/
abbrev keyExpiredUnstarted : Nat := 0x540004
/-- EVICTIONS (R152). -/
abbrev keyEvictions : Nat := 0x540005
/-- OVERRUN_MARKS (R152). -/
abbrev keyOverrunMarks : Nat := 0x540006
/-- WATCHDOG_EXPIRIES (R152). -/
abbrev keyWatchdogExpiries : Nat := 0x540007
/-- MIGRATIONS (R152). -/
abbrev keyMigrations : Nat := 0x540008
/-- OPP_CHANGES (R152). -/
abbrev keyOppChanges : Nat := 0x540009
/-- CAPACITY_SHORT_EVENTS (R152). -/
abbrev keyCapacityShortEvents : Nat := 0x54000A
/-- SPARE_CORES (R191). -/
abbrev keySpareCores : Nat := 0x600001
/-- ENGINE_SPARES (R191). -/
abbrev keyEngineSpares : Nat := 0x600002
/-- REPLAY_MAX (R191). -/
abbrev keyReplayMax : Nat := 0x600003
/-- RETIRE_STRIKES (R191). -/
abbrev keyRetireStrikes : Nat := 0x600004
/-- RETIRE_WINDOW (R191). -/
abbrev keyRetireWindow : Nat := 0x600005
/-- ISLAND_RESTORES (R191). -/
abbrev keyIslandRestores : Nat := 0x600006
/-- OVERCAST_MASK (R191). -/
abbrev keyOvercastMask : Nat := 0x600007
/-- OVERCAST_EXIT_HOLD (R191). -/
abbrev keyOvercastExitHold : Nat := 0x600008
/-- OVERCAST (R191). -/
abbrev keyOvercast : Nat := 0x600009
/-- OVERCAST_CAUSE (R191). -/
abbrev keyOvercastCause : Nat := 0x60000A
/-- OVERCAST_TIME (R191). -/
abbrev keyOvercastTime : Nat := 0x60000B
/-- SV_ACTIVE (R191). -/
abbrev keySvActive : Nat := 0x60000C
/-- FW_RUNNING (R191). -/
abbrev keyFwRunning : Nat := 0x60000D
/-- FW_UPDATE_CMD (R191). -/
abbrev keyFwUpdateCmd : Nat := 0x60000E
/-- FW_UPDATE_STATE (R191). -/
abbrev keyFwUpdateState : Nat := 0x60000F
/-- FW_IMAGE (R191). -/
abbrev keyFwImage : Nat := 0x600101
/-- REGION_STATE (R191). -/
abbrev keyRegionState : Nat := 0x601001
/-- REGION_RESTORE (R191). -/
abbrev keyRegionRestore : Nat := 0x601101
/-- REGION_RETIRE (R191). -/
abbrev keyRegionRetire : Nat := 0x601102
/-- FAULT_LOG (R191). -/
abbrev keyFaultLog : Nat := 0x602001
/-- FAULT_LOG_NEXT (R191). -/
abbrev keyFaultLogNext : Nat := 0x602002
/-- DEVICE_NUMBER (R195). -/
abbrev keyDeviceNumber : Nat := 0x603001
/-- BUDDY (R195). -/
abbrev keyBuddy : Nat := 0x603002
/-- MIRROR_FROM0 (R195). -/
abbrev keyMirrorFrom0 : Nat := 0x603003
/-- MIRROR_FROM1 (R195). -/
abbrev keyMirrorFrom1 : Nat := 0x603004
/-- MIRROR_SHARE (R195). -/
abbrev keyMirrorShare : Nat := 0x603005
/-- TAKEOVER_MODE (R195). -/
abbrev keyTakeoverMode : Nat := 0x603006
/-- BUDDY_FENCE_TIME (R195). -/
abbrev keyBuddyFenceTime : Nat := 0x603007
/-- BUDDY_DEAD_TIME (R195). -/
abbrev keyBuddyDeadTime : Nat := 0x603008
/-- TAKEOVER_CMD (R195). -/
abbrev keyTakeoverCmd : Nat := 0x603009
/-- BUDDY_STATE (R195). -/
abbrev keyBuddyState : Nat := 0x60300A
/-- TAKEOVER_STATE (R195). -/
abbrev keyTakeoverState : Nat := 0x60300B
/-- BUDDY_RELEASE (R195). -/
abbrev keyBuddyRelease : Nat := 0x60300C
/-- BUDDY_MAC (R195), by family member. -/
abbrev keyBuddyMac (n : Nat) : Nat := (0x6031 + n) * 256 + 0x01
/-- BUDDY_IPV4 (R195), by family member. -/
abbrev keyBuddyIpv4 (n : Nat) : Nat := (0x6031 + n) * 256 + 0x02
/-- BUDDY_IPV6 (R195), by family member. -/
abbrev keyBuddyIpv6 (n : Nat) : Nat := (0x6031 + n) * 256 + 0x03
/-- REPLAYS (R194). -/
abbrev keyReplays : Nat := 0x604001
/-- HALO_PAIRS (R194). -/
abbrev keyHaloPairs : Nat := 0x604002
/-- HALO_MISMATCHES (R194). -/
abbrev keyHaloMismatches : Nat := 0x604003
/-- VOTES (R194). -/
abbrev keyVotes : Nat := 0x604004
/-- REPLAY_LIMITS (R194). -/
abbrev keyReplayLimits : Nat := 0x604005
/-- RETIREMENTS (R194). -/
abbrev keyRetirements : Nat := 0x604006
/-- ISLAND_LOSSES (R194). -/
abbrev keyIslandLosses : Nat := 0x604007
/-- SV_SWITCHOVERS (R194). -/
abbrev keySvSwitchovers : Nat := 0x604008
/-- OVERCAST_ENTRIES (R194). -/
abbrev keyOvercastEntries : Nat := 0x604009
/-- TAKEOVERS (R194). -/
abbrev keyTakeovers : Nat := 0x60400A
/-- FENCES (R194). -/
abbrev keyFences : Nat := 0x60400B
/-- GROUP_ENABLE (R343). -/
abbrev keyGroupEnable : Nat := 0x700001
/-- SLIP_MODE (R343). -/
abbrev keySlipMode : Nat := 0x700002
/-- DESKEW_MAX (R343). -/
abbrev keyDeskewMax : Nat := 0x700003
/-- DRAIN_VERIFY (R343). -/
abbrev keyDrainVerify : Nat := 0x700004
/-- LANE_CONFIG (R343). -/
abbrev keyLaneConfig : Nat := 0x702001
/-- LANE_STATUS (R343). -/
abbrev keyLaneStatus : Nat := 0x702101
/-- LANE_CMD (R343). -/
abbrev keyLaneCmd : Nat := 0x702201
/-- LANE_COUNTERS (R343). -/
abbrev keyLaneCounters : Nat := 0x703001
/-- LANE_COUNTERS_PREV (R343). -/
abbrev keyLaneCountersPrev : Nat := 0x703101
/-- LINK_CONFIG (R374). -/
abbrev keyLinkConfig : Nat := 0x710001
/-- LOS_SET (R374). -/
abbrev keyLosSet : Nat := 0x710101
/-- LOS_CLEAR (R374). -/
abbrev keyLosClear : Nat := 0x710102
/-- LOF_SET (R374). -/
abbrev keyLofSet : Nat := 0x710103
/-- LOF_CLEAR (R374). -/
abbrev keyLofClear : Nat := 0x710104
/-- LOM_SET (R374). -/
abbrev keyLomSet : Nat := 0x710105
/-- LOM_CLEAR (R374). -/
abbrev keyLomClear : Nat := 0x710106
/-- AIS_SET (R374). -/
abbrev keyAisSet : Nat := 0x710107
/-- AIS_CLEAR (R374). -/
abbrev keyAisClear : Nat := 0x710108
/-- RDI_SET (R374). -/
abbrev keyRdiSet : Nat := 0x710109
/-- RDI_CLEAR (R374). -/
abbrev keyRdiClear : Nat := 0x71010A
/-- DEG_SET (R374). -/
abbrev keyDegSet : Nat := 0x71010B
/-- DEG_CLEAR (R374). -/
abbrev keyDegClear : Nat := 0x71010C
/-- DEG_THRESHOLD (R374). -/
abbrev keyDegThreshold : Nat := 0x71010D
/-- TD_CONTAINERS (R374). -/
abbrev keyTdContainers : Nat := 0x711001
/-- LINK_STATUS (R374). -/
abbrev keyLinkStatus : Nat := 0x712001
/-- LINK_COUNTERS (R374). -/
abbrev keyLinkCounters : Nat := 0x713001
/-- LINK_COUNTERS_PREV (R374). -/
abbrev keyLinkCountersPrev : Nat := 0x713101
/-- MC_TIMEOUT (R374). -/
abbrev keyMcTimeout : Nat := 0x714001
/-- MC_RETRIES (R374). -/
abbrev keyMcRetries : Nat := 0x714002
/-- ECPRI_ENCAP (R374). -/
abbrev keyEcpriEncap : Nat := 0x715001
/-- ECPRI_UDP (R374). -/
abbrev keyEcpriUdp : Nat := 0x715002
/-- ECPRI_PCP (R374). -/
abbrev keyEcpriPcp : Nat := 0x715003
/-- ECPRI_VLINKS (R374). -/
abbrev keyEcpriVlinks : Nat := 0x715101
/-- ECPRI_RX (R374). -/
abbrev keyEcpriRx : Nat := 0x715201
/-- ECPRI_TX (R374). -/
abbrev keyEcpriTx : Nat := 0x715202
/-- ECPRI_DISCARDED (R374). -/
abbrev keyEcpriDiscarded : Nat := 0x715203
/-- ECPRI_SEQ_GAPS (R374). -/
abbrev keyEcpriSeqGaps : Nat := 0x715204
/-- NB_PROFILE (R303), by family member. -/
abbrev keyNbProfile (n : Nat) : Nat := (0x8100 + n) * 256 + 0x01
/-- NB_TAPS (R303), by family member. -/
abbrev keyNbTaps (n : Nat) : Nat := (0x8110 + n) * 256 + 0x01
/-- NB_CHANNEL_TABLE (R302). -/
abbrev keyNbChannelTable : Nat := 0x820001
/-- NB_ENTRIES (R323). -/
abbrev keyNbEntries : Nat := 0x840001
/-- NB_RECEPTIONS (R323). -/
abbrev keyNbReceptions : Nat := 0x840002
/-- NB_HEADER_FAILS (R323). -/
abbrev keyNbHeaderFails : Nat := 0x840003
/-- NB_PREEMPTIONS (R323). -/
abbrev keyNbPreemptions : Nat := 0x840004
/-- NB_CAPTURES (R323). -/
abbrev keyNbCaptures : Nat := 0x840005
/-- NB_SIGNAL_LOST (R323). -/
abbrev keyNbSignalLost : Nat := 0x840006
/-- NB_IGNORED_SYNCS (R323). -/
abbrev keyNbIgnoredSyncs : Nat := 0x840007
/-- NB_TENTATIVE_DISCARDED (R323). -/
abbrev keyNbTentativeDiscarded : Nat := 0x840008
/-- NB_MASK_FAILS (R323). -/
abbrev keyNbMaskFails : Nat := 0x840009
/-- SRAM_CORRECTED (R433). -/
abbrev keySramCorrected : Nat := 0x900001
/-- SRAM_UNCORRECTABLE (R433). -/
abbrev keySramUncorrectable : Nat := 0x900002
/-- DRAM_CORRECTED (R433). -/
abbrev keyDramCorrected : Nat := 0x900003
/-- DRAM_UNCORRECTABLE (R433). -/
abbrev keyDramUncorrectable : Nat := 0x900004
/-- POISONED_WORDS (R433). -/
abbrev keyPoisonedWords : Nat := 0x900005
/-- POISON_READS (R433). -/
abbrev keyPoisonReads : Nat := 0x900006
/-- UNWRITTEN_READS (R433). -/
abbrev keyUnwrittenReads : Nat := 0x900007
/-- RMW_ERRORS (R433). -/
abbrev keyRmwErrors : Nat := 0x900008
/-- CODE_RELOADS (R433). -/
abbrev keyCodeReloads : Nat := 0x900009
/-- INGRESS_ERRORS (R433). -/
abbrev keyIngressErrors : Nat := 0x90000A
/-- FORWARDED_READS (R433). -/
abbrev keyForwardedReads : Nat := 0x90000B
/-- HELD_READS (R433). -/
abbrev keyHeldReads : Nat := 0x90000C
/-- DRIZZLE_ALARMS (R433). -/
abbrev keyDrizzleAlarms : Nat := 0x90000D
/-- IMAGE_LOSSES (R433). -/
abbrev keyImageLosses : Nat := 0x90000E
/-- MEM_ERROR_LOG (R433). -/
abbrev keyMemErrorLog : Nat := 0x905001
/-- MEM_ERROR_NEXT (R433). -/
abbrev keyMemErrorNext : Nat := 0x905002
/-- LAP_LIMIT_CORE (R433). -/
abbrev keyLapLimitCore : Nat := 0x910001
/-- LAP_LIMIT_ANVIL (R433). -/
abbrev keyLapLimitAnvil : Nat := 0x910002
/-- LAP_LIMIT_AON (R433). -/
abbrev keyLapLimitAon : Nat := 0x910003
/-- LAP_LIMIT_DRAM (R433). -/
abbrev keyLapLimitDram : Nat := 0x910004
/-- DRIZZLE_LAPS (R433). -/
abbrev keyDrizzleLaps : Nat := 0x910101
/-- DRAM_CONFIG (R433). -/
abbrev keyDramConfig : Nat := 0x920001
/-- DRAM_IN_EFFECT (R433). -/
abbrev keyDramInEffect : Nat := 0x920002
/-- TSA (R433). -/
abbrev keyTsa : Nat := 0x921001
/-- TSB (R433). -/
abbrev keyTsb : Nat := 0x921101
/-- DRAM_ACTIVE_SET (R433). -/
abbrev keyDramActiveSet : Nat := 0x921201
/-- DRAM_FREQ_CMD (R433). -/
abbrev keyDramFreqCmd : Nat := 0x921301
/-- FILL_MAP (R433). -/
abbrev keyFillMap : Nat := 0x922001
/-- SUBCH_UE_LIMIT (R433). -/
abbrev keySubchUeLimit : Nat := 0x922101
/-- RANK_PD_IDLE (R433). -/
abbrev keyRankPdIdle : Nat := 0x923001
/-- DRAM_DELAYS (R433). -/
abbrev keyDramDelays : Nat := 0x924001
/-- ANVIL_POOL_ROLE (R381). -/
abbrev keyAnvilPoolRole : Nat := 0x980001
/-- FH_CELL (R384). -/
abbrev keyFhCell : Nat := 0x981001
/-- TD_LANDING (R386). -/
abbrev keyTdLanding : Nat := 0x981101
/-- LANDING_OVERFLOWS (R406). -/
abbrev keyLandingOverflows : Nat := 0x982001
/-- VERSIONS_EXPIRED (R406). -/
abbrev keyVersionsExpired : Nat := 0x982002
/-- TX_SECTIONS_INVALID (R406). -/
abbrev keyTxSectionsInvalid : Nat := 0x982003
/-- ANVIL_FREE_BUFFERS (R406). -/
abbrev keyAnvilFreeBuffers : Nat := 0x982004
/-- POWER_STATE (R535). -/
abbrev keyPowerState : Nat := 0xA00001
/-- POWER_TARGET (R535). -/
abbrev keyPowerTarget : Nat := 0xA00002
/-- DEEP_CMD (R535). -/
abbrev keyDeepCmd : Nat := 0xA00003
/-- WAKE_ALARM (R535). -/
abbrev keyWakeAlarm : Nat := 0xA00004
/-- WAKE_ENABLE (R535). -/
abbrev keyWakeEnable : Nat := 0xA00005
/-- AON_LP_ENABLE (R535). -/
abbrev keyAonLpEnable : Nat := 0xA00006
/-- ENGINE_GATE (R535). -/
abbrev keyEngineGate : Nat := 0xA00007
/-- LAST_WAKE (R535). -/
abbrev keyLastWake : Nat := 0xA01001
/-- LAST_REFUSAL (R535). -/
abbrev keyLastRefusal : Nat := 0xA01002
/-- DUSK_ENTRIES (R535). -/
abbrev keyDuskEntries : Nat := 0xA02001
/-- DUSK_REFUSALS (R535). -/
abbrev keyDuskRefusals : Nat := 0xA02002
/-- WAKES_DURING_DUSK (R535). -/
abbrev keyWakesDuringDusk : Nat := 0xA02003
/-- DAWNS (R535). -/
abbrev keyDawns : Nat := 0xA02004
/-- RETENTION_FAILS (R535). -/
abbrev keyRetentionFails : Nat := 0xA02005
/-- AON_BROWNOUTS (R535). -/
abbrev keyAonBrownouts : Nat := 0xA02006
/-- RESTART_CAUSE (R555). -/
abbrev keyRestartCause : Nat := 0xB00001
/-- RESTART_TIME (R555). -/
abbrev keyRestartTime : Nat := 0xB00002
/-- BOOT_STATE (R555). -/
abbrev keyBootState : Nat := 0xB00003
/-- BOOT_SLOT (R555). -/
abbrev keyBootSlot : Nat := 0xB00004
/-- BOOT_GENERATION (R555). -/
abbrev keyBootGeneration : Nat := 0xB00005
/-- BOOT_TIME (R555). -/
abbrev keyBootTime : Nat := 0xB00006
/-- RESET_CMD (R555). -/
abbrev keyResetCmd : Nat := 0xB00007
/-- SUPPLY_STATE (R555). -/
abbrev keySupplyState : Nat := 0xB01001
/-- VIN_BKUP_MV (R555). -/
abbrev keyVinBkupMv : Nat := 0xB01002
/-- BKUP_OK_LEVEL (R555). -/
abbrev keyBkupOkLevel : Nat := 0xB01003
/-- MAIN_LOSSES (R555). -/
abbrev keyMainLosses : Nat := 0xB02001
/-- INPUT_SWITCHES (R555). -/
abbrev keyInputSwitches : Nat := 0xB02002
/-- WARM_RESETS (R555). -/
abbrev keyWarmResets : Nat := 0xB02003
/-- COLD_RESETS (R555). -/
abbrev keyColdResets : Nat := 0xB02004
/-- OM_POLL (R515). -/
abbrev keyOmPoll : Nat := 0xC00001
/-- WARN_DAYS (R515). -/
abbrev keyWarnDays : Nat := 0xC00002
/-- DRAIN_DAYS (R515). -/
abbrev keyDrainDays : Nat := 0xC00003
/-- AUTO_DRAIN (R515). -/
abbrev keyAutoDrain : Nat := 0xC00004
/-- AUTO_RESTORE (R515). -/
abbrev keyAutoRestore : Nat := 0xC00005
/-- BIAS_EOL (R515). -/
abbrev keyBiasEol : Nat := 0xC00006
/-- RATED_HOURS (R515). -/
abbrev keyRatedHours : Nat := 0xC00007
/-- T_REF (R515). -/
abbrev keyTRef : Nat := 0xC00008
/-- RU_POLL (R515). -/
abbrev keyRuPoll : Nat := 0xC00009
/-- MODULE_MAP (R515). -/
abbrev keyModuleMap : Nat := 0xC01001
/-- MODULE_STATE (R515). -/
abbrev keyModuleState : Nat := 0xC01101
/-- OPTICS_CMD (R515). -/
abbrev keyOpticsCmd : Nat := 0xC01201
/-- MODULE_LIFE (R515). -/
abbrev keyModuleLife : Nat := 0xC02001
/-- RU_STATE (R515). -/
abbrev keyRuState : Nat := 0xC03001
/-- UNPLANNED_REMOVALS (R515). -/
abbrev keyUnplannedRemovals : Nat := 0xC04001
/-- DRAINS_COMPLETED (R515). -/
abbrev keyDrainsCompleted : Nat := 0xC04002
/-- MODULE_READ_FAILS (R515). -/
abbrev keyModuleReadFails : Nat := 0xC04003
/-- DMA_CHAIN_LIMIT (R405). -/
abbrev keyDmaChainLimit : Nat := 0xD00001
/-- DMA_CHANNEL_ERR (R405). -/
abbrev keyDmaChannelErr : Nat := 0xD02001
/-- DMA_DESCRIPTORS (R405). -/
abbrev keyDmaDescriptors : Nat := 0xD04001
/-- DMA_ERRORS (R405). -/
abbrev keyDmaErrors : Nat := 0xD04002
/-- DMA_CHAIN_LIMITS (R405). -/
abbrev keyDmaChainLimits : Nat := 0xD04003
/-- DMA_TIMEOUTS (R405). -/
abbrev keyDmaTimeouts : Nat := 0xD04004
/-- ENGINE_WD_FACTOR (R300). -/
abbrev keyEngineWdFactor : Nat := 0xE00001
/-- ENGINE_WD_MIN (R300). -/
abbrev keyEngineWdMin : Nat := 0xE00002
/-- ACC_ENTRIES (R300). -/
abbrev keyAccEntries : Nat := 0xE01001
/-- ACC_ERRORS (R300). -/
abbrev keyAccErrors : Nat := 0xE01002
/-- ACC_CHECK_FAILS (R300). -/
abbrev keyAccCheckFails : Nat := 0xE01003
/-- ACC_MODEL_OVERRUNS (R300). -/
abbrev keyAccModelOverruns : Nat := 0xE01004
/-- ACC_ABORTS (R300). -/
abbrev keyAccAborts : Nat := 0xE01005
/-- LDPC_BLOCKS (R300). -/
abbrev keyLdpcBlocks : Nat := 0xE01006
/-- LDPC_BLOCKS_FAILED (R300). -/
abbrev keyLdpcBlocksFailed : Nat := 0xE01007
/-- LDPC_EARLY (R300). -/
abbrev keyLdpcEarly : Nat := 0xE01008
/-- POLAR_CRC_FAILS (R300). -/
abbrev keyPolarCrcFails : Nat := 0xE01009
/-- FFT_SATURATIONS (R300). -/
abbrev keyFftSaturations : Nat := 0xE0100A
/-- ENGINE_LOAD (R300). -/
abbrev keyEngineLoad : Nat := 0xE02001
/-- CLEIP_RX (R482). -/
abbrev keyCleipRx : Nat := 0xF01001
/-- CLEIP_TX (R482). -/
abbrev keyCleipTx : Nat := 0xF01002
/-- CLEIP_BAD_FRAMES (R482). -/
abbrev keyCleipBadFrames : Nat := 0xF01003
/-- CLEIP_REPLAYS (R482). -/
abbrev keyCleipReplays : Nat := 0xF01004
/-- CLEIP_INFLIGHT_DISCARDS (R482). -/
abbrev keyCleipInflightDiscards : Nat := 0xF01005
/-- CLEIP_EVENTS_SENT (R482). -/
abbrev keyCleipEventsSent : Nat := 0xF01006
/-- CLEIP_EVENTS_DROPPED (R482). -/
abbrev keyCleipEventsDropped : Nat := 0xF01007
/-- MS_CRC_ERRORS (R482). -/
abbrev keyMsCrcErrors : Nat := 0xF01008
/-- MS_OVERRUNS (R482). -/
abbrev keyMsOverruns : Nat := 0xF01009
/-- BLOCK_TIMEOUTS (R482). -/
abbrev keyBlockTimeouts : Nat := 0xF0100A
/-- MXC_LOCK_GRANTS (R277). -/
abbrev keyMxcLockGrants : Nat := 0xF10001
/-- MXC_WAIT_EVICTIONS (R277). -/
abbrev keyMxcWaitEvictions : Nat := 0xF10002
/-- MXC_SQUASH_DRAINS (R277). -/
abbrev keyMxcSquashDrains : Nat := 0xF10003
/-- MXC_ERRORS (R277). -/
abbrev keyMxcErrors : Nat := 0xF10004

end Sys2Proof.Machine
end

