-- ==== Sys2Proof/Machine/Ops.lean ====
section
/-!
DEFINITION. Named operations over the state: units present, objects, counters, free values and the reading and writing
of each numbered unit.
-/
namespace Sys2Proof.Machine

/-- What a meaning answers. -/
abbrev Res := Host.Outcome State Fault Refusal

/-! ## Units present (R10) -/

/-- Clusters present (R10). -/
def nClusters (v : Variant) : Nat := match v with | .m5f => 16 | .m5h => 12 | .m5e => 8
/-- LDPC decoders present (R10). -/
def nLd (v : Variant) : Nat := match v with | .m5f => 64 | .m5h => 48 | .m5e => 32
/-- LDPC encoders present (R10). -/
def nLe (v : Variant) : Nat := match v with | .m5f => 32 | .m5h => 24 | .m5e => 16
/-- Polar engines present (R10). -/
def nPc (v : Variant) : Nat := match v with | .m5f => 16 | .m5h => 12 | .m5e => 8
/-- FFT engines present (R10). -/
def nFt (v : Variant) : Nat := match v with | .m5f => 32 | .m5h => 24 | .m5e => 16
/-- Narrowband channels present (R10). -/
def nNb (v : Variant) : Nat := match v with | .m5f => 384 | .m5h => 384 | .m5e => 0
/-- Lane groups present (R10). -/
def nGroups (v : Variant) : Nat := match v with | .m5f => 4 | .m5h => 3 | .m5e => 2
/-- DRAM channels present (R10). -/
def nDramCh (v : Variant) : Nat := match v with | .m5f => 4 | .m5h => 4 | .m5e => 2
/-- Tiles present (R10). -/
def nTiles (v : Variant) : Nat := nClusters v / 4
/-- Matrix coprocessors present (R10, R13). -/
def hasMxc (v : Variant) : Bool := match v with | .m5e => false | _ => true
/-- Narrowband modem present (R10, R13). -/
def hasNbm (v : Variant) : Bool := match v with | .m5e => false | _ => true
/-- Cipher engine present (R10, R13). -/
def hasCipher (v : Variant) : Bool := match v with | .m5e => false | _ => true
/-- Second time domain present (R10, R13). -/
def hasTb (v : Variant) : Bool := match v with | .m5f => true | _ => false

/-- Features bits [3:0] of the feature word (R13). -/
def featBits (v : Variant) : Nat := b2n (hasMxc v) + 2 * b2n (hasCipher v) + 4 * b2n (hasNbm v) + 8 * b2n (hasTb v)

/-- The feature word (R13). -/
def featureWord (v : Variant) : Nat :=
  featBits v + 2 ^ 20 * (2 ^ nTiles v - 1) + 2 ^ 24 * (2 ^ nDramCh v - 1) + 2 ^ 28 * (2 ^ nGroups v - 1)
    + 2 ^ 32 * (2 ^ nClusters v - 1)

/-- BRF_FEAT of a core (R15). -/
def brfFeat (v : Variant) : BitVec 32 := if hasMxc v then 0x0010050E else 0x00100506

/-- Number of instances of an engine kind (1 LD, 2 LE, 3 PC, 4 FT, 5 the eight modem slices, R121, R301). -/
def nEngines (v : Variant) (kind : Nat) : Nat :=
  match kind with
  | 1 => nLd v | 2 => nLe v | 3 => nPc v | 4 => nFt v | 5 => if hasNbm v then 8 else 0 | _ => 0

/-! ## Outcomes -/

/-- The command's effect is this state. -/
def done (s : State) : Res := .next s

/-- A command that names a unit below the bound has its effect; any other names no unit. -/
def onUnit (n bound : Nat) (r : Res) : Res := if n < bound then r else .fault (.noSuchUnit n)

/-- The effect when the condition of the command holds, and none otherwise (assumption 3). -/
def whenSt (c : Bool) (s : State) (t : State) : Res := if c then .next t else .next s

/-! ## Free values, and what the device sends -/

/-- A free value: drawn from the opaque constant by the counter of the state (assumption 5). -/
def State.drawNat (s : State) : Nat × State := (Config.freeNat s.free, { s with free := s.free + 1 })

/-- A free value of w bits. -/
def State.drawBits (s : State) (w : Nat) : BitVec w × State :=
  (BitVec.ofNat w (Config.freeNat s.free), { s with free := s.free + 1 })

/-- Note something sent. -/
def State.emit (s : State) (o : Out) : State := { s with out := s.out ++ [o] }

/-! ## Objects -/

/-- Default of an object on this part (R479, R112, R343). -/
def odflt (s : State) (k : Nat) : Nat :=
  if k = 0x404001 then s.part.mac0
  else if k = 0x404101 then s.part.mac1
  else if k = keyGroupEnable then 2 ^ nGroups s.part.variant - 1
  else match objRow (k / 256) (k % 256) with
    | some r => r.dflt
    | none => 0

/-- Stored value of a scalar object, as its bit pattern. -/
def State.oval (s : State) (k : Nat) : Nat := (kget s.obj.vals k).getD (odflt s k)

/-- A stored scalar as a signed number of w bits. -/
def State.ovalInt (s : State) (k w : Nat) : Int := sgn w (s.oval k)

/-- A stored scalar as a truth value. -/
def State.oflag (s : State) (k : Nat) : Bool := s.oval k != 0

/-- Set a scalar object; a value equal to the default is not listed. -/
def State.setOval (s : State) (k v : Nat) : State :=
  { s with obj := { s.obj with vals := if v = odflt s k then kdel s.obj.vals k else kset s.obj.vals k v } }

/-- Count events in a U32 counter that saturates (R581). -/
def State.bump (s : State) (k n : Nat) : State := s.setOval k (min (s.oval k + n) 0xFFFFFFFF)

/-- Byte i of a record of n bytes, most significant byte first. -/
def recByte (n v i : Nat) : Nat := v / 256 ^ (n - 1 - i) % 256

/-- Default byte of a DOMAIN object: the reset columns of R344, R375, R384 and R507; a DRAM timing set or delay record
comes from the boot image (R428, R430), which the spec does not give; every other byte is zero. -/
def domDflt (k off : Nat) : Nat :=
  if k = keyModuleMap then recByte 8 ((2 ^ 28 - 1) * 2 ^ 28) (off % 8)
  else if k = keyLinkConfig then
    recByte 16 (off / 16 * 2 ^ 112 + 112 * 2 ^ 96 + 50000 * 2 ^ 64 + 100000 * 2 ^ 32 + 100000) (off % 16)
  else if k = keyFhCell then recByte 8 (4 * 2 ^ 30) (off % 8)
  else if k = keyLaneConfig then recByte 8 (80 * 2 ^ 48 + 2 * 2 ^ 44 + 6 * 2 ^ 40) (off % 8)
  else if k = keyTsa ∨ k = keyTsb ∨ k = keyDramDelays then (Config.bootByte k off).toNat
  else 0

/-- One stored byte of a DOMAIN object. -/
def State.domByte (s : State) (k off : Nat) : Nat := (kget (kgetD s.obj.doms k []) off).getD (domDflt k off)

/-- n stored bytes of a DOMAIN object. -/
def State.domBytes (s : State) (k off n : Nat) : List Byte :=
  (List.range n).map fun i => BitVec.ofNat 8 (s.domByte k (off + i))

/-- n stored bytes of a DOMAIN object as one number, most significant byte first. -/
def State.domNat (s : State) (k off n : Nat) : Nat := beNat (s.domBytes k off n)

/-- One byte laid into the listed bytes of a DOMAIN object. -/
def domPut (k : Nat) (m : List (Nat × Nat)) (off : Nat) (b : Byte) : List (Nat × Nat) :=
  if b.toNat = domDflt k off then kdel m off else kset m off b.toNat

/-- Bytes laid into the listed bytes from an offset. -/
def domPutAll (k : Nat) (m : List (Nat × Nat)) : Nat → List Byte → List (Nat × Nat)
  | _, [] => m
  | off, b :: r => domPutAll k (domPut k m off b) (off + 1) r

/-- Write bytes of a DOMAIN object. -/
def State.setDom (s : State) (k off : Nat) (b : List Byte) : State :=
  { s with obj := { s.obj with doms := kset s.obj.doms k (domPutAll k (kgetD s.obj.doms k []) off b) } }

/-! ## Numbered units -/

/-- A core. -/
def State.core (s : State) (c : Nat) : Core := kgetD s.cores c Core.init
/-- Replace a core. -/
def State.setCore (s : State) (c : Nat) (x : Core) : State := { s with cores := kset s.cores c x }
/-- A matrix coprocessor. -/
def State.mxc (s : State) (m : Nat) : Mxc := kgetD s.mxcs m Mxc.init
/-- Replace a matrix coprocessor. -/
def State.setMxc (s : State) (m : Nat) (x : Mxc) : State := { s with mxcs := kset s.mxcs m x }
/-- A cluster. -/
def State.cluster (s : State) (k : Nat) : Cluster := kgetD s.clusters k Cluster.init
/-- Replace a cluster. -/
def State.setCluster (s : State) (k : Nat) (x : Cluster) : State := { s with clusters := kset s.clusters k x }
/-- A queue never used: its active port is its home port while that is up, else the other (R104, R105). -/
def freshQueue (s : State) (q : Nat) : Queue :=
  let x := Queue.init q
  if (kgetD s.ports x.homePort Port.init).away then { x with activePort := 1 - x.homePort } else x
/-- A queue. -/
def State.queue (s : State) (q : Nat) : Queue := kgetD s.queues q (freshQueue s q)
/-- Replace a queue. -/
def State.setQueue (s : State) (q : Nat) (x : Queue) : State :=
  { s with queues := kset s.queues q x, aon2 := kset s.aon2 q x.aon }
/-- The second always-on copy of every queue is that of its first (R46, R78, R83). -/
def syncAon (s : State) : State := { s with aon2 := s.queues.map fun x => (x.1, x.2.aon) }
/-- An Ethernet port. -/
def State.port (s : State) (p : Nat) : Port := kgetD s.ports p Port.init
/-- Replace a port. -/
def State.setPort (s : State) (p : Nat) (x : Port) : State := { s with ports := kset s.ports p x }
/-- A priority is paused on a port (R96). -/
def paused (s : State) (p prio : Nat) : Bool := (s.port p).pauses.any fun x => decide (x.1 = prio)
/-- Send on a port at a priority, or hold until the pause of that priority ends (R96). -/
def State.sendAt (s : State) (p prio : Nat) (o : Out) : State :=
  if paused s p prio then { s with held := s.held ++ [(p, prio, o)] } else s.emit o
/-- A DMA channel. -/
def State.chan (s : State) (c : Nat) : Chan := kgetD s.chans c Chan.init
/-- Replace a DMA channel. -/
def State.setChan (s : State) (c : Nat) (x : Chan) : State := { s with chans := kset s.chans c x }
/-- Number of an engine instance in the engine map: kind × 1,024 + instance. -/
def engKey (kind n : Nat) : Nat := kind * 1024 + n
/-- An engine instance. -/
def State.engine (s : State) (kind n : Nat) : Engine := kgetD s.engines (engKey kind n) Engine.init
/-- Replace an engine instance. -/
def State.setEngine (s : State) (kind n : Nat) (x : Engine) : State :=
  { s with engines := kset s.engines (engKey kind n) x }
/-- A region (R192). -/
def State.region (s : State) (r : Nat) : Region := kgetD s.regions r Region.init
/-- Replace a region. -/
def State.setRegion (s : State) (r : Nat) (x : Region) : State := { s with regions := kset s.regions r x }
/-- A fronthaul lane. -/
def State.lane (s : State) (n : Nat) : Lane := kgetD s.fh.lanes n Lane.init
/-- Replace a lane. -/
def State.setLane (s : State) (n : Nat) (x : Lane) : State := { s with fh := { s.fh with lanes := kset s.fh.lanes n x } }
/-- A link. -/
def State.link (s : State) (g : Nat) : Link := kgetD s.fh.links g Link.init
/-- Replace a link. -/
def State.setLink (s : State) (g : Nat) (x : Link) : State := { s with fh := { s.fh with links := kset s.fh.links g x } }

/-- Milliseconds, microseconds and seconds in ns. -/
abbrev msNs : Nat := 1000000
/-- Nanoseconds in a microsecond. -/
abbrev usNs : Nat := 1000
/-- Nanoseconds in a second. -/
abbrev secNs : Nat := 1000000000

/-! ## Serviceable and powered -/

/-- The device serves: it has booted and no restart is under way (R554). -/
def State.serving (s : State) : Bool :=
  s.supply.bootState = 5 && s.supply.restart.isNone && s.power.state != 3 && !(s.power.phase = 2 && s.power.target = 3)

/-- The compute islands and the scheduler run: no Dusk has passed its point of no return and no Dawn is under way (R516,
R521, R528). -/
def State.awake (s : State) : Bool := s.serving && decide (s.power.phase ≤ 1) && decide (s.power.state ≤ 1)

/-- The central scheduler has been prepared in a Dusk, or a block after it: expansion and admission have stopped (R521). -/
def State.schedStopped (s : State) : Bool := decide (s.power.phase = 1) && decide (2 ≤ s.power.block)

/-- Every island but I47 is powered: the main rails are good, RESET_N is high and the device is not in P3 (R516, R542). -/
def State.powered (s : State) : Bool := s.supply.aonUp && s.supply.pwrGood && s.supply.resetN && s.power.state != 3

/-- Retirement, loss and absence of a region: it takes no work (R161, R192). -/
def State.regionUp (s : State) (r : Nat) : Bool := (s.region r).state = 0

end Sys2Proof.Machine
end

