-- ==== Sys2Proof/Machine/Encap.lean ====
section
/-!
DEFINITION. Ethernet frames that the device sends: its addresses, the IP and UDP headers and the tag of a frame, and the
frames of Cleip (R64, R65, R104, R112, R373, R460).
-/
namespace Sys2Proof.Machine

/-- MAC, IPv4 and IPv6 addresses on a port. -/
structure Addrs where
  mac : Nat
  v4 : Nat
  v6 : Nat
  deriving DecidableEq, Repr

/-- The device's own addresses on a port (R112). -/
def ownAddrs (s : State) (p : Nat) : Addrs :=
  { mac := s.oval (keyPortMac p), v4 := s.oval (keyPortIpv4 p), v6 := s.domNat (keyPortIpv6 p) 0 16 }

/-- A frame is addressed to given addresses: a zero IP address disables reception (R64, R112). -/
def addressedTo (encap : Nat) (x : FrameTo) (a : Addrs) : Bool :=
  decide (x.dstMac = a.mac) &&
    (match encap with
    | 0 => true
    | 1 => decide (a.v4 ≠ 0) && decide (x.dstIp = a.v4)
    | _ => decide (a.v6 ≠ 0) && decide (x.dstIp = a.v6))

/-- The encapsulation is one of those enabled, names the carrier's EtherType or UDP port, and passes its checks (R64, R65). -/
def encapHolds (encap : Nat) (x : FrameTo) (enable etype udp : Nat) : Bool :=
  decide (encap < 3) && tbit enable encap &&
    (if encap = 0 then decide (x.proto = etype) else decide (x.proto = udp) && x.ipOk && x.udpOk)

/-- Priority of the frames of a source: 0 when they come untagged (R460). -/
def srcPrio (x : CleipSrc) : Nat := if x.vlan.isSome then x.pcp else 0

/-- Ones' complement sum of bytes taken as 16-bit words, an odd last byte being the high half of a word. -/
def onesSum : List Byte → Nat
  | a :: b :: r => a.toNat * 256 + b.toNat + onesSum r
  | [a] => a.toNat * 256
  | [] => 0

/-- The carries of a ones' complement sum folded back, twice. -/
def foldCarry (n : Nat) : Nat := let m := n % 65536 + n / 65536; m % 65536 + m / 65536

/-- UDP checksum over the IPv6 pseudo-header, the UDP header and the payload; a computed 0 is sent as 0xFFFF
(assumption 67). -/
def udpChecksum6 (src dst srcPort dstPort : Nat) (b : List Byte) : Nat :=
  let len := 8 + b.length
  let sum := foldCarry (foldCarry (onesSum (beBytes 16 src ++ beBytes 16 dst ++ beBytes 4 len ++ beBytes 4 17
    ++ beBytes 2 srcPort ++ beBytes 2 dstPort ++ beBytes 2 len ++ b)))
  if sum = 0xFFFF then 0xFFFF else 0xFFFF - sum

/-- IP and UDP headers of a frame sent from a UDP port: DSCP 0, TTL or hop limit 64, DF and no checksum on IPv4, a computed
checksum on IPv6 (R65; for eCPRI and Cleip assumption 67). -/
def udpLayer (port : Nat) (from_ : Addrs) (to' : Peer) (b : List Byte) : Option IpUdp :=
  match to'.encap with
  | 0 => none
  | 1 => some { v6 := false, src := from_.v4, dst := to'.ip, dscp := 0, hop := 64, df := true, srcPort := port
                dstPort := to'.udp, checksum := 0 }
  | _ => some { v6 := true, src := from_.v6, dst := to'.ip, dscp := 0, hop := 64, df := false, srcPort := port
                dstPort := to'.udp, checksum := udpChecksum6 from_.v6 to'.ip port to'.udp b }

/-- EtherType of an encapsulation: a carrier's own, IPv4 or IPv6 (R64, R460). -/
def encapEtype (raw encap : Nat) : Nat := match encap with | 0 => raw | 1 => 0x0800 | _ => 0x86DD

/-- A frame to a peer, with a carrier's EtherType and UDP port; a tagged frame carries a priority (R64, R104). -/
def frameTo (p : Nat) (from_ : Addrs) (to' : Peer) (pcp raw udp : Nat) (b : List Byte) : EthFrame :=
  { port := p, dstMac := to'.mac, srcMac := from_.mac, tag := to'.vlan.map fun v => (pcp, v), etype := encapEtype raw to'.encap
    ip := udpLayer udp from_ to' b, payload := b }

/-- A frame with a Cleip message to the addresses of a requester, in its encapsulation, VLAN and priority (R460). -/
def cleipFrame (s : State) (dst : CleipSrc) (msg : List Byte) : EthFrame :=
  frameTo dst.carrier (ownAddrs s dst.carrier)
    { mac := dst.mac, encap := dst.encap, ip := dst.ip, udp := dst.udp, vlan := dst.vlan } (srcPrio dst) (s.oval keyCleipEtype)
    (s.oval keyCleipUdp) msg

end Sys2Proof.Machine
end

