-- ==== Sys2Proof/Machine/Events.lean ====
section
/-!
DEFINITION. Cleip messages the device sends of itself: headers, TIME80 and EVENT messages to subscribers (R464, R473,
R474, R478).
-/
namespace Sys2Proof.Machine

/-- A Cleip header of 16 bytes (R464). -/
def cleipHeader (op : Nat) (resp last : Bool) (tid index sub status len off epoch : Nat) : List Byte :=
  beBytes 16 ((1 * 2 ^ 124) + (op % 16) * 2 ^ 120 + b2n resp * 2 ^ 119 + b2n last * 2 ^ 118 + (tid % 65536) * 2 ^ 96
    + (index % 65536) * 2 ^ 80 + (sub % 256) * 2 ^ 72 + (status % 256) * 2 ^ 64 + (len % 65536) * 2 ^ 48
    + (off % 2 ^ 32) * 2 ^ 16 + epoch % 65536)

/-- Device time as TIME80 (R478). -/
def time80 (ns : Nat) : List Byte := beBytes 6 (ns / secNs) ++ beBytes 4 (ns % secNs)

/-- Time of a TIME80 as nanoseconds. -/
def ofTime80 (v : Nat) : Nat := v / 2 ^ 32 * secNs + v % 2 ^ 32

/-- An EVENT message of a subscription (R473). -/
def eventMsg (s : State) (x : Subscr) (status : Nat) (record : Nat) (data : List Byte) : List Byte :=
  let body := if status = 0 then time80 s.time.now ++ [0, 0] ++ beBytes 4 record ++ data.take 64 else
    time80 s.time.now ++ [0, 0] ++ beBytes 4 record
  cleipHeader 6 false false x.nextTid (x.key / 256) (x.key % 256) status body.length 0 s.epoch ++ body

/-- Set one subscription. -/
def setSub (s : State) (n : Nat) (x : Subscr) : State := { s with cleip := { s.cleip with subs := kset s.cleip.subs n x } }

/-- An event message of subscription n on Ethernet: sent at once, or into the subscription's queue of 32 while its priority is
paused on the port (R96, R474). -/
def queueEvent (s : State) (n : Nat) (x : Subscr) (msg : List Byte) : State :=
  let src := x.requester
  if paused s src.carrier (srcPrio src) then
    if x.queue.length < 32 then setSub s n { x with queue := x.queue ++ [msg] } else s.bump keyCleipEventsDropped 1
  else (s.emit (.frame (cleipFrame s src msg))).bump keyCleipEventsSent 1

/-- The queued events of a subscription leave, oldest first. -/
def flushEvents (s : State) (n : Nat) (x : Subscr) : State :=
  x.queue.foldl (fun t m => (t.emit (.frame (cleipFrame t x.requester m))).bump keyCleipEventsSent 1)
    (setSub s n { x with queue := [] })

/-- The queued events of every subscription on a port whose priority is no longer paused leave (R96). -/
def flushSubs (s : State) (p : Nat) : State :=
  (s.cleip.subs.filter fun y => !y.2.queue.isEmpty && decide (y.2.requester.carrier = p) && !paused s p (srcPrio y.2.requester)).foldl
    (fun t y => flushEvents t y.1 y.2) s

/-- An event message of subscription n waits on a serial side. -/
def Serial.put (x : Serial) (n : Nat) (msg : List Byte) : Serial := { x with events := x.events ++ [(n, msg)] }

/-- Deliver an event message of subscription n: on Ethernet by its own queue, on MS into the queue of 32 that all its
subscriptions share, and on FP into a queue of 32 for each, read oldest first (R462, R474). -/
def deliverEvent (s : State) (n : Nat) (x : Subscr) (msg : List Byte) : State :=
  let src := x.requester
  if src.carrier < 2 then queueEvent s n x msg
  else if src.carrier = 2 then
    if s.cleip.ms.events.length < 32 then
      ({ s with cleip := { s.cleip with ms := s.cleip.ms.put n msg } }).bump keyCleipEventsSent 1
    else s.bump keyCleipEventsDropped 1
  else
    if (s.cleip.fp.events.filter fun e => decide (e.1 = n)).length < 32 then
      ({ s with cleip := { s.cleip with fp := s.cleip.fp.put n msg } }).bump keyCleipEventsSent 1
    else s.bump keyCleipEventsDropped 1

/-- Send one event to subscription n; its sequence number advances whether it is sent or dropped (R473). -/
def sendEvent (s : State) (n : Nat) (x : Subscr) (status record : Nat) (data : List Byte) : State :=
  let y := { x with nextTid := (x.nextTid + 1) % 65536 }
  deliverEvent (setSub s n y) n y (eventMsg s x status record data)

/-- M5 object that an alias index stands for (R481); none where the range has no object. -/
def aliasTarget (index sub : Nat) : Option (Nat × Nat) :=
  if 0x0800 ≤ index ∧ index ≤ 0x0FFF then
    if index = 0x0800 ∧ 1 ≤ sub ∧ sub ≤ 5 then some (0x1000, sub)
    else if index = 0x0801 ∧ sub = 1 then some (0x1010, 1)
    else if index = 0x0840 ∧ sub = 1 then some (0x4000, 5)
    else if index = 0x0900 ∧ sub = 1 then some (0x9230, 1)
    else if index = 0x0901 ∧ sub = 1 then some (0x9200, 1)
    else if index = 0x0930 ∧ sub = 1 then some (0x3000, 1)
    else none
  else some (index, sub)

/-- Key of the object a subscription is on. -/
def subTarget (key : Nat) : Nat :=
  match aliasTarget (key / 256) (key % 256) with
  | some (i, j) => okey i j
  | none => key

/-- Send an event to each mode-2 subscription of a list that is on an object. -/
def raiseTo (s : State) (key record : Nat) (data : List Byte) : List (Nat × Subscr) → State
  | [] => s
  | (n, x) :: r =>
    if x.mode = 2 ∧ subTarget x.key = key then
      raiseTo (sendEvent s n ((kget s.cleip.subs n).getD x) 0 record data) key record data r
    else raiseTo s key record data r

/-- Raise an EVENT to the subscribers of an object (R472 mode 2): record offset and its bytes. -/
def raiseEvent (s : State) (key record : Nat) (data : List Byte) : State := raiseTo s key record data s.cleip.subs

/-- Raise an EVENT that concerns no record of a DOMAIN. -/
def raiseScalar (s : State) (key : Nat) (data : List Byte) : State := raiseEvent s key 0xFFFFFFFF data

end Sys2Proof.Machine
end

