-- ==== Sys2Proof/Machine/Request.lean ====
section
/-!
DEFINITION. A write of an object as the meaning of its row sees it, and the Cleip statuses it answers with (R475, R478,
R479).
-/
namespace Sys2Proof.Machine

/-- OK (R475). -/
abbrev csOk : Nat := 0x00
/-- NO_OBJECT (R475). -/
abbrev csNoObject : Nat := 0x01
/-- NO_SUBINDEX (R475). -/
abbrev csNoSub : Nat := 0x02
/-- ACCESS_DENIED (R475). -/
abbrev csDenied : Nat := 0x03
/-- TYPE_MISMATCH (R475). -/
abbrev csType : Nat := 0x04
/-- RANGE (R475). -/
abbrev csRange : Nat := 0x05
/-- STATE_CONFLICT (R475). -/
abbrev csConflict : Nat := 0x06
/-- ABSENT_FEATURE (R475). -/
abbrev csAbsent : Nat := 0x07
/-- BUSY (R475). -/
abbrev csBusy : Nat := 0x08
/-- LOCKED (R475). -/
abbrev csLocked : Nat := 0x09
/-- LENGTH (R475). -/
abbrev csLength : Nat := 0x0A
/-- INTEGRITY (R475). -/
abbrev csIntegrity : Nat := 0x0B
/-- TIMEOUT (R475). -/
abbrev csTimeout : Nat := 0x0C
/-- No status yet: the answer waits for a longer operation (R468). The model's own mark. -/
abbrev csWait : Nat := 0x100

/-- A write that its type, its access and its table range allow. -/
structure WReq where
  /-- Index and subindex in one number. -/
  key : Nat
  /-- 0 operator, 1 installer, 2 maker (R483). -/
  role : Nat
  carrier : Nat
  /-- A scalar's bit pattern. -/
  val : Nat
  /-- A DOMAIN's range: where it begins and the bytes proposed. -/
  off : Nat
  data : List Byte
  flashOk : Bool
  cipherFaults : Nat
  deriving DecidableEq, Repr

/-- What a write comes to: its status and the state after it. -/
abbrev Applied := Nat × State

/-- A status that leaves the state as it was. -/
def fails (s : State) (status : Nat) : Applied := (status, s)

/-- The object is marked P and its flash write fails (R479). -/
def flashFails (w : WReq) : Bool :=
  !w.flashOk && (match objRow (w.key / 256) (w.key % 256) with | some r => r.kept | none => false)

/-- A P value is written to flash before it is applied; otherwise the write ends with TIMEOUT (R479). -/
def ifFlash (s : State) (w : WReq) (t : State) : Applied := if flashFails w then (csTimeout, s) else (csOk, t)

/-- Store the value of a scalar. -/
def storeVal (s : State) (w : WReq) : State := s.setOval w.key w.val

/-- Store the bytes of a DOMAIN. -/
def storeDom (s : State) (w : WReq) : State := s.setDom w.key w.off w.data

/-- The value of a DOMAIN as it would stand after a write, byte by byte (R470). -/
def overlaid (s : State) (w : WReq) (i : Nat) : Nat :=
  if w.off ≤ i ∧ i < w.off + w.data.length then ((w.data[i - w.off]?).map (·.toNat)).getD 0 else s.domByte w.key i

/-- Record i of n bytes of a DOMAIN as it would stand after a write. -/
def newRec (s : State) (w : WReq) (n i : Nat) : Nat :=
  beNat ((List.range n).map fun j => BitVec.ofNat 8 (overlaid s w (n * i + j)))

/-- Records of n bytes that a write touches. -/
def touched (w : WReq) (n : Nat) : List Nat :=
  if w.data.isEmpty then [] else (List.range ((w.off + w.data.length - 1) / n + 1 - w.off / n)).map (w.off / n + ·)

end Sys2Proof.Machine
end

