-- ==== Sys2Proof/Machine/Regions.lean ====
section
/-!
DEFINITION. Fault-containment regions: their offsets, states, strikes and retirement, and the fault log (R153 to R162,
R192, R193).
-/
namespace Sys2Proof.Machine

/-! ## Offsets (R153) -/

/-- Region of a core. -/
abbrev regCore (c : Nat) : Nat := c
/-- Region of a matrix coprocessor. -/
abbrev regMxc (m : Nat) : Nat := 0x240 + m
/-- Region of a cluster island. -/
abbrev regIsland (i : Nat) : Nat := 0x2D0 + i
/-- Region of an accelerator instance, by kind. -/
def regEngine (kind n : Nat) : Nat :=
  match kind with
  | 1 => 0x2E0 + n | 2 => 0x320 + n | 3 => 0x340 + n | 4 => 0x350 + n | _ => 0x374
/-- Region of an Anvil quarter. -/
abbrev regQuarter (q : Nat) : Nat := 0x370 + q
/-- Region of a cluster memory bank. -/
abbrev regBank (k b : Nat) : Nat := 0x380 + 32 * k + b
/-- Region of a DRAM subchannel. -/
abbrev regSub (i : Nat) : Nat := 0x580 + i
/-- Region of a fronthaul lane. -/
abbrev regLane (n : Nat) : Nat := 0x588 + n
/-- Region of an Ethernet port. -/
abbrev regPort (e : Nat) : Nat := 0x5CC + e
/-- Region of a supervisor pair. -/
abbrev regSv (n : Nat) : Nat := 0x5CE + n
/-- Region of a time domain. -/
abbrev regTime (n : Nat) : Nat := 0x5D0 + n
/-- Region of a supply input. -/
abbrev regVin (n : Nat) : Nat := 0x5D2 + n
/-- Region of a DRAM ×4 device. -/
abbrev regDev (sub d : Nat) : Nat := 0x5D4 + 10 * sub + d

/-- A region of a unit that the part lacks (R10, R192 STATE 4). -/
def regionAbsent (s : State) (r : Nat) : Bool :=
  let v := s.part.variant
  if r < 0x240 then decide (36 * nClusters v ≤ r) || s.part.fusedCores.contains r
  else if r < 0x2D0 then decide (9 * nClusters v ≤ r - 0x240) || !hasMxc v
  else if r < 0x2E0 then decide (nClusters v ≤ r - 0x2D0)
  else if r < 0x320 then decide (nLd v ≤ r - 0x2E0)
  else if r < 0x340 then decide (nLe v ≤ r - 0x320)
  else if r < 0x350 then decide (nPc v ≤ r - 0x340)
  else if r < 0x370 then decide (nFt v ≤ r - 0x350)
  else if r < 0x374 then false
  else if r = 0x374 then !hasNbm v
  else if r < 0x380 then true
  else if r < 0x580 then decide (32 * nClusters v ≤ r - 0x380)
  else if r < 0x588 then decide (2 * nDramCh v ≤ r - 0x580)
  else if r < 0x5CC then decide (17 * nGroups v ≤ r - 0x588)
  else if r < 0x5D1 then false
  else if r = 0x5D1 then !hasTb v
  else if r < 0x5D4 then false
  else decide (20 * nDramCh v ≤ r - 0x5D4)

/-- STATE of a region (R192). -/
def State.regState (s : State) (r : Nat) : Nat := if regionAbsent s r then 4 else (s.region r).state

/-- A region in service. -/
def State.up (s : State) (r : Nat) : Bool := s.regState r = 0

/-- Replace the state of a region. -/
def State.setRegState (s : State) (r st : Nat) : State := s.setRegion r { s.region r with state := st }

/-- Island that a cluster core, coprocessor or bank region lies in. -/
def clusterUp (s : State) (k : Nat) : Bool := s.up (regIsland k) && (s.cluster k).lostAt.isNone

/-- Local cores reserved: a core is in the spare reserve when it is one of the SPARE_CORES highest-numbered in-service
cores of its cluster (R161, R192 RESERVE). -/
def coreReserve (s : State) (c : Nat) : Bool :=
  s.up (regCore c) &&
    decide ((((List.range 36).map fun i => c / 36 * 36 + i).filter fun x => decide (c < x) && s.up (regCore x)).length
      < s.oval keySpareCores)

/-- Strikes of a region within RETIRE_WINDOW (R160). -/
def strikesNow (s : State) (r : Nat) : Nat :=
  ((s.region r).strikes.filter fun t => decide (s.time.now - t < s.oval keyRetireWindow * secNs)).length

/-- A REGION_STATE byte (R192). -/
def regionByte (s : State) (r : Nat) : Nat :=
  s.regState r * 32 + b2n (decide (r < 0x240) && coreReserve s r) * 16 + min (strikesNow s r) 15

/-! ## The fault log (R193) -/

/-- A record of the fault log as a number of 256 bits (R193). -/
def faultRecNat (f : FaultRec) : Nat :=
  f.time % 2 ^ 64 * 2 ^ 192 + f.region % 65536 * 2 ^ 176 + f.cause % 256 * 2 ^ 168 + f.action % 256 * 2 ^ 160
    + f.sqid % 4096 * 2 ^ 148 + f.seq.toNat * 2 ^ 112 + f.task % 256 * 2 ^ 104 + f.start % 256 * 2 ^ 96
    + f.signature % 2 ^ 32 * 2 ^ 64 + f.address % 2 ^ 64

/-- Append a record to the ring of 1,024 records (R193). -/
def logFault (s : State) (f : FaultRec) : State :=
  { s with faultLog := kset s.faultLog s.faultNext f, faultNext := (s.faultNext + 1) % 1024 }

/-- A record that concerns no job. -/
def faultNoJob (s : State) (region cause action : Nat) : FaultRec :=
  { time := s.time.now, region, cause, action, sqid := 0xFFF, seq := 0, task := 0, start := 0, signature := 0, address := 0 }

/-! ## Strikes (R160, R161) -/

/-- The lanes of a group (R324). -/
def groupLanes (g : Nat) : List Nat := (List.range 17).map (17 * g + ·)

/-- A lane that R161 has retired (R341). -/
def laneRetired (s : State) (n : Nat) : Bool := decide (s.regState (regLane n) = 2)

/-- The drain state of a lane: one that is retired stands as DRAINED for good (R339, R341). -/
def laneDrain (s : State) (n : Nat) : DrainState := if laneRetired s n then .drained else (s.lane n).drain

/-- The verifying lane of a group other than this one returns to NORMAL (R339). -/
def abandonDrain (s : State) (n : Nat) : State :=
  (groupLanes (n / 17)).foldl (fun (t : State) m =>
    if m ≠ n ∧ (t.lane m).drain = .verify then
      t.setLane m { t.lane m with drain := .normal, verifyCount := 0, restoring := false }
    else t) s

/-- Retire a region: it takes no further work, and the state is kept in flash (R161, R192). -/
def retireRegion (s : State) (r : Nat) : State :=
  let t := if regLane 0 ≤ r ∧ r < regLane 68 then abandonDrain s (r - regLane 0) else s
  (t.setRegion r { t.region r with state := 2, retiredAt := t.time.now }).bump keyRetirements 1

/-- A retired region still serves: a task that was running when it was retired has not finished (R161). -/
def finishing (s : State) (r : Nat) : Bool :=
  decide (s.regState r = 2) && s.jobs.any fun j => j.tasks.any fun ti => ti.runs.any fun x =>
    decide (x.phase = 1) && decide (x.startTime ≤ (s.region r).retiredAt)

/-- Regions that take strikes: neither supply inputs (R539) nor Anvil quarters (R415). -/
def takesStrikes (r : Nat) : Bool := !(decide (0x370 ≤ r) && decide (r < 0x374)) && !(decide (r = 0x5D2) || decide (r = 0x5D3))

/-- Charge a strike to a region; at RETIRE_STRIKES strikes within the window it is retired (R160, R161). -/
def strike (s : State) (r : Nat) : State :=
  if takesStrikes r && !regionAbsent s r then
    let x := s.region r
    let t := s.setRegion r
      { x with strikes := (x.strikes.filter fun t => decide (s.time.now - t < s.oval keyRetireWindow * secNs)) ++ [s.time.now] }
    if s.oval keyRetireStrikes ≤ strikesNow t r ∧ t.regState r != 2 then retireRegion t r else t
  else s

end Sys2Proof.Machine
end

