-- ==== Sys2Proof/Machine/Cells.lean ====
section
/-!
DEFINITION. Cells, their time, the ledgers of admission and the tests of admission, and the cell check (R115 to R127,
R142 to R145, R163).
-/
namespace Sys2Proof.Machine

/-! ## Cells and their time (R115 to R118) -/

/-- A cell record as it stands before its first write (R115). -/
def CellCfg.init (s : State) (c : Nat) : CellCfg :=
  { enable := false, kind := 0, migratable := true, halo := false, home := c % nClusters s.part.variant, horizon := 0
    slotNs := 500000, epochPeriod := 10240000, epochOffset := 0, gBudget := 0 }

/-- The record of a cell (R115). -/
def State.cell (s : State) (c : Nat) : CellCfg := kgetD s.cellCfg c (CellCfg.init s c)

/-- The state of a cell (R148). -/
def State.cellState (s : State) (c : Nat) : CellSt :=
  kgetD s.cellSt c
    { cluster := (s.cell c).home, migration := none, migrations := 0, lastReason := 0, demoted := 0, lastMove := none, ledger := [] }

/-- Replace the state of a cell. -/
def State.setCellSt (s : State) (c : Nat) (x : CellSt) : State := { s with cellSt := kset s.cellSt c x }

/-- Numbers of the enabled cells. -/
def enabledCells (s : State) : List Nat := (s.cellCfg.filter fun x => x.2.enable).map (·.1)

/-- Epoch period in ns (R116). -/
def CellCfg.period (x : CellCfg) : Int := (x.epochPeriod * 1000 : Nat)

/-- The resolved deadline: the instant nearest to a time, the later of two equally near (R117). -/
def resolveDeadline (x : CellCfg) (deadline now : Nat) : Int :=
  let base : Int := (x.epochOffset + 8 * deadline : Nat)
  let d1 := base + ((now : Int) - base) / x.period * x.period
  let d2 := d1 + x.period
  if d2 - now ≤ now - d1 then d2 else d1

/-- Epoch and slot whose interval, open at its start and closed at its end, contains a deadline (R118). -/
def slotOfDeadline (x : CellCfg) (d : Int) : Int × Int :=
  let t := d - x.epochOffset
  let k := -(-t / x.period) - 1
  (k, -(-(t - k * x.period) / x.slotNs) - 1)

/-- First slot boundary of a cell at or after an instant (R116, R140). -/
def nextSlotBoundary (x : CellCfg) (t : Int) : Int :=
  let k := (t - x.epochOffset) / x.period
  let e := x.epochOffset + k * x.period
  let n := -(-(t - e) / x.slotNs)
  if e + n * x.slotNs ≤ e + x.period then e + n * x.slotNs else e + x.period

/-- Horizon of a cell in slots (R115, R120). -/
def horizonOf (s : State) (c : Nat) : Nat :=
  if (s.cell c).horizon = 0 then s.oval keyHorizonDefault else (s.cell c).horizon

/-! ## Operating points (R142 to R144) -/

/-- Core clock of an operating point in MHz (R142). -/
def oppMHz (p : Nat) : Nat := match p with | 0 => 1600 | 1 => 1200 | 2 => 800 | _ => 400

/-- VDD_CL requested at an operating point in mV (R142). -/
def oppMv (p : Nat) : Nat := match p with | 0 => 800 | 1 => 700 | 2 => 620 | _ => 550

/-- One core cycle in units of 1/24 ns. -/
def oppUnits (p : Nat) : Nat := match p with | 0 => 15 | 1 => 20 | 2 => 30 | _ => 60

/-- The operating point scheduled for a cluster: a raise that waits for its rail, or else the present one (R121, R142). -/
def schedOpp (s : State) (k : Nat) : Nat := ((s.cluster k).oppPending).getD (s.cluster k).opp

/-- Effective ceiling of a cluster: the slower of OPP_CEILING and the thermal ceiling (R143). -/
def ceilingOf (s : State) (k : Nat) : Nat := max (s.oval keyOppCeiling) (s.cluster k).thermal

/-- Cycles a core has run, counted at its cluster's clock (R201 CYCLE). -/
def coreCycles (s : State) (c : Nat) : Nat :=
  let x := s.core c
  x.cycles + (s.time.now - x.cycleAt) * oppMHz (s.cluster (c / 36)).opp / 1000

/-! ## Capacity -/

/-- U(k): present in-service cores less the spare reserve (R121). -/
def usable (s : State) (k : Nat) : Nat :=
  if clusterUp s k then
    ((List.range 36).filter fun i => s.up (regCore (36 * k + i)) && !coreReserve s (36 * k + i)).length
  else 0

/-- The shadow cluster of a cluster (R163). -/
def shadowOf (s : State) (k : Nat) : Option Nat :=
  let p := nClusters s.part.variant
  let s0 := (k + p / 2) % p
  if clusterUp s s0 then some s0
  else ((List.range p).map fun i => (s0 + 1 + i) % p).find? fun x => clusterUp s x && decide (x / 4 ≠ k / 4)

/-- The cluster of a voting run: the next in-service cluster after s(k) that is neither k nor s(k) (R165). -/
def voteCluster (s : State) (k : Nat) : Option Nat :=
  match shadowOf s k with
  | none => none
  | some s0 =>
    let p := nClusters s.part.variant
    ((List.range p).map fun i => (s0 + 1 + i) % p).find? fun x => clusterUp s x && decide (x ≠ k) && decide (x ≠ s0)

/-- How often a cell's guaranteed rate counts on a cluster: where it is placed or migrates to, and on its shadow (R122,
R140). -/
def cellCounts (s : State) (k c : Nat) : Nat :=
  let x := s.cellState c
  let onK := decide (x.cluster = k) || (match x.migration with | some m => decide (m.target = k) || decide (m.source = k) | none => false)
  b2n onK + b2n ((s.cell c).halo && decide (shadowOf s x.cluster = some k))

/-- A sum of fractions. -/
def fracSum : List (Nat × Nat) → Nat × Nat
  | [] => (0, 1)
  | (n, d) :: r => let (a, b) := fracSum r; (n * b + a * d, d * b)

/-- Left side of R122 in cycles/s, as a fraction. -/
def gRateFrac (s : State) (k : Nat) : Nat × Nat :=
  fracSum ((enabledCells s).map fun c => (cellCounts s k c * (s.cell c).gBudget * secNs, (s.cell c).slotNs))

/-- Right side of R122 in cycles/s, scaled by 32,768. -/
def gCapScaled (s : State) (k : Nat) : Nat := s.oval keyUMax * usable s k * (oppMHz (ceilingOf s k) * 1000000)

/-- The cell check of a cluster (R122). -/
def cellCheck (s : State) (k : Nat) : Bool :=
  decide ((gRateFrac s k).1 * 32768 ≤ gCapScaled s k * (gRateFrac s k).2)

/-- Left side of R122 in M cycles/s (G_RATE, R149). -/
def gRate (s : State) (k : Nat) : Nat := (gRateFrac s k).1 / ((gRateFrac s k).2 * 1000000)

/-- Right side of R122 in M cycles/s (G_CAPACITY, R149). -/
def gCapacity (s : State) (k : Nat) : Nat := gCapScaled s k / (32768 * 1000000)

/-- The cell-check ratio of a cluster is at most a FIX16 value (R138, R139). -/
def ratioAtMost (s : State) (k fix : Nat) : Bool :=
  decide ((gRateFrac s k).1 * 32768 * 32768 ≤ fix * gCapScaled s k * (gRateFrac s k).2)

/-- The ratio of one cluster is below that of another. -/
def ratioLt (s : State) (k l : Nat) : Bool :=
  let (a, b) := gRateFrac s k
  let (c, d) := gRateFrac s l
  decide (a * gCapScaled s l * d < c * gCapScaled s k * b)

/-- Headroom of a cluster: right less left side of R122, in units of cycles/s scaled by 32,768 and rounded down. -/
def headroom (s : State) (k : Nat) : Int :=
  (gCapScaled s k : Int) - ((gRateFrac s k).1 * 32768 / (gRateFrac s k).2 : Nat)

/-- Every present cluster passes the cell check. -/
def allPass (s : State) : Bool := (List.range (nClusters s.part.variant)).all fun k => cellCheck s k

/-! ## Engines -/

/-- An engine instance in service: its region and, for a modem slice, the slice itself (R161, R322). -/
def engineUp (s : State) (kind n : Nat) : Bool :=
  decide (n < nEngines s.part.variant kind) && s.up (regEngine kind n) && !(s.engine kind n).failed
    && (s.engine kind n).testing.isNone

/-- Island of an engine instance (R9). -/
def engineIsland (kind n : Nat) : Nat :=
  match kind with
  | 1 => 25 + n / 16 | 2 => 29 + n / 16 | 3 => 29 + n / 8 | 4 => 31 + n / 16 | _ => 33

/-- Instances of an engine island: kind and number. -/
def islandEngines (s : State) (i : Nat) : List (Nat × Nat) :=
  [1, 2, 3, 4, 5].flatMap fun kind => ((List.range (nEngines s.part.variant kind)).filter fun n => decide (engineIsland kind n = i)).map fun n => (kind, n)

/-- Reserve instances of a kind (R191 ENGINE_SPARES). -/
def engineSpares (s : State) (kind : Nat) : Nat :=
  match kind with
  | 1 => bits (s.oval keyEngineSpares) 3 0 | 2 => bits (s.oval keyEngineSpares) 7 4
  | 3 => bits (s.oval keyEngineSpares) 11 8 | 4 => bits (s.oval keyEngineSpares) 15 12 | _ => 0

/-- In-service instances of a kind. -/
def enginesUp (s : State) (kind : Nat) : List Nat :=
  (List.range (nEngines s.part.variant kind)).filter fun n => engineUp s kind n

/-- N(κ): in-service instances of a kind less its reserve (R121). -/
def nUsableEngines (s : State) (kind : Nat) : Nat := (enginesUp s kind).length - engineSpares s kind

/-- The instances held in reserve: the highest-numbered in-service ones. -/
def engineReserve (s : State) (kind n : Nat) : Bool :=
  engineUp s kind n && decide (((enginesUp s kind).filter fun x => decide (n < x)).length < engineSpares s kind)

/-! ## Jobs -/

/-- Number that stands for a job's queue in a task reference: a taken-over job's queue is set apart by its source. -/
def Job.qn (j : Job) : Nat := match j.buddyOf with | none => j.desc.sqid | some d => 4096 * (d + 1) + j.desc.sqid

/-- The unretired job with a queue and sequence number. -/
def State.job (s : State) (q : Nat) (seq : BitVec 32) : Option Job :=
  s.jobs.find? fun j => decide (j.qn = q) && decide (j.desc.seq = seq)

/-- Replace the job of the same queue and sequence number. -/
def State.setJob (s : State) (j : Job) : State :=
  { s with jobs := updWhere (fun x => decide (x.qn = j.qn) && decide (x.desc.seq = j.desc.seq)) (fun _ => j) s.jobs }

/-- The null graph (R86). -/
def Graph.null : Graph :=
  { tasks := [], inUsed := [], outUsed := [], ctxParams := [], harqParams := [], features := 0, names := []
    runAbsent := false, abort := false }

/-- A loaded graph; graph 0 is always loaded (R86). -/
def State.graph (s : State) (g : Nat) : Option Graph := if g = 0 then some Graph.null else kget s.graphs g

/-- The graph of a job. -/
def jobGraph (s : State) (j : Job) : Graph := (s.graph j.desc.graph).getD Graph.null

/-- A task definition of a graph. -/
def taskDef (g : Graph) (t : Nat) : Option TaskDef := g.tasks[t]?

/-- A job is finalised (R53). -/
def Job.final (j : Job) : Bool := j.record.isSome

/-- The cell that a job names is enabled. -/
def jobHasCell (s : State) (j : Job) : Bool := decide (j.desc.cell < 4095) && (s.cell j.desc.cell).enable

/-- Cluster on which a job's core tasks run now: its cell's current cluster, or the one chosen at expansion (R126). -/
def jobCluster (s : State) (j : Job) : Nat := if jobHasCell s j then (s.cellState j.desc.cell).cluster else j.cluster

/-- Cluster of a run of a job by its role (R164, R165). -/
def roleCluster (s : State) (j : Job) (r : RunRole) : Option Nat :=
  match r with
  | .main => some (jobCluster s j)
  | .shadow => shadowOf s (jobCluster s j)
  | .vote => voteCluster s (jobCluster s j)

/-! ## Estimates (R121) -/

/-- Learned budgets of a task of a graph (R134). -/
def State.budget (s : State) (g t : Nat) : Budget :=
  kgetD s.budgets (g * 256 + t) { hist := [], learned := 0, valid := false, samples := 0 }

/-- L(t) of a core task (R121). -/
def budgetL (s : State) (g t : Nat) (d : TaskDef) : Nat :=
  if (s.budget g t).valid then (s.budget g t).learned else d.static

/-- S(j) (R121). -/
def sumL (s : State) (j : Job) : Nat :=
  (((jobGraph s j).tasks.zipIdx.filter fun x => x.1.kind = 0).map fun x => budgetL s j.desc.graph x.2 x.1).sum

/-- e(j) by ESTIMATE_MODE (R121). -/
def estimate (s : State) (j : Job) : Nat :=
  match s.oval keyEstimateMode with
  | 0 => if j.desc.budget ≠ 0 then j.desc.budget else sumL s j
  | 1 => sumL s j
  | _ => max j.desc.budget (sumL s j)

/-- Cost of one task in CP, in units of 1/24 ns (R121). -/
def taskUnits (s : State) (g : Nat) (opp : Nat) (t : Nat) (d : TaskDef) : Nat :=
  if d.kind = 0 then budgetL s g t d * oppUnits opp + 9600 else d.latency * 24

/-- One round of relaxing the longest path that ends at each task. -/
def relaxPath (cost : List Nat) (preds : List (List Nat)) (dist : List Nat) : List Nat :=
  (cost.zip preds).map fun (c, ps) => c + (ps.map fun p => dist.getD p 0).foldl max 0

/-- Longest path ending at each task. -/
def longestPaths (cost : List Nat) (preds : List (List Nat)) : List Nat :=
  (List.range cost.length).foldl (fun d _ => relaxPath cost preds d) (cost.map fun _ => 0)

/-- CP(j) on a cluster's clock in units of 1/24 ns (R121). -/
def critPath (s : State) (j : Job) (opp : Nat) : Nat :=
  let g := jobGraph s j
  (longestPaths (g.tasks.zipIdx.map fun x => taskUnits s j.desc.graph opp x.2 x.1) (g.tasks.map (·.preds))).foldl max 0

/-- Successors of each task. -/
def succs (g : Graph) : List (List Nat) :=
  (List.range g.tasks.length).map fun t => (g.tasks.zipIdx.filter fun x => x.1.preds.contains t).map (·.2)

/-- Longest path from a task to the end of its graph, in units of 1/24 ns (R129). -/
def remainingPath (s : State) (j : Job) (opp t : Nat) : Nat :=
  let g := jobGraph s j
  (longestPaths (g.tasks.zipIdx.map fun x => taskUnits s j.desc.graph opp x.2 x.1) (succs g)).getD t 0

/-- The run of a role of a task instance. -/
def TaskInst.run (t : TaskInst) (r : RunRole) : Option TaskRun := t.runs.find? fun x => decide (x.role = r)

/-- Cycles a run has consumed so far. -/
def runCycles (s : State) (r : TaskRun) : Nat :=
  match r.place with
  | some (.core c) => if r.phase = 1 then coreCycles s c else r.cycles
  | _ => 0

/-- An untimed run has been ready for longer than UNTIMED_AGE, until now or until it started (R128, R187). -/
def agedRun (s : State) (r : TaskRun) : Bool :=
  match r.readySince with
  | some t => !s.overcast.on && decide (t + s.oval keyUntimedAge * usNs < if r.phase = 1 then r.startTime else s.time.now)
  | none => false

/-- Dispatch rank of a run; none while its job is not admitted. In an overrun job the task that marked it, with every run of
it, keeps its rank (R125, R128, R131, R164, R165). -/
def runRank (s : State) (j : Job) (r : TaskRun) : Option Nat :=
  if r.role = .vote then some 1
  else match j.admission with
    | .guaranteed => if j.overrun && !r.marked then some 3 else some 1
    | .bestEffort => some 3
    | .untimed => if agedRun s r then some 2 else some 4
    | .none => none

/-- r(i) of a job for one role: over its unfinished core tasks (R121). -/
def remaining (s : State) (j : Job) (role : RunRole) : Nat :=
  let g := jobGraph s j
  ((g.tasks.zipIdx.filter fun x => x.1.kind = 0).map fun (d, t) =>
    match j.tasks[t]? with
    | none => budgetL s j.desc.graph t d
    | some ti =>
      if ti.done then 0
      else match ti.run role with
        | some r => if r.phase = 2 then 0 else budgetL s j.desc.graph t d - runCycles s r
        | none => budgetL s j.desc.graph t d).sum

/-- Remaining engine time of a job on a kind, in ns (R121 to R123): whole entries until their result. -/
def remainingEngine (s : State) (j : Job) (kind : Nat) : Nat :=
  ((jobGraph s j).tasks.zipIdx.map fun (d, t) =>
    if d.kind = kind ∧ (match j.tasks[t]? with | some ti => ti.done | none => false) = false then d.static else 0).sum

/-! ## Ledgers and tests (R123, R124, R127) -/

/-- The job holds guaranteed admission and has not overrun (R131). -/
def Job.isG (j : Job) : Bool := decide (j.admission = .guaranteed) && !j.overrun && !j.final

/-- The job holds admission as a timed job. -/
def Job.isTimed (j : Job) : Bool :=
  (decide (j.admission = .guaranteed) || decide (j.admission = .bestEffort)) && !j.final

/-- Demand of a job on a cluster: r(i) on its own cluster, and for a protected job also on the shadow (R127). -/
def demandOn (s : State) (j : Job) (k : Nat) : Nat :=
  (if jobCluster s j = k then remaining s j .main else 0)
    + (if j.desc.prot && decide (shadowOf s (jobCluster s j) = some k) then remaining s j .shadow else 0)

/-- B(c, s): the estimates of the jobs of a cell admitted as guaranteed with deadlines in a slot (R123). -/
def cellAdmitted (s : State) (c : Nat) (slot : Int × Int) : Nat :=
  ((s.cellState c).ledger.find? fun x => decide (x.1 = slot)).elim 0 (·.2)

/-- One slot comes before another. -/
def slotLt (a b : Int × Int) : Bool := decide (a.1 < b.1) || (decide (a.1 = b.1) && decide (a.2 < b.2))

/-- Change B(c, s) by an amount; slots that have ended leave the ledger. -/
def chargeSlot (s : State) (c : Nat) (slot : Int × Int) (amount : Int) : State :=
  let x := s.cellState c
  let v := (cellAdmitted s c slot + amount).toNat
  let rest := x.ledger.filter fun y => decide (y.1 ≠ slot) && !slotLt y.1 (slotOfDeadline (s.cell c) s.time.now)
  s.setCellSt c { x with ledger := rest ++ [(slot, v)] }

/-- e(j), charged twice for a protected job (R127). -/
def chargeOf (s : State) (j : Job) : Nat := if j.desc.prot then 2 * estimate s j else estimate s j

/-- Cycles that U(k) cores deliver between now and an instant at the scheduled clocks, times 1,000: the slower of the two
clocks until a switch to the point is complete, the point's clock after it. A raise already asked for is complete when it
falls due, one that would begin now 20 µs from now (R121, R123, R142). -/
def capacityTo (s : State) (k : Nat) (opp : Nat) (x : Int) : Nat :=
  let c := s.cluster k
  let ns := (x - s.time.now).toNat
  let switch := if opp = c.opp then 0 else if c.oppPending = some opp then c.oppDue - s.time.now else 20 * usNs
  usable s k * (oppMHz (max c.opp opp) * min ns switch + oppMHz opp * (ns - switch))

/-- Deadline of a job, or a time that never comes. -/
def Job.dl (j : Job) : Int := j.deadline.getD 0

/-- The instants at which a demand test is made: the job's own deadline and every later one that counts. -/
def testPoints (s : State) (d : Int) (counts : Job → Bool) : List Int :=
  d :: (s.jobs.filter fun i => counts i && decide (d < i.dl)).map (·.dl)

/-- Condition 2 of R123 for a job on one cluster at an operating point, with a FIX16 factor. -/
def demandTest (s : State) (j : Job) (k opp fix : Nat) (counts : Job → Bool) : Bool :=
  (testPoints s j.dl fun i => counts i && decide (0 < demandOn s i k)).all fun x =>
    let dem := ((s.jobs.filter fun i =>
      counts i && decide (i.dl ≤ x) && !(decide (i.qn = j.qn) && decide (i.desc.seq = j.desc.seq))).map fun i => demandOn s i k).sum
    decide ((dem + estimate s j) * 1000 * 32768 ≤ fix * capacityTo s k opp x)

/-- Condition 3 of R123 (R121). -/
def pathTest (s : State) (j : Job) (opp : Nat) : Bool :=
  decide ((s.time.now : Int) * 24 + critPath s j opp ≤ j.dl * 24)

/-- Condition 4 of R123 for one kind. -/
def engineTest (s : State) (j : Job) (fix kind : Nat) (counts : Job → Bool) : Bool :=
  if remainingEngine s j kind = 0 then true
  else
    (testPoints s j.dl fun i => counts i && decide (0 < remainingEngine s i kind)).all fun x =>
      let dem := ((s.jobs.filter fun i =>
        counts i && decide (i.dl ≤ x) && !(decide (i.qn = j.qn) && decide (i.desc.seq = j.desc.seq))).map fun i => remainingEngine s i kind).sum
      decide ((dem + remainingEngine s j kind) * 32768 ≤ fix * nUsableEngines s kind * (x - s.time.now).toNat)

/-- Conditions 3 and 4. -/
def pathAndEngines (s : State) (j : Job) (opp fix : Nat) (counts : Job → Bool) : Bool :=
  pathTest s j opp && [1, 2, 3, 4, 5].all fun kind => engineTest s j fix kind counts

/-- The clusters whose demand a job charges: its own, and the shadow for a protected job (R127). -/
def chargedClusters (s : State) (j : Job) : List Nat :=
  jobCluster s j :: (if j.desc.prot then (shadowOf s (jobCluster s j)).toList else [])

/-- Condition 2 on every cluster charged, the job's own at a given operating point and the shadow at its scheduled one. -/
def demandAll (s : State) (j : Job) (opp fix : Nat) (counts : Job → Bool) : Bool :=
  (chargedClusters s j).all fun k =>
    demandTest s j k (if k = jobCluster s j then opp else schedOpp s k) fix counts

/-- Operating points to which the on-demand raise of R123 may go, slowest first, the scheduled point before them. -/
def oppChoices (s : State) (k : Nat) : List Nat :=
  schedOpp s k :: (([3, 2, 1, 0].filter fun p => decide (p < schedOpp s k) && decide (ceilingOf s k ≤ p)))

/-- The slowest permitted operating point at which a job passes conditions 2 to 4, preferring the scheduled one (R123). -/
def passAt (s : State) (j : Job) (fixCore fixEngine : Nat) (counts : Job → Bool) : Option Nat :=
  (oppChoices s (jobCluster s j)).find? fun p =>
    demandAll s j p fixCore counts && pathAndEngines s j p fixEngine counts

/-- Condition 1 of R123 with R127; a budget of 0 admits no job as guaranteed (R115). -/
def budgetTest (s : State) (j : Job) : Bool :=
  let c := s.cell j.desc.cell
  decide (0 < c.gBudget) && decide (cellAdmitted s j.desc.cell (slotOfDeadline c j.dl) + chargeOf s j ≤ c.gBudget)

/-- The guaranteed test of R123: the operating point at which it holds. -/
def guaranteedTest (s : State) (j : Job) : Option Nat :=
  if j.desc.guaranteed && budgetTest s j then passAt s j (s.oval keyUMax) (s.oval keyUAcc) Job.isG else none

/-- The best-effort test of R124. -/
def bestEffortTest (s : State) (j : Job) : Option Nat := passAt s j 32768 32768 Job.isTimed

/-- Largest B(c, s) over the slots within the Horizon that have not ended (G_ADMITTED, R148). -/
def gAdmitted (s : State) (c : Nat) : Nat :=
  let x := s.cell c
  let first := slotOfDeadline x s.time.now
  let last := slotOfDeadline x (s.time.now + horizonOf s c * x.slotNs)
  (((s.cellState c).ledger.filter fun y => !slotLt y.1 first && !slotLt last y.1).map (·.2)).foldl max 0

end Sys2Proof.Machine
end

