-- ==== Sys2Proof/Machine/Overcast.lean ====
section
/-!
DEFINITION. Operating-point switches and the Overcast state (R142, R144, R186 to R190).
-/
namespace Sys2Proof.Machine

/-! ## Operating points (R142) -/

/-- The run of a task reference. -/
def refRun (s : State) (r : TaskRef) : Option (Job × TaskRun) :=
  match s.job r.q r.seq with
  | none => none
  | some j => match (j.tasks[r.task]?).bind fun ti => ti.run r.role with
    | none => none
    | some x => some (j, x)

/-- Cycles that a core's running task has used at rank 2 to 4 since the last DVFS_PERIOD, or since they were last banked
(R143). -/
def lowCycles (s : State) (c : Nat) : Nat :=
  match ((s.core c).task.bind (refRun s)) with
  | some (j, r) =>
    if 2 ≤ (runRank s j r).getD 4 then
      (s.time.now - max r.startTime (max s.lastDvfs (s.cluster (c / 36)).lowAt)) * oppMHz (s.cluster (c / 36)).opp / 1000
    else 0
  | none => 0

/-- The cycles of ranks 2 to 4 that a cluster has used so far are banked at the clock and the ranks of now, before either
changes (R143). -/
def bankLow (s : State) (k : Nat) : State :=
  s.setCluster k { s.cluster k with
    lowRankCycles := (s.cluster k).lowRankCycles + ((List.range 36).map fun i => lowCycles s (36 * k + i)).sum
    lowAt := s.time.now }

/-- Every cluster banks, before running tasks change their rank. -/
def bankAll (s : State) : State := (List.range (nClusters s.part.variant)).foldl bankLow s

/-- The clock of a cluster changes: the cycles run so far are counted at the old clock. -/
def setClock (s : State) (k p : Nat) : State :=
  let s := bankLow s k
  let t := (List.range 36).foldl (fun (t : State) i =>
    let c := 36 * k + i
    if (s.core c).running then t.setCore c { t.core c with cycles := coreCycles s c, cycleAt := s.time.now } else t) s
  t.setCluster k { t.cluster k with opp := p, oppPending := none }

/-- Code of the rail of tile n: the operating point of the highest voltage that a powered cluster of the tile requests;
0b11 when none does (R142, R537). -/
def railCode (s : State) (n : Nat) : Nat :=
  ([0, 1, 2].find? fun p => (List.range 4).any fun i =>
    clusterUp s (4 * n + i) && !(s.cluster (4 * n + i)).gated && decide ((s.cluster (4 * n + i)).vReq = oppMv p)).getD 3

/-- CL_VSEL_n follows what the clusters of tile n request (R537). -/
def setRail (s : State) (n : Nat) : State :=
  let p := railCode s n
  if s.rails.getD n 3 = p then s else { s with rails := s.rails.set n p }.emit (.vsel n p)

/-- A cluster requests the voltage of an operating point of its tile's rail (R142). -/
def askRail (s : State) (k p : Nat) : State := setRail (s.setCluster k { s.cluster k with vReq := oppMv p }) (k / 4)

/-- Switch a cluster to an operating point: a raise asks for the voltage and waits, a fall switches the clock first; the
switch is complete within 20 µs (R142). -/
def switchOpp (s : State) (k p : Nat) : State :=
  let x := s.cluster k
  if x.opp = p ∧ x.oppPending = none then s
  else if x.oppPending = some p then s
  else if p < x.opp then
    (askRail (s.setCluster k { x with oppPending := some p, oppDue := s.time.now + 20 * usNs }) k p).bump keyOppChanges 1
  else if p = x.opp then askRail (s.setCluster k { x with oppPending := none }) k p
  else (askRail (setClock s k p) k p).bump keyOppChanges 1

/-- A cell is placed on the cluster. -/
def hasCell (s : State) (k : Nat) : Bool := (enabledCells s).any fun c => decide (0 < cellCounts s k c)

/-! ## Conditions (R186) -/

/-- ENGINES holds for a kind: no usable instance, or guaranteed entries took more than U_ACC of the last DVFS_PERIOD. -/
def enginesShort (s : State) (kind : Nat) : Bool :=
  decide (0 < nEngines s.part.variant kind) &&
    (decide (nUsableEngines s kind = 0) ||
      decide (s.oval keyUAcc * nUsableEngines s kind * (s.oval keyDvfsPeriod * usNs) <
        ((List.range (nEngines s.part.variant kind)).map fun n => (s.engine kind n).lastGTime).sum * 32768))

/-- A supervisor pair is in service (R172). -/
def svUp (p : Nat) : Bool := decide (p = 0) || decide (p = 1)

/-- The memory regions whose loss holds MEMORY: Anvil quarters and DRAM subchannels (R170). -/
def memRegions : List Nat := (List.range 4).map regQuarter ++ (List.range 8).map regSub

/-- The conditions of R186 that hold now, as a mask. -/
def conditions (s : State) : Nat :=
  b2n ((List.range (nClusters s.part.variant)).any fun k => (s.cluster k).short)
    + 2 * b2n ([1, 2, 3, 4, 5].any fun kind => enginesShort s kind)
    + 4 * b2n (decide ((s.port 0).state = 0) || decide ((s.port 1).state = 0))
    + 8 * b2n (memRegions.any fun r => decide (s.regState r = 3) || decide (s.regState r = 1))
    + 16 * b2n (!(svUp s.sv.pair0 && svUp s.sv.pair1))

/-- Conditions that count: CAPACITY always, the rest by OVERCAST_MASK (R186). -/
def enabledMask (s : State) : Nat := s.oval keyOvercastMask ||| 1

/-- Some condition of a mask is enabled. -/
def anyEnabled (s : State) (mask : Nat) : Bool := decide (mask &&& enabledMask s ≠ 0)

/-- Actions on entry to Overcast (R187). -/
def overcastEnter (s : State) : State :=
  let t := { s with overcast := { s.overcast with on := true, since := s.time.now } }
  let t := t.bump keyOvercastEntries 1
  let t := (List.range (nClusters t.part.variant)).foldl (fun (t : State) k =>
    if hasCell t k && !(t.cluster k).gated && clusterUp t k then switchOpp t k (ceilingOf t k) else t) t
  raiseScalar t keyOvercast [1]

/-- Leave Overcast and add its length to OVERCAST_TIME (R188, R190). -/
def overcastLeave (s : State) : State :=
  { s with overcast := { s.overcast with on := false, total := s.overcast.total + (s.time.now - s.overcast.since) } }

/-- Evaluate the conditions again: OVERCAST_CAUSE, the last instant each held, and entry (R186 to R188); from the start of a
Dusk to the end of its Dawn no Overcast is entered (R534). -/
def reOvercast (s : State) : State :=
  let now := conditions s
  let held := s.overcast.lastHeld.zipIdx.map fun (t, b) =>
    if tbit now b || tbit s.overcast.cause b then s.time.now else t
  let t := { s with overcast := { s.overcast with cause := now, lastHeld := held } }
  if !t.overcast.on && anyEnabled t now && t.awake && decide (t.power.phase = 0) then overcastEnter t else t

/-- No enabled condition holds, and none has held for OVERCAST_EXIT_HOLD (R188). -/
def mayLeaveOvercast (s : State) : Bool :=
  s.overcast.on && !anyEnabled s s.overcast.cause &&
    s.overcast.lastHeld.zipIdx.all fun (t, b) =>
      !tbit (enabledMask s) b || decide (t + s.oval keyOvercastExitHold * msNs ≤ s.time.now)

end Sys2Proof.Machine
end

