-- ==== Sys2Proof/Machine/Wake.lean ====
section
/-!
DEFINITION. The power controller's records, a refused Dusk, and a wake as it arrives in each phase (R518, R522, R523,
R525, R528, R530, R535).
-/
namespace Sys2Proof.Machine

/-- The blocks that vote in a Dusk, in order; from P2 only those still powered (R517, R521). -/
def voters (s : State) : List Nat :=
  if s.power.target = 2 then [2, 3, 4, 10]
  else if s.power.state = 2 then [1, 2, 5, 6, 7, 8, 9, 10]
  else [1, 2, 3, 4, 5, 6, 7, 8, 9, 10]

/-- LAST_REFUSAL (R535). -/
def refusalRec (block target reason inst time : Nat) : Nat :=
  block % 256 * 2 ^ 120 + target % 16 * 2 ^ 116 + reason % 256 * 2 ^ 104 + inst % 256 * 2 ^ 96 + time % 2 ^ 64 * 2 ^ 32

/-- LAST_WAKE (R535). -/
def wakeRec (src : Nat) (during : Bool) (seen from_ time : Nat) : Nat :=
  src % 16 * 2 ^ 124 + b2n during * 2 ^ 123 + seen % 256 * 2 ^ 112 + from_ % 256 * 2 ^ 104 + time % 2 ^ 64 * 2 ^ 32

/-- The block being prepared refuses: the device stays in the state it held (R522). -/
def refuseDusk (s : State) (reason inst : Nat) : State :=
  let v := refusalRec s.power.block s.power.target reason inst s.time.now
  let t := { s with power := { s.power with phase := 0, target := 0, block := 0, lastRefusal := v } }
  reOvercast (raiseEvent (t.bump keyDuskRefusals 1) keyLastRefusal 0 (beBytes 16 v))

/-- Step 1 of Dawn: the wake is latched and recorded (R528). -/
def startDawn (s : State) (src : Nat) (during : Bool) (seen time : Nat) : State :=
  { s with power := { s.power with
    phase := 3, dawn := 1, block := 0, target := 0, wakeSource := src, seen, latched := none
    lastWake := wakeRec src during seen s.power.state time } }

/-- A wake of a source (R523, R525, R530). Of several detected in one cycle, which is one instant of device time here, the
lowest code is recorded as SOURCE. -/
def wake (s : State) (src : Nat) : State :=
  let bit := 2 ^ (src - 1)
  match s.power.phase with
  | 0 => if 2 ≤ s.power.state then startDawn s src false bit s.time.now else s
  | 1 => refuseDusk s 0x0A 0
  | 2 =>
    (match s.power.latched with
     | none => { s with power := { s.power with latched := some (src, s.time.now), seen := bit } }.bump keyWakesDuringDusk 1
     | some (first, time) => { s with power := { s.power with
         latched := some (if time = s.time.now then min first src else first, time), seen := s.power.seen ||| bit } })
  | _ =>
    if s.power.dawn = 1 then
      let r := s.power.lastWake
      let src := if bits r 95 32 = s.time.now % 2 ^ 64 then min s.power.wakeSource src else s.power.wakeSource
      let seen := s.power.seen ||| bit
      { s with power := { s.power with
        seen, wakeSource := src
        lastWake := wakeRec src (tbit r 123) seen (bits r 111 104) (bits r 95 32) } }
    else s

/-- A job accepted in P2, or on the way there, is a wake of source 5 (R518). -/
def jobWake (s : State) : State :=
  if s.power.state = 2 ∨ (s.power.phase ≠ 0 ∧ s.power.target = 2) then wake s 5 else s

end Sys2Proof.Machine
end

