-- ==== Sys2Proof/Machine/Crc.lean ====
section
/-!
DEFINITION. The cyclic redundancy checks of the spec (R56, R164, R350, R462).
-/
namespace Sys2Proof.Machine

/-- One byte entered into a CRC-16 of polynomial 0x1021, most significant bit first (R56). -/
def crc16Step (c : BitVec 16) (b : Byte) : BitVec 16 :=
  (List.range 8).foldl (fun c i =>
    if (c.getLsbD 15) != (b.getLsbD (7 - i)) then (c <<< 1) ^^^ 0x1021#16 else c <<< 1) c

/-- CRC-16 with initial value 0xFFFF and no final inversion (R56). -/
def crc16 (l : List Byte) : BitVec 16 := l.foldl crc16Step 0xFFFF#16

/-- One byte entered into the CRC-32 of IEEE 802.3, in its reflected form (R164, R462). -/
def crc32Step (c : BitVec 32) (b : Byte) : BitVec 32 :=
  (List.range 8).foldl (fun c _ => if c.getLsbD 0 then (c >>> 1) ^^^ 0xEDB88320#32 else c >>> 1)
    (c ^^^ b.zeroExtend 32)

/-- CRC-32 of IEEE 802.3: initial value 0xFFFF_FFFF and final inversion (R462). -/
def crc32 (l : List Byte) : BitVec 32 := ~~~(l.foldl crc32Step 0xFFFFFFFF#32)

end Sys2Proof.Machine
end

