-- ==== Sys2Proof/Machine/Pools.lean ====
section
/-!
DEFINITION. DRAM geometry, memories by device address, and pools with their physical buffers (R30 to R33, R378, R379,
R407, R423 to R425, R102, R170).
-/
namespace Sys2Proof.Machine

/-! ## DRAM geometry (R423, R425) -/

/-- GiB per subchannel of a DRAM_CONFIG value (R423); none for a combination outside the table. -/
def subGiB (cfg : Nat) : Option Nat :=
  match bits cfg 11 10, bits cfg 9 8 with
  | 1, 0 => some 16 | 2, 0 => some 32 | 1, 1 => some 24 | 1, 2 => some 32 | _, _ => none

/-- Present subchannels. -/
def nSubs (s : State) : Nat := 2 * nDramCh s.part.variant

/-- Bytes of one subchannel under a DRAM_CONFIG value. -/
def subBytes (cfg : Nat) : Nat := 2 ^ 30 * (subGiB cfg).getD 0

/-- DRAM capacity of the geometry in effect (R423, R424). -/
def dramCapacity (s : State) : Nat := nSubs s * subBytes s.mem.inEffect

/-- Subchannel that holds a DRAM address (R425). -/
def subOf (s : State) (a : Nat) : Nat :=
  if tbit s.mem.inEffect 0 then a / 4096 % nSubs s else a / subBytes s.mem.inEffect

/-- A DRAM range holds a byte of a subchannel. -/
def rangeInSub (s : State) (a n i : Nat) : Bool :=
  if n = 0 then false
  else if tbit s.mem.inEffect 0 then
    if 4096 * nSubs s ≤ n then true
    else ((List.range (n / 4096 + 2)).any fun j =>
      decide (a / 4096 + j ≤ (a + n - 1) / 4096) && decide ((a / 4096 + j) % nSubs s = i))
  else decide (a / subBytes s.mem.inEffect ≤ i) && decide (i ≤ (a + n - 1) / subBytes s.mem.inEffect)

/-! ## Memories by device address (R407) -/

/-- What lies at a device address. -/
inductive MemAt where
  | dram | cluster (k : Nat) | tcm (c : Nat) | anvil | window (ch : Nat) | none
  deriving DecidableEq, Repr

/-- First device address of the memory of cluster k. -/
abbrev clusterBase (k : Nat) : Nat := 0xA000000000 + 0x1000000 * k
/-- First device address of the TCM of core c. -/
abbrev tcmBase (c : Nat) : Nat := 0xA800000000 + 0x40000 * c
/-- First device address of Anvil. -/
abbrev anvilBase : Nat := 0xC000000000
/-- First device address of the DMA channel windows. -/
abbrev windowBase : Nat := 0xE000000000

/-- The memory at a device address; absent units hold none (R407, R11). -/
def memAt (s : State) (a : Nat) : MemAt :=
  let v := s.part.variant
  if a < dramCapacity s then .dram
  else if clusterBase 0 ≤ a ∧ a < clusterBase (nClusters v) ∧ (a - clusterBase 0) % 0x1000000 < 0x800000 then
    .cluster ((a - clusterBase 0) / 0x1000000)
  else if tcmBase 0 ≤ a ∧ a < tcmBase (36 * nClusters v) then .tcm ((a - tcmBase 0) / 0x40000)
  else if anvilBase ≤ a ∧ a < anvilBase + 0x10000000 then .anvil
  else if windowBase ≤ a ∧ a < windowBase + 64 * (16 * nClusters v) then .window ((a - windowBase) / 64)
  else .none

/-- Poison unit of a memory in bytes (R408). -/
def unitOf (m : MemAt) : Nat := match m with | .dram => 64 | _ => 8

/-- The ×4 device that a bad line of DRAM indicates, if any (R415). -/
def lineDevice (s : State) (a : Nat) : Option Nat :=
  match memAt s a, kget s.mem.bad (a / 64 * 64) with
  | .dram, some (.line e) => e.device.filter fun d => decide (d < 10)
  | _, _ => Option.none

/-- Region that an error at an address is charged to: the core, the bank, the ×4 device or, where none is indicated, the
subchannel, and none in Anvil (R415). -/
def chargeRegion (s : State) (a : Nat) : Option Nat :=
  match memAt s a with
  | .tcm c => some (regCore c)
  | .cluster k => some (regBank k ((a - clusterBase k) / 0x40000))
  | .dram => some (match lineDevice s a with | some d => regDev (subOf s a) d | Option.none => regSub (subOf s a))
  | _ => Option.none

/-- The devices of a subchannel that are marked failed (R429). -/
def failedDevices (s : State) (i : Nat) : List Nat := (List.range 10).filter fun d => decide (s.regState (regDev i d) = 2)

/-- The code corrects the errors of a line: all in one device, or up to 8 symbols; with a device marked failed, its symbols
are erasures and up to 4 others may be in error (R409). -/
def lineCorrects (failed : List Nat) (e : LineErr) : Bool :=
  let out := e.symbols.filter fun x => !failed.contains x.1
  let n := (out.map fun x => min 8 x.2).sum
  match failed with
  | [] => decide (n ≤ 8) || (match out with | [] => true | x :: r => r.all fun y => decide (y.1 = x.1))
  | [_] => decide (n ≤ 4)
  | _ => decide (n = 0)

/-- What a read makes of a bad code word: a DRAM line by its errors and the devices marked failed (R409). -/
def badKind (s : State) (a : Nat) : BadWord → BadWord
  | .line e =>
    if memAt s a = .dram ∧ lineCorrects (failedDevices s (subOf s a)) e = true then .correctable
    else if e.once then .uncorrectableOnce else .uncorrectable
  | b => b

/-- What a read of a code word finds besides good data. -/
def badAt (s : State) (a : Nat) : Option BadWord := (kget s.mem.bad a).map (badKind s a)

/-! ## Pools (R31, R32, R102) -/

/-- POOL_KIND of a pool id (R31, R32). -/
def poolMemory (p : Nat) : Nat :=
  if p = 0 then 0 else if p ≤ 0x7E then 1 else if p = 0x7F then 2 else if p ≤ 0xBF then 3 else if p ≤ 0xEF then 4
  else if p ≤ 0xFE then 5 else 0

/-- Settings of a pool (R32). -/
structure PoolCfg where
  size : Nat
  count : Nat
  shadow : Nat
  base : Nat
  cluster : Nat
  deriving DecidableEq, Repr

/-- Bytes at the top of DRAM that the device holds for its own regions, under the release booted and the geometry in effect
(R102, R109). -/
def dramReserved (s : State) : Nat := Config.dramReserved s.supply.fwRelease s.mem.inEffect

/-- First device address of the result store (R102). -/
def resultBase (s : State) (bytes : Nat) : Nat := dramCapacity s - dramReserved s - bytes

/-- Settings of a pool as they stand; pool 0x7F reflects the result store (R32, R102). -/
def poolCfg (s : State) (p : Nat) : PoolCfg :=
  if p = 0x7F then
    let size := s.oval keyResultBufSize
    let bytes := s.oval keyResultStoreBytes
    { size, count := s.oval keyResultHandles, shadow := bytes / size - s.oval keyResultHandles
      base := resultBase s bytes, cluster := 0 }
  else
    { size := s.oval (keyPoolBufSize p), count := s.oval (keyPoolCount p), shadow := s.oval (keyPoolShadow p)
      base := s.oval (keyPoolBase p), cluster := s.oval (keyPoolCluster p) }

/-- A pool is being filled and reads as unconfigured until then (R422). -/
def poolFilling (s : State) (p : Nat) : Bool := s.mem.fills.any fun f => decide (f.1 = p)

/-- A pool is configured (R32, R422). -/
def poolConfigured (s : State) (p : Nat) : Bool :=
  decide (poolMemory p ≠ 0) && decide ((poolCfg s p).size ≠ 0) && !poolFilling s p

/-- Role of an Anvil pool (R381); 0 for every other pool. -/
def poolRole (s : State) (p : Nat) : Nat := if poolMemory p = 3 then s.domByte keyAnvilPoolRole (p - 0x80) else 0

/-- Pools of roles 1 to 4 keep no buffer for a handle (R382). -/
def noHandleBuffers (s : State) (p : Nat) : Bool := poolRole s p != 0

/-- Physical buffers of a pool: COUNT + SHADOW, or SHADOW alone for roles 1 to 4 (R33, R382). -/
def poolPhys (s : State) (p : Nat) : Nat :=
  if noHandleBuffers s p then (poolCfg s p).shadow else (poolCfg s p).count + (poolCfg s p).shadow

/-- First device address of the memory a pool lies in; a TCM pool lies in the TCM of local core 0 of its cluster
(assumption 68). -/
def poolMemBase (s : State) (p : Nat) : Nat :=
  match poolMemory p with
  | 3 => anvilBase
  | 4 => clusterBase (poolCfg s p).cluster
  | 5 => tcmBase (36 * (poolCfg s p).cluster)
  | _ => 0

/-- Device address of a physical buffer of a pool (R32, R102). -/
def physAddr (s : State) (p phys : Nat) : Nat :=
  let c := poolCfg s p
  poolMemBase s p + c.base + phys * c.size

/-- Quarter of an Anvil address (R378). -/
def quarterOf (a : Nat) : Nat := (a - anvilBase) / 0x4000000

/-- A range of device memory lies in no cluster that is lost and in no quarter, subchannel or bank that fails a test. -/
def rangeIn (s : State) (ok : Nat → Bool) (a n : Nat) : Bool :=
  match memAt s a with
  | .anvil => ok (regQuarter (quarterOf a)) && ok (regQuarter (quarterOf (a + n - 1)))
  | .cluster k =>
    clusterUp s k &&
      ((List.range 32).all fun b =>
        !(decide ((a - clusterBase k) / 0x40000 ≤ b) && decide (b ≤ (a + n - 1 - clusterBase k) / 0x40000)
          && !ok (regBank k b)))
  | .tcm c => clusterUp s (c / 36)
  | .dram => (List.range (nSubs s)).all fun i => ok (regSub i) || !rangeInSub s a n i
  | _ => true

/-- A range lies wholly in regions in service (R161, R169, R170). -/
def rangeUsable (s : State) (a n : Nat) : Bool := rangeIn s s.up a n

/-- A range answers: its regions are in service, or are retired and a task that was running then has not finished (R161). -/
def rangeAnswers (s : State) (a n : Nat) : Bool := rangeIn s (fun r => s.up r || finishing s r) a n

/-- A physical buffer that a pool may hand out (R161, R169, R170). -/
def physUsable (s : State) (p phys : Nat) : Bool := rangeUsable s (physAddr s p phys) (poolCfg s p).size

/-- State of a pool's physical buffers. -/
def State.pool (s : State) (p : Nat) : PoolSt :=
  kgetD s.pools p { fresh := if noHandleBuffers s p then 0 else (poolCfg s p).count, avail := [] }

/-- Replace the state of a pool's physical buffers. -/
def State.setPool (s : State) (p : Nat) (x : PoolSt) : State := { s with pools := kset s.pools p x }

/-- First usable physical buffer at or after a number, looking at n of them. -/
def firstUsable (s : State) (p : Nat) : Nat → Nat → Option Nat
  | _, 0 => none
  | i, n + 1 => if physUsable s p i then some i else firstUsable s p (i + 1) n

/-- The physical buffer a pool hands out next: a returned one, else the lowest never used (R39). -/
def freePhys (s : State) (p : Nat) : Option Nat :=
  match (s.pool p).avail.find? fun i => physUsable s p i with
  | some i => some i
  | none => firstUsable s p (s.pool p).fresh (poolPhys s p - (s.pool p).fresh)

/-- Take a physical buffer out of the shadow set. -/
def takePhys (s : State) (p phys : Nat) : State :=
  let x := s.pool p
  if x.avail.contains phys then s.setPool p { x with avail := x.avail.erase phys }
  else if x.fresh ≤ phys then
    s.setPool p { fresh := phys + 1, avail := x.avail ++ (List.range (phys - x.fresh)).map (x.fresh + ·) }
  else s

/-- Return a physical buffer to the shadow set, which holds it once (R39). -/
def givePhys (s : State) (p phys : Nat) : State :=
  if (s.pool p).avail.contains phys then s else s.setPool p { s.pool p with avail := (s.pool p).avail ++ [phys] }

/-- Free shadow buffers of a pool (R109, R406). -/
def freeCount (s : State) (p : Nat) : Nat :=
  (s.pool p).avail.length + (poolPhys s p - (s.pool p).fresh)

/-- A handle's pool and index (R30). -/
def hPool (h : Nat) : Nat := h / 2 ^ 24 % 256
/-- A handle's index within its pool (R30). -/
def hIndex (h : Nat) : Nat := h % 2 ^ 24

/-- Versions whose buffer holds a byte of memory that answers a test become damaged (R169, R170). -/
def damageVersions (s : State) (lost : Nat → Nat → Bool) : State :=
  { s with
    vers := s.vers.map fun (n, v) =>
      (n, if v.st = .valid ∧ lost (physAddr s (hPool v.handle) v.phys) (poolCfg s (hPool v.handle)).size then
        { v with st := .damaged } else v)
    fh := { s.fh with vers := s.fh.vers.map fun (n, v) =>
      (n, match v.phys with
        | some i => if lost (physAddr s v.pool i) (poolCfg s v.pool).size then { v with damaged := true } else v
        | none => v) } }

end Sys2Proof.Machine
end

