-- ==== Sys2Proof/Machine/Memory.lean ====
section
/-!
DEFINITION. Reading and writing device memory with its codes, poison, merges and DRAM line validity (R204, R408 to
R426, R432, R434).
-/
namespace Sys2Proof.Machine

/-! ## Plain cells -/

/-- One byte; an unlisted address reads zero. -/
def mget (m : List Host.Cell) (a : Nat) : Byte := kgetD m a 0

/-- Write one byte; zero is not listed. -/
def mset (m : List Host.Cell) (a : Nat) (b : Byte) : List Host.Cell := if b = 0 then kdel m a else kset m a b

/-- Write bytes at rising addresses. -/
def msetAll (m : List Host.Cell) : Nat → List Byte → List Host.Cell
  | _, [] => m
  | a, b :: r => msetAll (mset m a b) (a + 1) r

/-- n bytes from an address. -/
def mgetAll (m : List Host.Cell) (a n : Nat) : List Byte := (List.range n).map fun i => mget m (a + i)

/-- Bytes of a range set to zero. -/
def mzero (m : List Host.Cell) (a n : Nat) : List Host.Cell := m.filter fun c => !(decide (a ≤ c.1) && decide (c.1 < a + n))

/-- Canonical form: rising addresses, no zero byte. -/
def cellsWf (m : List Host.Cell) : Bool := kwf m && m.all fun c => c.2 != 0

/-- Canonical form of the device memories. -/
def Mem.wf (m : Mem) : Bool := cellsWf m.bytes && cellsWf m.imem

/-! ## Errors -/

/-- Why an access fails. -/
inductive MErr where
  | access | timeout | poison | uncorrectable
  deriving DecidableEq, Repr

/-- CAUSE of a bus error (R223). -/
def causeOf : MErr → Nat
  | .access => 0x05 | .timeout => 0x09 | .poison => 0x07 | .uncorrectable => 0x08

/-- MEMORY code of the error log (R434). -/
def memoryCode : MemAt → Nat
  | .tcm _ => 0 | .cluster _ => 2 | .anvil => 3 | .dram => 4 | _ => 6

/-- What a record of MEM_ERROR_LOG says (R434). -/
structure MemRec where
  addr : Nat
  memory : Nat
  finder : Nat
  outcome : Nat
  use : Nat := 0
  unit : Nat := 0
  device : Nat := 0xF
  sub : Nat := 0xF
  deriving DecidableEq, Repr

/-- Append a record to MEM_ERROR_LOG (R434); an EVENT is raised when the word was poisoned (R415). -/
def memRecord (s : State) (r : MemRec) (event : Bool) : State :=
  let v := s.time.now % 2 ^ 64 * 2 ^ 192 + r.addr % 2 ^ 40 * 2 ^ 152 + r.memory * 2 ^ 148 + r.finder * 2 ^ 144
    + r.outcome * 2 ^ 140 + r.use * 2 ^ 136 + r.unit % 4096 * 2 ^ 124 + r.device * 2 ^ 120 + r.sub * 2 ^ 116
  let n := s.mem.errNext
  let t := { s with mem := { s.mem with errLog := kset s.mem.errLog n v, errNext := (n + 1) % 256 } }
  if event then raiseEvent t keyMemErrorLog (32 * n) (beBytes 32 v) else t

/-- Append a record for a word of addressed memory. -/
def memLog (s : State) (a finder outcome use : Nat) (event : Bool) : State :=
  let m := memAt s a
  memRecord s
    { addr := a, memory := memoryCode m, finder, outcome, use
      unit := match m with | .tcm c => c | _ => 0
      device := (lineDevice s a).getD 0xF
      sub := match m with | .dram => subOf s a | _ => 0xF } event

/-- Set what a code word holds besides good data. -/
def setBad (s : State) (u : Nat) (b : Option BadWord) : State :=
  { s with mem := { s.mem with bad := match b with | some x => kset s.mem.bad u x | none => kdel s.mem.bad u } }

/-- Set the stored bytes. -/
def setBytes (s : State) (m : List Host.Cell) : State := { s with mem := { s.mem with bytes := m } }

/-- Counter of uncorrectable words of a memory. -/
def uncKey (m : MemAt) : Nat := if m = .dram then keyDramUncorrectable else keySramUncorrectable

/-- Counter of corrected words of a memory. -/
def corKey (m : MemAt) : Nat := if m = .dram then keyDramCorrected else keySramCorrected

/-- A DRAM line has been written or filled since the contents were lost (R421). -/
def lineValid (s : State) (a : Nat) : Bool :=
  s.mem.validSubs.contains (subOf s a)
    || s.mem.dramValid.any fun r => decide (r.1 ≤ a / 64 * 64) && decide (a / 64 * 64 + 64 ≤ r.1 + r.2)

/-- A DRAM line is written. -/
def validLine (s : State) (u : Nat) : State :=
  if lineValid s u then s else { s with mem := { s.mem with dramValid := s.mem.dramValid ++ [(u, 64)] } }

/-- A granule of 2 MiB marked in the fill map (R422). -/
def granuleFilled (s : State) (a : Nat) : Bool := s.mem.fillMap.contains (a / 0x200000)

/-- A DRAM line outside the filled granules, an uncorrectable read of which is an unwritten read (R421). -/
def unfilled (s : State) (u : Nat) : Bool := decide (memAt s u = .dram) && !granuleFilled s u

/-- Nothing has written a DRAM line since the contents were lost (R421). -/
def unwritten (s : State) (u : Nat) : Bool := unfilled s u && !lineValid s u

/-! ## Regions lost (R432, R170) -/

/-- A memory region is lost: its state, the fault log and the versions held in it (R432, R170, R193). The spec places no
single endpoint context, so every one counts as damaged when the subchannel holds a byte of the device's own DRAM region
(DESIGN CHOICE, assumption 76). -/
def loseMemRegion (s : State) (r : Nat) : State :=
  if s.regState r = 0 ∨ s.regState r = 1 then
    let t := s.setRegState r 3
    let t := logFault t (faultNoJob t r 0x0D 0x0C)
    let t := if 0x580 ≤ r ∧ rangeInSub s (dramCapacity s - dramReserved s) (dramReserved s) (r - 0x580) then
      { t with mem := { t.mem with ctxDamaged := true } } else t
    damageVersions t fun a n =>
      if r < 0x580 then
        memAt s a = .anvil && (quarterOf a = r - 0x370 || quarterOf (a + n - 1) = r - 0x370)
      else memAt s a = .dram && rangeInSub s a n (r - 0x580)
  else s

/-- Note a confirmed uncorrectable line for R432: 16 lines of a quarter, or SUBCH_UE_LIMIT lines of a subchannel, within
one second lose it, and any line does while a device of the subchannel is marked failed. -/
def noteLine (s : State) (a : Nat) : State :=
  let go (r limit : Nat) : State :=
    let old := (kgetD s.mem.ueLines r []).filter fun x => decide (s.time.now - x.1 < secNs)
    let now := if old.any fun x => x.2 = a / 64 then old else old ++ [(s.time.now, a / 64)]
    let t := { s with mem := { s.mem with ueLines := kset s.mem.ueLines r now } }
    if limit ≤ now.length then loseMemRegion t r else t
  match memAt s a with
  | .anvil => go (regQuarter (quarterOf a)) 16
  | .dram =>
    if !(failedDevices s (subOf s a)).isEmpty then loseMemRegion s (regSub (subOf s a))
    else go (regSub (subOf s a)) (s.oval keySubchUeLimit)
  | _ => s

/-- Charge the region that holds an address (R415). -/
def strikeAt (s : State) (a : Nat) : State :=
  match chargeRegion s a with
  | some r => strike s r
  | none => s

/-- The fault log's record of a bad word that no task met: found by Drizzle, the fronthaul path or the transport (R193). -/
def logWord (s : State) (u finder cause : Nat) (struck : Bool) : State :=
  if finder = 0 ∨ finder = 6 ∨ finder = 7 then
    let r := match memAt s u with | .anvil => some (regQuarter (quarterOf u)) | _ => chargeRegion s u
    let action := if struck && (chargeRegion s u).any takesStrikes then 0x03 else 0x0E
    logFault s { faultNoJob s (r.getD 0xFFFF) cause action with address := u }
  else s

/-- A confirmed uncorrectable word is logged, charged and written as poisoned (R415, R432). -/
def confirmBad (s : State) (u finder use : Nat) : State :=
  let t := strikeAt (noteLine (memLog (logWord s u finder 0x05 true) u finder 2 use true) u) u
  ((setBad t u (some .poison)).bump keyPoisonedWords 1).bump (uncKey (memAt s u)) 1

/-- A second read that returns good data: logged, charged, written back and counted (R415). -/
def goodOnReread (s : State) (u finder use : Nat) : State :=
  (setBad (strikeAt (memLog (logWord s u finder 0x05 true) u finder 1 use false) u) u none).bump (uncKey (memAt s u)) 1

/-! ## The always-on SRAM (R408, R415, R531) -/

/-- Bytes of the always-on SRAM: the 78 banks of R531 in its order (assumption 79). -/
abbrev aonBytes : Nat := 78 * 0x40000

/-- First offsets of the bodies of JA and JB, and of their tags (R531). -/
abbrev aonBody (half : Nat) : Nat := 0x800000 * half
/-- First offset of the tags of a half. -/
abbrev aonTag (half : Nat) : Nat := 0x1000000 + 0x100000 * half

/-- Set what a word of the always-on SRAM holds besides good data. -/
def setAonBad (s : State) (o : Nat) (b : Option BadWord) : State :=
  { s with mem := { s.mem with aonBad := match b with | some x => kset s.mem.aonBad o x | none => kdel s.mem.aonBad o } }

/-- One read of a word of the always-on SRAM; true when it gives no good data. The hardware reads an uncorrectable word once
more, and no region is charged (R413, R415). ADDRESS of its records is the offset (assumption 79). -/
def readAonWord (s : State) (finder use o : Nat) : State × Bool :=
  let log (t : State) (cause outcome : Nat) (event : Bool) : State :=
    let t := if finder = 0 ∨ finder = 7 then logFault t { faultNoJob t 0xFFFF cause 0x0E with address := o } else t
    memRecord t { addr := o, memory := 6, finder, outcome, use } event
  match kget s.mem.aonBad o with
  | none => (s, false)
  | some .correctable => ((setAonBad s o none).bump keySramCorrected 1, false)
  | some .uncorrectableOnce => (log ((setAonBad s o none).bump keySramUncorrectable 1) 0x05 1 false, true)
  | some .poison => (log (s.bump keyPoisonReads 1) 0x04 3 false, true)
  | some _ =>
    (log (((setAonBad s o (some .poison)).bump keySramUncorrectable 1).bump keyPoisonedWords 1) 0x05 2 true, true)

/-- Read words of the always-on SRAM in order; true when one gives no good data. -/
def readAon (s : State) (finder : Nat) (os : List Nat) : State × Bool :=
  os.foldl (fun x o => let r := readAonWord x.1 finder 0 o; (r.1, x.2 || r.2)) (s, false)

/-- Words of a range of the always-on SRAM written whole. -/
def writeAon (s : State) (o n : Nat) : State :=
  if s.mem.aonBad.isEmpty then s
  else { s with mem := { s.mem with aonBad := s.mem.aonBad.filter fun x => !(decide (o ≤ x.1) && decide (x.1 < o + n)) } }

/-! ## Reading -/

/-- What one read of a code word finds. The hardware reads an uncorrectable word once more for every finder but a core,
whose task runtime does it (R415, R157). -/
def checkWord (s : State) (finder u : Nat) : State × Option MErr :=
  let blank (s : State) : State := memLog (s.bump keyUnwrittenReads 1) u finder 5 0 false
  match badAt s u with
  | some .poison => (memLog ((logWord s u finder 0x04 false).bump keyPoisonReads 1) u finder 3 0 false, some .poison)
  | none => if unwritten s u then (blank s, some .uncorrectable) else (s, none)
  | some .correctable =>
    if unwritten s u then (blank s, some .uncorrectable) else ((setBad s u none).bump (corKey (memAt s u)) 1, none)
  | some .uncorrectable | some (.line _) =>
    if unfilled s u then (blank s, some .uncorrectable)
    else if finder = 1 then (s, some .uncorrectable) else (confirmBad s u finder 0, some .uncorrectable)
  | some .uncorrectableOnce =>
    if unfilled s u then (blank s, some .uncorrectable)
    else if finder = 1 then (s, some .uncorrectable) else (goodOnReread s u finder 0, some .uncorrectable)

/-- Code words that a range touches. -/
def wordsOf (m : MemAt) (a n : Nat) : List Nat :=
  let w := unitOf m
  (List.range ((a + n + w - 1) / w - a / w)).map fun i => (a / w + i) * w

/-- The line of a TCM address has its written bit clear (R204). -/
def lineClear (s : State) (c a : Nat) : Bool := !((s.core c).lines.contains ((a - tcmBase c) / 64))

/-- Read each word of a list, keeping the first error. -/
def checkWords (s : State) (finder : Nat) : List Nat → State × Option (MErr × Nat)
  | [] => (s, none)
  | u :: r =>
    match checkWord s finder u with
    | (t, none) => checkWords t finder r
    | (t, some e) => (t, some (e, u))

/-- A memory that cannot answer: a clamped island or a region no longer used (R167, R170, R544). -/
def silent (s : State) (a n : Nat) : Bool := !rangeAnswers s a n

/-- An outcome of a read: the bytes, or the error and the address it concerns. -/
inductive Rd where
  | ok (b : List Byte)
  | err (e : MErr) (a : Nat)
  deriving DecidableEq, Repr

/-! ## Accesses to a gated cluster (R519) -/

/-- A cluster as a wake leaves it: at OPP3, ungated (R529). -/
def Cluster.woken (x : Cluster) : Cluster :=
  { x with opp := 3, oppPending := none, vReq := 550, gated := false, idleSince := none, lowRankCycles := 0 }

/-- A migration to a cluster waits for a slot boundary from the instant at which the cluster is awake (R140). -/
def CellSt.targetAwake (x : CellSt) (k now : Nat) : CellSt :=
  match x.migration with
  | some m => if m.target = k ∧ m.switched = false then { x with migration := some { m with startTime := now } } else x
  | none => x

/-- The cluster in whose island a memory lies. -/
def MemAt.island : MemAt → Option Nat
  | .cluster k => some k
  | .tcm c => some (c / 36)
  | _ => Option.none

/-- An access that reaches a gated cluster wakes it (R519). The access finds the cluster awake, its retained banks good: a bank
that fails its check is an operand of GATED_ISLAND_WAKE (assumption 37). -/
def reachIsland (s : State) (m : MemAt) : State :=
  match m.island with
  | some k =>
    if (s.cluster k).gated then
      { s.setCluster k (s.cluster k).woken with cellSt := s.cellSt.map fun x => (x.1, x.2.targetAwake k s.time.now) }
    else s
  | none => s

/-! ## Merges and the write queues of DRAM (R411, R412, R414, R426, R427) -/

/-- A request to a rank ends its power-down; both ranks of a subchannel count as asked (R427, assumption 77). -/
def wakeRank (now : Nat) (l : List (Nat × DramRank)) (r : Nat) : List (Nat × DramRank) :=
  kset l r { kgetD l r DramRank.init with powerDown := false, lastRequest := now }

/-- A request to a range wakes the ranks of every subchannel that it touches (R427). -/
def wakeRanks (s : State) (a n : Nat) : State :=
  let subs := (List.range (nSubs s)).filter fun i => rangeInSub s a n i
  { s with mem := { s.mem with
    ranks := subs.foldl (fun l i => wakeRank s.time.now (wakeRank s.time.now l (2 * i)) (2 * i + 1)) s.mem.ranks } }

/-- A word that a write covers only in part is merged; where the read half finds a bad word the whole unit is poisoned, and
no second read is made (R411, R412). A DRAM line so poisoned has been written (R410). -/
def mergeWord (s : State) (u : Nat) : State × Option MErr :=
  let bad (t : State) (e : MErr) (outcome : Nat) : State × Option MErr :=
    (validLine (setBad (memLog ((t.bump keyRmwErrors 1).bump keyPoisonedWords 1) u 8 outcome 0 false) u (some .poison)) u, some e)
  let struck (t : State) : State × Option MErr :=
    let t := strikeAt (t.bump (uncKey (memAt s u)) 1) u
    let t := if memAt s u = .dram ∧ (failedDevices s (subOf s u)).isEmpty = false then loseMemRegion t (regSub (subOf s u)) else t
    bad t .uncorrectable 4
  let blank (t : State) : State × Option MErr := bad (t.bump keyUnwrittenReads 1) .uncorrectable 5
  match badAt s u with
  | some .poison => bad s .poison 4
  | none => if unwritten s u then blank s else (s, none)
  | some .correctable => if unwritten s u then blank s else ((setBad s u none).bump (corKey (memAt s u)) 1, none)
  | some _ => if unfilled s u then blank s else struck s

/-- A posted store whose write found a bad line reports to its core, if that still waits for it; the first error stands
(R224). -/
def reportPosted (cause : Nat) (s : State) (p : Nat × Posted) : State :=
  let x := s.core p.1
  if x.sbuf.contains p.2 && x.sberr.isNone then s.setCore p.1 { x with sberr := some (p.2, cause) } else s

/-- The entry of a line is issued: the line is read once and merged when the entry does not hold all of it (R414). -/
def issueEntry (s : State) (e : WEntry) : State × Option MErr :=
  let t := { s with mem := { s.mem with wqueue := s.mem.wqueue.filter fun x => decide (x.line ≠ e.line) } }
  if e.mask = 2 ^ 64 - 1 then (t, none)
  else match mergeWord t (64 * e.line) with
    | (t, none) => (validLine t (64 * e.line), none)
    | (t, some er) => (e.posted.foldl (reportPosted (causeOf er)) t, some er)

/-- The write-queue entry of a line. -/
def entryOn (s : State) (l : Nat) : Option WEntry := s.mem.wqueue.find? fun e => decide (e.line = l)

/-- Issue the entries that answer a test, oldest first. -/
def issueWhere (s : State) (p : WEntry → Bool) : State :=
  (s.mem.wqueue.filter p).foldl (fun t e => (issueEntry t e).1) s

/-- Every write that a subchannel's queue holds is issued (R426). -/
def drainQueue (s : State) (i : Nat) : State := issueWhere s fun e => decide (subOf s (64 * e.line) = i)

/-- The lines of a range. -/
def rangeLines (a n : Nat) : List Nat := (List.range ((a + n + 63) / 64 - a / 64)).map fun i => a / 64 + i

/-- DRAM write-queue effect of a read of one line (R426): forwarded from a whole entry, or held until a partial entry is
written. -/
def queueReadLine (s : State) (l : Nat) : State :=
  match entryOn s l with
  | none => s
  | some e => if e.mask = 2 ^ 64 - 1 then s.bump keyForwardedReads 1 else (issueEntry s e).1.bump keyHeldReads 1

/-- A DRAM read against the write queue, line by line. -/
def queueRead (s : State) (a n : Nat) : State := (rangeLines a n).foldl queueReadLine (wakeRanks s a n)

/-- Read n bytes of device memory for a finder (FINDER codes of R434). -/
def devRead (s : State) (finder a n : Nat) : State × Rd :=
  let m := memAt s a
  if n = 0 then (s, .ok [])
  else if m = .none ∨ memAt s (a + n - 1) ≠ m then (s, .err .access a)
  else if silent s a n then (s, .err .timeout a)
  else
    let s := reachIsland s m
    let s1 := if m = .dram then queueRead s a n else s
    let ws := match m with
      | .tcm c => (wordsOf m a n).filter fun u => !lineClear s c u
      | .dram => (wordsOf m a n).filter fun u => (entryOn s1 (u / 64)).isNone
      | _ => wordsOf m a n
    match checkWords s1 finder ws with
    | (t, none) =>
      (t, .ok ((List.range n).map fun i =>
        match m with
        | .tcm c => if lineClear s c (a + i) then 0 else mget s.mem.bytes (a + i)
        | _ => mget s.mem.bytes (a + i)))
    | (t, some (e, u)) => (t, .err e (max a u))

/-! ## Writing -/

/-- One code word of a write to SRAM: merged or covered whole. Its bytes are stored when no error was found. -/
def writeWord (s : State) (m : MemAt) (u a : Nat) (b : List Byte) : State × Option MErr :=
  let w := unitOf m
  let lo := max u a
  let hi := min (u + w) (a + b.length)
  let part := cut b (lo - a) (hi - lo)
  let whole := decide (hi - lo = w)
  let r := if whole then (setBad s u none, none) else mergeWord s u
  match r with
  | (t, none) => (setBytes t (msetAll t.mem.bytes lo part), none)
  | (t, some e) => (t, some e)

/-- Each code word of a write in rising order, keeping the first error. -/
def writeWords (s : State) (m : MemAt) (a : Nat) (b : List Byte) : List Nat → State × Option (MErr × Nat)
  | [] => (s, none)
  | u :: r =>
    match writeWord s m u a b with
    | (t, none) => writeWords t m a b r
    | (t, some e) =>
      match writeWords t m a b r with
      | (t', _) => (t', some (e, max a u))

/-- The first write to a TCM line whose bit is clear stores zeros over the rest of the line and sets its bit (R204). -/
def openLine (s : State) (c l : Nat) : State :=
  let x := s.core c
  if x.lines.contains l then s
  else
    let a := tcmBase c + 64 * l
    let t := s.setCore c { x with lines := sinsert x.lines l }
    { t with mem := { t.mem with bytes := mzero t.mem.bytes a 64
                                 bad := t.mem.bad.filter fun y => !(decide (a ≤ y.1) && decide (y.1 < a + 64)) } }

/-- Open every TCM line that a write touches. -/
def openLines (s : State) (c a n : Nat) : State :=
  ((List.range ((a + n + 63) / 64 - a / 64)).map fun i => (a - tcmBase c) / 64 + i).foldl (fun t l => openLine t c l) s

/-- Byte mask of a write within one DRAM line. -/
def lineMask (l a n : Nat) : Nat :=
  let lo := max (64 * l) a - 64 * l
  let hi := min (64 * l + 64) (a + n) - 64 * l
  2 ^ hi - 2 ^ lo

/-- One line of a DRAM write enters its subchannel's queue, merged into the entry that the line has; the oldest of more
than 64 entries is issued. An entry that holds its whole line needs nothing of what the line held (R410, R426). -/
def queueLine (who : Option (Nat × Posted)) (a n : Nat) (s : State) (l : Nat) : State :=
  let old := entryOn s l
  let e : WEntry :=
    { line := l, mask := (old.map (·.mask)).getD 0 ||| lineMask l a n, posted := (old.map (·.posted)).getD [] ++ who.toList }
  let q := if old.isSome then updWhere (fun x => decide (x.line = l)) (fun _ => e) s.mem.wqueue else s.mem.wqueue ++ [e]
  let t := { s with mem := { s.mem with wqueue := q } }
  let t := if e.mask = 2 ^ 64 - 1 then validLine (setBad t (64 * l) none) (64 * l) else t
  let mine := t.mem.wqueue.filter fun x => decide (subOf t (64 * x.line) = subOf t (64 * l))
  match mine with
  | o :: _ => if 64 < mine.length then (issueEntry t o).1 else t
  | [] => t

/-- Write bytes to device memory: DRAM takes them into the write queues, in the name of a posted store where there is one,
and every other memory at once. Answers the first error found by then. -/
def devQueue (s : State) (who : Option (Nat × Posted)) (a : Nat) (b : List Byte) : State × Option (MErr × Nat) :=
  let m := memAt s a
  if b.length = 0 then (s, none)
  else if m = .none ∨ memAt s (a + b.length - 1) ≠ m then (s, some (.access, a))
  else if silent s a b.length then (s, some (.timeout, a))
  else
    let s := reachIsland s m
    match m with
    | .dram =>
      ((rangeLines a b.length).foldl (queueLine who a b.length)
        (wakeRanks (setBytes s (msetAll s.mem.bytes a b)) a b.length), none)
    | .tcm c => writeWords (openLines s c a b.length) m a b (wordsOf m a b.length)
    | _ => writeWords s m a b (wordsOf m a b.length)

/-- Issue the partial entries among some lines in order, keeping the first error. -/
def issueLines (s : State) (a : Nat) : List Nat → State × Option (MErr × Nat)
  | [] => (s, none)
  | l :: r =>
    match entryOn s l with
    | none => issueLines s a r
    | some e =>
      if e.mask = 2 ^ 64 - 1 then issueLines s a r
      else match issueEntry s e with
        | (t, none) => issueLines t a r
        | (t, some er) => ((issueLines t a r).1, some (er, max a (64 * l)))

/-- The lines of a written range that are still to be merged are issued; nothing to do outside DRAM. -/
def settleRange (s : State) (a n : Nat) : State × Option (MErr × Nat) :=
  if memAt s a = .dram then issueLines s a (rangeLines a n) else (s, none)

/-- Write bytes to device memory for a requester that waits for the outcome; answers the first error found. -/
def devWrite (s : State) (a : Nat) (b : List Byte) : State × Option (MErr × Nat) :=
  match devQueue s none a b with
  | (t, some e) => (t, some e)
  | (t, none) => settleRange t a b.length

/-! ## Fills -/

/-- A range reads as zeros while its code words stay as they are, so that poison in it stays until a write covers it
(R4, R410). -/
def blankRange (s : State) (a n : Nat) : State := setBytes s (mzero s.mem.bytes a n)

/-- A range of device memory written as zeros with valid check bits (R419, R422). -/
def zeroRange (s : State) (a n : Nat) : State :=
  let t := { s with mem := { s.mem with
    bytes := mzero s.mem.bytes a n
    bad := s.mem.bad.filter fun y => !(decide (a ≤ y.1) && decide (y.1 < a + n)) } }
  if memAt s a = .dram then
    { t with mem := { t.mem with
      dramValid := t.mem.dramValid ++ [(a, n)]
      wqueue := t.mem.wqueue.filter fun e => !(decide (a ≤ 64 * e.line) && decide (64 * e.line + 64 ≤ a + n)) } }
  else t

/-- The end of what some ranges cover without a gap from an address on, looking at most n times. -/
def fillReach (l : List (Nat × Nat)) : Nat → Nat → Nat
  | a, 0 => a
  | a, n + 1 => match l.find? fun r => decide (r.1 ≤ a) && decide (a < r.1 + r.2) with
    | some r => fillReach l (r.1 + r.2) n
    | none => a

/-- A whole granule has been filled since the map was cleared (R422). -/
def granuleDone (s : State) (g : Nat) : Bool :=
  if s.mem.filledSubs.isEmpty then decide (0x200000 * (g + 1) ≤ fillReach s.mem.filled (0x200000 * g) s.mem.filled.length)
  else (List.range 512).all fun b =>
    let a := 0x200000 * g + 4096 * b
    s.mem.filledSubs.contains (subOf s a) || decide (a + 4096 ≤ fillReach s.mem.filled a s.mem.filled.length)

/-- Mark the granules among some that are now filled (R422). -/
def markGranules (s : State) (gs : List Nat) : State :=
  { s with mem := { s.mem with fillMap := (gs.filter (granuleDone s)).foldl sinsert s.mem.fillMap } }

/-- The fast fill of a range of DRAM: zeros, and the granules then filled are marked (R422). -/
def fastFill (s : State) (a n : Nat) : State :=
  let t := zeroRange s a n
  markGranules { t with mem := { t.mem with filled := t.mem.filled ++ [(a, n)] } }
    ((List.range ((a + n + 0x1FFFFF) / 0x200000 - a / 0x200000)).map (a / 0x200000 + ·))

/-- The fast fill of a whole subchannel (R171, R422). -/
def fillSub (s : State) (i : Nat) : State :=
  let c := dramCapacity s
  let mine (a : Nat) : Bool := decide (a < c) && decide (subOf s a = i)
  markGranules { s with mem := { s.mem with
      bytes := s.mem.bytes.filter fun y => !mine y.1
      bad := s.mem.bad.filter fun y => !mine y.1
      wqueue := s.mem.wqueue.filter fun e => !mine (64 * e.line)
      filledSubs := sinsert s.mem.filledSubs i
      validSubs := sinsert s.mem.validSubs i } }
    (List.range (c / 0x200000))

/-- The fill map is cleared; what DRAM holds stays (R531). -/
def clearFillMap (s : State) : State :=
  { s with mem := { s.mem with fillMap := [], filled := [], filledSubs := [] } }

/-- The DRAM contents are lost and the fill map is cleared (R62, R421, R547). -/
def loseDram (s : State) : State :=
  let c := dramCapacity s
  { s with mem := { s.mem with
    bytes := s.mem.bytes.filter fun y => decide (c ≤ y.1)
    bad := s.mem.bad.filter fun y => decide (c ≤ y.1)
    dramValid := [], fillMap := [], filled := [], filledSubs := [], validSubs := [], wqueue := [] } }

/-- Every SRAM outside the always-on island is filled with zeros (R419). -/
def fillSram (s : State) : State :=
  let c := dramCapacity s
  { s with mem := { s.mem with
    bytes := s.mem.bytes.filter fun y => decide (y.1 < c)
    bad := s.mem.bad.filter fun y => decide (y.1 < c)
    imem := [], ibad := [] } }

/-- Zero the SRAM of one cluster island: its cluster memory, TCMs and instruction memories (R167). -/
def fillIsland (s : State) (k : Nat) : State :=
  let t := zeroRange (zeroRange s (clusterBase k) 0x800000) (tcmBase (36 * k)) (36 * 0x40000)
  { t with mem := { t.mem with
    imem := t.mem.imem.filter fun y => !(decide (36 * k ≤ y.1 / 65536) && decide (y.1 / 65536 < 36 * k + 36))
    ibad := t.mem.ibad.filter fun y => !(decide (36 * k ≤ y.1 / 65536) && decide (y.1 / 65536 < 36 * k + 36)) } }

end Sys2Proof.Machine
end

