-- ==== Sys2Proof/Machine/Journal.lean ====
section
/-!
DEFINITION. The job journal: descriptors, records, tags and bodies as numbers, slots and their two halves (R28, R47,
R56 to R61, R175 to R177).
-/
namespace Sys2Proof.Machine

/-! ## Layouts -/

/-- A descriptor as a number of 512 bits (R28); mirrored ACCEPT entries carry EPOCH_K in bits [439:428] (R176). -/
def descNat (d : Desc) (epochK : Nat) : Nat :=
  d.sqid % 4096 * 2 ^ 496 + d.seq.toNat * 2 ^ 464 + d.graph % 65536 * 2 ^ 448 + b2n d.prot * 2 ^ 442
    + b2n d.guaranteed * 2 ^ 441 + b2n d.timed * 2 ^ 440 + epochK % 4096 * 2 ^ 428 + d.cell % 4096 * 2 ^ 416
    + d.deadline % 2 ^ 32 * 2 ^ 384 + d.budget % 2 ^ 32 * 2 ^ 352
    + nth0 d.inH 0 % 2 ^ 32 * 2 ^ 320 + nth0 d.inH 1 % 2 ^ 32 * 2 ^ 288 + nth0 d.inH 2 % 2 ^ 32 * 2 ^ 256
    + nth0 d.inH 3 % 2 ^ 32 * 2 ^ 224 + nth0 d.outH 0 % 2 ^ 32 * 2 ^ 192 + nth0 d.outH 1 % 2 ^ 32 * 2 ^ 160
    + nth0 d.outH 2 % 2 ^ 32 * 2 ^ 128 + nth0 d.outH 3 % 2 ^ 32 * 2 ^ 96
    + nth0 d.param 0 % 2 ^ 32 * 2 ^ 64 + nth0 d.param 1 % 2 ^ 32 * 2 ^ 32 + nth0 d.param 2 % 2 ^ 32

/-- The descriptor that a number of 512 bits spells (R28). -/
def descOf (v : Nat) : Desc :=
  { sqid := bits v 507 496, seq := BitVec.ofNat 32 (bits v 495 464), graph := bits v 463 448
    prot := tbit v 442, guaranteed := tbit v 441, timed := tbit v 440, cell := bits v 427 416
    deadline := bits v 415 384, budget := bits v 383 352
    inH := [bits v 351 320, bits v 319 288, bits v 287 256, bits v 255 224]
    outH := [bits v 223 192, bits v 191 160, bits v 159 128, bits v 127 96]
    param := [bits v 95 64, bits v 63 32, bits v 31 0] }

/-- A completion record as a number of 256 bits (R47). -/
def recNat (r : Rec) : Nat :=
  r.seq.toNat * 2 ^ 224 + r.status % 256 * 2 ^ 216 + b2n r.lateRelease * 2 ^ 212 + b2n r.migrated * 2 ^ 211
    + b2n r.voted * 2 ^ 210 + b2n r.shadowed * 2 ^ 209 + b2n r.replayed * 2 ^ 208 + r.regionKind % 16 * 2 ^ 204
    + r.regionId % 4096 * 2 ^ 192 + r.finish % 2 ^ 32 * 2 ^ 160 + r.attempts % 256 * 2 ^ 152
    + r.outValid % 16 * 2 ^ 144 + nth0 r.outLen 0 % 2 ^ 32 * 2 ^ 96 + nth0 r.outLen 1 % 2 ^ 32 * 2 ^ 64
    + nth0 r.outLen 2 % 2 ^ 32 * 2 ^ 32 + nth0 r.outLen 3 % 2 ^ 32

/-- The record that a number of 256 bits spells (R47). -/
def recOf (v : Nat) : Rec :=
  { seq := BitVec.ofNat 32 (bits v 255 224), status := bits v 223 216, lateRelease := tbit v 212, migrated := tbit v 211
    voted := tbit v 210, shadowed := tbit v 209, replayed := tbit v 208, regionKind := bits v 207 204
    regionId := bits v 203 192, finish := bits v 191 160, attempts := bits v 159 152, outValid := bits v 147 144
    outLen := [bits v 127 96, bits v 95 64, bits v 63 32, bits v 31 0] }

/-- A body in wire order: 64 bytes, each field big-endian at its offset (R56, R57). -/
def bodyBytes : JBody → List Byte
  | .accept d k => beBytes 64 (descNat d k)
  | .final r bufs slot t late =>
    beBytes 32 (recNat { r with lateRelease := false })
      ++ beBytes 4 (nth0 bufs 0) ++ beBytes 4 (nth0 bufs 1) ++ beBytes 4 (nth0 bufs 2) ++ beBytes 4 (nth0 bufs 3)
      ++ beBytes 4 slot ++ beBytes 8 t ++ [if late then 1 else 0] ++ [0, 0, 0]
  | .marker b => slice (b.map (BitVec.ofNat 8)) 0 64

/-- The body that 64 bytes spell under a tag kind (R56, R57, R176). -/
def bodyOf (kind : Nat) (b : List Byte) : JBody :=
  match kind with
  | 1 | 4 => .accept (descOf (beNat b)) (bits (beNat b) 439 428)
  | 2 | 3 | 5 | 6 =>
    .final (recOf (beNat (b.take 32)))
      [beNat (slice b 32 4), beNat (slice b 36 4), beNat (slice b 40 4), beNat (slice b 44 4)]
      (beNat (slice b 48 4)) (beNat (slice b 52 8)) (tbit (beNat (slice b 60 1)) 0)
  | _ => .marker (b.map (·.toNat))

/-- Tag bits [63:16] as a number (R56). -/
def tagHigh (e : JEntry) : Nat :=
  e.kind % 8 * 2 ^ 45 + b2n e.started * 2 ^ 44 + e.sqid % 4096 * 2 ^ 32 + e.seq.toNat

/-- The CRC of an entry over 70 bytes (R56). -/
def entryCrc (e : JEntry) : Nat := (crc16 (beBytes 6 (tagHigh e) ++ bodyBytes e.body)).toNat

/-- The entry with its CRC. -/
def JEntry.sealed (e : JEntry) : JEntry := { e with crc := entryCrc e }

/-- The CRC of an entry agrees (R59). -/
def JEntry.ok (e : JEntry) : Bool := decide (e.crc = entryCrc e) && decide (e.kind ≠ 0)

/-! ## Slots (R56, R175) -/

/-- Sources that hold a share of the journal (R175). -/
def mirrorShares (s : State) : Nat :=
  b2n (decide (s.oval keyMirrorFrom0 ≠ 0xFFFF)) + b2n (decide (s.oval keyMirrorFrom1 ≠ 0xFFFF))

/-- Slots of the device's own journal: the mirror shares take the top slot numbers (R175). -/
def jCapacity (s : State) : Nat := 131072 - mirrorShares s * s.oval keyMirrorShare

/-- The first number from n that is not a key. -/
def firstGap {α : Type} : List (Nat × α) → Nat → Nat
  | [], n => n
  | (k, _) :: r, n => if k = n then firstGap r (n + 1) else if k < n then firstGap r n else n

/-- Slots in use in either half. -/
def jUsed (s : State) : Nat := (s.ja.length + (s.jb.filter fun x => (kget s.ja x.1).isNone).length)

/-- A free slot: free in both halves. -/
def jFreeSlot (s : State) : Nat :=
  firstGap (s.jb.foldl (fun m x => if (kget m x.1).isNone then kset m x.1 x.2 else m) s.ja) 0

/-- The words of a slot in a half, its tag and its body, are written whole. -/
def jPut (s : State) (half slot : Nat) : State := writeAon (writeAon s (aonTag half + 8 * slot) 8) (aonBody half + 64 * slot) 64

/-- Write an entry to JA and then to JB (R56). -/
def jWrite (s : State) (slot : Nat) (e : JEntry) : State :=
  { jPut (jPut s 0 slot) 1 slot with ja := kset s.ja slot e.sealed, jb := kset s.jb slot e.sealed }

/-- Free a slot in both halves: its tags are written. -/
def jFree (s : State) (slot : Nat) : State :=
  { writeAon (writeAon s (aonTag 0 + 8 * slot) 8) (aonTag 1 + 8 * slot) 8 with ja := kdel s.ja slot, jb := kdel s.jb slot }

/-- The copy of a slot in a half, where it is valid: every word of it reads, and its CRC agrees (R59, R413). -/
def jCopy (s : State) (half slot : Nat) : State × Option JEntry :=
  let r := readAon s 7 ((aonTag half + 8 * slot) :: (List.range 8).map fun i => aonBody half + 64 * slot + 8 * i)
  (r.1, if r.2 then none else (kget (if half = 0 then s.ja else s.jb) slot).filter JEntry.ok)

/-- Free entries that no credit has reserved (R92). -/
def jUnreserved (s : State) : Nat := jCapacity s - s.jReserved

/-- Read a slot: the JA copy when it is valid, else the JB copy; a copy that fails is rewritten from the other
(R59). -/
def jRead (s : State) (slot : Nat) : State × Option JEntry :=
  let a := jCopy s 0 slot
  let b := jCopy a.1 1 slot
  let s := b.1
  match a.2, b.2 with
  | some x, some _ => (s, some x)
  | some x, none => ({ jPut s 1 slot with jb := kset s.jb slot x }.bump keyJournalRepairs 1, some x)
  | none, some y => ({ jPut s 0 slot with ja := kset s.ja slot y }.bump keyJournalRepairs 1, some y)
  | none, none => (jFree s slot, none)

/-- The ACCEPT entry of a job (R57). -/
def acceptEntry (j : Job) : JEntry :=
  { kind := 1, started := j.started, sqid := j.desc.sqid, seq := j.desc.seq, crc := 0, body := .accept j.desc 0 }

/-- The COMMIT or FINAL entry of a finalised job (R57). -/
def finalEntry (j : Job) (r : Rec) (commit : Bool) (bufs : List Nat) (time : Nat) (late : Bool) : JEntry :=
  { kind := if commit then 2 else 3, started := false, sqid := j.desc.sqid, seq := j.desc.seq, crc := 0
    body := .final r bufs j.acceptSlot time late }

end Sys2Proof.Machine
end

