-- ==== Sys2Proof/Machine/Wire.lean ====
section
/-!
DEFINITION. Frames that the transport sends: encapsulation, the 16-byte header and the bodies (R64, R65, R67, R68, R70,
R72, R74, R75, R77, R96, R104, R105, R175, R180, R183).
-/
namespace Sys2Proof.Machine

/-! ## Ports -/

/-- A port is up (R105). -/
def portUp (s : State) (p : Nat) : Bool := decide ((s.port p).state ≠ 0)

/-- Frames of TRANSPORT_PCP may leave a port now (R96, R105). -/
def portSends (s : State) (p : Nat) : Bool :=
  s.serving && s.powered && portUp s p && !paused s p (s.oval keyTransportPcp)

/-- Transport frames other than MIRROR may be sent on a port now (R96, R105, R180). -/
def canSend (s : State) (p : Nat) : Bool := portSends s p && !s.mirrorTx.fenced

/-! ## Own addresses and those of a taken-over source (R112, R177, R183) -/

/-- A field of a source's IDENTITY marker: n bytes in wire order (R2, R177). -/
def idNat (x : MirrorSrc) (off n : Nat) : Nat := beNat (slice (x.identity.map (BitVec.ofNat 8)) off n)

/-- A source's addresses on a port, as its IDENTITY marker gives them (R177, R183). -/
def sourceAddrs (x : MirrorSrc) (p : Nat) : Addrs :=
  { mac := idNat x (8 + 6 * p) 6, v4 := idNat x (20 + 4 * p) 4, v6 := idNat x (28 + 16 * p) 16 }

/-- The taken-over source that a queue number stands for; none for the device's own queues (R183). -/
def queueSource (q : Nat) : Option Nat := if q < 4096 then none else some (q / 4096 - 1)

/-- Whom a sent frame speaks for: SENDER, EPOCH and the addresses it leaves from (R67, R183, assumption 67). -/
def speaker (s : State) (p : Nat) (src : Option Nat) : Nat × Nat × Addrs :=
  match src.bind fun d => s.srcs.find? fun x => decide (x.source = d) with
  | some x => (x.source, idNat x 4 4, sourceAddrs x p)
  | none => (s.oval keyDeviceNumber, s.epoch, ownAddrs s p)

/-! ## Encapsulation (R64, R65, R104) -/

/-- The transport header (R67). -/
def transportHeader (type : Nat) (retx : Bool) (count length sender epoch now : Nat) : List Byte :=
  beBytes 16 (2 ^ 124 + type % 16 * 2 ^ 120 + b2n retx * 2 ^ 112 + count % 65536 * 2 ^ 96 + length % 65536 * 2 ^ 80
    + sender % 65536 * 2 ^ 64 + epoch % 2 ^ 32 * 2 ^ 32 + now / 8 % 2 ^ 32)

/-- A transport frame sent to a peer on a port, for the device or for a taken-over source; tagged frames carry
TRANSPORT_PCP (R64 to R67, R104, R183). -/
def transportFrame (s : State) (p : Nat) (to' : Peer) (src : Option Nat) (type : Nat) (retx : Bool) (count : Nat)
    (body : List Byte) : EthFrame :=
  let (sender, epoch, from_) := speaker s p src
  let b := transportHeader type retx count body.length sender epoch s.time.now ++ body
  frameTo p from_ to' (s.oval keyTransportPcp) (s.oval keyTransportEtype) (s.oval keyTransportUdp) b

/-- A frame leaves the device. -/
def sendFrame (s : State) (p : Nat) (to' : Peer) (src : Option Nat) (type : Nat) (retx : Bool) (count : Nat)
    (body : List Byte) : State :=
  s.emit (.frame (transportFrame s p to' src type retx count body))

/-- The peer addresses used until a host frame has been learned (R104). -/
def defaultPeer (s : State) (p : Nat) : Peer :=
  let v6 := s.domNat (keyPeerIpv6 p) 0 16
  let v4 := s.oval (keyPeerIpv4 p)
  let enc := s.oval keyEncapEnable
  let (encap, ip) := if v6 ≠ 0 ∧ tbit enc 2 then (2, v6) else if v4 ≠ 0 ∧ tbit enc 1 then (1, v4) else (0, 0)
  { mac := s.oval (keyPeerMac p), encap, ip, udp := s.oval keyTransportUdp, vlan := some (s.oval (keyVlanId p)) }

/-- Where the device sends frames of a queue on a port (R104). -/
def peerOf (s : State) (q p : Nat) : Peer :=
  (if p = 0 then (s.queue q).peer0 else (s.queue q).peer1).getD (defaultPeer s p)

/-- Where MIRROR frames go on a port: the buddy's IPv6 or IPv4 address when one is set, else raw encapsulation (R175,
assumption 67). -/
def buddyPeer (s : State) (p : Nat) : Peer :=
  let v6 := s.domNat (keyBuddyIpv6 p) 0 16
  let v4 := s.oval (keyBuddyIpv4 p)
  let (encap, ip) := if v6 ≠ 0 then (2, v6) else if v4 ≠ 0 then (1, v4) else (0, 0)
  { mac := s.oval (keyBuddyMac p), encap, ip, udp := s.oval keyTransportUdp, vlan := some (s.oval (keyVlanId p)) }

/-! ## Bodies (R70, R72, R74, R75, R77) -/

/-- Runs of neighbours that may share a frame, at most so many to a run. -/
def shareRuns {α : Type} (same : α → α → Bool) (most : Nat) : List α → List (List α)
  | [] => []
  | x :: r => match shareRuns same most r with
    | (y :: g) :: gs => if same x y && decide (g.length + 1 < most) then (x :: y :: g) :: gs else [x] :: (y :: g) :: gs
    | gs => [x] :: gs

/-- An ACCEPT entry, 16 bytes (R72). -/
def acceptBytes (e : AcceptEntry) : List Byte :=
  beBytes 16 (e.sqid % 4096 * 2 ^ 116 + e.code % 256 * 2 ^ 108 + b2n e.unmirrored * 2 ^ 105 + b2n e.rep * 2 ^ 104
    + e.firstSeq.toNat * 2 ^ 64 + e.lastSeq.toNat * 2 ^ 32 + e.nextSeq.toNat)

/-- The segment header of a RESULT frame, 16 bytes (R70). -/
def segHeader (q slot : Nat) (lost : Bool) (seq : BitVec 32) (total offset len : Nat) : List Byte :=
  beBytes 16 (q % 4096 * 2 ^ 116 + slot % 4 * 2 ^ 114 + b2n lost * 2 ^ 113 + seq.toNat * 2 ^ 80
    + total % 2 ^ 32 * 2 ^ 48 + offset % 2 ^ 32 * 2 ^ 16 + len % 65536)

/-- A COMPL body: the queue header and the records (R47, R74). -/
def complBody (q : Nat) (rs : List Rec) : List Byte :=
  beBytes 8 (q % 4096 * 2 ^ 52) ++ rs.flatMap fun r => beBytes 32 (recNat r)

/-- A CREDIT entry, 16 bytes (R75). -/
def creditBytes (q : Nat) (seq : BitVec 32) (units : Nat) : List Byte :=
  beBytes 16 (q % 4096 * 2 ^ 116 + seq.toNat * 2 ^ 64 + units % 2 ^ 40)

/-- A mirror stream entry: the tag and the body in wire order, 72 bytes (R56, R77). -/
def mirrorBytes (e : JEntry) : List Byte := beBytes 8 (tagHigh e * 65536 + e.crc % 65536) ++ bodyBytes e.body

/-- A MIRROR body: position of the first entry, then the entries (R77). -/
def mirrorBody (pos : BitVec 32) (es : List JEntry) : List Byte :=
  beBytes 4 pos.toNat ++ fill 4 0 ++ es.flatMap mirrorBytes

/-- A MIRROR_ACK body (R77). -/
def mirrorAckBody (pos : BitVec 32) : List Byte := beBytes 4 pos.toNat ++ fill 4 0

end Sys2Proof.Machine
end

