-- ==== Sys2Proof/Machine/Domains.lean ====
section
/-!
DEFINITION. PTP domains: their states, the REGION_STATE byte and HOLDOVER_EXCEEDED that follow them, the Announce held of each
port and the selection of a master (R444 to R447, R450, R452, R458).
-/
namespace Sys2Proof.Machine

/-! ## Domains (R444, R445, R450, R458) -/

/-- A PTP domain: 0 TA, 1 TB. -/
def State.domain (s : State) (n : Nat) : Domain := if n = 0 then s.time.ta else s.time.tb

/-- Replace a domain. -/
def State.setDomain (s : State) (n : Nat) (d : Domain) : State :=
  { s with time := if n = 0 then { s.time with ta := d } else { s.time with tb := d } }

/-- A domain is present and enabled (R450, R458). -/
def domainOn (s : State) (n : Nat) : Bool := (decide (n = 0) || hasTb s.part.variant) && s.oflag (keyPtpEnable n)

/-- DOMAIN_STATE (R444, R458). -/
def domainState (s : State) (n : Nat) : Nat := if domainOn s n then (s.domain n).state else 0

/-- The active domain (R450). -/
def activeDom (s : State) : Nat := s.oval keyActiveDomain

/-- HOLDOVER_EXCEEDED and the REGION_STATE byte follow a domain's state (R445). -/
def followHoldover (s : State) (n : Nat) : State :=
  let hold := decide (domainState s n = 4)
  let t := if n = 1 ∧ hasTb s.part.variant = false then s else s.setRegState (regTime n) (if hold then 3 else 0)
  if domainState s (activeDom s) = 4 then t else { t with time := { t.time with holdoverExceeded := false } }

/-- A domain enters a state; LOCKED of the active one sets TRACED and clears STEP_REFUSED (R444, R445). -/
def enterDomain (s : State) (n st : Nat) : State :=
  let d := s.domain n
  let d := if st = 4 ∧ d.state ≠ 4 then { d with holdoverSince := s.time.now } else d
  let t := s.setDomain n { d with state := st, good := if st = 2 then d.good else 0, bad := 0 }
  let t := if st = 3 ∧ activeDom s = n then { t with time := { t.time with traced := true, stepRefused := false } } else t
  followHoldover t n

/-! ## The BMCA (R446, R447) -/

/-- A port takes part in a domain: its bit of PTP_PORTS is set and it is up (R446, R458). -/
def ptpPort (s : State) (n p : Nat) : Bool := domainOn s n && tbit (s.oval (keyPtpPorts n)) p && portUp s p

/-- The Announce held of a port. -/
def Domain.ann (d : Domain) (p : Nat) : Option (Nat × Nat × Nat) := if p = 0 then d.ann0 else d.ann1

/-- Set the Announce held of a port. -/
def Domain.setAnn (d : Domain) (p : Nat) (a : Option (Nat × Nat × Nat)) : Domain :=
  if p = 0 then { d with ann0 := a } else { d with ann1 := a }

/-- The vector that the alternate BMCA of G.8275.1 compares, the smaller the better: class, accuracy, variance, priority2,
local priority, identity, steps removed and source (PRESUMED from the profile that R446 names). -/
def bmcaVector (s : State) (n p : Nat) (a : Announce) : Nat :=
  a.gmClass % 256 * 2 ^ 184 + a.accuracy % 256 * 2 ^ 176 + a.variance % 65536 * 2 ^ 160 + a.priority2 % 256 * 2 ^ 152
    + s.oval (okey (0x3010 + n) (5 + p)) % 256 * 2 ^ 144 + a.gmIdentity % 2 ^ 64 * 2 ^ 80 + a.stepsRemoved % 65536 * 2 ^ 64
    + a.source % 2 ^ 64

/-- The data set of the domain's own clock, compared by class, accuracy, variance and PRIORITY2: class 135, then 165, in
HOLDOVER and 248 otherwise (R447; PRESUMED from the profile that R446 names). -/
def ownVector (s : State) (n : Nat) : Nat :=
  let d := s.domain n
  let class_ := if domainState s n = 4 then
      (if d.holdoverSince + s.oval keyHoldoverLimit * secNs ≤ s.time.now then 165 else 135) else 248
  class_ * 2 ^ 32 + 0xFE * 2 ^ 24 + 0xFFFF * 2 ^ 8 + s.oval (okey (0x3010 + n) 7) % 256

/-- The Announce held of a port still counts: it is the slave port's, or less than three intervals of 125 ms old (R446). -/
def liveAnn (s : State) (n p : Nat) : Option (Nat × Nat × Nat) :=
  ((s.domain n).ann p).filter fun a => decide ((s.domain n).slave = some p) || decide (s.time.now < a.2.2 + 375000000)

/-- The port whose Announce is best, of the ports that take part and whose Announce is better than the own clock. -/
def bestPort (s : State) (n : Nat) : Option Nat :=
  let of (p : Nat) : Option (Nat × Nat × Nat) :=
    if ptpPort s n p then (liveAnn s n p).filter fun a => decide (a.2.1 / 2 ^ 152 < ownVector s n) else none
  match of 0, of 1 with
  | some a, some b => some (if b.2.1 < a.2.1 then 1 else 0)
  | some _, none => some 0
  | none, some _ => some 1
  | none, none => none

/-- The master is selected anew: a FREERUN domain with one begins to acquire, and a LOCKED one without goes to HOLDOVER
(R444, R446). TA in PPS mode needs no master (R452). -/
def reselect (s : State) (n : Nat) : State :=
  let p := bestPort s n
  let d := { s.domain n with slave := p }
  let d := match p.bind d.ann with
    | some a => { d with gmIdentity := a.1, gmClass := a.2.1 / 2 ^ 184 }
    | none => d
  let t := s.setDomain n d
  let pps := n = 0 && decide (t.oval keyPpsInMode = 2)
  if d.state = 1 ∧ p.isSome = true then enterDomain t n 2
  else if d.state = 3 ∧ p.isNone = true ∧ pps = false then enterDomain t n 4
  else t

/-- A port is down: no domain knows a master on it any more (R444, R446). -/
def portLeavesPtp (s : State) (port : Nat) : State :=
  [0, 1].foldl (fun (t : State) n => reselect (t.setDomain n ((t.domain n).setAnn port none)) n) s

end Sys2Proof.Machine
end

