-- ==== Sys2Proof/Machine/Access.lean ====
section
/-!
DEFINITION. The core address map, the DMA channel windows and the start and reset of a channel, as a core, its vector
units and its task channel reach them (R205, R395, R399, R400, R404).
-/
namespace Sys2Proof.Machine

/-! ## The core address map (R205) -/

/-- What a core address reaches: nothing, with the SUB of the ACCESS it raises; device memory; or a segment whose version
has no physical buffer, which reads these bytes and then zeros. -/
inductive CoreAt where
  | bad (sub : Nat)
  | dev (a : Nat)
  | virt (b : List Byte) (off : Nat)
  deriving DecidableEq, Repr

/-- n bytes at a core address of core c (R205). -/
def coreAt (x : Core) (c ea n : Nat) (store : Bool) : CoreAt :=
  if ea + n ≤ 0x40000 then .dev (tcmBase c + ea)
  else if 0x40000000 ≤ ea ∧ ea < 0x60000000 then
    let g := (x.seg[(ea - 0x40000000) / 0x04000000]?).getD SegReg.init
    let off := ea % 0x04000000
    if !g.valid || decide (g.lim.toNat < off + n) then .bad 0
    else if store && g.readOnly then .bad 1
    else match g.virt with
      | some b => .virt b off
      | none => .dev (g.base.toNat + off)
  else .bad 0

/-- Device address that a channel's own address means: a core address for a task channel (R395). -/
def chanAt (s : State) (ch a n : Nat) (store : Bool) : CoreAt :=
  match (s.chan ch).owner with
  | some c => coreAt (s.core c) c a n store
  | none => .dev a

/-! ## Channel windows (R399, R400, R404) -/

/-- Code of a channel state in CHAN_STATE (R404). -/
def chanCode : ChanState → Nat
  | .idle => 0 | .running => 1 | .parked => 2 | .halted => 3

/-- CHAN_STATE (R404). -/
def chanStateReg (x : Chan) : Nat := chanCode x.state * 2 ^ 61 + x.lastStatus % 256 * 2 ^ 48 + x.count % 2 ^ 32

/-- A channel register by its offset; write-only ones read zero (R404). -/
def windowRead (x : Chan) (off : Nat) : Option Nat :=
  match off with
  | 0x00 => some 0
  | 0x08 => some (chanStateReg x)
  | 0x10 => some 0
  | 0x18 => some x.cur
  | 0x20 => some x.lastDoorbell
  | _ => none

/-- Write back a descriptor: DONE and STATUS first, then byte 15 with OWN clear (R400). -/
def writeBack (s : State) (ch cur status count : Nat) : State × Option MErr :=
  match chanAt s ch cur 64 true with
  | .dev a =>
    match devWrite s (a + 8) (leBytes 3 count ++ leBytes 1 status) with
    | (s, some (e, _)) => (s, some e)
    | (s, none) =>
      match devWrite s (a + 15) [0] with
      | (s, some (e, _)) => (s, some e)
      | (s, none) => (s, none)
  | _ => (s, some .access)

/-- A doorbell with address a (R399). -/
def ringDoorbell (s : State) (ch a : Nat) : State :=
  let x := { s.chan ch with lastDoorbell := a % 2 ^ 40 }
  s.setChan ch (match x.state with
    | .idle => { x with state := .running, count := 0, cur := a % 2 ^ 40, desc := none, moved := none, checks := 0 }
    | .running => { x with count := 0 }
    | .parked => { x with count := 0, checks := if x.checks = 0 then 1 else 2 }
    | .halted => x)

/-- CHAN_RESET: the channel stops and is IDLE; a running descriptor is written back ABORTED (R399). -/
def resetChan (s : State) (ch : Nat) : State :=
  let x := s.chan ch
  let live := decide (x.state = .running) && x.desc.isSome
  let s := if live then (writeBack s ch x.cur 0x31 ((x.moved.map (·.2.1)).getD 0)).1 else s
  s.setChan ch { x with state := .idle, desc := none, moved := none, checks := 0, merged := false
                        lastStatus := if live then 0x31 else x.lastStatus }

/-- Write a channel register (R404); read-only ones ignore it. -/
def windowWrite (s : State) (ch off v : Nat) : Option State :=
  match off with
  | 0x00 => some (ringDoorbell s ch v)
  | 0x10 => some (resetChan s ch)
  | 0x08 | 0x18 | 0x20 => some s
  | _ => none

/-! ## Accesses of a core and its vector units -/

/-- What a core read answers: bytes, or CAUSE and SUB. -/
inductive CRd where
  | ok (b : List Byte)
  | err (cause sub : Nat)
  deriving DecidableEq, Repr

/-- Read n bytes at a core address. -/
def coreRead (s : State) (c finder ea n : Nat) : State × CRd :=
  match coreAt (s.core c) c ea n false with
  | .bad sub => (s, .err 0x05 sub)
  | .virt b off => (s, .ok (slice b off n))
  | .dev a =>
    match memAt s a with
    | .window ch =>
      match windowRead (s.chan ch) ((a - windowBase) % 64) with
      | some v => (s, .ok (leBytes n v))
      | none => (s, .err 0x05 0)
    | _ =>
      match devRead s finder a n with
      | (s, .ok b) => (s, .ok b)
      | (s, .err e _) => (s, .err (causeOf e) 0)

/-- Write bytes at a core address, DRAM taking them into its write queue in the name of a posted store where there is one;
answers CAUSE and SUB of a failure found by then. -/
def coreQueue (s : State) (c : Nat) (who : Option Posted) (ea : Nat) (b : List Byte) : State × Option (Nat × Nat) :=
  match coreAt (s.core c) c ea b.length true with
  | .bad sub => (s, some (0x05, sub))
  | .virt _ _ => (s, some (0x05, 1))
  | .dev a =>
    match memAt s a with
    | .window ch =>
      match windowWrite s ch ((a - windowBase) % 64) (leNat b) with
      | some t => (t, none)
      | none => (s, some (0x05, 0))
    | _ =>
      match devQueue s (who.map fun p => (c, p)) a b with
      | (s, none) => (s, none)
      | (s, some (e, _)) => (s, some (causeOf e, 0))

end Sys2Proof.Machine
end

