-- ==== Sys2Proof/Machine/Migration.lean ====
section
/-!
DEFINITION. Migration of cells between clusters: triggers, targets, the switch and its end (R138 to R141, R168, R579,
R580).
-/
namespace Sys2Proof.Machine

/-! ## Which cells stand where -/

/-- Migrations running (R139). -/
def nMigrating (s : State) : Nat := (s.cellSt.filter fun x => x.2.migration.isSome).length

/-- A cell's guaranteed rate as a fraction of cycles per ns. -/
def cellRate (s : State) (c : Nat) : Nat × Nat := ((s.cell c).gBudget, (s.cell c).slotNs)

/-- One rate is below another. -/
def rateLt (a b : Nat × Nat) : Bool := decide (a.1 * b.2 < b.1 * a.2)

/-- Put an element in a list that falls by rate, behind those of equal rate. -/
def insertByRate (s : State) (c : Nat) : List Nat → List Nat
  | [] => [c]
  | d :: r => if rateLt (cellRate s d) (cellRate s c) then c :: d :: r else d :: insertByRate s c r

/-- Cells by falling rate, lower numbers first among equals. -/
def byRate (s : State) (l : List Nat) : List Nat := l.foldl (fun r c => insertByRate s c r) []

/-- Enabled cells placed on a cluster and not migrating. -/
def settledCells (s : State) (k : Nat) : List Nat :=
  (enabledCells s).filter fun c => decide ((s.cellState c).cluster = k) && (s.cellState c).migration.isNone

/-- The state with a cell standing on one cluster only, for an evaluation. -/
def cellAt (s : State) (c k : Nat) : State := s.setCellSt c { s.cellState c with cluster := k, migration := none }

/-- The state with every migrating cell counted on its target only, as the triggers of load and capacity count it: R138 does
not say on which side a cell counts while it moves, and R140 counts it on both only in the cell check (DESIGN CHOICE,
assumption 69). -/
def asArrived (s : State) : State :=
  s.cellSt.foldl (fun t x => match x.2.migration with | some m => cellAt t x.1 m.target | none => t) s

/-! ## Targets (R139) -/

/-- A cell could be protected from a target: for a cell with HALO set the target's shadow cluster passes the cell check with
the cell counted there. -/
def haloFits (s : State) (c t : Nat) : Bool :=
  !(s.cell c).halo || (match shadowOf s t with | some x => cellCheck (cellAt s c t) x | none => false)

/-- A cluster is eligible as the target of a cell. -/
def eligible (s : State) (c t reason : Nat) : Bool :=
  let a := s.setCellSt c { s.cellState c with migration := some { target := t, reason, startTime := 0, switched := false, source := (s.cellState c).cluster } }
  clusterUp s t && decide (t ≠ (s.cellState c).cluster) && cellCheck a t && haloFits s c t &&
    (!(decide (reason = 1) || decide (reason = 2) || decide (reason = 4)) || ratioAtMost a t (s.oval keyMigrateHigh)) &&
    (!decide (reason = 2) || decide ((s.cluster t).temp ≤ (s.ovalInt keyThermalMigrate 16 - 5) * 8)) &&
    (!decide (reason = 4) || ratioAtMost a t (s.oval keyMigrateLow))

/-- Of two targets, the one preferred: same tile, then lowest ratio, then lowest number (R139). The ratios compared are
those before the cell is added (DESIGN CHOICE, assumption 69). -/
def better (s : State) (home a b : Nat) : Nat :=
  if a / 4 = home / 4 ∧ b / 4 ≠ home / 4 then a
  else if b / 4 = home / 4 ∧ a / 4 ≠ home / 4 then b
  else if ratioLt s b a then b
  else a

/-- The preferred target of a list. -/
def bestOf (s : State) (home : Nat) : List Nat → Option Nat
  | [] => none
  | t :: r => match bestOf s home r with | none => some t | some u => some (better s home t u)

/-- The target chosen for a cell (R139). -/
def chooseTarget (s : State) (c reason : Nat) : Option Nat :=
  bestOf s (s.cellState c).cluster ((List.range (nClusters s.part.variant)).filter fun t => eligible s c t reason)

/-! ## The steps of a migration (R140) -/

/-- A run of a task of the cell is still executing on a cluster. -/
def cellRunsOn (s : State) (c k : Nat) : Bool :=
  s.jobs.any fun j => decide (j.desc.cell = c) && j.tasks.any fun ti => ti.runs.any fun r =>
    decide (r.phase = 1) && decide (r.role = .main) && (match r.place with | some (.core x) => decide (x / 36 = k) | _ => false)

/-- Step 5: the last task on the source has finished (R140). -/
def endMigration (s : State) (c : Nat) : State :=
  match (s.cellState c).migration with
  | some m =>
    if m.switched && !cellRunsOn s c m.source then
      let x := s.cellState c
      (s.setCellSt c { x with migration := none, migrations := min (x.migrations + 1) 65535, lastReason := m.reason
                              lastMove := some s.time.now }).bump keyMigrations 1
    else s
  | none => s

/-- Step 5 of every migration whose source holds no task any more. -/
def endMigrations (s : State) : State := (s.cellSt.map (·.1)).foldl endMigration s

/-- A job of the cell is tested again on the target (R579). Jobs of the cell that are tested after it already count on the
target (DESIGN CHOICE, assumption 69). -/
def retestJob (s : State) (q : Nat) (seq : BitVec 32) : State :=
  match s.job q seq with
  | none => s
  | some j =>
    let unstarted := j.tasks.any fun ti => ti.runs.any fun r => decide (r.phase = 0) || decide (r.phase = 5)
    if j.final || !unstarted then s
    else
      let s := bankAll s
      let best (s : State) (j : Job) : State :=
        let free := s.setJob { j with admission := .none }
        match bestEffortTest free { j with admission := .none } with
        | some p => let t := s.setJob { j with admission := .bestEffort }
                    switchOpp t (jobCluster t j) p
        | none => free
      match j.admission with
      | .guaranteed =>
        let free := s.setJob { j with admission := .none }
        match (oppChoices s (jobCluster s j)).find? fun p =>
            demandAll free j p (s.oval keyUMax) Job.isG && pathTest free j p with
        | some p => switchOpp s (jobCluster s j) p
        | none =>
          let t := chargeSlot s j.desc.cell (slotOfDeadline (s.cell j.desc.cell) j.dl) (-(j.charge : Int))
          let x := t.cellState j.desc.cell
          let t := (t.setCellSt j.desc.cell { x with demoted := x.demoted + 1 }).bump keyAdmitDemoted 1
          best t { j with demoted := true, charge := 0 }
      | .bestEffort => best s j
      | _ => s

/-- Put a job in a list that rises by deadline, then acceptance order. -/
def insertByDl (j : Job) : List Job → List Job
  | [] => [j]
  | i :: r => if j.dl < i.dl ∨ (j.dl = i.dl ∧ j.order < i.order) then j :: i :: r else i :: insertByDl j r

/-- Step 3: the cell stands on the target and its jobs are tested there (R140, R579). -/
def switchCell (s : State) (c : Nat) : State :=
  match (s.cellState c).migration with
  | some m =>
    if m.switched then s
    else
      let t := s.setCellSt c { s.cellState c with cluster := m.target, migration := some { m with switched := true } }
      let js := (t.jobs.filter fun j => decide (j.desc.cell = c) && j.isTimed).foldl (fun l j => insertByDl j l) []
      endMigration (js.foldl (fun t j => retestJob t j.qn j.desc.seq) t) c
  | none => s

/-- Step 1, and for reason 3 with a target awake step 3 at once (R140). -/
def startMigration (s : State) (c target reason : Nat) : State :=
  let t := s.setCellSt c { s.cellState c with
    migration := some { target, reason, startTime := s.time.now, switched := false, source := (s.cellState c).cluster } }
  if reason = 3 ∧ (s.cluster target).gated = false then switchCell t c else t

/-- A cell on a lost cluster whose migration is under way: before step 3 it goes on as a capacity migration, so that step 3
waits for no slot boundary; past step 3 it moves on to another target (R168, R580). -/
def hasten (s : State) (c : Nat) (onward : State → Option Nat) : State :=
  match (s.cellState c).migration with
  | none => s
  | some m =>
    let redirect (l : Nat) : State :=
      let t := s.setCellSt c { s.cellState c with migration := some { m with target := l, reason := 3, switched := false } }
      if (s.cluster l).gated then t else switchCell t c
    if m.switched then match onward s with | some l => redirect l | none => s
    else redirect m.target

/-- A migration whose target was lost or retired before step 3 is abandoned (R580). -/
def abandon (s : State) : State :=
  s.cellSt.foldl (fun t x => match x.2.migration with
    | some m => if !m.switched && !clusterUp s m.target then t.setCellSt x.1 { t.cellState x.1 with migration := none } else t
    | none => t) s

/-! ## Triggers (R138) -/

/-- A cell moved less than MIGRATE_HOLDOFF ago (R138): since step 5 of its last migration of any reason (DESIGN CHOICE,
assumption 69). -/
def heldOff (s : State) (c : Nat) : Bool :=
  match (s.cellState c).lastMove with
  | some t => decide (s.time.now < t + s.oval keyMigrateHoldoff * msNs)
  | none => false

/-- Capacity: move cells of one failing cluster, largest rate first, until the rest passes (R138). -/
def capacityCells (s : State) (k : Nat) : List Nat → State
  | [] => s
  | c :: r =>
    if cellCheck (asArrived s) k ∧ clusterUp s k then s
    else if 4 ≤ nMigrating s then s
    else match chooseTarget s c 3 with
      | some t => capacityCells (startMigration s c t 3) k r
      | none => capacityCells s k r

/-- The cluster with the largest headroom among those in service (R168). -/
def mostHeadroom (s : State) : List Nat → Option Nat
  | [] => none
  | k :: r => match mostHeadroom s r with
    | none => if clusterUp s k then some k else none
    | some l => if clusterUp s k && decide (headroom s l ≤ headroom s k) then some k else some l

/-- Where a cell of a lost island goes: an eligible target, or else the largest headroom (R168). -/
def refuge (s : State) (c : Nat) : Option Nat :=
  match chooseTarget s c 3 with
  | some t => some t
  | none => mostHeadroom s (List.range (nClusters s.part.variant))

/-- No cell stays on a lost island, one that is migrating off it or has been switched to it included, even when 4
migrations are running (R168, R580, assumption 69). -/
def forceCells (s : State) (k : Nat) : State :=
  if clusterUp s k then s
  else (enabledCells s).foldl (fun t c =>
    let x := t.cellState c
    if x.cluster ≠ k then t
    else if x.migration.isSome then hasten t c fun u => refuge u c
    else match refuge t c with
      | some l => startMigration t c l 3
      | none => t) s

/-- Capacity migration leaves a cluster failing: one of its cells finds no eligible target, or none of its own is left to
move (R141, assumption 69). -/
def capacityShort (s : State) (k : Nat) : Bool :=
  let cs := settledCells s k
  !cellCheck s k && !cellCheck (asArrived s) k && (cs.isEmpty || cs.any fun c => (chooseTarget s c 3).isNone)

/-- SHORT clears on every cluster that passes the cell check (R141). -/
def clearShort (s : State) : State :=
  (List.range (nClusters s.part.variant)).foldl (fun (t : State) k =>
    if (t.cluster k).short && cellCheck t k then t.setCluster k { t.cluster k with short := false } else t) s

/-- Capacity migration of every failing cluster, with SHORT (R138, R141, R168). -/
def capacityAll (s : State) : State :=
  let ks := List.range (nClusters s.part.variant)
  let t := ks.foldl (fun t k =>
    if cellCheck t k && clusterUp t k then t else forceCells (capacityCells t k (byRate t (settledCells t k))) k) s
  ks.foldl (fun (t : State) k =>
    let x := t.cluster k
    if !x.short && capacityShort t k then (t.setCluster k { x with short := true }).bump keyCapacityShortEvents 1
    else t) (clearShort t)

/-- The smallest migratable cell whose removal brings the ratio to MIGRATE_HIGH or below, or failing that the largest
(R138). -/
def loadCell (s : State) (k : Nat) : Option Nat :=
  let cs := (byRate s (settledCells s k)).filter fun c => (s.cell c).migratable && !heldOff s c
  let off (c : Nat) : State := { s with cellCfg := kset s.cellCfg c { s.cell c with enable := false } }
  match cs.reverse.find? fun c => ratioAtMost (off c) k (s.oval keyMigrateHigh) with
  | some c => some c
  | none => cs.head?

/-- Load migration of one cluster (R138). -/
def loadMigrate (s : State) (k : Nat) : State :=
  if ratioAtMost (asArrived s) k (s.oval keyMigrateHigh) ∨ 4 ≤ nMigrating s then s
  else match loadCell s k with
    | none => s
    | some c => match chooseTarget s c 1 with
      | some t => startMigration s c t 1
      | none => s

/-- The temperature of a cluster has exceeded THERMAL_MIGRATE for 100 ms (R138). -/
def tooHot (s : State) (k : Nat) : Bool :=
  match (s.cluster k).hotSince with
  | some t => decide (t + 100 * msNs ≤ s.time.now)
  | none => false

/-- Thermal migration of one cluster: the smallest migratable cell that finds a target (R138). -/
def thermalOne (s : State) (k : Nat) : State :=
  if !tooHot s k || decide (4 ≤ nMigrating s) || !tbit (s.oval keyMigrateEnable) 1 then s
  else
    let cs := ((byRate s (settledCells s k)).filter fun c => (s.cell c).migratable && !heldOff s c).reverse
    match cs.find? fun c => (chooseTarget s c 2).isSome with
    | some c => match chooseTarget s c 2 with
      | some t => startMigration s c t 2
      | none => s
    | none => s

/-- Place each cell of a list on a target for consolidation, or none when one does not fit. -/
def placeAll (s : State) : List Nat → Option State
  | [] => some s
  | c :: r => match chooseTarget s c 4 with
    | some t => placeAll (startMigration s c t 4) r
    | none => none

/-- The cluster of lowest ratio that has a cell (R138). -/
def lowestRatio (s : State) : List Nat → Option Nat
  | [] => none
  | k :: r => match lowestRatio s r with
    | none => if (settledCells s k).isEmpty then none else some k
    | some l => if (settledCells s k).isEmpty then some l else if ratioLt s l k then some l else some k

/-- Consolidation: when every cell of the cluster with the lowest ratio fits on other clusters they move, so many at once
as may migrate at once (R138, R139). -/
def consolidate (s : State) : State :=
  if s.overcast.on then s
  else match lowestRatio s (List.range (nClusters s.part.variant)) with
    | none => s
    | some k =>
      let cs := byRate s (settledCells s k)
      if cs.all (fun c => (s.cell c).migratable && !heldOff s c) && (placeAll s cs).isSome then
        (placeAll s (cs.take (4 - nMigrating s))).getD s
      else s

/-- Evaluate migration (R138): capacity always; then thermal, load and consolidation (an order that is a DESIGN CHOICE,
assumption 69) by MIGRATE_ENABLE, and never during a supervisor switch-over (R173). -/
def evalMigration (s : State) : State :=
  let t := capacityAll (abandon s)
  if t.sv.switching.isSome then t
  else
    let ks := List.range (nClusters t.part.variant)
    let t := ks.foldl thermalOne t
    let t := if tbit (t.oval keyMigrateEnable) 0 then ks.foldl loadMigrate t else t
    if tbit (t.oval keyMigrateEnable) 2 then consolidate t else t

/-- What migration depends on and a command may change: U(k), OPP_CEILING and the thermal ceilings (R138). -/
def capacityView (s : State) : Nat × List (Nat × Nat × Bool) :=
  (s.oval keyOppCeiling,
    (List.range (nClusters s.part.variant)).map fun k => (usable s k, (s.cluster k).thermal, clusterUp s k))

/-- After a command: migrations whose source holds no task any more end, migration is evaluated at once when U(k) or a
ceiling changed, SHORT clears where the cell check passes, and Overcast follows (R138, R140, R141, R186); the cell check is
not evaluated in P2 (R534). -/
def settle (before s : State) : State :=
  let t := endMigrations s
  reOvercast (if s.awake = false then t
    else clearShort (if capacityView before = capacityView s then t else evalMigration t))

end Sys2Proof.Machine
end

