-- ==== Sys2Proof/Machine/Mirror.lean ====
section
/-!
DEFINITION. The outgoing mirror stream: its entries, markers and start (R89, R176 to R180).
-/
namespace Sys2Proof.Machine

/-- A buddy is configured (R175, R195). -/
def buddyOn (s : State) : Bool := decide (s.oval keyBuddy ≠ 0xFFFF)

/-- Acknowledge a source's stream up to its expected position, on a port to a peer (R77, R178). -/
def sendAck (s : State) (d p : Nat) (peer : Peer) : State :=
  match s.srcs.find? fun x => decide (x.source = d) with
  | none => s
  | some x =>
    let mark (due : Option (Nat × Peer)) : State :=
      { s with srcs := updWhere (fun y => decide (y.source = d)) (fun y => { y with ackDue := due }) s.srcs }
    if canSend s p then sendFrame (mark none) p peer none 10 false 1 (mirrorAckBody (x.expected - 1))
    else mark (some (p, peer))

/-- The port of one attempt to send an entry: the first takes the home port of the mirror stream, E0 (assumption 67), and
each retry the other port; a port that is down gives way (R105, R175). -/
def mirrorPort (s : State) (tries : Nat) : Nat :=
  if (s.port 0).state = 0 then 1 else if (s.port 1).state = 0 then 0 else if tries = 0 then 0 else 1

/-- An entry can be sent now on the port of its next attempt. -/
def mirrorSends (s : State) (m : MirrorEntry) : Bool := portSends s (mirrorPort s m.tries)

/-- Send the unacknowledged entries that are due, at most 124 that follow one another and take one port to a frame (R68,
R77). What its port cannot send now is held until it can (R96, R105). -/
def sendMirror (s : State) (due : MirrorEntry → Bool) : State :=
  let x := s.mirrorTx
  let go := x.unacked.filter fun m => due m && mirrorSends s m
  let sent (m : MirrorEntry) : MirrorEntry :=
    if due m then (if mirrorSends s m then { m with sent := s.time.now, tries := m.tries + 1, held := false }
      else { m with sent := s.time.now, held := true }) else m
  (shareRuns (fun a b => decide (a.pos + 1 = b.pos) && decide (mirrorPort s a.tries = mirrorPort s b.tries)) 124 go).foldl
    (fun t g => match g with
      | [] => t
      | e :: _ =>
        let p := mirrorPort s e.tries
        sendFrame t p (buddyPeer t p) none 9 false g.length (mirrorBody e.pos (g.map (·.entry))))
    { s with mirrorTx := { x with unacked := x.unacked.map sent, lastSend := s.time.now } }

/-- Send everything unacknowledged; each entry's resend time starts again (R178). -/
def resendMirror (s : State) : State := sendMirror s fun _ => true

/-- Put an entry at the end of the stream and send it, while the buddy is configured and reachable (R89, R178). -/
def mirrorPut (s : State) (e : JEntry) : State :=
  if buddyOn s && s.mirrorTx.reachable then
    let m : MirrorEntry := { pos := s.mirrorTx.nextPos, entry := e.sealed, sent := s.time.now, tries := 0, held := false }
    let x := s.mirrorTx
    let t := { s with mirrorTx := { x with
      nextPos := x.nextPos + 1, unacked := x.unacked ++ [m], lastSend := s.time.now
      sentAt := if x.unacked.isEmpty then s.time.now else x.sentAt, tries := if x.unacked.isEmpty then 0 else x.tries } }
    sendMirror t fun y => decide (y.pos = m.pos)
  else s

/-- A marker entry. Its body is held in the wire order that the CRC and the MIRROR frame take: each multi-byte field is
big-endian at its offset, addresses among them (R2, R56, R77, R177). -/
def markerEntry (b : List Byte) : JEntry :=
  { kind := 7, started := false, sqid := 0, seq := 0, crc := 0, body := .marker ((slice b 0 64).map (·.toNat)) }

/-- RELEASE marker (R177). -/
def releaseMarker (q : Nat) (first last : BitVec 32) (bitmap : Nat) : JEntry :=
  markerEntry ([1, 0] ++ beBytes 2 q ++ beBytes 4 first.toNat ++ beBytes 4 last.toNat ++ fill 4 0 ++ beBytes 32 bitmap)

/-- ACK marker (R177). -/
def ackMarker (q : Nat) (seq : BitVec 32) : JEntry := markerEntry ([2, 0] ++ beBytes 2 q ++ beBytes 4 seq.toNat)

/-- CELL marker (R177). -/
def cellMarker (c : Nat) (x : CellCfg) : JEntry :=
  markerEntry ([3, 0] ++ beBytes 2 c ++ [if x.enable then 1 else 0, 0, 0, 0] ++ beBytes 8 x.epochOffset ++ beBytes 4 x.epochPeriod)

/-- IDENTITY marker (R177). The bytes of an IPv6 address stand in the order of their object (assumption 67). -/
def identityMarker (s : State) : JEntry :=
  markerEntry ([4, 0, BitVec.ofNat 8 (s.oval keyMirrorMode % 2), 0] ++ beBytes 4 s.epoch
    ++ beBytes 6 (s.oval (keyPortMac 0)) ++ beBytes 6 (s.oval (keyPortMac 1))
    ++ beBytes 4 (s.oval (keyPortIpv4 0)) ++ beBytes 4 (s.oval (keyPortIpv4 1))
    ++ s.domBytes (keyPortIpv6 0) 0 16 ++ s.domBytes (keyPortIpv6 1) 0 16)

/-- DORMANT marker (R526). -/
def dormantMarker : JEntry := markerEntry [6]

/-- Keep-alive marker (R177). -/
def keepAlive : JEntry := markerEntry []

/-- The mirrored form of a job's ACCEPT entry with EPOCH_K (R176). -/
def mirrorAccept (s : State) (j : Job) : JEntry :=
  let k := match j.deadline with
    | some d => if j.desc.timed then
        let x := s.cell j.desc.cell
        (((d - 8 * j.desc.deadline - x.epochOffset) / x.period) % 4096).toNat else 0
    | none => 0
  { acceptEntry j with kind := 4, body := .accept j.desc k }

/-- The mirrored form of a COMMIT or FINAL entry (R176). -/
def mirrorFinal (e : JEntry) : JEntry := { e with kind := if e.kind = 2 then 5 else 6 }

/-- The journal entries of a job, mirrored. -/
def mirrorJob (s : State) (j : Job) : State :=
  if j.buddyOf.isSome then s
  else match j.finalSlot with
    | some n => match kget s.ja n with
      | some e => mirrorPut s (mirrorFinal e)
      | none => s
    | none => mirrorPut s (mirrorAccept s j)

/-- A released job's RELEASE marker of one record. -/
def mirrorRelease (s : State) (j : Job) : State :=
  match j.record with
  | some r => if j.released then mirrorPut s (releaseMarker j.desc.sqid j.desc.seq j.desc.seq (b2n r.lateRelease)) else s
  | none => s

/-- Start a new stream: IDENTITY at position 0, then the whole journal and all markers (R178). -/
def startStream (s : State) : State :=
  if buddyOn s then
    let t := { s with mirrorTx := { s.mirrorTx with
      nextPos := 0, acked := 0xFFFFFFFF, unacked := [], tries := 0, reachable := true, lastAck := s.time.now } }
    let t := mirrorPut t (identityMarker t)
    let t := (enabledCells t).foldl (fun t c => mirrorPut t (cellMarker c (t.cell c))) t
    let t := t.queues.foldl (fun t x => if x.2.enable && decide (x.1 < 4096) then mirrorPut t (ackMarker x.1 x.2.ackSeq) else t) t
    let t := t.jobs.foldl mirrorJob t
    t.jobs.foldl mirrorRelease t
  else s

/-- An unacknowledged entry is the RELEASE marker that covers a record (R179). -/
def coversRelease (q : Nat) (seq : BitVec 32) (m : MirrorEntry) : Bool :=
  match m.entry.body with
  | .marker b =>
    decide (nth0 b 0 = 1) && decide (256 * nth0 b 2 + nth0 b 3 = q)
      && decide (BitVec.ofNat 32 (beNat ((b.drop 4 |>.take 4).map (BitVec.ofNat 8))) = seq)
  | _ => false

/-- A record may be transmitted: its RELEASE marker, if one was sent, has been acknowledged (R179). -/
def mirroredReleased (s : State) (q : Nat) (seq : BitVec 32) : Bool :=
  !s.mirrorTx.unacked.any (coversRelease q seq)

/-- An unacknowledged entry is the mirrored ACCEPT entry of a job. -/
def coversAccept (q : Nat) (seq : BitVec 32) (m : MirrorEntry) : Bool :=
  decide (m.entry.kind = 4) && decide (m.entry.sqid = q) && decide (m.entry.seq = seq)

end Sys2Proof.Machine
end

