-- ==== Sys2Proof/Machine/Anvil.lean ====
section
/-!
DEFINITION. Fronthaul versions in Anvil: absolute slots, layouts, holding, buffers, sealing and release (R364, R365,
R376, R381 to R388).
-/
namespace Sys2Proof.Machine

/-! ## Records of DOMAIN objects -/

/-- Record i of n bytes of a DOMAIN object, as a number. -/
def domRec (s : State) (key n i : Nat) : Nat := s.domNat key (n * i) n

/-- A number rounded up to a multiple of 64. -/
def up64 (n : Nat) : Nat := (n + 63) / 64 * 64

/-- Record of FH_CELL (R384). -/
def fhCell (s : State) (c : Nat) : Nat := domRec s keyFhCell 8 c
/-- FH_CELL ENABLE. -/
def fhEnable (v : Nat) : Bool := tbit v 63
/-- FH_CELL COMP. -/
def fhComp (v : Nat) : Nat := bits v 62 60
/-- FH_CELL PORTS. -/
def fhPorts (v : Nat) : Nat := bits v 59 51
/-- FH_CELL NRB. -/
def fhNrb (v : Nat) : Nat := bits v 50 42
/-- FH_CELL RX_POOL. -/
def fhRxPool (v : Nat) : Nat := bits v 41 34
/-- FH_CELL RETAIN_SLOTS. -/
def fhRetain (v : Nat) : Nat := bits v 33 30
/-- FH_CELL LINK. -/
def fhLink (v : Nat) : Nat := bits v 29 23

/-- Record of TD_CONTAINERS (R376), by 128g + c. -/
def tdCont (s : State) (i : Nat) : Nat := domRec s keyTdContainers 16 i
/-- TD_CONTAINERS RX_EN. -/
def tdRxEn (v : Nat) : Bool := tbit v 127
/-- TD_CONTAINERS TX_EN. -/
def tdTxEn (v : Nat) : Bool := tbit v 126
/-- TD_CONTAINERS CELL. -/
def tdCell (v : Nat) : Nat := bits v 123 112
/-- TD_CONTAINERS TD_OFFSET. -/
def tdOffset (v : Nat) : Nat := bits v 111 96
/-- TD_CONTAINERS TD_BITS. -/
def tdBits (v : Nat) : Nat := bits v 95 80
/-- TD_CONTAINERS RATE_NUM. -/
def tdNum (v : Nat) : Nat := bits v 79 48
/-- TD_CONTAINERS RATE_DEN. -/
def tdDen (v : Nat) : Nat := bits v 47 32
/-- TD_LANDING RX_POOL of a container (R386). -/
def tdRxPool (s : State) (i : Nat) : Nat := bits (domRec s keyTdLanding 8 i) 63 56
/-- TD_LANDING TX_POOL of a container (R386). -/
def tdTxPool (s : State) (i : Nat) : Nat := bits (domRec s keyTdLanding 8 i) 55 48

/-- Record of LINK_CONFIG (R375). -/
def linkCfg (s : State) (g : Nat) : Nat := domRec s keyLinkConfig 16 g
/-- LATE_MAX of the link that carries a cell; a virtual link has none stated (assumption 14). -/
def lateMax (s : State) (link : Nat) : Nat := if link < 4 then bits (linkCfg s link) 95 64 else Config.ecpriLateMax
/-- TX_ADVANCE of a link (R375); a virtual link has none stated (assumption 14). -/
def txAdvance (s : State) (link : Nat) : Nat := if link < 4 then bits (linkCfg s link) 31 0 else Config.ecpriTxAdvance

/-! ## Absolute slots (R116, R383) -/

/-- Slots in one epoch. -/
def spe (x : CellCfg) : Nat := (x.epochPeriod * 1000 + x.slotNs - 1) / x.slotNs

/-- Start of an absolute slot. -/
def slotStart (x : CellCfg) (a : Int) : Int :=
  x.epochOffset + a / spe x * x.period + a % spe x * x.slotNs

/-- End of an absolute slot: the last of an epoch is cut short (R116). -/
def slotEnd (x : CellCfg) (a : Int) : Int :=
  min (slotStart x a + x.slotNs) (x.epochOffset + (a / spe x + 1) * x.period)

/-- The absolute slot that contains an instant, closed at its start (R364). -/
def slotAt (x : CellCfg) (t : Int) : Int :=
  let k := (t - x.epochOffset) / x.period
  k * spe x + (t - x.epochOffset - k * x.period) / x.slotNs

/-- The absolute slot with a tag whose start lies nearest an instant, the later on a tie (R383). -/
def slotByTag (x : CellCfg) (tag : Nat) (t : Int) : Int :=
  let s0 := slotAt x t
  let a := s0 - (s0 - tag) % 4096
  if slotStart x (a + 4096) - t ≤ t - slotStart x a then a + 4096 else a

/-- The absolute slot of slot n in the epoch nearest an instant (R355 SLOT). -/
def slotOfN (x : CellCfg) (n : Nat) (t : Int) : Int :=
  let base : Int := x.epochOffset + n * x.slotNs
  let k := (t - base) / x.period
  let d1 := base + k * x.period
  if d1 + x.period - t ≤ t - d1 then (k + 1) * spe x + n else k * spe x + n

/-! ## Versions -/

/-- Cell of a fronthaul version. -/
def fhvCell (s : State) (v : FhVersion) : Nat := if v.container then tdCell (tdCont s v.id) else v.id

/-- Link of a fronthaul version: LINK of its cell, or the link of its container. -/
def fhvLink (s : State) (v : FhVersion) : Nat := if v.container then v.id / 128 else fhLink (fhCell s v.id)

/-- Sealing instant: LATE_MAX after the slot ends (R364). -/
def sealAt (s : State) (v : FhVersion) : Int :=
  slotEnd (s.cell (fhvCell s v)) v.slot + lateMax s (fhvLink s v)

/-- End of the retention period after sealing (R387). -/
def retainUntil (s : State) (v : FhVersion) : Nat :=
  v.sealTime + fhRetain (fhCell s (fhvCell s v)) * (s.cell (fhvCell s v)).slotNs

/-- Index of the first sample at or after an instant of an epoch (R351, R386). -/
def firstSample (c : Nat) (rel : Int) : Nat :=
  ((rel.toNat * tdNum c) + tdDen c * secNs - 1) / (tdDen c * secNs)

/-- FIRST_SAMPLE and SAMPLES of a container version (R386). -/
def sampleRange (s : State) (id : Nat) (a : Int) : Nat × Nat :=
  let c := tdCont s id
  let x := s.cell (tdCell c)
  let e : Int := x.epochOffset + a / spe x * x.period
  if tdDen c = 0 then (0, 0)
  else
    let f := firstSample c (slotStart x a - e)
    (f, firstSample c (slotEnd x a - e) - f)

/-- Samples of a container in one epoch of its cell. -/
def samplesPerEpoch (s : State) (id : Nat) : Nat := firstSample (tdCont s id) (s.cell (tdCell (tdCont s id))).period

/-- Bytes of one resource-block group by COMP code (R355, R356, R385). -/
def groupBytes (comp : Nat) : Nat := match comp with | 0 => 48 | 1 => 25 | 2 => 28 | 3 => 37 | _ => 49

/-- R: bytes of a row (R385). -/
def rowBytes (v : Nat) : Nat := up64 (fhNrb v * groupBytes (fhComp v))

/-- M: bytes of the absence map of a frequency-domain version (R385). -/
def fdMapBytes (v : Nat) : Nat := up64 ((fhPorts v * 14 * fhNrb v + 7) / 8)

/-- Bytes of a frequency-domain version (R385). -/
def fdBytes (v : Nat) : Nat := 64 + fdMapBytes v + fhPorts v * 14 * rowBytes v

/-- Bytes of the absence map of a container version (R386). -/
def tdMapBytes (n : Nat) : Nat := up64 (((n + 15) / 16 + 7) / 8)

/-- Bytes of a container version of n samples (R386). -/
def tdBytes (n : Nat) : Nat := 64 + tdMapBytes n + 4 * n

/-- Bytes of a fronthaul version. -/
def fhvBytes (s : State) (v : FhVersion) : Nat :=
  if v.container then tdBytes (sampleRange s v.id v.slot).2 else fdBytes (fhCell s v.id)

/-- Receive pool of a version by its kind. -/
def fhvPool (s : State) (container : Bool) (id : Nat) : Nat :=
  if container then tdRxPool s id else fhRxPool (fhCell s id)

/-- A fronthaul version by kind, number and slot. -/
def fhFind (s : State) (container : Bool) (id : Nat) (a : Int) : Option (Nat × FhVersion) :=
  s.fh.vers.find? fun x => decide (x.2.container = container) && decide (x.2.id = id) && decide (x.2.slot = a)

/-- Replace a fronthaul version. -/
def setFhv (s : State) (n : Nat) (v : FhVersion) : State := { s with fh := { s.fh with vers := kset s.fh.vers n v } }

/-- A new fronthaul version; a released one of the same tag is forgotten. -/
def newFhv (s : State) (container : Bool) (id : Nat) (a : Int) : State :=
  let keep := s.fh.vers.filter fun x =>
    !(decide (x.2.container = container) && decide (x.2.id = id) && decide (x.2.slot % 4096 = a % 4096) && x.2.released
      && x.2.pins.isEmpty)
  let v : FhVersion :=
    { container, id, slot := a, pool := fhvPool s container id, phys := none, sealed := false, sealTime := 0
      expected := if container && tdRxEn (tdCont s id) then List.range (sampleRange s id a).2 else []
      landed := [], sections := 0, overflow := false, released := false, expired := false, damaged := false
      pins := [] }
  { s with fh := { s.fh with vers := kset keep s.fh.nextVer v, nextVer := s.fh.nextVer + 1 } }

/-- The number of a version, making it when there is none. -/
def getFhv (s : State) (container : Bool) (id : Nat) (a : Int) : State × Nat :=
  match fhFind s container id a with
  | some (n, _) => (s, n)
  | none => (newFhv s container id a, s.fh.nextVer)

/-- Free usable buffers of an Anvil pool in one quarter. -/
def freeInQuarter (s : State) (p q : Nat) : List Nat :=
  let x := s.pool p
  (x.avail ++ (List.range (poolPhys s p - x.fresh)).map (x.fresh + ·)).filter fun i =>
    physUsable s p i && decide (quarterOf (physAddr s p i) = q)

/-- The quarter with the most free buffers, the lowest-numbered on a tie (R387). -/
def bestQuarter (s : State) (p : Nat) : Nat :=
  (List.range 4).foldl (fun b q => if (freeInQuarter s p b).length < (freeInQuarter s p q).length then q else b) 0

/-- Give a version that expects anything its buffer (R387); without a free one it overflows and is absent (R388). -/
def takeFhBuf (s : State) (n : Nat) : State :=
  match kget s.fh.vers n with
  | none => s
  | some v =>
    if v.phys.isSome ∨ v.overflow ∨ v.released ∨ v.expected.isEmpty then s
    else match (freeInQuarter s v.pool (bestQuarter s v.pool)).head? with
      | some i => setFhv (takePhys s v.pool i) n { v with phys := some i }
      | none => (setFhv s n { v with overflow := true }).bump keyLandingOverflows 1

/-- The device address of a version's buffer. -/
def fhvAddr (s : State) (v : FhVersion) : Option Nat := v.phys.map fun i => physAddr s v.pool i

/-- A job comes to hold the version that its handle names (R383, R388). -/
def holdFhv (s : State) (h order : Nat) : State × VerRef :=
  let role := poolRole s (hPool h)
  let container := decide (role = 3)
  let id := if container then hIndex h / 4096 % 512 else hIndex h / 4096
  let cell := if container then tdCell (tdCont s id) else id
  let a := slotByTag (s.cell cell) (hIndex h % 4096) s.time.now
  let (t, n) := getFhv s container id a
  match kget t.fh.vers n with
  | none => (s, .absent)
  | some v =>
    if v.released then
      (if v.expired then t else (setFhv t n { v with expired := true }).bump keyVersionsExpired 1, .absent)
    else
      let v1 := if !v.sealed && decide (sealAt t v ≤ t.time.now) && v.expected.isEmpty then
        { v with sealed := true, sealTime := (sealAt t v).toNat } else v
      (setFhv t n { v1 with pins := v1.pins ++ [order] }, .fh n)

/-- The retention period of a sealed version that nothing expects or holds has no buffer to return (R387). -/
def releaseFhv (s : State) (n : Nat) : State :=
  match kget s.fh.vers n with
  | none => s
  | some v =>
    let t := setFhv s n { v with released := true, phys := none }
    match v.phys with
    | some i => givePhys t v.pool i
    | none => t

/-- A job no longer holds a version. -/
def unholdFhv (s : State) (n order : Nat) : State :=
  match kget s.fh.vers n with
  | none => s
  | some v =>
    let v1 := { v with pins := v.pins.erase order }
    let t := setFhv s n v1
    if v1.pins.isEmpty && v1.sealed && !v1.released && decide (retainUntil s v1 ≤ s.time.now) && v1.phys.isSome then
      releaseFhv t n else t

/-! ## Sealing (R364, R365, R385, R386) -/

/-- Items expected and not landed. -/
def fhvMissing (v : FhVersion) : List Nat := v.expected.filter fun j => !v.landed.contains j

/-- The version is absent in the sense of R37: it found no buffer, or none of its memory is left. -/
def fhvAbsent (v : FhVersion) : Bool := v.overflow

/-- Any absence bit of the version is set (R365). -/
def fhvIncomplete (v : FhVersion) : Bool := !(fhvMissing v).isEmpty

/-- Header of a version (R385, R386). -/
def fhvHeader (s : State) (v : FhVersion) (sealTime : Nat) : List Byte :=
  let flags := 1 + 2 * b2n v.expected.isEmpty
  let comp := if v.container then 0 else fhComp (fhCell s v.id)
  let tail :=
    if v.container then
      let r := sampleRange s v.id v.slot
      leBytes 12 0 ++ leBytes 8 r.1 ++ leBytes 4 r.2 ++ fill 16 0
    else leBytes 4 v.expected.length ++ leBytes 4 (fhvMissing v).length ++ leBytes 4 v.sections ++ fill 28 0
  leBytes 2 (fhvCell s v) ++ leBytes 1 comp ++ leBytes 1 flags ++ fill 4 0 ++ leBytes 8 (unsgn 64 v.slot)
    ++ leBytes 8 sealTime ++ tail

/-- Bytes of an absence map with the given bits set, packed under R283: bit j in byte j div 8, most significant first. -/
def mapBytes (n : Nat) (set : List Nat) : List Byte :=
  (List.range n).map fun i =>
    BitVec.ofNat 8 (((List.range 8).map fun b => if set.contains (8 * i + b) then 2 ^ (7 - b) else 0).sum)

/-- Write bytes to a buffer of Anvil by the fronthaul path. -/
def landBytes (s : State) (a : Nat) (b : List Byte) : State := (devWrite s a b).1

/-- Offset of a resource-block group in a frequency-domain version (R385). -/
def fdOffset (v j : Nat) : Nat := 64 + fdMapBytes v + j / fhNrb v * rowBytes v + j % fhNrb v * groupBytes (fhComp v)

/-- Seal a version: zeros for what did not land, the map and the header (R365). -/
def sealFhv (s : State) (n : Nat) : State :=
  match kget s.fh.vers n with
  | none => s
  | some v =>
    if v.sealed then s
    else
      let miss := fhvMissing v
      let s0 := if v.container then takeFhBuf s n else s
      let v0 := (kget s0.fh.vers n).getD v
      let t := setFhv s0 n { v0 with sealed := true, sealTime := s.time.now }
      match fhvAddr t v0 with
      | none => t
      | some a =>
        if v.expected.isEmpty then t
        else if v.container then
          let m := tdMapBytes (sampleRange s v.id v.slot).2
          let t := miss.foldl (fun t j => landBytes t (a + 64 + m + 4 * j) [0, 0, 0, 0]) t
          landBytes t a (fhvHeader s v s.time.now ++ mapBytes m (miss.map (· / 16)))
        else
          let c := fhCell s v.id
          let rest := (List.range (fhPorts c * 14 * fhNrb c)).filter fun j => !v.landed.contains j
          let t := rest.foldl (fun t j => landBytes t (a + fdOffset c j) (fill (groupBytes (fhComp c)) 0)) t
          let pad := rowBytes c - fhNrb c * groupBytes (fhComp c)
          let t := (List.range (fhPorts c * 14)).foldl (fun t r =>
            landBytes t (a + 64 + fdMapBytes c + (r + 1) * rowBytes c - pad) (fill pad 0)) t
          landBytes t a (fhvHeader s v s.time.now ++ mapBytes (fdMapBytes c) miss)

/-- What a task reads of a fronthaul version that has no buffer: a sealed empty version (R387). -/
def fhvVirtual (s : State) (v : FhVersion) : List Byte := fhvHeader s v v.sealTime

end Sys2Proof.Machine
end

