-- ==== Sys2Proof/Machine/Sections.lean ====
section
/-!
DEFINITION. Sections: their headers, the expectations of control sections and the transmit queues (R354 to R357, R364,
R390, R391).
-/
namespace Sys2Proof.Machine

/-- The fields of a section header (R355). -/
structure SecHdr where
  kind : Nat
  comp : Nat
  cell : Nat
  port : Nat
  symbol : Nat
  slot : Nat
  first : Nat
  num : Nat
  deriving DecidableEq, Repr

/-- The fields that 16 bytes spell. -/
def secHdr (b : List Byte) : SecHdr :=
  let v := beNat b
  { kind := bits v 127 124, comp := bits v 123 121, cell := bits v 119 108, port := bits v 107 100
    symbol := bits v 99 96, slot := bits v 95 64, first := bits v 63 52, num := bits v 51 40 }

/-- HDR_CRC covers header bits [127:16] with the parameters of R350 (R355). -/
def secCrcOk (b : List Byte) : Bool := decide (beNat (b.drop 14) = (crc16 (b.take 14)).toNat)

/-- Every field of a header is in range and no code is reserved; a pad, which names no blocks, has NUM_RB 0 (R355 to R357). -/
def secFieldsOk (s : State) (h : SecHdr) : Bool :=
  decide (h.kind ≤ 2) && decide (h.comp ≤ 4) && decide (h.cell ≤ 4094) && (decide (h.kind = 0) || decide (1 ≤ h.num))
    && decide (h.num ≤ 275) && decide (h.first + h.num ≤ 275)
    && (decide (h.symbol ≤ 13) || (decide (h.symbol = 15) && decide (h.kind = 2))) && decide (h.slot < spe (s.cell h.cell))

/-- A header is valid (R357). -/
def secValid (s : State) (b : List Byte) : Bool := decide (b.length = 16) && secCrcOk b && secFieldsOk s (secHdr b)

/-- Bytes of a whole section (R356). -/
def secLength (h : SecHdr) : Nat := if h.kind = 1 then 16 + (h.num * groupBytes h.comp + 15) / 16 * 16 else 16

/-- Symbols that a section names (R355). -/
def secSymbols (h : SecHdr) : List Nat := if h.symbol = 15 then List.range 14 else [h.symbol]

/-- Bits of the absence map that a section names in its cell's version (R385). -/
def secBits (v : Nat) (h : SecHdr) : List Nat :=
  if fhPorts v ≤ h.port then []
  else (secSymbols h).flatMap fun y => ((List.range h.num).filter fun i => decide (h.first + i < fhNrb v)).map fun i =>
    (h.port * 14 + y) * fhNrb v + h.first + i

/-- A control section's expectations are recorded for its version, which takes a buffer (R364, R387, R390). -/
def expectSection (s : State) (h : SecHdr) : State :=
  let c := fhCell s h.cell
  let a := slotOfN (s.cell h.cell) h.slot s.time.now
  let bs := secBits c h
  if bs.isEmpty then s
  else
    let (t, n) := getFhv s false h.cell a
    match kget t.fh.vers n with
    | none => t
    | some v =>
      if v.sealed then t
      else takeFhBuf (setFhv t n { v with expected := v.expected ++ bs.filter fun j => !v.expected.contains j }) n

/-! ## Transmit queues (R390, R391) -/

/-- A section goes before another by its slot's start, symbol, kind and commit order (R391). -/
def txBefore (a b : TxSection) : Bool :=
  if a.slotStart ≠ b.slotStart then decide (a.slotStart < b.slotStart)
  else if a.symbol ≠ b.symbol then decide (a.symbol < b.symbol)
  else if a.control ≠ b.control then a.control
  else decide (a.order < b.order)

/-- Put a section in its queue, behind those it does not precede. -/
def txInsert (x : TxSection) : List TxSection → List TxSection
  | [] => [x]
  | y :: r => if txBefore x y then x :: y :: r else y :: txInsert x r

/-- Queue one valid section of a committed version. -/
def queueSection (s : State) (order ver : Nat) (h : SecHdr) (b : List Byte) : State :=
  let c := s.cell h.cell
  let link := fhLink (fhCell s h.cell)
  let x : TxSection :=
    { slotStart := slotStart c (slotOfN c h.slot s.time.now), symbol := if h.symbol = 15 then 0 else h.symbol
      control := decide (h.kind = 2), order, ver, bytes := b }
  let t := { s with fh := { s.fh with txq := kset s.fh.txq link (txInsert x (kgetD s.fh.txq link [])) } }
  if h.kind = 2 then expectSection t h else t

/-- Read a committed output of so many bytes at an address as a section stream and queue its sections. A section of no
enabled cell, one that runs beyond the output, or one that memory does not give back, is counted and left out; after a
header that is not valid, or that cannot be read, no further section can be told apart (R390, R413, assumption 15). -/
def queueSections (s : State) (order ver a len : Nat) : Nat → State
  | 0 => s
  | n + 1 =>
    if len = 0 then s
    else match devRead s 6 a (min 16 len) with
      | (t, .err _ _) => t.bump keyTxSectionsInvalid 1
      | (t, .ok hb) =>
        let h := secHdr hb
        let m := secLength h
        if !secValid t hb then t.bump keyTxSectionsInvalid 1
        else if len < m then t.bump keyTxSectionsInvalid 1
        else if h.kind = 0 then queueSections t order ver (a + m) (len - m) n
        else match devRead t 6 (a + 16) (m - 16) with
          | (u, .err _ _) => queueSections (u.bump keyTxSectionsInvalid 1) order ver (a + m) (len - m) n
          | (u, .ok b) =>
            if !fhEnable (fhCell u h.cell) then queueSections (u.bump keyTxSectionsInvalid 1) order ver (a + m) (len - m) n
            else queueSections (queueSection u order ver h (hb ++ b)) order ver (a + m) (len - m) n

/-- A section of a version still waits in a transmit queue. -/
def txHolds (s : State) (ver : Nat) : Bool := s.fh.txq.any fun q => q.2.any fun x => decide (x.ver = ver)

end Sys2Proof.Machine
end

