-- ==== Sys2Proof/Machine/Versions.lean ====
section
/-!
DEFINITION. Versions of handles: the handle map, pins, superseding, staging and what a job's inputs hold (R34 to R39,
R62, R92, R170, R382, R383, R388, R390).
-/
namespace Sys2Proof.Machine

/-- Replace a version. -/
def setVer (s : State) (n : Nat) (v : Version) : State := { s with vers := kset s.vers n v }

/-- Versions of a handle without data that a later one follows: no later job reads them (R35, R36). -/
def dropStale (s : State) (h order : Nat) : State :=
  let stale (v : Version) : Bool :=
    decide (v.handle = h) && decide (v.order < order) && (decide (v.st = .absent) || decide (v.st = .lost))
  { s with vers := (s.vers.filter fun x => !(stale x.2 && x.2.pins.isEmpty)).map fun x =>
      (x.1, if stale x.2 then { x.2 with superseded := true } else x.2) }

/-- Add a version under the next number. -/
def addVer (s : State) (v : Version) : State :=
  let t := dropStale s v.handle v.order
  { t with vers := kset t.vers t.nextVer v, nextVer := t.nextVer + 1 }

/-- A version that holds a physical buffer; one lost at a restart holds none, because its pool starts anew (R62). -/
def Version.hasBuf (v : Version) : Bool :=
  match v.st with | .valid | .damaged => true | _ => false

/-- Reservations of retired jobs end when no version they superseded is pinned (R92). -/
def settleLinger (s : State) : State :=
  let alive (l : List Nat) : Bool := l.any fun n => match kget s.vers n with | some v => !v.pins.isEmpty | none => false
  { s with
    rReserved := s.rReserved - ((s.rLinger.filter fun x => !alive x.2).map (·.1)).sum
    rLinger := s.rLinger.filter fun x => alive x.2 }

/-- A superseded version that nothing pins returns its buffer to the shadow set (R39). -/
def reclaim (s : State) (n : Nat) : State :=
  match kget s.vers n with
  | none => s
  | some v =>
    if v.superseded && v.pins.isEmpty then
      let t := { s with vers := kdel s.vers n }
      settleLinger (if v.hasBuf then givePhys t (hPool v.handle) v.phys else t)
    else s

/-- Pin a version for a job (R38). -/
def pin (s : State) (n order : Nat) : State :=
  match kget s.vers n with
  | none => s
  | some v => setVer s n { v with pins := v.pins ++ [order] }

/-- Release one pin. -/
def unpin (s : State) (n order : Nat) : State :=
  match kget s.vers n with
  | none => s
  | some v => settleLinger (reclaim (setVer s n { v with pins := v.pins.erase order }) n)

/-- The handle's version as it stands; a handle never written has its first buffer, and in a pool of role 2 or 4 none
(R33, R35, R382). -/
def touchHandle (s : State) (h : Nat) : State × Option Nat :=
  match kget s.hmap h with
  | some n => (s, some n)
  | none =>
    if noHandleBuffers s (hPool h) then (s, none)
    else
      let t := addVer s
        { handle := h, phys := hIndex h, len := (poolCfg s (hPool h)).size
          st := if physUsable s (hPool h) (hIndex h) then .valid else .damaged
          order := 0, superseded := false, pins := [] }
      ({ t with hmap := kset t.hmap h s.nextVer }, some s.nextVer)

/-- Of two versions the one made by the later job. -/
def laterVer (a b : Nat × Version) : Nat × Version := if a.2.order < b.2.order then b else a

/-- The version of a handle made by its last writer up to an acceptance order, also one that the writer left absent or that
a restart lost (R35, R36, assumption 61). -/
def writerVer (s : State) (h order : Nat) : Option (Nat × Version) :=
  ((s.vers.filter fun x => decide (x.2.handle = h) && decide (x.2.order ≤ order)).foldl
    (fun (b : Option (Nat × Version)) x => match b with | none => some x | some y => some (laterVer y x)) none)

/-- The version that a job accepted with an order reads for a handle, pinned (R35, R38, R383). -/
def resolveInput (s : State) (h order : Nat) : State × VerRef :=
  if poolRole s (hPool h) = 1 ∨ poolRole s (hPool h) = 3 then holdFhv s h order
  else match writerVer s h order with
    | some (n, _) => (pin s n order, .pool n)
    | none => match touchHandle s h with
      | (t, some n) => (pin t n order, .pool n)
      | (t, none) => (t, .zeros)

/-- A job no longer holds what it read. -/
def releaseInput (s : State) (order : Nat) : Option VerRef → State
  | some (.pool n) => unpin s n order
  | some (.fh n) => unholdFhv s n order
  | _ => s

/-- A new version becomes its handle's version unless a later job has already written the handle (R35, R38); the
version it supersedes is answered. -/
def installVersion (s : State) (n : Nat) : State × Option Nat :=
  match kget s.vers n with
  | none => (s, none)
  | some v =>
    let (t, cur) := touchHandle s v.handle
    match cur with
    | none => ({ t with hmap := kset t.hmap v.handle n }, none)
    | some c =>
      match kget t.vers c with
      | none => ({ t with hmap := kset t.hmap v.handle n }, none)
      | some w =>
        if w.order ≤ v.order then
          (reclaim (setVer { t with hmap := kset t.hmap v.handle n } c { w with superseded := true }) c, some c)
        else (reclaim (setVer t n { v with superseded := true }) n, none)

/-- A version whose last section has been sent or discarded returns its buffer, and its handle reads as zeros
(R390). -/
def retireSent (s : State) (n : Nat) : State :=
  if txHolds s n then s
  else match kget s.vers n with
    | none => s
    | some v =>
      let t := if kget s.hmap v.handle = some n then { s with hmap := kdel s.hmap v.handle } else s
      reclaim (setVer t n { v with pins := v.pins.erase 0, superseded := true }) n

/-! ## What an input holds -/

/-- How an input stands (R36, R37, R62, R170, R365). -/
inductive InSt where
  | wait | ok | absent | lost | damaged
  deriving DecidableEq, Repr

/-- How what a job reads stands. -/
def refState (s : State) : VerRef → InSt
  | .absent => .absent
  | .zeros => .ok
  | .lost => .lost
  | .pool n =>
    match kget s.vers n with
    | none => .absent
    | some v => match v.st with
      | .pending => .wait | .valid => .ok | .absent => .absent | .lost => .lost | .damaged => .damaged
  | .fh n =>
    match kget s.fh.vers n with
    | none => .absent
    | some v =>
      if v.damaged then .damaged
      else if v.overflow then .absent
      else if !v.sealed then .wait
      else if fhvIncomplete v then .absent
      else .ok

/-- Where an input is read: device address, bytes, extent of its buffer, and what it reads when it has no buffer. -/
structure InputAt where
  addr : Nat
  len : Nat
  extent : Nat
  virt : Option (List Byte)
  deriving DecidableEq, Repr

/-- Where a job's input is read. An input with no buffer reads its virtual bytes and then zeros (R37, R382, R387). -/
def inputAt (s : State) (h : Nat) : VerRef → InputAt
  | .pool n =>
    match kget s.vers n with
    | some v =>
      let size := (poolCfg s (hPool v.handle)).size
      if v.hasBuf then { addr := physAddr s (hPool v.handle) v.phys, len := v.len, extent := size, virt := none }
      else { addr := 0, len := size, extent := size, virt := some [] }
    | none => { addr := 0, len := (poolCfg s (hPool h)).size, extent := (poolCfg s (hPool h)).size, virt := some [] }
  | .fh n =>
    match kget s.fh.vers n with
    | some v => match fhvAddr s v with
      | some a => { addr := a, len := fhvBytes s v, extent := fhvBytes s v, virt := none }
      | none => { addr := 0, len := fhvBytes s v, extent := fhvBytes s v
                  virt := some (if v.overflow then [] else fhvVirtual s v) }
    | none => { addr := 0, len := (poolCfg s (hPool h)).size, extent := (poolCfg s (hPool h)).size, virt := some [] }
  | _ => { addr := 0, len := (poolCfg s (hPool h)).size, extent := (poolCfg s (hPool h)).size, virt := some [] }

/-! ## Staging (R39) -/

/-- Place of the HARQ soft buffer among a run's staging buffers. -/
abbrev harqPlace : Nat := 100

/-- The HARQ soft-buffer handle of a job; 0 when its graph declares none (R288). -/
def harqHandle (g : Graph) (d : Desc) : Nat :=
  match g.harqParams with | [] => 0 | p :: _ => nth0 d.param p

/-- The HARQ handle names a buffer of a configured DRAM pool (R288). -/
def harqValid (s : State) (h : Nat) : Bool :=
  decide (poolMemory (hPool h) = 1) && poolConfigured s (hPool h) && decide (hIndex h < (poolCfg s (hPool h)).count)

/-- Pools from which a task's outputs are staged: place and pool (R39, R288). -/
def stagingPools (s : State) (g : Graph) (d : Desc) (t : TaskDef) : List (Nat × Nat) :=
  (t.writes.zipIdx.map fun (w, i) => (i, if w < 4 then hPool (nth0 d.outH w) else w / 4))
    ++ (if t.harq && harqValid s (harqHandle g d) then [(harqPlace, hPool (harqHandle g d))] else [])

/-- Take one staging buffer for each output, whose earlier contents nothing can read; none when a pool has no free buffer
(R4, R39). -/
def takeStaging (s : State) : List (Nat × Nat) → Option (State × List (Nat × Nat × Nat))
  | [] => some (s, [])
  | (i, p) :: r =>
    match freePhys s p with
    | none => none
    | some n =>
      match takeStaging (blankRange (takePhys s p n) (physAddr s p n) (poolCfg s p).size) r with
      | none => none
      | some (t, l) => some (t, (i, n, 0) :: l)

/-- Pool of one staging place of a task. -/
def stagingPool (s : State) (g : Graph) (d : Desc) (t : TaskDef) (place : Nat) : Nat :=
  ((stagingPools s g d t).find? fun x => decide (x.1 = place)).elim 0 (·.2)

/-- Discard a run's staged outputs: the buffers return to their pools (R41, R155). -/
def dropStaging (s : State) (g : Graph) (d : Desc) (t : TaskDef) (l : List (Nat × Nat × Nat)) : State :=
  l.foldl (fun s x =>
    let p := stagingPool s g d t x.1
    if p = 0 then s else givePhys s p x.2.1) s

end Sys2Proof.Machine
end

