-- ==== Sys2Proof/Machine/Jobs.lean ====
section
/-!
DEFINITION. The life of a job: expansion, its completion record, commit and finalisation, and the end and fault of a
task (R19, R24, R36, R37, R40 to R55, R126, R155 to R158, R160, R164, R165, R394).
-/
namespace Sys2Proof.Machine

/-! ## Numbers of statuses and causes -/

/-- Completion statuses (R52). -/
abbrev stDone : Nat := 0x00
/-- LATE (R52). -/
abbrev stLate : Nat := 0x01
/-- EXPIRED (R52). -/
abbrev stExpired : Nat := 0x02
/-- INPUT_INCOMPLETE (R52). -/
abbrev stIncomplete : Nat := 0x03
/-- INPUT_DAMAGED (R52). -/
abbrev stDamaged : Nat := 0x04
/-- CONTEXT_LOST (R52). -/
abbrev stContext : Nat := 0x05
/-- OVERRUN (R52). -/
abbrev stOverrun : Nat := 0x06
/-- KERNEL_FAULT (R52). -/
abbrev stKernel : Nat := 0x07
/-- ABSENT_FEATURE (R52). -/
abbrev stAbsent : Nat := 0x08
/-- DONE_BY_BUDDY (R52). -/
abbrev stBuddy : Nat := 0x09
/-- INPUT_LOST_DEVICE (R52). -/
abbrev stLost : Nat := 0x0A

/-! ## Places -/

/-- REGION_KIND and REGION_ID of a place (R50). -/
def placeId : Place → Nat × Nat
  | .core c => (1, c)
  | .engine 1 n => (2, n)
  | .engine 2 n => (2, 0x40 + n)
  | .engine 3 n => (2, 0x60 + n)
  | .engine 4 n => (2, 0x70 + n)
  | .engine _ n => (2, 0x100 + n)

/-- Region of a place (R153). -/
def placeRegion : Place → Nat
  | .core c => regCore c
  | .engine k n => regEngine k n

/-- The matrix coprocessor of a core's quad. -/
def quadOf (c : Nat) : Nat := c / 36 * 9 + c % 36 / 4

/-! ## Freeing cores and engines -/

/-- An effect of an MXC operation that begins at E1; those of R271 begin only at commit (R268, R271). -/
def Eff.isMxc : Eff → Bool
  | .wm .. | .wz .. | .mxclr .. | .mxld .. | .mxop => true
  | _ => false

/-- A core leaves its MXC: the lock is released, and when an operation was squashed only at the end of its drain (R259,
R270). -/
def leaveMxc (s : State) (c : Nat) (squashed : Bool) : State :=
  let m := s.mxc (quadOf c)
  let waiting := m.waiting.filter fun x => decide (x.1 ≠ c % 36)
  if m.holder = some (c % 36) then
    if squashed then (s.setMxc (quadOf c) { m with waiting, draining := true }).bump keyMxcSquashDrains 1
    else if m.draining then s.setMxc (quadOf c) { m with waiting }
    else s.setMxc (quadOf c) { m with holder := none, released := true, waiting }
  else if waiting = m.waiting then s
  else s.setMxc (quadOf c) { m with waiting }

/-- A core stops and is free; its exception and fault registers stand, but for the VFR of a vector fault that was not
delivered (R53, R155, R222, R244, R270). -/
def freeCore (s : State) (c : Nat) : State :=
  let x := s.core c
  let squashed := x.bundle.begun && x.bundle.effs.any Eff.isMxc
  let k := s.cluster (c / 36)
  let t := leaveMxc (s.setCluster (c / 36) { k with lowRankCycles := k.lowRankCycles + lowCycles s c }) c squashed
  let t := match x.dmaChan with
    | some ch =>
      let u := resetChan t ch
      u.setChan ch { u.chan ch with owner := none }
    | none => t
  t.setCore c { x with task := none, running := false, cycles := coreCycles s c, cycleAt := s.time.now
                       bundle := Bundle.init, sbuf := [], sberr := none, mxerr := none, vfault := false, slow := none
                       vq := [], vpend := none, vpos := none, vseen := false, vmerge := false, mxmerge := false
                       dmaChan := none
                       vfrPc := if x.vfault then 0 else x.vfrPc, vfrInfo := if x.vfault then 0 else x.vfrInfo
                       vfrAddr := if x.vfault then 0 else x.vfrAddr }

/-- An engine instance stops and is idle; the time it ran counts (R298, R300). -/
def freeEngine (s : State) (kind n : Nat) : State :=
  let x := s.engine kind n
  match x.entry with
  | none => s
  | some e =>
    let second := s.time.now / secNs * secNs
    s.setEngine kind n
      { x with entry := none, result := none, busy := x.busy + (s.time.now - max x.startTime second)
               gTime := if e.rank = 0 then x.gTime + (s.time.now - max x.startTime s.lastDvfs) else x.gTime }

/-- Free a place. -/
def freePlace (s : State) : Place → State
  | .core c => freeCore s c
  | .engine k n => freeEngine s k n

/-- The task reference of a run. -/
def runRef (j : Job) (t : Nat) (r : TaskRun) : TaskRef := { q := j.qn, seq := j.desc.seq, task := t, role := r.role }

/-- Withdraw the waiting engine entry of a run. -/
def dropEntry (s : State) (r : TaskRef) : State := { s with entries := s.entries.filter fun e => decide (e.task ≠ r) }

/-! ## Records (R47 to R51) -/

/-- Starts of a task: a Halo pair counts as one, whichever run of it started first, and a voting run as one more (R49). -/
def taskStarts (ti : TaskInst) : Nat :=
  let n (r : RunRole) : Nat := ((ti.runs.filter fun x => decide (x.role = r)).map (·.starts)).sum
  n .main + n .shadow - min 1 (min (n .main) (n .shadow)) + n .vote

/-- Starts of the most-started task, with at most one from before a reset (R49). -/
def jobStarts (j : Job) : Nat := (j.tasks.map taskStarts).foldl max 0 + b2n j.startedBeforeReset

/-- FINISH (R48). -/
def finishOf (j : Job) (now : Nat) : Nat :=
  match j.deadline with
  | some d => if j.desc.timed then ((((now : Int) - (d - 8 * j.desc.deadline)) / 8) % (2 ^ 32 : Nat)).toNat else now / 8 % 2 ^ 32
  | none => now / 8 % 2 ^ 32

/-- The completion record of a job (R47 to R51, R182). -/
def makeRec (s : State) (j : Job) (status : Nat) (commit : Bool) (valid : Nat) (lens : List Nat) : Rec :=
  let place := if commit then (j.lastPlace.map placeId).getD (0, 0) else (0, 0)
  let buddy := j.buddyOf.isSome && commit
  { seq := j.desc.seq
    status := if buddy && decide (status = stDone) then stBuddy else status
    lateRelease := false
    migrated := j.migrated
    voted := j.tasks.any (·.voted)
    shadowed := j.tasks.any fun t => t.runs.any fun r => decide (r.role = .shadow) && decide (0 < r.starts)
    replayed := decide (1 < jobStarts j) || (j.buddyOf.isSome && decide (0 < jobStarts j))
    regionKind := if buddy then 3 else place.1
    regionId := if buddy then s.oval keyDeviceNumber else place.2
    finish := finishOf j s.time.now
    attempts := if status = stAbsent then min (jobStarts j) 1 else min (jobStarts j) 255
    outValid := valid
    outLen := lens }

/-! ## Learning samples (R134 to R136) -/

/-- Histogram bin of a cycle count (R134). -/
def binOf (n : Nat) : Nat := if n < 256 then 0 else min (8 * (n.log2 - 8) + n / 2 ^ (n.log2 - 3) % 8) 127

/-- One sample enters the histogram of a task (R136). While a switch-over suspends learning none enters: R173 does not say
what becomes of it (DESIGN CHOICE, assumption 75). -/
def addSample (s : State) (g t n : Nat) : State :=
  if s.oflag keyLearnEnable && s.sv.switching.isNone then
    let b := s.budget g t
    { s with budgets := kset s.budgets (g * 256 + t) { b with hist := kset b.hist (binOf n) (kgetD b.hist (binOf n) 0 + 256) } }
  else s

/-- The core of a run. -/
def runCore (r : TaskRun) : Nat := match r.place with | some (.core c) => c | _ => 0

/-- The run by whose core a task is sampled: the main run, or of a Halo pair the one on the lower-numbered core; a voting
run is none (R135). -/
def sampledRun (ti : TaskInst) : Option TaskRun :=
  (ti.runs.filter fun r => decide (r.role ≠ .vote) && (decide (r.phase = 1) || decide (r.phase = 2))).foldl
    (fun (b : Option TaskRun) r => match b with
      | none => some r
      | some x => if runCore r < runCore x then some r else some x) none

/-- The sample of a core task whose job has ended: a run that finished normally on its first start counts its cycles, one
aborted at the deadline only when it used more than L(t) (R135). -/
def sampleTask (s : State) (j : Job) (status t : Nat) (ti : TaskInst) (d : TaskDef) : State :=
  match sampledRun ti with
  | none => s
  | some r =>
    if d.kind ≠ 0 ∨ status = stKernel ∨ j.startedBeforeReset = true ∨ r.starts ≠ 1 ∨ r.evictions ≠ 0 then s
    else if ti.done then addSample s j.desc.graph t r.cycles
    else
      let n := if r.phase = 1 then runCycles s r else r.cycles
      if status = stOverrun ∧ budgetL s j.desc.graph t d < n then addSample s j.desc.graph t n else s

/-- The samples of a job that has ended. -/
def sampleJob (s : State) (j : Job) (status : Nat) : State :=
  ((jobGraph s j).tasks.zip j.tasks).zipIdx.foldl (fun s x => sampleTask s j status x.2 x.1.2 x.1.1) s

/-! ## Ending a job (R40, R41, R53) -/

/-- A staging place of a task holds a job output or the HARQ soft buffer, not a task-to-task buffer (R24, R39, R288). -/
def isOutput (d : TaskDef) (place : Nat) : Bool :=
  decide (place = harqPlace) || (match d.writes[place]? with | some w => decide (w < 4) | none => false)

/-- A running task of a job that is being finalised may report a fault until it has stopped: a core task for 1 µs, an engine
entry for 200 ns (R53, R298). -/
def noteLate (s : State) (j : Job) (t start : Nat) (p : Place) : State :=
  let err := match p with
    | .engine k n => match (s.engine k n).result with
      | some (.error code off addr) => some (code, off, addr)
      | _ => none
    | .core _ => none
  let until' := s.time.now + match p with | .core _ => usNs | .engine _ _ => 200
  let live := s.late.filter fun x => decide (s.time.now ≤ x.until') && decide (x.place ≠ p)
  { s with late := live ++ [{ place := p, sqid := j.desc.sqid, seq := j.desc.seq, task := t, start, until', err }] }

/-- A task of a finalised job reports a fault before it has stopped: it is logged, a fault that can form no signature is
charged to its region, and nothing is replayed (R53, R298). -/
def lateFault (s : State) (p : Place) (cause num addr : Nat) (signed : Bool) (region : Option Nat) : State :=
  match s.late.find? fun x => decide (x.place = p) && decide (s.time.now ≤ x.until') with
  | none => s
  | some x =>
    let t := logFault { s with late := s.late.erase x }
      { time := s.time.now, region := region.getD (placeRegion p), cause, action := if signed then 0x0E else 0x03
        sqid := x.sqid, seq := x.seq, task := x.task, start := x.start, signature := num, address := addr }
    match region with
    | some r => if signed then t else strike t r
    | none => t

/-- Stop one run: its core or engine is freed, its waiting entry withdrawn, its staging discarded (R53, R132);
what is kept of a committed job are its outputs, and task-to-task buffers return to their pools (R24, R39). -/
def stopRun (s : State) (j : Job) (t : Nat) (d : TaskDef) (keep : Bool) (r : TaskRun) : State :=
  let s := match r.phase, r.place with
    | 1, some p => noteLate s j t (((j.tasks[t]?).map taskStarts).getD 0) p
    | _, _ => s
  let s := match r.phase, r.place with
    | 1, some (.engine k n) => (freeEngine s k n).bump keyAccAborts 1
    | 1, some (.core c) => freeCore s c
    | 5, _ => dropEntry s (runRef j t r)
    | _, _ => s
  dropStaging s (jobGraph s j) j.desc d (if keep then r.staging.filter fun x => !isOutput d x.1 else r.staging)

/-- The run of a finished task whose outputs stand. -/
def keptRun (ti : TaskInst) : Option TaskRun := ti.runs.find? fun r => decide (r.phase = 2) && decide (r.role = .main)

/-- Stop every run of a job; a committed job keeps the outputs of its kept runs. -/
def stopTasks (s : State) (j : Job) (commit : Bool) : State :=
  ((jobGraph s j).tasks.zip j.tasks).zipIdx.foldl (fun s x =>
    x.1.2.runs.foldl (fun s r => stopRun s j x.2 x.1.1 (commit && decide (r.phase = 2) && decide (r.role = .main)) r) s) s

/-- The staged buffer of an output slot of a finished job: physical buffer and length (R578). -/
def stagedSlot (g : Graph) (j : Job) (k : Nat) : Option (Nat × Nat) :=
  ((g.tasks.zip j.tasks).filterMap fun (d, ti) =>
    match d.writes.idxOf? k, keptRun ti with
    | some i, some r => (r.staging.find? fun x => decide (x.1 = i)).map fun x => (x.2.1, x.2.2)
    | _, _ => none).head?

/-- The staged HARQ soft buffer of a finished job (R288). -/
def stagedHarq (g : Graph) (j : Job) : Option (Nat × Nat) :=
  ((g.tasks.zip j.tasks).filterMap fun (d, ti) =>
    match d.harq, keptRun ti with
    | true, some r => (r.staging.find? fun x => decide (x.1 = harqPlace)).map fun x => (x.2.1, x.2.2)
    | _, _ => none).head?

/-- Commit one output: its pending version takes the staged buffer and is installed; bytes beyond its length are zeros
(R40, R578). A result-store version stays pinned until the job retires (R100), and a section stream until it is sent
(R390). -/
def commitVersion (s : State) (q : Nat) (seq : BitVec 32) (order n phys len : Nat) : State :=
  match kget s.vers n with
  | none => s
  | some v =>
    let p := hPool v.handle
    let a := physAddr s p phys
    let s := zeroRange s (a + len) ((poolCfg s p).size - len)
    let pins := (if p = 0x7F then [order] else []) ++ (if poolRole s p = 2 then [0] else [])
    let s := setVer s n { v with phys, len, st := .valid, pins := v.pins ++ pins }
    let (s, old) := installVersion s n
    let s := match old, s.job q seq with
      | some o, some j => s.setJob { j with supers := j.supers ++ [o] }
      | _, _ => s
    if poolRole s p = 2 then
      let k := s.fh.txOrder
      retireSent (queueSections { s with fh := { s.fh with txOrder := k + 1 } } k n a len len) n
    else s

/-- A job that did not commit leaves its output versions absent, for the jobs that read them until a later writer's
version (R35, R36). -/
def failVersion (s : State) (n : Nat) : State :=
  match kget s.vers n with
  | none => s
  | some v =>
    if v.st = .pending then
      let later := s.vers.any fun x => decide (x.2.handle = v.handle) && decide (v.order < x.2.order)
      if v.pins.isEmpty && later then { s with vers := kdel s.vers n }
      else setVer s n { v with st := .absent, superseded := later }
    else s

/-- A job that did not commit leaves its HARQ soft buffer as it was: who would read its version reads what it read
(R288). -/
def failHarq (s : State) (j : Job) : State :=
  match j.outVers.getD 4 none, j.inVers.getD 4 none with
  | some n, some (.pool old) =>
    let readers := s.jobs.filter fun i => decide (i.inVers.getD 4 none = some (.pool n))
    let s := readers.foldl (fun s i => (pin s old i.order).setJob { i with inVers := i.inVers.set 4 (some (.pool old)) }) s
    { s with vers := kdel s.vers n }
  | _, _ => s

/-- The counters of a status (R61, R152). -/
def countStatus (s : State) (j : Job) (status : Nat) : State :=
  if status = stKernel then s.bump keyDetFaults 1
  else if status = stExpired ∧ j.started = false then s.bump keyExpiredUnstarted 1
  else s

/-- Fix the outcome of a job: tasks stop, outputs are committed or discarded, the COMMIT or FINAL entry is written and
mirrored, the ACCEPT slot is freed, and what the job read is released (R40, R41, R53, R92). A taken-over job has no
journal entries of the device's own. -/
def finalise (s : State) (j0 : Job) (status : Nat) : State :=
  match s.job j0.qn j0.desc.seq with
  | none => s
  | some j =>
    if j.final then s
    else
      let commit := decide (status = stDone) || decide (status = stLate)
        || (decide (status = stIncomplete) && j.tasks.all (·.done) && (jobGraph s j).runAbsent)
      let g := jobGraph s j
      let s := sampleJob s j status
      let s := stopTasks s j commit
      let slots := if commit then g.outUsed.filterMap fun k => (stagedSlot g j k).map fun x => (k, x) else []
      let lenOf (k : Nat) : Nat := ((slots.find? fun x => decide (x.1 = k)).map (·.2.2)).getD 0
      let physOf (k : Nat) : Nat := ((slots.find? fun x => decide (x.1 = k)).map (·.2.1)).getD 0
      let r := makeRec s j status commit ((slots.map fun x => 2 ^ x.1).sum) ((List.range 4).map lenOf)
      let s := countStatus s j status
      let own := j.buddyOf.isNone
      let slot := jFreeSlot s
      let e := finalEntry j r commit ((List.range 4).map physOf) s.time.now false
      let s := if own then jWrite s slot e else s
      let s := s.setJob { j with record := some r, finTime := s.time.now, finalSlot := if own then some slot else none }
      let s := slots.foldl (fun s x => match j.outVers.getD x.1 none with
        | some n => commitVersion s j.qn j.desc.seq j.order n x.2.1 x.2.2
        | none => s) s
      let s := match commit, stagedHarq g j, j.outVers.getD 4 none with
        | true, some (phys, len), some n => commitVersion s j.qn j.desc.seq j.order n phys len
        | false, _, _ => failHarq s j
        | _, _, _ => s
      let s := j.outVers.foldl (fun s v => match v with | some n => failVersion s n | none => s) s
      let s := if own then { jFree s j.acceptSlot with jReserved := s.jReserved - 1 } else s
      let s := j.inVers.foldl (fun s v => releaseInput s j.order v) s
      if own then mirrorPut s (mirrorFinal e) else s

/-! ## Waiting on inputs, and commit (R36, R37, R40, R170, R365) -/

/-- A task of the job that is not done reads an input slot. -/
def slotStillRead (g : Graph) (j : Job) (k : Nat) : Bool :=
  (g.tasks.zip j.tasks).any fun (d, ti) => !ti.done && (if k = 4 then d.harq else d.reads.contains k)

/-- How the inputs that unfinished tasks read stand. -/
def liveInputs (s : State) (j : Job) : List (Nat × InSt) :=
  let g := jobGraph s j
  (j.inVers.zipIdx.filterMap fun (v, k) => v.map fun r => (k, refState s r)).filter fun x => slotStillRead g j x.1

/-- What follows at once from the state of a job's inputs and tasks: an outcome, or the mark that an absent input is
read as zeros. -/
def settleJob (s : State) (q : Nat) (seq : BitVec 32) : State :=
  match s.job q seq with
  | none => s
  | some j =>
    if j.final || !j.expanded then s
    else
      let g := jobGraph s j
      let ins := liveInputs s j
      let has (st : InSt) : Bool := ins.any fun x => decide (x.1 < 4) && decide (x.2 = st)
      let harqGone := ins.any fun x => decide (x.1 = 4) && (decide (x.2 = .lost) || decide (x.2 = .damaged))
      let ctxGone := s.mem.ctxDamaged && !g.ctxParams.isEmpty && j.tasks.any fun t => !t.done
      if has .lost then finalise s j stLost
      else if has .damaged then finalise s j stDamaged
      else if harqGone || ctxGone then finalise s j stContext
      else if has .absent && !g.runAbsent then finalise s j stIncomplete
      else
        let j := if has .absent then { j with incomplete := true } else j
        let s := if has .absent then s.setJob j else s
        if j.tasks.all (·.done) then
          let after (t : Nat) : Bool := j.desc.timed && (match j.deadline with | some d => decide (d < t) | none => false)
          finalise s j (if g.abort && j.tasks.any (fun t => after t.doneAt) then stOverrun
            else if j.incomplete then stIncomplete else if after s.time.now then stLate else stDone)
        else s

/-- Every job is settled, in acceptance order: an outcome concerns only later jobs (R35, R36). -/
def settleJobs (s : State) : State := s.jobs.foldl (fun t j => settleJob t j.qn j.desc.seq) s

/-! ## Ready runs (R36, R125, R128) -/

/-- A code image of a graph is being rewritten from flash (R417): image 256g + t is that of task t of graph g. -/
def graphRewriting (s : State) (g : Nat) : Bool := s.mem.rewriting.any fun i => decide (i / 256 = g)

/-- Every input a task reads can be read now. -/
def inputsReady (s : State) (j : Job) (d : TaskDef) : Bool :=
  let g := jobGraph s j
  let ok (k : Nat) : Bool :=
    match j.inVers.getD k none with
    | some r => decide (refState s r = .ok) || (decide (refState s r = .absent) && g.runAbsent)
    | none => true
  (d.reads.all fun k => if k < 4 then ok k else true) && (!d.harq || ok 4)

/-- The first start of a job is no longer in time: its deadline has come, or under ABORT its path no longer ends before it
(R53, R125). -/
def tooLate (s : State) (j : Job) : Bool :=
  j.desc.timed && !j.started && (decide (j.dl ≤ s.time.now) || ((jobGraph s j).abort &&
    decide (j.dl * 24 < (s.time.now : Int) * 24 + critPath s j (s.cluster (jobCluster s j)).opp)))

/-- A task is ready: its predecessors have finished, its inputs are available and its job is admitted or untimed (R128). -/
def taskReady (s : State) (j : Job) (d : TaskDef) (r : TaskRun) : Bool :=
  j.expanded && !j.final && (runRank s j r).isSome
    && (d.preds.all fun p => match j.tasks[p]? with | some x => x.done | none => true) && inputsReady s j d

/-- A run of a ready task t may start: nothing starts during a restart, while its graph's code is rewritten, or as the
first of a job that is no longer in time. -/
def runReady (s : State) (j : Job) (t : Nat) (d : TaskDef) (r : TaskRun) (phase : Nat) : Bool :=
  s.awake && s.powered && decide (r.phase = phase) && taskReady s j d r && !tooLate s j
    && !graphRewriting s j.desc.graph && (match j.tasks[t]? with | some x => !x.done | none => false)

/-- Every run of every unfinalised job with its task. -/
def allRuns (s : State) : List (Job × Nat × TaskDef × TaskRun) :=
  (s.jobs.filter fun j => !j.final).flatMap fun j =>
    ((jobGraph s j).tasks.zip j.tasks).zipIdx.flatMap fun x => x.1.2.runs.map fun r => (j, x.2, x.1.1, r)

/-- Since when a waiting run of a task is ready (R128). -/
def trackRun (s : State) (j : Job) (d : TaskDef) (r : TaskRun) : TaskRun :=
  if r.phase = 0 ∨ r.phase = 3 ∨ r.phase = 5 then
    { r with readySince := if taskReady s j d r then some (r.readySince.getD s.time.now) else none }
  else r

/-- Since when each waiting run of a job is ready. -/
def trackJob (s : State) (j : Job) : Job :=
  { j with tasks := j.tasks.zipIdx.map fun x => match (jobGraph s j).tasks[x.2]? with
      | some d => { x.1 with runs := x.1.runs.map (trackRun s j d) }
      | none => x.1 }

/-- Since when each waiting run of the unfinished jobs is ready. -/
def trackReady (s : State) : State :=
  { s with jobs := s.jobs.map fun j => if j.final || !j.expanded then j else trackJob s j }

/-- What follows at once from a command: jobs whose inputs or tasks have changed, then migration and Overcast. -/
def settleAll (before s : State) : State := settle before (trackReady (settleJobs s))

/-! ## Expansion (R19, R24, R86, R126) -/

/-- A run that has not started. -/
def TaskRun.new (role : RunRole) : TaskRun :=
  { role, phase := 0, place := none, badPlaces := [], startTime := 0, starts := 0, evictions := 0, cycles := 0
    staging := [], crc := 0, readySince := none, marked := false, replay := false }

/-- A task instance at expansion: protected core tasks run twice (R24, R164). -/
def TaskInst.new (prot : Bool) (d : TaskDef) : TaskInst :=
  { done := false, doneAt := 0
    runs := TaskRun.new .main :: (if prot && decide (d.kind = 0) then [TaskRun.new .shadow] else [])
    sigs := [], counted := 0, replayed := false, voted := false }

/-- A graph needs a feature or names a unit that the part lacks (R19). -/
def graphAbsent (s : State) (g : Graph) : Bool :=
  decide (g.features % 16 &&& (15 - featBits s.part.variant) ≠ 0) ||
    g.names.any fun x => decide ((if x.1 = 5 then nNb s.part.variant else nEngines s.part.variant x.1) ≤ x.2)

/-- The powered cluster with the lowest admitted guaranteed rate, the lowest-numbered on a tie (R126). The rate
is the left side of the cell check, the G_BUDGETs configured (DESIGN CHOICE, assumption 69). -/
def quietCluster (s : State) : Nat :=
  let ks := (List.range (nClusters s.part.variant)).filter fun k => clusterUp s k && !(s.cluster k).gated
  let lower (a b : Nat) : Nat :=
    let (n, d) := gRateFrac s a
    let (m, e) := gRateFrac s b
    if m * d < n * e then b else a
  match ks with
  | [] => ((List.range (nClusters s.part.variant)).find? fun k => clusterUp s k).getD 0
  | k :: r => r.foldl lower k

/-- Expand a job (R19, R24, R126). -/
def expandJob (s : State) (q : Nat) (seq : BitVec 32) : State :=
  match s.job q seq with
  | none => s
  | some j =>
    let g := jobGraph s j
    let j := { j with
      expanded := true, tasks := g.tasks.map (TaskInst.new j.desc.prot)
      cluster := if jobHasCell s j then (s.cellState j.desc.cell).cluster else quietCluster s
      admission := if j.desc.timed then .none else .untimed }
    if graphAbsent s g then finalise (s.setJob { j with tasks := [] }) j stAbsent
    else s.setJob j

/-! ## The end of a run (R40, R160, R164, R165) -/

/-- Replace a task instance of a job. -/
def setTask (s : State) (j : Job) (t : Nat) (ti : TaskInst) : State := s.setJob { j with tasks := j.tasks.set t ti }

/-- Replace the run of one role. -/
def TaskInst.setRun (ti : TaskInst) (r : TaskRun) : TaskInst :=
  { ti with runs := updWhere (fun x => decide (x.role = r.role)) (fun _ => r) ti.runs }

/-- Find a run. -/
def findRun (s : State) (r : TaskRef) : Option (Job × TaskInst × TaskRun) :=
  match s.job r.q r.seq with
  | none => none
  | some j => match j.tasks[r.task]? with
    | none => none
    | some ti => match ti.run r.role with
      | none => none
      | some x => some (j, ti, x)

/-- Of two cores the lower-numbered. -/
def lowerPlace (a b : Option Place) : Option Place :=
  match a, b with
  | some (.core x), some (.core y) => some (.core (min x y))
  | none, y => y
  | x, _ => x

/-- A task is done: the outputs of one run are kept as the main run's, and each signature that did not recur charges a
strike where it was seen (R160). -/
def finishTask (s : State) (j : Job) (t : Nat) (ti : TaskInst) (kept : TaskRun) (place : Option Place) (voted : Bool) : State :=
  let g := jobGraph s j
  let d := g.tasks[t]?
  let s := match d with
    | some d => (ti.runs.filter fun r => decide (r.role ≠ kept.role)).foldl (fun s r => dropStaging s g j.desc d r.staging) s
    | none => s
  let runs := ti.runs.map fun r =>
    if r.role = .main then { r with staging := kept.staging, crc := kept.crc } else { r with staging := [] }
  let j := { j with lastPlace := place }
  let s := setTask s j t { ti with done := true, doneAt := s.time.now, voted := ti.voted || voted, runs }
  ti.sigs.foldl (fun s x => strike s (placeRegion x.2)) s

/-- Log a fault of a task (R193). -/
def logTask (s : State) (j : Job) (t start region cause action sig addr : Nat) : State :=
  logFault s { time := s.time.now, region, cause, action, sqid := j.desc.sqid, seq := j.desc.seq, task := t, start
               signature := sig, address := addr }

/-- The runs of a protected core task have both finished: compare, or decide the vote (R164, R165).
HALO_PAIRS counts here and VOTES at the end of the voting run; the record of a mismatch has REGION 0xFFFF, START and
SIGNATURE 0 (DESIGN CHOICE, assumption 74). -/
def haloDecide (s : State) (j : Job) (t : Nat) (ti : TaskInst) : State :=
  match ti.run .main, ti.run .shadow, ti.run .vote with
  | some a, some b, none =>
    if a.phase = 2 ∧ b.phase = 2 then
      let s := s.bump keyHaloPairs 1
      if a.crc = b.crc then finishTask s j t ti a (lowerPlace a.place b.place) false
      else
        let s := (s.bump keyHaloMismatches 1)
        let s := logTask s j t (taskStarts ti) 0xFFFF 0x0A 0x02 0 0
        setTask s j t { ti with runs := ti.runs ++ [TaskRun.new .vote] }
    else s
  | some a, some b, some v =>
    if v.phase = 2 then
      let s := s.bump keyVotes 1
      let core (r : TaskRun) : Nat := regCore (runCore r)
      if v.crc = a.crc then finishTask (strike s (core b)) j t ti a (lowerPlace v.place a.place) true
      else if v.crc = b.crc then finishTask (strike s (core a)) j t ti b (lowerPlace v.place b.place) true
      else finalise (logTask s j t (taskStarts ti) 0xFFFF 0x0A 0x07 0 0) j stKernel
    else s
  | _, _, _ => s

/-- Bytes of one staged output, for the Halo comparison. -/
def stagedBytes (s : State) (g : Graph) (j : Job) (d : TaskDef) (x : Nat × Nat × Nat) : List Byte :=
  let p := stagingPool s g j.desc d x.1
  leBytes 4 x.2.2 ++ (match devRead s 4 (physAddr s p x.2.1) x.2.2 with | (_, .ok b) => b | _ => [])

/-- The place that a record names: for the modem the channel, not the slice (R301). -/
def namedPlace (d : TaskDef) (block : Nat) : Option Place → Option Place
  | some (.engine 5 n) => if d.kind = 5 then some (.engine 5 (bits block 507 499)) else some (.engine 5 n)
  | p => p

/-- A run finishes with the lengths it produced, by place among its outputs (R164, R221, R283). -/
def runDone (s : State) (ref : TaskRef) (lens : List (Nat × Nat)) : State :=
  match findRun s ref with
  | none => s
  | some (j, ti, r) =>
    let g := jobGraph s j
    match g.tasks[ref.task]? with
    | none => s
    | some d =>
      let staging := r.staging.map fun x => (x.1, x.2.1, ((lens.find? fun y => decide (y.1 = x.1)).map (·.2)).getD x.2.2)
      let crc := if j.desc.prot && decide (d.kind = 0) then (crc32 (staging.flatMap (stagedBytes s g j d))).toNat else 0
      let r := { r with phase := 2, cycles := runCycles s r, staging, crc }
      let block := match r.place with
        | some (.engine k n) => ((s.engine k n).entry.map fun e => e.block.toNat).getD d.block.toNat
        | _ => 0
      let s := match r.place with | some p => freePlace s p | none => s
      let ti := ti.setRun r
      let s := setTask s j ref.task ti
      let j := (s.job j.qn j.desc.seq).getD j
      if j.desc.prot && decide (d.kind = 0) then haloDecide s j ref.task ti
      else finishTask s j ref.task ti r (namedPlace d block r.place) false

/-! ## Faults (R54, R55, R155 to R158, R160) -/

/-- What a fault is: its CAUSE code of R193, its signature if it forms one, the number and address logged, and the
region it strikes when it forms none. -/
structure TaskFault where
  cause : Nat
  sig : Option (List Nat)
  num : Nat
  addr : Nat
  region : Option Nat
  /-- An absent-feature exception (R18). -/
  absent : Bool
  /-- A second read of an input version also failed (R157). -/
  damagedInput : Bool
  deriving DecidableEq, Repr

/-- A run faults (a fault charged to a quad MXC bars the whole quad, R262): it stops, its staging is discarded, and it waits
for replay unless R18, R54, R157 or R158 ends the job (R155). Its record names the region of the core or engine that ran it,
whichever region the strike is charged to (DESIGN CHOICE, assumption 74). -/
def runFault (s : State) (ref : TaskRef) (f : TaskFault) : State :=
  match findRun s ref with
  | none => s
  | some (j, ti, r) =>
    let g := jobGraph s j
    let s := match g.tasks[ref.task]? with
      | some d => dropStaging s g j.desc d r.staging
      | none => s
    let s := match r.place with | some p => freePlace s p | none => s
    let place := r.place.getD (.core 0)
    let start := taskStarts ti
    let log (s : State) (action : Nat) : State := logTask s j ref.task start (f.region.getD (placeRegion place)) f.cause action f.num f.addr
    let hit (s : State) : State := match f.region with | some x => strike s x | none => s
    let bad := match f.region, place with
      | some x, .core c => if 0x240 ≤ x ∧ x < 0x2D0 then (List.range 4).map fun i => Place.core (c / 4 * 4 + i) else [place]
      | _, _ => [place]
    let wait := { r with phase := 3, staging := [], badPlaces := r.badPlaces ++ bad, readySince := some s.time.now }
    let s := setTask s j ref.task (ti.setRun wait)
    if f.absent then finalise s j stAbsent
    else if f.damagedInput then finalise (hit (log s 0x08)) j stDamaged
    else match f.sig with
      | none => hit (setTask (log s 0x01) j ref.task (ti.setRun wait))
      | some sg =>
        let again := ti.sigs.any fun x => decide (x.1 = sg) && decide (x.2 ≠ place)
        if again then finalise (log s 0x07) j stKernel
        else if s.oval keyReplayMax ≤ ti.counted + 1 then
          (finalise (log s 0x07) j stKernel).bump keyReplayLimits 1
        else
          setTask (log s 0x01) j ref.task
            { ti.setRun wait with counted := ti.counted + 1, sigs := ti.sigs ++ [(sg, place)] }

/-- A running task stops and waits again from its beginning: its staging is discarded (R129, R417). -/
def stopToWait (s : State) (ref : TaskRef) : State :=
  match findRun s ref with
  | none => s
  | some (j, ti, r) =>
    let g := jobGraph s j
    let s := match g.tasks[ref.task]? with
      | some d => dropStaging s g j.desc d r.staging
      | none => s
    let s := match r.place with | some p => freePlace s p | none => s
    setTask s j ref.task (ti.setRun { r with phase := 0, place := none, staging := [], readySince := some s.time.now })

/-- A running task is evicted and is ready again (R129). -/
def evictRun (s : State) (ref : TaskRef) : State :=
  match findRun s ref with
  | none => s
  | some (j, ti, r) => (stopToWait (setTask s j ref.task (ti.setRun { r with evictions := r.evictions + 1 })) ref).bump keyEvictions 1

end Sys2Proof.Machine
end

