-- ==== Sys2Proof/Machine/Transmit.lean ====
section
/-!
DEFINITION. What the transport sends: acceptance entries, records with their result segments, credit and pauses (R64,
R72, R73, R87 to R89, R92 to R101, R104, R179, R180).
-/
namespace Sys2Proof.Machine

/-! ## Sequence arithmetic (R78) -/

/-- (b − a) modulo 2^32 read as a signed value. -/
def sdist (a b : BitVec 32) : Int := (b - a).toInt

/-- a precedes b (R78). -/
def precedes (a b : BitVec 32) : Bool := decide (0 < sdist a b)

/-- A sequence number lies in a range, both ends included. -/
def inRange (first last x : BitVec 32) : Bool := decide (0 ≤ sdist first x) && decide (0 ≤ sdist x last)

/-! ## Acceptance entries (R72, R87, R88) -/

/-- An entry that extends an earlier one of the same queue. -/
def mergeEntry (e : AcceptEntry) : List AcceptEntry → Option (List AcceptEntry)
  | [] => none
  | x :: r =>
    if x.sqid = e.sqid ∧ x.code = 0 ∧ e.code = 0 ∧ x.rep = false ∧ e.rep = false ∧ x.unmirrored = e.unmirrored
        ∧ x.lastSeq + 1 = e.firstSeq then
      some ({ x with lastSeq := e.lastSeq, nextSeq := e.nextSeq } :: r)
    else (mergeEntry e r).map (x :: ·)

/-- Some pending acceptance entry covers a job (R84). -/
def entryPending (s : State) (q : Nat) (seq : BitVec 32) : Bool :=
  [0, 1].any fun p => (s.port p).pending.any fun e =>
    decide (e.sqid = q) && decide (e.code = 0) && inRange e.firstSeq e.lastSeq seq

/-! ## Records and results (R97 to R101, R179) -/

/-- An output slot of a committed job that is returned to the host (R97). -/
def slotReturned (j : Job) (k : Nat) : Bool :=
  match j.record with
  | some r => tbit r.outValid k && decide (hPool (nth0 j.desc.outH k) = 0x7F)
  | none => false

/-- The result segments of one output slot, each a frame of its own: LOST when its data was lost (R70, R97, R101). -/
def sendSlot (s : State) (q : Nat) (j : Job) (p : Nat) (retx : Bool) (k : Nat) : State :=
  let total := match j.record with | some r => nth0 r.outLen k | none => 0
  let put (s : State) (lost : Bool) (offset : Nat) (b : List Byte) : State :=
    sendFrame s p (peerOf s q p) (queueSource q) 5 retx 1 (segHeader q k lost j.desc.seq total offset b.length ++ b)
  let lost (s : State) : State := put s true 0 []
  if !slotReturned j k then s
  else if tbit j.lostOut k then lost s
  else match (j.outVers.getD k none).bind (kget s.vers ·) with
    | some v =>
      if v.st = .valid then
        match devRead s 7 (physAddr s (hPool v.handle) v.phys) total with
        | (s, .ok b) => (List.range ((total + 8959) / 8960)).foldl (fun s i =>
            put s false (8960 * i) (cut b (8960 * i) 8960)) s
        | (s, .err _ _) => lost s
      else lost s
    | none => lost s

/-- Records of a queue after their result segments, on one port; records of consecutive sequence numbers share frames of at
most 280 (R68, R74, R97). -/
def sendRecords (s : State) (q : Nat) (js : List Job) (p : Nat) (retx : Bool) : State :=
  let js := js.filter fun j => j.record.isSome
  let t := js.foldl (fun t j => (List.range 4).foldl (fun t k => sendSlot t q j p retx k) t) s
  let t := (shareRuns (fun a b => decide (a.seq + 1 = b.seq)) 280 (js.filterMap (·.record))).foldl (fun t rs =>
    sendFrame t p (peerOf t q p) (queueSource q) 4 retx rs.length (complBody q rs)) t
  if retx then t.bump keyTxRetxRecords js.length else t

/-- A released record may be transmitted: the buddy has acknowledged its RELEASE marker (R179). Under PREFERRED an
unreachable buddy is not waited for (R89). -/
def mayTransmit (s : State) (q : Nat) (seq : BitVec 32) : Bool :=
  decide (4096 ≤ q) || !buddyOn s ||
    (if s.mirrorTx.reachable then mirroredReleased s q seq else decide (s.oval keyMirrorMode = 0))

/-- Of held records in release order, the jobs whose records may go now and what stays held (R84, R97). -/
def readyRecords (s : State) (q : Nat) : List (BitVec 32 × Nat) → List Job × List (BitVec 32 × Nat)
  | [] => ([], [])
  | (seq, t) :: r =>
    match s.job q seq with
    | none => readyRecords s q r
    | some j =>
      if j.pastStep6 && !entryPending s q seq && mayTransmit s q seq then
        let x := readyRecords s q r
        (j :: x.1, x.2)
      else ([], (seq, t) :: r)

/-- Send the held records of a queue in release order, as far as they may go (R84, R97). -/
def sendFrom (s : State) (q : Nat) (held : List (BitVec 32 × Nat)) : State :=
  let p := (s.queue q).activePort
  if canSend s p then
    let x := readyRecords s q held
    let t := sendRecords s q x.1 p false
    t.setQueue q { t.queue q with toSend := x.2 }
  else s

/-- The first held record of a queue has been held for COMPL_COALESCE (R97). -/
def recordsDue (s : State) (q : Nat) : Bool :=
  match (s.queue q).toSend with
  | [] => false
  | (_, t) :: _ => decide (t + s.oval keyComplCoalesce ≤ s.time.now)

/-- Send what a queue holds if it is due. -/
def sendDue (s : State) (q : Nat) : State := if recordsDue s q then sendFrom s q (s.queue q).toSend else s

/-- Transmit the pending acceptance entries of a port, then the records that waited for them (R84, R87). -/
def flushEntries (s : State) (p : Nat) : State :=
  if canSend s p then
    let es := (s.port p).pending
    let t := (shareRuns (fun a b => decide (peerOf s a.sqid p = peerOf s b.sqid p)
        && decide (queueSource a.sqid = queueSource b.sqid)) 560 es).foldl (fun (t : State) g => match g with
      | [] => t
      | e :: _ => sendFrame t p (peerOf t e.sqid p) (queueSource e.sqid) 3 false g.length (g.flatMap acceptBytes)) s
    let t := t.setPort p { t.port p with pending := [] }
    (t.queues.filter fun x => decide (x.2.activePort = p)).foldl (fun t x => sendDue t x.1) t
  else s

/-- An acceptance entry becomes pending on a port (R87): sent at once when a frame is full or nothing is held. -/
def addEntry (s : State) (p : Nat) (e : AcceptEntry) : State :=
  let x := s.port p
  let t := s.setPort p { x with pending := (mergeEntry e x.pending).getD (x.pending ++ [e]) }
  if 560 ≤ (t.port p).pending.length ∨ s.oval keyAcceptCoalesce = 0 then flushEntries t p else t

/-- A refusal goes out on the port of arrival, or on the other when that port is down (R73, R88). -/
def refuse (s : State) (q code : Nat) (seq : BitVec 32) (p : Nat) : State :=
  addEntry s (if portUp s p then p else 1 - p)
    { sqid := q, code, unmirrored := false, rep := false, firstSeq := seq, lastSeq := seq
      nextSeq := (s.queue q).nextSeq, since := s.time.now }

/-- A repeat entry that answers a duplicate (R79). -/
def answerDuplicate (s : State) (q : Nat) (seq : BitVec 32) (p : Nat) : State :=
  addEntry s p
    { sqid := q, code := 0, unmirrored := false, rep := true, firstSeq := seq, lastSeq := seq
      nextSeq := (s.queue q).nextSeq, since := s.time.now }

/-- Step 7 of R83: the acceptance entry of a job becomes pending on the active port (R87, R88). -/
def entryReady (s : State) (q : Nat) (seq : BitVec 32) : State :=
  match s.job q seq with
  | none => s
  | some j =>
    let t := s.setJob { j with pastStep6 := true }
    addEntry t (t.queue q).activePort
      { sqid := q, code := 0, unmirrored := j.unmirrored, rep := false, firstSeq := seq, lastSeq := seq
        nextSeq := (t.queue q).nextSeq, since := t.time.now }

/-! ## Retransmission (R99, R100) -/

/-- No unacknowledged RELEASE marker holds a record back, unless the buddy is unreachable under PREFERRED (R89, R179). -/
def markerClear (s : State) (q : Nat) (seq : BitVec 32) : Bool :=
  decide (4096 ≤ q) || mirroredReleased s q seq || (!s.mirrorTx.reachable && decide (s.oval keyMirrorMode = 0))

/-- Released records of a queue that may be transmitted again and have not been acknowledged, oldest first. None goes out
before its job's acceptance entry (R84). -/
def unacked (s : State) (q : Nat) (from_ : BitVec 32) : List Job :=
  s.jobs.filter fun j => decide (j.qn = q) && j.released && decide (0 ≤ sdist from_ j.desc.seq)
    && !((s.queue q).toSend.any fun x => decide (x.1 = j.desc.seq)) && !entryPending s q j.desc.seq && markerClear s q j.desc.seq

/-- Retransmit from a sequence number on a port, with RETX set. -/
def retransmit (s : State) (q : Nat) (p : Nat) (from_ : BitVec 32) : State :=
  sendRecords s q (unacked s q from_) p true

/-- Released records of a queue remain unacknowledged (R99). -/
def awaitsAck (s : State) (q : Nat) : Bool := decide ((s.queue q).releasedSeq ≠ (s.queue q).ackSeq)

/-- A RESEND is served on its port of arrival, or once a pause of that port ends (R96, R100). -/
def serveResend (s : State) (p q : Nat) (seq : BitVec 32) : State :=
  let x := s.queue q
  if canSend s p then retransmit s q p (if precedes (x.ackSeq + 1) seq then seq else x.ackSeq + 1)
  else s.setQueue q { x with resends := x.resends ++ [(p, seq)] }

/-- RESEND entries of a queue that waited for a port are served on it. -/
def serveHeld (s : State) (p q : Nat) : State :=
  let x := s.queue q
  let due := x.resends.filter fun r => decide (r.1 = p)
  if due.isEmpty || !canSend s p then s
  else due.foldl (fun t r => serveResend t p q r.2)
    (s.setQueue q { x with resends := x.resends.filter fun r => decide (r.1 ≠ p) })

/-- Halt or resume the retransmission timer of a queue as its active port is paused or not (R96). -/
def settleTimer (s : State) (q : Nat) : State :=
  let x := s.queue q
  let now := s.time.now
  if paused s x.activePort (s.oval keyTransportPcp) then
    match x.retxHalted with
    | some _ => s
    | none => s.setQueue q { x with retxHalted := some (x.retxDue - now) }
  else match x.retxHalted with
    | some left => s.setQueue q { x with retxHalted := none, retxDue := now + left }
    | none => s

/-- Acceptance entries that wait on a port leave now, where any do. -/
def flushPending (s : State) (p : Nat) : State := if (s.port p).pending.isEmpty then s else flushEntries s p

/-- The retransmission timer of a queue expires: everything unacknowledged is sent again, after the acceptance entries that
wait, and the timer doubles (R84, R99). While its port cannot send, the timer stands expired, halted through a pause (R96,
R105). -/
def retxFire (s : State) (q : Nat) : State :=
  if awaitsAck s q then
    let x := s.queue q
    if canSend s x.activePort then
      let t := retransmit (flushPending (flushPending s 0) 1) q x.activePort (x.ackSeq + 1)
      let next := min (2 * x.retxInterval) 32000000
      t.setQueue q { t.queue q with retxDue := s.time.now + next, retxInterval := next, retxHalted := none }
    else settleTimer (s.setQueue q { x with retxDue := s.time.now, retxHalted := none }) q
  else s

/-- Every queue active on a port. -/
def queuesOn (s : State) (p : Nat) : List Nat := (s.queues.filter fun x => decide (x.2.activePort = p)).map (·.1)

/-- Send the CREDIT entry of a queue on its active port, or once that port may transmit (R75, R94, R96). -/
def sendCredit (s : State) (q : Nat) : State :=
  let x := s.queue q
  let p := x.activePort
  if canSend s p then
    (sendFrame s p (peerOf s q p) (queueSource q) 6 false 1 (creditBytes q x.creditSeq x.creditUnits)).setQueue q
      { x with creditDue := false }
  else s.setQueue q { x with creditDue := true }

/-- The CREDIT entry of a queue, if it has been held back. -/
def creditHeld (s : State) (q : Nat) : State := if (s.queue q).creditDue then sendCredit s q else s

/-- The mirror stream sends what a pause held back: its unacknowledged entries, and acknowledgements of sources (R96). -/
def mirrorHeld (s : State) : State :=
  let t := if s.mirrorTx.unacked.any fun m => m.held && mirrorSends s m then sendMirror s (·.held) else s
  t.srcs.foldl (fun t x => match x.ackDue with
    | some (p, peer) => if canSend t p && decide (x.takeover = 0) then sendAck t x.source p peer else t
    | none => t) t

/-- What a pause held back on a port leaves once its priority is no longer paused (R96). -/
def heldOut (s : State) (p : Nat) : State :=
  let free := s.held.filter fun x => decide (x.1 = p) && !paused s p x.2.1
  free.foldl (fun t x => t.emit x.2.2) { s with held := s.held.filter fun x => !(decide (x.1 = p) && !paused s p x.2.1) }

/-- Send what waits on a port and is due, once it may transmit again. -/
def resumePort (s : State) (p : Nat) : State :=
  let s := flushSubs (heldOut s p) p
  let t := mirrorHeld ((queuesOn s p).foldl settleTimer s)
  let t := if t.serving && (t.port p).pending.any fun e => decide (e.since + t.oval keyAcceptCoalesce ≤ t.time.now) then
    flushEntries t p else t
  let t := (queuesOn t p).foldl creditHeld t
  let t := (queuesOn t p).foldl sendDue t
  (t.queues.map (·.1)).foldl (fun t q => serveHeld t p q) t

/-! ## Credit (R92, R94) -/

/-- Unretired jobs of a queue (R92). -/
def unretired (s : State) (q : Nat) : Nat := (s.jobs.filter fun j => decide (j.qn = q)).length

/-- INGRESS_FREE: unreserved bytes of the credited area of 60 MiB (R95, R109). -/
def ingressFree (s : State) : Nat := 62914560 - s.iReserved

/-- Shadow buffers of a pool that a lost or retired region withdraws (R170, R171). -/
def withdrawn (s : State) (p : Nat) : Nat :=
  if memRegions.all s.up then 0
  else ((s.pool p).avail.filter fun i => !physUsable s p i).length
    + ((List.range (poolPhys s p - (s.pool p).fresh)).filter fun i => !physUsable s p ((s.pool p).fresh + i)).length

/-- RESULT_FREE: result-store shadow buffers not reserved (R109), without those withdrawn (R171). -/
def resultFree (s : State) : Nat := (poolCfg s 0x7F).shadow - withdrawn s 0x7F - s.rReserved

/-- No credit grows now (R92, R180, R518). -/
def creditBlocked (s : State) : Bool :=
  s.overcast.on || decide (s.power.phase ≠ 0) || decide (2 ≤ s.power.state) || (!portUp s 0 && !portUp s 1) || s.mirrorTx.fenced
    || (decide (s.oval keyMirrorMode = 1) && !s.mirrorTx.reachable)

/-- Sequence credit that a queue can be given (R92). -/
def grantCount (s : State) (q : Nat) : Nat :=
  let x := s.queue q
  let n := min (x.depth - (unretired s q + (x.creditSeq - x.nextSeq).toNat)) (jUnreserved s / 2)
  let n := if x.resultSlots = 0 then n else min n (resultFree s / x.resultSlots)
  if creditBlocked s then 0 else min n (ingressFree s / 64)

/-- Grant credit to one queue and send the entry when a value changed (R92, R94). -/
def grantTo (s : State) (q : Nat) : State :=
  let n := grantCount s q
  let x := s.queue q
  let s1 := { s.setQueue q { x with creditSeq := x.creditSeq + BitVec.ofNat 32 n } with
    jReserved := s.jReserved + 2 * n, rReserved := s.rReserved + n * x.resultSlots, iReserved := s.iReserved + 64 * n }
  let gain := (x.acceptedUnits + x.unitsMax + 2 ^ 40 - x.creditUnits) % 2 ^ 40
  let grows := !creditBlocked s && decide (0 < gain) && decide (gain < 2 ^ 39) && decide (gain * 64 ≤ ingressFree s1)
  let s2 := if grows then
    { s1.setQueue q { s1.queue q with creditUnits := (x.creditUnits + gain) % 2 ^ 40 } with iReserved := s1.iReserved + gain * 64 }
    else s1
  if 0 < n ∨ grows then sendCredit s2 q else s2

/-! ## Ingress headroom (R80, R95) -/

/-- Bytes beyond a queue's reserved units, by port of arrival: segments in sequence order, those that do not fit the
units reserved (R80, R95). -/
def overUnits (room : Nat) (p : Nat) : List Seg → Nat
  | [] => 0
  | g :: r =>
    if g.bytes.length ≤ room then overUnits (room - g.bytes.length) p r
    else (if g.port = p then g.bytes.length else 0) + overUnits 0 p r

/-- Segments that a queue holds in assembly. -/
def heldSegs (s : State) (q : Nat) : List Seg := (s.asms.filter fun x => decide (x.1.1 = q)).flatMap fun x => x.2.segs

/-- Headroom of a port as it is filled now, with the pause for TRANSPORT_PCP that it sends (R95). -/
def headroomOf (s : State) (p : Nat) : State :=
  let held := (s.queues.map fun x =>
    overUnits ((x.2.creditUnits + 2 ^ 40 - x.2.acceptedUnits) % 2 ^ 40 * 64) p (heldSegs s x.1)).sum
  let x := s.port p
  let limit := s.oval keyPfcXoff
  if !x.xoff && decide (limit < held) then
    (s.setPort p { x with headroom := held, xoff := true }).emit (.pfc p (s.oval keyTransportPcp) true)
  else if x.xoff && decide (2 * held < limit) then
    (s.setPort p { x with headroom := held, xoff := false }).emit (.pfc p (s.oval keyTransportPcp) false)
  else if x.headroom = held then s else s.setPort p { x with headroom := held }

/-- Both ports. -/
def updateHeadroom (s : State) : State := headroomOf (headroomOf s 0) 1

/-! ## Retirement (R60, R92, R98) -/

/-- A job retires: its entry is freed, its result versions are unpinned and its reservations end (R60, R92). -/
def retireJob (s : State) (j : Job) : State :=
  let t := { s with jobs := s.jobs.filter fun i => !(decide (i.qn = j.qn) && decide (i.desc.seq = j.desc.seq)) }
  let t := match j.finalSlot with
    | some n => { jFree t n with jReserved := t.jReserved - 1 }
    | none => t
  let t := (List.range 4).foldl (fun t k => match j.outVers.getD k none with
    | some n => if slotReturned j k then unpin t n j.order else t
    | none => t) t
  settleLinger { t with rLinger := t.rLinger ++ [(j.resv, j.supers)] }

/-- ACK_SEQ advances: every job it passes retires and the timer starts again (R98, R99). -/
def ackTo (s : State) (q : Nat) (seq : BitVec 32) : State :=
  let js := s.jobs.filter fun j => decide (j.qn = q) && decide (0 ≤ sdist j.desc.seq seq)
  let t := js.foldl retireJob s
  let t := t.setQueue q { t.queue q with
    ackSeq := seq, retxDue := t.time.now + t.oval keyRetxTimeout, retxInterval := t.oval keyRetxTimeout, retxHalted := none
    toSend := (t.queue q).toSend.filter fun x => !decide (0 ≤ sdist x.1 seq) }
  let t := settleTimer t q
  if q < 4096 then mirrorPut t (ackMarker q seq) else t

end Sys2Proof.Machine
end

