-- ==== Sys2Proof/Machine/Frames.lean ====
section
/-!
DEFINITION. Receiving transport frames: addresses, encapsulation, header checks, learning, classification and assembly
(R64 to R71, R79 to R81, R104, R183).
-/
namespace Sys2Proof.Machine

/-! ## Addresses and encapsulation (R64, R65, R112, R183) -/

/-- How a transport frame reached its port. -/
def reached (f : RxFrame) : FrameTo := { dstMac := f.dstMac, proto := f.proto, dstIp := f.dstIp, ipOk := f.ipOk, udpOk := f.udpOk }

/-- A transport frame is addressed to given addresses (R64, R112). -/
def addrMatch (f : RxFrame) (a : Addrs) : Bool := addressedTo f.encap (reached f) a

/-- Queue numbers of a taken-over source are set apart by this offset; the device's own stand at 0. -/
def srcBase (d : Nat) : Nat := 4096 * (d + 1)

/-- Whom a frame addresses: the device itself, or a source whose take-over is running (R64, R183). -/
def addressee (s : State) (f : RxFrame) : Option Nat :=
  if addrMatch f (ownAddrs s f.port) then some 0
  else (s.srcs.find? fun x => decide (x.takeover = 1) && addrMatch f (sourceAddrs x f.port)).map fun x => srcBase x.source

/-- The encapsulation is enabled and its checks hold (R64, R65). -/
def encapOk (f : RxFrame) (enable etype udp : Nat) : Bool := encapHolds f.encap (reached f) enable etype udp

/-- The frame is a transport frame for this device or a taken-over source, and the device serves: in a Dusk to P3
no more once the transport block has voted (R64, R65, R518, R554). -/
def transportFor (s : State) (f : RxFrame) : Option Nat :=
  if s.serving && s.powered && portUp s f.port && !(decide (s.power.phase = 1) && decide (s.power.target = 3) && decide (1 < s.power.block))
      && encapOk f (s.oval keyEncapEnable) (s.oval keyTransportEtype) (s.oval keyTransportUdp) then addressee s f
  else none

/-- The frame-level checks of R66 for a type, with its maximum COUNT and the length that the type and COUNT imply. -/
def headerOk (f : RxFrame) (type : Nat) (fromHost : Bool) (maxCount implied : Nat) : Bool :=
  decide (f.version = 1) && decide (f.type = type) && (if fromHost then decide (f.sender = 0xFFFF) else decide (f.sender ≤ 0x3FF))
    && decide (1 ≤ f.count) && decide (f.count ≤ maxCount) && decide (f.length = implied)
    && decide (f.length ≤ f.payload.length)

/-- A transport frame is received: discarded, counted in RX_BAD_HEADER, or served for its addressee. -/
def onFrame (s : State) (f : RxFrame) (type : Nat) (fromHost : Bool) (maxCount implied : Nat) (serve : Nat → State) : Res :=
  onUnit f.port 2 (done
    (match transportFor s f with
    | none => s
    | some base => if headerOk f type fromHost maxCount implied then serve base else s.bump keyRxBadHeader 1))

/-- The addresses, encapsulation and VLAN that a frame came from. -/
def peerIn (f : RxFrame) : Peer := { mac := f.srcMac, encap := f.encap, ip := f.srcIp, udp := f.srcUdp, vlan := f.vlan }

/-- Learn the addresses of a host frame that names a queue (R104). -/
def learn (s : State) (q : Nat) (f : RxFrame) : State :=
  s.setQueue q (if f.port = 0 then { s.queue q with peer0 := some (peerIn f) } else { s.queue q with peer1 := some (peerIn f) })

/-- The 8-byte entries of an ACK or RESEND body: queue and sequence number (R76). -/
def queueEntries (f : RxFrame) : List (Nat × BitVec 32) :=
  (List.range f.count).map fun i =>
    let v := beNat (slice f.payload (8 * i) 8)
    (bits v 63 52, BitVec.ofNat 32 (bits v 31 0))

/-! ## Assembly (R71, R81) -/

/-- The assembly of a job. -/
def asmGet (s : State) (q : Nat) (seq : BitVec 32) : Option Asm :=
  (s.asms.find? fun x => decide (x.1 = (q, seq))).map (·.2)

/-- Forget the assembly of a job. -/
def asmDel (s : State) (q : Nat) (seq : BitVec 32) : State :=
  { s with asms := s.asms.filter fun x => !decide (x.1 = (q, seq)) }

/-- Replace the assembly of a job. -/
def asmSet (s : State) (q : Nat) (seq : BitVec 32) (a : Asm) : State :=
  if (asmGet s q seq).isSome then { s with asms := updWhere (fun x => decide (x.1 = (q, seq))) (fun x => (x.1, a)) s.asms }
  else { s with asms := s.asms ++ [((q, seq), a)] }

/-- An assembly that holds nothing yet. -/
def Asm.new (now : Nat) : Asm :=
  { desc := none, mask := 0, descPort := 0, segs := [], started := now, complete := false, waiting := false }

/-- A byte of a slot is held. -/
def byteHeld (a : Asm) (k i : Nat) : Bool :=
  a.segs.any fun g => decide (g.slot = k) && decide (g.offset ≤ i) && decide (i < g.offset + g.bytes.length)

/-- End of the run of held bytes of a slot from a place on, in so many segments. -/
def coveredTo (a : Asm) (k : Nat) : Nat → Nat → Nat
  | pos, 0 => pos
  | pos, n + 1 =>
    match a.segs.find? fun g => decide (g.slot = k) && decide (g.offset ≤ pos) && decide (pos < g.offset + g.bytes.length) with
    | some g => coveredTo a k (g.offset + g.bytes.length) n
    | none => pos

/-- Bytes lo to hi of a slot are all held. -/
def covered (a : Asm) (k lo hi : Nat) : Bool := decide (hi ≤ coveredTo a k lo a.segs.length)

/-- TOTAL_LEN of a slot of which something is held. -/
def slotTotal (a : Asm) (k : Nat) : Option Nat := (a.segs.find? fun g => decide (g.slot = k)).map (·.total)

/-- The bytes of a slot: of two segments that hold a byte the one held first stands (R80). -/
def slotBytes (a : Asm) (k : Nat) : List Byte :=
  ((a.segs.filter fun g => decide (g.slot = k)).reverse.foldl (fun (b : List Byte) g =>
    b.take g.offset ++ g.bytes ++ b.drop (g.offset + g.bytes.length)) (fill ((slotTotal a k).getD 0) 0))

/-- Units of a job: the sum over its masked slots (R91). -/
def asmUnits (a : Asm) : Nat :=
  ((List.range 4).map fun k => if tbit a.mask k then ((slotTotal a k).getD 0 + 63) / 64 else 0).sum

/-- Every masked slot is complete (R71). -/
def slotsComplete (a : Asm) : Bool :=
  (List.range 4).all fun k => !tbit a.mask k || (match slotTotal a k with | some n => covered a k 0 n | none => false)

/-- The held descriptor and segments show a fault already: a segment beyond its pool's buffers (R71), a mask bit for a
slot that the loaded graph does not use or that is null, or data for a slot whose mask bit is clear (R81). -/
def earlyFault (s : State) (a : Asm) : Bool :=
  match a.desc with
  | none => false
  | some d => (List.range 4).any fun k =>
    let h := nth0 d.inH k
    let bad := match s.graph d.graph with
      | some g => tbit a.mask k && (!g.inUsed.contains k || decide (h = 0))
      | none => false
    match slotTotal a k with
    | some n => bad || !tbit a.mask k || (decide (h ≠ 0) && decide (poolMemory (hPool h) ≠ 0) && decide ((poolCfg s (hPool h)).size < n))
    | none => bad

/-- DATA_MISMATCH found before step 2: every part is discarded and the refusal sent at once (R71, R81). -/
def mismatch (s : State) (q : Nat) (seq : BitVec 32) (p : Nat) : State := refuse (asmDel s q seq) q 0x14 seq p

/-- Judge an assembly after something was stored: a fault, Complete, or still Assembling (R81). -/
def judgeAsm (s : State) (q : Nat) (seq : BitVec 32) (a : Asm) (p : Nat) : State :=
  if earlyFault s a then mismatch s q seq p
  else asmSet s q seq { a with complete := a.complete || (a.desc.isSome && slotsComplete a) }

/-! ## Classification (R79, R80) -/

/-- d of R79. -/
def dedupDist (s : State) (q : Nat) (seq : BitVec 32) : Int := sdist (s.queue q).nextSeq seq

/-- One descriptor of a DESC frame (R79, R81). -/
def takeDesc (s : State) (p : Nat) (d : Desc) (mask : Nat) : State :=
  let q := d.sqid
  let dist := dedupDist s q d.seq
  if !(s.queue q).enable then refuse (s.bump keyRxDisabled 1) q 0x18 d.seq p
  else if dist < 0 then
    if dist < -(s.oval keyDedupWindow : Int) then refuse (s.bump keyRxStale 1) q 0x17 d.seq p
    else
      let t := s.bump keyRxDuplicateDesc 1
      match s.job q d.seq with
      | some j => if j.pastStep6 then answerDuplicate t q d.seq p else t
      | none => answerDuplicate t q d.seq p
  else if precedes d.seq (s.queue q).creditSeq then
    let a := (asmGet s q d.seq).getD (Asm.new s.time.now)
    if a.desc.isSome then s.bump keyRxDuplicateDesc 1
    else judgeAsm s q d.seq { a with desc := some d, mask, descPort := p } p
  else refuse (s.bump keyRxNoCredit 1) q 0x16 d.seq p

/-- A segment alone, or against the others held for its slot, breaks R70 or R71. -/
def segFault (a : Asm) (k total off len : Nat) : Bool :=
  decide (off % 64 ≠ 0) || decide (total = 0) || decide (len = 0) || decide (8960 < len)
    || (decide (len % 64 ≠ 0) && decide (off + len ≠ total)) || decide (total < off + len)
    || (match slotTotal a k with | some n => decide (n ≠ total) | none => false)

/-- One DATA segment (R80, R81). -/
def takeData (s : State) (p q : Nat) (k : Nat) (seq : BitVec 32) (total off : Nat) (b : List Byte) (bad : Option BadWord) : State :=
  if !(s.queue q).enable then s.bump keyRxDisabled 1
  else if dedupDist s q seq < 0 then s.bump keyRxDuplicateData 1
  else if !precedes seq (s.queue q).creditSeq then s.bump keyRxNoCredit 1
  else
    let a := (asmGet s q seq).getD (Asm.new s.time.now)
    if decide (0 < b.length) && covered a k off (off + b.length) then s.bump keyRxDuplicateData 1
    else if segFault a k total off b.length then mismatch s q seq p
    else judgeAsm s q seq { a with segs := a.segs ++ [{ port := p, slot := k, total, offset := off, bytes := b, bad }] } p

/-- A descriptor of a host frame addressed to a taken-over source (R183); a queue of the source of which nothing was
mirrored is not enabled. -/
def takenOverDesc (s : State) (base p : Nat) (d : Desc) : State :=
  let q := base + d.sqid
  if (s.queue q).enable && precedes d.seq (s.queue q).nextSeq then answerDuplicate s q d.seq p else refuse s q 0x18 d.seq p

end Sys2Proof.Machine
end

