-- ==== Sys2Proof/Machine/Transport.lean ====
section
/-!
DEFINITION. The commands of the job transport: frames from the host, acceptance, credit, retransmission, release and the
ports (R44, R79 to R106).
-/
namespace Sys2Proof.Machine

/-! ## Frames from the host -/

/-- Descriptors of a DESC body with their masks (R69). -/
def descItems (f : RxFrame) : List (Desc × Nat) :=
  (List.range f.count).map fun i =>
    let m := (beNat (slice f.payload (i / 2) 1))
    (descOf (beNat (slice f.payload (72 + 64 * i) 64)), if i % 2 = 0 then bits m 7 4 else bits m 3 0)

/-- R79: a DESC frame; each descriptor is classified. -/
def execDesc (f : RxFrame) (s : State) : Res :=
  onFrame s f 1 true 140 (72 + 64 * f.count) fun base =>
    let items := descItems f
    let t := items.foldl (fun t x => learn t (base + x.1.sqid) f) s
    updateHeadroom (items.foldl (fun t x =>
      if base = 0 then takeDesc t f.port x.1 x.2 else takenOverDesc t base f.port x.1) t)

/-- R80: a DATA segment. -/
def execData (f : RxFrame) (s : State) : Res :=
  let h := beNat (slice f.payload 0 16)
  let q := bits h 127 116
  onFrame s f 2 true 1 (16 + bits h 15 0) fun base =>
    let t := learn s (base + q) f
    if base = 0 then
      updateHeadroom (takeData t f.port q (bits h 115 114) (BitVec.ofNat 32 (bits h 111 80)) (bits h 79 48) (bits h 47 16)
        (cut f.payload 16 (bits h 15 0)) f.bad)
    else t

/-- A take-over ends when every record of the source has been acknowledged: its addresses are dropped and its share freed
(R183). -/
def endTakeover (s : State) (base : Nat) : State :=
  if base ≠ 0 ∧ s.jobs.all (fun j => !decide (j.buddyOf = some (base / 4096 - 1))) then
    { s with srcs := updWhere (fun x => decide (x.source = base / 4096 - 1) && decide (x.takeover = 1))
               (fun x => { x with takeover := 2, entries := [], entriesB := [] }) s.srcs
             queues := s.queues.filter fun x => decide (x.1 / 4096 ≠ base / 4096)
             aon2 := s.aon2.filter fun x => decide (x.1 / 4096 ≠ base / 4096) }
  else s

/-- One ACK entry (R98). -/
def takeAck (s : State) (q : Nat) (seq : BitVec 32) : State :=
  let x := s.queue q
  if precedes x.releasedSeq seq then s.bump keyAckInvalid 1
  else if precedes x.ackSeq seq then ackTo s q seq
  else s

/-- R98: an ACK frame; the jobs that ACK_SEQ passes retire. -/
def execAck (f : RxFrame) (s : State) : Res :=
  onFrame s f 7 true 1120 (8 * f.count) fun base =>
    let es := queueEntries f
    let t := es.foldl (fun t x => learn t (base + x.1) f) s
    endTakeover (es.foldl (fun t x => takeAck t (base + x.1) x.2) t) base

/-- One RESEND entry: at most one in each RESEND_HOLDOFF is served (R100). -/
def takeResend (s : State) (p q : Nat) (seq : BitVec 32) : State :=
  let x := s.queue q
  let free := match x.lastResend with
    | some t => decide (t + s.oval keyResendHoldoff ≤ s.time.now)
    | none => true
  if free then serveResend (s.setQueue q { x with lastResend := some s.time.now }) p q seq else s

/-- R100: a RESEND frame; records and results are retransmitted on the port of arrival. -/
def execResend (f : RxFrame) (s : State) : Res :=
  onFrame s f 8 true 1120 (8 * f.count) fun base =>
    let es := queueEntries f
    let t := es.foldl (fun t x => learn t (base + x.1) f) s
    es.foldl (fun t x => takeResend t f.port (base + x.1) x.2) t

/-! ## Pauses (R96) -/

/-- R96: a received pause; a quantum is 512 bit times at 400 Gbit/s, and a pause of 0 quanta ends one. -/
def execPfcPauseRx (port prio quanta : Nat) (s : State) : Res :=
  onUnit port 2 (onUnit prio 8 (done
    (let x := s.port port
     let rest := x.pauses.filter fun y => decide (y.1 ≠ prio)
     if quanta = 0 then resumePort (s.setPort port { x with pauses := rest }) port
     else
       let t := s.setPort port { x with pauses := rest ++ [(prio, s.time.now + quanta * 128 / 100)] }
       (queuesOn t port).foldl settleTimer t)))

/-- R96: the time of a received pause runs out. -/
def execPfcPauseExpiry (port prio : Nat) (s : State) : Res :=
  onUnit port 2 (onUnit prio 8
    (let x := s.port port
     let late (y : Nat × Nat) : Bool := decide (y.1 = prio) && decide (y.2 ≤ s.time.now)
     whenSt (x.pauses.any late) s (resumePort (s.setPort port { x with pauses := x.pauses.filter fun y => !late y }) port)))

/-! ## Acceptance (R73, R81 to R89) -/

/-- R81: an assembling job reaches ASSEMBLY_TIMEOUT. -/
def execAssemblyTimeout (q : Nat) (seq : BitVec 32) (s : State) : Res :=
  match asmGet s q seq with
  | none => done s
  | some a =>
    whenSt (!a.complete && decide (a.started + s.oval keyAssemblyTimeout * usNs ≤ s.time.now)) s
      (updateHeadroom ((asmDel s q seq).bump keyAssemblyExpired 1))

/-- A non-null handle names a configured pool that is no TCM pool and an index below its COUNT; an output names no pool
of role 1 or 3 (R29). -/
def handleOk (s : State) (out : Bool) (h : Nat) : Bool :=
  decide (h = 0) ||
    (poolConfigured s (hPool h) && decide (poolMemory (hPool h) ≠ 5) && decide (hIndex h < (poolCfg s (hPool h)).count)
      && !(out && (decide (poolRole s (hPool h) = 1) || decide (poolRole s (hPool h) = 3))))

/-- A slot that holds data or has its mask bit set does not match the graph (R71, R73). -/
def slotMismatch (s : State) (a : Asm) (d : Desc) (g : Graph) (k : Nat) : Bool :=
  let h := nth0 d.inH k
  match slotTotal a k with
  | some n => !tbit a.mask k || !g.inUsed.contains k || decide (h = 0) || decide ((poolCfg s (hPool h)).size < n)
  | none => tbit a.mask k && (!g.inUsed.contains k || decide (h = 0))

/-- Step 2 of R83: the first check that fails, in the order of R73. -/
def refusalOf (s : State) (a : Asm) (d : Desc) : Option Nat :=
  match s.graph d.graph with
  | none => some 0x10
  | some g =>
    let q := s.queue d.sqid
    if decide (d.graph = 0) && d.timed then some 0x19
    else if !(d.inH.all (handleOk s false) && d.outH.all (handleOk s true)) then some 0x11
    else if (g.inUsed.any fun k => decide (nth0 d.inH k = 0)) || (g.outUsed.any fun k => decide (nth0 d.outH k = 0)) then some 0x12
    else if d.timed && !(decide (d.cell < 4095) && (s.cell d.cell).enable) then some 0x13
    else if (List.range 4).any (slotMismatch s a d g) then some 0x14
    else if q.resultSlots < (d.outH.filter fun h => decide (hPool h = 0x7F)).length then some 0x15
    else if 2 ^ 39 ≤ (q.creditUnits + 2 ^ 41 - q.acceptedUnits - asmUnits a) % 2 ^ 40 then some 0x16
    else none

/-- Step 3 of R83: each masked slot's bytes are copied to a free buffer of its pool; none when a pool has none. A pool
that only the receive path writes takes no copy (assumption 30). -/
def copySlots (s : State) (a : Asm) (d : Desc) : List Nat → Option (State × List (Nat × Nat))
  | [] => some (s, [])
  | k :: r =>
    let p := hPool (nth0 d.inH k)
    if !tbit a.mask k || decide (poolRole s p = 1) || decide (poolRole s p = 3) then copySlots s a d r
    else match freePhys s p with
      | none => none
      | some n =>
        let addr := physAddr s p n
        let t := (devWrite (zeroRange (takePhys s p n) addr (poolCfg s p).size) addr (slotBytes a k)).1
        (copySlots t a d r).map fun x => (x.1, (k, n) :: x.2)

/-- The words of the ingress buffer that hold a job's data are read for the copy: a correctable one is corrected, and the
copy fails at one that is not (R408, R413, R415). An uncorrectable word that a second read confirms is logged as poisoned. -/
def readSegs (s : State) (a : Asm) : State × Bool :=
  a.segs.foldl (fun (x : State × Bool) g =>
    let log (t : State) (outcome : Nat) (event : Bool) : State :=
      memRecord t { addr := 0, memory := 5, finder := 7, outcome } event
    match g.bad with
    | none => x
    | some .correctable => (x.1.bump keySramCorrected 1, x.2)
    | some .uncorrectableOnce => (log (logFault (x.1.bump keySramUncorrectable 1) (faultNoJob x.1 0xFFFF 0x05 0x0E)) 1 false, true)
    | some .poison => (log (logFault (x.1.bump keyPoisonReads 1) (faultNoJob x.1 0xFFFF 0x04 0x0E)) 3 false, true)
    | some _ =>
      (log (logFault ((x.1.bump keySramUncorrectable 1).bump keyPoisonedWords 1) (faultNoJob x.1 0xFFFF 0x05 0x0E)) 2 true, true))
    (s, false)

/-- The delivered version of a slot, visible from step 4 and pinned for its job (R35, R38). -/
def deliverSlot (s : State) (d : Desc) (order k phys len : Nat) : State × Nat :=
  let n := s.nextVer
  let t := addVer s { handle := nth0 d.inH k, phys, len, st := .valid, order, superseded := false, pins := [order] }
  ((installVersion t n).1, n)

/-- Deliver every copied slot, with the version numbers made. -/
def deliverSlots (s : State) (a : Asm) (d : Desc) (order : Nat) : List (Nat × Nat) → State × List (Nat × Nat)
  | [] => (s, [])
  | (k, phys) :: r =>
    let (t, n) := deliverSlot s d order k phys ((slotTotal a k).getD 0)
    let (u, l) := deliverSlots t a d order r
    (u, (k, n) :: l)

/-- The version each used input slot reads (R35), and fifth that of the HARQ soft buffer (R288). -/
def resolveSlots (s : State) (d : Desc) (g : Graph) (order : Nat) (own : List (Nat × Nat)) : List Nat → State × List (Option VerRef)
  | [] => (s, [])
  | k :: r =>
    let (t, v) :=
      if k = 4 then
        let h := harqHandle g d
        if harqValid s h then (let (t, v) := resolveInput s h order; (t, some v)) else (s, none)
      else if !g.inUsed.contains k then (s, none)
      else match own.find? fun x => decide (x.1 = k) with
        | some x => (s, some (VerRef.pool x.2))
        | none => let (t, v) := resolveInput s (nth0 d.inH k) order; (t, some v)
    let (u, l) := resolveSlots t d g order own r
    (u, v :: l)

/-- The pending version of each used output slot, and fifth that of the HARQ soft buffer (R35, R36, R288). -/
def pendingSlots (s : State) (d : Desc) (g : Graph) (order : Nat) : List Nat → State × List (Option Nat)
  | [] => (s, [])
  | k :: r =>
    let h := if k = 4 then (if harqValid s (harqHandle g d) then harqHandle g d else 0)
      else if g.outUsed.contains k then nth0 d.outH k else 0
    let (t, v) := if h = 0 then (s, none) else
      (addVer s { handle := h, phys := 0, len := 0, st := .pending, order, superseded := false, pins := [] }, some s.nextVer)
    let (u, l) := pendingSlots t d g order r
    (u, v :: l)

/-- A job as it stands at its acceptance. -/
def Job.new (d : Desc) (order now : Nat) : Job :=
  { desc := d, order, acceptTime := now, deadline := none, pastStep6 := false, unmirrored := false, acceptSlot := 0
    finalSlot := none, inVers := [], expanded := false, started := false, startedBeforeReset := false, incomplete := false
    admission := .none, tried := false, charge := 0, demoted := false, overrun := false, cluster := 0, migrated := false, tasks := []
    lastPlace := none, record := none, finTime := 0, released := false, outVers := [], supers := [], resv := 0
    ingressUnits := 0, lostOut := 0, buddyOf := none }

/-- Steps 4 and 5 of R83: the ACCEPT entry, the versions, NEXT_SEQ, ACCEPTED_UNITS and expansion. -/
def journalJob (s : State) (a : Asm) (d : Desc) (copies : List (Nat × Nat)) : State :=
  let q := s.queue d.sqid
  let g := (s.graph d.graph).getD Graph.null
  let order := s.nextOrder + 1
  let units := asmUnits a
  let slot := jFreeSlot s
  let s := s.setQueue d.sqid { q with pendingRec := some (d.seq, units) }
  let (s, own) := deliverSlots s a d order copies
  let (s, ins) := resolveSlots s d g order own [0, 1, 2, 3, 4]
  let (s, outs) := pendingSlots s d g order [0, 1, 2, 3, 4]
  let j : Job :=
    { Job.new d order s.time.now with
      deadline := if d.timed then some (resolveDeadline (s.cell d.cell) d.deadline s.time.now) else none
      acceptSlot := slot, inVers := ins, outVers := outs, resv := q.resultSlots, ingressUnits := units }
  let s := jWrite { s with jobs := s.jobs ++ [j], nextOrder := order } slot (acceptEntry j)
  let s := s.setQueue d.sqid { s.queue d.sqid with
    nextSeq := d.seq + 1, acceptedUnits := (q.acceptedUnits + units) % 2 ^ 40 }
  let s := { asmDel s d.sqid d.seq with iReserved := s.iReserved - 64 - 64 * units }
  if s.awake then expandJob s d.sqid d.seq else s

/-- Step 6 of R83: mirrored and awaited, accepted UNMIRRORED while the buddy is unreachable under PREFERRED, or held
under REQUIRED; step 7 at once where no buddy is configured (R89). -/
def mirrorStep (s : State) (q : Nat) (seq : BitVec 32) : State :=
  match s.job q seq with
  | none => s
  | some j =>
    if !buddyOn s then entryReady s q seq
    else if s.mirrorTx.reachable then mirrorPut s (mirrorAccept s j)
    else if s.oval keyMirrorMode = 0 then entryReady (s.setJob { j with unmirrored := true }) q seq
    else s

/-- R83: the acceptance steps of the job whose SEQ is NEXT_SEQ. -/
def execJobAccept (q : Nat) (s : State) : Res :=
  onUnit q 4096
    (let seq := (s.queue q).nextSeq
     match asmGet s q seq with
     | none => done s
     | some a =>
       match a.complete && s.serving && s.powered && !(decide (s.power.phase = 1) && decide (s.power.target = 3)), a.desc with
       | true, some d =>
         match refusalOf s a d with
         | some code =>
           let t := if code = 0x16 then s.bump keyRxNoCredit 1 else s
           done (updateHeadroom (refuse (asmDel t q seq) q code seq a.descPort))
         | none =>
           match copySlots s a d [0, 1, 2, 3] with
           | none => done (if a.waiting then s else (asmSet s q seq { a with waiting := true }).bump keyPoolWaits 1)
           | some (t, copies) =>
             let r := readSegs t a
             if r.2 then done (updateHeadroom (settleAll s (asmDel ((readSegs s a).1.bump keyIngressErrors 1) q seq)))
             else done (jobWake (updateHeadroom (settleAll s (mirrorStep (journalJob r.1 a d copies) q seq))))
       | _, _ => done s)

/-! ## Holds and timers -/

/-- R87: pending acceptance entries have been held for ACCEPT_COALESCE. -/
def execAcceptCoalesceExpiry (port : Nat) (s : State) : Res :=
  onUnit port 2
    (whenSt ((s.port port).pending.any fun e => decide (e.since + s.oval keyAcceptCoalesce ≤ s.time.now)) s
      (flushEntries s port))

/-- R97: a released record has been held for COMPL_COALESCE. -/
def execComplCoalesceExpiry (q : Nat) (s : State) : Res := done (sendDue s q)

/-- R99: the retransmission timer of a queue expires. -/
def execRetxTimeout (q : Nat) (s : State) : Res :=
  let x := s.queue q
  whenSt (awaitsAck s q && x.retxHalted.isNone && s.serving && canSend s x.activePort
    && decide (x.retxDue ≤ s.time.now)) s (retxFire s q)

/-- R94: CREDIT_REFRESH passes. -/
def execCreditRefresh (s : State) : Res :=
  whenSt (s.serving && decide (s.lastRefresh + s.oval keyCreditRefresh ≤ s.time.now)) s
    ((s.queues.filter fun x => x.2.enable && decide (x.1 < 4096)).foldl (fun t x => sendCredit t x.1)
      { s with lastRefresh := s.time.now })

/-- The enabled queue that follows the one served last, round robin (R92). -/
def nextGrant (s : State) : Option Nat :=
  let qs := (s.queues.filter fun x => x.2.enable && decide (x.1 < 4096)).map (·.1)
  match qs.find? fun q => decide (s.lastGrant < q) with
  | some q => some q
  | none => qs.head?

/-- R92: credit is granted to the next queue. -/
def execCreditGrant (s : State) : Res :=
  match s.serving && s.powered, nextGrant s with
  | true, some q => done (updateHeadroom (grantTo { s with lastGrant := q } q))
  | _, _ => done s

/-! ## Release (R44, R45, R51) -/

/-- The oldest unreleased job of a queue. -/
def nextRelease (s : State) (q : Nat) : Option Job := s.jobs.find? fun j => decide (j.qn = q) && !j.released

/-- The COMMIT or FINAL entry with RELEASED_LATE (R57). -/
def markLate (s : State) (j : Job) (late : Bool) : State :=
  match j.finalSlot with
  | none => s
  | some n => match kget s.ja n with
    | some e => match e.body with
      | .final r bufs slot t _ => jWrite s n { e with body := .final r bufs slot t late }
      | _ => s
    | none => s

/-- Release a finalised job's record (R44, R45, R51, R97, R177). -/
def releaseJob (s : State) (j : Job) (r : Rec) : State :=
  let q := j.qn
  let x := s.queue q
  let late := decide (j.finTime + s.oval keyReleaseHold < s.time.now)
  let r := { r with lateRelease := late }
  let t := (markLate s j late).setJob { j with record := some r, released := true }
  let t := t.setQueue q { t.queue q with
    releasedSeq := j.desc.seq, toSend := x.toSend ++ [(j.desc.seq, s.time.now)]
    retxDue := if x.releasedSeq = x.ackSeq then s.time.now + s.oval keyRetxTimeout else x.retxDue
    retxInterval := if x.releasedSeq = x.ackSeq then s.oval keyRetxTimeout else x.retxInterval
    retxHalted := if x.releasedSeq = x.ackSeq then none else x.retxHalted }
  let t := settleTimer t q
  let t := if j.buddyOf.isNone then mirrorPut t (releaseMarker q j.desc.seq j.desc.seq (b2n late)) else t
  if s.oval keyComplCoalesce = 0 then sendDue t q else t

/-- R44: the record of the oldest unreleased job of a queue is released once it is finalised. -/
def execRecordRelease (q : Nat) (s : State) : Res :=
  match s.serving, nextRelease s q with
  | true, some j => match j.record with
    | some r => done (releaseJob s j r)
    | none => done s
  | _, _ => done s

/-! ## Ports (R104, R105) -/

/-- A queue's active port is another one now; its timer halts or runs as that port is paused or not. -/
def setActive (s : State) (q p : Nat) : State := settleTimer (s.setQueue q { s.queue q with activePort := p }) q

/-- The virtual links of eCPRI follow as queues do (R373). -/
def moveVlinks (s : State) (f : Nat → VLink → Nat) : State :=
  { s with fh := { s.fh with vlinks := s.fh.vlinks.map fun x => (x.1, { x.2 with activePort := f x.1 x.2 }) } }

/-- Queues never used leave a port for another, as listed ones do (R104, R105). -/
def moveFresh (s : State) (a b : Nat) : State :=
  let t := s.setPort a { s.port a with away := true }
  t.setPort b { t.port b with away := false }

/-- Queues never used return to their home port. -/
def homeFresh (s : State) (p : Nat) : State := s.setPort p { s.port p with away := false }

/-- A queue leaves a failed port: CREDIT on the other, then everything unacknowledged again (R105). -/
def failOver (s : State) (q p : Nat) : State := retxFire (sendCredit (setActive s q p) q) q

/-- Entries not yet transmitted go to the other port (R105). -/
def moveEntries (s : State) (a b : Nat) : State :=
  let es := (s.port a).pending
  if es.isEmpty then s
  else
    let t := s.setPort a { s.port a with pending := [] }
    flushEntries (t.setPort b { t.port b with pending := (t.port b).pending ++ es }) b

/-- R105: a port whose PCS has reported a fault since an instant goes down once it has persisted for PORT_DOWN_TIME; the
queues active on it move to the other port. -/
def execPortDown (fault : PcsFault) (s : State) : Res :=
  let port := fault.port
  onUnit port 2
    (whenSt (portUp s port && decide (fault.since + s.oval keyPortDownTime ≤ s.time.now)) s
      (let other := 1 - port
       let t := { s.setPort port { s.port port with state := 0, xoff := false } with
         held := s.held.filter fun x => decide (x.1 ≠ port) }
       let t := logFault t (faultNoJob t (regPort port) 0x0E 0x0D)
       let qs := queuesOn t port
       let t := moveFresh (qs.foldl (fun t q => setActive t q other) t) port other
       let t := moveEntries t port other
       let t := qs.foldl (fun t q => failOver t q other) t
       let t := moveVlinks t fun _ x => if x.activePort = port then other else x.activePort
       settle s (portLeavesPtp t port)))

/-- What waited for a port leaves as it comes up: acceptance entries first, then credit, records and timers that stand
expired (R84, R94, R99, R106). -/
def portOpens (s : State) (p : Nat) : State :=
  let t := resumePort (flushPending s p) p
  (queuesOn t p).foldl (fun t q =>
    if (t.queue q).retxHalted.isNone && decide ((t.queue q).retxDue ≤ t.time.now) then retxFire t q else t) t

/-- R105: the PCS of a down port reports link up; queues whose active port is down move to it (R104). -/
def execPortUp (port : Nat) (s : State) : Res :=
  onUnit port 2
    (whenSt (!portUp s port && s.serving && s.powered) s
      (let other := 1 - port
       let t := s.setPort port { s.port port with state := 2, upSince := s.time.now }
       let t := if portUp t other then t else
         let qs := queuesOn t other
         let t := moveFresh (qs.foldl (fun t q => setActive t q port) t) other port
         let t := moveEntries t other port
         let t := qs.foldl (fun t q => failOver t q port) t
         moveVlinks t fun _ _ => port
       settle s (updateHeadroom (portOpens t port))))

/-- R105: a home port has been up for PORT_UP_HOLD; its queues return. -/
def execPortUpHoldExpiry (port : Nat) (s : State) : Res :=
  onUnit port 2
    (let x := s.port port
     whenSt (decide (x.state = 2) && decide (x.upSince + s.oval keyPortUpHold * msNs ≤ s.time.now)) s
      (let t := s.setPort port { x with state := 1 }
       let t := (t.queues.filter fun y => decide (y.2.homePort = port) && decide (y.2.activePort ≠ port)).foldl
         (fun t y => setActive t y.1 port) (homeFresh t port)
       moveVlinks t fun n y => if tbit (beNat (s.domBytes keyEcpriVlinks (16 * n) 16)) 126 = decide (port = 1) then port
         else y.activePort))

end Sys2Proof.Machine
end

