-- ==== Sys2Proof/Machine/Buddy.lean ====
section
/-!
DEFINITION. Buddy mirroring: the stream received, acknowledged and sent again, the fence, the take-over and its end (R22,
R77, R89, R175 to R184, R526).
-/
namespace Sys2Proof.Machine

/-! ## Sources (R175) -/

/-- A source configured to mirror into this device. -/
def isSource (s : State) (d : Nat) : Bool :=
  decide (d ≠ 0xFFFF) && (decide (s.oval keyMirrorFrom0 = d) || decide (s.oval keyMirrorFrom1 = d))

/-- A source of which nothing is held. -/
def MirrorSrc.new (d : Nat) : MirrorSrc :=
  { source := d, expected := 0, synced := false, entries := [], entriesB := [], lastFrame := 0, ackDue := none
    identity := [], takeover := 0, dormant := false }

/-- The entries held of a source, each read from JA or, where that copy's CRC fails, from JB (R59). -/
def heldEntries (x : MirrorSrc) : List JEntry :=
  (x.entries.zip x.entriesB).filterMap fun e => if e.1.ok then some e.1 else if e.2.ok then some e.2 else none

/-- What is held of a source. -/
def srcOf (s : State) (d : Nat) : MirrorSrc := (s.srcs.find? fun x => decide (x.source = d)).getD (MirrorSrc.new d)

/-- Replace what is held of a source. -/
def setSrc (s : State) (x : MirrorSrc) : State :=
  if s.srcs.any fun y => decide (y.source = x.source) then
    { s with srcs := updWhere (fun y => decide (y.source = x.source)) (fun _ => x) s.srcs }
  else { s with srcs := s.srcs ++ [x] }

/-! ## Entries on the wire (R56, R77, R177) -/

/-- The entry that 72 bytes spell, where its CRC holds over the 70 bytes as they came (R56, R77). Reserved bits of the body
are ignored, so the entry is held with them zero (R3). -/
def entryOf (b : List Byte) : Option JEntry :=
  let t := beNat (b.take 8)
  let e : JEntry :=
    { kind := bits t 63 61, started := tbit t 60, sqid := bits t 59 48, seq := BitVec.ofNat 32 (bits t 47 16), crc := 0
      body := bodyOf (bits t 63 61) (slice b 8 64) }
  if (crc16 (b.take 6 ++ slice b 8 64)).toNat = bits t 15 0 ∧ e.kind ≠ 0 then some e.sealed else none

/-- Bytes of a marker. -/
def markerBytes (e : JEntry) : List Nat := match e.body with | .marker b => b | _ => []

/-- Subtype of a marker; none of another entry. -/
def markerKind (e : JEntry) : Option Nat := if e.kind = 7 then some (nth0 (markerBytes e) 0) else none

/-- A field of a marker (R2, R177). -/
def markerNat (e : JEntry) (off n : Nat) : Nat := beNat (((markerBytes e).drop off |>.take n).map (BitVec.ofNat 8))

/-- A RELEASE marker covers a record; its LATE_RELEASE bit (R177). -/
def releaseBit (e : JEntry) (q : Nat) (seq : BitVec 32) : Option Bool :=
  let first := BitVec.ofNat 32 (markerNat e 4 4)
  if markerKind e = some 1 ∧ markerNat e 2 2 = q ∧ inRange first (BitVec.ofNat 32 (markerNat e 8 4)) seq = true then
    some (tbit (markerNat e 16 32) (seq - first).toNat) else none

/-- An entry held at or below an ACK marker of its queue is freed, and a marker that a later one supersedes (R178). -/
def freedBy (m e : JEntry) : Bool :=
  match markerKind m with
  | some 2 =>
    let q := markerNat m 2 2
    let ack := BitVec.ofNat 32 (markerNat m 4 4)
    match markerKind e with
    | none => decide (e.sqid = q) && decide (0 ≤ sdist e.seq ack)
    | some 1 => decide (markerNat e 2 2 = q) && decide (0 ≤ sdist (BitVec.ofNat 32 (markerNat e 8 4)) ack)
    | some 2 => decide (markerNat e 2 2 = q)
    | some _ => false
  | some 3 => decide (markerKind e = some 3) && decide (markerNat e 2 2 = markerNat m 2 2)
  | some 4 => decide (markerKind e = some 4)
  | _ => false

/-- An entry taken at the expected position; none when the share is full (R178). A keep-alive is not journaled. -/
def takeEntry (share : Nat) (x : MirrorSrc) (e : JEntry) : Option MirrorSrc :=
  let y := { x with expected := x.expected + 1, dormant := decide (markerKind e = some 6) }
  match markerKind e with
  | some 0 => some y
  | some 6 => some y
  | _ =>
    let kept := (x.entries.zip x.entriesB).filter fun o => !freedBy e o.1
    if share ≤ kept.length then none
    else some { y with entries := kept.map (·.1) ++ [e], entriesB := kept.map (·.2) ++ [e]
                       identity := if markerKind e = some 4 then markerBytes e else y.identity }

/-- The entries of a frame from a stream position on; one whose CRC failed ends it (R178). -/
def takeEntries (share : Nat) : MirrorSrc → BitVec 32 → List (Option JEntry) → MirrorSrc
  | x, _, [] => x
  | x, p, e :: r =>
    if precedes p x.expected then takeEntries share x (p + 1) r
    else match e.bind (takeEntry share x) with
      | some y => takeEntries share y (p + 1) r
      | none => x

/-- A MIRROR frame of a source (R77, R178, R180), acknowledged to the addresses it came from (assumption 67). A source that
has been taken over is not acknowledged. -/
def takeMirror (s : State) (port : Nat) (peer : Peer) (d : Nat) (first : BitVec 32) (es : List (Option JEntry)) : State :=
  let x := srcOf s d
  if !isSource s d || decide (x.takeover ≠ 0) then s
  else
    let begins := decide (first = 0) && (match es.head? with | some (some e) => decide (markerKind e = some 4) | _ => false)
    let x := if begins then { MirrorSrc.new d with synced := true } else x
    let x := { x with lastFrame := s.time.now }
    if !x.synced || precedes x.expected first then setSrc s x
    else
      let y := takeEntries (s.oval keyMirrorShare) x first es
      let t := setSrc s y
      if decide (y.expected ≠ x.expected) || precedes (first + BitVec.ofNat 32 (es.length - 1)) y.expected then
        sendAck t d port peer else t

/-- R178: a MIRROR frame. -/
def execMirror (f : RxFrame) (s : State) : Res :=
  onFrame s f 9 false 124 (8 + 72 * f.count) fun base =>
    if base = 0 then
      takeMirror s f.port (peerIn f) f.sender (BitVec.ofNat 32 (beNat (slice f.payload 0 4)))
        ((List.range f.count).map fun i => entryOf (slice f.payload (8 + 72 * i) 72))
    else s

/-! ## Acknowledgement of the outgoing stream (R89, R179, R180) -/

/-- An acknowledged entry: a job's step 6 is complete, or the hold of a released record begins (R83, R97, R179). -/
def ackedEntry (s : State) (m : MirrorEntry) : State :=
  match markerKind m.entry with
  | none =>
    match s.job m.entry.sqid m.entry.seq with
    | some j => if j.pastStep6 then s else entryReady s m.entry.sqid m.entry.seq
    | none => s
  | some 1 =>
    let q := markerNat m.entry 2 2
    s.setQueue q { s.queue q with toSend := (s.queue q).toSend.map fun x =>
      if (releaseBit m.entry q x.1).isSome then (x.1, s.time.now) else x }
  | _ => s

/-- Everything that waits is sent if it is due. -/
def sendAllDue (s : State) : State := resumePort (resumePort s 0) 1

/-- The buddy has acknowledged up to a position. -/
def takeMirrorAck (s : State) (pos : BitVec 32) : State :=
  let t := { s with mirrorTx := { s.mirrorTx with lastAck := s.time.now, fenced := false } }
  if !t.mirrorTx.reachable then sendAllDue (startStream t)
  else
    let done := t.mirrorTx.unacked.filter fun m => decide (0 ≤ sdist m.pos pos)
    let t := { t with mirrorTx := { t.mirrorTx with
      acked := if precedes t.mirrorTx.acked pos then pos else t.mirrorTx.acked
      unacked := t.mirrorTx.unacked.filter fun m => !decide (0 ≤ sdist m.pos pos), sentAt := t.time.now, tries := 0 } }
    sendAllDue (done.foldl ackedEntry t)

/-- R89: a MIRROR_ACK frame from the buddy. -/
def execMirrorAck (f : RxFrame) (s : State) : Res :=
  onFrame s f 10 false 1 8 fun base =>
    if base = 0 ∧ buddyOn s = true ∧ f.sender = s.oval keyBuddy then
      takeMirrorAck s (BitVec.ofNat 32 (beNat (slice f.payload 0 4))) else s

/-- Jobs held in step 6 are accepted UNMIRRORED (R89). -/
def acceptUnmirrored (s : State) : State :=
  (s.jobs.filter fun j => j.buddyOf.isNone && !j.pastStep6).foldl (fun t j =>
    match t.job j.qn j.desc.seq with
    | some j => entryReady (t.setJob { j with unmirrored := true }) j.qn j.desc.seq
    | none => t) s

/-- The buddy is unreachable: it is probed with the IDENTITY of a new stream (R89, assumption 41). -/
def declareUnreachable (s : State) : State :=
  let probe : MirrorEntry := { pos := 0, entry := (identityMarker s).sealed, sent := s.time.now, tries := 0, held := false }
  { s with mirrorTx := { s.mirrorTx with
    reachable := false, unacked := [probe], nextPos := 1, acked := 0xFFFFFFFF } }

/-- R89: a MIRROR_ACK is MIRROR_TIMEOUT overdue after both ports were tried. -/
def execMirrorTimeout (s : State) : Res :=
  let x := s.mirrorTx
  whenSt (s.serving && buddyOn s && x.reachable && !x.unacked.isEmpty && decide (1 ≤ x.tries)
      && decide (x.sentAt + s.oval keyMirrorTimeout ≤ s.time.now)) s
    (let t := declareUnreachable (s.bump keyMirrorTimeouts 1)
     if t.oval keyMirrorMode = 0 then sendAllDue (acceptUnmirrored t) else t)

/-- R178: MIRROR_TIMEOUT ÷ 4 has passed since an unacknowledged entry was sent; everything unacknowledged is sent again,
on the other port (R175). -/
def execMirrorResend (s : State) : Res :=
  let x := s.mirrorTx
  whenSt (s.serving && s.powered && buddyOn s
      && (x.unacked.any fun m => decide (m.sent + s.oval keyMirrorTimeout / 4 ≤ s.time.now))) s
    (resendMirror { s with mirrorTx := { x with tries := x.tries + 1 } })

/-- R177: 1 ms passes with nothing sent. -/
def execMirrorKeepalive (s : State) : Res :=
  whenSt (s.serving && s.powered && buddyOn s && s.mirrorTx.reachable && decide (s.mirrorTx.lastSend + msNs ≤ s.time.now)) s
    (mirrorPut s keepAlive)

/-- R180: BUDDY_FENCE_TIME passes with no MIRROR_ACK under REQUIRED. -/
def execBuddyFence (s : State) : Res :=
  whenSt (s.serving && decide (s.oval keyMirrorMode = 1) && !s.mirrorTx.fenced
      && decide (s.mirrorTx.lastAck + s.oval keyBuddyFenceTime * msNs ≤ s.time.now)) s
    ({ s with mirrorTx := { s.mirrorTx with fenced := true } }.bump keyFences 1)

/-! ## Take-over (R181, R182) -/

/-- The deadline of a mirrored timed job: from its cell's CELL marker and the k congruent to EPOCH_K nearest an instant
(R182). -/
def mirroredDeadline (es : List JEntry) (d : Desc) (epochK now : Nat) : Option Int :=
  match es.find? fun e => decide (markerKind e = some 3) && decide (markerNat e 2 2 = d.cell) with
  | none => none
  | some m =>
    let period : Int := (markerNat m 16 4 * 1000 : Nat)
    let base : Int := (markerNat m 8 8 + 8 * d.deadline : Nat)
    let kf := ((now : Int) - base) / period
    let k1 := kf - (kf - epochK) % 4096
    let d1 := base + k1 * period
    let d2 := d1 + 4096 * period
    some (if d2 - now ≤ now - d1 then d2 else d1)

/-- A mirrored job can be run on this device (R182). -/
def reExecutable (s : State) (d : Desc) : Bool :=
  match s.graph d.graph with
  | none => false
  | some g => g.inUsed.isEmpty && g.ctxParams.isEmpty && g.harqParams.isEmpty
      && g.outUsed.all fun k => poolConfigured s (hPool (nth0 d.outH k))

/-- The descriptor taken for a record whose mirrored ACCEPT entry is no longer held: each output counts as a result. -/
def bareDesc (q : Nat) (seq : BitVec 32) : Desc :=
  { sqid := q, seq, graph := 0, prot := false, guaranteed := false, timed := false, cell := 0, deadline := 0, budget := 0
    inH := [0, 0, 0, 0], outH := List.replicate 4 0x7F000000, param := [0, 0, 0] }

/-- The mirrored ACCEPT entry of a job. -/
def heldAccept (es : List JEntry) (q : Nat) (seq : BitVec 32) : Option (Desc × Nat) :=
  es.findSome? fun e => match e.body with
    | .accept d k => if e.kind = 4 ∧ e.sqid = q ∧ e.seq = seq then some (d, k) else none
    | _ => none

/-- The mirrored COMMIT or FINAL entry of a job: whether it is a COMMIT, its record and finalisation time. -/
def heldFinal (es : List JEntry) (q : Nat) (seq : BitVec 32) : Option (Bool × Rec × Nat) :=
  es.findSome? fun e => match e.body with
    | .final r _ _ t _ => if e.sqid = q ∧ e.seq = seq then some (decide (e.kind = 5), r, t) else none
    | _ => none

/-- LATE_RELEASE from the RELEASE marker that covers a record. -/
def heldRelease (es : List JEntry) (q : Nat) (seq : BitVec 32) : Option Bool := es.findSome? fun e => releaseBit e q seq

/-- One held job of a source (R182). -/
def takeJob (s : State) (dev : Nat) (es : List JEntry) (q : Nat) (seq : BitVec 32) : State :=
  let order := s.nextOrder + 1
  let (d, k) := (heldAccept es q seq).getD (bareDesc q seq, 0)
  let qn := srcBase dev + q
  let j : Job := { Job.new d order s.time.now with
    deadline := if d.timed then mirroredDeadline es d k s.time.now else none, pastStep6 := true, lostOut := 15, buddyOf := some dev }
  let put (s : State) (j : Job) : State := { s with jobs := s.jobs ++ [j], nextOrder := order }
  match heldFinal es q seq, heldRelease es q seq with
  | some (_, r, t), some late =>
    let s := put s { j with record := some { r with lateRelease := late }, finTime := t, released := true }
    s.setQueue qn { s.queue qn with
      releasedSeq := seq, toSend := (s.queue qn).toSend ++ [(seq, s.time.now)]
      retxDue := s.time.now + s.oval keyRetxTimeout, retxInterval := s.oval keyRetxTimeout }
  | some (true, r, t), none =>
    put s { j with record := some { r with status := stContext, outValid := 0, outLen := [0, 0, 0, 0] }, finTime := t }
  | some (false, r, t), none => put s { j with record := some r, finTime := t }
  | none, _ =>
    let passed := match j.deadline with | some x => decide (x < s.time.now) | none => false
    if d.timed then finalise (put s j) j (if passed then stExpired else stLost)
    else if reExecutable s d then
      let g := (s.graph d.graph).getD Graph.null
      let (s, outs) := pendingSlots s d g order [0, 1, 2, 3, 4]
      let j := { j with lostOut := 0, inVers := List.replicate 5 none, outVers := outs }
      expandJob (put s j) qn seq
    else finalise (put s j) j stLost

/-- Sequence numbers of the jobs held for a queue above its ACK marker, rising. -/
def heldSeqs (es : List JEntry) (q : Nat) (ack : BitVec 32) : List (BitVec 32) :=
  let all := (es.filter fun e => decide (e.kind ≠ 7) && decide (e.sqid = q) && precedes ack e.seq).map (·.seq)
  let ins (l : List (BitVec 32)) (x : BitVec 32) : List (BitVec 32) :=
    if l.contains x then l else (l.filter fun y => precedes y x) ++ [x] ++ (l.filter fun y => precedes x y)
  all.foldl ins []

/-- Queues of which a source's stream says something. -/
def heldQueues (es : List JEntry) : List Nat :=
  es.foldl (fun l e => match markerKind e with
    | none => sinsert l e.sqid
    | some 1 | some 2 => sinsert l (markerNat e 2 2)
    | some _ => l) []

/-- One queue of a source (R182, R183). -/
def takeQueue (dev : Nat) (es : List JEntry) (s : State) (q : Nat) : State :=
  let qn := srcBase dev + q
  let ack := (es.findSome? fun e =>
    if markerKind e = some 2 ∧ markerNat e 2 2 = q then some (BitVec.ofNat 32 (markerNat e 4 4)) else none).getD 0xFFFFFFFF
  let seqs := heldSeqs es q ack
  let x := Queue.init q
  let s := s.setQueue qn { x with
    enable := true, nextSeq := seqs.getLast?.elim (ack + 1) (· + 1), releasedSeq := ack, ackSeq := ack
    activePort := if portUp s x.homePort then x.homePort else 1 - x.homePort }
  let s := seqs.foldl (fun s seq => takeJob s dev es q seq) s
  sendDue s qn

/-- A take-over of a source starts (R181, R182). It writes no record of the fault log: R193 gives it an action and no cause
(assumption 74). -/
def takeOver (s : State) (dev : Nat) : State :=
  let x := srcOf s dev
  let es := heldEntries x
  let t := (setSrc s { x with takeover := 1, ackDue := none }).bump keyTakeovers 1
  endTakeover ((heldQueues es).foldl (takeQueue dev es) t) (srcBase dev)

/-- R181: no MIRROR frame has arrived from a REQUIRED source for BUDDY_DEAD_TIME. -/
def execBuddyDead (source : Nat) (s : State) : Res :=
  let x := srcOf s source
  whenSt (s.serving && isSource s source && decide (s.oval keyTakeoverMode = 1) && decide (x.takeover = 0)
      && tbit (nth0 x.identity 2) 0 && !x.dormant && decide (x.lastFrame + s.oval keyBuddyDeadTime * msNs ≤ s.time.now)) s
    (settleAll s (takeOver s source))

/-! ## Writes of the buddy objects -/

/-- TAKEOVER_CMD (R181). -/
def applyTakeoverCmd (s : State) (w : WReq) : Applied :=
  if w.val ≠ 0xFFFF ∧ isSource s w.val = false then fails s csRange
  else if s.srcs.any fun x => decide (x.takeover = 1) then fails s csConflict
  else
    let t := storeVal s w
    if w.val = 0xFFFF then
      (csOk, { t with srcs := t.srcs.map fun x => if x.takeover = 0 then x else MirrorSrc.new x.source })
    else (csOk, takeOver t w.val)

/-- BUDDY_RELEASE (R184, R107). Only the device's own number releases it. The fence stays until a MIRROR_ACK (R180), and the
credit values, all 0 now, are sent (R94). -/
def applyBuddyRelease (s : State) (w : WReq) : Applied :=
  if w.val ≠ s.oval keyDeviceNumber then fails s csRange
  else
    let t : State := s.jobs.foldl (fun (t : State) j =>
      if j.buddyOf.isNone then
        let t := if j.final then t else stopTasks t j false
        let t := j.outVers.foldl (fun (t : State) v =>
          if ((v.bind (kget t.vers ·)).any fun x => decide (x.st = .pending)) then { t with vers := kdel t.vers (v.getD 0) } else t) t
        { t with jobs := t.jobs.filter fun i => !(decide (i.qn = j.qn) && decide (i.desc.seq = j.desc.seq)) }
      else t) s
    let keep := t.jobs
    let srcs := t.srcs
    let qs : List (Nat × Queue) := t.queues.filter fun (x : Nat × Queue) => decide (4096 ≤ x.1)
    let vs : List (Nat × Version) := t.vers.map fun (x : Nat × Version) => (x.1, { x.2 with pins := x.2.pins.filter fun o => keep.any fun j => decide (j.order = o) })
    let u : State := { t with vers := vs }
    let u : State := { u with
      jobs := keep, srcs, ja := [], jb := [], asms := [], jReserved := 0, rReserved := 0, rLinger := [], iReserved := 0
      queues := (t.queues.filter fun x => decide (x.1 < 4096)).map (fun (x : Nat × Queue) =>
        (x.1, { Queue.init x.1 with homePort := x.2.homePort, resultSlots := x.2.resultSlots, depth := x.2.depth
                                    unitsMax := x.2.unitsMax
                                    activePort := if portUp t x.2.homePort then x.2.homePort else 1 - x.2.homePort })) ++ qs }
    let u : State := (u.vers.map fun (x : Nat × Version) => x.1).foldl reclaim u
    let u := (u.queues.filter fun x => decide (x.1 < 4096)).foldl (fun (t : State) x => sendCredit t x.1) u
    (csOk, updateHeadroom (storeVal (syncAon u) w))

/-- A Cleip READ of an object of the candidate, on the port where its addresses lead; the spec gives no transaction id
(R175, assumption 67). -/
def readCandidate (s : State) (index sub : Nat) : State :=
  let p := mirrorPort s 0
  let to' := buddyPeer s p
  let (tid, t) := s.drawBits 16
  t.sendAt p 0 (.frame (cleipFrame t { carrier := p, mac := to'.mac, ip := to'.ip, udp := t.oval keyCleipUdp, encap := to'.encap
                                       vlan := to'.vlan, pcp := 0 } (cleipHeader 1 false false tid.toNat index sub 0 0 0 0)))

/-- The candidate's 0x1000:05 and 0x1010:01 are read (R175); nothing is asked of no buddy. -/
def askCandidate (s : State) (n : Nat) : State :=
  if n = 0xFFFF then s else readCandidate (readCandidate s 0x1000 5) 0x1010 1

/-- BUDDY, with the serial number and feature word that the candidate answered, if it did (R22, R175). A number above 1,023
that is not 0xFFFF is RANGE (assumption 73). A fence stays until a MIRROR_ACK (R180). -/
def applyBuddy (answer : Option (Nat × Nat)) (s : State) (w : WReq) : Applied :=
  if w.val ≠ 0xFFFF ∧ 1023 < w.val then fails s csRange
  else
    let s := askCandidate s w.val
    let ok := decide (w.val = 0xFFFF) || (match answer with
      | some (_, feat) => decide (feat % 16 &&& featBits s.part.variant = featBits s.part.variant)
      | none => false)
    if !ok then fails s csConflict
    else
      let t := storeVal s w
      ifFlash s w (if buddyOn t then startStream t
        else { t with mirrorTx := { t.mirrorTx with reachable := false, unacked := [] } })

end Sys2Proof.Machine
end

