-- ==== Sys2Proof/Machine/Flags.lean ====
section
/-!
DEFINITION. Narrowing, wrapping, clipping and block exponents: every arithmetic rule that decides whether a result
clips and what its redundant sign bits are (R211, R212, R214, R237, R238).
-/
namespace Sys2Proof.Machine

/-- The high end wrapped in two's complement (R211). -/
def wrapTo (w : Nat) (v : Int) : Nat := unsgn w v

/-- The smallest and largest values of w bits. -/
def minS (w : Nat) : Int := -(2 ^ (w - 1) : Nat)
/-- The largest value of w bits. -/
def maxS (w : Nat) : Int := (2 ^ (w - 1) : Nat) - 1

/-- The high end clipped, and whether it clipped (R211, R212). -/
def clipTo (w : Nat) (v : Int) : Nat × Bool :=
  if v < minS w then (unsgn w (minS w), true)
  else if maxS w < v then (unsgn w (maxS w), true)
  else (unsgn w v, false)

/-- A result of w bits: clipped in saturating forms, wrapped in plain ones (R211, R212). -/
def fit (sat : Bool) (w : Nat) (v : Int) : Nat × Bool := if sat then clipTo w v else (wrapTo w v, false)

/-- A result of 32 bits with its clip mark. -/
def fit32 (sat : Bool) (v : Int) : BitVec 32 × Bool := let r := fit sat 32 v; (BitVec.ofNat 32 r.1, r.2)

/-- Shift right with floor: the bits below are discarded (R211). -/
def floorShift (v : Int) (k : Nat) : Int := v / (2 ^ k : Nat)

/-- Bits of a number up to its highest set bit. -/
def bitLen (n : Nat) : Nat := if n = 0 then 0 else n.log2 + 1

/-- Redundant sign bits of a w-bit pattern (R214). -/
def rsb (w v : Nat) : Nat :=
  let v := v % 2 ^ w
  w - 1 - bitLen (if v < 2 ^ (w - 1) then v else 2 ^ w - 1 - v)

/-- The fixed-point product of two parts before its high end is formed (R238). -/
def mulQ (w : Nat) (a b : Int) : Int := floorShift (a * b) (w - 1)

/-- The exact complex product; the conjugate forms negate the imaginary part of b (R238). -/
def cmulExact (conj : Bool) (a b : Int × Int) : Int × Int :=
  let bi := if conj then -b.2 else b.2
  (a.1 * b.1 - a.2 * bi, a.1 * bi + a.2 * b.1)

/-- The complex product shifted by w − 1 (R238). -/
def cmulQ (w : Nat) (conj : Bool) (a b : Int × Int) : Int × Int :=
  let p := cmulExact conj a b
  (floorShift p.1 (w - 1), floorShift p.2 (w - 1))

end Sys2Proof.Machine
end

