-- ==== Sys2Proof/Machine/Operands.lean ====
section
/-!
DEFINITION. Operands of the Bruop core: registers, addressing forms, control registers, vector operands with their
element types, predicates and tiles (R200, R201, R209, R215, R226 to R236, R241, R263, R264).
-/
namespace Sys2Proof.Machine

/-! ## Scalar registers -/

/-- A general register (R200). -/
def Core.rg (x : Core) (r : BitVec 5) : BitVec 32 := x.g[r.toNat]'(by have := r.isLt; omega)
/-- Write a general register. -/
def Core.setG (x : Core) (r : BitVec 5) (v : BitVec 32) : Core :=
  { x with g := x.g.set r.toNat v (by have := r.isLt; omega) }
/-- An accumulator (R200). -/
def Core.ra (x : Core) (n : BitVec 2) : BitVec 40 := x.acc[n.toNat]'(by have := n.isLt; omega)
/-- Write an accumulator. -/
def Core.setA (x : Core) (n : BitVec 2) (v : BitVec 40) : Core :=
  { x with acc := x.acc.set n.toNat v (by have := n.isLt; omega) }
/-- The register after an even one. -/
def pairOf (r : BitVec 5) : BitVec 5 := r + 1
/-- An odd register names no pair (R200). -/
def oddReg (r : BitVec 5) : Bool := r.getLsbD 0

/-- Write element i of a vector of eight or two; a number beyond it writes nothing. -/
def vput {α : Type} {n : Nat} (v : Vector α n) (i : Nat) (a : α) : Vector α n := v.setIfInBounds i a

/-- Read element i of a vector, or a default. -/
def vget {α : Type} {n : Nat} (v : Vector α n) (i : Nat) (d : α) : α := (v[i]?).getD d

/-! ## Vector operands (R226 to R236) -/

/-- Element type: element bits, part width, complex (R227). -/
structure VTy where
  e : Nat
  w : Nat
  cplx : Bool
  deriving DecidableEq, Repr

/-- The type of a code; none for a reserved one (R227). -/
def tyOf (code : Nat) : Option VTy :=
  match code with
  | 0 => some ⟨8, 8, false⟩
  | 1 => some ⟨16, 16, false⟩
  | 2 => some ⟨32, 32, false⟩
  | 3 => some ⟨32, 16, true⟩
  | 4 => some ⟨64, 32, true⟩
  | _ => none

/-- The type VTYPE selects; SPANSET admits no reserved one. -/
def Core.ty (x : Core) : VTy := (tyOf (bits x.vtype.toNat 2 0)).getD ⟨8, 8, false⟩

/-- The group VTYPE selects (R234). -/
def Core.grp (x : Core) : Nat := 2 ^ bits x.vtype.toNat 4 3

/-- VLMAX of a type and group (R230). -/
def vlMax (e grp : Nat) : Nat := 1024 * grp / e

/-- The wide type: twice the part width (R253). -/
def VTy.wide (t : VTy) : VTy := ⟨2 * t.e, 2 * t.w, t.cplx⟩

/-- Registers of an operand: the group for Bruop-W, one for Bruop-H; twice that for a wide operand (R228, R232, R253). -/
def regsOf (u : Bool) (grp : Nat) (wide : Bool) : Nat := (if u then grp else 1) * (if wide then 2 else 1)

/-- Elements an instruction ranges over (R231, R232). -/
def Core.span' (x : Core) (u : Bool) : Nat := if u then x.span else 128 / x.ty.e

/-- An operand of n registers from register r as one number, least significant register first (R228). -/
def Core.vop (x : Core) (u : Bool) (r n : Nat) : Nat :=
  (List.range n).foldl (fun acc i =>
    if u then acc + (vget x.w (r + i) 0).toNat * 2 ^ (1024 * i) else acc + (vget x.h (r + i) 0).toNat * 2 ^ (128 * i)) 0

/-- Write an operand of n registers. -/
def Core.setVop (x : Core) (u : Bool) (r n v : Nat) : Core :=
  (List.range n).foldl (fun (x : Core) i =>
    if u then { x with w := vput x.w (r + i) (BitVec.ofNat 1024 (v / 2 ^ (1024 * i))) }
    else { x with h := vput x.h (r + i) (BitVec.ofNat 128 (v / 2 ^ (128 * i))) }) x

/-- Element i of an operand (R228). -/
def elemAt (e v i : Nat) : Nat := v / 2 ^ (e * i) % 2 ^ e

/-- An operand with element i replaced. -/
def elemSet (e v i a : Nat) : Nat := v - elemAt e v i * 2 ^ (e * i) + a % 2 ^ e * 2 ^ (e * i)

/-- A predicate register (R236). -/
def Core.kr (x : Core) (n : Nat) : BitVec 1024 := vget x.k n 0

/-- Element i is active: below the bound and enabled by the predicate (R231, R232, R236). -/
def Core.active (x : Core) (u pm : Bool) (k : BitVec 3) (i : Nat) : Bool :=
  decide (i < x.span' u) && (!pm || (x.kr k.toNat).getLsbD i)

/-- The parts of an element, real first (R227). -/
def partsOf (t : VTy) (v : Nat) : List Nat := if t.cplx then [v % 2 ^ t.w, v / 2 ^ t.w % 2 ^ t.w] else [v % 2 ^ t.w]

/-- An element from its parts. -/
def ofParts (t : VTy) : List Nat → Nat
  | [a] => a % 2 ^ t.w
  | a :: b :: _ => a % 2 ^ t.w + b % 2 ^ t.w * 2 ^ t.w
  | [] => 0

/-- A complex element as two integers. -/
def cplxOf (t : VTy) (v : Nat) : Int × Int := (sgn t.w v, sgn t.w (v / 2 ^ t.w))

/-- A register number may name an operand: a multiple of its register count (R228, R253). -/
def regOk (u : Bool) (r n : Nat) : Bool := if u then decide (r % n = 0) else decide (n = 1 ∨ r % n = 0)

/-! ## Control registers (R201, R234, R264) -/

/-- The core holds its quad's lock; in a drain no core may use it (R270). -/
def holdsMxc (s : State) (c : Nat) : Bool :=
  let m := s.mxc (c / 36 * 9 + c % 36 / 4)
  decide (m.holder = some (c % 36)) && !m.draining

/-- Control registers that MOVTC writes (R201, R264). -/
def ctlWritable (n : Nat) : Bool :=
  n = 0x001 || n = 0x010 || n = 0x014 || (decide (0x020 ≤ n) && decide (n < 0x030)) || n = 0x100

/-- A listed control register (R201, R234, R264). -/
def ctlListed (n : Nat) : Bool :=
  decide (n ≤ 0x008) || (decide (0x010 ≤ n) && decide (n ≤ 0x012)) || (decide (0x014 ≤ n) && decide (n ≤ 0x016))
    || (decide (0x020 ≤ n) && decide (n < 0x030)) || (decide (0x040 ≤ n) && decide (n < 0x060))
    || (decide (0x080 ≤ n) && decide (n ≤ 0x082)) || (decide (0x088 ≤ n) && decide (n ≤ 0x08A))
    || (decide (0x100 ≤ n) && decide (n ≤ 0x103))

/-- Write a control register at commit (R201); reserved bits stay zero (R3). -/
def Core.setCtl (x : Core) (n : Nat) (v : BitVec 32) : Core :=
  if n = 0x001 then { x with sat := v.getLsbD 0 }
  else if n = 0x010 then { x with lpcnt := vput x.lpcnt 0 v }
  else if n = 0x014 then { x with lpcnt := vput x.lpcnt 1 v }
  else if 0x020 ≤ n ∧ n < 0x030 then
    if n % 2 = 0 then { x with cbBase := vput x.cbBase ((n - 0x020) / 2) v }
    else { x with cbLen := vput x.cbLen ((n - 0x020) / 2) (v &&& 0xFFFFFF) }
  else x

/-- A segment control register (R201). -/
def segCtl (g : SegReg) (i : Nat) : BitVec 32 :=
  match i with
  | 0 => g.base.setWidth 32
  | 1 => (g.base >>> 32).setWidth 32
  | 2 => g.lim
  | _ => BitVec.ofNat 32 (b2n g.valid + 2 * b2n g.readOnly)

end Sys2Proof.Machine
end

