-- ==== Sys2Proof/Machine/Exceptions.lean ====
section
/-!
DEFINITION. Exceptions of a Bruop core: what a core reports, the fault log and the replay that follow, pending imprecise
faults, and errors of instruction memory (R54, R55, R157, R208, R222 to R225, R245 to R249, R273, R415).
-/
namespace Sys2Proof.Machine

/-- Clock of a core's cluster in MHz. -/
def coreMHz (s : State) (c : Nat) : Nat := oppMHz (s.cluster (c / 36)).opp

/-- What a core reports (R222, R223). -/
structure Exc where
  cause : Nat
  sub : Nat
  slot : Nat
  eaddr : Nat
  epc : Nat
  imprecise : Bool
  /-- The read half of a merge found it, which is not read again (R412). -/
  merge : Bool := false
  deriving DecidableEq, Repr

/-- ECAUSE (R201). -/
def Exc.ecause (e : Exc) : BitVec 32 :=
  BitVec.ofNat 32 (b2n e.imprecise * 2 ^ 31 + e.slot % 4 * 2 ^ 24 + e.sub % 256 * 2 ^ 16 + e.cause % 256)

/-- CAUSE of the fault log (R223). -/
def logCause (cause : Nat) : Nat :=
  match cause with
  | 0x07 => 0x04 | 0x08 => 0x05 | 0x09 => 0x06 | 0x0A => 0x03 | 0x0B => 0x02 | 0x0C => 0x07 | _ => 0x01

/-- The exception concerns an access at EADDR. -/
def Exc.hasAddr (e : Exc) : Bool :=
  match e.cause with
  | 0x04 | 0x09 | 0x0B | 0x0C => true
  | 0x05 => decide (e.sub < 2)
  | 0x07 | 0x08 => decide (e.sub = 0)
  | _ => false

/-- Address logged: the device address that EADDR reaches, else EADDR itself (R193, R225). -/
def excAddress (x : Core) (c : Nat) (e : Exc) : Nat :=
  if e.hasAddr then match coreAt x c e.eaddr 1 false with | .dev a => a | _ => e.eaddr else 0

/-- EADDR lies in a segment of a job input version (R157). -/
def inInput (s : State) (x : Core) (ea : Nat) : Bool :=
  decide (0x40000000 ≤ ea) && decide (ea < 0x60000000) &&
    (match x.task with
      | none => false
      | some ref => match (s.job ref.q ref.seq).bind fun j => (jobGraph s j).tasks[ref.task]? with
        | none => false
        | some d => match d.reads[(ea - 0x40000000) / 0x04000000]? with
          | some k => decide (k < 4)
          | none => false)

/-- Read a location once more (R157, R415): true when the second read also fails. -/
def reread (s : State) (a : Nat) : State × Bool :=
  let m := memAt s a
  let u := a / unitOf m * unitOf m
  match badAt s u with
  | some .poison => (memLog (s.bump keyPoisonReads 1) u 1 3 0 false, true)
  | some .uncorrectable => if unfilled s u then (s, true) else (confirmBad s u 1 0, true)
  | some .uncorrectableOnce => if unfilled s u then (s, true) else (goodOnReread s u 1 0, false)
  | _ => (s, unwritten s u)

/-- The bus error that an exception reports, if it does: a poisoned or uncorrectable data word. -/
def busError (e : Exc) : Bool :=
  !e.merge && match e.cause with
  | 0x07 | 0x08 => decide (e.sub = 0) && !e.imprecise
  | 0x0B => decide (e.sub = 0x07) || decide (e.sub = 0x08)
  | 0x0C => decide (e.sub = 0x11)
  | _ => false

/-- What the runtime makes of an exception (R54, R55, R157, R223, R249, R273). -/
def taskFault (s : State) (c : Nat) (x : Core) (e : Exc) : State × TaskFault :=
  let off := ((if e.cause = 0x0B then x.vfrPc else BitVec.ofNat 32 e.epc) - x.kbase).toNat
  let again : State × Bool :=
    if busError e then
      match coreAt x c e.eaddr 1 false with
      | .dev a => reread s a
      | _ => (s, false)
    else (s, false)
  let sig := match e.cause with
    | 0x03 | 0x07 | 0x08 | 0x09 => none
    | 0x0A => some [0x0A]
    | 0x0B => if e.sub = 0x07 ∨ e.sub = 0x08 ∨ e.sub = 0x09 then none
              else some [0x0B, off, bits x.vfrInfo.toNat 15 0, x.vfrAddr.toNat]
    | 0x0C => if 0x10 ≤ e.sub then none else some [0x0C, off]
    | n => some [n, off]
  (again.1,
    { cause := logCause e.cause, sig, num := off, addr := excAddress x c e
      region := if e.cause = 0x0C ∧ (e.sub = 0x12 ∨ e.sub = 0x13) then some (regMxc (quadOf c)) else none
      absent := decide (e.cause = 0x03)
      damagedInput := again.2 && inInput s x e.eaddr && decide (e.cause ≠ 0x0C) })

/-- Take an exception: the core stops and reports EPC, ECAUSE and EADDR, what it had not committed is dropped, and the
dispatcher logs the fault and replays the task or ends its job (R222 to R225). -/
def takeExc (s : State) (c : Nat) (e : Exc) : State :=
  let x := { s.core c with epc := BitVec.ofNat 32 e.epc, ecause := e.ecause, eaddr := BitVec.ofNat 32 e.eaddr, vfault := false }
  let t := s.setCore c x
  let t := if e.cause = 0x0C then t.bump keyMxcErrors 1 else t
  let t := if e.cause = 0x0A then t.bump keyWatchdogExpiries 1 else t
  match x.task with
  | none => freeCore t c
  | some ref =>
    let fetch := (decide (e.cause = 0x07) || decide (e.cause = 0x08)) && decide (e.sub = 1)
    if fetch && (match findRun t ref with | some (j, _) => graphRewriting t j.desc.graph | none => false) then
      let f := (taskFault t c x e).2
      let t := match findRun t ref with
        | some (j, ti, _) => logTask t j ref.task (taskStarts ti) (regCore c) f.cause 0x01 f.num f.addr
        | none => t
      settleAll s (stopToWait t ref)
    else
    let r := taskFault t c x e
    let u := runFault r.1 ref r.2
    settleAll s (if (u.core c).task = some ref then freeCore u c else u)

/-! ## Pending imprecise faults (R224, R246, R247, R273) -/

/-- An imprecise fault that waits: what it raises, and the bundles committed before it. -/
def pendingFaults (x : Core) : List (Nat × Exc) :=
  (if x.vfault then
    [(x.vfaultMade, { cause := 0x0B, sub := bits x.vfrInfo.toNat 31 24, slot := 3, eaddr := x.vfrAddr.toNat, epc := x.pc
                      imprecise := true, merge := x.vmerge })] else [])
  ++ (match x.sberr with
    | some (p, cause) => [(p.made, { cause, sub := 0, slot := 2, eaddr := p.ea, epc := p.pc, imprecise := true })]
    | none => [])
  ++ (match x.mxerr with
    | some (code, addr, made) =>
      [(made, { cause := 0x0C, sub := code, slot := 3, eaddr := addr, epc := x.pc, imprecise := true, merge := x.mxmerge })]
    | none => [])

/-- The pending fault from the instruction earliest in program order (R247). -/
def earliest : List (Nat × Exc) → Option (Nat × Exc)
  | [] => none
  | p :: r => match earliest r with
    | none => some p
    | some q => if q.1 < p.1 then some q else some p

/-! ## Instruction memory (R208, R415, R417) -/

/-- A record of the error log for an instruction-memory word (R434). -/
def imemLog (s : State) (c a finder outcome use : Nat) : State :=
  memRecord s { addr := a, memory := 1, finder, outcome, use, unit := c } (decide (outcome = 2))

/-- Set what an instruction-memory word holds besides good data. -/
def setIbad (s : State) (k : Nat) (b : Option BadWord) : State :=
  { s with mem := { s.mem with ibad := match b with | some x => kset s.mem.ibad k x | none => kdel s.mem.ibad k } }

/-- The image of a core is reloaded before its next task starts (R208, R417). -/
def markReload (s : State) (c : Nat) : State := { s with mem := { s.mem with reload := sinsert s.mem.reload c } }

/-- The fault log's record of a bad instruction-memory word that Drizzle found (R193). -/
def logImem (s : State) (c a finder cause : Nat) : State :=
  if finder = 0 then logFault s { faultNoJob s (regCore c) cause (if cause = 0x05 then 0x03 else 0x0E) with address := a } else s

/-- An uncorrectable instruction-memory word is read once more (R415). -/
def rereadImem (s : State) (c k finder use : Nat) (good : Bool) : State :=
  let s := logImem s c (k % 65536) finder 0x05
  if good then strike (imemLog ((setIbad s k none).bump keySramUncorrectable 1) c (k % 65536) finder 1 use) (regCore c)
  else
    strike (imemLog (((setIbad s k (some .poison)).bump keySramUncorrectable 1).bump keyPoisonedWords 1) c (k % 65536)
      finder 2 use) (regCore c)

/-- What the fetch of the instruction at address a finds: CAUSE and SUB, and the memory after it (R208). -/
def fetchWord (s : State) (c a : Nat) : State × Option (Nat × Nat) :=
  let k := c * 65536 + a / 8 * 8
  match kget s.mem.ibad k with
  | none => (s, none)
  | some .correctable => ((setIbad s k none).bump keySramCorrected 1, none)
  | some .poison => (markReload (imemLog (s.bump keyPoisonReads 1) c (a / 8 * 8) 1 3 0) c, some (0x07, 0x01))
  | some .uncorrectable | some (.line _) => (markReload (rereadImem s c k 1 0 false) c, some (0x08, 0x01))
  | some .uncorrectableOnce => (markReload (rereadImem s c k 1 0 true) c, some (0x08, 0x01))

end Sys2Proof.Machine
end

