-- ==== Sys2Proof/Machine/Cipher.lean ====
section
/-!
DEFINITION. The cipher engine's functions: AES-128 and AES-256 both ways, CMAC, CTR and key wrap with its inverse (R495,
R499, R501, R502), the key store as the functions see it, and the count of the engine's blocks (R494, R500, R504).
-/
namespace Sys2Proof.Machine

/-! ## AES -/

/-- Multiplication by x in the field of AES. -/
def gfDouble (a : Byte) : Byte := if a.getLsbD 7 then (a <<< 1) ^^^ 0x1B#8 else a <<< 1

/-- Multiplication in the field of AES. -/
def gfMul (a b : Byte) : Byte :=
  ((List.range 8).foldl (fun (x : Byte × Byte) i =>
    (if b.getLsbD i then x.1 ^^^ x.2 else x.1, gfDouble x.2)) (0#8, a)).1

/-- Inverse in the field of AES, zero for zero: the 254th power. -/
def gfInv (a : Byte) : Byte :=
  let a2 := gfMul a a
  let a4 := gfMul a2 a2
  let a8 := gfMul a4 a4
  let a16 := gfMul a8 a8
  let a32 := gfMul a16 a16
  let a64 := gfMul a32 a32
  let a128 := gfMul a64 a64
  gfMul a128 (gfMul a64 (gfMul a32 (gfMul a16 (gfMul a8 (gfMul a4 a2)))))

/-- The substitution of AES. -/
def sBox (a : Byte) : Byte :=
  let b := gfInv a
  b ^^^ b.rotateLeft 1 ^^^ b.rotateLeft 2 ^^^ b.rotateLeft 3 ^^^ b.rotateLeft 4 ^^^ 0x63#8

/-- The inverse substitution. -/
def sBoxInv (a : Byte) : Byte := gfInv (a.rotateLeft 1 ^^^ a.rotateLeft 3 ^^^ a.rotateLeft 6 ^^^ 0x05#8)

/-- Bytes added one by one. -/
def xorBytes (a b : List Byte) : List Byte := List.zipWith (· ^^^ ·) a b

/-- A round constant. -/
def rcon (i : Nat) : Byte := (List.range (i - 1)).foldl (fun c _ => gfDouble c) 1#8

/-- The next word of the expanded key: word i from the word before it and the word nk before it. -/
def nextWord (nk i : Nat) (prev back : List Byte) : List Byte :=
  let t :=
    if i % nk = 0 then xorBytes ((prev.drop 1 ++ prev.take 1).map sBox) [rcon (i / nk), 0, 0, 0]
    else if nk = 8 ∧ i % nk = 4 then prev.map sBox
    else prev
  xorBytes back t

/-- Words of the expanded key, from the words so far. -/
def expandWords (nk : Nat) : Nat → List (List Byte) → List (List Byte)
  | 0, w => w
  | n + 1, w => expandWords nk n (w ++ [nextWord nk w.length (w.getD (w.length - 1) []) (w.getD (w.length - nk) [])])

/-- Round keys of a key of 16 or 32 bytes. -/
def roundKeys (key : List Byte) : List (List Byte) :=
  let nk := key.length / 4
  let w := expandWords nk (4 * (nk + 7) - nk) ((List.range nk).map fun i => slice key (4 * i) 4)
  (List.range (nk + 7)).map fun r => (List.range 4).flatMap fun i => w.getD (4 * r + i) []

/-- Rows of the state shifted left by n times their number; the state is held by columns. -/
def shiftRows (n : Nat) (b : List Byte) : List Byte :=
  (List.range 16).map fun i => b.getD ((i / 4 + n * (i % 4)) % 4 * 4 + i % 4) 0

/-- Each column multiplied by a circulant of four coefficients. -/
def mixWith (k : List Byte) (b : List Byte) : List Byte :=
  (List.range 16).map fun i =>
    (List.range 4).foldl (fun (x : Byte) j => x ^^^ gfMul (k.getD ((j + 4 - i % 4) % 4) 0) (b.getD (i / 4 * 4 + j) 0)) 0

/-- The forward cipher on one block. -/
def aesEnc (key block : List Byte) : List Byte :=
  let ks := roundKeys key
  let last := ks.length - 1
  let b := xorBytes block (ks.getD 0 [])
  let b := (List.range (last - 1)).foldl (fun b r =>
    xorBytes (mixWith [2, 3, 1, 1] (shiftRows 1 (b.map sBox))) (ks.getD (r + 1) [])) b
  xorBytes (shiftRows 1 (b.map sBox)) (ks.getD last [])

/-- The inverse cipher on one block. -/
def aesDec (key block : List Byte) : List Byte :=
  let ks := roundKeys key
  let last := ks.length - 1
  let b := (shiftRows 3 (xorBytes block (ks.getD last []))).map sBoxInv
  let b := (List.range (last - 1)).foldl (fun b r =>
    (shiftRows 3 (mixWith [14, 11, 13, 9] (xorBytes b (ks.getD (last - 1 - r) [])))).map sBoxInv) b
  xorBytes b (ks.getD 0 [])

/-! ## CMAC, CTR and key wrap -/

/-- A block doubled in the field of CMAC. -/
def cmacDouble (b : List Byte) : List Byte :=
  let v := beNat b
  beBytes 16 (if tbit v 127 then (2 * v % 2 ^ 128) ^^^ 0x87 else 2 * v)

/-- AES-CMAC. -/
def cmac (key msg : List Byte) : List Byte :=
  let k1 := cmacDouble (aesEnc key (fill 16 0))
  let n := max 1 ((msg.length + 15) / 16)
  let tail := msg.drop (16 * (n - 1))
  let last := if tail.length = 16 then xorBytes tail k1 else xorBytes (slice (tail ++ [0x80]) 0 16) (cmacDouble k1)
  let c := (List.range (n - 1)).foldl (fun c i => aesEnc key (xorBytes c (slice msg (16 * i) 16))) (fill 16 0)
  aesEnc key (xorBytes c last)

/-- AES-CTR from an initial counter block. -/
def ctr (key : List Byte) (iv : Nat) (msg : List Byte) : List Byte :=
  ((List.range ((msg.length + 15) / 16)).flatMap fun i =>
    xorBytes (slice msg (16 * i) (min 16 (msg.length - 16 * i))) (aesEnc key (beBytes 16 (iv + i))))

/-- One step of key wrap: the register A and the list of semiblocks. -/
def kwStep (key : List Byte) (n t : Nat) (x : List Byte × List (List Byte)) : List Byte × List (List Byte) :=
  let i := (t - 1) % n
  let b := aesEnc key (x.1 ++ x.2.getD i [])
  (beBytes 8 (beNat (b.take 8) ^^^ t), x.2.set i (b.drop 8))

/-- Key wrap of SP 800-38F with its default initial value (R495). -/
def kwWrap (key plain : List Byte) : List Byte :=
  let n := plain.length / 8
  let r := (List.range (6 * n)).foldl (fun x t => kwStep key n (t + 1) x)
    (fill 8 0xA6, (List.range n).map fun i => slice plain (8 * i) 8)
  r.1 ++ r.2.flatten

/-- One step of the inverse. -/
def kwUnstep (key : List Byte) (n t : Nat) (x : List Byte × List (List Byte)) : List Byte × List (List Byte) :=
  let i := (t - 1) % n
  let b := aesDec key (beBytes 8 (beNat x.1 ^^^ t) ++ x.2.getD i [])
  (b.take 8, x.2.set i (b.drop 8))

/-- The inverse of key wrap; none when the integrity check fails. -/
def kwUnwrap (key wrapped : List Byte) : Option (List Byte) :=
  let n := wrapped.length / 8 - 1
  let r := (List.range (6 * n)).foldl (fun x t => kwUnstep key n (6 * n - t) x)
    (wrapped.take 8, (List.range n).map fun i => slice wrapped (8 + 8 * i) 8)
  if r.1 = fill 8 0xA6 then some r.2.flatten else none

/-! ## The key store (R494, R504) and the engine (R499) -/

/-- Key of a slot K1 to K31; none when it is empty, and on the M5-E (R504). -/
def keyOf (s : State) (n : Nat) : Option (List Byte) :=
  if hasCipher s.part.variant then (kget s.keys.slots n).map (·.key) else none

/-- Key check value of a key (R495). -/
def kcv (key : List Byte) : Nat := beNat ((aesEnc key (fill 16 0)).take 4)

/-- The cipher engine is in service: a store lost at a restart does not stop it (R499, R505). -/
def cipherUp (s : State) : Bool := hasCipher s.part.variant && (decide (s.keys.state = 0) || decide (s.keys.state = 3))

/-- The engine has processed so many blocks. -/
def useCipher (s : State) (blocks : Nat) : State := s.bump keyCipherBlocks blocks

/-- Blocks of a CMAC over n bytes: its subkey and its message blocks. -/
def cmacBlocks (n : Nat) : Nat := max 1 ((n + 15) / 16) + 1

/-- Comparisons of the engine that disagree during a request: one is counted and made good by the second attempt; two fail
the request and start the self-test (R499). Answers whether the request fails. -/
def cipherFault (s : State) (n : Nat) : State × Bool :=
  if n = 0 then (s, false)
  else
    let t := s.bump keyCipherMismatches 1
    if n = 1 then (t, false) else ({ t with keys := { t.keys with state := 1 } }, true)

/-- The engine works for the device itself: whether its comparisons disagree once or twice is not for the spec to say and
free (R499). Answers whether the work fails. -/
def cipherRun (s : State) : State × Bool :=
  let (n, t) := s.drawNat
  cipherFault t (n % 3)

/-- A tag of R501 or R502 over a message, by CMAC under a key or by CRC-32 where there is none. -/
def tagOf (key : Option (List Byte)) (msg : List Byte) : List Byte :=
  match key with
  | some k => cmac k msg
  | none => beBytes 4 (crc32 msg).toNat ++ fill 12 0

end Sys2Proof.Machine
end

