-- ==== Sys2Proof/Machine/Audit.lean ====
section
/-!
DEFINITION. The audit journal: records, seals, chains, the export mark and what overwriting an unexported record does
(R489 to R493).
-/
namespace Sys2Proof.Machine

/-- A record as a number of 512 bits (R490). -/
def auditNat (r : AuditRec) : Nat :=
  r.seq.toNat * 2 ^ 480 + r.time % 2 ^ 64 * 2 ^ 416 + r.kind % 16 * 2 ^ 412 + r.role % 4 * 2 ^ 410
    + r.carrier % 8 * 2 ^ 407 + b2n r.long * 2 ^ 406 + r.sealKind % 2 * 2 ^ 405 + r.index % 65536 * 2 ^ 384
    + r.sub % 256 * 2 ^ 376 + r.status % 256 * 2 ^ 368 + r.tid % 65536 * 2 ^ 352 + r.offset % 2 ^ 32 * 2 ^ 320
    + r.length % 2 ^ 32 * 2 ^ 288 + r.source % 2 ^ 32 * 2 ^ 256 + r.old % 2 ^ 64 * 2 ^ 192 + r.new % 2 ^ 64 * 2 ^ 128
    + r.epoch % 2 ^ 32 * 2 ^ 96 + r.mac % 2 ^ 64

/-- The 64 bytes of a record in wire order (R490). -/
def auditBytes (r : AuditRec) : List Byte := beBytes 64 (auditNat r)

/-- A record that concerns no requester (R490). -/
def AuditRec.bare (s : State) (kind old : Nat) : AuditRec :=
  { seq := 0, time := s.time.now, kind, role := 3, carrier := 7, long := false, sealKind := 0, index := 0, sub := 0
    status := 0, tid := 0, offset := 0, length := 0, source := 0, old, new := 0, epoch := s.epoch, mac := 0 }

/-- SEAL_KIND that the device seals with under a key of K2 (R491). -/
def sealKindWith (s : State) (key : Option (List Byte)) : Nat := b2n (key.isSome && cipherUp s)

/-- SEAL_KIND that the device seals with now (R491). -/
def sealKindNow (s : State) : Nat := sealKindWith s (keyOf s 2)

/-- The engine is asked for a seal under a key: it may fail and go out of service for its self-test (R499). -/
def sealTrial (s : State) (key : Option (List Byte)) : State := if sealKindWith s key = 1 then (cipherRun s).1 else s

/-- SEAL of a record after the seal before it, with a key for kind 1 (R491). -/
def sealOf (key : Option (List Byte)) (kind prev : Nat) (r : AuditRec) : Nat :=
  let m := beBytes 8 prev ++ (auditBytes r).take 56
  if kind = 1 then beNat ((cmac (key.getD []) m).take 8) else (crc32 m).toNat

/-- Unexported records (R493). -/
def unexported (s : State) : Nat := (s.audit.head - s.audit.exported).toNat

/-- Append a record as the next of the chain, or as the first of one: SEQ, SEAL, the export mark and the warning (R489,
R491, R493). -/
def putAudit (s : State) (key : Option (List Byte)) (kind : Nat) (first : Bool) (r : AuditRec) : State :=
  let a := s.audit
  let seq := a.head + 1
  let r := { r with seq, sealKind := kind, mac := 0 }
  let mac := sealOf key kind (if first then 0 else a.lastSeal) r
  let spill := decide (16384 ≤ unexported s)
  let t := { s with audit := { a with
    recs := kset a.recs (seq.toNat % 16384) { r with mac }, head := seq, lastSeal := mac, sealKind := kind
    exported := if spill then a.exported + 1 else a.exported
    lost := if spill then min (a.lost + 1) 0xFFFFFFFF else a.lost } }
  let t := if kind = 1 then useCipher t (cmacBlocks 64) else t
  if unexported s < t.oval keyAuditWarn ∧ t.oval keyAuditWarn ≤ unexported t then
    raiseScalar t keyAuditHead (beBytes 4 seq.toNat) else t

/-- Begin a chain under a key with a seal-restart record (R491). -/
def sealRestart (s : State) (key : Option (List Byte)) (old : Nat) : State :=
  let t := putAudit s key (sealKindWith s key) true (AuditRec.bare s 4 old)
  { t with audit := { t.audit with restartOld := none } }

/-- Append a record sealed under a key, after a seal restart where one is due; where the engine fails, the seal is a CRC-32
(R491, R499). -/
def auditUnder (s : State) (key : Option (List Byte)) (r : AuditRec) : State :=
  let s := sealTrial s key
  let s := match s.audit.restartOld with
    | some old => sealRestart s key old
    | none => if s.audit.sealKind = sealKindWith s key then s else sealRestart s key s.audit.head.toNat
  putAudit s key (sealKindWith s key) false r

/-- Append a record (R489, R491). -/
def audit (s : State) (r : AuditRec) : State := auditUnder s (keyOf s 2) r

/-- Append the record of a load or erase of K2, sealed in the chain it ends, and begin the new chain (R491). -/
def auditK2 (before s : State) (r : AuditRec) : State :=
  let t := auditUnder s (keyOf before 2) r
  let t := sealTrial t (keyOf t 2)
  sealRestart t (keyOf t 2) t.audit.head.toNat

/-- Bytes as OLD or NEW (R490). -/
def auditVal (long : Bool) (b : List Byte) : Nat := if long then (crc32 b).toNat else beNat b

/-- A load object of the key store, whose records hold no value (R490). -/
def isKeyLoad (k : Nat) : Bool := decide (k = keyKeyLoadPlain) || decide (k = keyKeyLoadWrapped)

/-- OLD of a block write that a restart discards: the range as the device holds it; that of a load and of CONFIG_BACKUP as
they stood at the last segment (R471, R490; assumption 10). -/
def discardedOld (s : State) (b : BlockWrite) : Nat :=
  if isKeyLoad b.key || decide (b.key = keyConfigBackup) then b.rec'.old
  else auditVal b.rec'.long (s.domBytes b.key b.start b.data.length)

/-- The open block writes are discarded and audited, with a status that the spec does not state and that is free
(R471, assumption 10). -/
def discardBlocks (s : State) : State :=
  s.cleip.blocks.foldl (fun (t : State) b =>
    let (n, u) := t.drawNat
    audit u { b.rec' with old := discardedOld u b, status := n % 256, time := u.time.now })
    { s with cleip := { s.cleip with blocks := [] } }

/-- The audit journal is lost with the always-on island: SEQ restarts at 0 with a seal restart (R491). -/
def loseAudit (s : State) : State :=
  { s with audit := { recs := [], head := 0xFFFFFFFF, exported := 0xFFFFFFFF, lost := 0, lastSeal := 0, sealKind := 0
                      restartOld := some 0xFFFFFFFF } }

end Sys2Proof.Machine
end

