-- ==== Sys2Proof/Machine/Restart.lean ====
section
/-!
DEFINITION. What a restart loses and keeps, the boot from flash or from the DRAM copy, and the recovery of journaled
jobs (R42, R59, R62, R63, R84, R106, R107, R171, R174, R178, R180, R419, R422, R439, R479, R492, R496, R498, R501,
R546 to R553, R581).
-/

namespace Sys2Proof.Config

/-- The task graphs that a boot image carries (R549 gives their section type and no format). -/
opaque imageGraphs (bytes : List Byte) (generation : Nat) : List (Nat × Machine.Graph)

end Sys2Proof.Config

namespace Sys2Proof.Machine

/-! ## Causes (R546) -/

/-- A warm reset keeps DRAM. -/
def isWarm (c : Nat) : Bool := decide (5 ≤ c) && decide (c ≤ 9)

/-- How much a cause preserves, least first. -/
def causeRank (c : Nat) : Nat := if c = 1 then 0 else if isWarm c then 2 else 1

/-- Of two causes that coincide the one that preserves less, and of equal ones the lower code. -/
def mergeCause (a b : Nat) : Nat :=
  if causeRank a < causeRank b then a else if causeRank b < causeRank a then b else min a b

/-- A cause joins the restart in progress. -/
def withCause (s : State) (c : Nat) : State :=
  { s with supply := { s.supply with restart := some (match s.supply.restart with | some a => mergeCause a c | none => c) } }

/-! ## What is lost at the assertion of a reset (R62, R81, R439, R467, R471, R472) -/

/-- Every staging buffer of a job returns to its pool. -/
def dropJobStaging (s : State) (j : Job) : State :=
  let g := jobGraph s j
  (g.tasks.zip j.tasks).foldl (fun s x => x.2.runs.foldl (fun s r => dropStaging s g j.desc x.1 r.staging) s) s

/-- A version does not outlive the reset. -/
def verGone (keepDram : Bool) (v : Version) : Bool :=
  !keepDram || decide (poolMemory (hPool v.handle) = 3) || decide (poolMemory (hPool v.handle) = 4)

/-- A fronthaul version that nothing has yet put into Anvil. -/
def fhNothingYet (v : FhVersion) : Bool := !v.sealed && v.phys.isNone && !v.released && !v.overflow

/-- A reference to a fronthaul version that is gone. -/
def lostRef (s : State) : VerRef → VerRef
  | .fh n => match kget s.fh.vers n with
    | some v => if fhNothingYet v then .fh n else .lost
    | none => .lost
  | r => r

/-- A job across a reset: an unfinalised one is back at its acceptance, but for the start of a first task, which still counts
as one (R132; DESIGN CHOICE, assumption 74). -/
def resetJob (s : State) (j : Job) : Job :=
  let j := { j with inVers := j.inVers.map fun r => r.map (lostRef s) }
  if j.final then j
  else { j with expanded := false, startedBeforeReset := j.startedBeforeReset || j.started, incomplete := false
                admission := .none, tried := false, charge := 0, overrun := false, migrated := false, tasks := [], lastPlace := none }

/-- Versions, handle map and pools across a reset: what a job wrote and the reset loses stays its handle's version, lost,
until a later writer's (R36, R62); a handle that nothing wrote reads as zeros again (R33). -/
def resetVersions (s : State) (keepDram : Bool) : State :=
  let vers := s.vers.map fun x =>
    (x.1, if verGone keepDram x.2 && x.2.hasBuf then { x.2 with st := .lost } else x.2)
  let vers := vers.filter fun x => !(decide (x.2.st = .lost) && x.2.pins.isEmpty && (decide (x.2.order = 0) || x.2.superseded))
  settleLinger { s with
    vers
    hmap := s.hmap.filter fun x => keepDram && decide (poolMemory (hPool x.1) = 1 ∨ poolMemory (hPool x.1) = 2)
    pools := s.pools.filter fun x => keepDram && decide (poolMemory x.1 = 1 ∨ poolMemory x.1 = 2) }

/-- A queue across a restart: what I47 keeps stands (R62, R84, R91, R104, R106). -/
def resetQueue (x : Queue) : Queue :=
  { x with creditSeq := x.nextSeq, creditUnits := x.acceptedUnits, activePort := x.homePort, retxDue := 0
           retxInterval := 0, retxHalted := none, lastResend := none, toSend := [], creditDue := x.enable, resends := []
           peer0 := none, peer1 := none }

/-- A lane across a restart: its counters and its retirement stand (R341, R581). -/
def resetLane (x : Lane) : Lane :=
  { Lane.init with counters := x.counters, countersPrev := x.countersPrev }

/-- A link across a restart: its counters stand (R581). -/
def resetLink (x : Link) : Link := { Link.init with counters := x.counters, countersPrev := x.countersPrev, latchSec := x.latchSec }

/-- Reservations that the journaled jobs still hold: two entries until finalised, then one (R92). -/
def resetReserved (s : State) : State :=
  let own := s.jobs.filter fun j => j.buddyOf.isNone
  { s with jReserved := (own.map fun j => if j.final then 1 else 2).sum
           rReserved := (own.map (·.resv)).sum + (s.rLinger.map (·.1)).sum, iReserved := 0 }

/-- Every island but I47 loses what it holds; DRAM that is kept first takes the writes in its queues (R62, R547). -/
def resetIslands (s : State) (keepDram : Bool) : State :=
  let s := discardBlocks s
  let s := if keepDram then issueWhere s fun _ => true else s
  let t := (s.jobs.filter fun j => !j.final).foldl dropJobStaging s
  let t := { t with jobs := t.jobs.map (resetJob t) }
  let t := resetVersions t keepDram
  let t := fillSram (if keepDram then t else loseDram t)
  let t := if t.overcast.on then overcastLeave t else t
  let t := [0, 1].foldl (fun (u : State) n => if u.regState (regTime n) = 0 then u else u.setRegState (regTime n) 0) t
  resetReserved { t with
    time := { TimeUnit.init with now := t.time.now, frac := t.time.frac, timeLost := t.time.timeLost
                                 on10MHz := decide (t.oval keyTimeRefSel = 1), secondDone := t.time.secondDone }
    cleip := { t.cleip with held := [], blocks := [], subs := [], inService := [], waiting := [], backup := []
                            rebuildDue := none
                            ms := { Serial.init with stored := t.cleip.ms.stored }, fp := Serial.init }
    fport := { t.fport with ir := 0x01, wr := [], rd := none, capture := 0 }
    queues := t.queues.map fun x => (x.1, resetQueue x.2)
    ports := [], held := [], asms := [], lastGrant := 4095, lastRefresh := t.time.now
    cellSt := t.cellSt.map fun x => (x.1, { x.2 with
      cluster := (t.cell x.1).home, migration := none, lastMove := none, lastReason := 0, ledger := [] })
    budgets := if keepDram then t.budgets else []
    lastLearn := t.time.now, lastDvfs := t.time.now
    clusters := t.clusters.map fun x => (x.1, { Cluster.init with
      losses := x.2.losses, temp := x.2.temp, thermal := x.2.thermal })
    rails := [3, 3, 3, 3]
    cores := [], mxcs := [], engines := [], entries := [], chans := []
    mem := { t.mem with ranks := [], drizzle := [], scrubFrom := t.time.now, ueLines := [], fills := [], reload := [], rewriting := []
                        ctxDamaged := t.mem.ctxDamaged && keepDram, errLog := [], errNext := 0
                        chans := if keepDram then t.mem.chans.map fun x => (x.1, { DramChan.init with set := x.2.set }) else []
                        activeSet := if keepDram then t.mem.activeSet else 0 }
    faultLog := [], faultNext := 0
    overcast := { t.overcast with on := false, cause := 0, since := 0, lastHeld := [0, 0, 0, 0, 0] }
    sv := { Supervisors.init with
      pair0 := if t.regState (regSv 0) = 2 then 3 else if t.regState (regSv 1) = 2 then 0 else Supervisors.init.pair0
      pair1 := if t.regState (regSv 1) = 2 then 3 else if t.regState (regSv 0) = 2 then 0 else Supervisors.init.pair1
      active := if t.regState (regSv 0) = 2 then 1 else 0
      fwRunning := t.sv.fwRunning }
    mirrorTx := MirrorTx.init
    srcs := t.srcs.map fun x => { x with expected := 0, synced := false, ackDue := none }
    fh := { lanes := t.fh.lanes.map fun x => (x.1, resetLane x.2), links := t.fh.links.map fun x => (x.1, resetLink x.2)
            vers := t.fh.vers.filter fun x => fhNothingYet x.2, nextVer := t.fh.nextVer, txq := [], txOrder := t.fh.txOrder, vlinks := [], contTx := [] }
    opt := { modules := [], lives := t.opt.lives, rus := [], day := t.opt.day }
    power := { Power.init with lastWake := t.power.lastWake, lastRefusal := t.power.lastRefusal }
    flash := { t.flash with fwImage := [] } }

/-! ## The journal and the other contents of I47 lost (R62, R107, R532) -/

/-- The journal, the mirrored shares and every queue's sequence state are lost; every queue is disabled, in flash too
(R107). -/
def loseJournal (s : State) : State :=
  syncAon { s with
    jobs := [], ja := [], jb := [], asms := [], jReserved := 0, rReserved := 0, rLinger := [], iReserved := 0
    vers := (s.vers.filter fun x => x.2.hasBuf).map fun x => (x.1, { x.2 with pins := [], order := 0 })
    srcs := s.srcs.map fun x => { x with entries := [], entriesB := [], synced := false, takeover := 0 }
    queues := s.queues.filterMap fun x =>
      if x.1 < 4096 then
        some (x.1, { Queue.init x.1 with
          homePort := x.2.homePort, resultSlots := x.2.resultSlots, depth := x.2.depth, unitsMax := x.2.unitsMax
          activePort := x.2.homePort })
      else none }

/-- The key store is unwrapped from flash. Whether a copy fails is not for the spec to say and free; when both fail, the slots
start empty and CIPHER_STATE will say so (R496, R499). -/
def keysFromFlash (s : State) : State :=
  let (n, t) := s.drawNat
  let copies := (t.keys.flash.filter fun _ => tbit n 0).orElse fun _ => t.keys.flash2.filter fun _ => tbit n 1
  { t with keys := { t.keys with slots := copies.getD [], lost := copies.isNone && t.keys.flash.isSome } }

/-! ## Objects at a restart (R479, R581) -/

/-- An object that its table marks P. -/
def objKept (k : Nat) : Bool := match objRow (k / 256) (k % 256) with | some r => r.kept | none => false

/-- A V object held in I47: counters and what is counted since power-on (R581), AUDIT_LOST's like and WAKE_ALARM
(R535). -/
def objHeld (k : Nat) : Bool :=
  [0x2204, 0x3030, 0x4030, 0x5400, 0x6040, 0x7152, 0x8400, 0x9000, 0xC040, 0xD040, 0xE010, 0xF010, 0xF100].contains (k / 256)
    || [0x200004, 0x440003, 0x440005, 0x982001, 0x982002, 0x982003, keyWakeAlarm].contains k

/-- Objects after a restart: P values stand, V values take their defaults but for what I47 holds and has not lost. -/
def reloadObjects (s : State) (heldLost : Bool) : State :=
  { s with obj := { vals := s.obj.vals.filter fun x => objKept x.1 || (objHeld x.1 && !heldLost)
                    doms := s.obj.doms.filter fun x => objKept x.1 } }

/-- Quantities counted since power-on outside the object lists start again (R346, R374, R581). -/
def clearCounts (s : State) : State :=
  { s with
    overcast := { s.overcast with total := 0 }
    cellSt := s.cellSt.map fun x => (x.1, { x.2 with migrations := 0, lastReason := 0, demoted := 0 })
    fh := { s.fh with
      lanes := s.fh.lanes.map fun x => (x.1, { x.2 with counters := List.replicate 8 0, countersPrev := List.replicate 8 0 })
      links := s.fh.links.map fun x => (x.1, { x.2 with
        counters := List.replicate 16 0, countersPrev := List.replicate 16 0, latchSec := 0 }) } }

/-- The always-on island has lost its contents (R62, R107, R439, R491, R541, R581). -/
def loseAon (s : State) : State :=
  let t := reloadObjects (clearCounts (loseAudit (keysFromFlash (loseJournal s)))) true
  { t with epoch := 0, time := { t.time with now := 0, frac := 0, timeLost := true }, nextOrder := 0
           power := { t.power with lastWake := 0, lastRefusal := 0 }
           cleip := { t.cleip with ms := Serial.init }
           mem := { (clearFillMap t).mem with aonBad := [], scrubFrom := 0 } }

/-! ## Images (R501, R549 to R551) -/

/-- The image that bytes spell, with its length L; none when the header is not one (R549). -/
def parseImage (b : List Byte) : Option (Image × Nat) :=
  let l := leNat (slice b 4 4)
  if leNat (slice b 0 4) = 0x354B4C4E ∧ l ≤ b.length ∧ 80 ≤ l ∧ l ≤ 16777216 then
    some ({ bytes := b.take l, generation := leNat (slice b 8 4), release := leNat (slice b 12 2)
            stateFormat := leNat (slice b 14 1), variants := leNat (slice b 15 1) }, l)
  else none

/-- Bit of VARIANTS for the part (R549). -/
def variantBit (v : Variant) : Nat := match v with | .m5f => 0 | .m5h => 1 | .m5e => 2

/-- An image's tag holds in the form that R501 accepts: CMAC under K1 when it is loaded, CRC otherwise. The image that the
board was programmed with has the CRC form; its bytes are not known (assumption 40). -/
def imageAuthentic (s : State) (i : Image) : Bool :=
  match keyOf s 1 with
  | some k => cipherUp s && !i.bytes.isEmpty &&
      decide (i.bytes.drop (i.bytes.length - 16) = cmac k (i.bytes.take (i.bytes.length - 16)))
  | none => i.bytes.isEmpty || decide (i.bytes.drop (i.bytes.length - 16) = tagOf none (i.bytes.take (i.bytes.length - 16)))

/-- A slot is a candidate (R550). -/
def candidate (s : State) (i : Image) : Bool := tbit i.variants (variantBit s.part.variant) && imageAuthentic s i

/-- The slot the boot ROM takes and its image, of those whose authentication the cipher engine has not failed (R499, R550). -/
def chooseImage (s : State) (badA badB : Bool) : Option (Nat × Image) :=
  match s.flash.slotA.filter fun i => candidate s i && !badA, s.flash.slotB.filter fun i => candidate s i && !badB with
  | some a, some b => if a.generation < b.generation then some (1, b) else some (0, a)
  | some a, none => some (0, a)
  | none, some b => some (1, b)
  | none, none => none

/-! ## Recovery (R42, R59, R63, R84) -/

/-- An output version of a job that its record shows valid was lost; one that a later write superseded was not (R39). -/
def resultLost (s : State) (j : Job) (r : Rec) : Bool :=
  (List.range 4).any fun k => tbit r.outValid k &&
    (match (j.outVers.getD k none).bind (kget s.vers ·) with | some v => decide (v.st = .lost) | none => false)

/-- How the inputs and contexts of a job to be run again stand (R63). -/
def recoverStatus (s : State) (j : Job) (ctxLost : Bool) : Option Nat :=
  let lost := (j.inVers.take 4).any fun r => match r with | some v => decide (refState s v = .lost) | none => false
  let harq := match j.inVers.getD 4 none with | some v => decide (refState s v = .lost) | none => false
  let timedOut := j.desc.timed && (match j.deadline with | some d => decide (d < s.time.now) | none => false)
  if timedOut then some stExpired
  else if lost then some stLost
  else if harq || (ctxLost && !(jobGraph s j).ctxParams.isEmpty) then some stContext
  else none

/-- A status of a job that committed (R52). -/
def committedStatus (st : Nat) : Bool :=
  decide (st = stDone) || decide (st = stLate) || decide (st = stIncomplete) || decide (st = stBuddy)

/-- The slot of a job read at recovery; none where neither copy is valid, so that the slot is free (R59). A taken-over job
has none of its own. -/
def recoverSlot (s : State) (j : Job) : Option State :=
  if j.buddyOf.isSome then some s
  else
    let r := jRead s (j.finalSlot.getD j.acceptSlot)
    if r.2.isSome then some r.1 else none

/-- A job whose slot is free is not journaled, and nothing of it is left (R59). -/
def forgetJob (s : State) (j : Job) : State :=
  let t := jFree s (j.finalSlot.getD j.acceptSlot)
  let t := { t with
    jobs := t.jobs.filter fun i => !(decide (i.qn = j.qn) && decide (i.desc.seq = j.desc.seq))
    jReserved := t.jReserved - (if j.final then 1 else 2), rReserved := t.rReserved - j.resv }
  let t := j.outVers.foldl (fun (t : State) v => match v with | some n => failVersion t n | none => t) t
  let t := j.inVers.foldl (fun t v => releaseInput t j.order v) t
  (List.range 4).foldl (fun t k => match j.outVers.getD k none with
    | some n => if slotReturned j k then unpin t n j.order else t
    | none => t) t

/-- One journaled job is recovered (R59, R63). -/
def recoverJob (ctxLost : Bool) (s : State) (j0 : Job) : State :=
  match s.job j0.qn j0.desc.seq, (s.job j0.qn j0.desc.seq).bind (recoverSlot s) with
  | none, _ => s
  | some j, none => forgetJob s j
  | some j, some s =>
    let s := s.setJob { j with pastStep6 := true }
    let j := { j with pastStep6 := true }
    match j.record with
    | some r =>
      if j.released || !resultLost s j r || !committedStatus r.status then s
      else
        let r := { r with status := stContext, outValid := 0, outLen := [0, 0, 0, 0] }
        let s := s.setJob { j with record := some r }
        match j.finalSlot with
        | some n => jWrite s n (finalEntry j r true [0, 0, 0, 0] j.finTime false)
        | none => s
    | none =>
      match recoverStatus s j ctxLost with
      | some st => finalise s j st
      | none => expandJob s j.qn j.desc.seq

/-- NEXT_SEQ and ACCEPTED_UNITS of one queue (R84). -/
def recoverQueue (s : State) (q : Nat) : State :=
  let x := s.queue q
  let top := s.jobs.foldl (fun (m : BitVec 32) j =>
    if j.buddyOf.isNone && decide (j.desc.sqid = q) && precedes m (j.desc.seq + 1) then j.desc.seq + 1 else m) x.nextSeq
  let units := match x.pendingRec with
    | some (seq, u) => if !precedes seq x.nextSeq && precedes seq top then u else 0
    | none => 0
  let acc := (x.acceptedUnits + units) % 2 ^ 40
  s.setQueue q { x with nextSeq := top, creditSeq := top, acceptedUnits := acc, creditUnits := acc }

/-- Recovery of the journal (R63, R84). -/
def recover (s : State) (ctxLost : Bool) : State :=
  let t := (s.queues.map (·.1)).foldl (fun t q => if q < 4096 then recoverQueue t q else t) s
  t.jobs.foldl (recoverJob ctxLost) t

/-! ## The boot (R552, R553) -/

/-- A graph that the device loads: each output slot it uses is written by exactly one task, and none by two (R578). -/
def graphLoads (g : Graph) : Bool :=
  let n (k : Nat) : Nat := (g.tasks.flatMap (·.writes)).countP fun w => decide (w = k)
  (List.range 4).all fun k => decide (n k ≤ 1) && (!g.outUsed.contains k || decide (n k = 1))

/-- The task graphs that an image carries and the device loads (R578). -/
def carriedGraphs (i : Image) : List (Nat × Graph) := (Config.imageGraphs i.bytes i.generation).filter fun g => graphLoads g.2

/-- A memory region that R171 tests: an Anvil quarter or a DRAM subchannel. -/
def isMemRegion (r : Nat) : Bool := memRegions.contains r

/-- Zero the contents of a memory region: a DRAM subchannel is fast-filled, and the granules then filled are marked (R171,
R422). -/
def zeroRegion (s : State) (r : Nat) : State :=
  if !isMemRegion r then s
  else if r < 0x580 then zeroRange s (anvilBase + (r - 0x370) * 0x4000000) 0x4000000
  else fillSub s (r - 0x580)

/-- Regions that are lost or restoring are tested; how the test ends is not for the spec to say (R171, assumption 5). -/
def testRegions (s : State) : State :=
  (s.regions.filter fun x => decide (x.2.state = 1) || decide (x.2.state = 3)).foldl (fun t x =>
    let (n, t) := t.drawNat
    if 0x5D0 ≤ x.1 ∧ x.1 ≤ 0x5D3 then t
    else if n % 2 = 0 then (zeroRegion t x.1).setRegion x.1 Region.init else t.setRegState x.1 3) s

/-- Configured DRAM pools, the result store and the device's own regions are filled with zeros (R33, R102, R422, R552). -/
def fillPools (s : State) : State :=
  ((List.range 0x7F).map (· + 1)).foldl (fun t p =>
    let c := poolCfg t p
    if (poolMemory p = 1 ∨ poolMemory p = 2) ∧ c.size ≠ 0 then fastFill t c.base (c.size * (c.count + c.shadow)) else t)
    (fastFill s (dramCapacity s - dramReserved s) (dramReserved s))

/-- FP as it stands after a reset (R485, R488). -/
def enableFp (s : State) : State :=
  { s with fport := { s.fport with enabled := s.fport.fpEn || !s.flash.makerLock } }

/-- Count the restart and record its cause and time (R546, R555). -/
def noteRestart (s : State) (cause : Nat) : State :=
  let t := if isWarm cause then s.bump keyWarmResets 1
    else if cause = 3 ∨ cause = 4 ∨ cause = 0x0A then s.bump keyColdResets 1 else s
  { t with supply := { t.supply with cause, restartTime := t.time.now, releaseAt := t.time.now, restart := none } }

/-- Once the image headers are read in 1S-1S-1S mode, the device reads the flash's JESD216 parameter table, takes the
mode-switch sequence and the dummy cycles for 200 MHz from it and switches to 8D-8D-8D mode; a restart that leaves RESET_N
high finds the flash in that mode (R548, R565, assumption 72). -/
def xspiUp (s : State) : State :=
  if s.flash.xspi.octal then s
  else { s with flash := { s.flash with xspi :=
    { octal := true, table := Config.jesd216, switchSeq := Config.xspiSwitch Config.jesd216
      dummy := Config.xspiDummy Config.jesd216 } } }

/-- The restart runs from its release to the end of recovery, or to recovery mode. A warm restart uses the DRAM copy of the
image unless its CRC-32 check fails, which is a free value; it then reads the flash and keeps DRAM (R553). -/
def bootUp (s : State) : State :=
  match s.supply.restart with
  | none => s
  | some cause =>
    let warm := isWarm cause
    let t := xspiUp (noteRestart (enableFp (reloadObjects s false)) cause)
    let e := (max t.epoch t.flash.epoch + 1) % 2 ^ 32
    let t := { t with epoch := e, flash := { t.flash with epoch := e } }
    let t := { t with
      keys := { t.keys with lock := BitVec.ofNat 32 (t.oval keyCipherLockBoot) ||| 1#32, bootPending := false
                            state := if t.keys.state = 2 && decide (cause ≠ 1) then 2 else if t.keys.lost then 3 else 0
                            lost := false }
      cleip := { t.cleip with msAddr := t.oval keyMsAddress }
      mem := { t.mem with inEffect := if warm then t.mem.inEffect else t.oval keyDramConfig } }
    let t := audit t (AuditRec.bare t 3 cause)
    let (n, t) := t.drawNat
    let copyOk := warm && decide (t.supply.bootSlot ≠ 0xFF) && decide (n % 2 = 0)
    let keyed := !copyOk && (keyOf t 1).isSome && cipherUp t
    let (t, badA) := if keyed then cipherRun t else (t, false)
    let (t, badB) := if keyed then cipherRun t else (t, false)
    let img :=
      if copyOk then
        some (t.supply.bootSlot, { generation := t.supply.bootGeneration, release := t.sv.fwRunning, bytes := []
                                   stateFormat := 0, variants := 7 : Image })
      else chooseImage t badA badB
    match img with
    | none => { t with supply := { t.supply with bootState := 7, bootSlot := 0xFF } }
    | some (slot, i) =>
      let t := { t with
        supply := { t.supply with bootState := 4, bootSlot := slot, bootGeneration := i.generation, fwRelease := i.release }
        sv := { t.sv with fwRunning := i.release, copy := t.obj, lastCopy := t.time.now }
        graphs := if copyOk then s.graphs
          else carriedGraphs i }
      let t := testRegions t
      let t := if warm then t else fillPools t
      let t := { t with mirrorTx := { t.mirrorTx with
        fenced := t.mirrorTx.fenced || decide (t.oval keyMirrorMode = 1) } }
      let t := if t.mirrorTx.fenced then t.bump keyFences 1 else t
      recover t (!warm)

/-- A reset begins: every island but I47 stops (R542, R547). -/
def beginRestart (s : State) (cause : Nat) : State :=
  let t := withCause (resetIslands s (isWarm cause)) cause
  { t with supply := { t.supply with bootState := 0, resetAfter := none } }

/-- A restart that the device makes of itself: it begins and boots with RESET_N high (R546, R547). -/
def restartNow (s : State) (cause : Nat) : State := bootUp (beginRestart s cause)

end Sys2Proof.Machine
end

