-- ==== Sys2Proof/Machine/Fault.lean ====
section
/-!
DEFINITION. Fault masking as commands: the loss and return of a cluster island, strikes that lapse, Overcast, the
supervisor pairs, the firmware update, and the restoring and retiring of regions (R160 to R174, R186 to R193, R501,
R550, R551).
-/
namespace Sys2Proof.Machine

/-! ## Cluster islands (R167 to R169) -/

/-- The runs that execute on a cluster. -/
def runsOn (s : State) (k : Nat) : List TaskRef :=
  s.jobs.flatMap fun j => j.tasks.zipIdx.flatMap fun (ti, t) => ti.runs.filterMap fun r =>
    match r.place with
    | some (.core c) => if r.phase = 1 ∧ c / 36 = k then some (runRef j t r) else none
    | _ => none

/-- An island loss as a task's fault: it forms no signature, and its strike is the island's (R55, R160). -/
def lossFault : TaskFault :=
  { cause := 0x09, sig := none, num := 0, addr := 0, region := none, absent := false, damagedInput := false }

/-- The tasks that execute on the instances of an engine island (R9, R297). -/
def runsOnEngines (s : State) (i : Nat) : List (TaskRef × Nat × Nat) :=
  (islandEngines s i).filterMap fun x => (s.engine x.1 x.2).entry.map fun e => (e.task, x.1, x.2)

/-- The loss of an engine island: each entry it interrupts is replayed and forms no signature (R297), and the log records
the loss even when it interrupts none (R193). -/
def loseEngines (s : State) (i : Nat) : State :=
  let runs := runsOnEngines s i
  if runs.isEmpty then (if (islandEngines s i).isEmpty then s else logFault s (faultNoJob s 0xFFFF 0x09 0x0E))
  else runs.foldl (fun t x => freeEngine (runFault t x.1 lossFault) x.2.1 x.2.2) s

/-- Everything the island held but its memory is reset (R167). -/
def resetIsland (s : State) (k : Nat) : State :=
  let cs : List (Nat × Core) := s.cores.filter fun x => decide (x.1 / 36 ≠ k)
  let ms : List (Nat × Mxc) := s.mxcs.filter fun x => decide (x.1 / 9 ≠ k)
  let ds : List (Nat × Chan) := s.chans.filter fun x => decide (x.1 / 16 ≠ k)
  { s with cores := cs, mxcs := ms, chans := ds }

/-- An island is retired and stays clamped; what lay in its cluster memory is damaged (R161, R169). -/
def retireIsland (s : State) (k : Nat) : State :=
  let t := if s.regState (regIsland k) = 2 then s else retireRegion s (regIsland k)
  damageVersions t fun a _ => memAt t a = .cluster k

/-- The loss of a cluster island in service (R167 to R169). -/
def loseIsland (s : State) (island : Nat) : State :=
  let r := regIsland island
  if s.regState r ≠ 0 then s
  else
    let x := s.cluster island
    let losses := (x.losses.filter fun t => decide (s.time.now - t < s.oval keyRetireWindow * secNs)) ++ [s.time.now]
    let t := strike (s.bump keyIslandLosses 1) r
    let t := (runsOn t island).foldl (fun t ref => runFault t ref lossFault) t
    let t := (List.range 36).foldl (fun t i => lateFault t (.core (36 * island + i)) 0x09 0 0 false none) t
    let t := (resetIsland t island).setCluster island
      { Cluster.init with losses, temp := x.temp, thermal := x.thermal, lostAt := some s.time.now }
    if t.regState r = 2 ∨ s.oval keyIslandRestores ≤ losses.length then
      logFault (retireIsland t island) (faultNoJob t r 0x09 0x04)
    else logFault (t.setRegState r 1) (faultNoJob t r 0x09 0x05)

/-- The loss of an island: of a cluster (R167 to R169), of an Anvil quarter (R432) or of engines (R297). -/
def loseAnyIsland (s : State) (i : Nat) : State :=
  if i < 16 then loseIsland s i else if 21 ≤ i ∧ i ≤ 24 then loseMemRegion s (regQuarter (i - 21)) else loseEngines s i

/-- ISLAND_LOSS: of a cluster island (R167 to R169), of an Anvil quarter (R432) or of an engine island (R297). -/
def execIslandLoss (island : Nat) (s : State) : Res :=
  onUnit island 48 (done (settleAll s (loseAnyIsland s island)))

/-- Poison units of a cluster's memory that hold a live version. -/
def liveWords (s : State) (k : Nat) : List Nat :=
  s.vers.flatMap fun (x : Nat × Version) =>
    let v := x.2
    let a := physAddr s (hPool v.handle) v.phys
    if v.st = .valid ∧ memAt s a = .cluster k then wordsOf (.cluster k) a v.len else []

/-- ISLAND_RESTORED (R167, R169). -/
def execIslandRestored (island : Nat) (passed : Bool) (s : State) : Res :=
  onUnit island 16 <|
    let r := regIsland island
    if s.regState r ≠ 1 then done s
    else
      let x := s.cluster island
      let t := if passed then
        let us := liveWords s island
        let t := (fillIsland s island).setRegState r 0
        let t := t.setCluster island { Cluster.init with losses := x.losses, temp := x.temp, thermal := x.thermal }
        (us.foldl (fun t u => setBad t u (some .poison)) t).bump keyPoisonedWords us.length
      else retireIsland s island
      done (settleAll s t)

/-- STRIKE_LAPSE (R160). -/
def execStrikeLapse (region : Nat) (s : State) : Res :=
  onUnit region 0x624 <|
    let x := s.region region
    done (s.setRegion region
      { x with strikes := x.strikes.filter fun t => decide (s.time.now - t < s.oval keyRetireWindow * secNs) })

/-! ## Overcast (R188) -/

/-- OVERCAST_EXIT (R188, R190). -/
def execOvercastExit (s : State) : Res := whenSt (mayLeaveOvercast s) s (overcastLeave s)

/-- OVERCAST_MASK: bit 0 reads 1, and the change is evaluated at once (R188, R191). -/
def applyOvercastMask (s : State) (w : WReq) : Applied :=
  let t := reOvercast (s.setOval w.key (w.val ||| 1))
  ifFlash s w (if mayLeaveOvercast t then overcastLeave t else t)

/-! ## Supervisor pairs (R172, R173) -/

/-- State of a supervisor pair. -/
def svPair (s : State) (n : Nat) : Nat := if n = 0 then s.sv.pair0 else s.sv.pair1

/-- Replace the state of a supervisor pair. -/
def setSv (s : State) (n st : Nat) : State :=
  { s with sv := if n = 0 then { s.sv with pair0 := st } else { s.sv with pair1 := st } }

/-- The pair that is in a given state. -/
def svIn (s : State) (st : Nat) : Option Nat := if s.sv.pair0 = st then some 0 else if s.sv.pair1 = st then some 1 else none

/-- The objects as the standby holds them: those kept over power loss are its copy; what the device counts and measures is
held outside the supervisors (R172, assumption 71). -/
def standbyObjects (s : State) : Objects :=
  { vals := (s.sv.copy.vals.filter fun x => objKept x.1).foldl (fun l x => kset l x.1 x.2) (s.obj.vals.filter fun x => !objKept x.1)
    doms := (s.sv.copy.doms.filter fun x => objKept x.1).foldl (fun l x => kset l x.1 x.2) (s.obj.doms.filter fun x => !objKept x.1) }

/-- The active pair copies its state to the standby (R172). -/
def copyToStandby (s : State) : State := { s with sv := { s.sv with copy := s.obj, lastCopy := s.time.now } }

/-- The other pair takes over as active, with the state it holds (R172, R173). -/
def switchTo (s : State) (n : Nat) : State :=
  let t := { setSv s n 0 with obj := standbyObjects s }
  { t with sv := { t.sv with active := n, switching := some s.time.now } }.bump keySvSwitchovers 1

/-- SUPERVISOR_SWITCHOVER: cause 0x0B lockstep, 0x0C watchdog, 0x05 memory (R172, R193). With no standby the device
restarts (R546). -/
def execSupervisorSwitchover (cause : Nat) (s : State) : Res :=
  let a := s.sv.active
  if svPair s a ≠ 0 then done s
  else
    let t := logFault s (faultNoJob s (regSv a) cause 0x06)
    let t := strike t (regSv a)
    let gone := decide (t.regState (regSv a) = 2)
    let t := setSv t a (if gone then 3 else 2)
    if svPair s (1 - a) = 1 then done (settleAll s (switchTo t (1 - a)))
    else done (restartNow t 7)

/-- SUPERVISOR_PAIR_RETESTED (R172). -/
def execSupervisorPairRetested (passed : Bool) (s : State) : Res :=
  match svIn s 2 with
  | none => done s
  | some n =>
    let t := if passed then copyToStandby (setSv s n 1)
      else
        let t := setSv s n 3
        if t.regState (regSv n) = 2 then t else retireRegion t (regSv n)
    done (settleAll s t)

/-- STANDBY_COPY: every 1 ms (R172). -/
def execStandbyCopy (s : State) : Res :=
  whenSt ((svIn s 1).isSome && decide (s.sv.lastCopy + msNs ≤ s.time.now)) s (copyToStandby s)

/-- SWITCH_OVER_COMPLETE: what R173 suspends resumes. -/
def execSwitchOverComplete (s : State) : Res :=
  let t := { s with sv := { s.sv with switching := none } }
  whenSt s.sv.switching.isSome s (reOvercast (evalMigration t))

/-! ## Firmware update (R174) -/

/-- State format of the running release, from the stored image that carries it (assumption 42). -/
def runningFormat (s : State) : Nat :=
  match (([s.flash.slotA, s.flash.slotB].filterMap id).filter fun i => decide (i.release = s.sv.fwRunning)).head? with
  | some i => i.stateFormat
  | none => 0

/-- FW_IMAGE as it is now, if it is authentic (R501). -/
def authenticFw (s : State) : Option Image :=
  match parseImage s.flash.fwImage with
  | some (i, _) => if !i.bytes.isEmpty && imageAuthentic s i then some i else none
  | none => none

/-- The engine is needed to authenticate an image and is out of service (R499). -/
def cipherMissing (s : State) : Bool := (keyOf s 1).isSome && !cipherUp s

/-- FW_UPDATE_CMD (R174, R191). Authentication, in which the engine may fail, comes before the other refusals
(R475, R499). -/
def applyFwUpdateCmd (s : State) (w : WReq) : Applied :=
  let (s, bad) := cipherFault s (if (keyOf s 1).isSome && !cipherMissing s then w.cipherFaults else 0)
  if bad || cipherMissing s then fails s csTimeout
  else match authenticFw s with
  | none => fails s csIntegrity
  | some i =>
    if w.val ≠ 1 then fails s csRange
    else match svIn s 1 with
    | none => fails s csConflict
    | some n =>
      let f := runningFormat s
      if s.overcast.on ∨ f + 1 < i.stateFormat ∨ i.stateFormat + 1 < f then fails s csConflict
      else
        let t := setSv s n 4
        (csOk, { storeVal t w with sv := { t.sv with updState := 2, updStep := 0, updStart := s.time.now } })

/-- FW_STANDBY_LOADED: step 4, the planned switch-over (R174). -/
def execFwStandbyLoaded (s : State) : Res :=
  match svIn s 4 with
  | none => done s
  | some n =>
    if s.sv.updState ≠ 2 ∨ s.sv.updStep ≠ 0 then done s
    else
      let t := switchTo (copyToStandby (setSv s s.sv.active 4)) n
      done (settleAll s { t with sv := { t.sv with updStep := 1 } })

/-- An image as it is stored with a generation of its own: the header of R549 with that GENERATION, and the tag as it
came (assumption 43). -/
def Image.withGeneration (i : Image) (g : Nat) : Image := { i with generation := g }

/-- The graphs that are loaded once a new release runs: those loaded stay, and the image's others join them, lost ones among
them (R174, R417, assumption 42). -/
def joinGraphs (s : State) (i : Image) : List (Nat × Graph) :=
  (carriedGraphs i).foldl (fun l x => if (kget l x.1).isSome then l else kset l x.1 x.2) s.graphs

/-- FW_UPDATE_DONE: steps 5 and 6. The image goes to the slot that was not booted, one generation above the booted one
(R174, R497, R550). -/
def execFwUpdateDone (s : State) : Res :=
  match svIn s 4, authenticFw s with
  | some n, some i =>
    if s.sv.updState ≠ 2 ∨ s.sv.updStep ≠ 1 ∨ s.sv.switching.isSome then done s
    else
      let t := setSv s n 1
      let i := i.withGeneration (s.supply.bootGeneration + 1)
      done (settleAll s { t with
        sv := { t.sv with updState := 3, fwRunning := i.release }
        keys := { t.keys with bootPending := false }
        graphs := joinGraphs t i
        flash := if s.supply.bootSlot = 0 then { t.flash with slotB := some i } else { t.flash with slotA := some i } })
  | _, _ => done s

/-- FW_IMAGE: a whole image, stored when it is authentic (R174, R501); in recovery mode it is written to slot A and the
device restarts (R551). -/
def applyFwImage (s : State) (w : WReq) : Applied :=
  let b := if w.off = 0 then w.data else (s.flash.fwImage ++ fill w.off 0).take w.off ++ w.data
  let u := { s with flash := { s.flash with fwImage := b } }
  let u := if (keyOf s 1).isSome then useCipher u (cmacBlocks (b.length - 16)) else u
  let (c, bad) := cipherFault s (if (keyOf s 1).isSome then w.cipherFaults else 0)
  if cipherMissing s then fails s csTimeout
  else if bad then (csTimeout, c)
  else match authenticFw u with
  | none => fails c csIntegrity
  | some i =>
    let u := u.setOval keyCipherMismatches (c.oval keyCipherMismatches)
    if s.supply.bootState = 7 then
      let top := max ((s.flash.slotA.map (·.generation)).getD 0) ((s.flash.slotB.map (·.generation)).getD 0)
      (csOk, { u with flash := { u.flash with slotA := some (i.withGeneration (top + 1)) }
                      supply := { u.supply with resetAfter := some 0x0A } })
    else (csOk, { u with sv := { u.sv with updState := if u.sv.updState = 2 then 2 else 1 } })

/-! ## Restoring and retiring regions (R162, R171) -/

/-- REGION_RESTORE: a retired region returns to service at once, and a lost memory region is tested first (R162, R171). What
a retired memory region holds then reads as zeros (assumption 71). -/
def applyRegionRestore (s : State) (w : WReq) : Applied :=
  let r := w.val
  let st := s.regState r
  if 0x624 ≤ r then fails s csConflict
  else if isMemRegion r && decide (st = 3) then (csWait, storeVal (s.setRegState r 1) w)
  else if st ≠ 2 then fails s csConflict
  else
    let t := (zeroRegion (storeVal s w) r).setRegion r Region.init
    let t := if 0x2D0 ≤ r ∧ r < 0x2E0 then
        let x := t.cluster (r - 0x2D0)
        (fillIsland t (r - 0x2D0)).setCluster (r - 0x2D0) { Cluster.init with temp := x.temp, thermal := x.thermal }
      else if r = 0x5CE ∨ r = 0x5CF then (if svPair t (r - 0x5CE) = 3 then setSv t (r - 0x5CE) 1 else t)
      else t
    (csOk, t)

/-- The end of a restore's test: the region is in service with zeros, or stays lost and the write ends with
STATE_CONFLICT (R171). -/
def restoreTested (s : State) (r : Nat) (passed : Bool) : Applied :=
  if passed then (csOk, (zeroRegion s r).setRegion r Region.init)
  else (csConflict, s.setRegState r 3)

/-- REGION_RETIRE: only a lost Anvil quarter or DRAM subchannel (R171). -/
def applyRegionRetire (s : State) (w : WReq) : Applied :=
  if isMemRegion w.val && decide (s.regState w.val = 3) then (csOk, retireRegion (storeVal s w) w.val)
  else fails s csConflict

end Sys2Proof.Machine
end

