-- ==== Sys2Proof/Machine/Dispatcher.lean ====
section
/-!
DEFINITION. The dispatchers: ready runs and their ranks, placing, the start state of a core and of an engine entry,
eviction and replay (R125, R128 to R130, R156, R202 to R205, R208, R229, R262, R279 to R281, R394).
-/
namespace Sys2Proof.Machine

/-! ## Ranks (R128, R131, R132, R165) -/

/-- Order of dispatch: rank, deadline, acceptance order (R128). -/
structure RankKey where
  rank : Nat
  dl : Int
  order : Nat
  deriving DecidableEq, Repr

/-- The key of a run. -/
def rankKey (s : State) (j : Job) (r : TaskRun) : Option RankKey :=
  (runRank s j r).map fun k => { rank := k, dl := if k = 1 ∨ k = 3 then j.dl else 0, order := j.order }

/-- One key is served before another. -/
def RankKey.before (a b : RankKey) : Bool :=
  if a.rank ≠ b.rank then decide (a.rank < b.rank)
  else if a.dl ≠ b.dl then decide (a.dl < b.dl)
  else decide (a.order < b.order)

/-! ## Places (R128, R156, R161, R262) -/

/-- MXC-using tasks running on a quad (R262). -/
def quadTasks (s : State) (m : Nat) : Nat :=
  ((allRuns s).filter fun (_, _, d, r) => d.usesMxc && decide (r.phase = 1) &&
    (match r.place with | some (.core c) => decide (quadOf c = m) | _ => false)).length

/-- The rules of R262 allow a task on a core. -/
def mxcAllows (s : State) (d : TaskDef) (c : Nat) : Bool :=
  !d.usesMxc || (s.up (regMxc (quadOf c)) && decide (quadTasks s (quadOf c) < s.oval keyMxcQuadTasks))

/-- A core may take a run when it is free: in service, on an ungated powered cluster of the run, not one it faulted on,
and not in the spare reserve unless the run is a replay, a shadow run or a vote (R128, R156). -/
def coreFits (s : State) (j : Job) (d : TaskDef) (r : TaskRun) (c : Nat) : Bool :=
  let k := c / 36
  decide (roleCluster s j r.role = some k) && clusterUp s k && !(s.cluster k).gated && s.up (regCore c)
    && !r.badPlaces.contains (.core c) && mxcAllows s d c
    && (!coreReserve s c || decide (r.phase = 3) || r.replay || decide (r.role ≠ .main))

/-- The free cores that may take a run. -/
def freeCores (s : State) (j : Job) (d : TaskDef) (r : TaskRun) : List Nat :=
  match roleCluster s j r.role with
  | none => []
  | some k => ((List.range 36).map (36 * k + ·)).filter fun c => (s.core c).task.isNone && coreFits s j d r c

/-- A task channel of one of the cluster's two DMA engines that no task holds (R394). -/
def freeChannel (s : State) (k : Nat) : Option Nat :=
  (((List.range 2).flatMap fun e => (List.range 6).map fun i => 8 * (2 * k + e) + 2 + i)).find? fun ch =>
    (List.range 36).all fun i => decide ((s.core (36 * k + i)).dmaChan ≠ some ch)

/-! ## Eviction (R129) -/

/-- The latest start time of a run has arrived: its remaining path no longer ends before the deadline (R129). A voting
run takes a core by eviction whenever none is free (R165). -/
def mustStart (s : State) (j : Job) (t : Nat) (r : TaskRun) (k : Nat) : Bool :=
  decide (runRank s j r = some 1) &&
    (decide (r.role = .vote) ||
      decide (j.dl * 24 - remainingPath s j (s.cluster k).opp t ≤ (s.time.now : Int) * 24))

/-- A running task that may be evicted, with its key and reference. -/
def evictable (s : State) (k : Nat) : List (RankKey × TaskRef × Nat) :=
  (allRuns s).filterMap fun (j, t, d, r) =>
    match r.place, rankKey s j r with
    | some (.core c), some key =>
      if r.phase = 1 ∧ d.kind = 0 ∧ c / 36 = k ∧ 2 ≤ key.rank ∧ r.evictions < s.oval keyEvictMax then
        some (key, runRef j t r, c) else none
    | _, _ => none

/-- The victim: lowest rank among 4, 3 and 2, then the latest deadline, then the latest acceptance (R129). -/
def victim (s : State) (k : Nat) : Option (RankKey × TaskRef × Nat) :=
  (evictable s k).foldl (fun b x => match b with
    | none => some x
    | some y => if y.1.before x.1 then some x else some y) none

/-! ## The start state of a core (R202 to R205, R208, R229, R394) -/

/-- Inputs of a task as it reads them: job inputs and predecessors' staged outputs. -/
def taskInputs (s : State) (j : Job) (d : TaskDef) : List InputAt :=
  let g := jobGraph s j
  d.reads.map fun k =>
    if k < 4 then
      match j.inVers.getD k none with
      | some r => inputAt s (nth0 j.desc.inH k) r
      | none => { addr := 0, len := 0, extent := 0, virt := some [] }
    else
      match g.tasks[(k - 4) / 4]?, (j.tasks[(k - 4) / 4]?).bind keptRun with
      | some p, some r =>
        match r.staging.find? fun x => decide (x.1 = (k - 4) % 4) with
        | some x =>
          let pool := stagingPool s g j.desc p x.1
          { addr := physAddr s pool x.2.1, len := x.2.2, extent := (poolCfg s pool).size, virt := none }
        | none => { addr := 0, len := 0, extent := 0, virt := some [] }
      | _, _ => { addr := 0, len := 0, extent := 0, virt := some [] }

/-- A segment over a range (R205). -/
def segOf (addr len : Nat) (ro : Bool) (virt : Option (List Byte)) : SegReg :=
  { base := BitVec.ofNat 40 addr, lim := BitVec.ofNat 32 (min len 67108864), valid := true, readOnly := ro, virt }

/-- Segments of a task: inputs, staging buffers, graph-internal buffers, and the DMA window as segment 7 (R205, R394). -/
def taskSegs (s : State) (j : Job) (d : TaskDef) (staging : List (Nat × Nat × Nat)) (chan : Option Nat) : List SegReg :=
  let g := jobGraph s j
  let ins := (taskInputs s j d).map fun i => segOf i.addr i.extent true i.virt
  let outs := (staging.filter fun x => decide (x.1 ≠ harqPlace)).map fun x =>
    let p := stagingPool s g j.desc d x.1
    segOf (physAddr s p x.2.1) (poolCfg s p).size false none
  let mids := d.internals.map fun x => segOf x.1 x.2.1 (!x.2.2) none
  let l := ins ++ outs ++ mids
  let l := (l ++ List.replicate (8 - l.length) SegReg.init).take 8
  match chan with
  | some ch => l.set 7 (segOf (windowBase + 64 * ch) 64 false none)
  | none => l

/-- Core address of a segment (R205). -/
def segAddr (n : Nat) : Nat := 0x40000000 + 0x04000000 * n

/-- The task block (R203). -/
def taskBlock (s : State) (j : Job) (t : Nat) (d : TaskDef) (staging : List (Nat × Nat × Nat)) : List Byte :=
  let g := jobGraph s j
  let ins := taskInputs s j d
  let outs := (staging.filter fun x => decide (x.1 ≠ harqPlace)).map fun x => (poolCfg s (stagingPool s g j.desc d x.1)).size
  let word (l : List Nat) (i : Nat) : List Byte := leBytes 4 (nth0 l i)
  let inA := (List.range ins.length).map segAddr
  let outA := (List.range outs.length).map fun i => segAddr (ins.length + i)
  leBytes 2 j.desc.graph ++ leBytes 1 t ++ [0] ++ (List.range 3).flatMap (word j.desc.param)
    ++ (List.range 8).flatMap (word inA) ++ (List.range 8).flatMap (word (ins.map (·.len)))
    ++ (List.range 4).flatMap (word outA) ++ (List.range 4).flatMap (word outs)
    ++ leBytes 4 d.scratch.1 ++ leBytes 4 d.scratch.2 ++ fill 136 0

/-- The dispatcher loads the kernel image and writes the task block; every other TCM line is cleared (R203, R204,
R208). -/
def loadCore (s : State) (c : Nat) (d : TaskDef) (block : List Byte) : State :=
  let ibase := c * 65536 + d.kbase
  let n := d.klimit - d.kbase
  { s with mem := { s.mem with
    bytes := msetAll s.mem.bytes (tcmBase c) block
    bad := s.mem.bad.filter fun y => !(decide (tcmBase c ≤ y.1) && decide (y.1 < tcmBase c + 256))
    reload := s.mem.reload.filter fun y => decide (y ≠ c)
    imem := msetAll s.mem.imem ibase (slice d.image 0 n)
    ibad := s.mem.ibad.filter fun y => !(decide (ibase ≤ y.1) && decide (y.1 < ibase + n)) } }

/-- The state in which a core starts a task (R202, R229, R259). -/
def startCore (s : State) (ref : TaskRef) (d : TaskDef) (segs : List SegReg) (chan : Option Nat) : Core :=
  { Core.init with
    task := some ref, running := true, kbase := BitVec.ofNat 32 d.kbase, klimit := BitVec.ofNat 32 d.klimit
    cycleAt := s.time.now, pc := d.entry, lines := [0, 1, 2, 3], dmaChan := chan
    seg := Vector.ofFn fun (i : Fin 8) => segs.getD i.val SegReg.init }

/-- The STARTED bit is set in both halves before the first task of a job starts (R58). -/
def markStarted (s : State) (j : Job) : State :=
  if j.started then s
  else
    let j := { j with started := true }
    let s := s.setJob j
    if j.buddyOf.isNone then jWrite s j.acceptSlot (acceptEntry j) else s

/-- Record the start of a run on a place. -/
def startedRun (s : State) (ref : TaskRef) (p : Option Place) (phase : Nat) (staging : List (Nat × Nat × Nat)) : State :=
  match findRun s ref with
  | none => s
  | some (j, ti, r) =>
    let moved := match p with
      | some (.core c) => decide (r.role = .main) && jobHasCell s j && decide (c / 36 ≠ j.cluster)
      | _ => false
    let s := markStarted s j
    let j := (s.job ref.q ref.seq).getD j
    setTask s { j with migrated := j.migrated || moved } ref.task
      (ti.setRun { r with phase, place := p, startTime := s.time.now, starts := r.starts + 1, cycles := 0, staging
                          replay := false })

/-- Start a run on a free core; none when staging or a task channel is not to be had (R39, R394). -/
def startOnCore (s : State) (ref : TaskRef) (j : Job) (d : TaskDef) (c : Nat) : Option State :=
  match takeStaging s (stagingPools s (jobGraph s j) j.desc d) with
  | none => none
  | some (s, staging) =>
    let chan := if d.dma then freeChannel s (c / 36) else none
    if d.dma && chan.isNone then none
    else
      let s := loadCore s c d (taskBlock s j ref.task d staging)
      let s := match chan with
        | some ch => s.setChan ch { Chan.init with owner := some c }
        | none => s
      let s := s.setCore c (startCore s ref d (taskSegs s j d staging chan) chan)
      some (startedRun s ref (some (.core c)) 1 staging)

/-! ## Engine entries (R279, R280, R288, R306) -/

/-- The runs of several bytes that fields of a parameter block share or fill, each held little-endian as one: offset and
bytes (R2, R279; DEDUCED, assumption 32: fields that meet within a byte are held together). -/
def blockFields (ekind : Nat) : List (Nat × Nat) :=
  match ekind with
  | 1 | 2 => [(2, 2), (4, 2), (6, 2), (10, 5), (15, 5), (20, 5)]
  | 3 | 4 => [(1, 3), (4, 2)]
  | 5 | 6 => [(0, 3), (3, 2), (6, 2), (8, 2), (10, 4)]
  | _ => [(0, 2), (2, 2), (4, 2)]

/-- The block that 64 bytes of memory spell: fields of several bytes are little-endian there (R28, R279). -/
def blockOfBytes (ekind : Nat) (b : List Byte) : BitVec 512 :=
  let swapped := (blockFields ekind).foldl (fun (l : List Byte) f =>
    l.take f.1 ++ ((l.drop f.1).take f.2).reverse ++ l.drop (f.1 + f.2)) (slice b 0 64)
  BitVec.ofNat 512 (beNat swapped)

/-- Overwrite bits hi down to lo of a block. -/
def blockSet (b : BitVec 512) (hi lo v : Nat) : BitVec 512 :=
  BitVec.ofNat 512 (b.toNat - bits b.toNat hi lo * 2 ^ lo + v % 2 ^ (hi + 1 - lo) * 2 ^ lo)

/-- D_KEY of a job's entries: its resolved deadline in units of 8 ns, low 32 bits, all ones for untimed jobs (R117,
R280). -/
def deadlineKey (j : Job) : BitVec 32 :=
  match j.deadline with
  | some d => if j.desc.timed then BitVec.ofInt 32 (d / 8) else 0xFFFFFFFF
  | none => 0xFFFFFFFF

/-- The 32-byte header of an entry as a number, bit 255 most significant (R280). -/
def Entry.header (e : Entry) : BitVec 256 :=
  let n := e.kind * 2 ^ 252 + e.rank % 4 * 2 ^ 250 + e.task.q % 2 ^ 12 * 2 ^ 232 + e.task.task % 2 ^ 8 * 2 ^ 224
    + e.task.seq.toNat * 2 ^ 192 + e.dkey.toNat * 2 ^ 160 + e.start % 2 ^ 8 * 2 ^ 152 + e.inLen % 2 ^ 24 * 2 ^ 128
    + e.inAddr % 2 ^ 40 * 2 ^ 88 + e.outCap % 2 ^ 24 * 2 ^ 64 + e.outAddr % 2 ^ 40 * 2 ^ 24
  BitVec.ofNat 256 n

/-- Where the staged output lies that a task's graph names for its parameter block, once its predecessor has left one
(R279). -/
def stagedBlockAt (s : State) (j : Job) (d : TaskDef) : Option Nat :=
  let g := jobGraph s j
  match d.blockFrom with
  | none => none
  | some (p, o) =>
    match g.tasks[p]?, (j.tasks[p]?).bind keptRun with
    | some pd, some pr =>
      (pr.staging.find? fun x => decide (x.1 = o)).map fun x => physAddr s (stagingPool s g j.desc pd o) x.2.1
    | _, _ => none

/-- The queue entry of an accelerator task (R279, R280, R288). -/
def makeEntry (s : State) (ref : TaskRef) (j : Job) (d : TaskDef) (r : TaskRun) (staging : List (Nat × Nat × Nat))
    (replay : Bool) : State × Entry :=
  let g := jobGraph s j
  let i := (taskInputs s j d).headD { addr := 0, len := 0, extent := 0, virt := some [] }
  let out := staging.find? fun x => decide (x.1 = 0)
  let pool := stagingPool s g j.desc d 0
  let hq := harqHandle g j.desc
  let valid := d.harq && harqValid s hq
  let hin := if valid then match j.inVers.getD 4 none with | some v => (inputAt s hq v).addr | none => 0 else 0
  let hout := match staging.find? fun x => decide (x.1 = harqPlace) with
    | some x => physAddr s (hPool hq) x.2.1
    | none => 0
  let (s, raw) := match stagedBlockAt s j d with
    | none => (s, d.block)
    | some a => match devRead s 4 a 64 with
      | (s, .ok b) => (s, blockOfBytes d.ekind b)
      | (s, _) => (s, d.block)
  let block := if d.ekind = 1 then blockSet (blockSet raw 391 352 hin) 351 312 hout else raw
  (s, { task := ref, kind := d.ekind, rank := (runRank s j r).getD 4 - 1, dkey := deadlineKey j, start := r.starts + 1
        inAddr := i.addr, inVirt := i.virt, inLen := i.len
        outAddr := match out with | some x => physAddr s pool x.2.1 | none => 0
        outCap := (poolCfg s pool).size, block, harqIn := hin, harqOut := hout, harqSize := (poolCfg s (hPool hq)).size
        harqBad := d.harq && decide (hq ≠ 0) && !valid, isReplay := replay })

/-- An accelerator task becomes a waiting entry with its staging buffer (R279, R281). -/
def queueEntry (s : State) (ref : TaskRef) (j : Job) (d : TaskDef) (r : TaskRun) (replay : Bool) : Option State :=
  match takeStaging s (stagingPools s (jobGraph s j) j.desc d) with
  | none => none
  | some (s, staging) =>
    let (s, e) := makeEntry s ref j d r staging replay
    match findRun s ref with
    | none => none
    | some (j, ti, r) =>
      some (setTask { s with entries := s.entries ++ [e] } j ref.task (ti.setRun { r with phase := 5, staging }))

/-! ## Dispatch and replay (R128 to R130, R156) -/

/-- A core run could start on its cluster now: its staging and its task channel are free, and a core is free or may be freed
for it (R39, R129, R394). -/
def couldStart (s : State) (j : Job) (t : Nat) (d : TaskDef) (r : TaskRun) : Bool :=
  match roleCluster s j r.role with
  | none => false
  | some k =>
    (takeStaging s (stagingPools s (jobGraph s j) j.desc d)).isSome &&
      (if (freeCores s j d r).isEmpty then
        mustStart s j t r k && (match victim s k with
          | some v => !d.dma || (freeChannel s k).isSome || (s.core v.2.2).dmaChan.isSome
          | none => false)
      else !d.dma || (freeChannel s k).isSome)

/-- No ready run that could start on the same cluster comes before this one, a run that waits for its replay among them
(R128, R156). -/
def isHead (s : State) (j : Job) (d : TaskDef) (r : TaskRun) : Bool :=
  match rankKey s j r with
  | none => false
  | some key => (allRuns s).all fun (i, t, e, x) =>
    !(decide (e.kind = 0) && decide (roleCluster s i x.role = roleCluster s j r.role)
        && (runReady s i t e x 0 || runReady s i t e x 3)
        && (match rankKey s i x with | some k => k.before key | none => false) && couldStart s i t e x)
      || decide (e = d ∧ i.order = j.order ∧ x.role = r.role)

/-- Take a core for a run: free, or freed by evicting the victim R129 names. -/
def takeCore (s : State) (ref : TaskRef) (j : Job) (d : TaskDef) (r : TaskRun) (c : Nat) : Option State :=
  let free := freeCores s j d r
  if free.contains c then startOnCore s ref j d c
  else if free.isEmpty && mustStart s j ref.task r (c / 36) then
    match victim s (c / 36) with
    | some (_, v, vc) =>
      if vc = c then
        let s := evictRun s v
        match findRun s ref with
        | some (j, _, r) => if coreFits s j d r c then startOnCore s ref j d c else none
        | none => none
      else none
    | none => none
  else none

/-- The counter of replays follows a start of one (R156). -/
def countReplay (s : State) (replay : Bool) : State := if replay then s.bump keyReplays 1 else s

/-- R128: a ready run starts at its rank, a replay that waited for a core among them; an accelerator task becomes a waiting
entry (R281). -/
def execTaskDispatch (t : TaskRef) (p : Place) (s : State) : Res :=
  match findRun s t with
  | none => done s
  | some (j, _, r) =>
    match (jobGraph s j).tasks[t.task]? with
    | none => done s
    | some d =>
      if !runReady s j t.task d r 0 then done s
      else if d.kind = 0 then
        match p with
        | .core c => onUnit c 576 (done
            (if isHead s j d r then match takeCore s t j d r c with | some u => countReplay u r.replay | none => s else s))
        | .engine _ _ => done s
      else done ((queueEntry s t j d r false).getD s)

/-- R156: a faulted run starts again on the spare-reserve core or else on another free core; when none is free it waits as a
ready task at its job's rank. An accelerator task goes ahead of every first start of its kind. -/
def execTaskReplay (t : TaskRef) (p : Place) (s : State) : Res :=
  match findRun s t with
  | none => done s
  | some (j, ti, r) =>
    match (jobGraph s j).tasks[t.task]? with
    | none => done s
    | some d =>
      if !runReady s j t.task d r 3 then done s
      else if d.kind = 0 then
        match p with
        | .core c =>
          let free := freeCores s j d r
          let spare := free.filter fun x => coreReserve s x
          onUnit c 576 (done
            (if free.isEmpty then setTask s j t.task (ti.setRun { r with phase := 0, replay := true })
             else if spare.isEmpty || spare.contains c then
               match takeCore s t j d r c with
               | some u => u.bump keyReplays 1
               | none => s
             else s))
        | .engine _ _ => done s
      else match queueEntry s t j d r true with
        | some u => done (u.bump keyReplays 1)
        | none => done s

end Sys2Proof.Machine
end

