-- ==== Sys2Proof/Machine/Ldpc.lean ====
section
/-!
DEFINITION. LDPC coding: the checks of an entry, the circular buffer, the HARQ soft buffer, the layered decoder and the
encoder (R282 to R289, R293, R296). The base graphs that TS 38.212 tabulates and this spec only names are opaque
(Config.ldpcShift).
-/
namespace Sys2Proof.Machine

/-! ## Results and checks (R282, R283, R297) -/

/-- What an engine answers at the start of a run: its output with its HARQ soft buffer and counters, or an error with
the address it concerns. -/
abbrev EngOut := State × EngResult

/-- Error codes (R297, R322). -/
abbrev errParam : Nat := 0x01
/-- LENGTH (R297). -/
abbrev errLength : Nat := 0x02
/-- OUT_CAP (R297). -/
abbrev errOutCap : Nat := 0x03
/-- HARQ_MISMATCH (R297). -/
abbrev errHarq : Nat := 0x04
/-- CHECK (R296, R297). -/
abbrev errCheck : Nat := 0x20
/-- CHANNEL_OFF (R322). -/
abbrev errChannel : Nat := 0x30

/-- A check of an entry: the byte offset of the field, the code and whether it fails. -/
abbrev Check := Nat × Nat × Bool

/-- The failing check at the lowest byte offset (R282). -/
def firstFail (l : List Check) : Option (Nat × Nat) :=
  (l.filter fun c => c.2.2).foldl (fun (b : Option (Nat × Nat)) c =>
    match b with
    | none => some (c.1, c.2.1)
    | some x => if c.1 < x.1 then some (c.1, c.2.1) else b) none

/-- Byte offset of the entry field whose most significant bit is bit b of the parameter block (R279). -/
def blockByte (b : Nat) : Nat := 32 + (511 - b) / 8

/-- The first n bits of a number, most significant first, as the check of a reserved field. -/
def reservedSet (v hi lo : Nat) : Bool := bits v hi lo != 0

/-- Bits of bytes, most significant first (R283). -/
def bitsOf (b : List Byte) : List Bool := b.flatMap fun x => (List.range 8).map fun i => x.getLsbD (7 - i)

/-- Eight bits as one byte, the first most significant; bits beyond the list are zero. -/
def byteOfBits (l : List Bool) (i : Nat) : Byte :=
  (List.range 8).foldl (fun (v : Byte) j => v * 2 + (if l.getD (8 * i + j) false then 1 else 0)) 0

/-- Bits packed into bytes, most significant bit first (R283). -/
def packBits (l : List Bool) : List Byte := (List.range ((l.length + 7) / 8)).map (byteOfBits l)

/-- Data padded with zeros to a multiple of n bytes (R283, R318). -/
def padTo (n : Nat) (b : List Byte) : List Byte := b ++ fill ((n - b.length % n) % n) 0

/-- Bytes of data of a length once padded to a multiple of n. -/
def padLen (n len : Nat) : Nat := (len + n - 1) / n * n

/-- A number as bits, most significant first. -/
def numBits (n v : Nat) : List Bool := (List.range n).map fun i => tbit v (n - 1 - i)

/-- Bits as a number, most significant first. -/
def bitsNum (l : List Bool) : Nat := l.foldl (fun v b => 2 * v + b2n b) 0

/-- One bit entered into a CRC of w bits with a polynomial, most significant bit first. -/
def crcBit (w poly : Nat) (c : Nat) (b : Bool) : Nat :=
  let c2 := c * 2 % 2 ^ w
  if tbit c (w - 1) != b then Nat.xor c2 poly else c2

/-- CRC of w bits over bits, from zero and without final inversion. -/
def crcBits (w poly : Nat) (l : List Bool) : Nat := l.foldl (crcBit w poly) 0

/-- CRC24B of TS 38.212 (R286). -/
def crc24b (l : List Bool) : Nat := crcBits 24 0x800063 l

/-! ## Parameter block (R286) -/

/-- The fields of an LDPC parameter block. -/
structure LdpcPar where
  bg2 : Bool
  et : Nat
  crcCb : Bool
  combine : Bool
  rv : Nat
  iMax : Nat
  z : Nat
  qm : Nat
  kPrime : Nat
  ncb : Nat
  c : Nat
  cLow : Nat
  eLow : Nat
  eHigh : Nat
  deriving DecidableEq, Repr

/-- The fields as the block holds them. -/
def ldpcPar (b : Nat) : LdpcPar :=
  { bg2 := tbit b 511, et := bits b 510 509, crcCb := tbit b 508, combine := tbit b 507, rv := bits b 506 505
    iMax := bits b 503 496, z := bits b 495 487, qm := bits b 486 483, kPrime := bits b 479 464, ncb := bits b 463 448
    c := bits b 447 440, cLow := bits b 439 432, eLow := bits b 431 412, eHigh := bits b 411 392 }

/-- K_b: information columns of the base graph (R293). -/
def LdpcPar.kb (p : LdpcPar) : Nat := if p.bg2 then 10 else 22
/-- K: information bits of a block with its filler (R286). -/
def LdpcPar.k (p : LdpcPar) : Nat := p.kb * p.z
/-- The largest circular buffer (R286). -/
def LdpcPar.full (p : LdpcPar) : Nat := (if p.bg2 then 50 else 66) * p.z
/-- Rows of the base graph (R293). -/
def LdpcPar.rows (p : LdpcPar) : Nat := if p.bg2 then 42 else 46
/-- Rate-matched length of block b. -/
def LdpcPar.e (p : LdpcPar) (b : Nat) : Nat := if b < p.cLow then p.eLow else p.eHigh
/-- Rate-matched bits before block b. -/
def LdpcPar.eBefore (p : LdpcPar) (b : Nat) : Nat := min b p.cLow * p.eLow + (b - p.cLow) * p.eHigh
/-- Bits of a block without its CRC24B. -/
def LdpcPar.payload (p : LdpcPar) : Nat := p.kPrime - (if p.crcCb then 24 else 0)

/-- Lifting sizes of TS 38.212 from 2 to 384: a × 2^j for a of 2, 3, 5, 7, 9, 11, 13 and 15. -/
def liftingSizes : List Nat :=
  [2, 3, 5, 7, 9, 11, 13, 15].flatMap fun a => ((List.range 8).map fun j => a * 2 ^ j).filter fun z => decide (z ≤ 384)

/-- The checks that decode and encode share (R286, R289). -/
def ldpcChecks (p : LdpcPar) (b : Nat) : List Check :=
  [ (blockByte 504, errParam, tbit b 504),
    (blockByte 495, errParam, !liftingSizes.contains p.z),
    (blockByte 486, errParam, !([1, 2, 4, 6, 8, 10] : List Nat).contains p.qm),
    (blockByte 482, errParam, reservedSet b 482 480),
    (blockByte 479, errParam, decide (p.kPrime < (if p.crcCb then 25 else 1)) || decide (p.k < p.kPrime)),
    (blockByte 463, errParam, decide (p.ncb + 2 * p.z ≤ p.k) || decide (p.full < p.ncb)),
    (blockByte 447, errParam, decide (p.c = 0) || decide (128 < p.c)),
    (blockByte 439, errParam, decide (p.c < p.cLow)),
    (blockByte 431, errParam, decide (p.eLow = 0) || decide (p.eLow % p.qm ≠ 0)),
    (blockByte 411, errParam, if p.cLow = p.c then decide (p.eHigh ≠ 0) else decide (p.eHigh = 0) || decide (p.eHigh % p.qm ≠ 0)) ]

/-- Checks of the header that every engine makes: sizes against the entry (R280, R282). -/
def sizeChecks (e : Entry) (implied : Int) (out : Nat) : List Check :=
  [ (13, errParam, decide (e.inLen = 0) || decide (0xFFFFFF < e.inLen)),
    (13, errLength, decide ((e.inLen : Int) ≠ implied)),
    (21, errOutCap, decide (e.outCap < out)),
    (24, errParam, decide (e.outAddr % 64 ≠ 0)) ]

/-- Total of the blocks' rate-matched lengths. -/
def LdpcPar.total (p : LdpcPar) : Int := p.cLow * p.eLow + ((p.c : Int) - p.cLow) * p.eHigh

/-- Bytes of one block's region in the soft buffer (R288). -/
def LdpcPar.region (p : LdpcPar) : Nat := padLen 64 p.ncb
/-- Bytes of the soft buffer (R288). -/
def LdpcPar.harqLen (p : LdpcPar) : Nat := 64 + p.c * p.region

/-- Bytes of a decode's output: data padded and one result word per block (R286, R287). -/
def LdpcPar.outLen (p : LdpcPar) : Nat := padLen 64 ((p.c * p.payload + 7) / 8) + 8 * p.c

/-- The checks of a decode entry (R286, R288). -/
def decodeChecks (e : Entry) : List Check :=
  let b := e.block.toNat
  let p := ldpcPar b
  sizeChecks e p.total p.outLen ++ ldpcChecks p b ++
    [ (blockByte 510, errParam, decide (2 ≤ p.et) && !p.crcCb),
      (blockByte 503, errParam, decide (p.iMax = 0) || decide (32 < p.iMax)),
      (blockByte 391, errParam, e.harqBad || (p.combine && decide (e.harqOut = 0))),
      (blockByte 351, errLength, decide (e.harqOut ≠ 0) && decide (e.harqSize < p.harqLen)),
      (blockByte 311, errParam, reservedSet b 311 0) ]

/-- The checks of an encode entry (R289). -/
def encodeChecks (e : Entry) : List Check :=
  let b := e.block.toNat
  let p := ldpcPar b
  sizeChecks e ((p.c * p.payload + 7) / 8 : Nat) (padLen 64 ((p.total.toNat + 7) / 8)) ++ ldpcChecks p b ++
    [ (blockByte 510, errParam, decide (p.et ≠ 0)),
      (blockByte 507, errParam, p.combine),
      (blockByte 503, errParam, decide (p.iMax ≠ 0)),
      (blockByte 391, errParam, reservedSet b 391 0) ]

/-! ## Cost (R293) -/

/-- W(L) (R293). -/
def ldpcW (bg2 : Bool) (l : Nat) : Nat := if bg2 then 10 * min l 4 + 5 * (l - 4) else 19 * min l 4 + 7 * (l - 4)

/-- L: base-graph rows that a decode runs over for an extent (R293). -/
def LdpcPar.layers (p : LdpcPar) (x : Nat) : Nat := max 4 (min p.rows ((x + p.z - 1) / p.z + 2 - p.kb))

/-- Sum of a cost over the blocks. -/
def LdpcPar.sum (p : LdpcPar) (f : Nat → Nat) : Nat := ((List.range p.c).map fun b => f (p.e b)).sum

/-- Model cost of a decode (R293). -/
def decodeCost (p : LdpcPar) : Nat :=
  128 + p.sum fun e => max (96 + p.iMax * ldpcW p.bg2 (p.layers (if p.combine then p.ncb else min e p.ncb))) ((e + 63) / 64 + 32)

/-- Model cost of an encode (R293). -/
def encodeCost (p : LdpcPar) : Nat := 128 + p.sum fun e => 68 + (e + 63) / 64

/-! ## The circular buffer (R286) -/

/-- k0 of a redundancy version (R286; TS 38.212 clause 5.4.2.1, PRESUMED). -/
def LdpcPar.k0 (p : LdpcPar) : Nat :=
  let a := if p.bg2 then [0, 13, 25, 43] else [0, 17, 33, 56]
  nth0 a p.rv * p.ncb / p.full * p.z

/-- A filler position of the circular buffer (R286). -/
def LdpcPar.filler (p : LdpcPar) (i : Nat) : Bool := decide (p.kPrime - 2 * p.z ≤ i) && decide (i < p.k - 2 * p.z)

/-- One turn of the circular buffer from k0, filler positions passed over (TS 38.212 clause 5.4.2.1, PRESUMED). -/
def LdpcPar.turn (p : LdpcPar) : List Nat :=
  ((List.range p.ncb).map fun i => (p.k0 + i) % p.ncb).filter fun i => !p.filler i

/-- Place of rate-matched bit j of a block of length e before the interleaving of QM (TS 38.212 clause 5.4.2.2,
PRESUMED): bit i + j × QM of the block is bit i × e ÷ QM + j of the selection. -/
def interleaved (qm e f : Nat) : Nat := f % qm * (e / qm) + f / qm

/-- An LLR as the engine reads it: −128 is −127 (R284). -/
def llrOf (b : Byte) : Int := max (-127) b.toInt

/-- Sums of LLRs saturate (R284). -/
def satLlr (v : Int) : Int := max (-127) (min 127 v)

/-- LLRs of a block in the order of bit selection. -/
def deinterleave (p : LdpcPar) (l : List Int) : List Int :=
  (List.range l.length).map fun i => l.getD (i % (l.length / p.qm) * p.qm + i / (l.length / p.qm)) 0

/-- LLRs that wrap onto the same position, added in their order. -/
def wrapSum (l : List Int) (n q : Nat) : Int :=
  (List.range (l.length / n + 1)).foldl (fun (v : Int) r => satLlr (v + l.getD (q + r * n) 0)) 0

/-- A block's circular buffer: the LLRs placed, filler at +127, the old values added (R286, R288). -/
def circular (p : LdpcPar) (llr : List Int) (old : List Int) : List Int :=
  let turn := p.turn
  let sel := deinterleave p llr
  (List.range p.ncb).map fun i =>
    satLlr ((if p.filler i then 127 else wrapSum sel turn.length (turn.idxOf i)) + old.getD i 0)

/-- One past the highest position that a block of length e writes (R288 EXTENT). -/
def LdpcPar.extent (p : LdpcPar) (e : Nat) : Nat := (p.turn.take e).foldl (fun m i => max m (i + 1)) 0

/-! ## Layered offset min-sum (R286) -/

/-- State of the decoder of one block: a-posteriori values of the columns, and check messages by edge. -/
structure LdpcSt where
  app : List Int
  msgs : List (Nat × Int)
  deriving DecidableEq, Repr

/-- Edges of one parity check: variable and message key. -/
def checkEdges (p : LdpcPar) (row i : Nat) : List (Nat × Nat) :=
  (List.range (p.kb + p.rows)).filterMap fun col =>
    (Config.ldpcShift p.bg2 p.z row col).map fun v => (col * p.z + (i + v) % p.z, (row * 68 + col) * p.z + i)

/-- A message to edge n of a check whose variable messages are q: the product of the other signs and the least of the
other magnitudes less the offset of 1, saturated at 31 (R286). -/
def checkMsg (q : List Int) (n : Nat) : Int :=
  let others := q.eraseIdx n
  let mag := others.foldl (fun m x => min m x.natAbs) 127
  let neg := (others.filter fun x => decide (x < 0)).length % 2 = 1
  let v : Int := min 31 ((mag - 1 : Nat) : Int)
  if neg then -v else v

/-- One check of a layer. -/
def checkStep (p : LdpcPar) (row : Nat) (s : LdpcSt) (i : Nat) : LdpcSt :=
  let edges := checkEdges p row i
  let q := edges.map fun x => satLlr (s.app.getD x.1 0 - kgetD s.msgs x.2 0)
  edges.zipIdx.foldl (fun (t : LdpcSt) (x, n) =>
    let m := checkMsg q n
    { app := t.app.set x.1 (satLlr (q.getD n 0 + m)), msgs := kset t.msgs x.2 m }) s

/-- One full iteration: the rows of the base graph in increasing order (R286). -/
def ldpcIterate (p : LdpcPar) (layers : Nat) (s : LdpcSt) : LdpcSt :=
  (List.range layers).foldl (fun (t : LdpcSt) row => (List.range p.z).foldl (checkStep p row) t) s

/-- Hard decisions: the signs of the a-posteriori values (R286). -/
def hardBits (s : LdpcSt) : List Bool := s.app.map fun v => decide (v < 0)

/-- Parity checks that hard decisions do not satisfy. -/
def unsatisfied (p : LdpcPar) (layers : Nat) (h : List Bool) : Nat :=
  ((List.range layers).flatMap fun row => (List.range p.z).filter fun i =>
    decide (((checkEdges p row i).filter fun x => h.getD x.1 false).length % 2 = 1)).length

/-- What decoding one block gives (R287). -/
structure BlockOut where
  hard : List Bool
  info : List Bool
  crcOk : Bool
  unsat : Nat
  iter : Nat
  early : Bool
  deriving DecidableEq, Repr

/-- The outcome after an iteration. -/
def blockOut (p : LdpcPar) (layers iter : Nat) (s : LdpcSt) : BlockOut :=
  let h := hardBits s
  let info := h.take p.kPrime
  { hard := h, info, crcOk := p.crcCb && decide (crc24b info = 0), unsat := unsatisfied p layers h, iter
    early := decide (iter < p.iMax) }

/-- The early-termination condition (R286 ET). -/
def etHolds (p : LdpcPar) (o : BlockOut) : Bool :=
  match p.et with
  | 0 => false
  | 1 => decide (o.unsat = 0)
  | 2 => o.crcOk
  | _ => decide (o.unsat = 0) && o.crcOk

/-- Iterations up to a number more. -/
def ldpcRun (p : LdpcPar) (layers : Nat) : Nat → Nat → LdpcSt → BlockOut
  | 0, iter, s => blockOut p layers iter s
  | n + 1, iter, s =>
    let t := ldpcIterate p layers s
    let o := blockOut p layers (iter + 1) t
    if etHolds p o || decide (n = 0) then o else ldpcRun p layers n (iter + 1) t

/-- Decode one block from its circular buffer (R286). -/
def decodeBlock (p : LdpcPar) (extent : Nat) (buf : List Int) : BlockOut :=
  let app := List.replicate (2 * p.z) (0 : Int) ++ buf ++ List.replicate (p.full - p.ncb) 0
  ldpcRun p (p.layers extent) p.iMax 0 { app, msgs := [] }

/-- The 8-byte result word of a block (R287). -/
def blockWord (o : BlockOut) : List Byte :=
  leBytes 8 (b2n o.crcOk + 2 * b2n (decide (o.unsat = 0)) + 4 * b2n o.early + o.iter * 2 ^ 8 + o.unsat * 2 ^ 32)

/-! ## The entries -/

/-- Header of the soft buffer (R288). -/
def harqHeader (p : LdpcPar) (extent : Nat) : List Byte :=
  let v := 1 + 2 * b2n p.bg2 + p.z * 2 ^ 16 + p.ncb * 2 ^ 32 + p.c * 2 ^ 48 + p.kPrime * 2 ^ 64 + extent * 2 ^ 80
  leBytes 64 v

/-- Byte offset of the first field of an entry that differs from a soft buffer's header (R288). -/
def harqDiffers (p : LdpcPar) (h : Nat) : Option Nat :=
  if tbit h 1 != p.bg2 then some (blockByte 511)
  else if bits h 31 16 ≠ p.z then some (blockByte 495)
  else if bits h 79 64 ≠ p.kPrime then some (blockByte 479)
  else if bits h 47 32 ≠ p.ncb then some (blockByte 463)
  else if bits h 55 48 ≠ p.c then some (blockByte 447)
  else none

/-- The error an engine reports for a failed read (R297). -/
def readError (e : MErr) (a : Nat) : EngResult :=
  .error (match e with | .poison => 0x10 | .uncorrectable => 0x11 | _ => 0x12) 0 a

/-- Read the input of an entry; a version with no buffer reads its virtual bytes (R37, R382, R387). -/
def readInput (s : State) (e : Entry) : State × Rd :=
  match e.inVirt with
  | some b => (s, .ok (slice b 0 e.inLen))
  | none => devRead s 5 e.inAddr e.inLen

/-- The old soft values: VALID, EXTENT and the regions (R288). -/
def oldSoft (p : LdpcPar) (b : List Byte) : Bool × Nat × List (List Int) :=
  let h := leNat (b.take 64)
  (tbit h 0, bits h 111 80,
    (List.range p.c).map fun n => (slice b (64 + n * p.region) p.ncb).map fun x => llrOf x)

/-- The decoder's check: the syndrome of the final hard decisions, taken again, agrees with SYNDROME_OK (R296). -/
def recheck (p : LdpcPar) (extent : Nat) (o : BlockOut) : Bool :=
  decide (unsatisfied p (p.layers extent) o.hard = 0) == decide (o.unsat = 0)

/-- The output of a decode from its input and the old soft values. -/
def decodeOut (p : LdpcPar) (input : List Byte) (oldExtent : Nat) (old : List (List Int)) (keep : Bool) : EngResult :=
  let llr := input.map llrOf
  let bufs := (List.range p.c).map fun b => circular p ((llr.drop (p.eBefore b)).take (p.e b)) (old.getD b [])
  let extent := (List.range p.c).foldl (fun m b => max m (p.extent (p.e b))) oldExtent
  let outs := bufs.map (decodeBlock p extent)
  let data := packBits (outs.flatMap fun o => o.info.take p.payload)
  let harq := if keep then harqHeader p extent ++ bufs.flatMap fun l => padTo 64 (l.map fun v => BitVec.ofInt 8 v) else []
  if outs.all (recheck p extent) then .done (padTo 64 data ++ outs.flatMap blockWord) harq p.c else .error errCheck 0 0

/-- An LDPC decode entry (R286 to R288). -/
def runDecode (s : State) (e : Entry) : EngOut :=
  let p := ldpcPar e.block.toNat
  match firstFail (decodeChecks e) with
  | some (off, code) => (s, .error code off 0)
  | none =>
    let soft : State × Rd := if p.combine && decide (e.harqIn ≠ 0) then devRead s 5 e.harqIn p.harqLen else (s, .ok [])
    match soft with
    | (s, .err er a) => (s, readError er a)
    | (s, .ok b) =>
      let (valid, ext, old) := oldSoft p b
      match (if valid then harqDiffers p (leNat (b.take 64)) else none) with
      | some off => (s, .error errHarq off 0)
      | none =>
        match readInput s e with
        | (s, .err er a) => (s, readError er a)
        | (s, .ok input) =>
          (s, decodeOut p input (if valid then ext else 0) (if valid then old else []) (decide (e.harqOut ≠ 0)))

/-- One parity check over GF(2), as an equation in the parity bits: bit n is the coefficient of parity bit n, and the bit
above them all is the sum of the information bits in the check. -/
def parityEquation (p : LdpcPar) (info : List Bool) (row i : Nat) : Nat :=
  (checkEdges p row i).foldl (fun (m : Nat) x =>
    if x.1 < p.k then (if info.getD x.1 false then Nat.xor m (2 ^ (p.rows * p.z)) else m)
    else Nat.xor m (2 ^ (x.1 - p.k))) 0

/-- One unknown eliminated from equations over GF(2): those still without a pivot, and those solved for theirs. -/
def eliminate (st : List Nat × List (Nat × Nat)) (k : Nat) : List Nat × List (Nat × Nat) :=
  match st.1.find? (tbit · k) with
  | none => st
  | some r =>
    let clear (x : Nat) : Nat := if tbit x k then Nat.xor x r else x
    ((st.1.erase r).map clear, (k, r) :: st.2.map fun y => (y.1, clear y.2))

/-- The parity bits that satisfy every check of the base graph for the information bits of a block, filler bits being
zero (R289, R296). -/
def ldpcParity (p : LdpcPar) (info : List Bool) : List Bool :=
  let n := p.rows * p.z
  let eqs := (List.range p.rows).flatMap fun row => (List.range p.z).map (parityEquation p info row)
  let solved := ((List.range n).foldl eliminate (eqs, [])).2
  (List.range n).map fun k => ((solved.find? fun y => decide (y.1 = k)).map fun y => tbit y.2 n).getD false

/-- Codeword of a block: information and filler, then parity (R289). -/
def ldpcCodeword (p : LdpcPar) (payload : List Bool) : List Bool :=
  let info := payload ++ (if p.crcCb then numBits 24 (crc24b payload) else []) ++ List.replicate (p.k - p.kPrime) false
  info ++ ldpcParity p info

/-- One encoded block without its two punctured columns: rate matched and bit interleaved (R289). -/
def encodeBlock (p : LdpcPar) (e : Nat) (word : List Bool) : List Bool :=
  let d := word.drop (2 * p.z)
  let turn := p.turn
  (List.range e).map fun f => d.getD (turn.getD (interleaved p.qm e f % turn.length) 0) false

/-- An LDPC encode entry: its codewords must give a zero syndrome before they are rate matched (R289, R296). -/
def runEncode (s : State) (e : Entry) : EngOut :=
  let p := ldpcPar e.block.toNat
  match firstFail (encodeChecks e) with
  | some (off, code) => (s, .error code off 0)
  | none =>
    match readInput s e with
    | (s, .err er a) => (s, readError er a)
    | (s, .ok input) =>
      let l := bitsOf input
      let words := (List.range p.c).map fun b => ldpcCodeword p ((l.drop (b * p.payload)).take p.payload)
      let out := words.zipIdx.flatMap fun w => encodeBlock p (p.e w.2) w.1
      (s, if words.all fun w => decide (unsatisfied p p.rows w = 0) then .done (padTo 64 (packBits out)) [] 0
        else .error errCheck 0 0)

end Sys2Proof.Machine
end

