-- ==== Sys2Proof/Machine/Polar.lean ====
section
/-!
DEFINITION. Polar coding: the checks of an entry, the code of TS 38.212, the encoder with its check, and the list decoder
with its own (R290, R296). The reliability order and the interleaving pattern that TS 38.212 tabulates, and the arithmetic of
soft values and metrics, which this spec does not state, are opaque (Config.polarReliability, polarSum, polarMetric and so on).
-/
namespace Sys2Proof.Machine

/-! ## The entry (R290) -/

/-- CRC length of a CRC_SEL value, and its polynomial in TS 38.212 (R290). -/
def polarCrc (sel : Nat) : Nat × Nat :=
  match sel with
  | 0 => (6, 0x21) | 1 => (11, 0x621) | _ => (24, 0xB2B117)

/-- K: payload bits with their CRC (R290). -/
def polarK (b : Nat) : Nat := bits b 503 494 + (polarCrc (bits b 511 510)).1

/-- The checks of a polar entry (R290). -/
def polarChecks (e : Entry) (encode : Bool) : List Check :=
  let b := e.block.toNat
  let a := bits b 503 494
  let n := bits b 493 480
  let sel := bits b 511 510
  let data (k : Nat) : Nat := padLen 64 ((k + 7) / 8)
  sizeChecks e (if encode then ((a + 7) / 8 : Nat) else n) (if encode then data n else data a + 8) ++
    [ (blockByte 511, errParam, decide (sel = 3)),
      (blockByte 509, errParam, tbit b 509 && (decide (sel ≠ 2) || decide (164 < polarK b))),
      (blockByte 506, errParam, encode && reservedSet b 506 505),
      (blockByte 504, errParam, tbit b 504),
      (blockByte 503, errParam, decide (a = 0) || decide (1013 < a) || decide (min n 1023 < polarK b)),
      (blockByte 493, errParam, decide (n = 0) || decide (8192 < n)),
      (blockByte 479, errParam, reservedSet b 479 464 && decide (sel ≠ 2)),
      (blockByte 462, errParam, reservedSet b 462 0) ]

/-- Least n with 2^n at least x. -/
def ceilLog2 (x : Nat) : Nat := if x ≤ 1 then 0 else Nat.log2 (x - 1) + 1

/-- log₂ N (R290; TS 38.212 clause 5.3.1, PRESUMED). -/
def polarLogN (b : Nat) : Nat :=
  let e := bits b 493 480
  let k := polarK b
  let l := ceilLog2 e
  let n1 := if 8 * e ≤ 9 * 2 ^ (l - 1) ∧ 16 * k < 9 * e then l - 1 else l
  max 5 (min (min n1 (ceilLog2 (8 * k))) (if tbit b 507 then 10 else 9))

/-- Model cost of a polar entry (R293). -/
def polarCost (b : Nat) (encode : Bool) : Nat :=
  let n := 2 ^ polarLogN b
  128 + (if encode then 32 + n / 32 + (bits b 493 480 + 63) / 64 else 64 + n / 2 * (1 + bits b 506 505))

/-- The CRC bits of a payload: over 24 ones and the payload when ONES is set, with the RNTI on the last 16 (R290). -/
def polarCrcBits (b : Nat) (payload : List Bool) : List Bool :=
  let (len, poly) := polarCrc (bits b 511 510)
  let l := (if tbit b 463 then List.replicate 24 true else []) ++ payload
  numBits len (Nat.xor (crcBits len poly l) (bits b 479 464 % 2 ^ len))

/-! ### The code (TS 38.212 clauses 5.3.1 and 5.4.1, PRESUMED, assumption 34; its tables are opaque) -/

/-- The fields of a polar entry that the code depends on: N, E and K, CRC_SEL, IIL and CHIL. -/
structure PolarPar where
  n : Nat
  e : Nat
  k : Nat
  pc : Nat
  iil : Bool
  chil : Bool
  deriving DecidableEq, Repr

/-- They as the block holds them; CRC6 comes with three parity-check bits. -/
def polarPar (b : Nat) : PolarPar :=
  { n := 2 ^ polarLogN b, e := bits b 493 480, k := polarK b, pc := if bits b 511 510 = 0 then 3 else 0
    iil := tbit b 509, chil := tbit b 508 }

/-- Sub-block interleaver of 32 blocks. -/
def subBlocks : List Nat :=
  [0, 1, 2, 4, 3, 5, 6, 7, 8, 16, 9, 17, 10, 18, 11, 19, 12, 20, 13, 21, 14, 22, 15, 23, 24, 25, 26, 28, 27, 29, 30, 31]

/-- Place in the codeword of bit i after sub-block interleaving. -/
def PolarPar.place (p : PolarPar) (i : Nat) : Nat := nth0 subBlocks (32 * i / p.n) * (p.n / 32) + i % (p.n / 32)

/-- Rate matching punctures, rather than shortens, a code longer than E. -/
def PolarPar.punctures (p : PolarPar) : Bool := decide (16 * p.k ≤ 7 * p.e)

/-- Places that rate matching freezes. -/
def PolarPar.barred (p : PolarPar) : List Nat :=
  if p.n ≤ p.e then []
  else if p.punctures then
    (List.range (p.n - p.e)).map p.place ++
      List.range (if 3 * p.n ≤ 4 * p.e then (3 * p.n - 2 * p.e + 3) / 4 else (9 * p.n - 4 * p.e + 15) / 16)
  else (List.range (p.n - p.e)).map fun i => p.place (p.e + i)

/-- Places that carry bits, the least reliable first. -/
def PolarPar.carrying (p : PolarPar) : List Nat :=
  let barred := p.barred
  let l := ((List.range 1024).map Config.polarReliability).filter fun q => decide (q < p.n) && !barred.contains q
  l.drop (l.length - (p.k + p.pc))

/-- Ones in the binary form of a place: the weight of its row of the generator is 2 to that power. -/
def onesOf (j : Nat) : Nat := ((List.range 10).filter fun i => tbit j i).length

/-- Places of the parity-check bits: the least reliable, one of them of least row weight when E is long. -/
def PolarPar.checks (p : PolarPar) : List Nat :=
  let l := p.carrying
  let wm := if p.pc ≠ 0 ∧ 192 + p.k < p.e + 3 then 1 else 0
  let light := (l.drop p.pc).foldl (fun (b : Option Nat) q =>
    match b with
    | none => some q
    | some x => if onesOf q ≤ onesOf x then some q else b) none
  l.take (p.pc - wm) ++ (if wm = 1 then light.toList else [])

/-- Order in which input interleaving takes the K bits. -/
def PolarPar.order (p : PolarPar) : List Nat :=
  if p.iil then
    (List.range 164).filterMap fun m =>
      let q := Config.polarIil m
      if 164 - p.k ≤ q then some (q - (164 - p.k)) else none
  else List.range p.k

/-- The bits before the transform: those of the input in place order, parity-check bits by the shift register of five,
and zeros. -/
def PolarPar.spread (p : PolarPar) (c : List Bool) : List Bool :=
  let carrying := p.carrying
  let checks := p.checks
  ((List.range p.n).foldl (fun (st : List Bool × List Bool × List Bool) i =>
    let y := st.1.rotateLeft 1
    if !carrying.contains i then (y, st.2.1, st.2.2 ++ [false])
    else if checks.contains i then (y, st.2.1, st.2.2 ++ [y.getD 0 false])
    else
      let b := st.2.1.headD false
      (y.set 0 (y.getD 0 false != b), st.2.1.drop 1, st.2.2 ++ [b])) ([false, false, false, false, false], c, [])).2.2

/-- The transform: bit j is the sum of the bits whose places contain every one of j. -/
def polarTransform (u : List Bool) : List Bool :=
  (List.range u.length).map fun j =>
    u.zipIdx.foldl (fun (b : Bool) x => b != (x.1 && decide (Nat.land x.2 j = j))) false

/-- Order in which channel interleaving sends E bits: written by rows of a triangle and read by columns. -/
def PolarPar.sent (p : PolarPar) : List Nat :=
  if p.chil then
    let t := ((List.range 130).find? fun t => decide (p.e ≤ t * (t + 1) / 2)).getD 0
    (List.range t).flatMap fun j => (List.range (t - j)).filterMap fun i =>
      let k := i * t - i * (i - 1) / 2 + j
      if k < p.e then some k else none
  else List.range p.e

/-- Index after sub-block interleaving of rate-matched bit k: repeated, punctured or shortened. -/
def PolarPar.selected (p : PolarPar) (k : Nat) : Nat :=
  if p.n ≤ p.e then k % p.n else if p.punctures then k + p.n - p.e else k

/-- The transform by halves, as the decoder and the second encoder compute it (R296). -/
def polarHalves : Nat → List Bool → List Bool
  | 0, u => u
  | n + 1, u =>
    let a := polarHalves n (u.take (2 ^ n))
    let b := polarHalves n (u.drop (2 ^ n))
    ((a.zip b).map fun x => x.1 != x.2) ++ b

/-- The codeword that carries the K bits c. -/
def PolarPar.codeword (p : PolarPar) (c : List Bool) : List Bool :=
  polarTransform (p.spread (p.order.map fun i => c.getD i false))

/-- The codeword as the second encoder computes it (R296). -/
def PolarPar.second (p : PolarPar) (c : List Bool) : List Bool :=
  polarHalves (Nat.log2 p.n) (p.spread (p.order.map fun i => c.getD i false))

/-- The E bits of a codeword that carries the K bits c. -/
def PolarPar.encode (p : PolarPar) (c : List Bool) : List Bool :=
  let d := p.codeword c
  p.sent.map fun k => d.getD (p.place (p.selected k)) false

/-- The N soft values of a codeword from its E LLRs: repeats are added, punctured places are 0 and shortened ones certain
(R284). -/
def PolarPar.soft (p : PolarPar) (llr : List Int) : List Int :=
  let sent := p.sent
  let e := (List.range p.e).map fun k => llr.getD (sent.idxOf k) 0
  let y := (List.range p.n).map fun i =>
    if p.n ≤ p.e then wrapSum e p.n i
    else if p.punctures then (if i < p.n - p.e then 0 else e.getD (i + p.e - p.n) 0)
    else e.getD i 127
  let places := (List.range p.n).map p.place
  (List.range p.n).map fun j => y.getD (places.idxOf j) 0

/-! ### The list decoder (R290) -/

/-- The soft value of the next bit of a code of 2^n soft values, after the bits taken so far: successive cancellation. The two
operations on soft values are free (assumption 34). -/
def polarNext : Nat → List Int → List Bool → Int
  | 0, soft, _ => soft.headD 0
  | n + 1, soft, u =>
    let h := 2 ^ n
    let pairs := (soft.take h).zip (soft.drop h)
    if u.length < h then polarNext n (pairs.map fun x => Config.polarSum x.1 x.2) u
    else
      let sums := polarHalves n (u.take h)
      polarNext n ((pairs.zip sums).map fun x => Config.polarSecond x.1.1 x.1.2 x.2) (u.drop h)

/-- A path of the list decoder: the bits before the transform so far, its metric, and the register of the parity-check bits. -/
structure PolarPath where
  u : List Bool
  metric : BitVec 32
  reg : List Bool
  deriving DecidableEq, Repr

/-- A path stands before another: the better metric is the least; the order of equal ones is free (assumption 34). -/
def PolarPath.before (a b : PolarPath) : Bool :=
  decide (a.metric < b.metric) || (decide (a.metric = b.metric) && decide (Config.polarTie a.u < Config.polarTie b.u))

/-- A path put in its place among some in order. -/
def putPath (x : PolarPath) : List PolarPath → List PolarPath
  | [] => [x]
  | y :: r => if x.before y then x :: y :: r else y :: putPath x r

/-- A path goes on with a bit whose soft value is known. -/
def PolarPath.take (x : PolarPath) (soft : Int) (bit : Bool) (reg : List Bool) : PolarPath :=
  { u := x.u ++ [bit], metric := Config.polarMetric x.metric soft bit, reg }

/-- The ways in which a path goes on at place i: one for a frozen bit, which is 0, and for a parity-check bit, and two for
a bit of information. -/
def polarExtend (n : Nat) (soft : List Int) (carrying checks : List Nat) (i : Nat) (x : PolarPath) : List PolarPath :=
  let l := polarNext n soft x.u
  let y := x.reg.rotateLeft 1
  if !carrying.contains i then [x.take l false y]
  else if checks.contains i then [x.take l (y.getD 0 false) y]
  else [false, true].map fun b => x.take l b (y.set 0 (y.getD 0 false != b))

/-- The paths left after every place, of which each place keeps as many as the list holds (R290). -/
def PolarPar.paths (p : PolarPar) (soft : List Int) (size : Nat) : List PolarPath :=
  let carrying := p.carrying
  let checks := p.checks
  let n := Nat.log2 p.n
  (List.range p.n).foldl (fun (l : List PolarPath) i =>
      ((l.flatMap (polarExtend n soft carrying checks i)).foldl (fun (l : List PolarPath) x => putPath x l) []).take size)
    [{ u := [], metric := 0, reg := [false, false, false, false, false] }]

/-- The K bits that a path carries. -/
def PolarPar.carried (p : PolarPar) (u : List Bool) : List Bool :=
  let checks := p.checks
  let carrying := p.carrying
  let l := ((List.range p.n).filter fun i => carrying.contains i && !checks.contains i).map fun i => u.getD i false
  let order := p.order
  (List.range p.k).map fun k => l.getD (order.idxOf k) false

/-! ### The entries -/

/-- A polar encode entry (R290). -/
def runPolarEncode (s : State) (e : Entry) : EngOut :=
  let b := e.block.toNat
  match firstFail (polarChecks e true) with
  | some (off, code) => (s, .error code off 0)
  | none =>
    match readInput s e with
    | (s, .err er a) => (s, readError er a)
    | (s, .ok input) =>
      let payload := (bitsOf input).take (bits b 503 494)
      let p := polarPar b
      let c := payload ++ polarCrcBits b payload
      (s, if p.second c = p.codeword c then .done (padTo 64 (packBits (p.encode c))) [] 0 else .error errCheck 0 0)

/-- A path passes the CRC of its entry. -/
def pathPasses (b : Nat) (c : List Bool) : Bool :=
  decide (c.drop (bits b 503 494) = polarCrcBits b (c.take (bits b 503 494)))

/-- A polar decode entry: the best path that passes the CRC, or the best of all where none passes, and its result word
(R290). The path is encoded again and must give the hard decisions that the decoder holds for it (R296). -/
def runPolarDecode (s : State) (e : Entry) : EngOut :=
  let b := e.block.toNat
  match firstFail (polarChecks e false) with
  | some (off, code) => (s, .error code off 0)
  | none =>
    match readInput s e with
    | (s, .err er a) => (s, readError er a)
    | (s, .ok input) =>
      let p := polarPar b
      let soft := p.soft (input.map llrOf)
      let size := 2 ^ bits b 506 505
      let paths := p.paths soft size
      let good := paths.findIdx? fun x => pathPasses b (p.carried x.u)
      match paths[good.getD 0]? with
      | none => (s, .error errCheck 0 0)
      | some x =>
        let word := b2n good.isSome + Config.polarIndex (paths.map (·.u)) (good.getD 0) % size * 2 ^ 8 + x.metric.toNat * 2 ^ 32
        (s, if polarHalves (Nat.log2 p.n) x.u = polarTransform x.u then
              .done (padTo 64 (packBits ((p.carried x.u).take (bits b 503 494))) ++ leBytes 8 word) [] 1
            else .error errCheck 0 0)

end Sys2Proof.Machine
end

