-- ==== Sys2Proof/Machine/Trig.lean ====
section
/-!
DEFINITION. Sines and cosines in fixed point, for the twiddle factors, the carrier and the mask check (R292, R304, R321).
-/
namespace Sys2Proof.Machine

/-- One in the fixed point of this file. -/
def trigOne : Int := 2 ^ 64

/-- 2π in that fixed point. -/
def trigTwoPi : Int := 115904311329233965478

/-- Cosine of an angle from 0 to π/2 in fixed point, by 18 terms of its series. -/
def cosSeries (a : Int) : Int :=
  let sq := a * a / trigOne
  ((List.range 18).foldl (fun (t : Int × Int) k =>
    (t.1 + t.2, -(t.2 * sq / trigOne) / ((2 * k + 1) * (2 * k + 2) : Nat))) ((0 : Int), trigOne)).1

/-- Cosine of num ÷ den turns in fixed point. -/
def cosTurns (num den : Int) : Int :=
  let f := num % den
  let h := if den < 2 * f then den - f else f
  if den < 4 * h then -cosSeries (trigTwoPi * (den - 2 * h) / (2 * den)) else cosSeries (trigTwoPi * h / den)

/-- Sine of num ÷ den turns in fixed point. -/
def sinTurns (num den : Int) : Int := cosTurns (4 * num - den) (4 * den)

/-- A fixed-point value rounded to nearest at f fraction bits. -/
def trigRound (f : Nat) (v : Int) : Int := (2 * v * 2 ^ f + trigOne) / (2 * trigOne)

end Sys2Proof.Machine
end

