-- ==== Sys2Proof/Machine/Fft.lean ====
section
/-!
DEFINITION. FFT and iFFT: the checks of an entry, the sample formats, the transform and its narrowing (R291, R292, R296).
The place of the binary point of a twiddle factor and the order in which the engine takes the factors of N are opaque
(Config.twiddleFrac, Config.fftRadices).
-/
namespace Sys2Proof.Machine

/-! ## The entry and its formats (R291, R292) -/

/-- Mantissa bits of a format: 0 for c16 (R291). -/
def fmtBits (f : Nat) : Nat := match f with | 1 => 8 | 2 => 9 | 3 => 12 | 4 => 16 | _ => 0

/-- Bytes of a number of samples in a format (R292). -/
def fmtBytes (f n : Nat) : Nat := if f = 0 then 4 * n else n / 12 * (1 + 3 * fmtBits f)

/-- n without its factors of a prime, taken out at most k times. -/
def strip (q : Nat) : Nat → Nat → Nat
  | 0, n => n
  | k + 1, n => if n % q = 0 then strip q k (n / q) else n

/-- A transform size 2^a × 3^b × 5^c from 12 to 8,192 (R291). -/
def fftSize (n : Nat) : Bool := decide (12 ≤ n) && decide (n ≤ 8192) && decide (strip 5 6 (strip 3 9 (strip 2 14 n)) = 1)

/-- The fields of an FFT parameter block (R291). -/
structure FftPar where
  n : Nat
  inFmt : Nat
  outFmt : Nat
  shift : Bool
  half : Bool
  phaseEn : Bool
  ncp : Nat
  t : Nat
  m : Nat
  bin0 : Nat
  deriving DecidableEq, Repr

/-- The fields as the block holds them. -/
def fftPar (b : Nat) : FftPar :=
  { n := bits b 511 498, inFmt := bits b 497 495, outFmt := bits b 494 492, shift := tbit b 491, half := tbit b 490
    phaseEn := tbit b 489, ncp := bits b 487 472, t := bits b 471 464, m := bits b 463 448, bin0 := bits b 447 432 }

/-- Samples per transform on the input side and on the output side (R291). -/
def FftPar.inCount (p : FftPar) (inverse : Bool) : Nat := if inverse then p.m else p.ncp + p.n
/-- Samples or bins written per transform. -/
def FftPar.outCount (p : FftPar) (inverse : Bool) : Nat := if inverse then p.ncp + p.n else p.m

/-- Bytes of an entry's output: data padded, and a result word of 4 bytes per transform (R292). -/
def FftPar.outLen (p : FftPar) (inverse : Bool) : Nat := padLen 64 (p.t * fmtBytes p.outFmt (p.outCount inverse)) + 4 * p.t

/-- The checks of an FFT or iFFT entry (R291). -/
def fftChecks (e : Entry) (inverse : Bool) : List Check :=
  let b := e.block.toNat
  let p := fftPar b
  sizeChecks e (p.t * fmtBytes p.inFmt (p.inCount inverse) : Nat) (p.outLen inverse) ++
    [ (blockByte 511, errParam, !fftSize p.n),
      (blockByte 497, errParam, decide (4 < p.inFmt) || (decide (p.inFmt ≠ 0) && decide (p.inCount inverse % 12 ≠ 0))),
      (blockByte 494, errParam, decide (4 < p.outFmt) || (decide (p.outFmt ≠ 0) && decide (p.outCount inverse % 12 ≠ 0))),
      (blockByte 491, errParam, p.shift && decide (p.n % 2 ≠ 0)),
      (blockByte 488, errParam, tbit b 488),
      (blockByte 487, errParam, decide (p.n < p.ncp)),
      (blockByte 471, errParam, decide (p.t = 0)),
      (blockByte 463, errParam, decide (p.m = 0) || decide (p.n < p.m)),
      (blockByte 447, errParam, decide (p.n ≤ p.bin0)),
      (blockByte 399, errParam, reservedSet b 399 0) ]

/-- Model cost of an FFT or iFFT entry (R293). -/
def fftCost (b : Nat) : Nat :=
  let p := fftPar b
  let unit := if strip 2 14 p.n = 1 then 8 else 6
  128 + p.t * (16 + (p.ncp + p.n + unit - 1) / unit)

/-- Frequency index of bin i of those used (R291). -/
def FftPar.bin (p : FftPar) (i : Nat) : Nat :=
  let b := (p.bin0 + i) % p.n
  if p.shift then (b + p.n - p.n / 2) % p.n else b

/-- A c16 sample: the real part at the lower address, little-endian (R228). -/
def c16At (b : List Byte) (i : Nat) : Int × Int :=
  (sgn 16 (leNat (slice b (4 * i) 2)), sgn 16 (leNat (slice b (4 * i + 2) 2)))

/-- A sample of BFP groups with mantissas of m bits (R292). -/
def bfpOf (m : Nat) (b : List Byte) (i : Nat) : Int × Int :=
  let g := slice b (i / 12 * (1 + 3 * m)) (1 + 3 * m)
  let e := leNat (g.take 1) % 16
  let l := bitsOf (g.drop 1)
  let part (k : Nat) : Int := sgn m (bitsNum ((l.drop (k * m)).take m)) * 2 ^ e
  (part (2 * (i % 12)), part (2 * (i % 12) + 1))

/-- The samples of one transform in a format. -/
def unpackFmt (f : Nat) (b : List Byte) (n : Nat) : List (Int × Int) :=
  (List.range n).map fun i => if f = 0 then c16At b i else bfpOf (fmtBits f) b i

/-! ### The transform (R291, R292) -/

/-- Product of complex values whose second factor has f fraction bits: each product of parts is truncated (R211, R292). -/
def cmul (f : Nat) (a b : Int × Int) : Int × Int :=
  (a.1 * b.1 / 2 ^ f - a.2 * b.2 / 2 ^ f, a.1 * b.2 / 2 ^ f + a.2 * b.1 / 2 ^ f)

/-- A value rounded to nearest at a number of fraction bits, of those that 18 bits hold. -/
def round18 (f : Nat) (v : Int) : Int := max (-(2 ^ 17)) (min (2 ^ 17 - 1) (trigRound f v))

/-- e^(−j2πm/n) in 18 bits rounded to nearest for the FFT, e^(j2πm/n) for the iFFT; the place of the binary point is free
(R292, assumption 34). -/
def twiddle (inverse : Bool) (n m : Nat) : Int × Int :=
  let turns : Int := if inverse then m else -(m : Int)
  (round18 Config.twiddleFrac (cosTurns turns n), round18 Config.twiddleFrac (sinTurns turns n))

/-- Product of complex values whose second factor is a twiddle factor. -/
def turned (a w : Int × Int) : Int × Int := cmul Config.twiddleFrac a w

/-- A part as 24 bits hold it: the spec states no result for one that they cannot hold (R292, assumption 34). -/
def hold24 (v : Int) : Int := if -(2 ^ 23) ≤ v ∧ v < 2 ^ 23 then v else (Config.fftOver v).toInt

/-- One stage of radix r of a transform of n samples, of which stages of product l are done: element k × l + j is bin j of
the transform of every n/l-th sample from k. -/
def fftStage (inverse : Bool) (n l r : Nat) (y : List (Int × Int)) : List (Int × Int) :=
  (List.range n).map fun i =>
    let k := i / (l * r)
    let j := i % (l * r)
    (List.range r).foldl (fun (v : Int × Int) q =>
      let w := twiddle inverse (l * r) (q * j)
      let x := turned (y.getD ((k + q * (n / (l * r))) * l + j % l) (0, 0)) w
      (v.1 + x.1, v.2 + x.2)) (0, 0)

/-- Every part shifted right by one where a stage left one beyond ±2^22, and the running shift (R292). -/
def fftScale (y : List (Int × Int)) (run : Nat) : List (Int × Int) × Nat :=
  let big (v : Int) : Bool := decide (v < -(2 ^ 22)) || decide (2 ^ 22 < v)
  if y.any fun x => big x.1 || big x.2 then (y.map fun x => (hold24 (x.1 / 2), hold24 (x.2 / 2)), run + 1)
  else (y, run)

/-- Both parts as 24 bits hold them. -/
def hold24s (x : Int × Int) : Int × Int := (hold24 x.1, hold24 x.2)

/-- How often a prime divides a number, counted at most k times. -/
def factorsOf (q : Nat) : Nat → Nat → List Nat
  | 0, _ => []
  | k + 1, n => if n % q = 0 then q :: factorsOf q k (n / q) else []

/-- The radices of the stages: any that multiply to n; the engine's own choice is free (R291, R292, assumption 34). -/
def radices (n : Nat) : List Nat :=
  let l := Config.fftRadices n
  if l.foldl (· * ·) 1 = n then l else factorsOf 2 13 n ++ factorsOf 3 8 n ++ factorsOf 5 5 n

/-- The stages in the order in which the engine takes the factors of N (assumption 34). -/
def fftStages (inverse : Bool) (n : Nat) : List Nat → Nat → List (Int × Int) → Nat → List (Int × Int) × Nat
  | [], _, y, run => (y, run)
  | r :: rs, l, y, run =>
    let z := fftScale (fftStage inverse n l r y) run
    fftStages inverse n rs (l * r) z.1 z.2

/-- PHASE of a block as a c16 factor (R291). -/
def phaseOf (b : Nat) : Int × Int := (sgn 16 (bits b 415 400), sgn 16 (bits b 431 416))

/-- PHASE applied where PHASE_EN asks for it. -/
def FftPar.phased (p : FftPar) (b : Nat) (x : Int × Int) : Int × Int := if p.phaseEn then cmul 15 x (phaseOf b) else x

/-- What one transform transforms: the time samples without their prefix and, with HALF_SC, turned half a subcarrier; or
all N bins, those used in their places with PHASE applied and the others zero (R291). -/
def fftInput (p : FftPar) (b : Nat) (inverse : Bool) (x : List (Int × Int)) : List (Int × Int) :=
  if inverse then
    let placed := (List.range p.m).map fun i => (p.bin i, p.phased b (x.getD i (0, 0)))
    (List.range p.n).map fun k => ((placed.find? fun y => decide (y.1 = k)).map (·.2)).getD (0, 0)
  else (List.range p.n).map fun n =>
    let v := x.getD (p.ncp + n) (0, 0)
    if p.half then turned v (twiddle false (2 * p.n) n) else v

/-- One transform: X[k] = Σ x[n] e^(∓j2πkn/N) at the engine's scale, and its running shift (R291, R292). -/
def fftRun (p : FftPar) (inverse : Bool) (y : List (Int × Int)) : List (Int × Int) × Nat :=
  fftStages inverse p.n (radices p.n) 1 y 0

/-- The bins used, with PHASE applied, or the time samples from −NCP on, turned half a subcarrier with HALF_SC (R291). -/
def fftOutput (p : FftPar) (b : Nat) (inverse : Bool) (y : List (Int × Int)) : List (Int × Int) :=
  if inverse then
    (List.range (p.ncp + p.n)).map fun i =>
      let v := y.getD ((i + p.n - p.ncp) % p.n) (0, 0)
      if p.half then turned v (twiddle true (2 * p.n) (i + 2 * p.n - p.ncp)) else v
  else (List.range p.m).map fun i => p.phased b (y.getD (p.bin i) (0, 0))

/-- Σ over samples of the squared magnitude. -/
def energy (l : List (Int × Int)) : Int := l.foldl (fun v x => v + x.1 * x.1 + x.2 * x.2) 0

/-- The check of a transform: Σ|X|² matches N × Σ|x|² within 2⁻¹⁰ of the larger (R296). -/
def fftMatches (n run : Nat) (x y : List (Int × Int)) : Bool :=
  let a := energy y * 4 ^ run
  let b := n * energy x
  decide (1024 * (a - b).natAbs ≤ (max a b).natAbs)

/-- Least shift, of at most n, at which every part fits m bits. -/
def leastShift (m : Nat) (parts : List Int) : Nat → Nat → Nat
  | 0, d => d
  | n + 1, d =>
    if parts.all fun v => decide (-(2 ^ (m - 1) : Int) ≤ v / 2 ^ d) && decide (v / 2 ^ d < 2 ^ (m - 1)) then d
    else leastShift m parts n (d + 1)

/-- One transform narrowed to c16: bytes, result word (R292). -/
def narrowC16 (parts : List Int) (run : Nat) : List Byte × Nat :=
  let d := leastShift 16 parts 9 0
  (parts.flatMap fun v => leBytes 2 (unsgn 16 (v / 2 ^ d)), (run + d) % 256)

/-- One group narrowed to BFP mantissas of m bits: its bytes and whether it clipped (R292). -/
def narrowGroup (m run : Nat) (parts : List Int) : List Byte × Bool :=
  let e := run + leastShift m parts 24 0
  if e ≤ 15 then
    (BitVec.ofNat 8 e :: packBits (parts.flatMap fun v => numBits m (unsgn m (v / 2 ^ (e - run)))), false)
  else
    let clip (v : Int) : Int := max (-(2 ^ (m - 1) : Int)) (min (2 ^ (m - 1) - 1) v)
    let scaled (v : Int) : Int := if run ≤ 15 then v / 2 ^ (15 - run) else v * 2 ^ (run - 15)
    (BitVec.ofNat 8 15 :: packBits (parts.flatMap fun v => numBits m (unsgn m (clip (scaled v)))), true)

/-- One transform narrowed to BFP: bytes, result word with SAT (R292). -/
def narrowBfp (m : Nat) (parts : List Int) (run : Nat) : List Byte × Nat :=
  let gs := (List.range (parts.length / 24)).map fun g => narrowGroup m run ((parts.drop (24 * g)).take 24)
  (gs.flatMap (·.1), if gs.any (·.2) then 256 else 0)

/-- One transform of an FFT or iFFT entry: bytes with their result word, and whether its check holds (R291, R292, R296). -/
def oneFft (b : Nat) (inverse : Bool) (raw : List Byte) : (List Byte × Nat) × Bool :=
  let p := fftPar b
  let x := (fftInput p b inverse ((unpackFmt p.inFmt raw (p.inCount inverse)).map hold24s)).map hold24s
  let y := fftRun p inverse x
  let parts := ((fftOutput p b inverse y.1).map hold24s).flatMap fun v => [v.1, v.2]
  (if p.outFmt = 0 then narrowC16 parts y.2 else narrowBfp (fmtBits p.outFmt) parts y.2, fftMatches p.n y.2 x y.1)

/-- An FFT or iFFT entry (R291, R292, R296). -/
def runFft (s : State) (e : Entry) (inverse : Bool) : EngOut :=
  match firstFail (fftChecks e inverse) with
  | some (off, code) => (s, .error code off 0)
  | none =>
    match readInput s e with
    | (s, .err er a) => (s, readError er a)
    | (s, .ok input) =>
      let p := fftPar e.block.toNat
      let each := fmtBytes p.inFmt (p.inCount inverse)
      let outs := (List.range p.t).map fun k => oneFft e.block.toNat inverse (slice input (k * each) each)
      (s, if outs.all (·.2) then
          .done (padTo 64 (outs.flatMap (·.1.1)) ++ outs.flatMap fun o => leBytes 4 o.1.2) []
            (outs.filter fun o => decide (256 ≤ o.1.2)).length
        else .error errCheck 0 0)

end Sys2Proof.Machine
end

