-- ==== Sys2Proof/Machine/Power.lean ====
section
/-!
DEFINITION. Power states, Dusk and Dawn, and the gating of clusters and engine islands (R145, R516 to R535).
-/
namespace Sys2Proof.Machine

/-! ## What a cluster island loses when it is switched off (R516, R519) -/

/-- A cluster-memory bank holds a physical buffer of a configured pool (R519). -/
def bankRetained (s : State) (k b : Nat) : Bool :=
  ((List.range 48).map (0xC0 + ·)).any fun p =>
    let c := poolCfg s p
    poolConfigured s p && decide (c.cluster = k) && decide (c.base < (b + 1) * 0x40000)
      && decide (b * 0x40000 < c.base + c.size * poolPhys s p)

/-- Zero the TCMs, the instruction memories and the unretained banks of a cluster. -/
def loseCluster (s : State) (k : Nat) : State :=
  let t := zeroRange s (tcmBase (36 * k)) (36 * 0x40000)
  let t := (List.range 32).foldl (fun t b => if bankRetained s k b then t else zeroRange t (clusterBase k + b * 0x40000) 0x40000) t
  let t := { t with mem := { t.mem with
    imem := t.mem.imem.filter fun y => decide (y.1 / 65536 / 36 ≠ k)
    ibad := t.mem.ibad.filter fun y => decide (y.1 / 65536 / 36 ≠ k) } }
  resetIsland t k

/-- A cluster as it stands after a wake: at OPP3, ungated (R529). -/
def wokenCluster (s : State) (k : Nat) : State :=
  setRail (s.setCluster k (s.cluster k).woken) (k / 4)

/-- A retained cluster-memory bank fails its check: every unit is written as poisoned, and the bank is charged (R531). -/
def poisonBank (s : State) (n : Nat) : State :=
  let a := clusterBase (n / 32) + n % 32 * 0x40000
  let below : List (Nat × BadWord) := s.mem.bad.filter fun y => decide (y.1 < a)
  let above : List (Nat × BadWord) := s.mem.bad.filter fun y => decide (a + 0x40000 ≤ y.1)
  let us : List (Nat × BadWord) := (List.range 0x8000).map fun i => (a + 8 * i, BadWord.poison)
  let t := { s with mem := { s.mem with bad := below ++ us ++ above } }
  strike ((t.bump keyPoisonedWords 0x8000).bump keyRetentionFails 1) (regBank (n / 32) (n % 32))

/-- The banks of a list that a cluster retained and that fail are poisoned. -/
def failBanks (s : State) (ks : Nat → Bool) (bad : List Nat) : State :=
  bad.eraseDups.foldl (fun t n =>
    if n / 32 < nClusters s.part.variant && ks (n / 32) && bankRetained s (n / 32) (n % 32) then poisonBank t n else t) s

/-! ## Gating in P1 (R145, R519, R520) -/

/-- A core task is ready or running on a cluster (R145). -/
def taskOn (s : State) (k : Nat) : Bool :=
  (allRuns s).any fun (j, _, d, r) => decide (d.kind = 0) &&
    (match r.phase, r.place with
      | 1, some (.core c) => decide (c / 36 = k)
      | p, _ => (decide (p = 0) || decide (p = 3)) && taskReady s j d r && decide (roleCluster s j r.role = some k))

/-- An unfinalised job names a pool on a cluster (R519). -/
def poolNamed (s : State) (k : Nat) : Bool :=
  s.jobs.any fun j => !j.final && (harqHandle (jobGraph s j) j.desc :: (j.desc.inH ++ j.desc.outH)).any fun h =>
    decide (poolMemory (hPool h) = 4) && decide ((poolCfg s (hPool h)).cluster = k)

/-- A cell stands on a cluster or moves to it. -/
def cellOn (s : State) (k : Nat) : Bool :=
  (enabledCells s).any fun c => decide ((s.cellState c).cluster = k) ||
    (match (s.cellState c).migration with | some m => decide (m.target = k) | none => false)

/-- The gating conditions of a cluster hold now (R145, R519). -/
def gateable (s : State) (k : Nat) : Bool :=
  clusterUp s k && !(s.cluster k).gated && !cellOn s k && !taskOn s k
    && (!((List.range 32).any fun b => bankRetained s k b) || !poolNamed s k)
    && decide (s.oval keyClustersWarm ≤ ((List.range (nClusters s.part.variant)).filter fun l =>
      decide (l ≠ k) && clusterUp s l && !(s.cluster l).gated && !cellOn s l).length)

/-- Since when the gating conditions of each cluster hold. -/
def trackIdle (s : State) : State :=
  (List.range (nClusters s.part.variant)).foldl (fun (t : State) k =>
    let x := t.cluster k
    let now := if gateable s k then (if x.idleSince.isSome then x.idleSince else some s.time.now) else none
    if now = x.idleSince then t else t.setCluster k { x with idleSince := now }) s

/-- P1 and no reason to hold gating back (R173, R187). -/
def mayGate (s : State) : Bool :=
  s.awake && decide (s.power.phase = 0) && decide (s.power.state = 1) && !s.overcast.on && s.sv.switching.isNone

/-- GATE_IDLE_EXPIRY (R145). -/
def execGateIdleExpiry (k : Nat) (s : State) : Res :=
  onUnit k 16 <|
    let since := match (s.cluster k).idleSince with
      | some t => decide (t + s.oval keyGateIdle * usNs ≤ s.time.now)
      | none => false
    whenSt (mayGate s && gateable s k && since) s
      (setRail ((loseCluster s k).setCluster k { s.cluster k with gated := true, idleSince := none, oppPending := none }) (k / 4))

/-- Kind of an engine instance that takes an entry (R280, R306). -/
def kindOfEntry (e : Nat) : Nat := match e with | 0 => 5 | 1 => 1 | 2 => 2 | 3 => 3 | 4 => 3 | _ => 4

/-- Every instance of an engine island is idle and no entry waits for one of its kinds (R520). -/
def islandQuiet (s : State) (i : Nat) : Bool :=
  let es := islandEngines s i
  !es.isEmpty && es.all (fun e => (s.engine e.1 e.2).entry.isNone && (s.engine e.1 e.2).testing.isNone)
    && !s.entries.any fun e => es.any fun x => decide (x.1 = kindOfEntry e.kind)

/-- Since when each engine island is quiet. -/
def trackEngines (s : State) : State :=
  let now : List (Nat × Nat) := ((List.range 9).map (25 + ·)).filterMap fun i =>
    if islandQuiet s i then some (i, (kget s.power.islandIdle i).getD s.time.now) else none
  { s with power := { s.power with islandIdle := now } }

/-- ENGINE_ISLAND_GATE (R520). -/
def execEngineIslandGate (island : Nat) (s : State) : Res :=
  onUnit island 48 <|
    let since := match kget s.power.islandIdle island with
      | some t => decide (t + s.oval keyGateIdle * usNs ≤ s.time.now)
      | none => false
    whenSt (decide (25 ≤ island) && decide (island ≤ 33) && mayGate s && s.oflag keyEngineGate && islandQuiet s island
        && since && !s.power.gatedIslands.contains island) s
      { s with power := { s.power with gatedIslands := sinsert s.power.gatedIslands island } }

/-- Reason-3 migrations to a cluster that has woken take step 3 (R140). -/
def switchWaiting (s : State) (k : Nat) : State :=
  s.cellSt.foldl (fun (t : State) x => match (t.cellState x.1).migration with
    | some m =>
      if m.target = k ∧ m.switched = false then
        let u := t.setCellSt x.1 { t.cellState x.1 with migration := some { m with startTime := s.time.now } }
        if m.reason = 3 then switchCell u x.1 else u
      else t
    | none => t) s

/-- A gated cluster wakes; its retained banks are checked (R529, R531). -/
def wakeCluster (s : State) (k : Nat) (bad : List Nat) : State :=
  switchWaiting (wokenCluster (failBanks s (fun l => decide (l = k)) bad) k) k

/-- Instances of a kind that are idle, in service and not gated (R281, R520). -/
def idleEngines (s : State) (kind : Nat) : List Nat :=
  (enginesUp s kind).filter fun n =>
    (s.engine kind n).entry.isNone && !s.power.gatedIslands.contains (engineIsland kind n)

/-- An entry is pending for a kind of a gated engine island and no powered instance of the kind is idle (R520). -/
def islandWanted (s : State) (i : Nat) : Bool :=
  (islandEngines s i).any fun x =>
    (s.entries.any fun e => decide (kindOfEntry e.kind = x.1)) && (idleEngines s x.1).isEmpty

/-- GATED_ISLAND_WAKE, with the banks whose retention check fails (R145, R519, R520, R529). -/
def execGatedIslandWake (island : Nat) (badBanks : List Nat) (s : State) : Res :=
  onUnit island 48 <|
    if island < 16 then
      if (s.cluster island).gated && s.awake then done (settleAll s (wakeCluster s island badBanks)) else done s
    else whenSt (s.power.gatedIslands.contains island && s.awake && islandWanted s island) s
      { s with power := { s.power with gatedIslands := s.power.gatedIslands.filter fun i => decide (i ≠ island) } }

/-! ## Requests (R517) -/

/-- A Dusk begins and its first block is prepared (R521, R526). -/
def startDusk (s : State) (target : Nat) : State :=
  let t := { s with power := { s.power with phase := 1, target, block := if target = 3 then 1 else 2, prepAt := s.time.now } }
  if target = 3 then mirrorPut t dormantMarker else t

/-- A request for another power state is refused now (R517). -/
def powerBusy (s : State) : Bool := s.overcast.on || decide (s.power.phase ≠ 0) || decide (s.sv.updState = 2)

/-- P0 permits no gating, so every gated island wakes (R516, assumption 44). -/
def wakeAll (s : State) : State :=
  let t := (List.range (nClusters s.part.variant)).foldl (fun (t : State) k => if (t.cluster k).gated then wakeCluster t k [] else t) s
  { t with power := { t.power with gatedIslands := [] } }

/-- POWER_TARGET (R517). -/
def applyPowerTarget (s : State) (w : WReq) : Applied :=
  if 2 < w.val then fails s csRange
  else if powerBusy s then fails s csConflict
  else
    let t := storeVal s w
    if w.val = s.power.state then (csOk, t)
    else if w.val = 2 then (csOk, startDusk t 2)
    else if s.power.state = 2 then (csOk, wake t 4)
    else
      let t := { t with power := { t.power with state := w.val } }
      (csOk, if w.val = 0 then wakeAll t else t)

/-- DEEP_CMD, which reads as it was last written (R479, R517, R535). -/
def applyDeepCmd (s : State) (w : WReq) : Applied :=
  if w.val ≠ 1 then fails s csRange
  else if powerBusy s then fails s csConflict
  else (csOk, startDusk (storeVal s w) 3)

/-! ## Dusk (R521 to R524) -/

/-- The alarm is enabled and stands at or before the present time (R523, R530). -/
def alarmDue (s : State) : Bool :=
  decide (s.oval keyWakeAlarm ≠ 0) && tbit (s.oval keyWakeEnable) 1 && decide (ofTime80 (s.oval keyWakeAlarm) ≤ s.time.now)

/-- Why the block being prepared refuses: the reason and the instance (R521). -/
def refusal (s : State) (flashFails : Bool) : Option (Nat × Nat) :=
  match s.power.block with
  | 1 => if buddyOn s && (!s.mirrorTx.reachable || s.mirrorTx.unacked.any fun m => decide (m.entry.body = dormantMarker.body))
      then some (0x06, 0) else none
  | 2 => if s.jobs.any fun j => !j.final then some (0x02, 0) else if nMigrating s ≠ 0 then some (0x03, 0) else none
  | 3 => (s.engines.find? fun x => x.2.entry.isSome || (x.2.testing.isSome && !x.2.failed)).map fun x => (0x04, x.1 % 1024)
  | 4 => (s.chans.find? fun x => decide (x.2.state = .running)).map fun x => (0x05, x.1)
  | 7 => match s.mem.chans.find? (fun x => x.2.changing), s.mem.fills.head? with
    | some x, _ => some (0x07, x.1)
    | none, some f => some (0x07, subOf s f.2.1 / 2)
    | none, none => none
  | 9 => if s.cleip.blocks.isEmpty then none else some (0x09, 0)
  | 10 => if s.sv.switching.isSome || flashFails then some (0x08, 0) else none
  | _ => none

/-- What a block stops when it votes yes (R518). -/
def blockStops (s : State) : State :=
  if s.power.block = 1 then updateHeadroom { s with asms := [] } else s

/-- DUSK_VOTE (R521, R523): a refusal, the next block's prepare, or after the last yes the commit mark (R524). -/
def execDuskVote (flashFails : Bool) (s : State) : Res :=
  if s.power.phase ≠ 1 then done s
  else if alarmDue s then done (wake (s.setOval keyWakeAlarm 0) 3)
  else match refusal s flashFails with
  | some (reason, inst) => done (refuseDusk s reason inst)
  | none =>
    let t := blockStops s
    match (voters s).find? fun b => decide (s.power.block < b) with
    | some b => done { t with power := { t.power with block := b, prepAt := s.time.now } }
    | none => done { t with power := { t.power with phase := 2, block := 0 } }

/-- DUSK_VOTE_TIMEOUT (R522). -/
def execDuskVoteTimeout (s : State) : Res :=
  whenSt (decide (s.power.phase = 1) && decide (s.power.prepAt + 50 * usNs ≤ s.time.now)) s (refuseDusk s 0x01 0)

/-- What entry to P2 switches off: the engines and the clusters (R516, R524). -/
def enterP2 (s : State) : State :=
  let t := (List.range (nClusters s.part.variant)).foldl loseCluster s
  let es : List (Nat × Engine) := t.engines.map fun x => (x.1, { Engine.init with failed := x.2.failed })
  { t with engines := es }

/-- DUSK_ENTRY_COMPLETE (R524, R525). A latched wake starts Dawn. -/
def execDuskEntryComplete (s : State) : Res :=
  if s.power.phase ≠ 2 then done s
  else
    let target := s.power.target
    let p := s.power
    let t := (if target = 3 then resetIslands s true else enterP2 s).bump keyDuskEntries 1
    let t := { t with power := { p with phase := 0, state := target, target := 0, block := 0, latched := none } }
    done (match p.latched with
      | some (src, time) => startDawn t src true p.seen time
      | none => t)

/-! ## Dawn (R528 to R532) -/

/-- One ready signal of Dawn, taken in its order (R528). -/
def dawnStep (s : State) (n : Nat) : Res :=
  whenSt (decide (s.power.phase = 3) && decide (s.power.dawn = n)) s { s with power := { s.power with dawn := n + 1 } }

/-- AON_REG_RDY (R528). -/
def execAonRegRdy (s : State) : Res := dawnStep s 1

/-- PSW_RDY (R528). -/
def execPswRdy (s : State) : Res := dawnStep s 2

/-- PLL_LOCK (R528). -/
def execPllLock (s : State) : Res := dawnStep s 3

/-- Dawn from P2 ends: the compute islands run again (R518, R529, R534). -/
def dawnP2 (s : State) (bad : List Nat) : State :=
  let t := failBanks s (fun _ => true) bad
  let t := (List.range (nClusters s.part.variant)).foldl wokenCluster t
  let t := if s.power.wakeSource = 4 then t else t.setOval keyPowerTarget 1
  let t := { t with power := { t.power with
    phase := 0, state := t.oval keyPowerTarget, dawn := 0, gatedIslands := [], islandIdle := [] } }
  let t := t.bump keyDawns 1
  let t := t.jobs.foldl (fun (t : State) j => if j.expanded || j.final then t else expandJob t j.qn j.desc.seq) t
  reOvercast (evalMigration (settleJobs t))

/-- A slot of the JA half is unreadable: its body bank or its tag bank is lost (R56, R531). -/
def jaLost (bad : List Nat) (slot : Nat) : Bool := bad.contains (slot / 4096) || bad.contains (64 + slot / 32768)

/-- A slot of the JB half is unreadable. -/
def jbLost (bad : List Nat) (slot : Nat) : Bool := bad.contains (32 + slot / 4096) || bad.contains (68 + slot / 32768)

/-- Some slots are unreadable in both halves (R531). -/
def journalLost (bad : List Nat) : Bool := (List.range 32).any fun i => jaLost bad (4096 * i) && jbLost bad (4096 * i)

/-- Both state banks fail (R531). -/
def stateLost (bad : List Nat) : Bool := bad.contains 76 && bad.contains 77

/-- The retention check of the always-on island: banks 0 to 31 JA bodies, 32 to 63 JB bodies, 64 to 67 JA tags, 68 to 71
JB tags, 72 to 75 the audit journal, 76 S0 and 77 S1 (R531, R532). -/
def retention (s : State) (bad : List Nat) : State :=
  let bad := (bad.filter fun n => decide (n < 78)).eraseDups
  let t := s.bump keyRetentionFails bad.length
  let t := bad.foldl (fun (t : State) n => writeAon t (0x40000 * n) 0x40000) t
  let ja : List (Nat × JEntry) := t.ja.filter fun x => !jaLost bad x.1
  let jb : List (Nat × JEntry) := t.jb.filter fun x => !jbLost bad x.1
  let t := if journalLost bad || stateLost bad then loseJournal t else { t with ja, jb }
  let t := [72, 73, 74, 75].foldl (fun (t : State) n =>
    if bad.contains n then
      let rs : List (Nat × AuditRec) := t.audit.recs.filter fun x => decide (x.1 / 4096 ≠ n - 72)
      { t with audit := { t.audit with recs := rs, lost := min (t.audit.lost + 4096) 0xFFFFFFFF, restartOld := some 0xFFFFFFFF } }
    else t) t
  if stateLost bad then
    let t := reloadObjects (clearCounts (keysFromFlash t)) true
    { clearFillMap t with epoch := 0 }
  else t

/-- Dawn from P3 ends: the retention check is applied and the device restarts, or stays in the reset that RESET_N holds
(R528, R531, R532, R547). -/
def dawnP3 (s : State) (bad : List Nat) : State :=
  let cause := match s.power.pendingCause with
    | some c => c
    | none => if s.power.wakeSource = 6 then 9 else 8
  let t := if s.power.pendingCause.isSome then s else s.bump keyDawns 1
  let t := beginRestart (retention t bad) cause
  let bs := (bad.filter fun n => decide (n < 78))
  let t := if journalLost bs || stateLost bs then
      { t with mirrorTx := { t.mirrorTx with fenced := true } } else t
  if t.supply.resetN && t.supply.pwrGood then bootUp t else t

/-- MEM_RDY, with the retained banks whose CRC fails (R528, R531). -/
def execMemRdy (badBanks : List Nat) (s : State) : Res :=
  if s.power.phase ≠ 3 ∨ s.power.dawn ≠ 4 then done s
  else done (if s.power.state = 3 then dawnP3 s badBanks else dawnP2 s badBanks)

/-! ## Wakes (R530, R533) -/

/-- WAKE_EDGE (R530). -/
def execWakeEdge (s : State) : Res := whenSt (tbit (s.oval keyWakeEnable) 0 && s.supply.aonUp) s (wake s 2)

/-- A wake has something to act on: a Dusk, a Dawn not past step 1, or a state from P2 on. -/
def canWake (s : State) : Bool := decide (s.power.phase ≠ 0) || decide (2 ≤ s.power.state)

/-- WAKE_ALARM: the alarm then reads 0 (R530). -/
def execWakeAlarm (s : State) : Res := whenSt (alarmDue s && canWake s) s (wake (s.setOval keyWakeAlarm 0) 3)

/-- The always-on regulator is in low-power mode (R524, R528, R541). -/
def regLow (s : State) : Bool :=
  s.oflag keyAonLpEnable &&
    ((s.supply.onBackup && !s.supply.pwrGood) || (decide (2 ≤ s.power.state) && (decide (s.power.phase = 0) || (decide (s.power.phase = 3) && decide (s.power.dawn = 1)))))

/-- AON_BROWNOUT: device time restarts and Dawn begins with source 6 (R439, R533). -/
def execAonBrownout (s : State) : Res :=
  let t := { s with time := { s.time with now := 0, frac := 0, timeLost := true } }
  whenSt (decide (s.power.state = 3) && regLow s) s (wake (t.bump keyAonBrownouts 1) 6)

end Sys2Proof.Machine
end

