-- ==== Sys2Proof/Machine/Engines.lean ====
section
/-!
DEFINITION. The coding and transform engines: the taking of entries, their end, their errors and the engine watchdog
(R278 to R281, R294 to R299).
-/
namespace Sys2Proof.Machine

/-! ## Taking an entry (R130, R156, R281) -/

/-- Rank key of a waiting entry; none while its job is not admitted, or when the entry would be the first task of a job
that is no longer in time (R125, R128, R130). -/
def entryKey (s : State) (e : Entry) : Option RankKey :=
  match findRun s e.task with
  | none => none
  | some (j, _, r) => if tooLate s j then none else rankKey s j r

/-- The waiting entry of a list that is served first. -/
def headEntry (s : State) (l : List Entry) : Option Entry :=
  (l.foldl (fun (b : Option (RankKey × Entry)) e =>
    match entryKey s e with
    | none => b
    | some k => match b with
      | none => some (k, e)
      | some x => if k.before x.1 then some (k, e) else b) none).map (·.2)

/-- Instances on which a replay faulted, and the islands they lie in (R156). -/
def badEngines (r : TaskRun) : List (Nat × Nat) :=
  r.badPlaces.filterMap fun p => match p with | .engine k n => some (k, n) | .core _ => none

/-- Instances that a replay takes by the preferences of R156: reserve before others, another island before the same. -/
def replayChoices (s : State) (kind : Nat) (r : TaskRun) : List Nat :=
  let bad := badEngines r
  let l := (idleEngines s kind).filter fun n => !bad.contains (kind, n)
  let reserve := l.filter fun n => engineReserve s kind n
  let c := if reserve.isEmpty then l else reserve
  let far := c.filter fun n => !(bad.any fun b => decide (engineIsland b.1 b.2 = engineIsland kind n))
  if far.isEmpty then c else far

/-- Instances that the head of a pending list goes to (R281): any free one for the modem (R306). -/
def firstChoices (s : State) (kind : Nat) (e : Entry) : List Nat :=
  let l := (idleEngines s kind).filter fun n => !engineReserve s kind n
  let tile := match findRun s e.task with
    | some (j, _, _) =>
      if kind = 1 ∧ jobHasCell s j = true then l.filter fun n => decide (n / 16 = jobCluster s j / 4) else []
    | none => []
  if kind = 5 then l else if tile.isEmpty then l.take 1 else tile

/-- The entry that an instance takes now: a replay that may go to it, else the head of the list when it is the
instance for it (R156, R281). -/
def nextEntry (s : State) (kind n : Nat) : Option Entry :=
  let mine := s.entries.filter fun e => decide (kindOfEntry e.kind = kind)
  let replays := mine.filter fun e => e.isReplay &&
    (match findRun s e.task with | some (_, _, r) => (replayChoices s kind r).contains n | none => false)
  match headEntry s replays with
  | some e => some e
  | none =>
    match headEntry s (mine.filter fun e => !e.isReplay) with
    | some e => if (firstChoices s kind e).contains n then some e else none
    | none => none

/-- Largest model cost that the graph's bounds allow (R294). -/
def costBound (s : State) (e : Entry) : Nat :=
  match findRun s e.task with
  | some (j, _, _) => match (jobGraph s j).tasks[e.task.task]? with | some d => d.static | none => 0
  | none => 0

/-- An instance takes an entry with the result its run will have (R281, R294). -/
def startEntry (s : State) (kind n : Nat) (e : Entry) (cost : Nat) (counter : Nat) (out : EngOut) : State :=
  let staging := match findRun s e.task with | some (_, _, r) => r.staging | none => []
  let t := startedRun { out.1 with entries := s.entries.erase e } e.task (some (.engine kind n)) 1 staging
  let t := t.setEngine kind n { t.engine kind n with entry := some e, startTime := t.time.now, result := some out.2 }
  let t := t.bump counter 1
  if costBound s e < cost then t.bump keyAccModelOverruns 1 else t

/-- Entry for one of an instance's operations, when the instance would take it now. -/
def takes (s : State) (kind n ekind : Nat) : Option Entry :=
  match nextEntry s kind n with
  | some e => if e.kind = ekind ∧ s.awake = true then some e else none
  | none => none

/-- R286: an idle decoder takes an LDPC decode entry. -/
def execLdpcDecode (n : Nat) (s : State) : Res :=
  onUnit n 64 <| match takes s 1 n 1 with
    | some e => done (startEntry s 1 n e (decodeCost (ldpcPar e.block.toNat)) keyAccEntries (runDecode s e))
    | none => done s

/-- R289: an idle encoder takes an LDPC encode entry. -/
def execLdpcEncode (n : Nat) (s : State) : Res :=
  onUnit n 32 <| match takes s 2 n 2 with
    | some e => done (startEntry s 2 n e (encodeCost (ldpcPar e.block.toNat)) keyAccEntries (runEncode s e))
    | none => done s

/-- R290: an idle polar engine takes a decode entry. -/
def execPolarDecode (n : Nat) (s : State) : Res :=
  onUnit n 16 <| match takes s 3 n 3 with
    | some e => done (startEntry s 3 n e (polarCost e.block.toNat false) keyAccEntries (runPolarDecode s e))
    | none => done s

/-- R290: an idle polar engine takes an encode entry. -/
def execPolarEncode (n : Nat) (s : State) : Res :=
  onUnit n 16 <| match takes s 3 n 4 with
    | some e => done (startEntry s 3 n e (polarCost e.block.toNat true) keyAccEntries (runPolarEncode s e))
    | none => done s

/-- R291: an idle FFT engine takes an FFT entry. -/
def execFft (n : Nat) (s : State) : Res :=
  onUnit n 32 <| match takes s 4 n 5 with
    | some e => done (startEntry s 4 n e (fftCost e.block.toNat) keyAccEntries (runFft s e false))
    | none => done s

/-- R291: an idle FFT engine takes an iFFT entry. -/
def execIfft (n : Nat) (s : State) : Res :=
  onUnit n 32 <| match takes s 4 n 6 with
    | some e => done (startEntry s 4 n e (fftCost e.block.toNat) keyAccEntries (runFft s e true))
    | none => done s

/-! ## Errors and the end of an entry (R297 to R299) -/

/-- An address lies in what an entry reads as a version: its input when that is a job input, or its soft buffer (R157,
R288). -/
def entryVersion (s : State) (e : Entry) (a : Nat) : Bool :=
  let jobInput := match findRun s e.task with
    | some (j, _, _) => match (jobGraph s j).tasks[e.task.task]? with
      | some d => decide (d.reads.headD 4 < 4)
      | none => false
    | none => false
  (jobInput && decide (e.inAddr / 64 ≤ a / 64) && decide (a < e.inAddr + e.inLen))
    || (decide (e.harqIn ≠ 0) && decide (e.harqIn / 64 ≤ a / 64) && decide (a < e.harqIn + e.harqSize))

/-- An error code that forms no signature (R297). -/
def unsigned (code : Nat) : Bool := decide (code = 0x10) || decide (code = 0x11) || decide (code = 0x12)

/-- A modem slice whose run ended with INTERNAL or WATCHDOG is withdrawn for its test (R322). -/
def withdrawSlice (s : State) (kind n code : Nat) : State :=
  if kind = 5 ∧ (code = 0x21 ∨ code = 0x22) then
    s.setEngine kind n { s.engine kind n with testing := some s.time.now }
  else s

/-- The counters of an engine error (R300). -/
def countError (s : State) (code : Nat) : State :=
  let s := s.bump keyAccErrors 1
  if code = 0x20 then s.bump keyAccCheckFails 1 else s

/-- An engine reports an error: it is counted, logged and replayed under R155 to R158, and the instance is free (R297,
R299). A bad word that it read is read again, one that the read half of a merge met is not (R157, R412). -/
def engineEnds (merge : Bool) (s : State) (kind n : Nat) (e : Entry) (code off addr : Nat) : State :=
  let s := countError s code
  let again : State × Bool :=
    if merge = false ∧ (code = 0x10 ∨ code = 0x11) ∧ entryVersion s e addr = true then reread s addr else (s, false)
  let t := runFault again.1 e.task
    { cause := 0x08, sig := if unsigned code then none else some [code, off]
      num := code * 2 ^ 16 + off, addr, region := none, absent := false, damagedInput := again.2 }
  withdrawSlice (freeEngine t kind n) kind n code

/-- An engine reports an error of an entry that is being stopped: it is logged and counted, and a slice is withdrawn for
its test as for any other error (R298, R300, R322). -/
def lateError (s : State) (kind n code num addr : Nat) (signed : Bool) : State :=
  if s.late.any fun x => decide (x.place = .engine kind n) && decide (s.time.now ≤ x.until') then
    withdrawSlice (countError (lateFault s (.engine kind n) 0x08 num addr signed none) code) kind n code
  else s

/-- An engine reports an error that no merge of its own met. -/
def engineFault (s : State) (kind n : Nat) (e : Entry) (code off addr : Nat) : State := engineEnds false s kind n e code off addr

/-- Counters of a finished entry (R300). -/
def countEntry (s : State) (e : Entry) (out : List Byte) (words : Nat) : State :=
  match e.kind with
  | 1 =>
    let crc := tbit e.block.toNat 508
    let flags := (List.range words).map fun i => ((out.drop (out.length - 8 * words + 8 * i)).headD 0)
    let failed := flags.filter fun f => (crc && !f.getLsbD 0) || !f.getLsbD 1
    ((s.bump keyLdpcBlocks words).bump keyLdpcBlocksFailed failed.length).bump keyLdpcEarly
      (flags.filter fun f => f.getLsbD 2).length
  | 3 => if ((out.drop (out.length - 8)).headD 0).getLsbD 0 then s else s.bump keyPolarCrcFails 1
  | 5 | 6 => s.bump keyFftSaturations words
  | _ => s

/-- The output and the soft buffer of a finished entry are written to their staging buffers (R283, R288). -/
def writeOutputs (s : State) (e : Entry) (out harq : List Byte) : State × Option (MErr × Nat) :=
  match devWrite s e.outAddr out with
  | (t, some x) => (t, some x)
  | (t, none) => if harq.isEmpty then (t, none) else devWrite t e.harqOut harq

/-- An entry ends as its result says, or with an error found at the end. -/
def endEntry (s : State) (kind n : Nat) (e : Entry) (r : EngResult) (count : State → State) : State :=
  match r with
  | .error code off addr => engineFault s kind n e code off addr
  | .done out harq words =>
    match writeOutputs s e out harq with
    | (t, some (er, a)) =>
      match readError er a with
      | .error code off addr => engineEnds true t kind n e code off addr
      | .done _ _ _ => t
    | (t, none) =>
      freeEngine (runDone (count (countEntry t e out words)) e.task [(0, out.length), (harqPlace, harq.length)]) kind n

/-- R298: an entry's engine watchdog expires. -/
def watchdogDue (s : State) (x : Engine) (cost : Nat) : Bool :=
  decide (x.startTime + max (s.oval keyEngineWdMin) (s.oval keyEngineWdFactor * cost) ≤ s.time.now)

end Sys2Proof.Machine
end

