-- ==== Sys2Proof/Machine/Modem.lean ====
section
/-!
DEFINITION. The narrowband FSK modem: profiles, receive and transmit entries, the end of every engine entry and the
engine watchdog, the slices' built-in test and the writes of R305 (R301 to R323, R297, R298). The signal arithmetic that
the spec does not state is opaque (Config.nbSliced and the like); the pulse, the AGC's scaling, the symbol maps, the tracking
loop, the ramps, the mask check, positions, powers, the state machine, the records and the output layout are the spec's.
-/
namespace Sys2Proof.Machine

/-! ## Channels and profiles (R302, R303) -/

/-- The record of a channel: ENABLE and PROFILE (R302). -/
def nbChannel (s : State) (c : Nat) : Bool × Nat :=
  let v := s.domNat keyNbChannelTable (8 * c) 8
  (tbit v 63, bits v 59 56)

/-- The fields of a profile that the model uses (R303). -/
structure NbProfile where
  raw : Nat
  taps : Nat
  mod : Nat
  sps : Nat
  slotted : Bool
  capture : Bool
  tentative : Bool
  soft : Bool
  maskMutes : Bool
  syncErrMax : Nat
  syncLen : Nat
  preSyms : Nat
  detLevel : Nat
  captureMargin : Nat
  lossSyms : Nat
  lossDrop : Nat
  hdrBits : Nat
  hdrCrc : Nat
  payCrc : Nat
  payBits : Nat
  lenPos : Nat
  lenWidth : Nat
  lenUnit : Nat
  pilotPeriod : Nat
  pilotLen : Nat
  txRamp : Nat
  jitter : Nat
  freqRange : Nat
  deriving DecidableEq, Repr

/-- Profile p as it stands (R303). -/
def nbProfile (s : State) (p : Nat) : NbProfile :=
  let v := s.domNat (keyNbProfile p) 0 64
  { raw := v, taps := s.domNat (keyNbTaps p) 0 128, mod := bits v 511 509, sps := 2 * 2 ^ bits v 508 507
    slotted := tbit v 506, capture := tbit v 505, tentative := tbit v 504, soft := tbit v 503, maskMutes := !tbit v 501
    syncErrMax := bits v 467 464, syncLen := bits v 463 456, preSyms := bits v 455 448, detLevel := bits v 447 440
    captureMargin := bits v 439 432, lossSyms := bits v 431 424, lossDrop := bits v 423 416, hdrBits := bits v 415 408
    hdrCrc := bits v 407 404, payCrc := bits v 403 400, payBits := bits v 399 388, lenPos := bits v 387 380
    lenWidth := bits v 379 376, lenUnit := bits v 375 372, pilotPeriod := bits v 371 364, pilotLen := bits v 363 358
    txRamp := bits v 159 152, jitter := bits v 151 144, freqRange := bits v 143 136 }

/-- Bits per symbol (R304). -/
def NbProfile.bps (p : NbProfile) : Nat := if p.mod = 2 then 2 else 1

/-- A number lies within bounds. -/
def within (v lo hi : Nat) : Bool := decide (lo ≤ v) && decide (v ≤ hi)

/-- Every field of a profile lies within its range (R303). -/
def NbProfile.valid (p : NbProfile) : Bool :=
  let h := bits p.raw 495 480
  decide (p.mod ≤ 2) && !reservedSet p.raw 500 496 && !reservedSet p.raw 357 352
    && (if p.mod = 0 then decide (h = 2048) else within h 512 8192)
    && within (bits p.raw 479 472) 10 100 && within (bits p.raw 471 468) 1 8
    && within p.syncLen 8 64 && (if p.slotted then decide (p.preSyms ≤ 200) else decide (p.preSyms + p.syncLen ≤ 64))
    && within p.captureMargin 1 80 && within p.lossSyms 1 255 && within p.lossDrop 2 80 && decide (p.hdrBits ≤ 64)
    && decide (p.hdrCrc ≤ 2) && decide (p.payCrc ≤ 2) && within p.payBits 1 4095 && decide (p.lenWidth ≤ 12)
    && decide (p.pilotLen ≤ if p.mod = 2 then 32 else 63) && decide (p.txRamp ≤ 8) && decide (p.jitter ≤ 64)
    && within p.freqRange 1 64 && within (bits p.raw 135 128) 2 12

/-- The eight mask points: offset and attenuation (R303). -/
def NbProfile.masked (p : NbProfile) : Bool := (List.range 8).any fun k => decide (bits p.raw (16 * k + 7) (16 * k) ≠ 0)

/-! ## Power and detection (R309, R310) -/

/-- Power of samples in 0.5 dB steps below 2³⁰, truncated and limited to 255 (R309): the largest n for which the mean is
at most 2³⁰ × 10^(−n/20). -/
def nbPower (x : List (Int × Int)) : Nat :=
  let sum := (x.map fun v => (v.1 * v.1 + v.2 * v.2).toNat).sum
  if sum = 0 then 255
  else ((List.range 256).filter fun n => decide (10 ^ n * sum ^ 20 ≤ (2 ^ 30 * x.length) ^ 20)).foldl max 0

/-- Power of the samples of n symbols from a sample position. -/
def nbPowerAt (p : NbProfile) (x : List (Int × Int)) (pos n : Nat) : Nat := nbPower ((x.drop pos).take (n * p.sps))

/-- The frequency pulse at the profile's sample rate: the Gaussian of BT over PULSE_LEN symbols, or NB_TAPS, I16 samples
held little-endian (R304). -/
def NbProfile.pulse (p : NbProfile) : List Int :=
  if tbit p.raw 502 then
    (List.range 64).map fun k => sgn 16 (bits p.taps (1023 - 16 * k) (1016 - 16 * k) + 256 * bits p.taps (1015 - 16 * k) (1008 - 16 * k))
  else (List.range (bits p.raw 471 468 * p.sps)).map fun t => (Config.nbGauss (bits p.raw 479 472) p.sps (bits p.raw 471 468) t : Int)

/-- The sum of the pulse's samples, which stands for an area of one half symbol, sps ÷ 2 (R304). -/
def NbProfile.area (p : NbProfile) : Int := p.pulse.foldl (· + ·) 0

/-- Sum of squares and number of the samples of the last four symbols up to a sample. -/
def nbLevelSum (p : NbProfile) (x : List (Int × Int)) (last' : Nat) : Nat × Nat :=
  let l := (x.take (last' + 1)).drop (last' + 1 - 4 * p.sps)
  ((l.map fun v => (v.1 * v.1 + v.2 * v.2).toNat).sum, l.length)

/-- A part of a sample scaled by the gain that brings a measured power to −12 dBFS: the exact value is
v × √(2³⁰ × 10^(−1.2) × count ÷ sum), and which whole number beside it is taken is free (R309, assumption 47). -/
def nbAgcPart (w : Nat × Nat) (v : Int) : Int :=
  if w.1 = 0 then Config.nbAgcIdle v
  else
    let m := (List.range 64).reverse.foldl (fun (m : Nat) b =>
      if (m + 2 ^ b) ^ 10 * w.1 ^ 5 * 10 ^ 6 ≤ v.natAbs ^ 10 * (2 ^ 30 * w.2) ^ 5 then m + 2 ^ b else m) 0
    v.sign * ((if Config.nbAgcUp v w.1 w.2 then m + 1 else m : Nat) : Int)

/-- The samples after the AGC: it follows the last four symbols, or stands frozen at a value it measured (R309, R313, R315). -/
def nbScaled (p : NbProfile) (x : List (Int × Int)) (frozen : Option (Nat × Nat)) : List (Int × Int) :=
  x.zipIdx.map fun v =>
    let w := frozen.getD (nbLevelSum p x v.2)
    (nbAgcPart w v.1.1, nbAgcPart w v.1.2)

/-- The discriminator's output through the matched filter, which uses the pulse; the scale is that of the sum of its samples
(R304, R309). -/
def nbFiltered (p : NbProfile) (x : List (Int × Int)) (frozen : Option (Nat × Nat)) : List Int :=
  let z := nbScaled p x frozen
  let d := (List.range z.length).map (Config.nbDiscriminator z)
  (List.range z.length).map fun i => p.pulse.zipIdx.foldl (fun (v : Int) t => v + t.1 * d.getD (i + t.2) 0) 0

/-- The matched filter's output for the reception of the sync word at a sample position: the AGC is frozen at the last four
symbols of that word (R309, R313, R315). -/
def nbHeld (p : NbProfile) (x : List (Int × Int)) (pos : Nat) : List Int :=
  nbFiltered p x (some (nbLevelSum p x (pos + p.syncLen * p.sps - 1)))

/-! ## Symbols (R304, R311) -/

/-- Level of a hard decision. -/
def NbProfile.level (p : NbProfile) (i : BitVec 2) : Int :=
  if p.mod = 2 then (match i.toNat with | 0 => 1 | 1 => 3 | 2 => -1 | _ => -3) else if i.getLsbD 0 then -1 else 1

/-- Bits of a symbol of some level, after the bit before it: a dibit, a bit, or for GMSK the bit whose differential encoding
the level is (R304). -/
def NbProfile.bitsOf (p : NbProfile) (before' : Bool) (level : Int) : List Bool :=
  match p.mod with
  | 0 => [before' != decide (level < 0)]
  | 1 => [decide (level < 0)]
  | _ => if level = 3 then [false, true] else if level = 1 then [false, false] else if level = -1 then [true, false] else [true, true]

/-- Bits of symbol k of a pattern field (R303). -/
def NbProfile.pattern (p : NbProfile) (field k : Nat) : List Bool :=
  if p.mod = 2 then [tbit field (2 * k + 1), tbit field (2 * k)] else [tbit field k]

/-- Level of a symbol whose bits are known (R304). -/
def NbProfile.levelOf (p : NbProfile) (before' : Bool) (l : List Bool) : Int :=
  match p.mod, l with
  | 0, b :: _ => if b != before' then -1 else 1
  | 2, [false, true] => 3
  | 2, [false, false] => 1
  | 2, [true, false] => -1
  | 2, _ => -3
  | _, b :: _ => if b then -1 else 1
  | _, [] => 1

/-- The estimates of timing and frequency, in 1/256 sample and 1/65,536 of the symbol rate times 2¹², and the last bit taken
(R311). -/
structure NbEst where
  timing : Int
  freq : Int
  last' : Bool
  deriving DecidableEq, Repr

/-- A symbol received: its bits and their soft values; it carries data, or it is a pilot. -/
structure NbSym where
  data : Bool
  bits : List Bool
  soft : List Byte
  deriving DecidableEq, Repr

/-- Soft value of a bit: positive favours 0, and its size is free (R284, R311, assumption 47). -/
def softOf (b : Bool) (size : BitVec 7) : Byte :=
  if b then BitVec.ofInt 8 (-((max 1 size.toNat : Nat) : Int)) else BitVec.ofNat 8 size.toNat

/-- The symbol at a sample position under the estimates. -/
def nbDecide (p : NbProfile) (y : List Int) (e : NbEst) (pos : Int) : Int × NbSym :=
  let level := p.level (Config.nbSliced p.raw p.area y pos e.timing e.freq)
  let l := p.bitsOf e.last' level
  (level, { data := true, bits := l
            soft := l.zipIdx.map fun b => softOf b.1 (Config.nbSoftSize p.raw p.area y pos e.timing e.freq b.2) })

/-- The symbols of a burst up to the end of its sync word, of which the first sample lies at a position, under estimates that
stand: PRE_SYMS symbols and SYNC_LEN more. The differential encoding begins with 1 before the burst (R304, assumption 47). -/
def nbHead (p : NbProfile) (y : List Int) (pos : Nat) (e : NbEst) : List NbSym × NbEst :=
  (List.range (p.preSyms + p.syncLen)).foldl (fun (t : List NbSym × NbEst) (k : Nat) =>
    let z := nbDecide p y t.2 ((pos : Int) + ((k : Int) - p.preSyms) * p.sps)
    (t.1 ++ [z.2], { t.2 with last' := (z.2.bits.getLast?).getD t.2.last' })) ([], e)

/-- Bit errors of the hard symbol decisions against SYNC at a sample position (R303, R310). -/
def nbErrs (p : NbProfile) (x : List (Int × Int)) (pos : Nat) : Nat :=
  let l := (nbHead p (nbFiltered p x none) pos { timing := 0, freq := 0, last' := true }).1.drop p.preSyms
  (l.zipIdx.map fun s => ((s.1.bits.zip (p.pattern (bits p.raw 351 224) s.2)).filter fun b => b.1 != b.2).length).sum

/-- A detection: sample position of the sync word with its errors and power (R310). -/
structure NbDet where
  pos : Nat
  errs : Nat
  power : Nat
  deriving DecidableEq, Repr

/-- A position detects (R310). -/
def nbDetects (p : NbProfile) (x : List (Int × Int)) (pos : Nat) : Bool :=
  decide (pos + p.syncLen * p.sps ≤ x.length) && decide (nbErrs p x pos ≤ p.syncErrMax)
    && decide (nbPowerAt p x pos p.syncLen ≤ p.detLevel)

/-- The position of two that is taken: fewest errors, then the highest correlation, then the earliest (R310). -/
def nbBetter (p : NbProfile) (x : List (Int × Int)) (a b : Nat) : Nat :=
  let ea := nbErrs p x a
  let eb := nbErrs p x b
  if eb < ea ∨ (eb = ea ∧ Config.nbCorrelation p.raw p.area (nbFiltered p x none) a < Config.nbCorrelation p.raw p.area (nbFiltered p x none) b) then b else a

/-- The position taken of each run of adjacent detecting positions (R310). -/
def nbRuns (p : NbProfile) (x : List (Int × Int)) : List Nat :=
  let step (t : List Nat × Option (Nat × Nat)) (pos : Nat) : List Nat × Option (Nat × Nat) :=
    if nbDetects p x pos then
      match t.2 with
      | some (best, _) => (t.1, some (nbBetter p x best pos, pos))
      | none => (t.1, some (pos, pos))
    else match t.2 with
      | some (best, _) => (t.1 ++ [best], none)
      | none => t
  let r := (List.range x.length).foldl step ([], none)
  match r.2 with | some (best, _) => r.1 ++ [best] | none => r.1

/-- The detection at a position. -/
def nbDet (p : NbProfile) (x : List (Int × Int)) (pos : Nat) : NbDet :=
  { pos, errs := nbErrs p x pos, power := nbPowerAt p x pos p.syncLen }

/-! ## A reception (R311, R313 to R317) -/

/-- A reception under way or closed. -/
structure NbRx where
  det : NbDet
  preemptor : Bool
  committed : Bool
  hdrOk : Bool
  /-- Header and payload bits expected; 0 while unknown (R319). -/
  expect : Nat
  /-- Consecutive symbols of loss (R317). -/
  lossRun : Nat
  status : Nat
  bits : Nat
  endPos : Nat
  /-- One past the last sample that the reception spans: beyond endPos by the symbols of its loss (R317 ZEROS). -/
  spanEnd : Nat
  deriving DecidableEq, Repr

/-- Symbol of a sample position on the input grid (R307). -/
def NbProfile.sym (p : NbProfile) (pos : Nat) : Nat := pos / p.sps

/-- Symbol k after the sync word carries data, not a pilot (R311). -/
def NbProfile.isData (p : NbProfile) (k : Nat) : Bool :=
  decide (p.pilotPeriod = 0) || decide (p.pilotLen = 0) || decide (k % (p.pilotPeriod + p.pilotLen) < p.pilotPeriod)

/-- Bits delivered by the symbols after the sync word up to and including a symbol. -/
def nbDelivered (p : NbProfile) (r : NbRx) (sym : Nat) : Nat :=
  let n := sym + 1 - (p.sym r.det.pos + p.syncLen)
  ((List.range n).filter fun k => p.isData k).length * p.bps

/-- Frequency offset over the sync word before clipping, and its clipped value (R311). -/
def nbFreqRaw (p : NbProfile) (x : List (Int × Int)) (pos : Nat) : Int := Config.nbFreq p.raw p.area (nbHeld p x pos) pos
def nbFreqClipped (p : NbProfile) (x : List (Int × Int)) (pos : Nat) : Int :=
  max (-(p.freqRange * 256 : Int)) (min (p.freqRange * 256) (nbFreqRaw p x pos))

/-- Fractional timing of the detection at a position, in 1/16 sample (R310). -/
def nbFrac (p : NbProfile) (x : List (Int × Int)) (pos : Nat) : Nat :=
  (Config.nbFraction p.raw p.area (nbFiltered p x none) pos).toNat

/-- The estimates with which a reception begins (R310, R311). -/
def nbFirstEst (p : NbProfile) (x : List (Int × Int)) (pos : Nat) : NbEst :=
  { timing := nbFrac p x pos * 16 * 2 ^ 12, freq := nbFreqClipped p x pos * 2 ^ 12, last' := true }

/-- Gain of the tracking loop in units of 2⁻¹²: 2^−TRACK_BW (R303). -/
def NbProfile.gain (p : NbProfile) : Int := 2 ^ (12 - bits p.raw 135 128)

/-- One symbol after the sync word: it is decided, or for a pilot known; both estimates move by 2^−TRACK_BW of their error
(R311). -/
def nbTrackStep (p : NbProfile) (y : List Int) (pos : Nat) (t : List NbSym × NbEst) (j : Nat) : List NbSym × NbEst :=
  let at' : Int := (pos : Int) + ((p.syncLen + j : Nat) : Int) * p.sps
  let z := nbDecide p y t.2 at'
  let known := p.pattern (bits p.raw 223 160) (j % (p.pilotPeriod + p.pilotLen) - p.pilotPeriod)
  let level := if p.isData j then z.1 else p.levelOf t.2.last' known
  let bits' := if p.isData j then z.2.bits else known
  (t.1 ++ [{ z.2 with data := p.isData j }],
   { timing := t.2.timing + Config.nbTimingErr p.raw p.area y at' t.2.timing t.2.freq level * p.gain
     freq := t.2.freq + Config.nbFreqErr p.raw p.area y at' t.2.timing t.2.freq level * p.gain
     last' := (bits'.getLast?).getD t.2.last' })

/-- The first n symbols after the sync word, and the estimates after them. -/
def nbTrack (p : NbProfile) (y : List Int) (pos n : Nat) (e : NbEst) : List NbSym × NbEst :=
  (List.range n).foldl (nbTrackStep p y pos) ([], e)

/-- The symbols of a reception up to n after the sync word, those before its end first, and the estimates after them. -/
def nbDemod (p : NbProfile) (x : List (Int × Int)) (pos n : Nat) : List NbSym × List NbSym × NbEst :=
  let y := nbHeld p x pos
  let h := nbHead p y pos (nbFirstEst p x pos)
  (h.1, nbTrack p y pos n h.2)

/-- The symbols that a reception delivers of those up to n after the sync word: the data symbols after it, or for SLOTTED
every symbol of the burst (R311, R312). -/
def nbDelivers (p : NbProfile) (x : List (Int × Int)) (r : NbRx) (n : Nat) : List NbSym :=
  let d := nbDemod p x r.det.pos n
  if p.slotted then d.1 ++ d.2.1 else d.2.1.filter (·.data)

/-- Symbols after the sync word that a closed reception used. -/
def NbRx.after (p : NbProfile) (r : NbRx) : Nat := r.endPos / p.sps - (p.sym r.det.pos + p.syncLen)

/-- The hard bits that a closed reception delivers. -/
def nbHardBits (p : NbProfile) (x : List (Int × Int)) (r : NbRx) : List Bool :=
  ((nbDelivers p x r (r.after p)).flatMap (·.bits)).take r.bits

/-- A CRC of the profile's kind over bits that end with it passes (R304). -/
def nbCrcOk (w poly : Nat) (l : List Bool) : Bool := decide (crcBits w poly l = 0)

/-- The header check (R313): its CRC, then its length field; the expected bits when it passes. -/
def nbHeader (p : NbProfile) (x : List (Int × Int)) (r : NbRx) (sym : Nat) : Option Nat :=
  let h := ((nbDelivers p x r (sym + 1 - (p.sym r.det.pos + p.syncLen))).flatMap (·.bits)).take p.hdrBits
  let crc := match p.hdrCrc with | 0 => true | 1 => nbCrcOk 8 0x07 h | _ => nbCrcOk 16 0x1021 h
  let len := if p.lenWidth = 0 then p.payBits else bitsNum ((List.range p.lenWidth).map fun i => h.getD (p.lenPos + i) false) * 2 ^ p.lenUnit
  if crc && within len 1 4095 then some (p.hdrBits + len) else none

/-- A reception begins at a valid detection (R313, R315). -/
def nbStart (p : NbProfile) (d : NbDet) (preemptor : Bool) : NbRx :=
  { det := d, preemptor, committed := decide (p.hdrBits = 0), hdrOk := false
    expect := if p.hdrBits = 0 then p.payBits else 0, lossRun := 0, status := 0, bits := 0, endPos := 0, spanEnd := 0 }

/-- A reception closes with a status after a symbol. -/
def nbClose (p : NbProfile) (r : NbRx) (status bits lastSym : Nat) : NbRx :=
  { r with status, bits := if r.expect = 0 then bits else min bits r.expect, endPos := (lastSym + 1) * p.sps
           spanEnd := (lastSym + 1) * p.sps }

/-- The channel in SYNC mode: the reception in progress, those closed, and the detections ignored (R313). -/
structure NbRun where
  cur : Option NbRx
  closed : List NbRx
  ignored : Nat
  deriving DecidableEq, Repr

/-- Header completion, or delivery complete (R313, R314). -/
def nbComplete (p : NbProfile) (x : List (Int × Int)) (t : NbRun) (sym : Nat) : NbRun :=
  match t.cur with
  | none => t
  | some r =>
    let n := nbDelivered p r sym
    let t : NbRun :=
      if r.committed = false ∧ p.hdrBits ≤ n then
        match nbHeader p x r sym with
        | some e => { t with cur := some { r with committed := true, hdrOk := true, expect := e } }
        | none => { t with cur := none, closed := t.closed ++ [nbClose p r 0x01 n sym] }
      else t
    match t.cur with
    | none => t
    | some r =>
      if r.committed && decide (r.expect ≤ n) then { t with cur := none, closed := t.closed ++ [nbClose p r 0x00 n sym] }
      else t

/-- A valid detection whose sync word ends at a symbol (R310, R313, R315, R316). -/
def nbDetection (p : NbProfile) (t : NbRun) (sym : Nat) (d : NbDet) : NbRun :=
  match t.cur with
  | none => { t with cur := some (nbStart p d false) }
  | some r =>
    if p.sym d.pos < p.sym r.det.pos + p.syncLen then t
    else if r.committed = false then
      { t with cur := some (nbStart p d true), closed := t.closed ++ [nbClose p r 0x02 (nbDelivered p r sym) sym] }
    else if p.capture && decide (d.power + p.captureMargin ≤ r.det.power) then
      { t with cur := some (nbStart p d true), closed := t.closed ++ [nbClose p r 0x03 (nbDelivered p r sym) sym] }
    else { t with ignored := t.ignored + 1 }

/-- Power over the four symbols that end with a symbol lies below the loss level (R317). -/
def nbWeak (p : NbProfile) (x : List (Int × Int)) (r : NbRx) (sym : Nat) : Bool :=
  decide (r.det.power + p.lossDrop < nbPower ((x.drop ((sym - 3) * p.sps)).take ((sym + 1 - (sym - 3)) * p.sps)))

/-- Loss (R317). -/
def nbLoss (p : NbProfile) (x : List (Int × Int)) (t : NbRun) (sym : Nat) : NbRun :=
  match t.cur with
  | none => t
  | some r =>
    if sym < p.sym r.det.pos + p.syncLen then t
    else
      let run := if nbWeak p x r sym then r.lossRun + 1 else 0
      if p.lossSyms ≤ run then
        let c := nbClose p r 0x04 (nbDelivered p r (sym - run)) (sym - run)
        { t with cur := none, closed := t.closed ++ [{ c with spanEnd := (sym + 1) * p.sps }] }
      else { t with cur := some { r with lossRun := run } }

/-- One symbol of the input, its events in the order of R314. -/
def nbSymbol (p : NbProfile) (x : List (Int × Int)) (dets : List NbDet) (t : NbRun) (sym : Nat) : NbRun :=
  let t := nbComplete p x t sym
  let t := (dets.filter fun d => decide (p.sym d.pos + p.syncLen = sym + 1)).foldl (fun (t : NbRun) d => nbDetection p t sym d) t
  nbLoss p x t sym

/-- A SYNC-mode reception of the whole input (R313). -/
def nbSyncRun (p : NbProfile) (x : List (Int × Int)) (first last : Nat) : NbRun :=
  let dets := ((nbRuns p x).filter fun pos => decide (first ≤ p.sym pos) && decide (p.sym pos < last)).map (nbDet p x)
  let n := x.length / p.sps
  let t := (List.range n).foldl (nbSymbol p x dets) { cur := none, closed := [], ignored := 0 }
  match t.cur with
  | none => t
  | some r => { t with cur := none, closed := t.closed ++ [nbClose p r 0x05 (nbDelivered p r (n - 1)) (n - 1)] }

/-- The one reception of a SLOTTED entry: none when no position detects (R312). -/
def nbSlotRun (p : NbProfile) (x : List (Int × Int)) (start : Nat) : Option NbRx :=
  let nominal := start + p.preSyms
  let l := (List.range x.length).filter fun pos =>
    decide (nominal ≤ p.sym pos + p.jitter) && decide (p.sym pos ≤ nominal + p.jitter) && nbDetects p x pos
  match l with
  | [] => none
  | a :: r =>
    let d := nbDet p x (r.foldl (nbBetter p x) a)
    let rx := { nbStart p d false with committed := true, expect := p.payBits * p.bps }
    let base : Int := (p.sym d.pos : Int) - p.preSyms
    let lastSym := (base + p.payBits - 1).toNat
    let n := x.length / p.sps
    let first := p.sym d.pos + p.syncLen
    let bitsTo (sym : Nat) : Nat := ((sym : Int) + 1 - base).toNat * p.bps
    let weak := (List.range (min n lastSym - first)).foldl (fun (w : Option (Nat × Nat) × Nat) i =>
      match w.1 with
      | some _ => w
      | none =>
        let run := if nbWeak p x rx (first + i) then w.2 + 1 else 0
        (if p.lossSyms ≤ run then some (first + i - run, first + i) else none, run)) (none, 0)
    some (match weak.1 with
      | some (sym, at') => { nbClose p rx 0x04 (bitsTo sym) sym with spanEnd := (at' + 1) * p.sps }
      | none => if n ≤ lastSym then nbClose p rx 0x05 (bitsTo (n - 1)) (n - 1) else nbClose p rx 0x00 (bitsTo lastSym) lastSym)

/-! ## Records and output (R318 to R320) -/

/-- A reception closed while tentative (R320). -/
def NbRx.isTentative (r : NbRx) : Bool := !r.committed

/-- Sixteen or more zero samples in a row (R317 ZEROS). -/
def nbZeros (l : List (Int × Int)) : Bool :=
  decide (16 ≤ (l.foldl (fun (t : Nat × Nat) v => if v.1 = 0 ∧ v.2 = 0 then (t.1 + 1, max t.2 (t.1 + 1)) else (0, t.2)) (0, 0)).2)

/-- The payload CRC of a complete reception passes; a profile without one has no CRC to pass (R320). -/
def nbPayOk (p : NbProfile) (x : List (Int × Int)) (r : NbRx) : Bool :=
  let first := if p.slotted then 0 else p.hdrBits
  let l := (nbHardBits p x r).drop first
  decide (r.status = 0) && (match p.payCrc with | 0 => false | 1 => nbCrcOk 16 0x1021 l | _ => nbCrcOk 24 0x864CFB l)

/-- A record (R319). -/
def nbRecord (p : NbProfile) (x : List (Int × Int)) (off : Nat) (r : NbRx) : List Byte :=
  let pos := r.det.pos
  let start : Int := ((p.sym pos : Int) - p.preSyms) * p.sps
  let raw := nbFreqRaw p x pos
  let freq := nbFreqClipped p x pos
  let est := (nbDemod p x pos (r.after p)).2.2
  let syms := r.bits / p.bps
  let flags := b2n r.hdrOk + 2 * b2n (nbPayOk p x r) + 4 * b2n r.committed
    + 8 * b2n (nbZeros ((x.take r.spanEnd).drop start.toNat)) + 16 * b2n r.preemptor + 32 * b2n (decide (freq ≠ raw))
  leBytes 1 r.status ++ leBytes 1 flags ++ leBytes 1 r.det.errs ++ leBytes 1 r.det.power
    ++ leBytes 4 (pos * 16 + nbFrac p x pos) ++ leBytes 4 (unsgn 32 start)
    ++ leBytes 2 r.bits ++ leBytes 2 r.expect ++ leBytes 2 (unsgn 16 freq)
    ++ leBytes 2 (unsgn 16 (est.freq / 2 ^ 12)) ++ leBytes 2 (unsgn 16 ((est.timing - (nbFirstEst p x pos).timing) / 2 ^ 12))
    ++ leBytes 1 (nbPowerAt p x (pos + (p.syncLen - 4) * p.sps) 4)
    ++ leBytes 1 (Config.nbSnr p.raw p.area (nbHeld p x pos) pos syms).toNat ++ leBytes 4 off ++ leBytes 4 r.endPos

/-- The bits of a reception as delivered, padded to a multiple of 8 bytes (R318). -/
def nbData (p : NbProfile) (x : List (Int × Int)) (r : NbRx) : List Byte :=
  padTo 8 (if p.soft then ((nbDelivers p x r (r.after p)).flatMap (·.soft)).take r.bits else packBits (nbHardBits p x r))

/-- Data areas and records of the receptions written, each at its offset. -/
def nbLayout (p : NbProfile) (x : List (Int × Int)) (l : List NbRx) : List Byte × List Byte :=
  l.foldl (fun (t : List Byte × List Byte) r => (t.1 ++ nbData p x r, t.2 ++ nbRecord p x t.1.length r)) ([], [])

/-- The largest number of bits a record can hold (R318). -/
def nbMostBits (p : NbProfile) : Nat :=
  if p.slotted then p.payBits * p.bps
  else p.hdrBits + (if p.lenWidth = 0 ∨ p.hdrBits = 0 then p.payBits
    else min ((2 ^ p.lenWidth - 1) * 2 ^ p.lenUnit) (4095 / 2 ^ p.lenUnit * 2 ^ p.lenUnit))

/-- The largest output of an entry (R318). -/
def nbMostOut (p : NbProfile) (maxRx : Nat) : Nat :=
  let b := nbMostBits p
  padLen 64 (maxRx * padLen 8 (if p.soft then b else (b + 7) / 8)) + 32 * maxRx + 8

/-! ## The checks (R302, R305 to R308, R318, R322) -/

/-- Channel and profile of a block (R306). -/
def nbChan (b : Nat) : Nat := bits b 507 499

/-- Checks of the channel that both operations make (R306, R322). -/
def nbChanChecks (s : State) (b : Nat) (p : NbProfile) : List Check :=
  [ (blockByte 511, errParam, decide (1 < bits b 511 508) || decide (383 < nbChan b)),
    (blockByte 507, errChannel, !(nbChannel s (nbChan b)).1),
    (blockByte 507, errParam, !p.valid),
    (blockByte 498, errParam, reservedSet b 498 496) ]

/-- Samples of an entry's input. -/
def nbSamples (e : Entry) : Nat := e.inLen / 4

/-- The checks of a receive entry (R307, R318). -/
def nbRxChecks (s : State) (e : Entry) (p : NbProfile) : List Check :=
  let b := e.block.toNat
  let start := bits b 495 480
  let stop := bits b 479 464
  let maxRx := bits b 463 456
  sizeChecks e ((nbSamples e * 4 : Nat) : Int) (nbMostOut p maxRx) ++ nbChanChecks s b p ++
    [ (blockByte 479, errParam, if p.slotted then decide (stop ≠ 0) else decide (stop ≤ start) || decide (nbSamples e / p.sps < stop)),
      (blockByte 463, errParam, if p.slotted then decide (maxRx ≠ 1) else !within maxRx 1 32),
      (blockByte 455, errParam, reservedSet b 455 0) ]

/-- Samples that a transmit entry writes (R308). -/
def nbTxSamples (p : NbProfile) (b : Nat) : Nat := (bits b 495 480 + 2 * p.txRamp) * p.sps

/-- The checks of a transmit entry (R308). -/
def nbTxChecks (s : State) (e : Entry) (p : NbProfile) : List Check :=
  let b := e.block.toNat
  let syms := bits b 495 480
  sizeChecks e ((syms * p.bps + 7) / 8 : Nat) (padLen 64 (4 * nbTxSamples p b) + 8) ++ nbChanChecks s b p ++
    [ (blockByte 495, errParam, !within syms 1 8192),
      (blockByte 479, errParam, reservedSet b 479 0) ]

/-- The entry transmits (R306 OP 1). -/
def nbIsTx (b : Nat) : Bool := decide (bits b 511 508 = 1)

/-- The cost of a narrowband entry (R322). -/
def nbCost (s : State) (e : Entry) : Nat :=
  let b := e.block.toNat
  let p := nbProfile s (nbChannel s (nbChan b)).2
  if nbIsTx b then 128 + (nbTxSamples p b + 1) / 2 + (if p.masked then 2048 else 0)
  else 128 + (nbSamples e + 3) / 4 + 256 * bits b 463 456

/-! ## The entries -/

/-- Every sample of the input. -/
def nbInput (e : Entry) (b : List Byte) : List (Int × Int) := (List.range (nbSamples e)).map (c16At b)

/-- What a receive entry comes to: the receptions closed and the detections ignored. -/
def nbReceptions (p : NbProfile) (x : List (Int × Int)) (b : Nat) : NbRun :=
  if p.slotted then
    let r := match nbSlotRun p x (bits b 495 480) with
      | some r => r
      | none =>
        { det := { pos := 0, errs := 0, power := 0 }, preemptor := false, committed := false, hdrOk := false, expect := 0
          lossRun := 0, status := 0x06, bits := 0, endPos := 0, spanEnd := 0 }
    { cur := none, closed := [r], ignored := 0 }
  else nbSyncRun p x (bits b 495 480) (bits b 479 464)

/-- The receptions that make a record, those beyond MAX_RX left out, and the tentative ones discarded (R318, R320). -/
def nbWritten (p : NbProfile) (maxRx : Nat) (t : NbRun) : List NbRx × Nat × Nat :=
  let l := t.closed.filter fun r => !r.isTentative || p.tentative || decide (r.status = 0x06)
  (l.take maxRx, l.length - maxRx, t.closed.length - l.length)

/-- A SLOT_EMPTY record: its status, no flags and no bits delivered; the spec does not state its other fields, which are
free (assumption 47). -/
def nbEmptyRecord (p : NbProfile) (x : List (Int × Int)) : List Byte :=
  (List.range 32).map fun i =>
    if i = 0 then 0x06 else if i = 1 ∨ i = 12 ∨ i = 13 then 0 else Config.nbEmptyByte p.raw p.area (nbFiltered p x none) i

/-- Output of a receive entry (R318). -/
def nbRxOut (p : NbProfile) (x : List (Int × Int)) (b : Nat) : List Byte :=
  let t := nbReceptions p x b
  let (l, dropped, discarded) := nbWritten p (bits b 463 456) t
  let (data, recs) := if l.any fun r => decide (r.status = 0x06) then ([], nbEmptyRecord p x) else nbLayout p x l
  padTo 64 data ++ recs ++ leBytes 1 l.length ++ leBytes 1 dropped ++ leBytes 2 discarded ++ leBytes 4 t.ignored

/-- A receive entry (R307, R312, R313). -/
def runNbReceive (s : State) (e : Entry) : EngOut :=
  let p := nbProfile s (nbChannel s (nbChan e.block.toNat)).2
  match firstFail (nbRxChecks s e p) with
  | some (off, code) => (s, .error code off 0)
  | none =>
    match readInput s e with
    | (s, .err er a) => (s, readError er a)
    | (s, .ok input) => (s, .done (nbRxOut p (nbInput e input) e.block.toNat) [] 0)

/-- Symbol levels of bits in air order, with the differential encoding of TS 45.004 for GMSK (R304; its initial bit 1 is
PRESUMED). -/
def nbLevels (p : NbProfile) (l : List Bool) : List Int :=
  match p.mod with
  | 0 => (l.zip (true :: l)).map fun (a, b) => if a != b then -1 else 1
  | 1 => l.map fun b => if b then -1 else 1
  | _ => (List.range (l.length / 2)).map fun i =>
    match l.getD (2 * i) false, l.getD (2 * i + 1) false with
    | false, true => 3 | false, false => 1 | true, false => -1 | true, true => -3

/-- The denominator of phases in turns: a level v advances the phase by v × H ÷ 8,192 turns a symbol, the pulse of area one
half symbol being scaled by sps ÷ (2 × its sum), and a sample being 1/sps symbol (R304). -/
def NbProfile.phaseUnit (p : NbProfile) : Int := 8192 * p.area

/-- Phase of each sample as a numerator over phaseUnit: the sum of the frequencies so far, each symbol's level times H in
the shape of the pulse (R304). -/
def nbTurns (p : NbProfile) (levels : List Int) (n : Nat) : List Int :=
  let h : Int := bits p.raw 495 480
  let freq (i : Nat) : Int := levels.zipIdx.foldl (fun (v : Int) s =>
    if s.2 * p.sps ≤ i then v + s.1 * h * p.pulse.getD (i - s.2 * p.sps) 0 else v) 0
  ((List.range n).foldl (fun (t : Int × List Int) i => (t.1 + freq i, t.2 ++ [t.1 + freq i])) (0, [])).2

/-- Amplitude of a sample in fixed point: the raised cosine over the ramps, by the samples from the burst's near end, and full
between them (R321). -/
def nbAmplitude (p : NbProfile) (n i : Nat) : Int :=
  let ramp := p.txRamp * p.sps
  let k := min i (n - 1 - i)
  if k < ramp then (trigOne - cosTurns k (2 * ramp : Nat)) / 2 else trigOne

/-! ### The mask check (R321) -/

/-- Power of each of the 256 bins of the averaged periodogram: the window and the distance between segments are free
(assumption 47). -/
def nbSpectrum (x : List (Int × Int)) : List Nat :=
  let starts := 0 :: (List.range (x.length - 256)).filterMap fun i => if (i + 1) % max 1 Config.nbHop = 0 then some (i + 1) else none
  (List.range 256).map fun k => (starts.map fun a =>
    let z := (List.range 256).foldl (fun (z : Int × Int) t =>
      let v := x.getD (a + t) (0, 0)
      let c := cosTurns (k * t : Nat) 256
      let d := sinTurns (k * t : Nat) 256
      (z.1 + Config.nbWindow t * (v.1 * c + v.2 * d), z.2 + Config.nbWindow t * (v.2 * c - v.1 * d))) (0, 0)
    (z.1 * z.1 + z.2 * z.2).toNat).sum

/-- Attenuation asked at a bin: that of the enabled mask point with the largest offset not above the bin's frequency; of
points of one offset the strictest (R303, R321). -/
def NbProfile.maskAt (p : NbProfile) (bin : Nat) : Option Nat :=
  let off := min bin (256 - bin)
  let l := ((List.range 8).map fun k => (bits p.raw (16 * k + 15) (16 * k + 8), bits p.raw (16 * k + 7) (16 * k))).filter fun m =>
    decide (m.2 ≠ 0) && decide (16 * m.1 ≤ off * p.sps)
  match l with
  | [] => none
  | _ =>
    let o := (l.map (·.1)).foldl max 0
    some (((l.filter fun m => decide (m.1 = o)).map (·.2)).foldl max 0)

/-- Steps of 0.5 dB, truncated and limited to 16 bits, by which a power with an attenuation exceeds the reference. -/
def excessSteps (ref' power att : Nat) : Nat :=
  (List.range 16).reverse.foldl (fun (e : Nat) b =>
    if 10 ^ (e + 2 ^ b) * ref' ^ 20 ≤ power ^ 20 * 10 ^ att then e + 2 ^ b else e) 0

/-- Excess at a bin of some power; none where the mask holds (R321). -/
def NbProfile.overAt (p : NbProfile) (ref' power bin : Nat) : Option Nat :=
  (p.maskAt bin).bind fun att => if ref' ^ 20 < power ^ 20 * 10 ^ att then some (excessSteps ref' power att) else none

/-- The mask check of the samples sent: whether it fails, and the worst excess (R321). -/
def nbMask (p : NbProfile) (x : List (Int × Int)) : Bool × Nat :=
  let l := (nbSpectrum x).zipIdx
  let ref' := ((l.filter fun b => Config.nbOccupied p.raw b.2).map (·.1)).foldl max 0
  let past := l.filterMap fun b => p.overAt ref' b.1 b.2
  (!past.isEmpty, past.foldl max 0)

/-- The samples a transmit entry sends before any muting, and the verdict of the mask check (R321). -/
def nbBurst (p : NbProfile) (b : Nat) (l : List Bool) : List (Int × Int) × Bool × Nat :=
  let ramp := List.replicate p.txRamp (1 : Int)
  let levels := ramp ++ nbLevels p (l.take (bits b 495 480 * p.bps)) ++ ramp
  let turns := nbTurns p levels (nbTxSamples p b)
  let x := turns.zipIdx.map fun y =>
    let amp := nbAmplitude p (nbTxSamples p b) y.2
    ((Config.nbSample (amp * cosTurns y.1 p.phaseUnit / trigOne)).toInt, (Config.nbSample (amp * sinTurns y.1 p.phaseUnit / trigOne)).toInt)
  let m := if p.masked then nbMask p x else (false, 0)
  (x, m.1, m.2)

/-- A transmit entry (R308, R321). -/
def runNbTransmit (s : State) (e : Entry) : EngOut :=
  let b := e.block.toNat
  let p := nbProfile s (nbChannel s (nbChan b)).2
  match firstFail (nbTxChecks s e p) with
  | some (off, code) => (s, .error code off 0)
  | none =>
    match readInput s e with
    | (s, .err er a) => (s, readError er a)
    | (s, .ok input) =>
      let (x, bad, excess) := nbBurst p b (bitsOf input)
      let mute := bad && p.maskMutes
      let sent := if mute then x.map fun _ => ((0 : Int), (0 : Int)) else x
      let data := sent.flatMap fun v => leBytes 2 (unsgn 16 v.1) ++ leBytes 2 (unsgn 16 v.2)
      let word := b2n bad + 2 * b2n mute + excess * 2 ^ 16 + x.length * 2 ^ 32
      (s, .done (padTo 64 data ++ leBytes 8 word) [] 0)

/-- R313: a free slice takes a receive entry; a block with a reserved OP is reported by the same check (R306). -/
def execNbReceive (n : Nat) (s : State) : Res :=
  onUnit n 8 <| match takes s 5 n 0 with
    | some e => done (if nbIsTx e.block.toNat then s else startEntry s 5 n e (nbCost s e) keyNbEntries (runNbReceive s e))
    | none => done s

/-- R321: a free slice takes a transmit entry. -/
def execNbTransmit (n : Nat) (s : State) : Res :=
  onUnit n 8 <| match takes s 5 n 0 with
    | some e => done (if nbIsTx e.block.toNat then startEntry s 5 n e (nbCost s e) keyNbEntries (runNbTransmit s e) else s)
    | none => done s

/-! ## The end of an entry, the watchdog and the built-in test -/

/-- Number of receptions of a receive output's events by status, from the run the input gives again (R323). -/
def countNb (s : State) (e : Entry) (input : List Byte) (out : List Byte) : State :=
  let b := e.block.toNat
  let p := nbProfile s (nbChannel s (nbChan b)).2
  if nbIsTx b then if (out.drop (out.length - 8)).headD 0 |>.getLsbD 0 then s.bump keyNbMaskFails 1 else s
  else
    let t := nbReceptions p (nbInput e input) b
    let (l, _, discarded) := nbWritten p (bits b 463 456) t
    let n (st : Nat) : Nat := (t.closed.filter fun r => decide (r.status = st)).length
    let s := s.bump keyNbReceptions (l.filter fun r => decide (r.status = 0)).length
    let s := ((s.bump keyNbHeaderFails (n 0x01)).bump keyNbPreemptions (n 0x02)).bump keyNbCaptures (n 0x03)
    ((s.bump keyNbSignalLost (n 0x04)).bump keyNbIgnoredSyncs t.ignored).bump keyNbTentativeDiscarded discarded

/-- Bytes that an entry's input holds, without the checks of a read that has been made. -/
def inputBytes (s : State) (e : Entry) : List Byte :=
  match e.inVirt with
  | some b => slice b 0 e.inLen
  | none => mgetAll s.mem.bytes e.inAddr e.inLen

/-- R297: an entry finishes or reports an error: CHECK, INTERNAL, or what it found. -/
def execEngineEntryEnd (kind n : Nat) (fail : Option Nat) (s : State) : Res :=
  onUnit n (nEngines .m5f kind) <|
    match (s.engine kind n).entry, (s.engine kind n).result with
    | some e, some r =>
      match fail with
      | some code =>
        whenSt (decide (code = 0x20) || decide (code = 0x21)) s (settleAll s (engineFault s kind n e code 0 0))
      | none =>
        let input := inputBytes s e
        done (settleAll s (endEntry s kind n e r fun t =>
          match r with
          | .done out _ _ => if kind = 5 then countNb t e input out else t
          | .error _ _ _ => t))
    | _, _ => done (match fail, s.late.find? (fun x => decide (x.place = .engine kind n)) with
      | some code, _ =>
        if code = 0x20 ∨ code = 0x21 then lateError s kind n code (code * 2 ^ 16) 0 true else s
      | none, some x => match x.err with
        | some (code, off, addr) => lateError s kind n code (code * 2 ^ 16 + off) addr (!unsigned code)
        | none => s
      | none, none => s)

/-- Model cost of an entry by its kind (R293, R322). -/
def entryCost (s : State) (e : Entry) : Nat :=
  match e.kind with
  | 0 => nbCost s e
  | 1 => decodeCost (ldpcPar e.block.toNat)
  | 2 => encodeCost (ldpcPar e.block.toNat)
  | 3 => polarCost e.block.toNat false
  | 4 => polarCost e.block.toNat true
  | _ => fftCost e.block.toNat

/-- R298: an entry's engine watchdog expires and the entry ends with WATCHDOG. -/
def execEngineWatchdog (kind n : Nat) (s : State) : Res :=
  onUnit n (nEngines .m5f kind) <|
    match (s.engine kind n).entry with
    | none => done (lateError s kind n 0x22 (0x22 * 2 ^ 16) 0 true)
    | some e =>
      whenSt (watchdogDue s (s.engine kind n) (entryCost s e)) s (settleAll s (engineFault s kind n e 0x22 0 0))

/-- R322: a withdrawn slice finishes its 1 ms built-in test. -/
def execNbSliceBistDone (n : Nat) (passed : Bool) (s : State) : Res :=
  onUnit n 8 <|
    let x := s.engine 5 n
    match x.testing with
    | none => done s
    | some t0 =>
      whenSt (!x.failed && decide (t0 + msNs ≤ s.time.now)) s
        (settleAll s
          (if passed then s.setEngine 5 n { x with testing := none }
           else strike (s.setEngine 5 n { x with testing := none, failed := true }) (regEngine 5 n)))

/-! ## Writes of profiles, taps and channels (R305) -/

/-- Channels that an accepted job's narrowband tasks name: by the graph, by the template, by the staged block from its
predecessor's end to finalisation, or by the entry made (R305, R306). -/
def jobChannels (s : State) (j : Job) : List Nat :=
  let g := jobGraph s j
  ((g.names.filter fun x => decide (x.1 = 5)).map (·.2))
    ++ ((g.tasks.filter fun d => decide (d.kind = 5) && d.blockFrom.isNone).map fun d => nbChan d.block.toNat)
    ++ ((g.tasks.filter fun d => decide (d.kind = 5)).filterMap fun d =>
          match (stagedBlockAt s j d).map fun a => (devRead s 4 a 64).2 with
          | some (.ok b) => some (nbChan (blockOfBytes d.ekind b).toNat)
          | _ => none)
    ++ ((s.entries ++ s.engines.filterMap fun x => x.2.entry).filter fun e =>
          decide (e.kind = 0) && decide (e.task.q = j.qn) && decide (e.task.seq = j.desc.seq)).map fun e => nbChan e.block.toNat

/-- Channels in use by accepted jobs that are not finalised (R305). -/
def busyChannels (s : State) : List Nat := (s.jobs.filter fun j => !j.final).flatMap (jobChannels s)

/-- Store the records of n bytes that a write touches, reserved bits left zero (R3). -/
def storeRecs (s : State) (w : WReq) (n mask : Nat) : State :=
  (touched w n).foldl (fun (t : State) i => t.setDom w.key (n * i) (beBytes n (Nat.land (newRec s w n i) mask))) s

/-- NB_CHANNELS, NB_PROFILE and NB_TAPS (R302 to R305). -/
def applyNbConfig (s : State) (w : WReq) : Applied :=
  let busy := busyChannels s
  if w.key = keyNbChannelTable then
    if (touched w 8).any fun c => busy.contains c then fails s csConflict
    else ifFlash s w (storeRecs s w 8 (0x8F * 2 ^ 56))
  else
    let p := w.key / 256 % 16
    if busy.any fun c => decide ((nbChannel s c).2 = p) then fails s csConflict
    else if w.key / 256 < 0x8110 then
      ifFlash s w (storeRecs s w 64 (2 ^ 512 - 1 - 31 * 2 ^ 496 - 63 * 2 ^ 352))
    else ifFlash s w (storeDom s w)

end Sys2Proof.Machine
end

