-- ==== Sys2Proof/Machine/Lanes.lean ====
section
/-!
DEFINITION. Fronthaul lanes: scrambling, stuffing, the lane states, deskew and rows, parity reconstruction, draining, test
modes and what a group transmits (R324 to R346).
-/
namespace Sys2Proof.Machine

/-! ## Groups and lanes (R324, R326) -/

/-- A group is enabled (R326, R343). -/
def groupEnabled (s : State) (g : Nat) : Bool := decide (g < nGroups s.part.variant) && tbit (s.oval keyGroupEnable) g

/-- The group is powered and its transmitters run. -/
def groupOn (s : State) (g : Nat) : Bool := decide ((s.lane (17 * g)).state ≠ .off)

/-- LANE_CONFIG record of a lane (R344). -/
def laneCfg (s : State) (n : Nat) : Nat := s.domNat keyLaneConfig (8 * n) 8

/-- Loopback or PRBS is set on a lane (R334, R342). -/
def laneTest (s : State) (n : Nat) : Bool := decide (bits (laneCfg s n) 61 58 ≠ 0)

/-- Add to one of a record's wrapping counters (R346, R374). -/
def addCtr (l : List (BitVec 32)) (i n : Nat) : List (BitVec 32) := l.set i (l.getD i 0 + BitVec.ofNat 32 n)

/-- Count in a lane's counters: 0 HDR_ERRORS, 1 STUFF_VIOLATIONS, 2 LOCK_LOSSES, 3 BLOCKS_RECONSTRUCTED,
4 BLOCKS_ERASED, 5 FILLER_DELETED, 6 DRAIN_MISMATCHES, 7 PRBS_ERRORS (R346). -/
def Lane.count (x : Lane) (i n : Nat) : Lane := { x with counters := addCtr x.counters i n }

/-- Count in a link's counters, in the order of R374. -/
def bumpLink (s : State) (g i n : Nat) : State :=
  if g < 4 then s.setLink g { s.link g with counters := addCtr (s.link g).counters i n } else s

/-- A lane starts from OFF (R334). -/
def startLane (s : State) (n : Nat) : State :=
  let x := s.lane n
  s.setLane n { Lane.init with
    counters := x.counters, countersPrev := x.countersPrev, state := if laneTest s n then .test else .hunt }

/-- The lanes of a group whose reference is present start (R334). -/
def startLanesOf (s : State) (g : Nat) : State := (groupLanes g).foldl startLane s

/-- A group is powered on: its lanes start when its reference is present, which is not for the device to say and free (R324,
R326, R334; assumption 19). -/
def startGroup (s : State) (g : Nat) : State :=
  let (n, t) := s.drawNat
  if tbit n 0 then startLanesOf t g else t

/-- The transmitter of a group stops: it will start with a fresh count (R329). -/
def stopTx (x : Link) : Link :=
  { x with txRows := [], txBlockCount := 0, txSinceFiller := 0, txScr := Link.init.txScr, txRuns := Link.init.txRuns }

/-- A group is powered off (R326, R334). -/
def stopGroup (s : State) (g : Nat) : State :=
  let t := (groupLanes g).foldl (fun (t : State) n => t.setLane n (resetLane (t.lane n))) s
  t.setLink g (stopTx (t.link g))

/-- A link leaves OFF or returns to it; the transmitter of its group goes on (R328 to R330, R358). -/
def relink (x : Link) : Link :=
  { resetLink x with txBlockCount := x.txBlockCount, txSinceFiller := x.txSinceFiller, txScr := x.txScr, txRuns := x.txRuns }

/-- A bit arrives on a group that is enabled and off: its reference has come, and its lanes and its link start (R334, R358). -/
def referenceUp (s : State) (g : Nat) : State :=
  if !groupEnabled s g || !s.serving || !s.powered then s
  else
    let t := startLanesOf s g
    if tbit (domRec s keyLinkConfig 16 g) 127 && decide ((s.link g).framer = 0) then t.setLink g { relink (t.link g) with framer := 1 } else t

/-- GROUP_ENABLE (R343). The bit of an absent group is RANGE (DESIGN CHOICE, assumption 73). -/
def applyGroupEnable (s : State) (w : WReq) : Applied :=
  let old := s.oval keyGroupEnable
  if 2 ^ nGroups s.part.variant ≤ w.val then fails s csRange
  else if (List.range 4).any fun g => tbit old g && !tbit w.val g && tbit (domRec s keyLinkConfig 16 g) 127 then fails s csConflict
  else
    let t := storeVal s w
    ifFlash s w ((List.range (nGroups s.part.variant)).foldl (fun (t : State) g =>
      if tbit w.val g && !groupOn t g then startGroup t g else if !tbit w.val g && groupOn t g then stopGroup t g else t) t)

/-! ## Scrambling and stuffing (R328, R330, R331) -/

/-- One payload bit through the descrambler: the register of the last 58 received bits, newest at bit 0 (R328). -/
def descrambleBit (r : BitVec 58) (b : Bool) : BitVec 58 × Bool := (r.shiftConcat b, b != (r.getLsbD 38 != r.getLsbD 57))

/-- One payload bit through the scrambler (R328). -/
def scrambleBit (r : BitVec 58) (d : Bool) : BitVec 58 × Bool :=
  let b := d != (r.getLsbD 38 != r.getLsbD 57)
  (r.shiftConcat b, b)

/-- Bits through one of the two, in order. -/
def throughBits (f : BitVec 58 → Bool → BitVec 58 × Bool) (r : BitVec 58) : List Bool → BitVec 58 × List Bool
  | [] => (r, [])
  | b :: l =>
    let (r1, o) := f r b
    let (r2, t) := throughBits f r1 l
    (r2, o :: t)

/-- The bits of a payload, bit 255 first (R327). -/
def payloadBits (p : BitVec 256) : List Bool := (List.range 256).map fun i => p.getLsbD (255 - i)

/-- The payload of 256 bits. -/
def payloadOf (l : List Bool) : BitVec 256 := BitVec.ofNat 256 (bitsNum l)

/-- After every run of 31 identical bits one bit of the opposite value is inserted, which begins a new run (R330). -/
def stuffBits (st : Bool × Nat) : List Bool → (Bool × Nat) × List Bool
  | [] => (st, [])
  | b :: l =>
    let run := if b = st.1 then st.2 + 1 else 1
    if run = 31 then
      let (e, o) := stuffBits (!b, 1) l
      (e, b :: (!b) :: o)
    else
      let (e, o) := stuffBits (b, run) l
      (e, b :: o)

/-- The receiver removes the bit that follows every run of 31 identical bits, and counts those equal to the run
(R331). -/
def destuffBits (st : Bool × Nat) : List Bool → (Bool × Nat) × List Bool × Nat
  | [] => (st, [], 0)
  | b :: l =>
    if st.2 = 31 then
      let (e, o, v) := destuffBits (b, 1) l
      (e, o, if b = st.1 then v + 1 else v)
    else
      let run := if b = st.1 then st.2 + 1 else 1
      let (e, o, v) := destuffBits (b, run) l
      (e, b :: o, v)

/-! ## Blocks received (R327, R332 to R334, R342) -/

/-- What a header says (R327). -/
def headerKind (h : BitVec 8) : BlkKind := if h = 0xA5 then .data else if h = 0x5A then .filler else .bad

/-- Bit errors of received bits against the PRBS31 they should continue: x³¹ + x²⁸ + 1 (R342; the polynomial is
PRESUMED). -/
def prbsErrors (r : BitVec 58) : List Bool → BitVec 58 × Nat
  | [] => (r, 0)
  | b :: l =>
    let (e, n) := prbsErrors (r.shiftConcat b) l
    (e, if b = (r.getLsbD 27 != r.getLsbD 30) then n else n + 1)

/-- A block enters a lane that has word alignment: its header is noted and it waits in the deskew buffer of 64 blocks
(R334, R335). -/
def pushBlock (x : Lane) (k : BlkKind) (d : BitVec 256) : Lane :=
  let b := x.blocks ++ [{ kind := k, payload := d }]
  { x with window := (x.window ++ [decide (k = BlkKind.bad)]).drop (x.window.length - 63)
           blocks := if 64 < b.length then b.drop 1 else b }

/-- A lane slips: its cut moves one bit later (R332). -/
def slipOnce (x : Lane) : Lane := { x with slipPos := (x.slipPos + 1) % 264, rxSkip := x.rxSkip + 1 }

/-- A lane in HUNT sees one block: the run of valid headers, and the firmware's slip (R332, R334). -/
def huntBlock (s : State) (n : Nat) (x : Lane) (k : BlkKind) : Lane :=
  if k = .bad then
    let slip := !tbit (s.oval keySlipMode) (n / 17) && s.sv.switching.isNone
    if slip then slipOnce { x with goodRun := 0 } else { x with goodRun := 0 }
  else { x with goodRun := x.goodRun + 1 }

/-- Bits of the line as the receiver takes them, by its polarity (R344). -/
def polar (s : State) (n : Nat) (line : List Bool) : List Bool := if tbit (laneCfg s n) 62 then line.map (!·) else line

/-- Destuffed bits join what the receiver holds; a slip passes over some first (R331, R332). -/
def takeBits (x : Lane) (line : List Bool) : Lane :=
  let (run, b, v) := destuffBits x.rxRun line
  let all := x.rxBits ++ b
  { x with rxRun := run, rxBits := all.drop x.rxSkip, rxSkip := x.rxSkip - all.length }.count 1 v

/-- A word of 264 bits is cut: its header is judged and its payload descrambled (R327, R328, R334). -/
def takeWord (s : State) (n : Nat) (x : Lane) : Lane :=
  let w := x.rxBits.take 264
  let (r, d) := throughBits descrambleBit x.scr (w.drop 8)
  let k := headerKind (BitVec.ofNat 8 (bitsNum (w.take 8)))
  let y := { x with scr := r, rxBits := x.rxBits.drop 264 }.count 0 (b2n (decide (k = BlkKind.bad)))
  if x.state = .hunt then huntBlock s n y k else pushBlock y k (payloadOf d)

/-- R334: a block is received on a lane, as the bits on the line in which its header and the two halves of its payload come,
stuff bits among them; near-end loopback cuts the receiver off from the line, and far-end loopback keeps the bits to send
them again (R331, R342). -/
def execLaneBlockReceived (lane : Nat) (header upper lower : List Bool) (s : State) : Res :=
  onUnit lane 68 <|
    let line := header ++ upper ++ lower
    let x := { s.lane lane with signal := true }
    match x.state with
    | .off => done (referenceUp s (lane / 17))
    | .test =>
      let (r, e) := prbsErrors x.scr (polar s lane line)
      let check := tbit (laneCfg s lane) 59
      let mode := bits (laneCfg s lane) 61 60
      done (if mode = 1 then s
        else s.setLane lane ({ x with scr := r, echo := if mode = 2 then x.echo ++ line else [] }.count 7 (if check then e else 0)))
    | _ =>
      let y := takeBits x (polar s lane line)
      done (s.setLane lane (if y.rxBits.length < 264 then y else takeWord s lane y))

/-- R334: a lane in HUNT has counted 64 consecutive valid headers. -/
def execLaneLock (lane : Nat) (s : State) : Res :=
  onUnit lane 68 <|
    let x := s.lane lane
    whenSt (decide (x.state = .hunt) && decide (64 ≤ x.goodRun)) s
      (s.setLane lane { x with state := .locked, window := [], blocks := [], erased := true })

/-- R334: a lane loses its lock, or its signal for 1 µs. -/
def execLaneLockLoss (lane : Nat) (noSignal : Bool) (s : State) : Res :=
  onUnit lane 68 <|
    let x := s.lane lane
    let bad := decide (16 ≤ (x.window.filter fun b => b).length)
    let y := if noSignal then { x with signal := false } else x
    match x.state with
    | .locked | .aligned =>
      if !noSignal && !bad then done s
      else
        let t := s.setLane lane { y.count 2 1 with state := .hunt, goodRun := 0, window := [], blocks := [], erased := true }
        done (if x.state = .aligned then abandonDrain (strike t (regLane lane)) lane else t)
    | .hunt => done (s.setLane lane { y with goodRun := if noSignal then 0 else y.goodRun })
    | .test => done (s.setLane lane y)
    | .off => done s

/-! ## Filler rows and deskew (R329, R334, R335) -/

/-- The oldest block of an ALIGNED lane. -/
def headBlk (s : State) (n : Nat) : Option LaneBlk :=
  if (s.lane n).state = .aligned then (s.lane n).blocks.head? else none

/-- Lanes of a group whose head block has a kind; no block of a retired lane is used (R341). -/
def headsOf (s : State) (g : Nat) (k : BlkKind) : List Nat :=
  (groupLanes g).filter fun n => !laneRetired s n && decide ((headBlk s n).map (·.kind) = some k)

/-- The kind of the next row: the majority of valid headers, a tie making a data row (R336). -/
def rowIsFiller (s : State) (g : Nat) : Bool := decide ((headsOf s g .data).length < (headsOf s g .filler).length)

/-- The filler block that a lane shows, and what follows it: a lane not yet placed passes over what comes before. -/
def fillerOf (x : Lane) : Option (BitVec 256 × List LaneBlk) :=
  match x.state with
  | .aligned => match x.blocks with
    | b :: r => if b.kind = .filler then some (b.payload, r) else none
    | [] => none
  | .locked =>
    match x.blocks.dropWhile fun b => decide (b.kind ≠ .filler) with
    | b :: r => some (b.payload, r)
    | [] => none
  | _ => none

/-- BLOCK_COUNT of a filler payload. -/
def fillerCount (p : BitVec 256) : Nat := bits p.toNat 255 224
/-- LANE of a filler payload. -/
def fillerLane (p : BitVec 256) : Nat := bits p.toNat 223 216

/-- The value most often found in a list, the first on a tie. -/
def commonest (l : List Nat) : Nat :=
  l.foldl (fun (b : Nat) v => if (l.filter fun x => decide (x = b)).length < (l.filter fun x => decide (x = v)).length then v else b)
    (l.headD 0)

/-- BLOCK_COUNT of the group: what most of its ALIGNED lanes say, else most of its LOCKED lanes, retired ones apart (R341). -/
def groupCount (s : State) (g : Nat) : Nat :=
  let of (st : LaneState) : List Nat := (groupLanes g).filterMap fun n =>
    if (s.lane n).state = st ∧ !laneRetired s n then (fillerOf (s.lane n)).map fun f => fillerCount f.1 else none
  commonest (if (of .aligned).isEmpty then of .locked else of .aligned)

/-- One lane takes its block of a filler row (R334, R335). -/
def placeLane (s : State) (cnt n skew : Nat) : State :=
  let x := s.lane n
  match fillerOf x with
  | none => if x.state = .aligned then s.setLane n { x with blocks := x.blocks.drop 1 } else s
  | some (p, rest) =>
    let y := { x with blocks := rest, laneSeen := fillerLane p, skew := min skew 255 }.count 5 1
    let agree := decide (fillerCount p = cnt)
    let late := decide (s.oval keyDeskewMax < skew)
    if x.state = .locked then
      if fillerLane p ≠ n % 17 then strike (s.setLane n { y with miswired := true }) (regLane n)
      else if !agree then s.setLane n y
      else if late then s.setLane n { y with miswired := false, skewExcess := true }
      else s.setLane n { y with state := .aligned, miswired := false, skewExcess := false, erased := false }
    else if !agree then abandonDrain (s.setLane n { y with state := .locked, erased := true }) n
    else s.setLane n { y with skewExcess := late, erased := late }

/-- R335: a filler row is deleted and places each lane, with each lane's arrival against the earliest. -/
def execFillerRow (group : Nat) (skews : List Nat) (s : State) : Res :=
  onUnit group 4 <|
    let any := (groupLanes group).any fun n => decide ((s.lane n).state = .locked) && (fillerOf (s.lane n)).isSome
    let aligned := (groupLanes group).any fun n => decide ((s.lane n).state = .aligned) && !laneRetired s n
    whenSt (if aligned then rowIsFiller s group else any) s
      ((List.range 17).foldl (fun (t : State) i => placeLane t (groupCount s group) (17 * group + i) (nth0 skews i)) s)

/-! ## Data rows (R336 to R339) -/

/-- A lane's block is erased before DRAINED lanes are taken into account (R336). -/
def baseErased (s : State) (n : Nat) : Bool :=
  match headBlk s n with
  | none => true
  | some b => decide (b.kind ≠ .data) || (s.lane n).erased || laneRetired s n

/-- A lane's block in a data row is erased (R336). -/
def blkErased (s : State) (n : Nat) : Bool :=
  baseErased s n || (decide ((s.lane n).drain = .drained) &&
    (groupLanes (n / 17)).any fun m => decide (m ≠ n) && !baseErased s m)

/-- Payload of a lane's block in the row, zero where there is none. -/
def blkPayload (s : State) (n : Nat) : BitVec 256 := ((headBlk s n).map (·.payload)).getD 0

/-- The XOR of every other lane's payload of a row (R337, R338). -/
def rebuilt (s : State) (n : Nat) : BitVec 256 :=
  ((groupLanes (n / 17)).filter fun m => decide (m ≠ n)).foldl (fun (v : BitVec 256) m => v ^^^ blkPayload s m) 0

/-- Lanes of a group whose block in the row is erased. -/
def erasedLanes (s : State) (g : Nat) : List Nat := (groupLanes g).filter (blkErased s)

/-- The 16 data blocks that a row delivers, none where absent (R338). -/
def rowBlocks (s : State) (g : Nat) : List (Option (BitVec 256)) :=
  let e := erasedLanes s g
  (List.range 16).map fun i =>
    let n := 17 * g + i
    if !e.contains n then some (blkPayload s n) else if e.length = 1 then some (rebuilt s n) else none

/-- A verifying lane in one data row: the count, a mismatch, and the end of the verification (R339). -/
def verifyLane (s : State) (n : Nat) (e : List Nat) (x : Lane) : Lane :=
  if x.drain ≠ .verify ∨ e.any (fun m => decide (m ≠ n)) = true then x
  else if headBlk s n = none ∨ blkPayload s n ≠ rebuilt s n then { x.count 6 1 with verifyCount := 0 }
  else if s.oval keyDrainVerify ≤ x.verifyCount + 1 then
    { x with verifyCount := 0, drain := if x.restoring then .normal else .drained, restoring := false }
  else { x with verifyCount := x.verifyCount + 1 }

/-- One lane after a data row: its block leaves the deskew buffer and its counters move (R338, R339, R346). -/
def afterRow (s : State) (n : Nat) (e : List Nat) : Lane :=
  let x := s.lane n
  let gone := e.contains n
  let data := decide (n % 17 ≠ 16)
  let y := if gone && data then (if e.length = 1 then x.count 3 1 else x.count 4 1) else x
  let z := verifyLane s n e y
  { z with blocks := if x.state = .aligned then z.blocks.drop 1 else z.blocks
           erasedRun := if gone then z.erasedRun + 1 else 0 }

/-- A row is errored: an invalid header on an ALIGNED lane, or an erased block (R359). -/
def rowErrored (s : State) (g : Nat) : Bool :=
  !(erasedLanes s g).isEmpty || !(headsOf s g .bad).isEmpty

/-- Some lane of the group gives cause to abandon a drain: retired, or erased in 64 data rows in a row (R339). -/
def settleDrains (s : State) (g : Nat) : State :=
  (groupLanes g).foldl (fun (t : State) n =>
    if laneRetired t n || decide (64 ≤ (t.lane n).erasedRun) then abandonDrain t n else t) s

/-- R338: a data row is released to the framing layer. -/
def execRowRelease (group : Nat) (s : State) : Res :=
  onUnit group 4 <|
    let aligned := (groupLanes group).filter fun n => decide ((s.lane n).state = .aligned) && !laneRetired s n
    let ready := aligned.isEmpty || aligned.any fun n => (headBlk s n).isSome
    if !groupOn s group || rowIsFiller s group || !ready then done s
    else
      let e := erasedLanes s group
      let row := rowBlocks s group
      let bad := rowErrored s group
      let t := (groupLanes group).foldl (fun (t : State) n => t.setLane n (afterRow s n e)) s
      let x := t.link group
      done (settleDrains (if x.framer = 0 then t else
        t.setLink group { x with
          rx := x.rx ++ [(s.time.now, row)], secErrRows := x.secErrRows + b2n bad
          counters := addCtr x.counters 14 (b2n bad) }) group)

/-! ## Lane commands (R332, R333, R339, R343) -/

/-- Another lane of the group stands in the way of a drain (R339). -/
def drainBlocked (s : State) (n : Nat) : Bool :=
  ((groupLanes (n / 17)).any fun m => decide (m ≠ n) && decide (laneDrain s m ≠ .normal))
    || decide ((s.lane (17 * (n / 17) + 16)).state ≠ .aligned)

/-- Command 1: slip; none where it is refused (R332, R333). -/
def slipLane (s : State) (n : Nat) : Option State :=
  let x := s.lane n
  if !tbit (s.oval keySlipMode) (n / 17) || (decide (x.state = .aligned) && decide (laneDrain s n ≠ .drained)) then none
  else some (s.setLane n (slipOnce x))

/-- Command 2: drain; none where it is refused (R339). -/
def drainLane (s : State) (n : Nat) : Option State :=
  let x := s.lane n
  if laneDrain s n ≠ .normal ∨ drainBlocked s n = true then none
  else some (s.setLane n { x with drain := .verify, verifyCount := 0, restoring := false })

/-- Command 3: restore; none where it is refused (R339). -/
def restoreLane (s : State) (n : Nat) : Option State :=
  let x := s.lane n
  if x.drain ≠ .drained ∨ x.state ≠ .aligned ∨ laneRetired s n = true then none
  else some (s.setLane n { x with drain := .verify, verifyCount := 0, restoring := true })

/-- LANE_CMD (R343). A lane of an absent group is RANGE, and a drain of a lane that is not NORMAL is STATE_CONFLICT (DESIGN
CHOICE, assumption 73). -/
def applyLaneCmd (s : State) (w : WReq) : Applied :=
  let n := bits w.val 6 0
  let c := bits w.val 11 8
  if 17 * nGroups s.part.variant ≤ n ∨ w.val ≠ n + 256 * c ∨ c = 0 ∨ 3 < c then fails s csRange
  else
    match (if c = 1 then slipLane s n else if c = 2 then drainLane s n else restoreLane s n) with
    | some t => (csOk, storeVal t w)
    | none => fails s csConflict

/-- A LANE_CONFIG record is within its ranges (R344). -/
def laneCfgOk (v : Nat) : Bool :=
  decide (bits v 61 60 ≠ 3) && within (bits v 55 48) 40 120 && decide (bits v 47 44 ≤ 10)

/-- A record sets a test mode that the lane may not take (R342). -/
def laneTestBarred (s : State) (n v : Nat) : Bool :=
  decide (bits v 61 58 ≠ 0) && decide (bits v 61 58 ≠ bits (laneCfg s n) 61 58) && groupEnabled s (n / 17)
    && decide (laneDrain s n ≠ .drained)

/-- A lane enters or leaves TEST as its record says (R334). -/
def followTest (s : State) (n : Nat) : State :=
  let x := s.lane n
  if x.state = .off then s
  else if laneTest s n ∧ x.state ≠ .test then s.setLane n { x with state := .test, goodRun := 0, window := [], blocks := [], erased := true }
  else if laneTest s n = false ∧ x.state = .test then s.setLane n { x with state := .hunt, goodRun := 0 }
  else s

/-- LANE_CONFIG (R342, R344). -/
def applyLaneConfig (s : State) (w : WReq) : Applied :=
  let ns := (touched w 8).filter fun n => decide (n < 68)
  if ns.any fun n => !laneCfgOk (newRec s w 8 n) then fails s csRange
  else if ns.any fun n => laneTestBarred s n (newRec s w 8 n) then fails s csConflict
  else ifFlash s w (ns.foldl followTest (storeRecs s w 8 (0xFCFFFFF * 2 ^ 36)))

/-- DESKEW_MAX: not while a group is enabled (R343). -/
def applyDeskewMax (s : State) (w : WReq) : Applied :=
  if (List.range 4).any (groupEnabled s) then fails s csConflict else ifFlash s w (storeVal s w)

/-! ## Transmission (R328 to R330, R337, R341) -/

/-- Payload of a filler block (R329). -/
def fillerPayload (count i g : Nat) : BitVec 256 := BitVec.ofNat 256 (count % 2 ^ 32 * 2 ^ 224 + i * 2 ^ 216 + g * 2 ^ 208)

/-- n bits of PRBS31 from a register, which is never all zero (R342; the polynomial is PRESUMED). -/
def prbsBits : Nat → BitVec 58 → BitVec 58 × List Bool
  | 0, r => (r, [])
  | n + 1, r =>
    let r := if r.setWidth 31 = 0 then 1 else r
    let b := r.getLsbD 27 != r.getLsbD 30
    let (e, l) := prbsBits n (r.shiftConcat b)
    (e, b :: l)

/-- The run at the end of a line, after bits that are sent as they are (R330). -/
def runAfter (run : Bool × Nat) (l : List Bool) : Bool × Nat :=
  l.foldl (fun (r : Bool × Nat) b => (b, if b = r.1 then r.2 + 1 else 1)) run

/-- One lane's block on the wire: its header and scrambled payload, stuffed, inverted where set; a lane under PRBS sends
that in place of blocks, and a lane in far-end loopback the bits it has received, unchanged (R327 to R330, R342). -/
def laneSerial (s : State) (g i : Nat) (filler : Bool) (d : BitVec 256) (scr : BitVec 58) (run : Bool × Nat) :
    BitVec 58 × (Bool × Nat) × List Bool :=
  let cfg := laneCfg s (17 * g + i)
  let (scr2, p) := throughBits scrambleBit scr (payloadBits d)
  let raw := bitsOf [if filler then 0x5A else 0xA5] ++ p
  let flip (l : List Bool) : List Bool := if tbit cfg 63 then l.map (!·) else l
  if tbit cfg 58 then
    let (r, l) := prbsBits 264 scr
    (r, runAfter run l, flip l)
  else if bits cfg 61 60 = 2 then
    let l := (s.lane (17 * g + i)).echo
    (scr, runAfter run l, l)
  else
    let (run2, l) := stuffBits run raw
    (scr2, run2, flip l)

/-- A lane after its group has sent a row: bits for far-end loopback are gone, and in near-end loopback its receiver has
taken what it sent (R342). -/
def looped (s : State) (n : Nat) (sent : List Bool) : Lane :=
  let x := { s.lane n with echo := [] }
  let cfg := laneCfg s n
  if x.state = .test ∧ bits cfg 61 60 = 1 then
    let (r, e) := prbsErrors x.scr (if tbit cfg 62 then sent.map (!·) else sent)
    { x with scr := r, signal := true }.count 7 (if tbit cfg 59 then e else 0)
  else x

/-- The first row of a multi-frame, with AIR_SEC and AIR_NS the instant at which its marker enters the lanes, and its CRC
(R350). Its blocks D0 and D1 are bytes 0 to 63 of BF0. -/
def stampRow (now : Nat) (row : List (BitVec 256)) : List (BitVec 256) :=
  let b := beBytes 32 (row.getD 0 0).toNat ++ beBytes 32 (row.getD 1 0).toNat
  let h := slice b 4 8 ++ beBytes 6 (now / secNs) ++ beBytes 4 (now % secNs) ++ slice b 22 40
  let b := b.take 4 ++ h ++ beBytes 2 (crc16 h).toNat
  (row.set 0 (BitVec.ofNat 256 (beNat (b.take 32)))).set 1 (BitVec.ofNat 256 (beNat (b.drop 32)))

/-- A row begins a multi-frame: the first of 64, with BFN 0. -/
def beginsMf (rows : List (List (BitVec 256))) : Bool :=
  decide (rows.length = 64) && decide (bits ((rows.headD []).getD 0 0).toNat 223 216 = 0)

/-- R329: at a row boundary the group sends the next data row with its parity, or a filler row. -/
def execLaneRowTransmit (group : Nat) (s : State) : Res :=
  onUnit group 4 <|
    if !groupOn s group then done s
    else
      let x := s.link group
      let cnt := x.txBlockCount + 1
      let (filler, row, rest) := match x.txRows with
        | r :: t => if 16383 ≤ x.txSinceFiller then (true, [], x.txRows)
          else (false, if beginsMf x.txRows then stampRow s.time.now r else r, t)
        | [] => (true, [], [])
      let parity := row.foldl (fun (v : BitVec 256) p => v ^^^ p) 0
      let lanes := (List.range 17).map fun i =>
        let own := filler || laneRetired s (17 * group + i)
        laneSerial s group i own (if own then fillerPayload cnt i group else if i = 16 then parity else row.getD i 0)
          (x.txScr.getD i 0) (x.txRuns.getD i (false, 0))
      let y := { x with
        txRows := rest, txBlockCount := cnt % 2 ^ 32, txSinceFiller := if filler then 0 else x.txSinceFiller + 1
        txScr := lanes.map (·.1), txRuns := lanes.map (·.2.1) }
      let t := lanes.zipIdx.foldl (fun (t : State) l =>
        t.setLane (17 * group + l.2) (looped s (17 * group + l.2) l.1.2.2)) s
      let t := t.setLink group y
      let t := if !filler && beginsMf x.txRows then
          let h := (row.getD 0 0).toNat
          t.emit (.header group (bits h 191 160) s.time.now (tbit h 79)) else t
      done (t.emit (.row group filler (lanes.map (·.2.2))))

end Sys2Proof.Machine
end

