-- ==== Sys2Proof/Machine/Radio.lean ====
section
/-!
DEFINITION. Links: their status and defects, and the management channel with the polling of radio units (R359, R368 to
R370, R374, R377, R514, R515).
-/
namespace Sys2Proof.Machine

/-! ## Link status and defects (R359, R377) -/

/-- LINK_CONFIG ENABLE (R375). -/
def linkEnabled (s : State) (g : Nat) : Bool := tbit (linkCfg s g) 127

/-- A LINK_STATUS record as a number of 128 bits (R377). -/
def linkStatusNat (x : Link) : Nat :=
  x.framer % 4 * 2 ^ 126 + x.defects % 64 * 2 ^ 120 + b2n x.rdiSent * 2 ^ 119 + b2n x.airTimeErr * 2 ^ 118
    + x.mfNum % 2 ^ 32 * 2 ^ 80 + x.phase % 64 * 2 ^ 74 + unsgn 32 x.delay * 2 ^ 32

/-- A declared defect: 5 LOS, 4 LOF, 3 LOM, 2 AIS, 1 RDI, 0 DEG (R377). -/
def Link.declared (x : Link) (d : Nat) : Bool := tbit x.defects d

/-- Lanes of a group that detect no signal (R359). -/
def darkLanes (s : State) (g : Nat) : Nat := ((groupLanes g).filter fun n => !(s.lane n).signal).length

/-- The set condition of LOS, LOF or LOM holds; each clear condition is its opposite (R359). -/
def defectHolds (s : State) (g d : Nat) : Bool :=
  let x := s.link g
  match d with
  | 5 => decide (2 ≤ darkLanes s g)
  | 4 => decide (x.framer = 1)
  | _ => decide (x.framer ≠ 3)

/-- Note since when the conditions that would change LOS, LOF and LOM have held (R359). -/
def trackDefects (s : State) (g : Nat) : State :=
  let x := s.link g
  if x.framer = 0 then s
  else
    let since := [3, 4, 5].foldl (fun (m : List (Nat × Nat)) d =>
      if defectHolds s g d != x.declared d then kset m d ((kget m d).getD s.time.now) else kdel m d) x.condSince
    s.setLink g { x with condSince := since }

/-- Every link's conditions (R359). -/
def trackAllDefects (s : State) : State := (List.range 4).foldl trackDefects s

/-- Keys of the set and clear times of a defect (R374). -/
def defectKeys (d : Nat) : Nat × Nat :=
  match d with
  | 5 => (keyLosSet, keyLosClear) | 4 => (keyLofSet, keyLofClear) | 3 => (keyLomSet, keyLomClear)
  | 2 => (keyAisSet, keyAisClear) | 1 => (keyRdiSet, keyRdiClear) | _ => (keyDegSet, keyDegClear)

/-- The condition to declare (set) or clear a defect has held for its time (R359). -/
def defectDue (s : State) (g d : Nat) (set : Bool) : Bool :=
  let x := s.link g
  let n := s.oval (if set then (defectKeys d).1 else (defectKeys d).2)
  let framed := !x.declared 4 && !x.declared 3
  x.framer != 0 && decide (x.declared d ≠ set) &&
    (match d with
     | 0 => decide (n ≤ if set then x.badSecs else x.goodSecs)
     | 1 => framed && decide (x.lastRdi = set) && decide (n ≤ x.rdiRun)
     | 2 => framed && decide (x.lastAis = set) && decide (n ≤ x.aisRun)
     | _ => match kget x.condSince d with
       | some t => decide (t + n * usNs ≤ s.time.now)
       | none => false)

/-- A defect is declared or cleared: LINK_STATUS and an EVENT (R359). -/
def setDefect (s : State) (g d : Nat) (set : Bool) : State :=
  let x := s.link g
  let y := { x with defects := if set then x.defects + 2 ^ d else x.defects - 2 ^ d, condSince := kdel x.condSince d }
  let t := trackDefects (s.setLink g y) g
  raiseEvent t keyLinkStatus (16 * g) (beBytes 16 (linkStatusNat (t.link g)))

/-- R359: a defect's set condition has held for its set time. -/
def execDefectSet (link defect : Nat) (s : State) : Res :=
  onUnit link 4 (onUnit defect 6 (whenSt (defectDue s link defect true) s (setDefect s link defect true)))

/-- R359: a defect's clear condition has held for its clear time. -/
def execDefectClear (link defect : Nat) (s : State) : Res :=
  onUnit link 4 (onUnit defect 6 (whenSt (defectDue s link defect false) s (setDefect s link defect false)))

/-! ## The management channel (R368 to R370) -/

/-- Bytes of a message with its CRC-16 (R369). -/
def mcSeal (b : List Byte) : List Byte := b ++ beBytes 2 (crc16 b).toNat

/-- A READ request is queued on the link (R369, R370). -/
def mcSend (s : State) (g : Nat) (r : McReq) : State :=
  let x := s.link g
  let b := mcSeal (leBytes 1 0x01 ++ beBytes 2 r.tid ++ beBytes 2 r.index ++ beBytes 1 r.sub)
  (s.setLink g { x with mcReq := some { r with sentAt := s.time.now }, mcTx := b, mcTxMid := false }).emit
    (.mc g r.tid r.index r.sub)

/-- The device's next request on a link. -/
def mcRequest (s : State) (g index sub : Nat) : State :=
  let x := s.link g
  mcSend (s.setLink g { x with mcNextTid := (x.mcNextTid + 1) % 65536 }) g
    { tid := x.mcNextTid, index, sub, sentAt := s.time.now, tries := 0 }

/-! ## Radio units (R514, R515) -/

/-- Objects read of a radio unit, in order (R514). -/
def ruObjects : List (Nat × Nat) := [(0x1000, 1), (0x1000, 5), (0xC800, 1), (0xC800, 2), (0xC800, 3)]

/-- State of a link's radio unit. -/
def State.ru (s : State) (g : Nat) : RuState := kgetD s.opt.rus g RuState.init

/-- Replace the state of a link's radio unit. -/
def State.setRu (s : State) (g : Nat) (x : RuState) : State := { s with opt := { s.opt with rus := kset s.opt.rus g x } }

/-- Days since the origin of R435 (R511). -/
def today (s : State) : Nat := s.time.now / secNs / 86400

/-- An RU_STATE record (R515). -/
def ruBytes (x : RuState) : List Byte :=
  leBytes 8 x.serial ++ leBytes 4 x.hours ++ leBytes 2 (unsgn 16 x.temp) ++ leBytes 2 0 ++ leBytes 4 x.replaceBy
    ++ leBytes 4 x.readDay ++ leBytes 8 0

/-- What a response says of the object being read; an optional object answered NO_OBJECT is unknown (R514). -/
def ruTake (x : RuState) (step status : Nat) (v : List Byte) : RuState :=
  if status ≠ 0 then (match step with | 3 => { x with temp := 0 } | 4 => { x with replaceBy := 0 } | _ => x)
  else match step with
    | 1 => { x with serial := beNat v % 2 ^ 64 }
    | 2 => { x with hours := beNat v % 2 ^ 32 }
    | 3 => { x with temp := sgn 16 (beNat v % 2 ^ 16) }
    | 4 => { x with replaceBy := beNat v % 2 ^ 32 }
    | _ => x

/-- A poll goes on to its next object, or ends (R514). -/
def ruNext (s : State) (g step : Nat) : State :=
  match ruObjects[step]? with
  | some (i, b) => mcRequest (s.setRu g { s.ru g with step := some step }) g i b
  | none => s.setRu g { s.ru g with step := none, readDay := today s }

/-- A response arrives for a poll (R514). -/
def ruAnswer (s : State) (g status : Nat) (v : List Byte) : State :=
  let x := s.ru g
  match x.step with
  | none => s
  | some n =>
    let y := ruTake x n status v
    let t := s.setRu g y
    let t := if n = 1 ∧ y.serial ≠ x.serial ∧ x.serial ≠ 0 then raiseEvent t keyRuState (32 * g) (ruBytes y) else t
    ruNext t g (n + 1)

/-- R514: RU_POLL passes, or the framer has first reached SYNC, and the radio unit is read. -/
def execRuPoll (link : Nat) (s : State) : Res :=
  onUnit link 4 <|
    let x := s.link link
    let due := match kget s.opt.rus link with
      | none => true
      | some r => r.step.isNone && decide (r.lastPoll + s.oval keyRuPoll * secNs ≤ s.time.now)
    whenSt (decide (x.framer = 3) && x.mcReq.isNone && due && s.sv.switching.isNone) s
      (ruNext (s.setRu link { s.ru link with lastPoll := s.time.now }) link 0)

/-- A response is well formed: STATUS, LEN and that many value bytes (R369). -/
def mcResponse (b : List Byte) : Option (Nat × Nat × List Byte) :=
  let n := leNat (slice b 4 1)
  if leNat (b.take 1) = 0x81 ∧ b.length = 7 + n ∧ n ≤ 64 then some (beNat (slice b 1 2), leNat (slice b 3 1), slice b 5 n)
  else none

/-- A message is received whole from the radio unit (R369). -/
def mcReceive (s : State) (g : Nat) (b : List Byte) : State :=
  let bad := bumpLink s g 13 1
  if b.length < 3 ∨ crc16 (b.take (b.length - 2)) ≠ BitVec.ofNat 16 (beNat (b.drop (b.length - 2))) then bad
  else match mcResponse b with
    | none => if leNat (b.take 1) = 0x01 then s else bad
    | some (tid, status, v) =>
      let x := s.link g
      match x.mcReq with
      | some r =>
        if r.tid = tid then ruAnswer (s.setLink g { x with mcReq := none, mcTx := [], mcTxMid := false }) g status v else bad
      | none => bad

/-- What a link carries is taken: the framer is in SYNC, the latest valid header had AIS 0 and AIR_TIME_ERR is clear (R361). -/
def payloadOpen (x : Link) : Bool := decide (x.framer = 3) && !x.lastAis && !x.airTimeErr

/-- R369: a management-channel message is received. -/
def execMcMessageReceived (link : Nat) (bytes : List Byte) (s : State) : Res :=
  onUnit link 4 (whenSt (payloadOpen (s.link link)) s (mcReceive s link bytes))

/-- R370: a request has no response within MC_TIMEOUT: retried, or reported as TIMEOUT, which ends the poll. -/
def execMcTimeout (link : Nat) (s : State) : Res :=
  onUnit link 4 <|
    let x := s.link link
    match x.mcReq with
    | none => done s
    | some r =>
      whenSt (decide (r.sentAt + s.oval keyMcTimeout * usNs ≤ s.time.now)) s
        (if r.tries < s.oval keyMcRetries then mcSend s link { r with tries := r.tries + 1 }
         else
           let t := s.setLink link { x with mcReq := none, mcTx := [], mcTxMid := false }
           t.setRu link { t.ru link with step := none })

end Sys2Proof.Machine
end

