-- ==== Sys2Proof/Machine/Settings.lean ====
section
/-!
DEFINITION. Writes of queues, pools, the result store, cells, policy values and addresses (R32, R33, R102, R108 to R112,
R115, R119, R137, R139, R146, R150, R151, R171, R177, R379, R382, R422, R461).
-/
namespace Sys2Proof.Machine

/-- Record i of n bytes as it would stand after a write, from the number it is now (R470). -/
def recWith (w : WReq) (cur n i : Nat) : Nat :=
  beNat ((List.range n).map fun j =>
    let o := n * i + j
    if w.off ≤ o ∧ o < w.off + w.data.length then w.data.getD (o - w.off) 0 else BitVec.ofNat 8 (recByte n cur j))

/-! ## Queues (R108, R110) -/

/-- A QUEUE_CONFIG record (R110). -/
def queueCfgNat (x : Queue) : Nat :=
  b2n x.enable * 2 ^ 127 + x.homePort % 2 * 2 ^ 126 + x.resultSlots % 8 * 2 ^ 120 + x.depth % 65536 * 2 ^ 96 + x.unitsMax % 2 ^ 32 * 2 ^ 64

/-- Fields of a QUEUE_CONFIG record that the table bounds are within their ranges (R110). -/
def queueCfgOk (v : Nat) : Bool :=
  decide (bits v 122 120 ≤ 4) && decide (1 ≤ bits v 111 96) && decide (bits v 111 96 ≤ 32768)
    && decide (1 ≤ bits v 95 64) && decide (bits v 95 64 ≤ 1048576)

/-- A queue has an unretired job or part of a job in the ingress buffer (R108). -/
def queueBusy (s : State) (q : Nat) : Bool :=
  (s.jobs.any fun j => decide (j.qn = q)) || s.asms.any fun a => decide (a.1.1 = q)

/-- Set the record of one queue. Credit already granted keeps its reservation at the new number of result slots; a new
home port, and the home port of a queue that is enabled, becomes the active one when it is up (R104). -/
def setQueueCfg (s : State) (q v : Nat) : State :=
  let x := s.queue q
  let credit := (x.creditSeq - x.nextSeq).toNat
  let slots := bits v 122 120
  let home := bits v 126 126
  let active := if x.enable && decide (home = x.homePort) then x.activePort else if portUp s home then home else 1 - home
  { s.setQueue q { x with
      enable := tbit v 127, homePort := home, resultSlots := slots, depth := bits v 111 96, unitsMax := bits v 95 64
      activePort := active } with
    rReserved := s.rReserved + credit * slots - credit * x.resultSlots }

/-- QUEUE_CONFIG (R108, R110). -/
def applyQueueConfig (s : State) (w : WReq) : Applied :=
  let qs := (touched w 16).map fun q => (q, recWith w (queueCfgNat (s.queue q)) 16 q)
  if qs.any fun x => !queueCfgOk x.2 then fails s csRange
  else if qs.any fun x => (s.queue x.1).enable && !tbit x.2 127 && queueBusy s x.1 then fails s csConflict
  else ifFlash s w (qs.foldl (fun t x => setQueueCfg t x.1 x.2) s)

/-- The state of R107, enabled; what its credit reserved is released, and the credit values go out (R92, R94, R108). -/
def resetQueueState (s : State) (q : Nat) : State :=
  let x := s.queue q
  let credit := (x.creditSeq - x.nextSeq).toNat
  let units := (x.creditUnits + 2 ^ 40 - x.acceptedUnits) % 2 ^ 40
  sendCredit { s.setQueue q { x with
      enable := true, nextSeq := 0, creditSeq := 0, releasedSeq := 0xFFFFFFFF, ackSeq := 0xFFFFFFFF, acceptedUnits := 0
      creditUnits := 0, pendingRec := none, retxDue := 0, retxInterval := 0, retxHalted := none, lastResend := none
      toSend := [], resends := []
      activePort := if x.enable then x.activePort else if portUp s x.homePort then x.homePort else 1 - x.homePort } with
    jReserved := s.jReserved - 2 * credit, rReserved := s.rReserved - credit * x.resultSlots
    iReserved := s.iReserved - 64 * credit - 64 * units } q

/-- QUEUE_RESET (R108). -/
def applyQueueReset (s : State) (w : WReq) : Applied :=
  if w.val / 4096 ≠ 8 then fails s csRange
  else if queueBusy s (w.val % 4096) then fails s csConflict
  else (csOk, resetQueueState (storeVal s w) (w.val % 4096))

/-! ## Pools (R32, R33, R102, R171, R379, R422) -/

/-- An accepted, unretired job names a pool. -/
def poolInUse (s : State) (p : Nat) : Bool :=
  s.jobs.any fun j =>
    ((j.desc.inH ++ j.desc.outH).any fun h => decide (h ≠ 0) && decide (hPool h = p)) ||
      (let h := harqHandle (jobGraph s j) j.desc; decide (h ≠ 0) && decide (hPool h = p))

/-- Bytes of a pool's physical buffers. -/
def poolBytes (s : State) (p : Nat) : Nat := poolPhys s p * (poolCfg s p).size

/-- The buffers of a pool lie within its memory, in the state as it will stand (R32, R102, R379). -/
def poolFits (s : State) (p : Nat) : Bool :=
  let c := poolCfg s p
  let n := poolBytes s p
  let clusterOk := decide (c.cluster < nClusters s.part.variant)
  match poolMemory p with
  | 1 => n = 0 || decide (c.base + n ≤ resultBase s (s.oval keyResultStoreBytes))
  | 3 => n = 0 || (decide (c.base + n ≤ 0x10000000) &&
      (List.range (poolPhys s p)).all fun i =>
        decide ((c.base + i * c.size) / 0x4000000 = (c.base + i * c.size + c.size - 1) / 0x4000000))
  | 4 => clusterOk && (n = 0 || decide (c.base + n ≤ 0x800000))
  | 5 => clusterOk && (n = 0 || decide (c.base + n ≤ 0x40000))
  | _ => false

/-- A buffer of the pool would lie in a retired region (R171). -/
def poolRetired (s : State) (p : Nat) : Bool :=
  let c := poolCfg s p
  let n := poolBytes s p
  let a := physAddr s p 0
  n ≠ 0 && match poolMemory p with
    | 1 => (List.range (nSubs s)).any fun i => decide (s.regState (regSub i) = 2) && rangeInSub s a n i
    | 3 => (List.range 4).any fun q => decide (s.regState (regQuarter q) = 2) &&
        decide (quarterOf a ≤ q) && decide (q ≤ quarterOf (a + n - 1))
    | 4 => decide (s.regState (regIsland c.cluster) = 2) || (List.range 32).any fun b =>
        decide (s.regState (regBank c.cluster b) = 2) && decide (c.base / 0x40000 ≤ b) && decide (b ≤ (c.base + n - 1) / 0x40000)
    | 5 => decide (s.regState (regIsland c.cluster) = 2) || decide (s.regState (regCore (36 * c.cluster)) = 2)
    | _ => false

/-- A pool starts anew: no version, no map entry, its buffers unused and zero. DRAM is filled over a time (R33, R422). -/
def freshPool (s : State) (p : Nat) : State :=
  let hs : List (Nat × Nat) := s.hmap.filter fun x => decide (hPool x.1 ≠ p)
  let vs : List (Nat × Version) := s.vers.filter fun x => decide (hPool x.2.handle ≠ p)
  let fs : List (Nat × FhVersion) := s.fh.vers.filter fun x => decide (x.2.pool ≠ p)
  let t := { s with hmap := hs, vers := vs, pools := kdel s.pools p, fh := { s.fh with vers := fs } }
  let n := poolBytes t p
  if n = 0 then t
  else if poolMemory p = 1 ∨ poolMemory p = 2 then
    { t with mem := { t.mem with fills := t.mem.fills ++ [(p, physAddr t p 0, n)] } }
  else zeroRange t (physAddr t p 0) n

/-- A pool is being filled, so the write that filled it is answered later (R422). -/
def fillAnswer (s : State) (p : Nat) : Nat := if poolFilling s p then csWait else csOk

/-- Pool objects, subindexes 02 to 06 (R32). -/
def applyPoolConfig (s : State) (w : WReq) : Applied :=
  let p := w.key / 256 - 0x4300
  let sub := w.key % 256
  let t := storeVal s w
  if p = 0x7F then fails s csDenied
  else if (sub = 2 ∧ w.val % 64 ≠ 0) ∨ (sub = 3 ∧ 16777216 < w.val)
      ∨ (sub = 6 ∧ nClusters s.part.variant ≤ w.val) ∨ poolFits t p = false ∨ poolRetired t p then fails s csRange
  else if poolInUse s p then fails s csConflict
  else if flashFails w then fails s csTimeout
  else
    let u := freshPool t p
    (fillAnswer u p, u)

/-- RESULT_STORE_BYTES, RESULT_BUF_SIZE and RESULT_HANDLES (R102, R109). -/
def applyResultStore (s : State) (w : WReq) : Applied :=
  let t := storeVal s w
  let bytes := t.oval keyResultStoreBytes
  let size := t.oval keyResultBufSize
  let handles := t.oval keyResultHandles
  let base := resultBase t bytes
  let hits := ((List.range 0x7E).map (· + 1)).any fun p =>
    decide (poolBytes t p ≠ 0) && decide (base < (poolCfg t p).base + poolBytes t p)
  if bytes < 2 ^ 30 ∨ 2 ^ 36 < bytes ∨ size < 4096 ∨ 16777216 < size ∨ size &&& (size - 1) ≠ 0 ∨ bytes % size ≠ 0
      ∨ handles < 1 ∨ bytes / size < 2 * handles ∨ dramCapacity t < dramReserved t + bytes ∨ hits then fails s csRange
  else if poolInUse s 0x7F then fails s csConflict
  else if flashFails w then fails s csTimeout
  else
    let u := freshPool t 0x7F
    (fillAnswer u 0x7F, u)

/-! ## Cells (R115, R119, R150, R151) -/

/-- A CELL_CONFIG record (R115). -/
def cellNat (x : CellCfg) : Nat :=
  b2n x.enable * 2 ^ 255 + x.kind % 8 * 2 ^ 252 + b2n x.migratable * 2 ^ 251 + b2n x.halo * 2 ^ 250 + x.home % 256 * 2 ^ 240
    + x.horizon % 256 * 2 ^ 232 + x.slotNs % 2 ^ 32 * 2 ^ 192 + x.epochPeriod % 2 ^ 32 * 2 ^ 160
    + x.epochOffset % 2 ^ 64 * 2 ^ 96 + x.gBudget % 2 ^ 32 * 2 ^ 64

/-- The record that a number spells. -/
def cellOf (v : Nat) : CellCfg :=
  { enable := tbit v 255, kind := bits v 254 252, migratable := tbit v 251, halo := tbit v 250, home := bits v 247 240
    horizon := bits v 239 232, slotNs := bits v 223 192, epochPeriod := bits v 191 160, epochOffset := bits v 159 96
    gBudget := bits v 95 64 }

/-- Every field is within its range (R115, R119). -/
def cellOk (s : State) (x : CellCfg) : Bool :=
  decide (x.kind ≤ 3) && decide (x.home < nClusters s.part.variant) && decide (x.horizon ≤ 16) && decide (10000 ≤ x.slotNs)
    && decide (x.slotNs ≤ 250000000) && decide (1000 ≤ x.epochPeriod) && decide (x.epochPeriod ≤ 34359738)
    && decide (x.epochOffset < x.epochPeriod * 1000)

/-- An accepted, unretired job names a cell. -/
def cellNamed (s : State) (c : Nat) : Bool := s.jobs.any fun j => decide (j.desc.cell = c)

/-- A field other than G_BUDGET and MIGRATABLE changes (R119). -/
def cellChanges (a b : CellCfg) : Bool := decide ({ a with gBudget := b.gBudget, migratable := b.migratable } ≠ b)

/-- The record of a cell replaced: an enabled cell whose home moves away from its cluster migrates there, a cell newly
enabled is placed at its home, and a disabled one leaves (R119). -/
def putCell (s : State) (c : Nat) (x : CellCfg) : State :=
  let old := s.cell c
  let st := s.cellState c
  let t := { s with cellCfg := kset s.cellCfg c x }
  if !x.enable then t.setCellSt c { st with migration := none, cluster := x.home }
  else if !old.enable then t.setCellSt c { st with migration := none, cluster := x.home }
  else if x.home ≠ old.home ∧ x.home ≠ st.cluster then startMigration (t.setCellSt c st) c x.home 5
  else t.setCellSt c st

/-- HOME_CLUSTER of an enabled cell changes. -/
def homeMoves (s : State) (c : Nat) (x : CellCfg) : Bool := (s.cell c).enable && decide (x.home ≠ (s.cell c).home)

/-- A write starts a migration of an enabled cell to its new home, which R139 does not allow: the home is out of service, or
the cell has HALO set and the home's shadow cluster would fail. -/
def homeBarred (s : State) (c : Nat) (x : CellCfg) : Bool :=
  homeMoves s c x && x.enable && decide (x.home ≠ (s.cellState c).cluster)
    && !(clusterUp s x.home && haloFits { s with cellCfg := kset s.cellCfg c x } c x.home)

/-- CELL_CONFIG (R119, R177). -/
def applyCellConfig (s : State) (w : WReq) : Applied :=
  let cs := (touched w 32).map fun c => (c, cellOf (recWith w (cellNat (s.cell c)) 32 c))
  let t := cs.foldl (fun (t : State) x => putCell t x.1 x.2) s
  let k := List.range (nClusters s.part.variant)
  if cs.any fun x => !cellOk s x.2 then fails s csRange
  else if cs.any (fun x => cellChanges (s.cell x.1) x.2 && cellNamed s x.1)
      || cs.any (fun x => homeMoves s x.1 x.2 && (s.cellState x.1).migration.isSome)
      || cs.any (fun x => homeBarred s x.1 x.2) || (cs.any (fun x => homeMoves s x.1 x.2) && decide (4 < nMigrating t))
      || k.any (fun k => cellCheck s k && !cellCheck t k) then fails s csConflict
  else ifFlash s w (cs.foldl (fun (t : State) x => mirrorPut t (cellMarker x.1 x.2)) t)

/-- MIGRATE_CMD (R151). -/
def applyMigrateCmd (s : State) (w : WReq) : Applied :=
  let c := w.val % 4096
  let k := bits w.val 19 16
  let t := startMigration s c k 5
  if !(s.cell c).enable || c = 4095 || nClusters s.part.variant ≤ k then fails s csRange
  else if (s.cellState c).migration.isSome || decide (4 ≤ nMigrating s) || !eligible s c k 5 then fails s csConflict
  else (csOk, storeVal t w)

/-- ADMIT_PROBE (R150). -/
def applyAdmitProbe (s : State) (w : WReq) : Applied :=
  let v := newRec s w 34 0
  let c := bits v 271 256
  let x := cellOf v
  if 4094 < c then fails s csRange
  else
    let u := storeDom s w
    if !cellOk s x then (csOk, u.setOval keyProbeResult 2)
    else
      let t := cellAt { s with cellCfg := kset s.cellCfg c x } c x.home
      let room := headroom t x.home / (32768 * 1000000)
      (csOk, (u.setOval keyProbeResult (b2n (!cellCheck t x.home))).setOval keyProbeHeadroom (unsgn 32 room))

/-! ## Learned budgets (R137) -/

/-- Tasks of every loaded graph, in the order of KERNEL_TABLE. -/
def kernelTasks (s : State) : List (Nat × Nat × TaskDef) :=
  s.graphs.flatMap fun (x : Nat × Graph) => x.2.tasks.zipIdx.map fun d => (x.1, d.2, d.1)

/-- A KERNEL_TABLE record (R137). -/
def kernelRec (s : State) (x : Nat × Nat × TaskDef) : Nat :=
  let b := s.budget x.1 x.2.1
  x.1 % 65536 * 2 ^ 112 + x.2.1 % 256 * 2 ^ 104 + b2n b.valid * 2 ^ 96 + b.learned % 2 ^ 32 * 2 ^ 64
    + x.2.2.static % 2 ^ 32 * 2 ^ 32 + b.samples % 2 ^ 32

/-- KERNEL_TABLE: the records written name their tasks; others are ignored (R137). -/
def applyKernelTable (s : State) (w : WReq) : Applied :=
  let ts := kernelTasks s
  (csOk, (touched w 16).foldl (fun (t : State) i =>
    let v := recWith w ((ts[i]?.map (kernelRec s)).getD 0) 16 i
    let g := bits v 127 112
    let n := bits v 111 104
    if ts.any fun x => decide (x.1 = g) && decide (x.2.1 = n) then
      { t with budgets := kset t.budgets (g * 256 + n) { t.budget g n with learned := bits v 95 64, valid := tbit v 96 } }
    else t) s)

/-! ## Policy (R146, R147) -/

/-- A stored bit pattern as the number its type stands for. -/
def tyInt (ty : ObjTy) (v : Nat) : Int :=
  match ty with
  | .i16 | .fix16 => sgn 16 v
  | .i32 => sgn 32 v
  | _ => v

/-- The number that an object of the dictionary holds. -/
def numOf (s : State) (k : Nat) : Int :=
  match objRow (k / 256) (k % 256) with
  | some r => tyInt r.ty (s.oval k)
  | none => s.oval k

/-- A value of policy object ss lies within bounds; those of MIGRATE_ENABLE are masks (R146). -/
def withinBounds (ss : Nat) (v lo hi : Int) : Bool :=
  if ss = 0x0F then decide (lo.toNat &&& v.toNat = lo.toNat) && decide (v.toNat &&& hi.toNat = v.toNat)
  else decide (lo ≤ v) && decide (v ≤ hi)

/-- A policy value (R146). -/
def applyPolicy (s : State) (w : WReq) : Applied :=
  let ss := w.key % 256
  let t := storeVal s w
  if withinBounds ss (numOf t w.key) (numOf s (okey 0x5001 ss)) (numOf s (okey 0x5002 ss)) then ifFlash s w t
  else fails s csRange

/-- An installer bound of a policy value: within the range of the value, and not above its fellow (R146, R147). -/
def applyPolicyBound (s : State) (w : WReq) : Applied :=
  let ss := w.key % 256
  let t := storeVal s w
  let lo := numOf t (okey 0x5001 ss)
  let hi := numOf t (okey 0x5002 ss)
  let crossed := if ss = 0x0F then decide (lo.toNat &&& hi.toNat ≠ lo.toNat) else decide (hi < lo)
  let inRange := match objRow 0x5000 ss with
    | some r => decide (r.lo ≤ numOf t w.key) && decide (numOf t w.key ≤ r.hi)
    | none => false
  if crossed || !inRange then fails s csRange
  else if !withinBounds ss (numOf s (okey 0x5000 ss)) lo hi then fails s csConflict
  else ifFlash s w t

/-! ## Carriers and addresses (R109, R112, R177, R461) -/

/-- The EtherTypes of R461 that no carrier may take. -/
def protocolEtypes : List Nat := [0x0800, 0x0806, 0x86DD, 0x8100, 0x88A8, 0x8808, 0x88F7, 0xAEFE]

/-- CLEIP_ETYPE and TRANSPORT_ETYPE (R461). -/
def applyEtype (s : State) (w : WReq) : Applied :=
  let other := if w.key = keyCleipEtype then keyTransportEtype else keyCleipEtype
  if protocolEtypes.contains w.val || decide (w.val = s.oval other) then fails s csRange else ifFlash s w (storeVal s w)

/-- CLEIP_UDP, TRANSPORT_UDP and ECPRI_UDP (R461). -/
def applyUdp (s : State) (w : WReq) : Applied :=
  if [keyCleipUdp, keyTransportUdp, keyEcpriUdp].any fun k => decide (k ≠ w.key) && decide (s.oval k = w.val) then
    fails s csRange
  else ifFlash s w (storeVal s w)

/-- TRANSPORT_PCP: a pause that was sent is withdrawn and sent for the new priority (R95); timers, and what waited for the old
priority, follow the pauses of the new one (R96). -/
def applyTransportPcp (s : State) (w : WReq) : Applied :=
  let moved (t : State) (p : Nat) : State :=
    resumePort (if (s.port p).xoff then (t.emit (.pfc p (s.oval keyTransportPcp) false)).emit (.pfc p w.val true) else t) p
  ifFlash s w (if s.oval keyTransportPcp = w.val then s else moved (moved (storeVal s w) 0) 1)

/-- PORT_MAC: a unicast address of 48 bits (R112). The mirror stream is told (R177). -/
def applyPortMac (s : State) (w : WReq) : Applied :=
  if 2 ^ 48 ≤ w.val ∨ tbit w.val 40 then fails s csRange
  else ifFlash s w (mirrorPut (storeVal s w) (identityMarker (storeVal s w)))

/-- PORT_IPV4 and PORT_IPV6 (R112, R177). -/
def applyPortIp (s : State) (w : WReq) : Applied :=
  let t := if w.key % 256 = 3 then storeDom s w else storeVal s w
  ifFlash s w (mirrorPut t (identityMarker t))

/-- MIRROR_MODE: jobs held for an unreachable buddy are accepted UNMIRRORED once it is PREFERRED (R89, R177). -/
def applyMirrorMode (s : State) (w : WReq) : Applied :=
  let t := storeVal s w
  let t := if w.val = 0 ∧ buddyOn t ∧ t.mirrorTx.reachable = false then acceptUnmirrored t else t
  ifFlash s w (mirrorPut t (identityMarker t))

/-- ENGINE_SPARES: four counts of 0 to 4 (R191). -/
def applyEngineSpares (s : State) (w : WReq) : Applied :=
  if [w.val / 4096 % 16, w.val / 256 % 16, w.val / 16 % 16, w.val % 16].all fun n => decide (n ≤ 4) then ifFlash s w (storeVal s w)
  else fails s csRange

end Sys2Proof.Machine
end

