-- ==== Sys2Proof/Machine/Framing.lean ====
section
/-!
DEFINITION. What a link receives: basic frames, the framer, the scrambler, multi-frame headers, containers, the section
stream and the landing of sections and samples (R347 to R351, R354 to R358, R361, R362, R364 to R366, R368, R389).
-/
namespace Sys2Proof.Machine

/-! ## The scrambling sequence (R349) -/

/-- p(n) to p(n + 30), the earliest at bit 30, one place further on. -/
def scrNext (w : BitVec 31) : BitVec 31 := w.shiftConcat (w.getLsbD 27 != w.getLsbD 30)

/-- The sequence a number of places further on. -/
def scrSkip : Nat → BitVec 31 → BitVec 31
  | 0, w => w
  | n + 1, w => scrSkip n (scrNext w)

/-- The sequence at the first bit of byte 64 of a frame of the multi-frame. -/
def scrAtFrame (frame : Nat) : BitVec 31 := scrSkip (frame * 32704 * 8) (BitVec.allOnes 31)

/-- Bytes XORed with the sequence, the first bit of a byte its bit 7; an absent byte stays absent. -/
def scrambleBytes : BitVec 31 → List (Option Byte) → List (Option Byte)
  | _, [] => []
  | w, b :: r => (b.map fun v => v ^^^ (w.extractLsb' 23 8)) :: scrambleBytes (scrSkip 8 w) r

/-! ## Frames as bytes (R347, R348) -/

/-- A basic frame's bytes, row by row and lane by lane, none where the block was absent. -/
def frameBytes (rows : List (List (Option (BitVec 256)))) : List (Option Byte) :=
  rows.flatMap fun r => r.flatMap fun p =>
    match p with
    | none => List.replicate 32 none
    | some v => (List.range 32).map fun k => some (v.extractLsb' (8 * (31 - k)) 8)

/-- n bytes from an offset, zero where absent. -/
def heldBytes (l : List (Option Byte)) (off n : Nat) : List Byte := ((l.drop off).take n).map fun b => b.getD 0

/-- Every one of n bytes from an offset was received. -/
def allHeld (l : List (Option Byte)) (off n : Nat) : Bool := ((l.drop off).take n).all Option.isSome

/-- MARKER (R348). -/
abbrev marker : Nat := 0x6D2BF385

/-- The block of lane D0 of a row, when it carries a marker: its `BFN`. -/
def markerBfn (row : List (Option (BitVec 256))) : Option Nat :=
  match row.getD 0 none with
  | some v => if bits v.toNat 255 224 = marker then some (bits v.toNat 223 216) else none
  | none => none

/-- A multi-frame header: bytes 8 to 63 as a number of 448 bits (R350). -/
def mfHeader (l : List (Option Byte)) : Nat := beNat (heldBytes l 8 56)

/-- The header was received, its `CRC` passes and its `VERSION` is 1 (R350, R357). -/
def mfValid (l : List (Option Byte)) : Bool :=
  allHeld l 4 60 && decide (beNat (heldBytes l 62 2) = (crc16 (heldBytes l 4 58)).toNat)
    && decide (bits (mfHeader l) 331 328 = 1)

/-! ## The framer (R358) -/

/-- The framer returns to HUNT with every phase count clear. -/
def enterHunt (x : Link) : Link :=
  { x with framer := 1, phaseCounts := [], noMarker := 0, hdrFails := 0, framesNoBf0 := 0 }

/-- One row in HUNT: the count of its phase. -/
def huntRow (phase : Nat) (counts : List (Nat × Nat)) (row : List (Option (BitVec 256))) : List (Nat × Nat) :=
  if (markerBfn row).isSome then kset counts phase (kgetD counts phase 0 + 1) else kdel counts phase

/-- Rows in HUNT until a phase has counted three markers: the counts, and the place of that row among them. -/
def huntRows (phase : Nat) : List (Nat × Nat) → Nat → List (List (Option (BitVec 256))) → List (Nat × Nat) × Option Nat
  | c, _, [] => (c, none)
  | c, i, r :: l =>
    let c' := huntRow ((phase + i) % 64) c r
    if kgetD c' ((phase + i) % 64) 0 = 3 then (c', some i) else huntRows phase c' (i + 1) l

/-- 64 rows in HUNT. The frame whose marker is the third stays to be received in FRAME. -/
def huntFrame (x : Link) : Link :=
  let rows := (x.rx.take 64).map (·.2)
  match huntRows x.phase x.phaseCounts 0 rows with
  | (c, none) => { x with phaseCounts := c, rx := x.rx.drop 64 }
  | (_, some i) =>
    let y := enterHunt x
    { y with framer := 2, phase := (x.phase + i) % 64, ownCount := ((rows[i]?).bind markerBfn).getD 0, rx := x.rx.drop i }

/-- AIS and RDI of a valid header with the runs of R359, and the air time of R362: `DELAY` is the device time at which
row 0 was released less the header's time. -/
def noteHeader (s : State) (g released : Nat) (h : Nat) : State :=
  let x := s.link g
  let ais := tbit h 334
  let rdi := tbit h 335
  let air := bits h 415 368 * secNs + bits h 367 336
  let d : Int := (released : Int) - air
  let bad := decide (d < 0) || decide ((bits (linkCfg s g) 63 32 : Int) < d)
  let y := { x with
    mfNum := bits h 447 416, hdrAir := air, delay := d, airTimeErr := bad
    aisRun := if ais = x.lastAis then x.aisRun + 1 else 1
    rdiRun := if rdi = x.lastRdi then x.rdiRun + 1 else 1
    lastAis := ais, lastRdi := rdi }
  bumpLink (s.setLink g y) g 15 (b2n bad)

/-- BF0 of a multi-frame, in FRAME by its `BFN` and in SYNC by the own count (R358). -/
def bf0Frame (s : State) (g released : Nat) (l : List (Option Byte)) : State :=
  let valid := mfValid l
  let num := bits (mfHeader l) 447 416
  let s := if valid then noteHeader s g released (mfHeader l) else s
  let x := s.link g
  if x.framer = 2 then
    if valid then s.setLink g { x with framer := 3, expectMf := (num + 1) % 2 ^ 32, hdrFails := 0, framesNoBf0 := 0 }
    else if 1 ≤ x.hdrFails then s.setLink g (enterHunt x)
    else s.setLink g { x with hdrFails := 1, framesNoBf0 := 0 }
  else if valid && decide (num = x.expectMf) then s.setLink g { x with hdrFails := 0, expectMf := (x.expectMf + 1) % 2 ^ 32 }
  else
    let t := bumpLink s g 2 1
    let y := t.link g
    if 1 ≤ y.hdrFails then t.setLink g (enterHunt y)
    else t.setLink g { y with hdrFails := 1, expectMf := (y.expectMf + 1) % 2 ^ 32 }

/-- One frame in FRAME or SYNC: its marker, its number and, where it is one, its multi-frame header. -/
def framerStep (s : State) (g released : Nat) (bfn : Option Nat) (l : List (Option Byte)) : State :=
  let x := s.link g
  let t := bumpLink s g 0 (b2n (decide (bfn ≠ some x.ownCount)))
  let x := t.link g
  if bfn.isNone ∧ 3 ≤ x.noMarker then
    let u := bumpLink t g 1 1
    u.setLink g (enterHunt (u.link g))
  else
    let y := { x with noMarker := if bfn.isNone then x.noMarker + 1 else 0, ownCount := (x.ownCount + 1) % 256 }
    let u := t.setLink g y
    if (x.framer = 2 ∧ bfn = some 0) ∨ (x.framer = 3 ∧ x.ownCount = 0) then bf0Frame u g released l
    else if x.framer = 2 then
      if 511 ≤ x.framesNoBf0 then u.setLink g (enterHunt y) else u.setLink g { y with framesNoBf0 := x.framesNoBf0 + 1 }
    else u

/-! ## What a frame carries (R348, R351, R361, R368) -/

/-- The fronthaul has stopped with a block's vote in a Dusk to P3 (R518). -/
def fhStopped (s : State) (block : Nat) : Bool :=
  !s.serving || (decide (s.power.target = 3) && decide (s.power.phase = 1) && decide (block < s.power.block))

/-- One management slot (R368). -/
def mcSlot (s : State) (g : Nat) (b : List Byte) : State :=
  let c := leNat (b.take 1)
  let som := tbit c 7
  let x := s.link g
  if c = 0 then s
  else
    let s := if som && x.mcBuf.isSome then bumpLink s g 13 1 else s
    let x := s.link g
    let held : Option (List Byte) := if som then some [] else x.mcBuf
    match held with
    | none => s
    | some m =>
      let m := m ++ (b.drop 1).take (c % 8)
      if tbit c 6 then mcReceive (s.setLink g { x with mcBuf := none }) g m
      else s.setLink g { x with mcBuf := some m }

/-- Bytes of a container's area (R351). -/
def tdArea (c : Nat) : Nat := 5 + (tdBits c + 1 + 7) / 8

/-- The air time of a container's sample in the epoch nearest an instant, in ns rounded down (R351). -/
def sampleTime (s : State) (id n : Nat) (now : Int) : Int :=
  let c := tdCont s id
  let x := s.cell (tdCell c)
  let base : Int := x.epochOffset + (n * tdDen c * secNs / max 1 (tdNum c) : Nat)
  let k := (now - base) / x.period
  let d := base + k * x.period
  if d + x.period - now ≤ now - d then d + x.period else d

/-- Sealing instant of a version by kind, number and slot (R364). -/
def sealDue (s : State) (container : Bool) (id : Nat) (a : Int) : Int :=
  let cell := if container then tdCell (tdCont s id) else id
  let link := if container then id / 128 else fhLink (fhCell s id)
  slotEnd (s.cell cell) a + lateMax s link

/-- Data that came whole at an instant, the release of the row with its last byte, is late for its version: that is sealed, or
its sealing instant had come (R366, R389). -/
def sealedOut (s : State) (container : Bool) (id : Nat) (a : Int) (came : Nat) : Bool :=
  decide (sealDue s container id a ≤ (came : Int)) ||
    (match fhFind s container id a with | some (_, v) => v.sealed | none => false)

/-- A sample of 32 bits as it was sent, I first, laid down as R228 does. -/
def sampleBytes (v : Nat) : List Byte := leBytes 2 (v / 65536) ++ leBytes 2 (v % 65536)

/-- A sample that came whole at an instant lands in the version of its slot (R364, R366, R386, R387, R389). -/
def landSample (s : State) (id n v came : Nat) : State :=
  let c := tdCont s id
  let n := n % max 1 (samplesPerEpoch s id)
  let a := slotAt (s.cell (tdCell c)) (sampleTime s id n s.time.now)
  let r := sampleRange s id a
  if !tdRxEn c || !hasNbm s.part.variant || n < r.1 || r.1 + r.2 ≤ n then s
  else if sealedOut s true id a came then bumpLink s (id / 128) 10 1
  else
    let (t, k) := getFhv s true id a
    let t := takeFhBuf t k
    match kget t.fh.vers k with
    | none => t
    | some w => match fhvAddr t w with
      | none => t
      | some b =>
        if w.landed.contains (n - r.1) then t
        else setFhv (landBytes t (b + 64 + tdMapBytes r.2 + 4 * (n - r.1)) (sampleBytes v)) k
          { w with landed := w.landed ++ [n - r.1] }

/-- Whole samples leave a container's stream, whose bits stand each with the time it came, and land; a sample with an absent
bit counts as not received, and after the last of an epoch comes the first of the next (R357, R364). -/
def landSamples (s : State) (id : Nat) : Nat → Nat → List (Option Bool × Nat) → State × ContRx
  | 0, i, b => (s, { bits := b.map (·.1), index := i })
  | k + 1, i, b =>
    if b.length < 32 then (s, { bits := b.map (·.1), index := i })
    else
      let w := b.take 32
      let came := (w.getLast?.map (·.2)).getD 0
      let t := if w.all fun x => x.1.isSome then landSample s id i (bitsNum (w.map fun x => x.1.getD false)) came else s
      landSamples t id k ((i + 1) % max 1 (samplesPerEpoch s id)) (b.drop 32)

/-- The bits of received bytes, none where absent. -/
def heldBits (l : List (Option Byte)) : List (Option Bool) :=
  l.flatMap fun b => match b with
    | none => List.replicate 8 none
    | some v => (List.range 8).map fun i => some (v.getLsbD (7 - i))

/-- Bits of a frame from a byte on, each with the release time of its row of 512 bytes (R347, R389). -/
def timedBits (times : List Nat) (byte : Nat) (l : List (Option Bool)) : List (Option Bool × Nat) :=
  l.zipIdx.map fun x => (x.1, times.getD ((byte + x.2 / 8) / 512) 0)

/-- One container of a frame (R351). The bits before the first sample that begins in the frame end the sample in progress,
when so many were awaited. -/
def takeContainer (s : State) (g : Nat) (times : List Nat) (l : List (Option Byte)) (i : Nat) : State :=
  let id := 128 * g + i
  let c := tdCont s id
  let x := s.link g
  if !tdRxEn c || !hasNbm s.part.variant then s
  else
    let off := tdOffset c
    if !allHeld l off 5 then s.setLink g { x with containers := kdel x.containers i }
    else
      let phase := beNat (heldBytes l off 1) / 8
      let idx := beNat (heldBytes l (off + 1) 4)
      let ctl := (heldBits ((l.drop 64).take 48)).drop (3 * i) |>.take 3
      let stuff := decide (2 ≤ (ctl.filter fun b => decide (b = some true)).length)
      let data := (heldBits ((l.drop (off + 5)).take (tdArea c - 5))).take (tdBits c + if stuff then 0 else 1)
      let old := kget x.containers i
      let (start, head) : Nat × List (Option Bool) :=
        if phase = 0 then (idx, [])
        else match old with
          | some r => if r.bits.length + phase = 32 && decide ((r.index + 1) % max 1 (samplesPerEpoch s id) = idx) then (r.index, r.bits)
              else (idx - 1, List.replicate (32 - phase) none)
          | none => (idx - 1, List.replicate (32 - phase) none)
      let b := head.map (fun x => (x, 0)) ++ timedBits times (off + 5) data
      let (t, r) :=
        if phase = 0 || b.length < 32 then landSamples s id b.length start b
        else
          let (u, _) := landSamples s id 1 start (b.take 32)
          landSamples u id b.length idx (b.drop 32)
      t.setLink g { t.link g with containers := kset (t.link g).containers i r }

/-- The section area of a frame joins the stream, with the place that `SEC_PTR` names (R354, R357). -/
def takeStream (s : State) (g : Nat) (times : List Nat) (l : List (Option Byte)) : State :=
  let x := s.link g
  let start := bits (linkCfg s g) 111 96
  let area := l.drop start
  let ptr := beNat (heldBytes l 6 2)
  let named := allHeld l 6 2 && decide (ptr < area.length)
  s.setLink g { x with
    stream := x.stream ++ area.zipIdx.map fun b => (b.1.getD 0, b.1.isNone, times.getD ((start + b.2) / 512) 0)
    secPtrs := if named then x.secPtrs ++ [x.stream.length + ptr] else x.secPtrs }

/-- What a frame carries is not taken: the stream and the samples in progress are broken off (R361). -/
def dropFrame (x : Link) : Link := { x with stream := [], inStep := false, secPtrs := [], containers := [] }

/-- R361: sections, container bits and management slots are taken from a frame whose rows were released at given times. -/
def takeFrame (s : State) (g own : Nat) (times : List Nat) (l : List (Option Byte)) : State :=
  let d := l.take 64 ++ scrambleBytes (scrAtFrame own) (l.drop 64)
  let s := takeStream s g times d
  let s := if own ≠ 0 ∧ allHeld d 8 8 then mcSlot s g (heldBytes d 8 8) else s
  (List.range 128).foldl (fun (t : State) i => takeContainer t g times d i) s

/-- R358, R361: a basic frame of 64 rows is received. -/
def execBasicFrameReceived (link : Nat) (s : State) : Res :=
  onUnit link 4 <|
    let x := s.link link
    if x.framer = 0 || x.rx.length < 64 then done s
    else if x.framer = 1 then done (trackDefects (s.setLink link (huntFrame x)) link)
    else
      let rows := x.rx.take 64
      let l := frameBytes (rows.map (·.2))
      let own := x.ownCount
      let t := framerStep (s.setLink link { x with rx := x.rx.drop 64 }) link ((rows.map (·.1)).headD 0)
        (((rows.map (·.2))[0]?).bind markerBfn) l
      let y := t.link link
      let take := payloadOpen y && !fhStopped t 5
      done (trackDefects (if take then takeFrame t link own (rows.map (·.1)) l else t.setLink link (dropFrame y)) link)

/-! ## Sections (R355 to R357, R364, R366, R389) -/

/-- A received section: its header and its groups, each with its bytes, none where absent. -/
structure RxSection where
  hdr : SecHdr
  groups : List (Option (List Byte))
  deriving DecidableEq, Repr

/-- The groups that follow a header. -/
def sectionGroups (h : SecHdr) (l : List (Option Byte)) : List (Option (List Byte)) :=
  let n := groupBytes h.comp
  (List.range h.num).map fun i =>
    if allHeld l (16 + n * i) n then some (heldBytes l (16 + n * i) n) else none

/-- A c16 group is laid down as R228 does; a BFP group stays as it was sent (R356). -/
def landGroup (comp : Nat) (b : List Byte) : List Byte :=
  if comp = 0 then (List.range 24).flatMap fun i => [b.getD (2 * i + 1) 0, b.getD (2 * i) 0] else b

/-- Count in a link's counters; a virtual link has none. -/
def bumpOn (s : State) (link i : Nat) : State := bumpLink s link i 1

/-- Land the blocks of a section that were requested and have not come before. -/
def landBlocks (s : State) (n base c : Nat) : List (Nat × Option (List Byte)) → State
  | [] => s
  | (j, b) :: r =>
    match b, kget s.fh.vers n with
    | some d, some v =>
      if v.expected.contains j && !v.landed.contains j then
        landBlocks (setFhv (landBytes s (base + fdOffset c j) (landGroup (fhComp c) d)) n { v with landed := v.landed ++ [j] }) n base c r
      else landBlocks s n base c r
    | _, _ => landBlocks s n base c r

/-- A data section came whole at an instant over a link, 0 to 3, or a virtual link, 4 to 67 (R357, R364, R366, R389). -/
def landSection (s : State) (link : Nat) (x : RxSection) (came : Nat) : State :=
  let h := x.hdr
  let c := fhCell s h.cell
  let s := bumpOn s link 4
  if !fhEnable c || fhLink c ≠ link || fhComp c ≠ h.comp then bumpOn s link 5
  else
    let a := slotOfN (s.cell h.cell) h.slot s.time.now
    let lost := match fhFind s false h.cell a with
      | some (_, v) => v.damaged || (match v.phys with | some i => !physUsable s v.pool i | none => false)
      | none => false
    if sealedOut s false h.cell a came || lost then bumpOn s link 7
    else
      let bs : List (Option Nat × Option (List Byte)) := x.groups.zipIdx.map fun (b, i) =>
        (if h.port < fhPorts c ∧ h.first + i < fhNrb c then some ((h.port * 14 + h.symbol) * fhNrb c + h.first + i) else none, b)
      match fhFind s false h.cell a with
      | none => bumpOn s link 5
      | some (n, v) =>
        let wanted (j : Option Nat) : Bool := match j with | some k => v.expected.contains k | none => false
        let again (y : Option Nat × Option (List Byte)) : Bool :=
          y.2.isSome && (match y.1 with | some k => v.landed.contains k | none => false)
        let s := if bs.all fun y => wanted y.1 then s else bumpOn s link 5
        let s := if bs.any again then bumpOn s link 6 else s
        match fhvAddr s v with
        | none => s
        | some base =>
          let t := landBlocks s n base c (bs.filterMap fun y => y.1.map fun j => (j, y.2))
          match kget t.fh.vers n with
          | none => t
          | some w => if w.landed.length = v.landed.length then t else setFhv t n { w with sections := w.sections + 1 }

/-- A header came whole and is valid (R357). -/
def secHeld (s : State) (l : List (Option Byte)) : Bool := allHeld l 0 16 && secValid s (heldBytes l 0 16)

/-- A section received whole: data lands, pads and upstream control sections are discarded (R356, R357). -/
def takeSection (s : State) (link : Nat) (l : List (Option Byte)) (came : Nat) : State :=
  let h := secHdr (heldBytes l 0 16)
  if h.kind = 1 then landSection s link { hdr := h, groups := sectionGroups h l } came else s

/-- The stream from a place on. -/
def streamFrom (x : Link) (n : Nat) : Link :=
  { x with stream := x.stream.drop n, secPtrs := (x.secPtrs.filter fun p => decide (n ≤ p)).map (· - n) }

/-- Parsing goes on at the next section that a `SEC_PTR` names, past a place; without one the stream is skipped (R357). -/
def resync (x : Link) (past : Nat) : Link :=
  match (x.secPtrs.filter fun p => decide (past ≤ p)).head? with
  | some p => { streamFrom x p with inStep := true }
  | none => { x with stream := [], secPtrs := [], inStep := false }

/-- R357: the next section of the stream is parsed. -/
def execSectionReceived (link : Nat) (s : State) : Res :=
  onUnit link 4 <|
    let x := if (s.link link).inStep then s.link link else resync (s.link link) 0
    let s := s.setLink link x
    let l : List (Option Byte) := x.stream.map fun b => if b.2.1 then none else some b.1
    if !x.inStep || x.stream.length < 16 then done s
    else if !secHeld s l then
      let t := bumpLink s link 3 1
      done (t.setLink link (resync (t.link link) 16))
    else
      let n := secLength (secHdr (heldBytes l 0 16))
      if x.stream.length < n then done s
      else
        let t := takeSection s link (l.take n) ((x.stream[n - 1]?.map (·.2.2)).getD 0)
        done (t.setLink link (streamFrom (t.link link) n))

end Sys2Proof.Machine
end

