-- ==== Sys2Proof/Machine/Sending.lean ====
section
/-!
DEFINITION. What a link transmits, the sealing and release of fronthaul versions, and eCPRI (R347 to R352, R354 to R356,
R360, R364, R365, R367, R368, R371 to R373, R387, R391, R392).
-/
namespace Sys2Proof.Machine

/-! ## Basic frames sent (R347 to R352, R354, R360, R368) -/

/-- A pad section (R356). -/
def padSection : List Byte := fill 14 0 ++ beBytes 2 (crc16 (fill 14 0)).toNat

/-- n bytes of pad sections. -/
def padding (n : Nat) : List Byte := ((List.range (n / 16)).flatMap fun _ => padSection).take n

/-- What of a queue of sections is left after n bytes, and whether its first is partly sent. -/
def sectionsLeft : Nat → List TxSec → List TxSec × Bool
  | _, [] => ([], false)
  | n, x :: r => if x.bytes.length ≤ n then sectionsLeft (n - x.bytes.length) r
    else ({ x with bytes := x.bytes.drop n } :: r, decide (0 < n))

/-- The section area of a frame: its bytes, `SEC_PTR`, what is left of the queue and whether its first is partly sent. -/
def sectionArea (secs : List TxSec) (part : Bool) (n : Nat) : List Byte × Nat × List TxSec × Bool :=
  let all := secs.flatMap (·.bytes)
  let ptr := if part then (match secs with | x :: _ => if x.bytes.length < n then x.bytes.length else 0xFFFF | [] => 0) else 0
  (all.take n ++ padding (n - all.length), ptr, sectionsLeft n secs)

/-- A section whose first byte has not been sent can no longer be sent in time (R367). -/
def lateAt (now : Nat) (x : TxSec) : Bool := decide (x.limit ≤ (now : Int))

/-- The waiting sections of a link that a frame made up at an instant may still carry, and how many it must discard: the one
partly sent goes on (R367). -/
def liveSecs (secs : List TxSec) (part : Bool) (now : Nat) : List TxSec × Nat :=
  let (head, rest) := if part then (secs.take 1, secs.drop 1) else ([], secs)
  (head ++ rest.filter fun x => !lateAt now x, (rest.filter (lateAt now)).length)

/-- A multi-frame header with its `CRC`, after the first four bytes of a BF0 that it covers (R350, R360). -/
def mfHeaderBytes (s : State) (g : Nat) (x : Link) (ptr : Nat) (rdi : Bool) : List Byte :=
  let v := x.txMfNum % 2 ^ 32 * 2 ^ 400 + s.time.now / secNs % 2 ^ 48 * 2 ^ 352 + s.time.now % secNs * 2 ^ 320 + b2n rdi * 2 ^ 319
    + 1 * 2 ^ 312 + bits (linkCfg s g) 119 112 * 2 ^ 304
  let b := beBytes 54 v
  b ++ beBytes 2 (crc16 ([BitVec.ofNat 8 x.txBfn, 0] ++ beBytes 2 ptr ++ b)).toNat

/-- One management slot to send: its eight bytes and what is left (R368). -/
def mcSlotOut (m : List Byte) (mid : Bool) : List Byte × List Byte × Bool :=
  if m.isEmpty then (fill 8 0, [], false)
  else
    let n := min 7 m.length
    let last := decide (m.length ≤ 7)
    (BitVec.ofNat 8 (b2n (!mid) * 128 + b2n last * 64 + n) :: slice m 0 7, m.drop n, !last)

/-- Bytes of bits, the first the most significant; the length is a multiple of eight. -/
def bytesOfBits (l : List Bool) : List Byte := beBytes (l.length / 8) (bitsNum l)

/-- What a container sends in one frame: its area, whether S is a stuff bit, and its store afterwards. Bits that a dry store
cannot supply are free values (R351, R352). -/
def containerOut (s : State) (id : Nat) (st : ContRx) : State × List Byte × Bool × ContRx :=
  let c := tdCont s id
  let b := tdBits c
  let data := decide (b + 65 ≤ st.bits.length)
  let n := if data then b + 1 else b
  let e := max 1 (samplesPerEpoch s id)
  let whole := st.bits.length / 32
  let first := (st.index + e - whole % e) % e
  let (v, t) := if st.bits.length < n then s.drawNat else (0, s)
  let out := (List.range n).map fun i => match st.bits[i]? with
    | some x => x.getD false
    | none => v.testBit i
  let area := tdArea c - 5
  let l := out ++ List.replicate (8 * area - n) false
  (t, beBytes 1 (st.bits.length % 32 * 8) ++ beBytes 4 first ++ bytesOfBits l, !data, { st with bits := st.bits.drop n })

/-- Lay bytes over a list from an offset. -/
def layBytes (l : List Byte) (off : Nat) (b : List Byte) : List Byte := l.take off ++ b ++ l.drop (off + b.length)

/-- The containers of a link laid into a frame: bytes 64 on up to `SEC_START`, with `JUST` (R348, R351). -/
def containersOut (s : State) (g : Nat) (n : Nat) : State × List Byte :=
  (List.range 128).foldl (fun (x : State × List Byte) i =>
    let (t, b) := x
    let id := 128 * g + i
    if !tdTxEn (tdCont t id) || !hasNbm t.part.variant then (t, b)
    else
      let y := t.link g
      let (u, area, stuff, st) := containerOut t id (kgetD y.txStore i { bits := [], index := 0 })
      let just := (List.range 3).foldl (fun (l : List Byte) k =>
        let p := 3 * i + k
        if stuff then l.set (p / 8) (l.getD (p / 8) 0 ||| BitVec.ofNat 8 (2 ^ (7 - p % 8))) else l) b
      (u.setLink g { u.link g with txStore := kset y.txStore i st }, layBytes just (tdOffset (tdCont t id) - 64) area))
    (s, fill (n - 64) 0)

/-- The rows of a frame's bytes: 16 payloads each (R347). -/
def frameRows (b : List Byte) : List (List (BitVec 256)) :=
  (List.range 64).map fun r => (List.range 16).map fun i => BitVec.ofNat 256 (beNat (slice b (512 * r + 32 * i) 32))

/-- R360: a basic frame is made up and handed to the lanes when they have taken the one before; a section first counts as sent,
or as too late, here (R367; assumption 16). -/
def execBasicFrameTransmit (link : Nat) (s : State) : Res :=
  onUnit link 4 <|
    let x := s.link link
    if !linkEnabled s link || !groupOn s link || !x.txRows.isEmpty then done s
    else
      let start := bits (linkCfg s link) 111 96
      let (live, late) := liveSecs x.txSecs x.txPart s.time.now
      let (sec, ptr, rest, part) := sectionArea live x.txPart (32768 - start)
      let begun := live.length - rest.length + b2n part - b2n x.txPart
      let rdi := x.declared 4 || x.declared 3
      let bf0 := decide (x.txBfn = 0)
      let (mc, mcRest, mcMid) := if !bf0 && decide (x.framer = 3) then mcSlotOut x.mcTx x.mcTxMid else (fill 8 0, x.mcTx, x.mcTxMid)
      let head := beBytes 4 marker ++ [BitVec.ofNat 8 x.txBfn, 0] ++ beBytes 2 ptr
        ++ (if bf0 then mfHeaderBytes s link x ptr rdi else mc ++ fill 48 0)
      let (t, mid) := containersOut s link start
      let body := (scrambleBytes (scrAtFrame x.txBfn) ((mid ++ sec).map some)).map fun b => b.getD 0
      let y := t.link link
      let u := t.setLink link { y with
        txRows := frameRows (head ++ body), txSecs := rest, txPart := part, mcTx := mcRest, mcTxMid := mcMid
        rdiSent := if bf0 then rdi else y.rdiSent, txBfn := (x.txBfn + 1) % 256
        txMfNum := if x.txBfn = 255 then (x.txMfNum + 1) % 2 ^ 32 else x.txMfNum }
      done (bumpLink (bumpLink u link 11 begun) link 12 late)

/-! ## eCPRI (R371 to R373) -/

/-- Record of ECPRI_VLINKS (R374). -/
def vlinkCfg (s : State) (v : Nat) : Nat := domRec s keyEcpriVlinks 16 v

/-- A virtual link; one that has carried nothing stands on its home port while that is up. -/
def State.vlink (s : State) (v : Nat) : VLink :=
  let home := b2n (tbit (vlinkCfg s v) 126)
  (kget s.fh.vlinks v).getD { VLink.init with activePort := if portUp s home then home else 1 - home }

/-- Replace a virtual link. -/
def State.setVlink (s : State) (v : Nat) (x : VLink) : State := { s with fh := { s.fh with vlinks := kset s.fh.vlinks v x } }

/-- Where a virtual link's messages go on a port (R373). -/
def vlinkPeer (s : State) (v : Nat) : Peer :=
  let x := s.vlink v
  (if x.activePort = 0 then x.peer0 else x.peer1).getD
    { mac := bits (vlinkCfg s v) 111 64, encap := 0, ip := 0, udp := s.oval keyEcpriUdp, vlan := none }

/-- A frame with an eCPRI message. It carries ECPRI_PCP, so it has a tag: that of the peer, else VLAN_ID of the port
(R371, R373, assumption 67). -/
def ecpriFrame (s : State) (p : Nat) (to' : Peer) (msg : List Byte) : EthFrame :=
  frameTo p (ownAddrs s p) { to' with vlan := some (to'.vlan.getD (s.oval (keyVlanId p))) } (s.oval keyEcpriPcp) 0xAEFE
    (s.oval keyEcpriUdp) msg

/-- An eCPRI message with its common header: revision 1, no concatenation (PRESUMED from eCPRI 2.0, which R371 names). -/
def ecpriMessage (type : Nat) (body : List Byte) : List Byte := [0x10, BitVec.ofNat 8 type] ++ beBytes 2 body.length ++ body

/-- A message of a section on a virtual link (R372). -/
def ecpriSection (s : State) (v : Nat) (control : Bool) (b : List Byte) : State :=
  let x := s.vlink v
  let body := beBytes 2 v ++ beBytes 1 x.seqTx ++ [0x80] ++ b
  ((s.setVlink v { x with seqTx := (x.seqTx + 1) % 256 }).emit
    (.frame (ecpriFrame s x.activePort (vlinkPeer s v) (ecpriMessage (if control then 2 else 0) body)))).bump keyEcpriTx 1

/-- The message comes to the device in an encapsulation of eCPRI that is enabled and whole, on a port that serves (R371; the
checks of address and header those of R64 and R65, assumption 67). -/
def ecpriTaken (s : State) (port : Nat) (src : Peer) (frame : FrameTo) : Bool :=
  s.serving && s.powered && portUp s port && addressedTo src.encap frame (ownAddrs s port)
    && encapHolds src.encap frame (s.oval keyEcpriEncap) 0xAEFE (s.oval keyEcpriUdp) && !fhStopped s 5

/-- `PC_ID` or `RTC_ID` and `SEQ_ID` of a message are in order, and its virtual link is enabled (R371, R372). -/
def ecpriOk (s : State) (id seqId : BitVec 16) : Bool :=
  decide (id.toNat < 64) && tbit (vlinkCfg s id.toNat) 127 && decide (seqId.toNat % 256 = 128)

/-- The sequence number of a message, a gap counted (R372). -/
def ecpriNote (s : State) (v seq : Nat) : State :=
  let x := s.vlink v
  let gap := match x.seqRx with | some n => decide ((n + 1) % 256 ≠ seq) | none => false
  ((s.setVlink v { x with seqRx := some seq }).bump keyEcpriSeqGaps (b2n gap)).bump keyEcpriRx 1

/-- The addresses that a valid message came from (R373). -/
def ecpriLearn (s : State) (port : Nat) (src : Peer) (v : Nat) : State :=
  let x := s.vlink v
  s.setVlink v (if port = 0 then { x with peer0 := some src } else { x with peer1 := some src })

/-- A message of a type that the device does not support is discarded and counted; one of another supported type belongs to
its own command (R371). -/
def ecpriOther (s : State) (type : Nat) : State :=
  if type = 0 ∨ type = 2 ∨ type = 5 then s else s.bump keyEcpriDiscarded 1

/-- One message of type 0 or 2: a whole section of its kind follows R357, and any other counts for nothing. -/
def ecpriTake (s : State) (port : Nat) (src : Peer) (form : EcpriForm) (id seqId : BitVec 16) (b : List Byte)
    (kind : Nat) : State :=
  if !ecpriTaken s port src form.frame then s
  else if form.type ≠ 2 * (kind - 1) then ecpriOther s form.type
  else if !ecpriOk s id seqId then s.bump keyEcpriDiscarded 1
  else
    let t := ecpriNote s id.toNat (seqId.toNat / 256)
    let h := secHdr (b.take 16)
    if !secValid t (b.take 16) || decide (h.kind ≠ kind) || decide (b.length < secLength h) then t
    else takeSection (ecpriLearn t port src id.toNat) (4 + id.toNat) (b.map some) t.time.now

/-- R372: an eCPRI type 0 message with a data section is received. -/
def execEcpriIqData (port : Nat) (src : Peer) (form : EcpriForm) (id seqId : BitVec 16) (bytes : List Byte)
    (s : State) : Res :=
  onUnit port 2 (done (ecpriTake s port src form id seqId bytes 1))

/-- R372: an eCPRI type 2 message with a control section is received; upstream it is discarded (R357). -/
def execEcpriRtControl (port : Nat) (src : Peer) (form : EcpriForm) (id seqId : BitVec 16) (bytes : List Byte)
    (s : State) : Res :=
  onUnit port 2 (done (ecpriTake s port src form id seqId bytes 2))

/-- R371: a one-way delay message is answered with the time of its receipt at the PCS; the device is responder only. -/
def execEcpriDelayMeasurement (port : Nat) (src : Peer) (form : EcpriForm) (action ident : Nat) (t2 : Nat)
    (s : State) : Res :=
  onUnit port 2 <| done <|
    if !ecpriTaken s port src form.frame then s
    else if form.type ≠ 5 then ecpriOther s form.type
    else if 1 < action then s.bump keyEcpriDiscarded 1
    else
      let body := beBytes 1 ident ++ [0x02] ++ time80 t2 ++ fill 8 0
      ((s.bump keyEcpriRx 1).sendAt port (s.oval keyEcpriPcp) (.frame (ecpriFrame s port src (ecpriMessage 5 body)))).bump keyEcpriTx 1

/-! ## Sections sent (R367, R391) -/

/-- The first section of a queue, and the queue without it. -/
def txHead (s : State) (queue : Nat) : Option (TxSection × State) :=
  match kgetD s.fh.txq queue [] with
  | [] => none
  | x :: r => some (x, { s with fh := { s.fh with txq := if r.isEmpty then kdel s.fh.txq queue else kset s.fh.txq queue r } })

/-- The queue's link can take its next section now. -/
def txReady (s : State) (queue : Nat) : Bool :=
  !fhStopped s 6 &&
    if queue < 4 then
      linkEnabled s queue && groupOn s queue
        && decide (((s.link queue).txSecs.flatMap (·.bytes)).length < 32768 - bits (linkCfg s queue) 111 96)
    else
      let p := (s.vlink (queue - 4)).activePort
      tbit (vlinkCfg s (queue - 4)) 127 && portUp s p && !paused s p (s.oval keyEcpriPcp)

/-- R367: the next section of a queue goes to its link, or is sent on its virtual link, or is discarded when it is too late. -/
def execSectionTransmit (queue : Nat) (s : State) : Res :=
  onUnit queue 68 <|
    match txHead s queue with
    | none => done s
    | some (x, t) =>
      let damaged : Bool := match kget s.vers x.ver with | some v => decide (v.st = .damaged) | none => false
      if x.slotStart - (txAdvance s queue : Int) ≤ (s.time.now : Int) then done (retireSent (bumpOn t queue 12) x.ver)
      else if damaged then done (retireSent (t.bump keyTxSectionsInvalid 1) x.ver)
      else if !txReady s queue then done s
      else
        let t := t.emit (.sectionSent queue x.bytes)
        let t := if queue < 4 then
            let y := t.link queue
            t.setLink queue { y with txSecs := y.txSecs ++ [{ limit := x.slotStart - txAdvance s queue, bytes := x.bytes }] }
          else ecpriSection t (queue - 4) x.control x.bytes
        done (retireSent t x.ver)

/-! ## Container samples sent (R367, R392) -/

/-- The first sample of a container whose air time is no earlier than an instant: the epoch, counted from the one before the
origin, and its index in it. -/
def sampleFrom (s : State) (id : Nat) (t : Nat) : Nat × Nat :=
  let c := tdCont s id
  let x := s.cell (tdCell c)
  let k := ((t : Int) - x.epochOffset) / x.period
  let n := firstSample c ((t : Int) - x.epochOffset - k * x.period)
  if samplesPerEpoch s id ≤ n then ((k + 2).toNat, 0) else ((k + 1).toNat, n)

/-- Air time of sample n of an epoch so counted, rounded down to a ns (R351). -/
def airTime (s : State) (id : Nat) (p : Nat × Nat) : Int :=
  let c := tdCont s id
  let x := s.cell (tdCell c)
  x.epochOffset + ((p.1 : Int) - 1) * x.period + (p.2 * tdDen c * secNs / max 1 (tdNum c) : Nat)

/-- The transmit version of a container for a slot: the handle's version as it stands (R392). -/
def txVersion (s : State) (id : Nat) (a : Int) : Option (Nat × Version) :=
  let h := tdTxPool s id * 2 ^ 24 + id * 4096 + unsgn 12 a
  match kget s.hmap h with
  | none => none
  | some n => (kget s.vers n).map fun v => (n, v)

/-- Value of the sample at a place in its slot; zero without a version, beyond the committed length, or where it cannot be
read (R392, R415). -/
def txSample (s : State) (id : Nat) (a : Int) (i : Nat) : State × Nat :=
  match txVersion s id a with
  | none => (s, 0)
  | some (_, v) =>
    if v.st ≠ .valid ∨ v.len < 4 * i + 4 then (s, 0)
    else match devRead s 6 (physAddr s (hPool v.handle) v.phys + 4 * i) 4 with
      | (t, .ok b) => (t, leNat (b.take 2) * 65536 + leNat (b.drop 2))
      | (t, _) => (t, 0)

/-- How long before its air time a sample of a container is due: TX_ADVANCE, and the time in which frames of 520 ns empty a
store of B + 65 bits and the sample's own, and two frames more (R352, R367; assumption 17). -/
def txDue (s : State) (id : Nat) : Nat :=
  let b := max 1 (tdBits (tdCont s id))
  txAdvance s (id / 128) + ((b + 97 + b - 1) / b + 2) * 520

/-- The next sample of a container, restarting where the last is no longer in time: epoch and index, and whether it goes on. -/
def nextSample (s : State) (id : Nat) : (Nat × Nat) × Bool :=
  let e := max 1 (samplesPerEpoch s id)
  let adv := txDue s id
  let fresh := sampleFrom s id (s.time.now + adv)
  match kget s.fh.contTx id with
  | none => (fresh, false)
  | some v =>
    let p := (v / e, v % e)
    if airTime s id p - adv < (s.time.now : Int) then (fresh, false) else (p, true)

/-- R392: a container's next sample enters its transmit store within the microsecond in which it is due. -/
def execContainerSampleTransmit (cont : Nat) (s : State) : Res :=
  onUnit cont 512 <|
    let c := tdCont s cont
    let g := cont / 128
    if !tdTxEn c || !hasNbm s.part.variant || tdDen c = 0 || tdNum c = 0 || !linkEnabled s g || !groupOn s g || fhStopped s 6 then
      done s
    else
      let (p, on) := nextSample s cont
      let t := airTime s cont p
      if (s.time.now : Int) + 1000 ≤ t - txDue s cont then done s
      else
        let x := s.cell (tdCell c)
        let a := slotAt x t
        let r := sampleRange s cont a
        let (u, v) := txSample s cont a (p.2 - r.1)
        let e := max 1 (samplesPerEpoch s cont)
        let y := u.link g
        let st := kgetD y.txStore (cont % 128) { bits := [], index := p.2 }
        let bits32 := (List.range 32).map fun i => some (v.testBit (31 - i))
        let st := { bits := (if on then st.bits else []) ++ bits32, index := (p.2 + 1) % e : ContRx }
        let u := u.setLink g { y with txStore := kset y.txStore (cont % 128) st }
        let u := { u with fh := { u.fh with contTx := kset u.fh.contTx cont (p.1 * e + p.2 + 1) } }
        let u := u.emit (.sample cont p.2 (BitVec.ofNat 32 v))
        done (if p.2 + 1 = r.1 + r.2 then (match txVersion u cont a with | some (n, _) => retireSent u n | none => u) else u)

/-! ## Sealing and release (R364, R365, R387) -/

/-- R364: LATE_MAX has passed since the end of a version's slot and it is sealed; what did not land is counted (R365). -/
def execVersionSeal (v : Nat) (s : State) : Res :=
  match kget s.fh.vers v with
  | none => done s
  | some x =>
    whenSt (!x.sealed && decide (sealAt s x ≤ (s.time.now : Int))) s <|
      let miss := (fhvMissing x).length
      settleAll s (bumpLink (sealFhv s v) (fhvLink s x) (if x.container then 9 else 8) miss)

/-- R387: a version's retention period has passed and no job holds it. -/
def execVersionRetainExpiry (v : Nat) (s : State) : Res :=
  match kget s.fh.vers v with
  | none => done s
  | some x =>
    whenSt (x.sealed && !x.released && x.pins.isEmpty && x.phys.isSome && decide (retainUntil s x ≤ s.time.now)) s
      (settleAll s (releaseFhv s v))

/-! ## Writes (R353, R374 to R376, R381, R384, R386) -/

/-- The fields of a LINK_CONFIG record are within their ranges (R375). -/
def linkCfgOk (v : Nat) : Bool :=
  let a := bits v 111 96
  decide (a % 16 = 0) && within a 112 32752 && within (bits v 95 64) 0 1000000 && within (bits v 63 32) 1000 1000000
    && within (bits v 31 0) 10000 1000000

/-- A container is received or transmitted. -/
def tdOn (c : Nat) : Bool := tdRxEn c || tdTxEn c

/-- A link changes from one LINK_CONFIG record to another: it leaves OFF into HUNT, or returns to OFF (R358). -/
def followLink (s : State) (g : Nat) : State :=
  let x := s.link g
  if linkEnabled s g then
    if x.framer = 0 && groupOn s g then trackDefects (s.setLink g { relink x with framer := 1 }) g else s
  else if x.framer = 0 then s
  else s.setLink g (relink x)

/-- LINK_CONFIG (R375). -/
def applyLinkConfig (s : State) (w : WReq) : Applied :=
  let gs := touched w 16
  let rec' (g : Nat) : Nat := newRec s w 16 g
  let overlap (g : Nat) : Bool := (List.range 128).any fun i =>
    let c := tdCont s (128 * g + i)
    tdOn c && decide (bits (rec' g) 111 96 < tdOffset c + tdArea c)
  if gs.any fun g => !linkCfgOk (rec' g) || overlap g then fails s csRange
  else if gs.any fun g => (tbit (rec' g) 127 && !groupEnabled s g)
      || (linkEnabled s g && decide (bits (rec' g) 119 0 ≠ bits (linkCfg s g) 119 0)) then fails s csConflict
  else ifFlash s w (gs.foldl followLink (storeRecs s w 16 (2 ^ 127 + (2 ^ 120 - 1))))

/-- B of a container fits its rate within 400 parts in a million (R353). -/
def tdRateOk (c : Nat) : Bool :=
  let b := tdBits c
  let unit := tdDen c * 325 * 10 ^ 8 * 10 ^ 4
  decide (tdDen c ≠ 0) && within b 1 8192 && decide (b * unit < 32 * tdNum c * 16896 * 9996)
    && decide (32 * tdNum c * 16896 * 10004 < (b + 1) * unit)

/-- The pools of a container are of the matching roles and hold its largest version (R386). -/
def tdPoolsOk (s : State) (c rx tx : Nat) : Bool :=
  let x := s.cell (tdCell c)
  let n := (x.slotNs * tdNum c + tdDen c * secNs - 1) / (tdDen c * secNs) + 1
  (!tdRxEn c || (decide (poolRole s rx = 3) && decide (tdBytes n ≤ (poolCfg s rx).size)))
    && (!tdTxEn c || decide (poolRole s tx = 4))

/-- An enabled container passes every check of R353 and R386 beside the others of its link. -/
def tdContOk (s : State) (g i : Nat) : Bool :=
  let c := tdCont s (128 * g + i)
  !tdOn c ||
    (tdRateOk c && decide (tdCell c < 4095) && decide (112 ≤ tdOffset c)
      && decide (tdOffset c + tdArea c ≤ bits (linkCfg s g) 111 96)
      && ((List.range 128).all fun j =>
        let d := tdCont s (128 * g + j)
        decide (j = i) || !tdOn d || decide (tdOffset c + tdArea c ≤ tdOffset d) || decide (tdOffset d + tdArea d ≤ tdOffset c))
      && tdPoolsOk s c (tdRxPool s (128 * g + i)) (tdTxPool s (128 * g + i)))

/-- TD_CONTAINERS (R353, R376). -/
def applyTdContainers (s : State) (w : WReq) : Applied :=
  let is := touched w 16
  let t := storeRecs s w 16 (3 * 2 ^ 126 + (2 ^ 92 - 1) * 2 ^ 32)
  if is.any fun i => !tdContOk t (i / 128) (i % 128) then fails s csRange
  else if is.any fun i => tdOn (tdCont s i) && linkEnabled s (i / 128) && decide (tdCont t i ≠ tdCont s i) then fails s csConflict
  else ifFlash s w t

/-- TD_LANDING (R386). -/
def applyTdLanding (s : State) (w : WReq) : Applied :=
  let is := touched w 8
  let t := storeRecs s w 8 (0xFFFF * 2 ^ 48)
  if is.any fun i => tdOn (tdCont t i) && !tdPoolsOk t (tdCont t i) (tdRxPool t i) (tdTxPool t i) then fails s csRange
  else ifFlash s w t

/-- ANVIL_POOL_ROLE; a role changes the buffers that a pool has, which must not span quarters (R353, R379, R381). -/
def applyAnvilPoolRole (s : State) (w : WReq) : Applied :=
  let ps := (touched w 1).map fun i => (0x80 + i, overlaid s w i)
  let changed := ps.filter fun x => decide (x.2 ≠ poolRole s x.1)
  if ps.any fun x => decide (4 < x.2) || (decide (3 ≤ x.2) && !hasNbm s.part.variant) then fails s csRange
  else if changed.any fun x => !poolFits (storeDom s w) x.1 then fails s csRange
  else if changed.any fun x => poolInUse s x.1 then fails s csConflict
  else ifFlash s w (changed.foldl (fun (t : State) x => freshPool t x.1) (storeDom s w))

/-- An FH_CELL record is within its ranges; that of a cell not configured stands as it is at reset (R384, assumption 17). -/
def fhCellOk (s : State) (v : Nat) : Bool :=
  decide (v = 4 * 2 ^ 30) ||
    (decide (fhComp v ≤ 4) && within (fhPorts v) 1 256 && within (fhNrb v) 1 275 && within (fhRxPool v) 0x80 0xBF
      && within (fhRetain v) 1 15 && decide (fhLink v ≤ 67) && decide (poolRole s (fhRxPool v) = 1)
      && decide (fdBytes v ≤ (poolCfg s (fhRxPool v)).size))

/-- A cell's versions that no job holds are dropped when its record changes. -/
def dropFhVersions (s : State) (c : Nat) : State :=
  let mine := s.fh.vers.filter fun x => !x.2.container && decide (x.2.id = c)
  let t := mine.foldl (fun (t : State) x => releaseFhv t x.1) s
  let keep : List (Nat × FhVersion) := t.fh.vers.filter fun x => x.2.container || decide (x.2.id ≠ c)
  { t with fh := { t.fh with vers := keep } }

/-- FH_CELL (R384). -/
def applyFhCell (s : State) (w : WReq) : Applied :=
  let cs := touched w 8
  let t := storeRecs s w 8 ((2 ^ 41 - 1) * 2 ^ 23)
  let changed := cs.filter fun c => decide (fhCell t c ≠ fhCell s c)
  if cs.any fun c => !fhCellOk s (newRec s w 8 c) then fails s csRange
  else if changed.any fun c => s.fh.vers.any fun x => !x.2.container && decide (x.2.id = c) && !x.2.pins.isEmpty then fails s csConflict
  else ifFlash s w (changed.foldl dropFhVersions t)

/-- ECPRI_VLINKS: a virtual link whose home port changes goes there when that port is up (R373, R374). -/
def applyEcpriVlinks (s : State) (w : WReq) : Applied :=
  let vs := touched w 16
  let t := storeRecs s w 16 (3 * 2 ^ 126 + (2 ^ 48 - 1) * 2 ^ 64)
  let moved := vs.filter fun v => tbit (vlinkCfg t v) 126 != tbit (vlinkCfg s v) 126
  ifFlash s w (moved.foldl (fun (u : State) v =>
    let home := b2n (tbit (vlinkCfg u v) 126)
    match kget u.fh.vlinks v with
    | some x => u.setVlink v { x with activePort := if portUp u home then home else 1 - home }
    | none => u) t)

end Sys2Proof.Machine
end

