-- ==== Sys2Proof/Machine/Dram.lean ====
section
/-!
DEFINITION. Drizzle, code images, and the DDR5 controller's refresh, timing sets, delays, frequency change and command
parity (R415 to R418, R423, R424, R427 to R430, R432).
-/
namespace Sys2Proof.Machine

/-! ## Drizzle (R416 to R418) -/

/-- Scrubbed units in the order of DRIZZLE_LAPS: cores 0 to 575, clusters, quarters, always-on, subchannels (R433). -/
abbrev nScrubbed : Nat := 605

/-- A scrubber's state. -/
def State.drizzle (s : State) (u : Nat) : Drizzle := kgetD s.mem.drizzle u { Drizzle.init with lapStart := s.mem.scrubFrom }

/-- Replace a scrubber's state. -/
def State.setDrizzle (s : State) (u : Nat) (x : Drizzle) : State := { s with mem := { s.mem with drizzle := kset s.mem.drizzle u x } }

/-- Lap limit of a unit in ms (R433). -/
def lapLimit (s : State) (u : Nat) : Nat :=
  if u < 592 then s.oval keyLapLimitCore else if u < 596 then s.oval keyLapLimitAnvil
  else if u = 596 then s.oval keyLapLimitAon else s.oval keyLapLimitDram

/-- The unit's memory is present, powered and in use (R11, R416). -/
def scrubs (s : State) (u : Nat) : Bool :=
  if u = 596 then s.supply.aonUp
  else s.powered &&
    if u < 576 then !regionAbsent s (regCore u) && clusterUp s (u / 36) && !(s.cluster (u / 36)).gated
    else if u < 592 then clusterUp s (u - 576) && !(s.cluster (u - 576)).gated
    else if u < 596 then s.up (regQuarter (u - 592))
    else s.up (regSub (u - 597))

/-- Offset in its subchannel of a DRAM address (R425). -/
def subOff (s : State) (a : Nat) : Nat :=
  if tbit s.mem.inEffect 0 then a / (4096 * nSubs s) * 4096 + a % 4096 else a % max 1 (subBytes s.mem.inEffect)

/-- Device address of an offset in a subchannel (R425). -/
def subAddr (s : State) (i off : Nat) : Nat :=
  if tbit s.mem.inEffect 0 then (off / 4096 * nSubs s + i) * 4096 + off % 4096 else i * subBytes s.mem.inEffect + off

/-- Offsets of the 4 KiB blocks of a filled granule that lie in a subchannel. -/
def filledBlocks (s : State) (i g : Nat) : List Nat :=
  ((List.range 512).map fun b => 0x200000 * g + 4096 * b).filterMap fun a => if subOf s a = i then some (subOff s a) else none

/-- The next offset to read in a unit from a place on; none at the end of the lap. DRAM is read only where it is filled
(R416). -/
def nextWord? (s : State) (u off : Nat) : Option Nat :=
  if 597 ≤ u then
    let offs := (s.mem.fillMap.flatMap (filledBlocks s (u - 597))).filterMap fun o =>
      if off < o + 4096 then some (max off o) else none
    match offs with
    | [] => none
    | o :: r => some (r.foldl min o)
  else
    let size := if u < 576 then 0x50000 else if u < 592 then 0x800000 else if u < 596 then 0x4000000 else aonBytes
    if off < size then some off else none

/-- Device address of a word of a unit; instruction memory and the always-on SRAM have none. -/
def scrubAddr (s : State) (u off : Nat) : Option Nat :=
  if u < 576 then (if off < 0x40000 then some (tcmBase u + off) else none)
  else if u < 592 then some (clusterBase (u - 576) + off)
  else if u < 596 then some (anvilBase + 0x4000000 * (u - 592) + off)
  else if u = 596 then none
  else some (subAddr s (u - 597) off)

/-- A word of a version that is current or pinned: 1; of a staging buffer: 4; of a master copy: 2; of free memory: 3;
anything else: 5 (R417). -/
def useOf (s : State) (a : Nat) : Nat :=
  let inBuf (p phys : Nat) : Bool := let b := physAddr s p phys; decide (b ≤ a) && decide (a < b + (poolCfg s p).size)
  let held := (s.vers.any fun x => x.2.hasBuf && (!x.2.superseded || !x.2.pins.isEmpty) && inBuf (hPool x.2.handle) x.2.phys)
    || s.fh.vers.any fun x => match x.2.phys with | some i => inBuf x.2.pool i | none => false
  let staged := (allRuns s).any fun (j, _, d, r) => r.staging.any fun z => inBuf (stagingPool s (jobGraph s j) j.desc d z.1) z.2.1
  let pooled := (List.range 256).any fun p => poolConfigured s p && decide (physAddr s p 0 ≤ a) && decide (a < physAddr s p 0 + poolBytes s p)
  if held then 1 else if staged then 4
  else match memAt s a with
    | .dram => if (Config.codeLine a).isSome then 2 else if pooled then 3 else 5
    | .tcm c => if (s.core c).task.isSome && !lineClear s c a then 5 else 3
    | _ => 3

/-- A line of a master copy that Drizzle has found poisoned is written again from the other copy; when that is poisoned
too, the image is rewritten from flash (R417). -/
def mendCode (s : State) (a : Nat) : State :=
  match Config.codeLine a with
  | none => s
  | some (image, other) =>
    if memAt s a ≠ .dram ∨ kget s.mem.bad a ≠ some .poison then s
    else if kget s.mem.bad other = some .poison then { s with mem := { s.mem with rewriting := sinsert s.mem.rewriting image } }
    else (setBad s a none).bump keyCodeReloads 1

/-- Drizzle reads one word of device memory (R415 to R417). -/
def scrubWord (s : State) (a : Nat) : State :=
  let use := useOf s a
  match badAt s a with
  | none => s
  | some .correctable => (setBad s a none).bump (corKey (memAt s a)) 1
  | some .uncorrectable | some (.line _) => mendCode (confirmBad s a 0 use) a
  | some .uncorrectableOnce => goodOnReread s a 0 use
  | some .poison => mendCode (memLog ((logWord s a 0 0x04 false).bump keyPoisonReads 1) a 0 3 use false) a

/-- Drizzle reads one word of an instruction memory (R208, R417). -/
def scrubImem (s : State) (c a : Nat) : State :=
  let k := c * 65536 + a
  match kget s.mem.ibad k with
  | none => s
  | some .correctable => (setIbad s k none).bump keySramCorrected 1
  | some .uncorrectable | some (.line _) => markReload (rereadImem s c k 0 2 false) c
  | some .uncorrectableOnce => rereadImem s c k 0 2 true
  | some .poison => markReload (imemLog ((logImem s c a 0 0x04).bump keyPoisonReads 1) c a 0 3 2) c

/-- The word that Drizzle is about to read has come to hold an error; a word that held one keeps it. -/
def strikeWord (s : State) (u off : Nat) (found : Option BadWord) : State :=
  match found, scrubAddr s u off with
  | some b, some a => if (kget s.mem.bad a).isSome then s else setBad s a (some b)
  | some b, none =>
    if u < 576 then
      let k := u * 65536 + (off - 0x40000)
      if (kget s.mem.ibad k).isSome then s else setIbad s k (some b)
    else if (kget s.mem.aonBad off).isSome then s else setAonBad s off (some b)
  | none, _ => s

/-- A DRIZZLE_LAPS record (R433). -/
def lapNat (x : Drizzle) : Nat := x.lastLap % 2 ^ 32 * 2 ^ 32 + b2n x.alarm

/-- A lap alarm is raised (R418). -/
def raiseLap (s : State) (u : Nat) : State :=
  let x := { s.drizzle u with alarm := true, late := true }
  (raiseEvent (s.setDrizzle u x) keyDrizzleLaps (8 * u) (beBytes 8 (lapNat x))).bump keyDrizzleAlarms 1

/-- The end of a lap: its duration, and the alarm (R418). -/
def endLap (s : State) (u : Nat) : State :=
  let x := s.drizzle u
  let ms := (s.time.now - x.lapStart) / msNs
  let late := decide (x.lapStart + lapLimit s u * msNs < s.time.now)
  let t := s.setDrizzle u { x with lastLap := ms, nextAddr := 0, alarm := late }
  let t := if late && !x.late then raiseLap t u else t
  t.setDrizzle u { t.drizzle u with lapStart := s.time.now, late := false }

/-- R416: Drizzle reads the next code word of a unit; in DRAM it reads only while the subchannel's queues are empty, so the
writes that waited have been issued by then. -/
def execDrizzleRead (unit : Nat) (found : Option BadWord) (s : State) : Res :=
  onUnit unit nScrubbed <|
    if !scrubs s unit then done s
    else
      let s := if 597 ≤ unit then drainQueue s (unit - 597) else s
      let off := (s.drizzle unit).nextAddr
      match nextWord? s unit off with
      | none => done (if off = 0 then s else endLap s unit)
      | some o =>
        let t := strikeWord s unit o found
        let t := match scrubAddr t unit o with
          | some a => scrubWord t a
          | none => if unit < 576 then scrubImem t unit (o - 0x40000) else (readAonWord t 0 5 o).1
        let next := o + (if 597 ≤ unit then 64 else 8)
        let t := t.setDrizzle unit { t.drizzle unit with nextAddr := next }
        done (settleAll s (if (nextWord? t unit next).isNone then endLap t unit else t))

/-- R418: a lap still running has passed its limit. -/
def execDrizzleLapLimit (unit : Nat) (s : State) : Res :=
  onUnit unit nScrubbed <|
    let x := s.drizzle unit
    whenSt (scrubs s unit && !x.late && decide (x.lapStart + lapLimit s unit * msNs < s.time.now)) s (raiseLap s unit)

/-- Poisoned lines of an image's master copies are good again. -/
def cleanImage (s : State) (image : Nat) : State :=
  { s with mem := { s.mem with bad := s.mem.bad.filter fun x => match Config.codeLine x.1 with
      | some (i, _) => decide (i ≠ image) | none => true } }

/-- An image is lost: its jobs end, and its graph counts as not loaded (R417). -/
def loseImage (s : State) (image : Nat) : State :=
  let js := s.jobs.filter fun j => !j.final && decide (j.desc.graph = image / 256)
  let t := js.foldl (fun (t : State) j => finalise t j stKernel) s
  { t.bump keyImageLosses 1 with graphs := kdel t.graphs (image / 256) }

/-- R417: the rewriting of a code image from boot flash is complete, or the image is lost. -/
def execCodeImageRewriteDone (image : Nat) (ok : Bool) (s : State) : Res :=
  whenSt (s.mem.rewriting.contains image && s.sv.switching.isNone) s <|
    let t := { s with mem := { s.mem with rewriting := s.mem.rewriting.filter fun i => decide (i ≠ image) } }
    settleAll s (if ok then (cleanImage t image).bump keyCodeReloads 1 else loseImage t image)

/-! ## Refresh, power-down and command parity (R423, R427) -/

/-- A DRAM rank: subchannel × 2 + rank. -/
def State.rank (s : State) (r : Nat) : DramRank := kgetD s.mem.ranks r DramRank.init

/-- Replace a rank. -/
def State.setRank (s : State) (r : Nat) (x : DramRank) : State := { s with mem := { s.mem with ranks := kset s.mem.ranks r x } }

/-- The rank is present. -/
def rankPresent (s : State) (r : Nat) : Bool := decide (r / 2 < nSubs s) && decide (r % 2 < bits s.mem.inEffect 11 10)

/-- Record of a timing set as a number of 256 bits (R428). -/
def timingSet (s : State) (t : Nat) : Nat := s.domNat (if t = 0 then keyTsa else keyTsb) 0 32

/-- T_REFI of the active set in ns: clocks of half the data rate (R427, R428). -/
def refreshNs (s : State) : Nat :=
  let v := timingSet s s.mem.activeSet
  bits v 175 160 * 20 / max 1 (bits v 255 248)

/-- R427: T_REFI has passed and a rank is refreshed. -/
def execDramRefresh (rank : Nat) (s : State) : Res :=
  onUnit rank 16 <|
    let x := s.rank rank
    whenSt (s.powered && rankPresent s rank && decide (x.lastRefresh + refreshNs s ≤ s.time.now)) s
      (s.setRank rank { x with lastRefresh := s.time.now })

/-- RANK_PD_IDLE in ns: clocks of half the data rate (R427, R428). -/
def idleNs (s : State) : Nat := s.oval keyRankPdIdle * 20 / max 1 (bits (timingSet s s.mem.activeSet) 255 248)

/-- R427: a rank has had no request for RANK_PD_IDLE clocks and enters power-down. -/
def execRankPowerDown (rank : Nat) (s : State) : Res :=
  onUnit rank 16
    (whenSt (s.powered && rankPresent s rank && decide (s.oval keyRankPdIdle ≠ 0)
        && decide ((s.rank rank).lastRequest + idleNs s ≤ s.time.now)) s
      (s.setRank rank { s.rank rank with powerDown := true }))

/-- A DRAM channel. -/
def State.dramChan (s : State) (c : Nat) : DramChan := kgetD s.mem.chans c DramChan.init

/-- Replace a DRAM channel. -/
def State.setDramChan (s : State) (c : Nat) (x : DramChan) : State := { s with mem := { s.mem with chans := kset s.mem.chans c x } }

/-- R423: a command parity error is retried; when it still fails the subchannel is lost (R432). -/
def execCommandParityError (sub : Nat) (retryOk : Bool) (s : State) : Res :=
  onUnit sub 8 <|
    let x := s.dramChan (sub / 2)
    whenSt (s.powered && !regionAbsent s (regSub sub)) s
      (if retryOk then s.setDramChan (sub / 2) { x with parityRetries := x.parityRetries + 1 }
       else settleAll s (loseMemRegion s (regSub sub)))

/-! ## Configuration, timing sets and frequency change (R424, R428, R430) -/

/-- DRAM_CONFIG (R424). -/
def applyDramConfig (s : State) (w : WReq) : Applied :=
  match subGiB w.val with
  | none => fails s csRange
  | some n =>
    let cap := nSubs s * n * 2 ^ 30
    let beyond := ((List.range 0x7E).map (· + 1)).any fun p =>
      decide (poolBytes s p ≠ 0) && decide (cap < (poolCfg s p).base + poolBytes s p)
    if beyond || decide (cap < Config.dramReserved s.supply.fwRelease (Nat.land w.val 0xF01) + s.oval keyResultStoreBytes) then fails s csConflict
    else ifFlash s w (s.setOval w.key (Nat.land w.val 0xF01))

/-- TSA and TSB (R428). -/
def applyTimingSet (s : State) (w : WReq) : Applied :=
  let n := if w.key = keyTsa then 0 else 1
  let r := bits (newRec s w 32 0) 255 248
  if n = s.mem.activeSet then fails s csConflict
  else if r ≠ 0x30 ∧ r ≠ 0x38 ∧ r ≠ 0x40 then fails s csRange
  else ifFlash s w (storeRecs s w 32 ((2 ^ 145 - 1) * 2 ^ 111))

/-- Bits of a byte of a delay record that are not reserved (R430). -/
def delayMask (off : Nat) : Nat :=
  let o := off % 256
  if o < 160 then (if o % 2 = 1 then 0x03 else 0xFF) else if o < 212 then 0xFF else 0

/-- DRAM_DELAYS (R430). -/
def applyDramDelays (s : State) (w : WReq) : Applied :=
  if (touched w 256).any fun r => decide (r % 2 = s.mem.activeSet) then fails s csConflict
  else
    let d := w.data.zipIdx.map fun (b, i) => b &&& BitVec.ofNat 8 (delayMask (w.off + i))
    ifFlash s w (s.setDom w.key w.off d)

/-- DRAM_FREQ_CMD: the channels of a mask go to the inactive set, one after another (R428). -/
def applyDramFreqCmd (s : State) (w : WReq) : Applied :=
  let target := 1 - s.mem.activeSet
  if 2 ^ nDramCh s.part.variant ≤ w.val then fails s csRange
  else if (List.range 4).any (fun c => (s.dramChan c).changing) || !tbit (timingSet s target) 111 || !s.mem.fills.isEmpty
      || s.supply.restart.isSome then fails s csConflict
  else
    (csOk, ((List.range 4).filter fun c => tbit w.val c && decide ((s.dramChan c).set ≠ target)).foldl
      (fun (t : State) c => t.setDramChan c { t.dramChan c with changing := true, selfRefresh := true }) (storeVal s w))

/-- R428: a channel's frequency change is complete, its queues having drained first; the channels change in increasing
number. -/
def execDramFreqChangeDone (chan : Nat) (s : State) : Res :=
  onUnit chan 4 <|
    let x := s.dramChan chan
    whenSt (x.changing && (List.range chan).all fun c => !(s.dramChan c).changing) s
      (let t := (drainQueue (drainQueue s (2 * chan)) (2 * chan + 1)).setDramChan chan { x with changing := false, selfRefresh := false, set := 1 - x.set }
       { t with mem := { t.mem with activeSet := 1 - x.set } })

end Sys2Proof.Machine
end

