-- ==== Sys2Proof/Machine/Issue.lean ====
section
/-!
DEFINITION. Issue and commit of bundles: what an instruction adds to the open bundle, the bundle rules, and what a
bundle does when it commits (R196 to R199, R208, R215, R221 to R224, R241 to R246, R258, R266 to R272).
-/
namespace Sys2Proof.Machine

/-! ## Vector memory (R240 to R245) -/

/-- Why an element access fails before it reaches memory: ALIGN, or an address outside the map. -/
def elemBad (x : Core) (c : Nat) (a : Int) (n : Nat) (store : Bool) : Option (Nat × Nat) :=
  if a % (n : Int) ≠ 0 then some (0x04, 0)
  else if a < 0 ∨ 2 ^ 32 ≤ a then some (0x05, 0)
  else match coreAt x c a.toNat n store with
    | .bad sub => some (0x05, sub)
    | _ => none

/-- One element read: its value, or CAUSE and SUB. -/
def elemRead (s : State) (c : Nat) (a : Int) (n : Nat) : State × (Nat ⊕ (Nat × Nat)) :=
  match elemBad (s.core c) c a n false with
  | some e => (s, .inr e)
  | none =>
    if (s.core c).slow = some a.toNat then (s, .inr (0x09, 0))
    else match coreRead s c 2 a.toNat n with
      | (s, .ok b) => (s, .inl (leNat b))
      | (s, .err cause sub) => (s, .inr (cause, sub))

/-- One element written; DRAM takes it into its write queue. -/
def elemWrite (s : State) (c : Nat) (a : Int) (n v : Nat) : State × Option (Nat × Nat) :=
  match elemBad (s.core c) c a n true with
  | some e => (s, some e)
  | none => if (s.core c).slow = some a.toNat then (s, some (0x09, 0)) else coreQueue s c none a.toNat (leBytes n v)

/-- Active elements of a load in order: the operand so far, and the first fault with its element and address. -/
def loadElems (s : State) (c e acc : Nat) : List (Nat × Int) → State × Nat × Option (Nat × Int × Nat × Nat)
  | [] => (s, acc, none)
  | (i, a) :: r =>
    match elemRead s c a (e / 8) with
    | (s, .inl v) => loadElems s c e (elemSet e acc i v) r
    | (s, .inr (cause, sub)) => (s, acc, some (i, a, cause, sub))

/-- The lines of DRAM that a vector store has written only in part are merged before it completes: the first element whose
line fails (R240, R412, R414). -/
def settleElems (s : State) (c n : Nat) : List (Nat × Int) → State × Option (Nat × Int × Nat × Nat)
  | [] => (s, none)
  | (i, a) :: r =>
    match coreAt (s.core c) c a.toNat n true with
    | .dev d => match settleRange s d n with
      | (t, none) => settleElems t c n r
      | (t, some (e, _)) => ((settleElems t c n r).1, some (i, a, causeOf e, 0))
    | _ => settleElems s c n r

/-- Active elements of a store in order. -/
def storeElems (s : State) (c e data : Nat) : List (Nat × Int) → State × Option (Nat × Int × Nat × Nat)
  | [] => (s, none)
  | (i, a) :: r =>
    match elemWrite s c a (e / 8) (elemAt e data i) with
    | (s, none) => storeElems s c e data r
    | (s, some (cause, sub)) => (s, some (i, a, cause, sub))

/-- Elements above a store's fault: each written or not, as the free bits say (R245). -/
def storeLoose (s : State) (c e data choice : Nat) : List (Nat × Int) → State
  | [] => s
  | (i, a) :: r =>
    storeLoose (if choice.testBit i then (elemWrite s c a (e / 8) (elemAt e data i)).1 else s) c e data choice r

/-- An unpredictable element: zero, the element it replaces, or one that the core may itself read at a free address
(R4). -/
def looseElem (s : State) (c e old free : Nat) : Nat :=
  if free % 3 = 0 then 0
  else if free % 3 = 1 then old
  else match (elemRead s c ((free / 3 % 2 ^ 32 : Nat) : Int) (e / 8)).2 with
    | .inl v => v
    | .inr _ => 0

/-- Elements of a faulted load from its fault on: unpredictable, each by a free value of its own (R245, R4). -/
def looseElems (s : State) (c e : Nat) (acc : Nat) : List (Nat × Int) → Nat
  | [] => acc
  | (i, _) :: r => looseElems s c e (elemSet e acc i (looseElem s c e (elemAt e acc i) (Config.freeNat (s.free + i)))) r

/-- Record a vector fault: VFR, and the queue cancelled from then on (R245). -/
def recordVfr (s : State) (c : Nat) (op : VMemOp) (f : Nat × Int × Nat × Nat) : State :=
  let x := s.core c
  s.setCore c { x with
    slow := none, vfault := true, vfaultMade := op.made, vfrPc := BitVec.ofNat 32 op.pc
    vmerge := op.store && decide (f.2.2.1 ≠ 0x09)
    vfrInfo := BitVec.ofNat 32 (f.2.2.1 * 2 ^ 24 + f.2.2.2 * 2 ^ 16 + f.1), vfrAddr := BitVec.ofNat 32 (unsgn 32 f.2.1) }

/-- Elements that a gather up to the first ACCESS reads, and the new SPAN where it ends early (R242). -/
def firstAccess (s : State) (c : Nat) (e : Nat) : List (Nat × Int) → List (Nat × Int) × Option Nat
  | [] => ([], none)
  | (i, a) :: r =>
    let out := match elemBad (s.core c) c a (e / 8) false with
      | some (cause, _) => decide (cause = 0x05)
      | none => match coreAt (s.core c) c a.toNat (e / 8) false with
        | .dev d => match memAt s d with
          | .none => true
          | .window ch => (windowRead (s.chan ch) ((d - windowBase) % 64)).isNone
          | _ => false
        | _ => false
    if out then ([], some i) else ((i, a) :: (firstAccess s c e r).1, (firstAccess s c e r).2)

/-- A vector memory instruction executes; it is cancelled while a vector fault waits (R241 to R245). -/
def vmemRun (s : State) (c : Nat) (op : VMemOp) : State :=
  let x := s.core c
  if x.vfault then s
  else
    let e := 8 * op.ebytes
    let act := (op.elems.zipIdx.filter fun y => y.1.2).map fun y => (y.2, y.1.1)
    let old := x.vop op.wide op.reg op.grp
    if op.store then
      match storeElems s c e old act with
      | (t, none) => match settleElems t c op.ebytes act with
        | (t, none) => t.setCore c { t.core c with slow := none }
        | (t, some f) => recordVfr t c op f
      | (t, some f) =>
        let d := t.drawNat
        let u := storeLoose d.2 c e old d.1 (act.filter fun y => decide (f.1 < y.1))
        match settleElems u c op.ebytes (act.filter fun y => decide (y.1 < f.1)) with
        | (u, some g) => recordVfr u c op g
        | (u, none) => recordVfr (settleElems u c op.ebytes act).1 c op f
    else
      let g := if op.first then firstAccess s c e act else (act, none)
      match loadElems s c e old g.1 with
      | (s, v, none) =>
        let y := (s.core c).setVop op.wide op.reg op.grp v
        s.setCore c { (match g.2 with | some i => { y with span := i } | none => y) with slow := none }
      | (s, v, some f) =>
        let v := looseElems s c e v (act.filter fun y => decide (f.1 ≤ y.1))
        let d := { s with free := s.free + op.elems.length }
        recordVfr (d.setCore c ((d.core c).setVop op.wide op.reg op.grp v)) c op f

/-! ## The vector queue (R243 to R248) -/

/-- The youngest entry is carried out, if it still is to be (R244). -/
def vrun (s : State) (c : Nat) : State :=
  match (s.core c).vpend with
  | none => s
  | some op =>
    let t := vmemRun s c op
    let y := t.core c
    t.setCore c { y with vpend := none
                         vpos := if y.vfault && !(s.core c).vfault then some y.vq.length else y.vpos }

/-- The queue drains, and a fault in it is detected (R246, R248). -/
def vdrain (s : State) (c : Nat) : State :=
  if (s.core c).vq.isEmpty then s
  else
    let t := vrun s c
    let y := t.core c
    t.setCore c { y with vq := [], vpos := none, vseen := y.vfault }

/-- The oldest n entries of the queue complete; a fault among them is detected and the queue cancelled (R245, R246). -/
def vcomplete (s : State) (c n : Nat) : State :=
  let x := s.core c
  if n = 0 then s
  else if x.vq.length ≤ n then vdrain s c
  else if x.vpos.any fun p => decide (p ≤ n) then
    s.setCore c { x with vq := [], vpend := none, vpos := none, vseen := true }
  else s.setCore c { x with vq := x.vq.drop n, vpos := x.vpos.map (· - n) }

/-- Entries up to the youngest that answers a test. -/
def upToLast (p : VEntry → Bool) (l : List VEntry) : Nat := l.length - (l.reverse.takeWhile fun e => !p e).length

/-! ## Delivery (R224, R246, R247, R273) -/

/-- Deliver the earliest pending fault, once the vector instructions before it have executed. -/
def deliverFault (s : State) (c : Nat) : State :=
  let s := vdrain s c
  match earliest (pendingFaults (s.core c)) with
  | none => s
  | some (_, e) => takeExc s c e

/-- Raise a precise exception, once the vector instructions before it have executed: an older pending fault is reported in
its place (R247). -/
def raiseExc (s : State) (c : Nat) (e : Exc) : State :=
  let s := vdrain s c
  match earliest (pendingFaults (s.core c)) with
  | some (_, f) => takeExc s c f
  | none => takeExc s c e

/-- Raise a precise exception at the open bundle (R222). -/
def raisePrecise (s : State) (c slot cause sub eaddr : Nat) : State :=
  raiseExc s c { cause, sub, slot, eaddr, epc := (s.core c).pc, imprecise := false }

/-- Class of an instruction (R196). -/
inductive Cls where
  | scalar | mem | vec
  deriving DecidableEq, Repr

/-- What an instruction adds to its bundle: the registers it writes (R198), whether it changes control flow, its effects,
the SUB of an ILLEGAL found at decode or an absent unit, and an exception found when it executes (CAUSE, SUB, EADDR). -/
structure Iss where
  cls : Cls := .scalar
  writes : List WReg := []
  flow : Bool := false
  effs : List Eff := []
  illegal : Option Nat := none
  absentUnit : Bool := false
  exc : Option (Nat × Nat × Nat) := none
  deriving DecidableEq, Repr

/-- An encoding that raises ILLEGAL with a SUB (R217, R223). -/
def Iss.bad (cls : Cls) (sub : Nat) : Iss := { cls, illegal := some sub }

/-! ## Effects on the core's registers -/

/-- One effect on the registers of the core; vector effects are dropped while a vector fault waits (R245). -/
def applyEff (next : Nat) (x : Core) : Eff → Core
  | .wg r v => x.setG r v
  | .wacc n v => x.setA n v
  | .sat => { x with sat := true }
  | .wctl n v => x.setCtl n v
  | .loop lvl cnt endPc =>
    let i := if lvl then 1 else 0
    { x with lpcnt := vput x.lpcnt i cnt, lpstart := vput x.lpstart i (BitVec.ofNat 32 next)
             lpend := vput x.lpend i (BitVec.ofNat 32 endPc) }
  | .link => x.setG 31 (BitVec.ofNat 32 next)
  | .spanset vtype span => { x with vtype, span }
  | .wh r v => if x.vfault then x else { x with h := x.h.set r.toNat v (by have := r.isLt; omega) }
  | .ww r grp v => if x.vfault then x else x.setVop true r.toNat grp v
  | .wk r v => if x.vfault then x else { x with k := x.k.set r.toNat v (by have := r.isLt; omega) }
  | .vsat => if x.vfault then x else { x with sat := true }
  | .fence => { x with sbuf := [] }
  | _ => x

/-! ## Where fetch goes next (R197, R215) -/

/-- A word of instruction memory has its stop bit set. -/
def stopAt (s : State) (c a : Nat) : Bool := decide (a < 0x10000) && (mget s.mem.imem (c * 65536 + a + 3)).getLsbD 7

/-- First address beyond the bundle at an address: after its first stop bit, at most four instructions on. -/
def afterBundle (s : State) (c a : Nat) : Nat :=
  if stopAt s c a then a + 4 else if stopAt s c (a + 4) then a + 8 else if stopAt s c (a + 8) then a + 12 else a + 16

/-- A taken branch whose target lies outside a level's body clears its count (R215). -/
def leaveLoop (x : Core) (target lvl : Nat) : Core :=
  if target < (vget x.lpstart lvl 0).toNat ∨ (vget x.lpend lvl 0).toNat < target then
    { x with lpcnt := vput x.lpcnt lvl 0 } else x

/-- The loop end of one level when the bundle at LPEND commits: where fetch goes, if it goes back (R215). -/
def loopEnd (x : Core) (pc lvl : Nat) (fresh : Bool) : Core × Option Nat :=
  let n := (vget x.lpcnt lvl 0).toNat
  if fresh || decide (n = 0) || decide ((vget x.lpend lvl 0).toNat ≠ pc) then (x, none)
  else
    ({ x with lpcnt := vput x.lpcnt lvl (BitVec.ofNat 32 (n - 1)) },
      if 1 < n then some (vget x.lpstart lvl 0).toNat else none)

/-- The branch target of an effect. -/
def gotoOf : Eff → Option Nat
  | .goto t => some t
  | _ => none

/-- The level, count and end of a loop that an effect starts. -/
def loopOf : Eff → Option (Bool × Nat × Nat)
  | .loop l n a => some (l, n.toNat, a)
  | _ => none

/-- Where fetch goes after a bundle that neither branches nor skips a loop: back to the start of a loop that ends here,
level 1 before level 0 (a level that started in this bundle does not end in it), or on (R215). -/
def fetchOn (pc next : Nat) (x : Core) (fresh : Option Bool) : Core :=
  match loopEnd x pc 1 (fresh == some true) with
  | (x, some t) => { x with pc := t }
  | (x, none) => match loopEnd x pc 0 (fresh == some false) with
    | (x, some t) => { x with pc := t }
    | (x, none) => { x with pc := next }

/-- The core with the address of the next fetch, after the effects of a bundle at pc (R215). -/
def nextFetch (s : State) (c pc next : Nat) (x : Core) (effs : List Eff) : Core :=
  match effs.findSome? gotoOf with
  | some t => { leaveLoop (leaveLoop x t 1) t 0 with pc := t }
  | none =>
    match effs.findSome? loopOf with
    | some (l, n, a) => if n = 0 then { x with pc := afterBundle s c a } else fetchOn pc next x (some l)
    | none => fetchOn pc next x none

/-! ## Stores -/

/-- The scalar store of a bundle: to TCM at once; through a segment posted, an error of which is reported later
(R224). When eight are posted the core waits for the oldest. -/
def commitStore (s : State) (c pc ea size : Nat) (v : Nat) : State :=
  if ea + size ≤ 0x40000 then (coreQueue s c none ea (leBytes size v)).1
  else
    let y := s.core c
    let p : Posted := { pc, ea, made := y.commits }
    let sbuf := if y.sbuf.length < 8 then y.sbuf ++ [p] else y.sbuf.drop 1 ++ [p]
    let r := coreQueue (s.setCore c { y with sbuf }) c (some p) ea (leBytes size v)
    let x := r.1.core c
    r.1.setCore c { x with sberr := match x.sberr, r.2 with
                                    | some e, _ => some e
                                    | none, some (cause, _) => some (p, cause)
                                    | none, none => none }

/-- The store of a committed bundle, at its own address. -/
def applySt (c pc : Nat) (s : State) : Eff → State
  | .store ea size v => commitStore s c pc ea size v.toNat
  | _ => s

/-! ## MXC work at commit (R263 to R273) -/

/-- MXC error code of a TCM error (R273). -/
def mxCode (cause : Nat) : Nat := if cause = 0x07 then 0x10 else 0x11

/-- Record an imprecise MXC error, a merge's or another; the first stands (R273). -/
def recordMx (s : State) (c code addr : Nat) (merge : Bool) : State :=
  let x := s.core c
  match x.mxerr with
  | some _ => s
  | none => s.setCore c { x with mxerr := some (code, addr, x.commits), mxmerge := merge }

/-- Read TCM for the MXC; none when an error was recorded. -/
def mxRead (s : State) (c a n : Nat) : State × Option (List Byte) :=
  match devRead s 3 (tcmBase c + a) n with
  | (s, .ok b) => (s, some b)
  | (s, .err e w) => (recordMx s c (mxCode (causeOf e)) (w - tcmBase c) false, none)

/-- Write TCM for the MXC. -/
def mxWrite (s : State) (c a : Nat) (b : List Byte) : State :=
  match devWrite s (tcmBase c + a) b with
  | (s, none) => s
  | (s, some (e, w)) => recordMx s c (mxCode (causeOf e)) (w - tcmBase c) true

/-- Read rows of 32 bytes as c16 elements. -/
def mxRows (s : State) (c : Nat) : List Nat → State × Option (List (BitVec 32))
  | [] => (s, some [])
  | a :: r =>
    match mxRead s c a 32 with
    | (s, none) => (s, none)
    | (s, some b) =>
      match mxRows s c r with
      | (s, some l) => (s, some ((List.range 8).map (fun i => BitVec.ofNat 32 (leNat (cut b (4 * i) 4))) ++ l))
      | (s, none) => (s, none)

/-- A list as a tile. -/
def tileOf {α : Type} (d : α) (l : List α) : Vector α 64 := Vector.ofFn fun (i : Fin 64) => l.getD i.val d

/-- An m tile as bytes, rows of stride 32 (R266, R272). -/
def tileBytes (l : List (BitVec 32)) : List Byte := l.flatMap fun v => leBytes 4 v.toNat

/-- A sign-extended 40-bit part as 8 bytes (R272). -/
def partBytes (v : BitVec 40) : List Byte := leBytes 8 (unsgn 64 v.toInt)

/-- The saved state of an MXC: 6,208 bytes (R272). -/
def mxSaveBytes (m : Mxc) : List Byte :=
  m.m.toList.flatMap (fun t => tileBytes t.toList)
    ++ m.z.toList.flatMap (fun t => t.toList.flatMap fun p => partBytes p.1 ++ partBytes p.2)
    ++ leBytes 4 (b2n m.sat) ++ fill 60 0

/-- The state that saved bytes hold (R272). -/
def mxRestored (m : Mxc) (b : List Byte) : Mxc :=
  { m with
    m := Vector.ofFn fun (t : Fin 8) => Vector.ofFn fun (i : Fin 64) =>
      BitVec.ofNat 32 (leNat (cut b (256 * t.val + 4 * i.val) 4))
    z := Vector.ofFn fun (t : Fin 4) => Vector.ofFn fun (i : Fin 64) =>
      (BitVec.ofNat 40 (leNat (cut b (0x800 + 1024 * t.val + 16 * i.val) 5)),
       BitVec.ofNat 40 (leNat (cut b (0x800 + 1024 * t.val + 16 * i.val + 8) 5)))
    sat := tbit (leNat (cut b 0x1800 4)) 0 }

/-- Replace the MXC of a core's quad. -/
def setQuad (s : State) (c : Nat) (f : Mxc → Mxc) : State := s.setMxc (quadOf c) (f (s.mxc (quadOf c)))

/-- One MXC effect of a committed bundle. -/
def applyMx (s : State) (c : Nat) : Eff → State
  | .wm t v => setQuad s c fun m => { m with m := vput m.m t.toNat (tileOf 0 v) }
  | .wz t v => setQuad s c fun m => { m with z := vput m.z t.toNat (tileOf (0, 0) v) }
  | .mxsat => setQuad s c fun m => { m with sat := true }
  | .mxclr t => setQuad s c fun m => { m with z := vput m.z t.toNat (.replicate 64 (0, 0)) }
  | .mxld t rows =>
    match mxRows s c rows with
    | (s, some l) => setQuad s c fun m => { m with m := vput m.m t.toNat (tileOf 0 l) }
    | (s, none) => s
  | .mxst rows data => (rows.zipIdx).foldl (fun s r => mxWrite s c r.1 (tileBytes ((data.drop (8 * r.2)).take 8))) s
  | .mxsave a => mxWrite s c a (mxSaveBytes (s.mxc (quadOf c)))
  | .mxrestore a =>
    match mxRead s c a 0x1840 with
    | (s, some b) => setQuad s c fun m => mxRestored m b
    | (s, none) => s
  | .mxunlock => leaveMxc s c false
  | .wctl n v => if n = 0x100 ∧ (holdsMxc s c && !v.getLsbD 0) = true then setQuad s c fun m => { m with sat := false } else s
  | _ => s

/-! ## The end of a task (R203, R221) -/

/-- What the dispatcher finds at TEND: the exception of an output length that does not read or that is above the capacity of
its staging buffer, as CAUSE, SUB and EADDR, or the lengths by place (R203, R221). -/
def readLengths (s : State) (c : Nat) (ref : TaskRef) : State × ((Nat × Nat × Nat) ⊕ List (Nat × Nat)) :=
  match devRead s 1 (tcmBase c + 0x80) 0x10, findRun s ref with
  | (t, .err e w), _ => (t, .inl (causeOf e, 0, w - tcmBase c))
  | (t, .ok _), none => (t, .inr [])
  | (t, .ok b), some (j, _, r) =>
    let outs := (r.staging.filter fun x => decide (x.1 ≠ harqPlace)).map (·.1)
    let caps := match (jobGraph s j).tasks[ref.task]? with
      | some d => outs.map fun o => (poolCfg s (stagingPool s (jobGraph s j) j.desc d o)).size
      | none => []
    let len (i : Nat) : Nat := leNat (cut b (4 * i) 4)
    if (List.range 4).any fun i => decide (caps.getD i 0 < len i) then (t, .inl (0x05, 0x03, 0))
    else (t, .inr (outs.zipIdx.map fun x => (x.1, len x.2)))

/-- TEND: s is the state in which its bundle has committed, old the one before. The dispatcher reads the output lengths; a
bad one raises its exception at the bundle, which then has not taken effect, and otherwise the run is done (R203, R221,
R222). -/
def endTask (old s : State) (c slot : Nat) : State :=
  match (s.core c).task with
  | none => freeCore s c
  | some ref =>
    match readLengths s c ref with
    | (_, .inl (cause, sub, ea)) => raisePrecise (devRead old 1 (tcmBase c + 0x80) 0x10).1 c slot cause sub ea
    | (t, .inr l) =>
      if (findRun s ref).isNone then freeCore t c
      else
        let u := runDone t ref l
        settleAll s (if (u.core c).task = some ref then freeCore u c else u)

/-! ## What a complete bundle reads (R199, R201, R209, R235, R264) -/

/-- Value of a control register as MOVC reads it (R201, R234, R264, R276). -/
def ctlRead (s : State) (c : Nat) (x : Core) (n : Nat) : BitVec 32 :=
  let mx := hasMxc s.part.variant
  let m := s.mxc (quadOf c)
  if n = 0x000 then brfFeat s.part.variant
  else if n = 0x001 then BitVec.ofNat 32 (b2n x.sat)
  else if n = 0x002 then x.epc
  else if n = 0x003 then x.ecause
  else if n = 0x004 then x.eaddr
  else if n = 0x005 then x.kbase
  else if n = 0x006 then x.klimit
  else if n = 0x007 then BitVec.ofNat 32 (coreCycles s c)
  else if n = 0x008 then BitVec.ofNat 32 (coreCycles s c / 2 ^ 32)
  else if n = 0x010 then vget x.lpcnt 0 0
  else if n = 0x011 then vget x.lpstart 0 0
  else if n = 0x012 then vget x.lpend 0 0
  else if n = 0x014 then vget x.lpcnt 1 0
  else if n = 0x015 then vget x.lpstart 1 0
  else if n = 0x016 then vget x.lpend 1 0
  else if 0x020 ≤ n ∧ n < 0x030 then
    if n % 2 = 0 then vget x.cbBase ((n - 0x020) / 2) 0 else vget x.cbLen ((n - 0x020) / 2) 0
  else if 0x040 ≤ n ∧ n < 0x060 then segCtl (vget x.seg ((n - 0x040) / 4) SegReg.init) (n % 4)
  else if n = 0x080 then BitVec.ofNat 32 x.span
  else if n = 0x081 then x.vtype.setWidth 32
  else if n = 0x082 then BitVec.ofNat 32 (vlMax x.ty.e x.grp)
  else if n = 0x088 then x.vfrPc
  else if n = 0x089 then x.vfrInfo
  else if n = 0x08A then x.vfrAddr
  else if !mx then 0
  else if n = 0x100 then BitVec.ofNat 32 (2 * b2n (holdsMxc s c) + b2n (holdsMxc s c && m.sat))
  else if n = 0x101 then (match m.holder with | some l => BitVec.ofNat 32 (0x80 + l % 4) | none => 0)
  else if n = 0x102 then BitVec.ofNat 32 (min (x.mxwait / 1000) 0xFFFFFFFF)
  else if n = 0x103 then BitVec.ofNat 32 (min (x.mxhold / 1000) 0xFFFFFFFF)
  else 0

/-- Pointer update effects. -/
def ptrEffs (f : MFmt) (p : Option (BitVec 32)) : List Eff := match p with | some v => [.wg f.a v] | none => []

/-- What a load writes for the bytes it read. -/
def loadEffs (f : MFmt) (b : List Byte) : List Eff :=
  match f.sz.toNat with
  | 1 => [.wg f.d ((BitVec.ofNat 8 (leNat b)).signExtend 32)]
  | 3 => [.wg f.d ((BitVec.ofNat 16 (leNat b)).signExtend 32)]
  | 5 => [.wg f.d (BitVec.ofNat 32 (leNat (b.take 4))), .wg (pairOf f.d) (BitVec.ofNat 32 (leNat (b.drop 4)))]
  | _ => [.wg f.d (BitVec.ofNat 32 (leNat b))]

/-- The accesses of a complete bundle: its load, the merge of its store to TCM (R412), and its reads of control registers.
Answers the effects as they then stand, or CAUSE, SUB and EADDR and whether a merge found it. -/
def runReads (s : State) (c : Nat) : List Eff → State × (List Eff ⊕ (Nat × Nat × Nat × Bool))
  | [] => (s, .inl [])
  | e :: r =>
    let here : State × (List Eff ⊕ (Nat × Nat × Nat × Bool)) :=
      match e with
      | .load f ea n p => match coreRead s c 1 ea n with
        | (t, .err cause sub) => (t, .inr (cause, sub, ea, false))
        | (t, .ok b) => (t, .inl (loadEffs f b ++ ptrEffs f p))
      | .store ea size v =>
        if ea + size ≤ 0x40000 then match coreQueue s c none ea (leBytes size v.toNat) with
          | (t, some (cause, sub)) => (t, .inr (cause, sub, ea, true))
          | (_, none) => (s, .inl [e])
        else (s, .inl [e])
      | .movc d n => (s, .inl [.wg d (ctlRead s c (s.core c) n)])
      | _ => (s, .inl [e])
    match here with
    | (t, .inr x) => (t, .inr x)
    | (t, .inl l) => match runReads t c r with
      | (u, .inl m) => (u, .inl (l ++ m))
      | (u, .inr x) => (u, .inr x)

/-! ## Commit and issue -/

/-- An effect that sets a sticky SAT, which stands beside a write of the register that holds it (R196, assumption 70). -/
def Eff.isSat : Eff → Bool
  | .sat | .vsat | .mxsat => true
  | _ => false

/-- The effects of a bundle in an order that does not depend on that of its instructions (R196). -/
def inOrder (l : List Eff) : List Eff := l.filter (fun e => !e.isSat) ++ l.filter Eff.isSat

/-- The vector memory instruction of an effect. -/
def vmemOf : Eff → Option VMemOp
  | .vmem op => some op
  | _ => none

/-- A bundle's instruction enters the vector queue and can be in it for others to see: a memory instruction, or another
behind one; a vector instruction that cannot fault and finds the queue empty completes as it enters (R244, assumption 23). -/
def enterQueue (x : Core) (b : Bundle) : Core :=
  match b.effs.findSome? vmemOf with
  | some op => { x with vq := x.vq ++ [if op.store then .store else .load], vpend := some op }
  | none =>
    if b.vecs ≠ 0 ∧ x.vq ≠ [] ∧ b.effs.any (fun e => e.isMxc || decide (e = .vsync)) = false then { x with vq := x.vq ++ [.other] }
    else x

/-- The bundle reaches WB and commits (R197, R199). -/
def commitBundle (s : State) (c : Nat) : State :=
  let x := s.core c
  let b := x.bundle
  let effs := inOrder b.effs
  let next := x.pc + 4 * b.count
  let y := effs.foldl (applyEff next) x
  let y := nextFetch s c x.pc next (enterQueue y b) effs
  let t := s.setCore c { y with bundle := Bundle.init, commits := x.commits + 1 }
  let t := effs.foldl (applySt c (x.pc + 4 * b.memAt)) t
  let t := effs.foldl (fun t e => applyMx t c e) t
  if effs.contains .tend then
    (if (pendingFaults (t.core c)).isEmpty then endTask s t c b.tendSlot else deliverFault t c) else t

/-- The bundle holds a store through a segment. -/
def Bundle.posts (b : Bundle) : Bool := b.effs.any fun e => match e with | .store ea size _ => decide (0x40000 < ea + size) | _ => false

/-- A bundle does not commit because an older fault is pending: of a vector instruction, once detected, or the MXC at the
first bundle that reaches WB, of a posted store at a bundle that must wait for it (R224, R246, R273). -/
def mustDeliver (x : Core) (b : Bundle) : Bool :=
  let has (e : Eff) : Bool := b.effs.contains e
  x.vseen || x.mxerr.isSome || (x.sberr.isSome && (has .fence || has .tend || (b.posts && decide (8 ≤ x.sbuf.length))))

/-- The open bundle of a core is complete and past RD. -/
def beginBundle (s : State) (c : Nat) : State :=
  s.setCore c { s.core c with bundle := { (s.core c).bundle with begun := true } }

/-- Posted stores that the complete bundle waits for are issued to DRAM: all of them at FENCE and TEND, the oldest where eight
are posted (R221, R224). -/
def settleStores (s : State) (c : Nat) : State :=
  let x := s.core c
  if x.bundle.effs.contains .fence || x.bundle.effs.contains .tend then
    issueWhere s fun e => e.posted.any fun p => decide (p.1 = c)
  else if x.bundle.posts && decide (8 ≤ x.sbuf.length) then
    issueWhere s fun e => e.posted.any fun p => decide (p.1 = c) && decide (x.sbuf.head? = some p.2)
  else s

/-- The vector queue while a complete bundle waits at RD: some entries, how many no rule says, have completed; it drains for
a synchronising instruction and for TEND; a load waits for the stores in it and a store for every access in it; and an
instruction that finds it full waits for the oldest (R243, R244, R248). -/
def settleQueue (s : State) (c : Nat) : State :=
  let q := (s.core c).vq
  if q.isEmpty then s
  else
    let b := (s.core c).bundle
    let d := s.drawNat
    let s := vcomplete d.2 c (d.1 % (q.length + 1))
    let s :=
      if b.effs.contains .vsync || b.effs.contains .tend then vdrain s c
      else if b.effs.any fun e => match e with | .store _ _ _ => true | _ => false then
        vcomplete s c (upToLast (fun e => decide (e ≠ .other)) (s.core c).vq)
      else if b.effs.any fun e => match e with | .load _ _ _ _ => true | _ => false then
        vcomplete s c (upToLast (fun e => decide (e = .store)) (s.core c).vq)
      else s
    if b.vecs ≠ 0 ∧ 32 ≤ (s.core c).vq.length then vcomplete s c 1 else s

/-- A complete bundle past RD: a fault is delivered or raised, or it commits. -/
def finishBundle (s : State) (c : Nat) : State :=
  let t := beginBundle (settleQueue (settleStores s c) c) c
  let x := t.core c
  if mustDeliver x x.bundle then deliverFault t c
  else match x.bundle.exc with
    | some e => raisePrecise t c e.slot e.cause e.sub e.eaddr
    | none => match runReads t c x.bundle.effs with
      | (u, .inr (cause, sub, ea, merge)) =>
        raiseExc u c { cause, sub, slot := 2, eaddr := ea, epc := x.pc, imprecise := false, merge }
      | (u, .inl effs) => commitBundle (u.setCore c { u.core c with bundle := { x.bundle with effs } }) c

/-- A complete bundle: one that requests the lock stalls at RD until the grant (R258). -/
def closeBundle (s : State) (c : Nat) : State :=
  if (s.core c).bundle.effs.contains .mxlock then
    let m := s.mxc (quadOf c)
    s.setMxc (quadOf c) { m with waiting := m.waiting ++ [(c % 36, 0)] }
  else finishBundle s c

/-- A core waits for its quad's lock: its bundle is complete and stands (R258). -/
def lockWaits (s : State) (c : Nat) : Bool := (s.mxc (quadOf c)).waiting.any fun w => decide (w.1 = c % 36)

/-- TEND waits until the task's channel is IDLE or PARKED (R403). -/
def tendWaits (s : State) (c : Nat) (effs : List Eff) : Bool :=
  effs.contains .tend && (match (s.core c).dmaChan with
    | some ch => decide ((s.chan ch).state = .running)
    | none => false)

/-- Number of an instruction's slot (R201). -/
def slotNo (b : Bundle) : Cls → Nat
  | .scalar => if b.scalars = 0 then 0 else 1
  | .mem => 2
  | .vec => 3

/-- The exception was found at decode. -/
def PendExc.atDecode (e : PendExc) : Bool := decide (e.cause ≤ 3)

/-- Of the exceptions of one bundle the one reported comes first here, whatever the order of its instructions (R196): an
instruction's own at decode, then BUNDLE, then one found at execution, the lowest slot first (DESIGN CHOICE,
assumption 70). -/
def PendExc.rank (e : PendExc) : Nat := (if e.cause = 2 then 1 else if e.cause ≤ 3 then 0 else 2) * 4 + e.slot

/-- The exception of two that is reported. -/
def firstExc (a b : Option PendExc) : Option PendExc :=
  match a, b with
  | some x, some y => if y.rank < x.rank then some y else some x
  | some x, none => some x
  | none, y => y

/-- One more instruction keeps the rules of R198. -/
def bundleOk (b : Bundle) (i : Iss) : Bool :=
  decide (b.count < 4) && decide (b.scalars + b2n (decide (i.cls = .scalar)) ≤ 2)
    && decide (b.mems + b2n (decide (i.cls = .mem)) ≤ 1) && decide (b.vecs + b2n (decide (i.cls = .vec)) ≤ 1)
    && decide (b.flows + b2n i.flow ≤ 1) && i.writes.all fun w => !b.writes.contains w

/-- The exception that an instruction brings to its bundle: of its own, or of the bundle whose rules it breaks, which no slot
names (R198, R222, R223, assumption 70). -/
def Iss.pend (i : Iss) (b : Bundle) : Option PendExc :=
  let slot := slotNo b i.cls
  let own : Option PendExc :=
    if i.absentUnit then some { slot, cause := 0x03, sub := 0x01, eaddr := 0 }
    else match i.illegal with
      | some sub => some { slot, cause := 0x01, sub, eaddr := 0 }
      | none => i.exc.map fun e => { slot, cause := e.1, sub := e.2.1, eaddr := e.2.2 }
  firstExc own (if bundleOk b i then none else some { slot := 0, cause := 0x02, sub := 0, eaddr := 0 })

/-- A bundle with one more instruction. -/
def Bundle.add (b : Bundle) (i : Iss) : Bundle :=
  { count := b.count + 1
    scalars := b.scalars + b2n (decide (i.cls = .scalar))
    mems := b.mems + b2n (decide (i.cls = .mem))
    vecs := b.vecs + b2n (decide (i.cls = .vec))
    flows := b.flows + b2n i.flow
    writes := b.writes ++ i.writes
    effs := b.effs ++ i.effs
    exc := firstExc b.exc (i.pend b)
    tendSlot := if i.effs.contains .tend then slotNo b i.cls else b.tendSlot
    memAt := if i.cls = .mem then b.count else b.memAt
    begun := b.begun }

/-- What an instruction adds, formed once the vector instructions before it have been carried out where it is one itself
(R244). -/
def formed (s : State) (c a : Nat) (mk : State → Core → Nat → Iss) : State × Iss :=
  let r := mk s (s.core c) a
  if r.cls = .vec ∧ (s.core c).vpend.isSome = true then
    let t := vrun s c
    (t, mk t (t.core c) a)
  else (s, r)

/-- Issue an instruction to core c: the fetch is checked at its address; it joins its bundle, with the exception that its
encoding, its execution or the bundle rules bring; with its stop bit set, or beyond four, the bundle is closed. No
instruction memory lies beyond 0xFFFF (DESIGN CHOICE, assumption 80). A core that runs nothing takes no instruction. -/
def issueM (c : Nat) (stop : Bool) (s : State) (mk : State → Core → Nat → Iss) : Res :=
  onUnit c 576 (done (
    let x := s.core c
    if !x.running || lockWaits s c then s
    else
      let a := x.pc + 4 * x.bundle.count
      if (x.bundle.count = 0 ∧ (x.pc < x.kbase.toNat ∨ x.klimit.toNat ≤ x.pc)) ∨ 0x10000 ≤ a then raisePrecise s c 0 0x05 0x02 0
      else
        match fetchWord s c a with
        | (t, some (cause, sub)) => raisePrecise t c 0 cause sub 0
        | (t, none) =>
          let (t, r) := formed t c a mk
          let b := x.bundle.add r
          let close := stop || decide (4 < b.count)
          match b.exc.filter PendExc.atDecode with
          | some e => if close then raisePrecise t c e.slot e.cause e.sub e.eaddr else t.setCore c { t.core c with bundle := b }
          | none =>
            if stop && tendWaits s c b.effs then s
            else
              let u := t.setCore c { t.core c with bundle := b }
              if close then closeBundle u c else u))

/-- Issue an instruction that reads registers only. -/
def issue (c : Nat) (stop : Bool) (s : State) (mk : Core → Nat → Iss) : Res :=
  issueM c stop s fun _ x a => mk x a

end Sys2Proof.Machine
end

