-- ==== Sys2Proof/Machine/Matrix.lean ====
section
/-!
DEFINITION. The quad matrix coprocessor: its instructions, its lock and its errors (R258 to R276).
-/
namespace Sys2Proof.Machine

/-! ## Fields and checks (R260, R274, R276) -/

/-- An m tile is named in bits [2:0] with bits [4:3] zero (R274). -/
def mOk (r : BitVec 5) : Bool := decide (r.toNat < 8)
/-- A z tile is named in bits [1:0] with bits [4:2] zero (R274). -/
def zOk (r : BitVec 5) : Bool := decide (r.toNat < 4)
/-- An unused field is zero (R274). -/
def zero5 (r : BitVec 5) : Bool := decide (r = 0)

/-- Issue an MXC instruction: absent unit, encoding, then the holder (R260, R274, R276). Operands are read from the
quad's state. -/
def mxIssue (c : Nat) (f : XFmt) (s : State) (ok : Bool) (mk : Mxc → Core → Iss) (odd : Bool := false) : Res :=
  issueM c f.stop s fun s x _ =>
    if !hasMxc s.part.variant then { cls := .vec, absentUnit := true }
    else if !ok then Iss.bad .vec 0
    else if odd then Iss.bad .vec 4
    else if !holdsMxc s c then { cls := .vec, exc := some (0x0C, 0x01, 0) }
    else mk (s.mxc (quadOf c)) x

/-- An MXC instruction with effects only. -/
def Iss.mx (effs : List Eff) : Iss := { cls := .vec, effs }

/-! ## Tiles (R263, R265) -/

/-- Element i of an m tile as two signed parts. -/
def mEl (m : Mxc) (t : BitVec 5) (i : Nat) : Int × Int :=
  let v := vget (vget m.m t.toNat (.replicate 64 0)) i 0
  ((v.extractLsb' 0 16).toInt, (v.extractLsb' 16 16).toInt)

/-- Element i of a z tile. -/
def zEl (m : Mxc) (t : BitVec 5) (i : Nat) : BitVec 40 × BitVec 40 := vget (vget m.z t.toNat (.replicate 64 (0, 0))) i (0, 0)

/-- Element (r, c) of mA, or of its conjugate transpose (R265). -/
def aEl (m : Mxc) (t : BitVec 5) (herm : Bool) (r c : Nat) : Int × Int :=
  if herm then let v := mEl m t (8 * c + r); (v.1, -v.2) else mEl m t (8 * r + c)

/-- The exact sum of eight complex products at (r, c) (R265). -/
def mmEl (m : Mxc) (a b : BitVec 5) (herm : Bool) (r c : Nat) : Int × Int :=
  (List.range 8).foldl (fun acc k =>
    let p := cmulExact false (aEl m a herm r k) (mEl m b (8 * k + c))
    (acc.1 + p.1, acc.2 + p.2)) (0, 0)

/-- A z element from two exact parts, wrapping at 40 bits. -/
def zOf (p : Int × Int) : BitVec 40 × BitVec 40 := (BitVec.ofInt 40 p.1, BitVec.ofInt 40 p.2)

/-- A matrix operation into zD: the old tile times `keep`, plus the product times `sign`. -/
def mmOp (c : Nat) (f : XFmt) (s : State) (herm : Bool) (keep sign : Int) : Res :=
  mxIssue c f s (zOk f.d && mOk f.a && mOk f.b && zero5 f.k) fun m _ =>
    Iss.mx [.wz (f.d.setWidth 2) ((List.range 64).map fun i =>
      let p := mmEl m f.a f.b herm (i / 8) (i % 8)
      let z := zEl m f.d i
      zOf (keep * z.1.toInt + sign * p.1, keep * z.2.toInt + sign * p.2))]

/-- MXMAC: zD + mA × mB. -/
def execMxmac (c : Nat) (f : XFmt) (s : State) : Res := mmOp c f s false 1 1
/-- MXMACH: zD + mA^H × mB. -/
def execMxmach (c : Nat) (f : XFmt) (s : State) : Res := mmOp c f s true 1 1
/-- MXMUL: mA × mB. -/
def execMxmul (c : Nat) (f : XFmt) (s : State) : Res := mmOp c f s false 0 1
/-- MXMULH: mA^H × mB. -/
def execMxmulh (c : Nat) (f : XFmt) (s : State) : Res := mmOp c f s true 0 1
/-- MXMSU: zD − mA × mB. -/
def execMxmsu (c : Nat) (f : XFmt) (s : State) : Res := mmOp c f s false 1 (-1)

/-- MXCLR: zD := 0 (R275). -/
def execMxclr (c : Nat) (f : XFmt) (s : State) : Res :=
  mxIssue c f s (zOk f.d && zero5 f.a && zero5 f.b && zero5 f.k) fun _ _ => Iss.mx [.mxclr (f.d.setWidth 2)]

/-- A z element narrowed to c16: shifted right by K, truncated, clipped (R265). -/
def packEl (k : Nat) (z : BitVec 40 × BitVec 40) : BitVec 32 × Bool :=
  let re := clipTo 16 (floorShift z.1.toInt k)
  let im := clipTo 16 (floorShift z.2.toInt k)
  (BitVec.ofNat 32 (re.1 % 65536 + im.1 % 65536 * 65536), re.2 || im.2)

/-- A z tile narrowed, with its clip mark. -/
def packTile (m : Mxc) (t : BitVec 5) (k : Nat) : List (BitVec 32) × Bool :=
  let l := (List.range 64).map fun i => packEl k (zEl m t i)
  (l.map (·.1), l.any (·.2))

/-- MXSTAT.SAT is set when a narrowing clipped (R265). -/
def mxSat (b : Bool) : List Eff := if b then [.mxsat] else []

/-- MXPACK: mD := zA narrowed (R265). -/
def execMxpack (c : Nat) (f : XFmt) (s : State) : Res :=
  mxIssue c f s (mOk f.d && zOk f.a && zero5 f.b) fun m _ =>
    let r := packTile m f.a f.k.toNat
    Iss.mx (.wm (f.d.setWidth 3) r.1 :: mxSat r.2)

/-- A c16 word from two parts, wrapping. -/
def c16Of (p : Int × Int) : BitVec 32 := BitVec.ofNat 32 (unsgn 16 p.1 + unsgn 16 p.2 * 65536)

/-- MXTRN: transpose (R275). -/
def execMxtrn (c : Nat) (f : XFmt) (s : State) : Res :=
  mxIssue c f s (mOk f.d && mOk f.a && zero5 f.b && zero5 f.k) fun m _ =>
    Iss.mx [.wm (f.d.setWidth 3) ((List.range 64).map fun i => c16Of (mEl m f.a (8 * (i % 8) + i / 8)))]

/-- MXHERM: conjugate transpose, parts wrapping (R275). -/
def execMxherm (c : Nat) (f : XFmt) (s : State) : Res :=
  mxIssue c f s (mOk f.d && mOk f.a && zero5 f.b && zero5 f.k) fun m _ =>
    Iss.mx [.wm (f.d.setWidth 3) ((List.range 64).map fun i => c16Of (aEl m f.a true (i / 8) (i % 8)))]

/-- MXRD: element gB[5:0] of zA into gD and gD+1, each part clipped to 32 bits (R265). D must be even. -/
def execMxrd (c : Nat) (f : XFmt) (s : State) : Res :=
  mxIssue c f s (zOk f.a && zero5 f.k) (fun m x =>
    let z := zEl m f.a ((x.rg f.b).toNat % 64)
    let re := clipTo 32 z.1.toInt
    let im := clipTo 32 z.2.toInt
    { cls := .vec, writes := [.g f.d.toNat, .g (pairOf f.d).toNat]
      effs := [.mxop, .wg f.d (BitVec.ofNat 32 re.1), .wg (pairOf f.d) (BitVec.ofNat 32 im.1)] ++ mxSat (re.2 || im.2) }) (oddReg f.d)

/-- MXBEXP: the least 40-bit rsb over the parts of zA, less 8 (R265). -/
def execMxbexp (c : Nat) (f : XFmt) (s : State) : Res :=
  mxIssue c f s (zOk f.a && zero5 f.b && zero5 f.k) fun m _ =>
    let n := (List.range 64).foldl (fun n i =>
      let z := zEl m f.a i
      min (min n (rsb 40 z.1.toNat)) (rsb 40 z.2.toNat)) 39
    { cls := .vec, writes := [.g f.d.toNat], effs := [.mxop, .wg f.d (BitVec.ofInt 32 ((n : Int) - 8))] }

/-- MXWR: element gB[5:0] of mD := gA (R275). -/
def execMxwr (c : Nat) (f : XFmt) (s : State) : Res :=
  mxIssue c f s (mOk f.d && zero5 f.k) fun m x =>
    let i := (x.rg f.b).toNat % 64
    let t := vget m.m f.d.toNat (.replicate 64 0)
    Iss.mx [.wm (f.d.setWidth 3) (vput t i (x.rg f.a)).toList]

/-! ## Memory (R266, R271, R272) -/

/-- Row addresses gA + r × gB, wrapping at 32 bits (R266). -/
def rowAddrs (x : Core) (f : XFmt) : List Nat :=
  (List.range 8).map fun r => (x.rg f.a + BitVec.ofNat 32 r * x.rg f.b).toNat

/-- The check of the rows at E1: ALIGN, then ACCESS, at the first row that fails (R266). -/
def rowFault (rows : List Nat) : Option (Nat × Nat × Nat) :=
  (rows.filterMap fun a =>
    if a % 4 ≠ 0 then some (0x04, 0, a) else if 0x40000 < a + 32 then some (0x05, 0, a) else none).head?

/-- A tile access at rows. -/
def rowIss (x : Core) (f : XFmt) (effs : List Nat → List Eff) : Iss :=
  match rowFault (rowAddrs x f) with
  | some e => { cls := .vec, exc := some e }
  | none => Iss.mx (effs (rowAddrs x f))

/-- MXLD (R266). -/
def execMxld (c : Nat) (f : XFmt) (s : State) : Res :=
  mxIssue c f s (mOk f.d && zero5 f.k) fun _ x => rowIss x f fun rows => [.mxld (f.d.setWidth 3) rows]

/-- MXST (R271). -/
def execMxst (c : Nat) (f : XFmt) (s : State) : Res :=
  mxIssue c f s (mOk f.d && zero5 f.k) fun m x =>
    rowIss x f fun rows => [.mxst rows (vget m.m f.d.toNat (.replicate 64 0)).toList]

/-- MXSTZ: narrowed as MXPACK (R271). -/
def execMxstz (c : Nat) (f : XFmt) (s : State) : Res :=
  mxIssue c f s (zOk f.d) fun m x =>
    let r := packTile m f.d f.k.toNat
    rowIss x f fun rows => .mxst rows r.1 :: mxSat r.2

/-- The check of a save area: a multiple of 64, wholly in TCM (R272). -/
def areaFault (a : Nat) : Option (Nat × Nat × Nat) :=
  if a % 64 ≠ 0 then some (0x04, 0, a) else if 0x40000 < a + 0x1840 then some (0x05, 0, a) else none

/-- MXSAVE (R272). -/
def execMxsave (c : Nat) (f : XFmt) (s : State) : Res :=
  mxIssue c f s (zero5 f.d && zero5 f.b && zero5 f.k) fun _ x =>
    match areaFault (x.rg f.a).toNat with
    | some e => { cls := .vec, exc := some e }
    | none => Iss.mx [.mxsave (x.rg f.a).toNat]

/-- MXRESTORE (R272). -/
def execMxrestore (c : Nat) (f : XFmt) (s : State) : Res :=
  mxIssue c f s (zero5 f.d && zero5 f.b && zero5 f.k) fun _ x =>
    match areaFault (x.rg f.a).toNat with
    | some e => { cls := .vec, exc := some e }
    | none => Iss.mx [.mxrestore (x.rg f.a).toNat]

/-! ## The lock (R258 to R261, R270) -/

/-- Fields of an operation without operands are zero (R274). -/
def bareX (f : XFmt) : Bool := zero5 f.d && zero5 f.a && zero5 f.b && zero5 f.k

/-- MXLOCK: the bundle stalls until the lock is granted; the holder raises RELOCK (R258, R260). -/
def execMxlock (c : Nat) (f : XFmt) (s : State) : Res :=
  issueM c f.stop s fun s _ _ =>
    if !hasMxc s.part.variant then { cls := .vec, absentUnit := true }
    else if !bareX f then Iss.bad .vec 0
    else if holdsMxc s c then { cls := .vec, exc := some (0x0C, 0x02, 0) }
    else Iss.mx [.mxlock]

/-- MXUNLOCK releases the lock at commit (R259). -/
def execMxunlock (c : Nat) (f : XFmt) (s : State) : Res := mxIssue c f s (bareX f) fun _ _ => Iss.mx [.mxunlock]

/-- MXSYNC waits until every older MXC operation is applied (R271). -/
def execMxsync (c : Nat) (f : XFmt) (s : State) : Res := mxIssue c f s (bareX f) fun _ _ => Iss.mx [.mxsync]

/-- The core that waits longest for a lock, as a local core with its wait behind holders of rank 2 to 4. -/
def nextWaiter (m : Mxc) : Option (Nat × Nat) := m.waiting.head?

/-- R258: the lock is granted to the oldest waiting core: its tiles and SAT read zero, and its bundle goes on from RD. -/
def execMxcLockGrant (m : Nat) (s : State) : Res :=
  onUnit m 144 (done (
    let x := s.mxc m
    match nextWaiter x with
    | none => s
    | some (l, _) =>
      if x.holder.isSome || x.draining || !hasMxc s.part.variant || !s.up (regMxc m) then s
      else
        let c := m / 9 * 36 + l
        let s := s.setMxc m { Mxc.init with holder := some l, waiting := x.waiting.tail, grantAt := s.time.now }
        finishBundle (s.bump keyMxcLockGrants 1) c))

/-- Rank of the task that a core runs. -/
def coreRank (s : State) (c : Nat) : Option Nat :=
  ((s.core c).task.bind (refRun s)).bind fun (j, r) => runRank s j r

/-- R261: a rank-1 task has waited MXC_WAIT_EVICT cycles while the holder runs a task of rank 2, 3 or 4. -/
def execMxcWaitEvict (m : Nat) (s : State) : Res :=
  onUnit m 144 (done (
    let x := s.mxc m
    match x.holder with
    | none => s
    | some h =>
      let hc := m / 9 * 36 + h
      let due := x.waiting.any fun w =>
        let c := m / 9 * 36 + w.1
        decide (coreRank s c = some 1) && decide (s.oval keyMxcWaitEvict * 1000 ≤ w.2)
      match (if x.draining then none else (s.core hc).task) with
      | none => s
      | some ref =>
        match refRun s ref with
        | none => s
        | some (_, r) =>
          if due && (match coreRank s hc with | some k => decide (2 ≤ k) | none => false)
              && decide (r.evictions < s.oval keyEvictMax) then
            settleAll s ((evictRun s ref).bump keyMxcWaitEvictions 1)
          else s))

/-- R270: an operation begun before a squash has run to its end, and the lock is released (R259). -/
def execMxcSquashDrainEnd (m : Nat) (s : State) : Res :=
  onUnit m 144 (done
    (if (s.mxc m).draining then s.setMxc m { s.mxc m with draining := false, holder := none, released := true } else s))

/-- Device time passes at the quad coprocessors: MXWAIT, MXHOLD and the waits behind holders of rank 2 to 4 are counted at
the clock of the time that passed (R261, R264). -/
def tickMxc (dt : Nat) (s : State) : State :=
  s.mxcs.foldl (fun (t : State) x =>
    let m := x.2
    let unit (l : Nat) : Nat := x.1 / 9 * 36 + l
    let low := match m.holder with
      | some h => !m.draining && (match coreRank s (unit h) with | some k => decide (2 ≤ k) | none => false)
      | none => false
    let n := dt * coreMHz s (x.1 / 9 * 36)
    let t := m.waiting.foldl (fun (t : State) w =>
      t.setCore (unit w.1) { t.core (unit w.1) with mxwait := (t.core (unit w.1)).mxwait + n }) t
    let t := match m.holder with
      | some h => if m.draining then t else t.setCore (unit h) { t.core (unit h) with mxhold := (t.core (unit h)).mxhold + n }
      | none => t
    if low && !m.waiting.isEmpty then t.setMxc x.1 { m with waiting := m.waiting.map fun w => (w.1, w.2 + n) } else t) s

/-- A tile word that the MXC could not read is logged: the second read has failed, and the part stays poisoned until the grant
that finds its tiles zero (R258, R408, R415, R434). A tile lies at no device address. -/
def noteTile (s : State) (c code : Nat) : State :=
  if code = 0x12 then
    memRecord ((s.bump keySramUncorrectable 1).bump keyPoisonedWords 1)
      { addr := 0, memory := 7, finder := 3, outcome := 2, unit := c } true
  else s

/-- An MXC error of a core that no longer runs the task that met it: logged, charged and counted as every MXC error (R53,
R273). -/
def lateMxc (s : State) (c code : Nat) : State :=
  if s.late.any fun x => decide (x.place = .core c) && decide (s.time.now ≤ x.until') then
    (lateFault (noteTile s c code) (.core c) 0x07 0 0 false (some (regMxc (quadOf c)))).bump keyMxcErrors 1
  else s

/-- R273: an imprecise MXC error is delivered. Codes 0x12 and 0x13 are found by the MXC itself; 0x10 and 0x11 stand
recorded from a TCM access. -/
def execMxcImpreciseError (c : Nat) (code : Nat) (addr : Nat) (s : State) : Res :=
  onUnit c 576 (done (
    let x := s.core c
    if !x.running then
      (if code = 0x12 ∨ code = 0x13 then lateMxc s c code else s)
    else match x.mxerr with
      | some (k, a, _) => if k = code ∧ a = addr then deliverFault s c else s
      | none => if (code = 0x12 ∨ code = 0x13) ∧ holdsMxc s c = true then deliverFault (recordMx (noteTile s c code) c code 0 false) c else s))

end Sys2Proof.Machine
end

