-- ==== Sys2Proof/Machine/Time.lean ====
section
/-!
DEFINITION. Device time, beats, steps and slews, second boundaries, PTP domains and their states, forwarding, PPS and the
10 MHz reference (R359, R363, R435 to R452, R456 to R459, R300).
-/
namespace Sys2Proof.Machine

/-! ## Flags and steps (R437, R438, R441, R457) -/

/-- TIME_FLAGS (R457). -/
def timeFlags (s : State) : Nat :=
  let x := s.time
  b2n x.traced + 2 * b2n x.stepRefused + 4 * b2n (decide (x.slew ≠ 0)) + 8 * b2n x.holdoverExceeded + 16 * b2n x.beatAlarm
    + 32 * b2n x.timeLost + 64 * b2n x.ppsPresent + 128 * b2n x.refLost

/-- An EVENT of TIME_FLAGS: a step has been applied or refused (R441). -/
def flagsEvent (s : State) : State := raiseScalar s keyTimeFlags (beBytes 2 (timeFlags s))

/-- A step is permitted (R441). -/
def stepAllowed (s : State) : Bool := !s.time.traced || s.oflag keyStepAllow

/-- A step is refused (R441). -/
def refuseStep (s : State) : State :=
  flagsEvent ({ s with time := { s.time with stepRefused := true } }.bump keyStepsRefused 1)

/-- A step that was written waits for the next beat (R437, R441). -/
def putStep (s : State) (d : Int) : State := { s with time := { s.time with step := some d, stepDemanded := false } }

/-- A magnitude added to the slew outstanding exceeds STEP_LIMIT (R441). -/
def beyondLimit (s : State) (d : Int) : Bool :=
  decide ((s.oval keyStepLimit) * 1000000000 < d.natAbs * 1000000000 + s.time.slew.natAbs)

/-- An adjustment within STEP_LIMIT is slewed (R438). -/
def addSlew (s : State) (d : Int) : State := { s with time := { s.time with slew := s.time.slew + d * 1000000000 } }

/-- The effective increment from the next beat on: INCREMENT, raised or lowered by SLEW_RATE while a slew is outstanding; a
switch-over pauses the slew (R436 to R438). -/
def effIncrement (s : State) : Nat :=
  let inc := s.time.increment
  let d := inc * s.oval keySlewRate / 1000000000
  if s.time.slew = 0 ∨ s.sv.switching.isSome = true then inc else if 0 < s.time.slew then inc + d else inc - d

/-- What 1,000 ns of device time work off of the slew, from the next beat on (R438). -/
def slewStep (s : State) : Int :=
  let d : Int := s.oval keySlewRate * 1000
  if s.time.slew = 0 ∨ s.sv.switching.isSome = true then 0 else if 0 < s.time.slew then d else -d

/-- What is left of a slew after the 1,000 ns of device time that end at a beat (R438). -/
def slewLeft (s : State) : Int :=
  let d := s.time.slewNow
  let x := s.time.slew
  if 0 < d ∧ 0 < x then max 0 (x - d) else if d < 0 ∧ x < 0 then min 0 (x - d) else x - d

/-- What the counter holds beyond the next multiple of 1,000 ns at the first cycle that reaches it (R436). -/
def nextFrac (s : State) : Nat :=
  let inc := max 1 s.time.incNow
  let left := (1000 - s.time.now % 1000) * 2 ^ 32
  if left ≤ s.time.frac then s.time.frac - left else ((left - s.time.frac + inc - 1) / inc) * inc - (left - s.time.frac)


/-! ## Demanded steps (R441, R444, R445, R450) -/

/-- The other domain may take over: LOCKED with an offset within STEP_LIMIT (R450). -/
def mayTakeOver (s : State) (n : Nat) : Bool :=
  domainOn s n && decide ((s.domain n).state = 3) && decide ((s.domain n).offset.natAbs ≤ s.oval keyStepLimit)

/-- The active domain changes and the new one's offset is slewed (R450). -/
def switchDomain (s : State) (n : Nat) : State :=
  let t := (addSlew (s.setOval keyActiveDomain n) (s.domain n).offset).bump keyDomainSwitches 1
  followHoldover { t with time := { t.time with traced := true, step := if t.time.stepDemanded then none else t.time.step } } n

/-- The automatic switch is made when it is possible (R450). -/
def autoSwitch (s : State) : Option State :=
  let n := 1 - activeDom s
  if s.oval keySwitchMode = 0 ∧ mayTakeOver s n = true then some (switchDomain s n) else none

/-- A demanded step that is not permitted: the other domain takes over, or the step is refused and the domain goes to
HOLDOVER (R441, R445, R450). -/
def refuseDemand (s : State) (n : Nat) : State := (autoSwitch s).getD (enterDomain (refuseStep s) n 4)

/-- The active domain demands a step: the other domain takes over where it can, and else the step waits for the next beat or
is refused (R441, R444, R445, R450). -/
def demandStep (s : State) (n : Nat) : State :=
  let d := s.domain n
  if s.oval keyServoMode ≠ 0 then s
  else
    let s := s.setDomain n { d with bad := 0 }
    match autoSwitch s with
    | some t => t
    | none =>
      if stepAllowed s then { s with time := { s.time with step := some d.offset, stepDemanded := true } }
      else refuseDemand s n

/-- The step that waits meets its beat: it is applied, which clears STEP_ALLOW and takes the domain that demanded it from
HOLDOVER to ACQUIRING; or it is no longer permitted and is refused (R437, R439, R441, R444, R445). -/
def applyStep (s : State) : State :=
  match s.time.step with
  | none => s
  | some d =>
    let n := activeDom s
    let t := { s with time := { s.time with step := none } }
    if !stepAllowed s then (if s.time.stepDemanded then refuseDemand t n else refuseStep t)
    else
      let x := { t.time with now := ((s.time.now : Int) + d).toNat, timeLost := false, stepRefused := false }
      let u := flagsEvent (({ t with time := x }.setOval keyStepAllow 0).bump keyStepsApplied 1)
      if s.time.stepDemanded ∧ domainState u n = 4 then enterDomain u n 2 else u

/-- The step that a beat carries: one that waits and is permitted (R437, R441). -/
def carriedStep (s : State) : Option Int := s.time.step.filter fun _ => stepAllowed s

/-- PPS_OUT is driven (R451). -/
def ppsDue (s : State) : Bool :=
  match s.oval keyPpsOutMode with
  | 0 => false | 1 => true | _ => s.time.traced && !s.time.holdoverExceeded

/-- PPS_OUT falls as soon as its mode drives it no longer (R451). -/
def followPps (s : State) : State :=
  if ppsDue s then s else { s with time := { s.time with ppsOut := none } }

/-! ## Beats and boundaries (R359, R363, R440, R451) -/

/-- A container whose slot has begun takes a buffer (R387). -/
def startSlot (s : State) (id : Nat) : State :=
  let c := tdCont s id
  if !tdRxEn c || !hasNbm s.part.variant || tdDen c = 0 || fhStopped s 5 then s
  else
    let (t, n) := getFhv s true id (slotAt (s.cell (tdCell c)) s.time.now)
    takeFhBuf t n

/-- What time alone brings: container slots, the idle times of R145 and R520, and the conditions of R359. -/
def byTime (s : State) : State :=
  let t := (List.range 512).foldl startSlot s
  trackAllDefects (trackEngines (trackIdle t))

/-- R440: the next multiple of 1,000 ns of device time is reached; the beat carries it with the effective increment that holds
from it on and any step (R437). While the time unit has no power the always-on counter keeps the time (R439). -/
def execTimeBeat (s : State) : Res :=
  if !s.supply.aonUp then done s
  else
    let next := (s.time.now / 1000 + 1) * 1000
    if !s.powered then done { s with time := { s.time with now := next, frac := 0, secondDone := false } }
    else
      let step := carriedStep s
      let alarms : List (Nat × Nat) := s.time.alarms.filter fun x => decide (next < x.2 + secNs)
      let x := { s.time with
        now := next, frac := nextFrac s, slew := slewLeft s, alarms, beatAlarm := !alarms.isEmpty
        ppsOut := s.time.ppsOut.filter fun t => decide (next < t), secondDone := false }
      let t := { s with time := x }
      let t := { t with time := { x with incNow := effIncrement t, slewNow := slewStep t } }
      done (byTime (followPps (applyStep ((tickMxc (next - s.time.now) t).emit (.beat next t.time.incNow step)))))

/-- An island of the part is powered: present, not gated or lost, and not among those that P2 switches off (R9 to R11, R516). -/
def islandPowered (s : State) (i : Nat) : Bool :=
  let v := s.part.variant
  let compute := decide (i < 16) || (decide (25 ≤ i) && decide (i ≤ 33))
  s.powered && !(compute && decide (s.power.state = 2)) &&
    (if i < 16 then clusterUp s i && !(s.cluster i).gated
     else if i < 20 then decide (4 * (i - 16) < nClusters v)
     else if 25 ≤ i ∧ i ≤ 33 then !(islandEngines s i).isEmpty && !s.power.gatedIslands.contains i
     else if 34 ≤ i ∧ i ≤ 37 then decide (i - 34 < nGroups v)
     else if 40 ≤ i ∧ i ≤ 43 then decide (i - 40 < nDramCh v)
     else true)

/-- R440: a powered island has received no beat for 4 µs. -/
def execBeatTimeout (island : Nat) (s : State) : Res :=
  onUnit island 48
    (whenSt (islandPowered s island) s { s with time := { s.time with alarms := kset s.time.alarms island s.time.now, beatAlarm := true } })

/-- A link at a second boundary: its counters are copied, and the second is judged good or bad (R359, R363). -/
def linkSecond (s : State) (sec g : Nat) : State :=
  let x := s.link g
  let bad := decide (s.oval keyDegThreshold ≤ x.secErrRows)
  s.setLink g { x with
    countersPrev := x.counters, latchSec := sec, secErrRows := 0
    badSecs := if x.framer = 0 then 0 else if bad then x.badSecs + 1 else 0
    goodSecs := if x.framer = 0 then 0 else if bad then 0 else x.goodSecs + 1 }

/-- An engine at a second boundary: its busy time in the second that ends (R300). -/
def engineSecond (now : Nat) (x : Engine) : Engine :=
  let run := if x.entry.isSome then now - max x.startTime (now - secNs) else 0
  { x with busy := 0, lastBusy := x.busy + run }

/-- R363: a device-time second boundary: counters are latched, seconds judged and PPS_OUT driven. -/
def execSecondBoundary (s : State) : Res :=
  let sec := s.time.now / secNs
  whenSt (s.powered && decide (s.time.now % secNs = 0) && !s.time.secondDone) s <|
    let t := (List.range 4).foldl (fun (t : State) g => linkSecond t sec g) s
    let t : State := { t with
      fh := { t.fh with lanes := t.fh.lanes.map fun (x : Nat × Lane) => (x.1, { x.2 with countersPrev := x.2.counters }) }
      engines := t.engines.map fun (x : Nat × Engine) => (x.1, engineSecond s.time.now x.2)
      time := { t.time with tcCount0 := 0, tcCount1 := 0, secondDone := true } }
    let t := if t.oflag keyClk10OutEn then t.emit .clk10 else t
    if ppsDue t then
      { t with time := { t.time with ppsOut := some (s.time.now + t.oval keyPpsOutWidth * usNs) } }.emit .pps
    else t

/-- R436: the 10 MHz input fails while it is selected. -/
def execRef10mhzLoss (s : State) : Res :=
  whenSt s.time.on10MHz s { s with time := { s.time with on10MHz := false, refLost := true } }

/-! ## Following a domain (R442 to R445, R450) -/

/-- The supervisor servo steers from an exchange of the active domain: it writes INCREMENT and demands an adjustment within
STEP_LIMIT. The spec states neither value, so both are free. -/
def servo (s : State) : State :=
  if s.oval keyServoMode ≠ 0 ∨ s.sv.switching.isSome = true then s
  else
    let (i, t) := s.drawNat
    let (a, u) := t.drawNat
    let lim := u.oval keyStepLimit
    let slew : Int := ((a % (2 * lim * 1000000000 + 1) : Nat) : Int) - (lim * 1000000000 : Nat)
    { u with time := { u.time with increment := 0x1FFE5C91D + i % (0x2001A36E3 - 0x1FFE5C91D + 1), slew } }

/-- An exchange of a domain with an offset and a path delay (R443, R444). -/
def exchange (s : State) (n : Nat) (offset : Int) (delay : Nat) : State :=
  let d := s.domain n
  let late := decide (s.oval keyStepLimit < offset.natAbs)
  let d := { d with
    offset, pathDelay := delay, good := if offset.natAbs ≤ 20 then d.good + 1 else 0, bad := if late then d.bad + 1 else 0 }
  let t := s.setDomain n d
  let active := decide (activeDom s = n)
  let t := if d.state = 4 && !late then enterDomain t n 2
    else if d.state = 2 && decide (16 ≤ d.good) then enterDomain t n 3
    else t
  let t := if active && decide (2 ≤ d.state) && decide (4 ≤ d.bad) then demandStep t n
    else if active && decide ((t.domain n).state ≠ 4) then servo t else t
  if !active && decide (domainState t (activeDom t) = 4) then (autoSwitch t).getD t else t

/-! ## Messages (R446, R447) -/

/-- A port hears the master that the domain follows on its other port, so that the other port's Announce is better by its
path alone (R446; the rule PRESUMED from the profile). -/
def passivePort (s : State) (n p : Nat) : Bool :=
  match liveAnn s n p, (s.domain n).slave.bind (liveAnn s n) with
  | some a, some b => decide (a.1 = b.1)
  | _, _ => false

/-- IEEE 1588 port state of a domain's port (R446, R447, R458): 0 before the device serves, 3 DISABLED, 2 FAULTY, 9 SLAVE,
7 PASSIVE, 6 MASTER in the active domain only, 4 LISTENING; what would be MASTER in the other domain is PASSIVE where it hears
an Announce and LISTENING else (the numbers and this PRESUMED from IEEE 1588). -/
def ptpPortState (s : State) (n p : Nat) : Nat :=
  if !s.serving then 0
  else if !domainOn s n || !tbit (s.oval (keyPtpPorts n)) p then 3
  else if !portUp s p then 2
  else if (s.domain n).slave = some p then 9
  else if passivePort s n p then 7
  else if activeDom s = n then 6
  else if (liveAnn s n p).isSome then 7
  else 4

/-- The domain with a number. -/
def domainOf (s : State) (num : Nat) : Option Nat :=
  [0, 1].find? fun n => domainOn s n && decide (s.oval (keyPtpDomain n) = num)

/-- PTP messages are taken on a port. -/
def ptpOpen (s : State) (port : Nat) : Bool := s.serving && s.powered && portUp s port

/-- The two destinations of the profile, 01-1B-19-00-00-00 and 01-80-C2-00-00-0E, by PTP_MAC (R446). -/
def ptpMac (n : Nat) : Nat := if n = 0 then 0x011B19000000 else 0x0180C200000E

/-- A message is sent to a destination that the profile takes; unicast is not supported (R446). -/
def ptpDst (mac : Nat) : Bool := decide (mac = ptpMac 0) || decide (mac = ptpMac 1)

/-- A message that the device discards and counts: sent elsewhere, or of an absent option (R446). -/
def ptpForeign (mac : Nat) (absent : Option PtpOption) : Bool := !ptpDst mac || absent.isSome

/-- The frame belongs to a domain that is only forwarded (R449). -/
def tcDomain (s : State) (d : Nat) : Bool := decide (d < 256) && tbit (s.domByte keyTcDomains (d / 8)) (d % 8)

/-- R444: a Sync exchange with the selected master completes (R443): t1 and t4 are the master's times, t2 and t3 the
device's, and the correction is in ns. -/
def execPtpSync (src : SyncFrom) (port : Nat) (t1 t2 t3 t4 : Int) (correction : Int) (s : State) : Res :=
  onUnit port 2 <|
    let n := b2n src.tb
    let asym := s.ovalInt (okey (0x3010 + n) (8 + port)) 32
    let delay := ((t2 - t1 - correction) + (t4 - t3)) / 2
    let offset := delay + asym + correction + t1 - t2
    if ptpOpen s port && ptpForeign src.dstMac src.absent then done (s.bump keyPtpDiscarded 1)
    else whenSt (ptpOpen s port && ptpPort s n port && decide ((s.domain n).slave = some port)) s
      (exchange (s.bump keyPtpRx 1) n offset delay.toNat)

/-- R446: an Announce is received. -/
def execPtpAnnounce (port : Nat) (head : PtpHead) (a : Announce) (s : State) : Res :=
  onUnit port 2 <|
    if !ptpOpen s port || tcDomain s head.domain then done s
    else if ptpForeign head.dstMac head.absent then done (s.bump keyPtpDiscarded 1)
    else match domainOf s head.domain with
      | none => done (s.bump keyPtpDiscarded 1)
      | some n =>
        if !ptpPort s n port then done (s.bump keyPtpDiscarded 1)
        else
          let t := (s.bump keyPtpRx 1).setDomain n
            ((s.domain n).setAnn port (some (a.gmIdentity, bmcaVector s n port a, s.time.now)))
          done (reselect t n)

/-- What a MASTER port announces: the grandmaster's parameters, one step on, while LOCKED, and otherwise those of the own
clock (R447; own identity, accuracy, variance and priority1 PRESUMED from the profile). -/
def announced (s : State) (n : Nat) : Announce :=
  let d := s.domain n
  match (if domainState s n = 3 then d.slave.bind d.ann else none) with
  | some (id, v, _) =>
    { source := Config.clockIdentity n, gmIdentity := id, gmClass := bits v 191 184, accuracy := bits v 183 176
      variance := bits v 175 160, priority1 := 128, priority2 := bits v 159 152, stepsRemoved := bits v 79 64 + 1 }
  | none =>
    { source := Config.clockIdentity n, gmIdentity := Config.clockIdentity n
      gmClass := if domainState s n = 3 then d.gmClass else ownVector s n / 2 ^ 32, accuracy := 0xFE, variance := 0xFFFF
      priority1 := 128, priority2 := s.oval (okey (0x3010 + n) 7) % 256, stepsRemoved := 0 }

/-- R446: a Delay_Req is answered on a MASTER port. -/
def execPtpDelayReq (port : Nat) (head : PtpHead) (requester : Nat) (correction : Int) (s : State) : Res :=
  onUnit port 2 <|
    if !ptpOpen s port || tcDomain s head.domain then done s
    else if ptpForeign head.dstMac head.absent then done (s.bump keyPtpDiscarded 1)
    else match domainOf s head.domain with
      | none => done (s.bump keyPtpDiscarded 1)
      | some n =>
        let t := s.bump keyPtpRx 1
        if ptpPortState s n port = 6 then
          done ((t.sendAt port 0 (.ptpResp port (ptpMac (s.oval (okey (0x3010 + n) 4))) head.domain requester s.time.now correction)).bump keyPtpTx 1)
        else done t

/-- R444: no Announce has arrived on the slave port within three intervals of 125 ms. -/
def execAnnounceReceiptTimeout (tb : Bool) (s : State) : Res :=
  let n := b2n tb
  let d := s.domain n
  match d.slave, d.slave.bind d.ann with
  | some p, some a =>
    whenSt (domainOn s n && s.powered && decide (a.2.2 + 375000000 ≤ s.time.now)) s <|
      let t := (s.setDomain n (d.setAnn p none)).bump keyAnnounceTimeouts 1
      reselect (if d.state = 3 then enterDomain t n 4 else t) n
  | _, _ => done s

/-- R446: the interval of an Announce (0), Sync (1) or Delay_Req (2) has passed and it is sent, untagged and so at priority 0
(R96). -/
def execPtpMessageTransmit (tb : Bool) (port kind : Nat) (s : State) : Res :=
  onUnit port 2 <|
    let n := b2n tb
    let st := ptpPortState s n port
    whenSt (ptpOpen s port && (if kind < 2 then decide (st = 6) else decide (kind = 2) && decide (st = 9))) s
      ((s.sendAt port 0 (.ptp port (ptpMac (s.oval (okey (0x3010 + n) 4))) (s.oval (keyPtpDomain n)) kind (announced s n))).bump keyPtpTx 1)

/-- R445: the active domain has been in HOLDOVER for HOLDOVER_LIMIT. -/
def execHoldoverLimit (s : State) : Res :=
  let n := activeDom s
  whenSt (decide (domainState s n = 4) && decide ((s.domain n).holdoverSince + s.oval keyHoldoverLimit * secNs < s.time.now)) s
    (followPps { s with time := { s.time with holdoverExceeded := true } })

/-! ## Forwarding and PPS (R449, R452) -/

/-- A frame with a residence time, in 2^-16 ns, added to its correctionField: bytes 8 to 15 of the PTP header, which follows
the EtherType and any tag (R449; the place PRESUMED from IEEE 1588-2019). -/
def addCorrection (frame : List Byte) (n : Int) : List Byte :=
  let off := (if beNat (slice frame 12 2) = 0x8100 then 18 else 14) + 8
  if frame.length < off + 8 then frame
  else frame.take off ++ beBytes 8 (unsgn 64 (sgn 64 (beNat (slice frame off 8)) + n)) ++ frame.drop (off + 8)

/-- The priority of a frame: that of its tag, and 0 untagged (R96; assumption 27). -/
def tagPcp (frame : List Byte) : Nat := if beNat (slice frame 12 2) = 0x8100 then beNat (slice frame 14 1) / 32 else 0

/-- R449: a frame of a TC domain, given without its FCS, goes to the other port unchanged but that Sync (0) and Delay_Req (1)
take the residence time, given in ns. -/
def execTcForward (port dstMac domain kind : Nat) (residence : Int) (frame : List Byte) (s : State) : Res :=
  onUnit port 2 <|
    if !ptpOpen s port || !tcDomain s domain then done s
    else
      let n := if port = 0 then s.time.tcCount0 else s.time.tcCount1
      let ok := decide (dstMac = 0x011B19000000) && decide (n < s.oval keyTcRateLimit) && portUp s (1 - port)
      if !ok then done (s.bump keyTcDiscarded 1)
      else
        let x := if port = 0 then { s.time with tcCount0 := n + 1 } else { s.time with tcCount1 := n + 1 }
        done ((({ s with time := x } : State).sendAt (1 - port) (tagPcp frame) (.forward (1 - port) (addCorrection frame (if kind < 2 then residence * 65536 else 0)))).bump keyTcForwarded 1)

/-- R452: a rising edge of PPS_IN with its timestamp. -/
def execPpsInEdge (t : Nat) (s : State) : Res :=
  whenSt (s.powered && decide (s.oval keyPpsInMode ≠ 0)) s <|
    let at' : Int := (t : Int) - s.ovalInt keyPpsInDelay 32
    let near : Int := (at' + 500000000) / 1000000000 * 1000000000
    let present := match s.time.lastPps with
      | some p => decide (p + 999000000 ≤ t) && decide (t ≤ p + 1001000000)
      | none => false
    let u := { s with time := { s.time with ppsOffset := near - at', lastPps := some t, ppsPresent := present } }
    if u.oval keyPpsInMode = 2 && domainOn u 0 && u.time.ta.slave.isNone then
      exchange (if u.time.ta.state = 1 then enterDomain u 0 2 else u) 0 (near - at') u.time.ta.pathDelay
    else u

/-- R452: no edge has arrived within 1 s + 1 ms of the last; TA in PPS mode has then no exchange left to follow. -/
def execPpsInEdgeMissing (s : State) : Res :=
  match s.time.lastPps with
  | none => done s
  | some p =>
    whenSt (decide (p + 1001000000 < s.time.now)) s <|
      let t := { s with time := { s.time with lastPps := none, ppsPresent := false } }
      if t.oval keyPpsInMode = 2 && domainOn t 0 && t.time.ta.slave.isNone && decide (t.time.ta.state = 3) then enterDomain t 0 4 else t

/-! ## Writes (R436, R441, R442, R449, R450, R456, R458) -/

/-- TIME_SET (R441). -/
def applyTimeSet (s : State) (w : WReq) : Applied :=
  if 999999999 < w.val % 2 ^ 32 then fails s csRange
  else if !stepAllowed s then (csConflict, refuseStep s)
  else (csOk, putStep (storeVal s w) ((ofTime80 w.val : Int) - s.time.now))

/-- ADJUST (R438, R441, R442). -/
def applyAdjust (s : State) (w : WReq) : Applied :=
  let d := sgn 32 w.val
  if s.oval keyServoMode = 0 then fails s csConflict
  else if !beyondLimit s d then (csOk, addSlew (storeVal s w) d)
  else if !stepAllowed s then (csConflict, refuseStep s)
  else (csOk, putStep (storeVal s w) (d + s.time.step.getD 0))

/-- INCREMENT (R436, R442). -/
def applyIncrement (s : State) (w : WReq) : Applied :=
  if w.val < 0x1FFE5C91D ∨ 0x2001A36E3 < w.val then fails s csRange
  else if s.oval keyServoMode = 0 then fails s csConflict
  else (csOk, { s with time := { s.time with increment := w.val } })

/-- ACTIVE_DOMAIN (R450). -/
def applyActiveDomain (s : State) (w : WReq) : Applied :=
  if 1 < w.val then fails s csRange
  else if w.val = 1 ∧ hasTb s.part.variant = false then fails s csAbsent
  else if !mayTakeOver s w.val then fails s csConflict
  else ifFlash s w (if w.val = activeDom s then s else switchDomain s w.val)

/-- PPS_OUT_MODE (R451). -/
def applyPpsOutMode (s : State) (w : WReq) : Applied :=
  ifFlash s w (followPps (storeVal s w))

/-- PPS_IN_MODE: TA may lose the exchanges that it follows (R444, R452). -/
def applyPpsInMode (s : State) (w : WReq) : Applied :=
  ifFlash s w (reselect (storeVal s w) 0)

/-- HOLDOVER_LIMIT: HOLDOVER_EXCEEDED says whether the time in HOLDOVER is longer (R445). -/
def applyHoldoverLimit (s : State) (w : WReq) : Applied :=
  let t := storeVal s w
  let still := decide ((t.domain (activeDom t)).holdoverSince + t.oval keyHoldoverLimit * secNs < t.time.now)
  ifFlash s w (followPps { t with time := { t.time with holdoverExceeded := t.time.holdoverExceeded && still } })

/-- TIME_REF_SEL (R436). -/
def applyTimeRefSel (s : State) (w : WReq) : Applied :=
  if 1 < w.val then fails s csRange
  else
    let t := storeVal s w
    ifFlash s w { t with time := { t.time with on10MHz := decide (w.val = 1), refLost := false } }

/-- PTP_DOMAIN: the instance follows its new number and knows no master of it yet (R458). -/
def applyPtpDomain (s : State) (w : WReq) : Applied :=
  let n := w.key / 256 - 0x3010
  if !within w.val 24 43 then fails s csRange
  else if hasTb s.part.variant && decide (s.oval (keyPtpDomain (1 - n)) = w.val) then fails s csConflict
  else
    let t := storeVal s w
    let t := if s.oval w.key = w.val then t else reselect (t.setDomain n { t.domain n with ann0 := none, ann1 := none }) n
    ifFlash s w t

/-- PTP_PORTS: the master is selected anew among the ports that take part (R446, R458). -/
def applyPtpPorts (s : State) (w : WReq) : Applied :=
  let n := w.key / 256 - 0x3010
  if 3 < w.val then fails s csRange else ifFlash s w (reselect (storeVal s w) n)

/-- PTP_ENABLE (R444). -/
def applyPtpEnable (s : State) (w : WReq) : Applied :=
  let n := w.key / 256 - 0x3010
  let t := storeVal s w
  let t := if domainOn s n == domainOn t n then t else followHoldover (t.setDomain n Domain.init) n
  ifFlash s w t

/-- TC_DOMAINS (R449). -/
def applyTcDomains (s : State) (w : WReq) : Applied :=
  let t := storeDom s w
  if [0, 1].any fun n => (decide (n = 0) || hasTb s.part.variant) && tcDomain t (s.oval (keyPtpDomain n)) then fails s csConflict
  else ifFlash s w t

end Sys2Proof.Machine
end

