-- ==== Sys2Proof/Machine/Optics.lean ====
section
/-!
DEFINITION. Optical modules: polling, life records, prediction, draining and replacement (R506 to R513, R515).
-/
namespace Sys2Proof.Machine

/-! ## Positions (R507) -/

/-- MODULE_MAP record of a position. -/
def moduleMap (s : State) (p : Nat) : Nat := domRec s keyModuleMap 8 p

/-- Fronthaul lanes of host lanes 1 to 4, 0x7F being none. -/
def hostLanes (v : Nat) : List Nat := [bits v 55 49, bits v 48 42, bits v 41 35, bits v 34 28]

/-- Fronthaul lanes that a record maps. -/
def recLanes (v : Nat) : List Nat := (hostLanes v).filter fun n => decide (n ≠ 0x7F)

/-- Lanes of a position. -/
def moduleLanes (s : State) (p : Nat) : List Nat := recLanes (moduleMap s p)

/-- A position is fitted. -/
def moduleOn (s : State) (p : Nat) : Bool := tbit (moduleMap s p) 63

/-- State of a position. -/
def State.module (s : State) (p : Nat) : Module := kgetD s.opt.modules p Module.init

/-- Replace the state of a position. -/
def State.setModule (s : State) (p : Nat) (x : Module) : State := { s with opt := { s.opt with modules := kset s.opt.modules p x } }

/-- The life record of a serial: its place and contents. -/
def lifeOf (s : State) (serial : Nat) : Option (Nat × Life) := s.opt.lives.find? fun x => decide (x.2.serial = serial)

/-- Replace a life record. -/
def setLife (s : State) (i : Nat) (x : Life) : State := { s with opt := { s.opt with lives := kset s.opt.lives i x } }

/-- Nanoseconds in an hour. -/
abbrev hourNs : Nat := 3600 * secNs

/-- Equivalent hours of a life record. -/
def eqHours (x : Life) : Nat := x.equiv / (hourNs * 65536)

/-- A MODULE_STATE record (R515). -/
def moduleNat (s : State) (p : Nat) : Nat :=
  let x := s.module p
  let l := x.serial.bind (lifeOf s)
  x.state % 8 * 2 ^ 125 + b2n x.drainBlocked * 2 ^ 124 + b2n x.unplanned * 2 ^ 123 + unsgn 16 x.temp * 2 ^ 104
    + x.drift % 256 * 2 ^ 96 + x.replaceBy % 2 ^ 32 * 2 ^ 64
    + (match l with | some (_, y) => eqHours y % 2 ^ 32 * 2 ^ 32 + y.laserOn / hourNs % 2 ^ 32 | none => 0)

/-- An EVENT of a position's record. -/
def moduleEvent (s : State) (p : Nat) : State := raiseEvent s keyModuleState (16 * p) (beBytes 16 (moduleNat s p))

/-- A position's presence is lost: no mapped lane has a signal (R508). -/
def moduleGone (s : State) (p : Nat) : Bool := (moduleLanes s p).all fun n => !(s.lane n).signal

/-! ## Life (R509, R510) -/

/-- The largest number of so many bits, above a floor, whose 2,560th power is at most m. -/
def root2560 (m : Nat) : Nat → Nat → Nat
  | 0, r => r
  | n + 1, r => root2560 m n (if (r + 2 ^ n) ^ 2560 ≤ m then r + 2 ^ n else r)

/-- 2^((T − T_REF) ÷ 10) clipped to 0.25 to 16, in units of 2^-16, rounded down; T in 1/256 °C (R509). -/
def wearFactor (temp tref : Int) : Nat :=
  let n := max (-5120) (min 10240 (temp - tref * 256))
  root2560 (2 ^ (40960 + n).toNat) 21 0

/-- A lane's transmitter is enabled. -/
def laserOn (s : State) (p : Nat) : Bool := (moduleLanes s p).any fun n => decide ((s.lane n).state ≠ .off)

/-- A new life record. -/
def Life.new (serial vendor day : Nat) : Life :=
  { serial, vendor, powered := 0, laserOn := 0, equiv := 0, baseSum := [0, 0, 0, 0], baseCount := 0, firstDay := day
    lastDay := day, hist := [], equivHist := [] }

/-- The place for a new record: the first free of 128, else that seen longest ago (R510). -/
def lifeSlot (s : State) : Nat :=
  match (List.range 128).find? fun i => (kget s.opt.lives i).isNone with
  | some i => i
  | none => (s.opt.lives.foldl (fun (b : Nat × Nat) x => if x.2.lastDay < b.2 then (x.1, x.2.lastDay) else b) (0, 2 ^ 64)).1

/-- The record of a module, made when its serial has none. -/
def getLife (s : State) (serial vendor : Nat) : State × Nat :=
  match lifeOf s serial with
  | some (i, _) => (s, i)
  | none => let i := lifeSlot s; (setLife s i (Life.new serial vendor (today s)), i)

/-- Hours of one poll interval: powered, laser-on and equivalent, with the baseline of the first 24 laser-on hours. -/
def countLife (s : State) (p dt : Nat) (x : Life) (reading : Option ModuleReading) : Life :=
  let on := laserOn s p
  let y := { x with powered := x.powered + dt, laserOn := if on then x.laserOn + dt else x.laserOn, lastDay := today s }
  match reading with
  | none => y
  | some r =>
    let y := if on then { y with equiv := y.equiv + dt * wearFactor r.temp (s.ovalInt keyTRef 16) } else y
    if on && decide (x.laserOn < 24 * hourNs) then
      { y with baseSum := (List.range 4).map fun i => nth0 y.baseSum i + nth0 r.bias i, baseCount := y.baseCount + 1 }
    else y

/-! ## Prediction (R511) -/

/-- d of R511: the worst mapped lane's drift in %; with no baseline, or one of 0, a free value. -/
def driftOf (x : Life) (lanes bias : List Nat) : Int :=
  let ds : List Int := (lanes.zipIdx.filter fun (n, _) => decide (n ≠ 0x7F)).map fun (_, i) =>
    let base : Int := (nth0 x.baseSum i / max 1 x.baseCount : Nat)
    if base = 0 then Config.driftNoBase (nth0 bias i) else 100 * ((nth0 bias i : Int) - base) / base
  match ds with
  | [] => 0
  | d :: r => r.foldl max d

/-- Least-squares slope of a history, one value a day, in 1/100 of its unit per day. -/
def slopeOf (h : List Int) : Int :=
  let n : Int := h.length
  let sx : Int := n * (n - 1) / 2
  let sxx : Int := (n - 1) * n * (2 * n - 1) / 6
  let sy := h.foldl (· + ·) 0
  let sxy := (h.zipIdx.map fun (y, i) => y * (i : Int)).foldl (· + ·) 0
  if n * sxx - sx * sx = 0 then 0 else 100 * (n * sxy - sx * sy) / (n * sxx - sx * sx)

/-- REPLACE_BY of R511: today where the drift has reached BIAS_EOL; where neither bias nor wear limits it, the largest
count. -/
def replaceBy (s : State) (d : Int) (hist : List Int) (eq : List Nat) : Nat :=
  if hist.length < 7 then 0
  else if (s.oval keyBiasEol : Int) ≤ d then today s
  else
    let sl := slopeOf hist
    let r : Int := match eq, eq.getLast? with
      | a :: _ :: _, some b => ((b : Int) - a) / ((eq.length : Int) - 1)
      | _, _ => 0
    let now : Int := (eq.getLast?.getD 0 : Nat)
    let bias := if 0 < sl then some (((s.oval keyBiasEol : Int) - d) * 100 / sl) else none
    let wear := if 0 < r then some (((s.oval keyRatedHours : Int) - now) / r) else none
    match bias, wear with
    | some a, some b => today s + (max 0 (min a b)).toNat
    | some a, none => today s + (max 0 a).toNat
    | none, some b => today s + (max 0 b).toNat
    | none, none => 0xFFFFFFFF

/-- The module whose serial a position holds is the one that is fitted: the position is not EMPTY, or is about to leave EMPTY by a
restore. -/
def Module.known (x : Module) : Bool := x.restoring || decide ((if x.state = 5 then x.before else x.state) ≠ 0)

/-- One readable module at a day boundary: three failed reads make one unreadable (R508). -/
def moduleDay (s : State) (p : Nat) : State :=
  let x := s.module p
  match x.serial.bind (lifeOf s) with
  | none => s
  | some (i, l) =>
    if !moduleOn s p || !x.known || decide (3 ≤ x.fails) then s
    else
      let d := driftOf l (hostLanes (moduleMap s p)) x.bias
      let hist := (l.hist ++ [d]).drop (l.hist.length - 29)
      let eq := (l.equivHist ++ [eqHours l]).drop (l.equivHist.length - 30)
      (setLife s i { l with hist, equivHist := eq }).setModule p { x with
        drift := if 0 ≤ d ∧ d < 256 then d.toNat else (Config.driftByte d).toNat, replaceBy := replaceBy s d hist eq }

/-! ## Draining and replacement (R512, R513) -/

/-- REPLACE_BY is known and lies within so many days of today. -/
def dueWithin (s : State) (x : Module) (days : Nat) : Bool := decide (x.replaceBy ≠ 0) && decide (x.replaceBy ≤ today s + days)

/-- A module is due to drain: its date has come with AUTO_DRAIN 1 (R512). -/
def drainDue (s : State) (x : Module) : Bool :=
  decide (x.state = 2) && s.oflag keyAutoDrain && dueWithin s x (s.oval keyDrainDays)

/-- One position's drain goes before another's: the earlier REPLACE_BY, then the lower position (R513). -/
def drainsBefore (a b : Nat × Module) : Bool :=
  decide (a.2.replaceBy < b.2.replaceBy) || (decide (a.2.replaceBy = b.2.replaceBy) && decide (a.1 < b.1))

/-- Another position that is due or whose drain is waiting goes first in a lane's group (R513). -/
def otherFirst (s : State) (p n : Nat) : Bool :=
  s.opt.modules.any fun y =>
    let wants := if drainDue s y.2 && moduleOn s y.1 then moduleLanes s y.1 else if y.2.restoring then [] else y.2.todo
    decide (y.1 ≠ p) && (wants.any fun m => decide (m / 17 = n / 17)) && drainsBefore y (p, s.module p)

/-- Issue one waiting lane command of a position, and whether R339 refuses it; one accepted or not needed waits no longer. -/
def issueLane (p : Nat) (b : State × Bool) (n : Nat) : State × Bool :=
  let t := b.1
  let x := t.module p
  let drop (u : State) : State := u.setModule p { u.module p with todo := (u.module p).todo.filter fun m => decide (m ≠ n) }
  if x.restoring then
    if (t.lane n).drain = .normal then (drop t, b.2)
    else match restoreLane t n with | some u => (drop u, b.2) | none => (t, true)
  else if laneDrain t n ≠ .normal then (drop t, b.2)
  else if otherFirst t p n then b
  else match drainLane t n with | some u => (drop u, b.2) | none => (t, true)

/-- Issue the waiting lane commands of a position again; those refused stay and set DRAIN_BLOCKED (R513). -/
def issueTodo (s : State) (p : Nat) : State :=
  let t := (s.module p).todo.foldl (issueLane p) (s, false)
  t.1.setModule p { t.1.module p with drainBlocked := t.2 }

/-- A position begins to drain (R512). -/
def startDrain (s : State) (p : Nat) : State :=
  issueTodo (s.setModule p { s.module p with state := 3, todo := moduleLanes s p, restoring := false }) p

/-- Every mapped lane is drained (R341, R512). -/
def lanesDrained (s : State) (p : Nat) : Bool := (moduleLanes s p).all fun n => decide (laneDrain s n = .drained)

/-- Every mapped lane that is not retired is back to NORMAL (R341, R512; assumption 56). -/
def lanesNormal (s : State) (p : Nat) : Bool :=
  (moduleLanes s p).all fun n => laneRetired s n || decide ((s.lane n).drain = .normal)

/-- What follows from dates and lanes: WARN, DRAINING, DRAINED, and the end of a restore (R512). -/
def followModule (s : State) (p : Nat) : State :=
  let x := s.module p
  if x.restoring && lanesNormal s p then
    s.setModule p { x with restoring := false, todo := [], drainBlocked := false, state := if dueWithin s x (s.oval keyWarnDays) then 2 else 1 }
  else
    let s := if x.state = 1 && dueWithin s x (s.oval keyWarnDays) then moduleEvent (s.setModule p { x with state := 2 }) p else s
    let x := s.module p
    let s := if drainDue s x then startDrain s p else s
    let x := s.module p
    if x.state = 3 && lanesDrained s p then
      (moduleEvent (s.setModule p { x with state := 4, todo := [], drainBlocked := false }) p).bump keyDrainsCompleted 1
    else s

/-- At a poll the lane commands that wait are issued again (R513), and what follows from dates and lanes follows. -/
def advanceModule (s : State) (p : Nat) : State :=
  followModule (if (s.module p).todo.isEmpty then s else issueTodo s p) p

/-- A module is read: its identity, values and hours, and where the position then stands (R508, R509, R512). With AUTO_RESTORE
a new serial at an EMPTY position waits until its lanes are ALIGNED, and then for its DRAINED lanes to be restored. -/
def moduleRead (s : State) (p : Nat) (r : ModuleReading) : State :=
  let x := s.module p
  let dt := match x.lastPoll with | some t => if x.serial = some r.serial ∧ x.known = true then s.time.now - t else 0 | none => 0
  let (t, i) := getLife s r.serial r.vendor
  let l := (kget t.opt.lives i).getD (Life.new r.serial r.vendor 0)
  let t := setLife t i (countLife s p dt l (some r))
  let fresh := decide (x.serial ≠ some r.serial)
  let st := if x.state = 5 then x.before else x.state
  let y := { x with
    temp := r.temp / 32, bias := r.bias, serial := some r.serial, fails := 0, state := st
    replaceBy := if fresh then 0 else x.replaceBy, drift := if fresh then 0 else x.drift }
  let lanes := moduleLanes t p
  let auto := t.oflag keyAutoRestore || (x.restoring && lanes.any fun n => decide ((t.lane n).drain = .verify))
  if st = 0 then
    if (x.restoring || fresh) && !lanesNormal t p && auto then
      let ready := t.oflag keyAutoRestore && lanes.all fun n => decide ((t.lane n).state = .aligned)
      t.setModule p { y with
        restoring := true, todo := if ready then lanes.filter fun n => decide ((t.lane n).drain = .drained) else x.todo }
    else t.setModule p { y with state := 1, unplanned := false, restoring := false, todo := [] }
  else t.setModule p (if fresh then { y with state := 1 } else y)

/-- A read fails: after three the position is unreadable, or empty when its presence is lost too (R508, R512). -/
def moduleFail (s : State) (p : Nat) : State :=
  let x := s.module p
  let s := (s.emit (.omClear (p / 8))).bump keyModuleReadFails 1
  let n := x.fails + 1
  let st := if x.state = 5 then x.before else x.state
  let dt := match x.lastPoll with | some t => if x.known then s.time.now - t else 0 | none => 0
  let s := match x.serial.bind (lifeOf s) with
    | some (i, l) => if moduleGone s p then s else setLife s i (countLife s p dt l none)
    | none => s
  if n < 3 then s.setModule p { x with fails := n }
  else if moduleGone s p then
    let empty : Module := { x with fails := n, state := 0, todo := [], restoring := false, drainBlocked := false }
    if st = 0 then s.setModule p empty
    else if st = 4 then s.setModule p { empty with unplanned := false }
    else (s.setModule p { empty with unplanned := true }).bump keyUnplannedRemovals 1
  else s.setModule p { x with fails := n, state := 5, before := st }

/-- R508: a position is read. -/
def execOmPoll (pos : Nat) (reading : Option ModuleReading) (s : State) : Res :=
  onUnit pos 32 <|
    let due := match (s.module pos).lastPoll with
      | none => true
      | some t => decide (t + s.oval keyOmPoll * msNs ≤ s.time.now)
    whenSt (s.serving && s.powered && s.sv.switching.isNone && moduleOn s pos && due) s <|
      let s := s.emit (.om (pos / 8) (2 ^ (pos % 8)))
      let t := match reading with | some r => moduleRead s pos r | none => moduleFail s pos
      advanceModule (t.setModule pos { t.module pos with lastPoll := some s.time.now }) pos

/-- Put a position in its place among those in order of their drains. -/
def putDrain (s : State) (p : Nat) : List Nat → List Nat
  | [] => [p]
  | q :: l => if drainsBefore (p, s.module p) (q, s.module q) then p :: q :: l else q :: putDrain s p l

/-- R511: a day boundary updates every readable module; of those then due the earlier REPLACE_BY drains first (R513). -/
def execDayBoundary (s : State) : Res :=
  whenSt (s.serving && s.powered && decide (s.time.now % (86400 * secNs) = 0) && decide (s.opt.day ≠ today s)) s <|
    let t := { s with opt := { s.opt with day := today s } }
    let ps := (List.range 32).filter (moduleOn t)
    let u := ps.foldl moduleDay t
    (ps.foldl (fun l p => putDrain u p l) []).foldl followModule u

/-! ## Writes (R507, R512, R513, R515) -/

/-- A list names no element twice. -/
def noRepeat (l : List Nat) : Bool := l.zipIdx.all fun (n, i) => !((l.drop (i + 1)).contains n)

/-- MODULE_MAP (R507). -/
def applyModuleMap (s : State) (w : WReq) : Applied :=
  let ps := touched w 8
  let t := storeRecs s w 8 (2 ^ 63 + (2 ^ 28 - 1) * 2 ^ 28)
  let bad := ps.any fun p =>
    let ls := moduleLanes t p
    !noRepeat (ls.map (· / 17)) || (ls.any fun n => decide (17 * nGroups s.part.variant ≤ n))
      || (List.range 32).any fun q => decide (q ≠ p) && ls.any fun n => (moduleLanes t q).contains n
  let changed := ps.filter fun p => decide (moduleMap t p ≠ moduleMap s p)
  if bad then fails s csRange
  else if changed.any fun p => moduleOn s p && (moduleLanes s p).any fun n => decide (laneDrain s n ≠ .normal) then fails s csConflict
  else ifFlash s w (changed.foldl (fun (u : State) p => u.setModule p Module.init) t)

/-- OPTICS_CMD (R512, R513, R515). -/
def applyOpticsCmd (s : State) (w : WReq) : Applied :=
  let p := w.val % 32
  let c := w.val / 256
  let x := s.module p
  if w.val ≠ p + 256 * c ∨ (c ≠ 1 ∧ c ≠ 2) then fails s csRange
  else if c = 1 then
    if x.state ≠ 2 then fails s csConflict else (csOk, startDrain (storeVal s w) p)
  else if x.state ≠ 4 ∨ (s.oflag keyAutoDrain && dueWithin s x (s.oval keyDrainDays)) = true then fails s csConflict
  else
    let t := (storeVal s w).setModule p { x with restoring := true, todo := moduleLanes s p }
    (csOk, advanceModule t p)

/-- WARN_DAYS and DRAIN_DAYS: DRAIN_DAYS is at most WARN_DAYS (R515). -/
def applyOpticsDays (s : State) (w : WReq) : Applied :=
  let t := storeVal s w
  if t.oval keyWarnDays < t.oval keyDrainDays then fails s csRange else ifFlash s w t

end Sys2Proof.Machine
end

