-- ==== Sys2Proof/Machine/Boot.lean ====
section
/-!
DEFINITION. What the device does at the serviceable instant (R84, R106, R326, R358, R444, R552 to R554).
-/
namespace Sys2Proof.Machine

/-- The acceptance entry of one queue before its first record (R84): REPEAT, over the journaled jobs not acknowledged. -/
def repeatEntry (s : State) (q : Nat) : State :=
  let x := s.queue q
  if 4096 ≤ q ∨ x.ackSeq + 1 = x.nextSeq then s
  else addEntry s x.activePort
    { sqid := q, code := 0, unmirrored := false, rep := true, firstSeq := x.ackSeq + 1, lastSeq := x.nextSeq - 1
      nextSeq := x.nextSeq, since := s.time.now }

/-- The retransmission timer of a queue with unacknowledged records stands as though it had expired (R106). -/
def timerDue (s : State) (q : Nat) : State :=
  s.setQueue q { s.queue q with retxDue := s.time.now, retxInterval := s.oval keyRetxTimeout }

/-- Acceptance entries, fresh credit, then every released and unacknowledged record with RETX, where a port can send, for
the device's queues and those of a source whose take-over is running (R84, R94, R106). -/
def resumeQueues (s : State) : State :=
  let qs := s.queues.map (·.1)
  let t := qs.foldl (fun (t : State) q => repeatEntry (timerDue t q) q) s
  let t := flushEntries (flushEntries t 0) 1
  let t := qs.foldl creditHeld t
  qs.foldl (fun (t : State) q => if canSend t (t.queue q).activePort then retxFire t q else t) t

/-- Enabled lane groups are powered and enabled links leave OFF (R326, R334, R358, R554). -/
def startLanes (s : State) : State :=
  (List.range 4).foldl (fun (t : State) g =>
    if groupEnabled t g && !groupOn t g then followLink (startGroup t g) g else t) s

/-- The device becomes serviceable (R554). -/
def becomeServiceable (s : State) : State :=
  let t := { s with supply := { s.supply with bootState := 5, bootTime := (s.time.now - s.supply.releaseAt) / msNs } }
  let t := (List.range 4).foldl setRail (startStream (startLanes t))
  settleAll s (reOvercast (resumeQueues t))

/-- The boot has reached its last step (R552, R553). -/
def bootReady (s : State) : Bool := decide (s.supply.bootState = 4) && s.supply.restart.isNone && s.powered

end Sys2Proof.Machine
end

