-- ==== Sys2Proof/Machine/Supply.lean ====
section
/-!
DEFINITION. The supply inputs, PWR_GOOD, RESET_N and the alarms that the always-on island serves (R485, R538 to R542,
R546, R547, R552, R558, R566, R570).
-/
namespace Sys2Proof.Machine

/-! ## Supply inputs (R539 to R541) -/

/-- SUPPLY_STATE (R555). -/
def supplyState (s : State) : Nat :=
  b2n s.supply.onBackup + 2 * b2n s.supply.pwrGood + 4 * b2n s.supply.bkupOk + 8 * b2n (regLow s)

/-- One supply region follows its condition while PWR_GOOD is high; a byte that becomes 3 raises an EVENT (R539). -/
def supplyRegion (s : State) (r : Nat) (bad : Bool) : State :=
  if !s.supply.pwrGood then s
  else if bad && decide (s.regState r ≠ 3) then raiseScalar (s.setRegState r 3) keySupplyState [BitVec.ofNat 8 (supplyState s)]
  else if !bad && decide (s.regState r = 3) then s.setRegState r 0
  else s

/-- Both supply regions (R539). -/
def supplyRegions (s : State) : State :=
  supplyRegion (supplyRegion s (regVin 0) s.supply.onBackup) (regVin 1) (!s.supply.bkupOk)

/-- VIN_MAIN_LOW (R539). -/
def execVinMainLow (s : State) : Res :=
  let t := { s with supply := { s.supply with mainOk := false, onBackup := true } }
  whenSt (s.supply.aonUp && s.supply.mainOk) s (supplyRegions (t.bump keyInputSwitches 1))

/-- VIN_MAIN_RESTORED (R539). -/
def execVinMainRestored (s : State) : Res :=
  let t := { s with supply := { s.supply with mainOk := true, onBackup := false } }
  whenSt (s.supply.aonUp && !s.supply.mainOk) s (supplyRegions (t.bump keyInputSwitches 1))

/-- BKUP_OK_MEASURE: BKUP_OK falls below the level and rises 20 mV above it (R540, assumption 45). -/
def execBkupOkMeasure (mv : Nat) (s : State) : Res :=
  let level := s.oval keyBkupOkLevel
  let ok := if s.supply.bkupOk then decide (level ≤ mv) else decide (level + 20 ≤ mv)
  whenSt s.supply.aonUp s (supplyRegions { s with supply := { s.supply with bkupMv := mv, bkupOk := ok } })

/-- VIN_BKUP_LOSS: the always-on island loses its contents (R541). -/
def execVinBkupLoss (s : State) : Res :=
  let t := loseAon (beginRestart s 1)
  whenSt (s.supply.aonUp && s.supply.onBackup) s
    { t with supply := { t.supply with aonUp := false, onBackup := false, bkupOk := false } }

/-- ALWAYS_ON_POWER_ON (R538, R546). -/
def execAlwaysOnPowerOn (mainOk : Bool) (bkupMv : Nat) (s : State) : Res :=
  let t := withCause (loseAon s) 1
  let t := { t with supply := { t.supply with
    aonUp := true, mainOk, onBackup := !mainOk, bkupMv, bkupOk := decide (s.oval keyBkupOkLevel ≤ bkupMv) } }
  let t := supplyRegions t
  whenSt (!s.supply.aonUp) s (if t.supply.pwrGood && t.supply.resetN then bootUp t else t)

/-! ## PWR_GOOD (R542) -/

/-- PWR_GOOD_FALL. With RESET_N low the loss joins the reset under way (assumption 46). -/
def execPwrGoodFall (s : State) : Res :=
  let t := { s with supply := { s.supply with pwrGood := false }, flash := { s.flash with xspi := Xspi.init } }
  let t := if !s.supply.aonUp then t
    else if s.supply.resetN then beginRestart (t.bump keyMainLosses 1) 2
    else beginRestart t 2
  whenSt s.supply.pwrGood s t

/-- PWR_GOOD_RISE. -/
def execPwrGoodRise (s : State) : Res :=
  let t := { s with supply := { s.supply with pwrGood := true } }
  let t := if s.supply.aonUp then supplyRegions t else t
  whenSt (!s.supply.pwrGood) s (if t.supply.aonUp && t.supply.resetN then bootUp t else t)

/-! ## RESET_N (R547, R552) -/

/-- RESET_N_FALL. In P3 the ready steps run first (R547). -/
def execResetNFall (s : State) : Res :=
  let t := { s with supply := { s.supply with resetN := false, resetFallAt := s.time.now }
                    flash := { s.flash with xspi := Xspi.init } }
  let t := if !s.supply.aonUp then t
    else if s.power.state = 3 ∧ s.power.phase = 0 then
      { t with power := { t.power with phase := 3, dawn := 1, wakeSource := 0, pendingCause := some 5 } }
    else beginRestart t 5
  whenSt s.supply.resetN s t

/-- RESET_N_COLD (R547). -/
def execResetNCold (s : State) : Res :=
  let t := match s.power.pendingCause with
    | some c => { s with power := { s.power with pendingCause := some (mergeCause c 3) } }
    | none => beginRestart s 3
  whenSt (s.supply.aonUp && !s.supply.resetN && decide (s.supply.resetFallAt + 100 * msNs ≤ s.time.now)) s t

/-- XSPI_RESET_N: low while RESET_N is low and for 20 µs after its release (R565). -/
def xspiResetN (s : State) : Bool := s.supply.resetN && decide (s.supply.resetRiseAt + 20 * usNs ≤ s.time.now)

/-- RESET_N_RELEASE: FP_EN and the port straps are sampled, EXTEST gives way to BYPASS, and the device boots (R485, R486,
R552, R570). -/
def execResetNRelease (fpEn aui0 aui1 : Bool) (s : State) : Res :=
  let t := { s with
    supply := { s.supply with resetN := true, resetRiseAt := s.time.now, refclkLost := false, aui4e0 := aui0, aui4e1 := aui1 }
    fport := { s.fport with fpEn, ir := if s.fport.ir = 0 then 0xFF else s.fport.ir } }
  whenSt (!s.supply.resetN) s
    (if t.supply.aonUp && t.supply.pwrGood && t.power.pendingCause.isNone then bootUp t else t)

/-! ## RESET_CMD (R547) -/

/-- RESET_CMD: the reset begins after the response has been sent. -/
def applyResetCmd (s : State) (w : WReq) : Applied :=
  if w.val ≠ 1 ∧ w.val ≠ 2 then fails s csRange
  else if s.sv.updState = 2 ∨ s.power.phase ≠ 0 then fails s csConflict
  else (csOk, { storeVal s w with supply := { s.supply with resetAfter := some (if w.val = 1 then 6 else 4) } })

/-- A reset that waited for its response begins (R547). -/
def resetNow (s : State) : State :=
  match s.supply.resetAfter with
  | some c => restartNow s c
  | none => s

/-! ## Alarms (R558, R566) -/

/-- SYS_REFCLK_LOSS: ALERT_N is asserted until a reset (R566). -/
def execSysRefclkLoss (s : State) : Res := done { s with supply := { s.supply with refclkLost := true } }

/-- TEMPERATURE_ALARM (R558). -/
def execTemperatureAlarm (hot : Bool) (s : State) : Res := done { s with supply := { s.supply with hot } }

/-- ALERT_N is asserted: a supply input has failed, an island is hot, SYS_REFCLK is lost, the device is in Overcast, an
event waits to be read on MS, or AUDIT_WARN records wait to be exported (R187, R474, R493, R539, R558, R566). -/
def alertAsserted (s : State) : Bool :=
  s.overcast.on || s.supply.hot || s.supply.refclkLost || !s.cleip.ms.events.isEmpty
    || decide (s.oval keyAuditWarn ≤ unexported s)
    || (s.supply.pwrGood && (decide (s.regState (regVin 0) = 3) || decide (s.regState (regVin 1) = 3)))

end Sys2Proof.Machine
end

