-- ==== Sys2Proof/Machine/Readout.lean ====
section
/-!
DEFINITION. What every object of the dictionary reads as: the values that the device computes, the records of the DOMAIN
objects, and CONFIG_BACKUP as it is sealed (R12, R20, R111, R148, R149, R191 to R193, R300, R343 to R346, R374, R377, R405,
R433, R434, R457, R458, R478, R479, R481, R482, R502, R503, R505, R515, R535, R555).
-/
namespace Sys2Proof.Machine

/-! ## Which objects exist (R20, R479) -/

/-- Rows of an index. -/
def indexRows (i : Nat) : List ObjRow := objTable.filter fun r => decide (r.index ≤ i) && decide (i < r.index + r.span)

/-- Highest subindex defined at an index, which subindex 0x00 reads (R479). -/
def topSub (i : Nat) : Nat := (indexRows i).foldl (fun m r => max m r.sub) 0

/-- The object belongs to a unit that the part lacks (R20, R302, R353, R447, R504). -/
def absentObject (s : State) (i sub : Nat) : Bool :=
  let v := s.part.variant
  (!hasCipher v && decide (0x2200 ≤ i) && decide (i ≤ 0x2204))
    || (!hasNbm v && ((decide (0x8100 ≤ i) && decide (i ≤ 0x811F)) || [0x8200, 0x8400, 0x7110, 0x9811].contains i))
    || (!hasMxc v && (decide (i = 0xF100) || (decide (0x5000 ≤ i) && decide (i ≤ 0x5002) && (decide (sub = 0x1B) || decide (sub = 0x1C)))))
    || (!hasTb v && decide (i = 0x3011))

/-- Access that a role has to an object, 1 for r and 2 for w (R32, R484). -/
def accessOf (r : ObjRow) (i role : Nat) : Nat :=
  if i = 0x437F then 1
  else match role with | 0 => r.host | 1 => r.installer | _ => r.maker

/-- Bytes of a value of a scalar type (R478). -/
def tyBytes (t : ObjTy) : Nat :=
  match t with
  | .u8 | .bool => 1 | .u16 | .i16 | .fix16 => 2 | .u32 | .i32 => 4 | .u64 => 8 | .time80 => 10 | .string => 0 | .domain => 0

/-! ## Scalars that the device computes -/

/-- Device time as the value of a TIME80 (R478). -/
def time80Nat (ns : Nat) : Nat := ns / secNs * 2 ^ 32 + ns % secNs

/-- Part of the identity and feature objects (R12, R13). -/
def identityVal (s : State) (k : Nat) : Option Nat :=
  let v := s.part.variant
  match k with
  | 0x100002 => some (match v with | .m5f => 1 | .m5h => 2 | .m5e => 3)
  | 0x100004 => some s.supply.fwRelease
  | 0x100005 => some s.part.serial
  | 0x101001 => some (featureWord v)
  | 0x101002 => some (2 ^ nLd v - 1)
  | 0x101003 => some (2 ^ nLe v - 1)
  | 0x101004 => some (2 ^ nPc v - 1)
  | 0x101005 => some (2 ^ nFt v - 1)
  | 0x101006 => some (nNb v)
  | 0x101007 => some (match v with | .m5f => 1024 | .m5h => 768 | .m5e => 384)
  | _ => none

/-- Ports, audit and keys (R505). -/
def portVal (s : State) (k : Nat) : Option Nat :=
  match k with
  | 0x200001 => some (b2n s.flash.makerLock)
  | 0x200002 => some (b2n s.fport.fpEn + 2 * b2n s.fport.enabled)
  | 0x210001 => some s.audit.head.toNat
  | 0x210002 => some s.audit.exported.toNat
  | 0x210003 => some s.audit.lost
  | 0x220201 => some s.keys.lock.toNat
  | 0x220301 => some s.keys.state
  | 0x220302 => some (b2n s.keys.bootPending)
  | _ => none

/-- Time and domains (R456 to R458). -/
def timeVal (s : State) (k : Nat) : Option Nat :=
  let n := k / 256 - 0x3010
  let d := if n = 0 then s.time.ta else s.time.tb
  if k / 256 = 0x3010 ∨ k / 256 = 0x3011 then
    match k % 256 with
    | 0x0A => some (domainState s n)
    | 0x0B => some (unsgn 32 d.offset)
    | 0x0C => some d.pathDelay
    | 0x0D => some (ptpPortState s n 0 + 16 * ptpPortState s n 1)
    | 0x0E => some d.gmIdentity
    | 0x0F => some d.gmClass
    | 0x10 => some (if domainState s n = 4 then (s.time.now - d.holdoverSince) / secNs else 0)
    | _ => none
  else match k with
  | 0x300001 => some (time80Nat s.time.now)
  | 0x300004 => some s.time.increment
  | 0x30000F => some (timeFlags s)
  | 0x300013 => some (unsgn 32 s.time.ppsOffset)
  | _ => none

/-- Pools and the journal (R32, R61). -/
def poolVal (s : State) (k : Nat) : Option Nat :=
  let p := k / 256 - 0x4300
  let c := poolCfg s p
  if 0x430100 ≤ k ∧ k < 0x43FF00 then
    match k % 256 with
    | 1 => some (if poolConfigured s p then poolMemory p else 0)
    | 2 => some c.size
    | 3 => some c.count
    | 4 => some c.shadow
    | 5 => some c.base
    | 6 => some c.cluster
    | _ => none
  else match k with
  | 0x440001 => some (jCapacity s)
  | 0x440002 => some (jCapacity s - jUsed s)
  | _ => none

/-- Free buffers of the Anvil pools (R406). -/
def anvilFree (s : State) : Nat := ((List.range 64).map fun i => freeCount s (0x80 + i)).sum

/-- TAKEOVER_STATE (R195). -/
def takeoverState (s : State) : Nat :=
  if s.srcs.any fun x => decide (x.takeover = 1) then 1 else if s.srcs.any fun x => decide (x.takeover = 2) then 2 else 0

/-- BUDDY_STATE (R195). -/
def buddyState (s : State) : Nat :=
  if s.mirrorTx.fenced then 3 else if !buddyOn s then 0 else if s.mirrorTx.reachable then 1 else 2

/-- Transport, fault masking, memory and Anvil (R109, R112, R191, R195, R406, R433). -/
def unitVal (s : State) (k : Nat) : Option Nat :=
  match k with
  | 0x400005 => some s.epoch
  | 0x401001 => some (ingressFree s)
  | 0x401006 => some (resultFree s)
  | 0x401007 => some (dramReserved s)
  | 0x404008 => some (s.port 0).state
  | 0x404108 => some (s.port 1).state
  | 0x600009 => some (b2n s.overcast.on)
  | 0x60000A => some (conditions s)
  | 0x60000B => some (s.overcast.total + if s.overcast.on then s.time.now - s.overcast.since else 0)
  | 0x60000C => some (s.sv.active % 2 + 128 * b2n (decide (s.sv.pair0 = 1) || decide (s.sv.pair1 = 1)))
  | 0x60000D => some s.sv.fwRunning
  | 0x60000F => some s.sv.updState
  | 0x602002 => some s.faultNext
  | 0x60300A => some (buddyState s)
  | 0x60300B => some (takeoverState s)
  | 0x905002 => some s.mem.errNext
  | 0x920002 => some s.mem.inEffect
  | 0x921201 => some s.mem.activeSet
  | 0x982004 => some (anvilFree s)
  | _ => none

/-- Power, supplies and boot (R535, R555). -/
def powerVal (s : State) (k : Nat) : Option Nat :=
  match k with
  | 0xA00001 => some (s.power.phase % 16 * 16 + s.power.state % 16)
  | 0xB00001 => some s.supply.cause
  | 0xB00002 => some s.supply.restartTime
  | 0xB00003 => some s.supply.bootState
  | 0xB00004 => some s.supply.bootSlot
  | 0xB00005 => some s.supply.bootGeneration
  | 0xB00006 => some s.supply.bootTime
  | 0xB01001 => some (supplyState s)
  | 0xB01002 => some s.supply.bkupMv
  | _ => none

/-- What a scalar object reads: what the device computes, or what is stored. -/
def liveVal (s : State) (k : Nat) : Nat :=
  ((identityVal s k).orElse fun _ => (portVal s k).orElse fun _ => (timeVal s k).orElse fun _ => (poolVal s k).orElse fun _ =>
    (unitVal s k).orElse fun _ => powerVal s k).getD (s.oval k)

/-- DEVICE_NAME: Meruros M5 (R12). -/
def deviceName : List Byte := [0x4D, 0x65, 0x72, 0x75, 0x72, 0x6F, 0x73, 0x20, 0x4D, 0x35]

/-! ## Records of the DOMAIN objects -/

/-- A QUEUE_STATE record (R111). -/
def queueStateNat (s : State) (q : Nat) : Nat :=
  let x := s.queue q
  x.nextSeq.toNat * 2 ^ 224 + x.creditSeq.toNat * 2 ^ 192 + x.releasedSeq.toNat * 2 ^ 160 + x.ackSeq.toNat * 2 ^ 128
    + x.acceptedUnits % 2 ^ 40 * 2 ^ 88 + x.creditUnits % 2 ^ 40 * 2 ^ 48
    + (s.jobs.filter fun j => decide (j.qn = q)).length % 65536 * 2 ^ 32 + x.activePort % 2 * 2 ^ 31 + b2n x.enable * 2 ^ 30
    + (s.asms.filter fun a => decide (a.1.1 = q)).length % 65536

/-- A CELL_STATE record (R148). -/
def cellStateNat (s : State) (c : Nat) : Nat :=
  let x := s.cellState c
  x.cluster % 256 * 2 ^ 120 + b2n x.migration.isSome * 2 ^ 119 + min x.migrations 0xFFFF * 2 ^ 96
    + gAdmitted s c % 2 ^ 32 * 2 ^ 64 + x.lastReason % 256 * 2 ^ 56 + min x.demoted 0xFFFFFFFF

/-- A CLUSTER_STATE record (R149). -/
def clusterStateNat (s : State) (k : Nat) : Nat :=
  if nClusters s.part.variant ≤ k then 0
  else
    let x := s.cluster k
    x.opp % 16 * 2 ^ 124 + b2n x.gated * 2 ^ 123 + b2n x.short * 2 ^ 122 + ceilingOf s k % 4 * 2 ^ 120
      + usable s k % 256 * 2 ^ 104 + gRate s k % 2 ^ 32 * 2 ^ 64 + gCapacity s k % 2 ^ 32 * 2 ^ 32 + unsgn 16 x.temp * 2 ^ 16

/-- A REGION_STATE byte; the offsets 0x375 to 0x37F are reserved (R192). -/
def regionNow (s : State) (r : Nat) : Nat := if 0x375 ≤ r ∧ r < 0x380 then 0 else regionByte s r

/-- A LANE_STATUS record (R345). -/
def laneStatusNat (x : Lane) (d : DrainState) : Nat :=
  (match x.state with | .off => 0 | .hunt => 1 | .locked => 2 | .aligned => 3 | .test => 4) * 2 ^ 61
    + (match d with | .normal => 0 | .verify => 1 | .drained => 2) * 2 ^ 59 + b2n x.miswired * 2 ^ 58
    + b2n x.skewExcess * 2 ^ 57 + b2n x.signal * 2 ^ 56 + x.laneSeen % 256 * 2 ^ 48 + x.skew % 256 * 2 ^ 40
    + x.slipPos % 512 * 2 ^ 31

/-- Counters of 32 bits, little-endian (R346, R374). -/
def counterBytes (l : List (BitVec 32)) : List Byte := l.flatMap fun c => leBytes 4 c.toNat

/-- Busy time of the engine that ENGINE_LOAD lists at place i, in µs (R300). -/
def engineLoad (s : State) (i : Nat) : Nat :=
  let (kind, n) := if i < 64 then (1, i) else if i < 96 then (2, i - 64) else if i < 112 then (3, i - 96) else (4, i - 112)
  if n < nEngines s.part.variant kind then (s.engine kind n).lastBusy / 1000 else 0

/-- A SUBSCRIPTIONS record (R482). -/
def subscrNat (s : State) (n : Nat) : Nat :=
  match kget s.cleip.subs n with
  | none => 0
  | some x =>
    let left := if x.requester.carrier < 2 then (x.renewed + s.oval keySubLease * secNs - s.time.now) / secNs else 0
    2 ^ 127 + x.requester.carrier % 4 * 2 ^ 125 + x.mode % 256 * 2 ^ 112 + x.key / 256 % 65536 * 2 ^ 96 + x.key % 256 * 2 ^ 88
      + x.nextTid % 65536 * 2 ^ 72 + left % 65536 * 2 ^ 32 + x.interval % 2 ^ 32

/-- A KEY_SLOTS record; K0 is fused and its check value reads 0 (R494, R505). -/
def keySlotNat (s : State) (n : Nat) : Nat :=
  if n = 0 then 2 ^ 63 + 2 ^ 62 + 2 ^ 61
  else
    let lock := b2n (s.keys.lock.getLsbD n) * 2 ^ 61
    match kget s.keys.slots n with
    | some x => 2 ^ 63 + b2n x.aes256 * 2 ^ 62 + lock + kcv x.key
    | none => lock

/-- A MODULE_LIFE record (R515). -/
def lifeBytes (x : Life) : List Byte :=
  let base := fun i => nth0 x.baseSum i / max 1 x.baseCount
  leBytes 16 x.serial ++ leBytes 8 x.vendor ++ leBytes 4 (x.powered / hourNs) ++ leBytes 4 (x.laserOn / hourNs)
    ++ leBytes 4 (eqHours x) ++ leBytes 2 (base 0) ++ leBytes 2 (base 1) ++ leBytes 2 (base 2) ++ leBytes 2 (base 3)
    ++ leBytes 4 x.firstDay ++ leBytes 4 x.lastDay ++ fill 12 0

/-- Bits of 8 granules of the fill map (R422, R433). -/
def fillByte (s : State) (i : Nat) : Nat :=
  (List.range 8).foldl (fun n b => if s.mem.fillMap.contains (8 * i + b) then n + 2 ^ b else n) 0

/-- Bytes of a record and number of records of a DOMAIN of fixed size. -/
def domShape (s : State) (k : Nat) : Nat × Nat :=
  match k with
  | 0x404003 | 0x404007 | 0x404103 | 0x404107 | 0x603103 | 0x603203 => (16, 1)
  | 0x402001 => (16, 4096)
  | 0x402101 => (32, 4096)
  | 0x510001 => (32, 4095)
  | 0x510101 => (16, 4095)
  | 0x510201 => (34, 1)
  | 0x520001 => (16, (kernelTasks s).length)
  | 0x530001 => (16, 16)
  | 0x601001 => (1, 1572)
  | 0x602001 => (32, 1024)
  | 0x702001 | 0x702101 => (8, 68)
  | 0x703001 | 0x703101 => (32, 68)
  | 0x710001 | 0x712001 => (16, 4)
  | 0x711001 => (16, 512)
  | 0x713001 => (64, 4)
  | 0x713101 => (72, 4)
  | 0x715101 => (16, 64)
  | 0x820001 => (8, 384)
  | 0x905001 => (32, 256)
  | 0x910101 => (8, 605)
  | 0x921001 | 0x921101 => (32, 1)
  | 0x922001 => (1, 16384)
  | 0x924001 => (256, 16)
  | 0x302001 => (32, 1)
  | 0x980001 => (1, 64)
  | 0x981001 => (8, 4095)
  | 0x981101 => (8, 512)
  | 0xD02001 => (16, 256)
  | 0xE02001 => (4, 144)
  | 0x201009 => (16, 256)
  | 0x210101 => (64, 16384)
  | 0x220001 => (8, 32)
  | 0x220101 => (36, 1)
  | 0x220102 => (44, 1)
  | 0xC01001 => (8, 32)
  | 0xC01101 => (16, 32)
  | 0xC02001 => (64, 128)
  | 0xC03001 => (32, 4)
  | 0xA01001 | 0xA01002 => (16, 1)
  | _ =>
    if 0x810000 ≤ k ∧ k < 0x811000 then (64, 1)
    else if 0x811000 ≤ k ∧ k < 0x812000 then (128, 1)
    else (1, 0)

/-- Bytes of record i of a DOMAIN of fixed size. -/
def domRecBytes (s : State) (k i : Nat) : List Byte :=
  match k with
  | 0x402001 => beBytes 16 (queueCfgNat (s.queue i))
  | 0x402101 => beBytes 32 (queueStateNat s i)
  | 0x510001 => beBytes 32 (cellNat (s.cell i))
  | 0x510101 => beBytes 16 (cellStateNat s i)
  | 0x520001 => beBytes 16 (((kernelTasks s)[i]?.map (kernelRec s)).getD 0)
  | 0x530001 => beBytes 16 (clusterStateNat s i)
  | 0x601001 => beBytes 1 (regionNow s i)
  | 0x602001 => beBytes 32 (((kget s.faultLog i).map faultRecNat).getD 0)
  | 0x702101 => beBytes 8 (laneStatusNat (s.lane i) (laneDrain s i))
  | 0x703001 => counterBytes (s.lane i).counters
  | 0x703101 => counterBytes (s.lane i).countersPrev
  | 0x712001 => beBytes 16 (linkStatusNat (s.link i))
  | 0x713001 => counterBytes (s.link i).counters
  | 0x713101 => leBytes 8 (s.link i).latchSec ++ counterBytes (s.link i).countersPrev
  | 0x905001 => beBytes 32 ((kget s.mem.errLog i).getD 0)
  | 0x910101 => beBytes 8 (lapNat (s.drizzle i))
  | 0x922001 => beBytes 1 (fillByte s i)
  | 0xE02001 => leBytes 4 (engineLoad s i)
  | 0x201009 => beBytes 16 (subscrNat s i)
  | 0x210101 => ((kget s.audit.recs i).map auditBytes).getD (fill 64 0)
  | 0x220001 => beBytes 8 (keySlotNat s i)
  | 0xC01101 => beBytes 16 (moduleNat s i)
  | 0xC02001 => ((kget s.opt.lives i).map lifeBytes).getD (fill 64 0)
  | 0xC03001 => ruBytes (kgetD s.opt.rus i RuState.init)
  | 0xA01001 => beBytes 16 s.power.lastWake
  | 0xA01002 => beBytes 16 s.power.lastRefusal
  | _ => s.domBytes k ((domShape s k).1 * i) (domShape s k).1

/-- n bytes of a DOMAIN of fixed size from an offset. -/
def fixedDom (s : State) (k off n : Nat) : List Byte :=
  let m := (domShape s k).1
  if n = 0 then []
  else cut ((List.range ((off + n - 1) / m + 1 - off / m)).flatMap fun i => domRecBytes s k (off / m + i)) (off % m) n

/-! ## CONFIG_BACKUP (R482, R502, R503) -/

/-- Keys of every P object of the part, in dictionary order. -/
def keptKeys (s : State) : List Nat :=
  ((objTable.filter (·.kept)).flatMap fun r =>
    ((List.range r.span).map fun i => okey (r.index + i) r.sub).filter fun k =>
      !absentObject s (k / 256) (k % 256)).mergeSort (fun a b => decide (a ≤ b))

/-- The value of a P object, encoded under R478. -/
def keptValue (s : State) (k : Nat) : List Byte :=
  match objRow (k / 256) (k % 256) with
  | some r =>
    if r.ty = .domain then fixedDom s k 0 ((domShape s k).1 * (domShape s k).2) else beBytes (tyBytes r.ty) (liveVal s k)
  | none => []

/-- SEAL that the device would itself use (R502). -/
def sealOwn (s : State) : Nat :=
  if (keyOf s 3).isSome then (if (keyOf s 4).isSome then 2 else 1) else 0

/-- One entry of the body (R502). -/
def backupEntry (s : State) (k : Nat) : List Byte :=
  let v := keptValue s k
  beBytes 2 (k / 256) ++ beBytes 1 (k % 256) ++ [0] ++ beBytes 4 v.length ++ v

/-- The header (R502). -/
def backupHeader (s : State) (count len : Nat) : List Byte :=
  beBytes 2 1 ++ beBytes 1 (sealOwn s) ++ [0] ++ beBytes 8 s.part.serial ++ beBytes 4 s.epoch ++ beBytes 4 s.cleip.generation
    ++ beBytes 4 count ++ beBytes 4 len ++ fill 4 0

/-- Initial counter block of a header: its bytes 4 to 15 and four zero bytes (R502). -/
def backupIv (h : List Byte) : Nat := beNat (slice h 4 12 ++ fill 4 0)

/-- Key of the tag for a SEAL (R502). -/
def backupKey (s : State) (sealed : Nat) : Option (List Byte) := if sealed = 0 then none else keyOf s 3

/-- CONFIG_BACKUP sealed over the P objects as they stand (R502). -/
def backupNow (s : State) : List Byte :=
  let ks := keptKeys s
  let body := ks.flatMap (backupEntry s)
  let h := backupHeader s ks.length body.length
  let stored := if sealOwn s = 2 then ctr ((keyOf s 4).getD []) (backupIv h) body else body
  h ++ stored ++ tagOf (backupKey s (sealOwn s)) (h ++ stored)

/-- The latest sealed copy; before the first rebuild after a restart, the copy sealed at the restart is the same as one
sealed now. -/
def backupCopy (s : State) : List Byte := if s.cleip.backup.isEmpty then backupNow s else s.cleip.backup

/-! ## Reading -/

/-- Size of a DOMAIN as it stands. -/
def domSize (s : State) (k : Nat) : Nat :=
  if k = keyConfigBackup then (backupCopy s).length
  else if k = keyFwImage then s.flash.fwImage.length
  else (domShape s k).1 * (domShape s k).2

/-- Largest size of a DOMAIN: FW_IMAGE holds 16 MiB (R191); a backup is bounded by what the staging can name. -/
def domMax (s : State) (k : Nat) : Nat :=
  if k = keyConfigBackup then 2 ^ 32
  else if k = keyFwImage then 16777216
  else (domShape s k).1 * (domShape s k).2

/-- n bytes of a DOMAIN from an offset. -/
def readDom (s : State) (k off n : Nat) : List Byte :=
  if k = keyConfigBackup then cut (backupCopy s) off n
  else if k = keyFwImage then cut s.flash.fwImage off n
  else fixedDom s k off n

/-- The value of an object (R465, R478). -/
def readValue (s : State) (k : Nat) : List Byte :=
  if k % 256 = 0 then beBytes 1 (topSub (k / 256))
  else if k = keyDeviceName then deviceName
  else match objRow (k / 256) (k % 256) with
    | some r => if r.ty = .domain then readDom s k 0 (domSize s k) else beBytes (tyBytes r.ty) (liveVal s k)
    | none => []

/-- An object is a DOMAIN. -/
def isDomain (k : Nat) : Bool := match objRow (k / 256) (k % 256) with | some r => decide (r.ty = .domain) | none => false

end Sys2Proof.Machine
end

