-- ==== Sys2Proof/Machine/Keys.lean ====
section
/-!
DEFINITION. The key store's loads and erases, the cipher lock, the maker lock, the audit export mark and the cipher engine's
self-test (R488, R493, R495 to R499).
-/
namespace Sys2Proof.Machine

/-! ## Loads and erases (R494 to R497) -/

/-- Byte i of a key-load object as it would stand after the write. -/
def loadByte (s : State) (w : WReq) (i : Nat) : Nat := overlaid s w i

/-- n bytes of a key-load object as it would stand after the write. -/
def loadBytes (s : State) (w : WReq) (off n : Nat) : List Byte :=
  (List.range n).map fun i => BitVec.ofNat 8 (overlaid s w (off + i))

/-- Slot that a write of a key object names (R495). -/
def keySlotOf (s : State) (w : WReq) : Nat := if w.key = keyKeyErase then w.val else loadByte s w 0

/-- Statuses of R494 and R495 that a slot alone decides. Slot 0 is no slot to load and returns RANGE, though its lock bit
reads 1. -/
def slotStatus (s : State) (w : WReq) (n : Nat) : Nat :=
  if n ≠ 0 ∧ n < 6 ∧ w.role = 0 then csDenied
  else if n ≠ 0 ∧ n < 32 ∧ s.keys.lock.getLsbD n then csLocked
  else if n = 0 ∨ 31 < n then csRange
  else csOk

/-- The reserved bytes of a load are zero (R495). -/
def loadReserved (s : State) (w : WReq) : Bool :=
  let aes256 := decide (loadByte s w 1 % 2 = 1)
  let tail := if w.key = keyKeyLoadPlain then (if aes256 then [] else loadBytes s w 20 16) else (if aes256 then [] else loadBytes s w 28 16)
  decide (1 < loadByte s w 1) || decide (loadByte s w 3 ≠ 0) || tail.any (fun b => decide (b ≠ 0))
    || (decide (w.key = keyKeyLoadPlain) && decide (loadByte s w 2 ≠ 0))

/-- The key that a load carries, in the clear or unwrapped (R495); none when unwrapping fails. -/
def loadedKey (s : State) (w : WReq) : Option (List Byte) :=
  let aes256 := decide (loadByte s w 1 % 2 = 1)
  if w.key = keyKeyLoadPlain then some (loadBytes s w 4 (if aes256 then 32 else 16))
  else (keyOf s (loadByte s w 2)).bind fun k => kwUnwrap k (loadBytes s w 4 (if aes256 then 40 else 24))

/-- The key store is wrapped under K0 and written to flash; the blocks that this takes depend on the layout of the store,
which is not stated (R496, assumption 5). -/
def saveKeys (s : State) (slots : List (Nat × KeySlot)) : State :=
  let (n, t) := s.drawNat
  useCipher { t with keys := { t.keys with slots, flash := some slots, flash2 := some slots } } n

/-- The end of a load or erase: the engine, the flash write, and the new contents (R496, R499). -/
def storeKeys (s : State) (w : WReq) (slots : List (Nat × KeySlot)) : Applied :=
  let (t, bad) := cipherFault s w.cipherFaults
  if bad then (csTimeout, t)
  else if !w.flashOk then (csTimeout, t)
  else (csOk, saveKeys t slots)

/-- A load, before it is counted (R495, R497). -/
def loadKey (s : State) (w : WReq) : Applied :=
  let n := keySlotOf s w
  let kek := loadByte s w 2
  let wrapped := decide (w.key = keyKeyLoadWrapped)
  let st := slotStatus s w n
  if st ≠ csOk then fails s st
  else if loadReserved s w || (wrapped && (decide (kek < 5) || decide (31 < kek) || decide (kek = n))) then fails s csRange
  else if (wrapped && (keyOf s kek).isNone) || (decide (n = 1) && decide (s.sv.updState = 2)) then fails s csConflict
  else if !cipherUp s then fails s csTimeout
  else match loadedKey s w with
  | none =>
    let (t, bad) := cipherFault s w.cipherFaults
    (if bad then csTimeout else csIntegrity, useCipher t (if loadByte s w 1 % 2 = 1 then 24 else 12))
  | some k =>
    let (st, t) := storeKeys s w (kset s.keys.slots n { aes256 := decide (k.length = 32), key := k })
    (st, if st = csOk ∧ n = 1 then { t with keys := { t.keys with bootPending := true } } else t)

/-- KEY_LOAD_PLAIN and KEY_LOAD_WRAPPED, counted (R495, R505). -/
def applyKeyLoad (s : State) (w : WReq) : Applied :=
  let (st, t) := loadKey s w
  (st, t.bump (if st = csOk then keyKeyLoads else keyKeyLoadFails) 1)

/-- KEY_ERASE (R495). -/
def applyKeyErase (s : State) (w : WReq) : Applied :=
  let st := slotStatus s w w.val
  if st ≠ csOk then fails s st
  else if !cipherUp s then fails s csTimeout
  else storeKeys s w (kdel s.keys.slots w.val)

/-- Slot and key check value, as an audit record holds them: the slot in bits 63 to 32 (R490). -/
def slotAndCheck (n : Nat) (k : Option (List Byte)) : Nat := n % 2 ^ 32 * 2 ^ 32 + (k.map kcv).getD 0

/-- OLD of a write of a load object (R490). -/
def keyAuditOld (s : State) (w : WReq) : Nat := slotAndCheck (keySlotOf s w) (keyOf s (keySlotOf s w))

/-- NEW of a write of a load object (R490). -/
def keyAuditNew (s : State) (w : WReq) : Nat := slotAndCheck (keySlotOf s w) (loadedKey s w)

/-! ## Locks (R488, R498) -/

/-- CIPHER_LOCK: bits are set and never cleared (R498). -/
def applyCipherLock (s : State) (w : WReq) : Applied :=
  let v := BitVec.ofNat 32 w.val
  if s.keys.lock &&& ~~~v ≠ 0 then fails s csLocked
  else (csOk, { s with keys := { s.keys with lock := v ||| 1#32 } })

/-- CIPHER_LOCK_BOOT: a bit set in CIPHER_LOCK is cleared on FP alone (R498). -/
def applyCipherLockBoot (s : State) (w : WReq) : Applied :=
  let old := BitVec.ofNat 32 (s.oval keyCipherLockBoot)
  let v := BitVec.ofNat 32 w.val
  if old &&& ~~~v &&& s.keys.lock ≠ 0 ∧ w.carrier ≠ 3 then fails s csLocked
  else ifFlash s w (storeVal s w)

/-- MAKER_LOCK_BLOW (R488). -/
def applyMakerLock (s : State) (w : WReq) : Applied :=
  if w.val ≠ s.part.serial % 2 ^ 32 then fails s csRange
  else if s.flash.makerLock then fails s csConflict
  else (csOk, { storeVal s w with flash := { s.flash with makerLock := true } })

/-- CIPHER_SELF_TEST_DONE (R499). -/
def execCipherSelfTestDone (passed : Bool) (s : State) : Res :=
  whenSt (decide (s.keys.state = 1)) s { s with keys := { s.keys with state := if passed then 0 else 2 } }

/-! ## The export mark (R493) -/

/-- AUDIT_EXPORTED: from the present mark to AUDIT_HEAD. -/
def applyAuditExported (s : State) (w : WReq) : Applied :=
  let v := BitVec.ofNat 32 w.val
  if s.audit.head - s.audit.exported < v - s.audit.exported then fails s csRange
  else (csOk, { s with audit := { s.audit with exported := v } })

end Sys2Proof.Machine
end

