-- ==== Sys2Proof/Machine/Write.lean ====
section
/-!
DEFINITION. What a write of each object does, once the carrier, the role, the type and the table's range allow it (R32, R109,
R175, R191, R195, R427, R476, R478, R479).
-/
namespace Sys2Proof.Machine

/-- Any object whose chapter asks for nothing more than its type and range. -/
def applyPlain (s : State) (w : WReq) : Applied :=
  ifFlash s w (if isDomain w.key then storeDom s w else storeVal s w)

/-- RANK_PD_IDLE: 0, or 16 and more (R427, R433). -/
def applyRankPdIdle (s : State) (w : WReq) : Applied :=
  if 0 < w.val ∧ w.val < 16 then fails s csRange else ifFlash s w (storeVal s w)

/-- MIRROR_FROM0 and MIRROR_FROM1: a device no longer named holds no share, unless it has been taken over (R175). -/
def applyMirrorFrom (s : State) (w : WReq) : Applied :=
  let t := storeVal s w
  ifFlash s w { t with srcs := t.srcs.filter fun x => isSource t x.source || decide (x.takeover ≠ 0) }

/-- Transport, ports and cells (R108 to R112, R115 to R151). -/
def writeTransport (s : State) (w : WReq) : Option Applied :=
  match w.key with
  | 0x402001 => some (applyQueueConfig s w)
  | 0x402201 => some (applyQueueReset s w)
  | 0x401003 | 0x401004 | 0x401005 => some (applyResultStore s w)
  | 0x401002 => some ((applyPlain s w).1, updateHeadroom (applyPlain s w).2)
  | 0x400001 | 0x201001 => some (applyEtype s w)
  | 0x400002 | 0x201002 | 0x715002 => some (applyUdp s w)
  | 0x40000D => some (applyMirrorMode s w)
  | 0x400004 => some (applyTransportPcp s w)
  | 0x404001 | 0x404101 => some (applyPortMac s w)
  | 0x404002 | 0x404003 | 0x404102 | 0x404103 => some (applyPortIp s w)
  | 0x510001 => some (applyCellConfig s w)
  | 0x510201 => some (applyAdmitProbe s w)
  | 0x510301 => some (applyMigrateCmd s w)
  | 0x520001 => some (applyKernelTable s w)
  | k =>
    if 0x430100 ≤ k ∧ k < 0x43FF00 then some (applyPoolConfig s w)
    else if k / 256 = 0x5000 then some (applyPolicy s w)
    else if k / 256 = 0x5001 ∨ k / 256 = 0x5002 then some (applyPolicyBound s w)
    else none

/-- Fault masking, firmware and the buddy (R162 to R195). -/
def writeFault (answer : Option (Nat × Nat)) (s : State) (w : WReq) : Option Applied :=
  match w.key with
  | 0x600002 => some (applyEngineSpares s w)
  | 0x600007 => some (applyOvercastMask s w)
  | 0x60000E => some (applyFwUpdateCmd s w)
  | 0x600101 => some (applyFwImage s w)
  | 0x601101 => some (applyRegionRestore s w)
  | 0x601102 => some (applyRegionRetire s w)
  | 0x603002 => some (applyBuddy answer s w)
  | 0x603003 | 0x603004 => some (applyMirrorFrom s w)
  | 0x603009 => some (applyTakeoverCmd s w)
  | 0x60300C => some (applyBuddyRelease s w)
  | _ => none

/-- Fronthaul, memories, time and optics (R302, R343, R374 to R386, R424 to R430, R436 to R450, R507 to R515). -/
def writeUnit (s : State) (w : WReq) : Option Applied :=
  match w.key with
  | 0x700001 => some (applyGroupEnable s w)
  | 0x700003 => some (applyDeskewMax s w)
  | 0x702001 => some (applyLaneConfig s w)
  | 0x702201 => some (applyLaneCmd s w)
  | 0x710001 => some (applyLinkConfig s w)
  | 0x711001 => some (applyTdContainers s w)
  | 0x715101 => some (applyEcpriVlinks s w)
  | 0x820001 => some (applyNbConfig s w)
  | 0x980001 => some (applyAnvilPoolRole s w)
  | 0x981001 => some (applyFhCell s w)
  | 0x981101 => some (applyTdLanding s w)
  | 0x920001 => some (applyDramConfig s w)
  | 0x921001 | 0x921101 => some (applyTimingSet s w)
  | 0x921301 => some (applyDramFreqCmd s w)
  | 0x923001 => some (applyRankPdIdle s w)
  | 0x924001 => some (applyDramDelays s w)
  | 0x300002 => some (applyTimeSet s w)
  | 0x300004 => some (applyIncrement s w)
  | 0x300005 => some (applyAdjust s w)
  | 0x300008 => some (applyActiveDomain s w)
  | 0x30000A => some (applyTimeRefSel s w)
  | 0x30000B => some (applyHoldoverLimit s w)
  | 0x30000D => some (applyPpsOutMode s w)
  | 0x300011 => some (applyPpsInMode s w)
  | 0x301001 | 0x301101 => some (applyPtpEnable s w)
  | 0x301002 | 0x301102 => some (applyPtpDomain s w)
  | 0x301003 | 0x301103 => some (applyPtpPorts s w)
  | 0x302001 => some (applyTcDomains s w)
  | 0xC00002 | 0xC00003 => some (applyOpticsDays s w)
  | 0xC01001 => some (applyModuleMap s w)
  | 0xC01201 => some (applyOpticsCmd s w)
  | k => if 0x810000 ≤ k ∧ k < 0x812000 then some (applyNbConfig s w) else none

/-- Ports, keys, power and reset (R488 to R498, R517, R547). -/
def writePort (s : State) (w : WReq) : Option Applied :=
  match w.key with
  | 0x200003 => some (applyMakerLock s w)
  | 0x210002 => some (applyAuditExported s w)
  | 0x220101 | 0x220102 => some (applyKeyLoad s w)
  | 0x220103 => some (applyKeyErase s w)
  | 0x220201 => some (applyCipherLock s w)
  | 0x220202 => some (applyCipherLockBoot s w)
  | 0xA00002 => some (applyPowerTarget s w)
  | 0xA00003 => some (applyDeepCmd s w)
  | 0xB00007 => some (applyResetCmd s w)
  | _ => none

/-- What a write of any object but CONFIG_BACKUP comes to. The last argument but two is what a candidate buddy answered. -/
def applyOne (answer : Option (Nat × Nat)) (s : State) (w : WReq) : Applied :=
  ((writeTransport s w).orElse fun _ => (writeFault answer s w).orElse fun _ => (writeUnit s w).orElse fun _ =>
    writePort s w).getD (applyPlain s w)

/-- The value of a write fits its type (R478, R479): a scalar's length; a DOMAIN's whole value, or the range of a block
write. -/
def fitsType (s : State) (r : ObjRow) (k : Nat) (block : Bool) (data : List Byte) : Bool :=
  if r.ty = .domain then block || decide (k = keyConfigBackup) || decide (k = keyFwImage) || decide (data.length = domSize s k)
  else !block && decide (data.length = tyBytes r.ty)

/-- A scalar is within the range of its table (R478). -/
def inTable (r : ObjRow) (v : Nat) : Bool :=
  match r.ty with
  | .domain => true
  | .time80 => decide (v % 2 ^ 32 ≤ 999999999)
  | ty => decide (r.lo ≤ tyInt ty v) && decide (tyInt ty v ≤ r.hi)

/-- A write of any object but CONFIG_BACKUP: access, type and range in the order of R475, then what the object does. -/
def writeObject (answer : Option (Nat × Nat)) (s : State) (w : WReq) (block : Bool) : Applied :=
  match objRow (w.key / 256) (w.key % 256) with
  | none => fails s (if w.key % 256 = 0 then csDenied else csNoSub)
  | some r =>
    if accessOf r (w.key / 256) w.role < 2 then fails s csDenied
    else if !fitsType s r w.key block w.data then fails s csType
    else if !inTable r w.val then fails s csRange
    else applyOne answer s w

/-- What a write sets in motion besides: CONFIG_BACKUP is rebuilt after an applied write of a P object (R503), and jobs,
migration and Overcast follow. -/
def afterWrite (before : State) (k : Nat) (a : Applied) : Applied :=
  if a.1 = csOk ∨ a.1 = csWait then
    let t := if objKept k && a.2.cleip.rebuildDue.isNone then
      { a.2 with cleip := { a.2.cleip with rebuildDue := some a.2.time.now } } else a.2
    (a.1, copyToStandby (settleAll before t))
  else a

/-! ## Restoring a backup (R482, R502, R503) -/

/-- Entries of a body: object and value, as far as the bytes spell whole entries. -/
def backupEntries : Nat → List Byte → List (Nat × List Byte)
  | 0, _ => []
  | n + 1, b =>
    let len := beNat (slice b 4 4)
    if b.length < 8 + len then []
    else (beNat (slice b 0 3), cut b 8 len) :: backupEntries n (b.drop (8 + len))

/-- A backup opened: its entries, or none when its seal fails (R503). -/
def openBackup (s : State) (b : List Byte) : Option (List (Nat × List Byte)) :=
  let n := beNat (slice b 20 4)
  let len := beNat (slice b 24 4)
  let sealed := beNat (slice b 2 1)
  let stored := cut b 32 len
  let body := if sealed = 2 then ctr ((keyOf s 4).getD []) (backupIv (b.take 32)) stored else stored
  let es := backupEntries n body
  if b.length = 48 + len ∧ beNat (slice b 0 2) = 1 ∧ sealed ≤ 2 ∧ sealOwn s ≤ sealed
      ∧ (sealed = 0 ∨ (keyOf s 3).isSome) ∧ (sealed ≠ 2 ∨ (keyOf s 4).isSome)
      ∧ b.drop (32 + len) = tagOf (backupKey s sealed) (b.take (32 + len)) ∧ es.length = n
      ∧ (es.map fun e => 8 + e.2.length).sum = len then some es
  else none

/-- The write that restores one object. -/
def restoreReq (w : WReq) (e : Nat × List Byte) : WReq :=
  { w with key := e.1, val := beNat e.2, off := 0, data := e.2, cipherFaults := 0 }

/-- What a candidate buddy answers where the command does not say it: free (R175). -/
def freeAnswer (s : State) (k : Nat) : Option (Nat × Nat) × State :=
  if k = keyBuddy then
    let (n, t) := s.drawNat
    (if n % 2 = 0 then none else some (n / 32, n / 2 % 16), t)
  else (none, s)

/-- The role may write an object that the part has (R482). -/
def mayRestore (s : State) (role k : Nat) : Bool :=
  match objRow (k / 256) (k % 256) with
  | some r => r.kept && !absentObject s (k / 256) (k % 256) && decide (2 ≤ accessOf r (k / 256) role)
  | none => false

/-- Each object is checked as a write of its own; the first failure ends the restore (R482). -/
def restoreAll (w : WReq) : State → List (Nat × List Byte) → Applied
  | s, [] => (csOk, s)
  | s, e :: r =>
    if mayRestore s w.role e.1 then
      let (buddy, u) := freeAnswer s e.1
      let (st, t) := writeObject buddy u (restoreReq w e) false
      if st = csOk ∨ st = csWait then restoreAll w t r else (st, s)
    else restoreAll w s r

/-- CONFIG_BACKUP: the seal, then every object or none (R482, R503). -/
def applyBackup (s : State) (w : WReq) : Applied :=
  let needs := decide (sealOwn s ≠ 0) || decide (beNat (slice w.data 2 1) ≠ 0 ∧ (keyOf s 3).isSome)
  let (c, bad) := cipherFault s (if needs then w.cipherFaults else 0)
  if needs && !cipherUp s then fails s csTimeout
  else if bad then (csTimeout, c)
  else
    let c := if needs then useCipher c (cmacBlocks (w.data.length - 16)) else c
    match openBackup c w.data with
    | none => (csIntegrity, c)
    | some es =>
      let (st, t) := restoreAll w c es
      if st = csOk then (if t.mem.fills.isEmpty then csOk else csWait, t) else (st, c)

/-- A write of any object (R476). -/
def applyWrite (answer : Option (Nat × Nat)) (s : State) (w : WReq) (block : Bool) : Applied :=
  afterWrite s w.key
    (if w.key = keyConfigBackup then
      (if w.role = 0 then fails s csDenied else applyBackup s w)
    else writeObject answer s w block)

end Sys2Proof.Machine
end

