-- ==== Sys2Proof/Machine/Cleip.lean ====
section
/-!
DEFINITION. Cleip as a protocol: who a requester is, requests in order, held responses, statuses in their order, block
writes, subscriptions, and the audit record of each answered write (R460 to R477, R489, R490, R551, R554).
-/
namespace Sys2Proof.Machine

/-! ## Requesters and objects -/

/-- Two sources are one requester: the carrier and, on Ethernet, the MAC, IP and UDP source addresses (R466). -/
def sameReq (a b : CleipSrc) : Bool :=
  decide (a.carrier = b.carrier)
    && (decide (2 ≤ a.carrier) || (decide (a.mac = b.mac) && decide (a.ip = b.ip) && decide (a.udp = b.udp)))

/-- Role of a carrier (R483). -/
def roleOf (carrier : Nat) : Nat := if carrier < 2 then 0 else if carrier = 2 then 1 else 2

/-- Largest body of a carrier (R460, R462). -/
def bodyLimit (carrier : Nat) : Nat := if carrier < 2 then 8192 else 256

/-- Highest subindex of an alias index, 0 where the range has no object (R481). -/
def aliasTop (i : Nat) : Nat := if i = 0x0800 then 5 else if [0x0801, 0x0840, 0x0900, 0x0901, 0x0930].contains i then 1 else 0

/-- An index is in the range of the aliases. -/
def isAlias (i : Nat) : Bool := decide (0x0800 ≤ i) && decide (i ≤ 0x0FFF)

/-- Key of the object that a request names, an alias standing for its target (R481). -/
def reqKey (r : CleipReq) : Nat :=
  match aliasTarget r.index r.sub with
  | some (i, j) => okey i j
  | none => okey r.index r.sub

/-- An index exists (R475, R481). -/
def indexExists (i : Nat) : Bool := if isAlias i then decide (0 < aliasTop i) else !(indexRows i).isEmpty

/-- A subindex of an index that exists (R479, R481). -/
def subExists (i sub : Nat) : Bool :=
  decide (sub = 0) || (if isAlias i then decide (sub ≤ aliasTop i) else (objRow i sub).isSome)

/-- Objects that MS and FP serve in recovery mode (R551). -/
def servedInRecovery (k : Nat) : Bool :=
  [0x1000, 0x1010].contains (k / 256) || (decide (0x2000 ≤ k / 256) && decide (k / 256 < 0x3000))
    || (decide (0xB000 ≤ k / 256) && decide (k / 256 < 0xC000)) || decide (k = keyFwImage) || decide (k = 0x60000F)

/-- Access that a request needs to an object: 1 to read, 2 to write. -/
def grants (a op : Nat) : Bool := if op = 2 ∨ op = 4 then decide (2 ≤ a) else decide (a % 2 = 1)

/-- Access of a role to the object of a request; subindex 0x00 is r/r/r (R479). -/
def reqAccess (k role : Nat) : Nat :=
  match objRow (k / 256) (k % 256) with
  | some r => accessOf r (k / 256) role
  | none => 1

/-- Statuses of R475 up to ACCESS_DENIED, with the BUSY of R173, R551 and R554. -/
def preStatus (s : State) (op : Nat) (r : CleipReq) : Nat :=
  let k := reqKey r
  let limit := bodyLimit r.src.carrier
  if r.body.length < r.length ∨ limit < r.length then csLength
  else if op = 1 ∧ isDomain k ∧ limit < domSize s k then csLength
  else if op = 4 ∧ isDomain k ∧ domMax s k < r.offset + r.length then csLength
  else if s.sv.switching.isSome then csBusy
  else if s.supply.bootState = 7 ∧ !servedInRecovery k then csBusy
  else if s.supply.bootState < 5 ∧ op ≠ 1 ∧ op ≠ 3 then csBusy
  else if !indexExists r.index then csNoObject
  else if !subExists r.index r.sub then csNoSub
  else if absentObject s (k / 256) (k % 256) then csAbsent
  else if !grants (reqAccess k (roleOf r.src.carrier)) op then csDenied
  else csOk

/-! ## Messages -/

/-- A request as its message (R464). -/
def reqBytes (op : Nat) (r : CleipReq) : List Byte := cleipHeader op r.resp r.last r.tid r.index r.sub 0 r.length r.offset 0 ++ r.body

/-- A response as its message (R464, R465): only OK has a body. -/
def respBytes (s : State) (op : Nat) (r : CleipReq) (status : Nat) (last : Bool) (body : List Byte) : List Byte :=
  let b := if status = csOk then body else []
  cleipHeader op true last r.tid r.index r.sub status b.length r.offset s.epoch ++ b

/-- A message with the CRC-32 of MS and FP (R462). -/
def withCrc (m : List Byte) : List Byte := m ++ beBytes 4 (crc32 m).toNat

/-- The serial side of a carrier replaced. -/
def setSerial (s : State) (carrier : Nat) (x : Serial) : State :=
  if carrier = 2 then { s with cleip := { s.cleip with ms := x } } else { s with cleip := { s.cleip with fp := x } }

/-- The serial side of a carrier. -/
def serial (s : State) (carrier : Nat) : Serial := if carrier = 2 then s.cleip.ms else s.cleip.fp

/-- A response goes out: at once on Ethernet, and to wait for a read on MS and FP (R460, R462). -/
def putResponse (s : State) (src : CleipSrc) (msg : List Byte) : State :=
  (if src.carrier < 2 then s.sendAt src.carrier (srcPrio src) (.frame (cleipFrame s src msg))
   else setSerial s src.carrier { serial s src.carrier with response := some (withCrc msg) }).bump keyCleipTx 1

/-- The last n of a list. -/
def lastN {α : Type} (n : Nat) (l : List α) : List α := l.drop (l.length - n)

/-- A response is held with its request: 16 for a requester, 64 requesters (R467). -/
def holdResponse (s : State) (h : HeldResp) : State :=
  let rest : List HeldResp := s.cleip.held.filter fun x => !(sameReq x.requester h.requester && decide (x.tid = h.tid))
  let own := lastN 15 (rest.filter fun x => sameReq x.requester h.requester)
  let others : List HeldResp := rest.filter fun x => !sameReq x.requester h.requester
  let names := others.foldl (fun (l : List CleipSrc) x => if l.any (sameReq x.requester) then l else l ++ [x.requester]) []
  let others : List HeldResp := match names with
    | n :: _ => if names.length < 64 then others else others.filter fun x => !sameReq x.requester n
    | [] => others
  { s with cleip := { s.cleip with held := others ++ own ++ [h] } }

/-- The answer to a request (R465, R467). -/
def answer (s : State) (op : Nat) (r : CleipReq) (status : Nat) (last : Bool) (body : List Byte) : State :=
  let msg := respBytes s op r status last body
  let t := holdResponse s { requester := r.src, tid := r.tid, request := reqBytes op r, response := msg, time := s.time.now }
  putResponse t r.src msg

/-! ## The audit record of a write (R477, R489, R490) -/

/-- The bytes of a range of an object as they stand. -/
def rangeBytes (s : State) (k off n : Nat) : List Byte := if isDomain k then readDom s k off n else readValue s k

/-- The write that a request proposes from an offset. -/
def reqWrite (r : CleipReq) (off : Nat) (data : List Byte) : WReq :=
  { key := reqKey r, role := roleOf r.src.carrier, carrier := r.src.carrier, val := beNat data, off, data, flashOk := r.flashOk
    cipherFaults := r.cipherFaults }

/-- The record of a write of proposed bytes, without status (R490). -/
def auditFor (s : State) (kind : Nat) (r : CleipReq) (w : WReq) : AuditRec :=
  let old := rangeBytes s w.key w.off w.data.length
  let secret := isKeyLoad w.key
  let long := !secret && (decide (8 < w.data.length) || decide (8 < old.length))
  { seq := 0, time := s.time.now, kind, role := w.role, carrier := r.src.carrier, long, sealKind := 0, index := w.key / 256
    sub := w.key % 256, status := 0, tid := r.tid, offset := if isDomain w.key then w.off else 0, length := w.data.length
    source := if r.src.carrier < 2 then r.src.mac % 2 ^ 32 else 0
    old := if secret then keyAuditOld s w else auditVal long old
    new := if secret then keyAuditNew s w else auditVal long w.data, epoch := s.epoch, mac := 0 }

/-- The record appended after the write; that of a load or erase of K2 ends its chain (R491). -/
def appendFor (before t : State) (w : WReq) (rec' : AuditRec) (status : Nat) : State :=
  let x := { rec' with status, time := t.time.now }
  if (isKeyLoad w.key || decide (w.key = keyKeyErase)) && decide (status = csOk) && decide (keySlotOf before w = 2) then auditK2 before t x else audit t x

/-- Records of the objects that a restore changed (R482). -/
def auditRestored (before t : State) (r : CleipReq) (w : WReq) : State :=
  ((keptKeys before).filter fun k => mayRestore before w.role k && decide (keptValue before k ≠ keptValue t k)).foldl
    (fun (u : State) k =>
      let d := keptValue t k
      audit u { auditFor before 2 r { w with key := k, val := beNat d, off := 0, data := d } with time := u.time.now }) t

/-- The record of a write whose message fails its CRC on MS or FP: it is answered INTEGRITY; a segment of a block write that is
open leaves none (R471, R475, R477). -/
def auditDamaged (s : State) (op : Nat) (r : CleipReq) : State :=
  let open' := s.cleip.blocks.any fun b => decide (b.key = reqKey r) && sameReq b.requester r.src
  let w := reqWrite r (if op = 4 then r.offset else 0) (r.body.take r.length)
  if op = 2 || (op = 4 && !open') then audit s { auditFor s (if op = 4 then 1 else 0) r w with status := csIntegrity } else s

/-- The end of a write: its record, then its answer, or its place among the requests in service (R468, R489). -/
def endWrite (before : State) (op : Nat) (r : CleipReq) (w : WReq) (a : Applied) : State :=
  let rec' := auditFor before (if op = 4 then 1 else 0) r w
  let t := if w.key = keyConfigBackup ∧ (a.1 = csOk ∨ a.1 = csWait) then auditRestored before a.2 r w else a.2
  if a.1 = csWait then
    { t with cleip := { t.cleip with inService := t.cleip.inService ++ [{ op, req := r, key := w.key, rec' }] } }
  else answer (appendFor before t w rec' a.1) op r a.1 r.last []

/-! ## Reads (R465, R466) -/

/-- READ. -/
def serveRead (s : State) (r : CleipReq) : State :=
  let k := reqKey r
  let st := preStatus s 1 r
  if st ≠ csOk then answer s 1 r st r.last []
  else if k = keyConfigBackup ∧ s.cleip.backup.isEmpty ∧ sealOwn s ≠ 0 ∧ cipherUp s = false then answer s 1 r csTimeout r.last []
  else answer s 1 r csOk r.last (if isAlias r.index ∧ r.sub = 0 then beBytes 1 (aliasTop r.index) else readValue s k)

/-- READ_BLOCK. -/
def serveReadBlock (s : State) (r : CleipReq) : State :=
  let k := reqKey r
  let st := preStatus s 3 r
  let count := beNat (r.body.take 4)
  let size := domSize s k
  let n := min count (size - r.offset)
  if st ≠ csOk then answer s 3 r st r.last []
  else if !isDomain k || decide (r.length ≠ 4) then answer s 3 r csType r.last []
  else if count = 0 ∨ bodyLimit r.src.carrier < count ∨ size ≤ r.offset then answer s 3 r csRange r.last []
  else if k = keyConfigBackup ∧ s.cleip.backup.isEmpty ∧ sealOwn s ≠ 0 ∧ cipherUp s = false then answer s 3 r csTimeout r.last []
  else answer s 3 r csOk (decide (r.offset + n = size)) (readDom s k r.offset n)

/-! ## Writes (R469 to R471, R476) -/

/-- WRITE. -/
def serveWrite (buddy : Option (Nat × Nat)) (s : State) (r : CleipReq) : State :=
  let w := reqWrite r 0 (r.body.take r.length)
  let st := preStatus s 2 r
  endWrite s 2 r w (if st ≠ csOk then fails s st else applyWrite buddy s w false)

/-- The open block writes without one object's. -/
def closeBlock (s : State) (k : Nat) : State :=
  { s with cleip := { s.cleip with blocks := s.cleip.blocks.filter fun b => decide (b.key ≠ k) } }

/-- A DOMAIN of variable size (R469). -/
def isVariable (k : Nat) : Bool := decide (k = keyConfigBackup) || decide (k = keyFwImage)

/-- The first segment of a block write (R469 to R471). -/
def openBlock (s : State) (r : CleipReq) (st : Nat) : State :=
  let k := reqKey r
  let w := reqWrite r r.offset (r.body.take r.length)
  let busy := (s.cleip.blocks.any fun b => decide (b.key = k)) || decide (4 ≤ s.cleip.blocks.length)
  let a := if st ≠ csOk then fails s st
    else if !isDomain k then fails s csType
    else if isVariable k && decide (r.offset ≠ 0) then fails s csConflict
    else if r.last then
      let a := applyWrite none s w true
      if busy && (decide (a.1 = csOk) || decide (a.1 = csWait) || decide (a.1 = csTimeout)) then fails s csBusy else a
    else if busy then fails s csBusy
    else (csOk, { s with cleip := { s.cleip with
      blocks := s.cleip.blocks ++ [{ requester := r.src, key := k, start := r.offset, data := w.data, lastSeg := s.time.now
                                     tid := r.tid, rec' := auditFor s 1 r w }] } })
  if a.1 = csOk ∧ !r.last then answer a.2 4 r csOk r.last [] else endWrite s 4 r w a

/-- A later segment of a block write (R469 to R471). -/
def nextBlock (s : State) (r : CleipReq) (st : Nat) (b : BlockWrite) : State :=
  let data := b.data ++ r.body.take r.length
  let t := closeBlock s b.key
  if st ≠ csOk then answer s 4 r st r.last []
  else if r.offset ≠ b.start + b.data.length then endWrite t 4 r (reqWrite r b.start b.data) (fails t csConflict)
  else if r.last then endWrite t 4 r (reqWrite r b.start data) (applyWrite none t (reqWrite r b.start data) true)
  else answer { t with cleip := { t.cleip with
      blocks := t.cleip.blocks ++ [{ b with
        data, lastSeg := s.time.now, tid := r.tid, rec' := auditFor s 1 r (reqWrite r b.start data) }] } } 4 r csOk r.last []

/-- WRITE_BLOCK. -/
def serveWriteBlock (s : State) (r : CleipReq) : State :=
  let st := preStatus s 4 r
  match s.cleip.blocks.find? fun b => decide (b.key = reqKey r) && sameReq b.requester r.src with
  | some b => nextBlock s r st b
  | none => openBlock s r st

/-! ## Subscriptions (R472, R473) -/

/-- Objects that their chapters name as raising EVENTs (R187, R359, R405, R415, R418, R441, R493, R512, R514, R522, R539). -/
def eventObjects : List Nat :=
  [keyOvercast, keyLinkStatus, keyDmaChannelErr, keyMemErrorLog, keyDrizzleLaps, keyTimeFlags, keyAuditHead, keyModuleState,
   keyRuState, keyLastRefusal, keySupplyState]

/-- The subscription of a requester to an object as it names it, in one mode. -/
def subOf' (s : State) (r : CleipReq) (mode : Nat) : Option (Nat × Subscr) :=
  s.cleip.subs.find? fun x => sameReq x.2.requester r.src && decide (x.2.key = okey r.index r.sub) && decide (x.2.mode = mode)

/-- The value of the object of a subscription. -/
def subValue (s : State) (x : Subscr) : List Byte :=
  if isAlias (x.key / 256) ∧ x.key % 256 = 0 then beBytes 1 (aliasTop (x.key / 256)) else readValue s (subTarget x.key)

/-- Compare the value of a subscription of mode 1 and send an event when it has changed since the last (R472). -/
def compareSub (s : State) (n : Nat) (x : Subscr) : State :=
  let v := subValue s x
  let y := { x with lastCompare := s.time.now }
  if y.lastValue = some v then setSub s n y else sendEvent s n { y with lastValue := some v } 0 0xFFFFFFFF v

/-- A new subscription with the lowest free number. -/
def newSub (s : State) (r : CleipReq) (mode interval : Nat) : State :=
  match (List.range 256).find? fun n => (kget s.cleip.subs n).isNone with
  | none => answer s 5 r csBusy r.last []
  | some n =>
    let x : Subscr := { requester := r.src, key := okey r.index r.sub, mode, interval, nextTid := 0, renewed := s.time.now
                        lastCompare := s.time.now, lastValue := none, queue := [] }
    let t := answer (setSub s n x) 5 r csOk r.last (beBytes 2 n)
    if mode = 1 then compareSub t n x else t

/-- Cancel every subscription of a requester to an object (R472). -/
def cancelSubs (s : State) (r : CleipReq) : State :=
  let mine := fun (x : Nat × Subscr) => sameReq x.2.requester r.src && decide (x.2.key = okey r.index r.sub)
  match s.cleip.subs.find? mine with
  | none => answer s 5 r csRange r.last []
  | some x =>
    let rest : List (Nat × Subscr) := s.cleip.subs.filter fun y => !mine y
    answer { s with cleip := { s.cleip with subs := rest } } 5 r csOk r.last (beBytes 2 x.1)

/-- MODE of a SUBSCRIBE, none when its body has not 8 bytes (R465). -/
def subMode (r : CleipReq) : Option Nat := if r.length = 8 ∧ 8 ≤ r.body.length then some (beNat (r.body.take 1)) else none

/-- SUBSCRIBE. -/
def serveSubscribe (s : State) (r : CleipReq) : State :=
  let k := reqKey r
  let st := preStatus s 5 r
  let interval := beNat (slice r.body 4 4)
  if st ≠ csOk then answer s 5 r st r.last []
  else match subMode r with
  | none => answer s 5 r csType r.last []
  | some mode =>
    if mode = 1 ∧ isDomain k then answer s 5 r csType r.last []
    else if 2 < mode ∨ (mode = 1 ∧ (interval < 10 ∨ 60000 < interval)) ∨ (mode ≠ 1 ∧ interval ≠ 0)
        ∨ (mode = 2 ∧ !eventObjects.contains k) then answer s 5 r csRange r.last []
    else if mode = 0 then cancelSubs s r
    else match subOf' s r mode with
    | some (n, x) => answer (setSub s n { x with interval, renewed := s.time.now }) 5 r csOk r.last (beBytes 2 n)
    | none => newSub s r mode interval

/-! ## Service in order (R466, R467) -/

/-- One request is served. On MS and FP an undelivered response gives way to it (R463). -/
def serve (buddy : Option (Nat × Nat)) (s : State) (op : Nat) (r : CleipReq) : State :=
  let s := if r.src.carrier < 2 then s else setSerial s r.src.carrier { serial s r.src.carrier with response := none }
  match op with
  | 1 => serveRead s r
  | 2 => serveWrite buddy s r
  | 3 => serveReadBlock s r
  | 4 => serveWriteBlock s r
  | _ => serveSubscribe s r

/-- A request of the same requester is in service. -/
def inService (s : State) (src : CleipSrc) : Bool := s.cleip.inService.any fun i => sameReq i.req.src src

/-- A message that R465 discards. -/
def badFrame (op : Nat) (r : CleipReq) : Bool := decide (r.version ≠ 1) || r.resp || decide (op = 0) || decide (5 < op)

/-- The held response to the same request (R467). -/
def heldFor (s : State) (op : Nat) (r : CleipReq) : Option HeldResp :=
  s.cleip.held.find? fun h => sameReq h.requester r.src && decide (h.tid = r.tid) && decide (h.request = reqBytes op r)

/-- A request comes to be served: a repeat gets the held response, and one behind a request in service waits (R466, R467). -/
def takeRequest (buddy : Option (Nat × Nat)) (s : State) (op : Nat) (r : CleipReq) : State :=
  match heldFor s op r with
  | some h => putResponse (s.bump keyCleipReplays 1) r.src h.response
  | none =>
    if s.cleip.inService.any fun i => sameReq i.req.src r.src && decide (i.req.tid = r.tid) then s.bump keyCleipInflightDiscards 1
    else if inService s r.src then
      if 64 ≤ (s.cleip.waiting.filter fun x => decide (x.2.src.carrier = r.src.carrier)).length then s.bump keyCleipBadFrames 1
      else { s with cleip := { s.cleip with waiting := s.cleip.waiting ++ [(op, r)] } }
    else serve buddy s op r

/-- A message arrives whole (R465). -/
def takeMessage (buddy : Option (Nat × Nat)) (s : State) (op : Nat) (r : CleipReq) : State :=
  let t := s.bump keyCleipRx 1
  if badFrame op r then t.bump keyCleipBadFrames 1 else takeRequest buddy t op r

/-- The requests that waited are taken again, in order. -/
def serveWaiting (s : State) : State :=
  s.cleip.waiting.foldl (fun (t : State) x =>
    let (buddy, t) := freeAnswer t (if x.1 = 2 then reqKey x.2 else 0)
    takeRequest buddy t x.1 x.2) { s with cleip := { s.cleip with waiting := [] } }

/-- A request in service comes to its end (R468). -/
def endService (s : State) (i : InService) (status : Nat) : State :=
  let t := { s with cleip := { s.cleip with inService := s.cleip.inService.filter fun x => decide (x ≠ i) } }
  serveWaiting (answer (audit t { i.rec' with status, time := t.time.now }) i.op i.req status i.req.last [])

end Sys2Proof.Machine
end

