-- ==== Sys2Proof/Machine/Carriers.lean ====
section
/-!
DEFINITION. The carriers of Cleip: Ethernet, the management serial interface MS with its transfers, and the factory port FP
with its instructions and its data register (R460, R462, R463, R485 to R488, R521, R530, R547, R551, R554).
-/
namespace Sys2Proof.Machine

/-! ## Which carriers serve -/

/-- The encapsulation of a source is enabled (R460). -/
def encapOn (s : State) (src : CleipSrc) : Bool := decide (src.encap < 3) && tbit (s.oval keyCleipEncap) src.encap

/-- Cleip on an Ethernet port is open: the device serves, the port is up, the encapsulation is enabled, and no Dusk to P3 has
passed the vote of block 9 (R460, R521, R551, R554). -/
def ethOpen (s : State) (src : CleipSrc) : Bool := !fhStopped s 9 && portUp s src.carrier && encapOn s src

/-- The island of MS and FP is up (R486, R516). -/
def mgmtUp (s : State) : Bool :=
  s.powered && s.supply.restart.isNone && !(decide (s.power.phase = 2) && decide (s.power.target = 3))

/-- The device is in P3, on the way into it or in the Dawn from it: the always-on island stores an MS request (R463). -/
def msStores (s : State) : Bool :=
  s.supply.aonUp && (decide (s.power.state = 3) || (decide (s.power.phase = 2) && decide (s.power.target = 3)))

/-- FP takes instructions (R485, R486). -/
def fpOn (s : State) : Bool :=
  s.fport.enabled && s.supply.aonUp && s.supply.pwrGood && decide (s.power.state ≠ 3)
    && !(decide (s.power.phase = 2) && decide (s.power.target = 3))

/-- FP carries Cleip messages (R487). -/
def fpCleip (s : State) : Bool := mgmtUp s && fpOn s && decide (s.fport.ir = 0x20)

/-! ## Transfers (R462, R463, R487) -/

/-- Source of what arrives on MS or FP. -/
def serialSrc (carrier : Nat) : CleipSrc := { carrier, mac := 0, ip := 0, udp := 0, encap := 0, vlan := none, pcp := 0 }

/-- MS and FP have no frames. -/
def noFrame : FrameTo := { dstMac := 0, proto := 0, dstIp := 0, ipOk := true, udpOk := true }

/-- The request that the bytes of a message spell, with its operation code (R464). -/
def parseReq (carrier : Nat) (m : List Byte) (flashOk : Bool) : Nat × CleipReq :=
  let v := beNat (slice m 0 16)
  (bits v 123 120,
   { src := serialSrc carrier, version := bits v 127 124, resp := tbit v 119, last := tbit v 118, tid := bits v 111 96
     index := bits v 95 80, sub := bits v 79 72, length := bits v 63 48, offset := bits v 47 16, body := m.drop 16, frame := noFrame, flashOk
     cipherFaults := 0 })

/-- An earlier request on MS or FP is still being served (R463). -/
def serialBusy (s : State) (carrier : Nat) : Bool :=
  inService s (serialSrc carrier) || (serial s carrier).stored.isSome

/-- A write transfer of at most 276 bytes, with its CRC-32 (R462, R463). -/
def takeTransfer (s : State) (carrier : Nat) (b : List Byte) (flashOk : Bool) : State :=
  let m := b.take (b.length - 4)
  if b.isEmpty then s
  else if 276 < b.length ∨ serialBusy s carrier then s.bump keyMsOverruns 1
  else
    let (op, r) := parseReq carrier m flashOk
    if b.length < 20 ∨ b.drop (b.length - 4) ≠ beBytes 4 (crc32 m).toNat then
      putResponse (auditDamaged ((s.bump keyCleipRx 1).bump keyMsCrcErrors 1) op r) r.src (respBytes s op r csIntegrity r.last [])
    else
      let (buddy, t) := freeAnswer s (if op = 2 then reqKey r else 0)
      takeMessage buddy t op r

/-- The address match of MS wakes the device; nothing disables it (R463, R530). -/
def msMatch (s : State) : State := if canWake s then wake s 1 else s

/-- A write transfer on MS. -/
def msWrite (s : State) (b : List Byte) (flashOk : Bool) : State :=
  if msStores s then
    let t := msMatch s
    if b.isEmpty then t
    else if 276 < b.length ∨ s.cleip.ms.stored.isSome then t.bump keyMsOverruns 1
    else { t with cleip := { t.cleip with ms := { t.cleip.ms with stored := some b } } }
  else if mgmtUp s then takeTransfer (msMatch s) 2 b flashOk
  else s

/-- MS_WRITE_TRANSFER: a transfer to another address is not the device's (R462, R482). -/
def execMsWriteTransfer (x : MsWrite) (flashOk : Bool) (s : State) : Res :=
  whenSt (decide (x.address = s.cleip.msAddr)) s (msWrite s x.bytes flashOk)

/-- What a read of a serial side returns after its MS_STATUS: the response ahead of any event (R462). -/
def readStream (s : State) (carrier : Nat) : Nat × List Byte :=
  let x := serial s carrier
  match x.response with
  | some m => (2, m)
  | none =>
    if serialBusy s carrier then (1, [])
    else match x.events with
    | (_, m) :: _ => (3, withCrc m)
    | [] => (0, [])

/-- What follows the delivery of a response: MS_ADDRESS takes effect, and a reset that waited begins (R482, R547, R551). -/
def afterDelivery (s : State) (m : List Byte) : State :=
  let (op, r) := parseReq 2 m true
  let k := okey r.index r.sub
  if bits (beNat (slice m 0 16)) 71 64 ≠ csOk ∨ (op ≠ 2 ∧ op ≠ 4) then s
  else if k = keyMsAddress ∨ k = keyConfigBackup then { s with cleip := { s.cleip with msAddr := s.oval keyMsAddress } }
  else if k = keyResetCmd ∨ k = keyFwImage then resetNow s
  else s

/-- A response or an event has been read to its last byte (R462). -/
def delivered (s : State) (carrier status : Nat) : State :=
  let x := serial s carrier
  match status, x.response with
  | 2, some m => afterDelivery (setSerial s carrier { x with response := none }) m
  | 3, _ => setSerial s carrier { x with events := x.events.drop 1 }
  | _, _ => s

/-- MS_READ_TRANSFER: n bytes are read; those beyond the end read 0xFF (R462). -/
def execMsReadTransfer (x : MsRead) (s : State) : Res :=
  let n := x.n
  if x.address ≠ s.cleip.msAddr then done s
  else if msStores s then
    done ((msMatch s).emit (.serial (([BitVec.ofNat 8 (b2n s.cleip.ms.stored.isSome)] ++ fill n 0xFF).take n)))
  else if mgmtUp s then
    let t := msMatch s
    let (st, b) := readStream t 2
    let u := t.emit (.serial (([BitVec.ofNat 8 st] ++ b ++ fill n 0xFF).take n))
    done (if b.length < n then delivered u 2 st else u)
  else done s

/-! ## The factory port (R485 to R487) -/

/-- An instruction put in force where it is permitted, and BYPASS in its place where it is not (R486). -/
def fpInstr (s : State) (code : Nat) (permitted : Bool) : State :=
  if permitted then { s with fport := { s.fport with ir := code } }
  else { s with fport := { s.fport with ir := 0xFF } }.bump keyFpRefused 1

/-- BYPASS. -/
def execBypass (s : State) : Res := whenSt (fpOn s) s (fpInstr s 0xFF true)

/-- IDCODE: the data register reads 0x14D3_50F3. -/
def execIdcode (s : State) : Res := whenSt (fpOn s) s ((fpInstr s 0x01 true).emit (.tdo 0x14D350F3))

/-- SAMPLE/PRELOAD. -/
def execSamplePreload (s : State) : Res := whenSt (fpOn s) s (fpInstr s 0x02 true)

/-- EXTEST, only while RESET_N is low. -/
def execExtest (s : State) : Res := whenSt (fpOn s) s (fpInstr s 0x00 (!s.supply.resetN))

/-- CLEIP. -/
def execCleip (s : State) : Res := whenSt (fpOn s) s (fpInstr s 0x20 true)

/-- Vendor debug, 0x40 to 0x7F, only while the maker-lock fuse is unblown. A code that the table does not give acts as
BYPASS. -/
def execVendorDebug (code : BitVec 8) (s : State) : Res :=
  let c := code.toNat
  if !fpOn s || [0xFF, 0x00, 0x01, 0x02, 0x20].contains c then done s
  else if 0x40 ≤ c ∧ c < 0x80 then
    done (if s.flash.makerLock then fpInstr s c false else (fpInstr s c true).emit (.vendor c))
  else done (fpInstr s 0xFF true)

/-- TEST_LOGIC_RESET: IDCODE is in force, and the transfer under way is abandoned (R487). -/
def execTestLogicReset (s : State) : Res :=
  done { s with fport := { s.fport with ir := 0x01, wr := [], rd := none } }

/-- FP_APPEND_BYTE. Bytes beyond the 277th change nothing. -/
def execFpAppendByte (b : Byte) (s : State) : Res :=
  whenSt (fpOn s && decide (s.fport.ir = 0x20)) s
    { s with fport := { s.fport with wr := if s.fport.wr.length < 277 then s.fport.wr ++ [b] else s.fport.wr } }

/-- FP_STOP: the write transfer is taken, and the read stream ends. -/
def execFpStop (flashOk : Bool) (s : State) : Res :=
  let t := { s with fport := { s.fport with wr := [], rd := none } }
  if !(fpOn s && decide (s.fport.ir = 0x20)) then done s
  else done (if mgmtUp s then takeTransfer t 3 s.fport.wr flashOk else t)

/-- FP_FETCH_BYTE: Capture-DR will load the next byte of the read stream, 0xFF beyond its end. -/
def execFpFetchByte (s : State) : Res :=
  if !fpCleip s then done s
  else
    let put := fun (t : State) (v : Nat) (rd : Nat × List Byte) =>
      { t with fport := { t.fport with capture := 0x200 + v, rd := some rd } }.emit (.tdo (0x200 + v))
    match s.fport.rd with
    | none =>
      let (st, b) := readStream s 3
      done (put s st (st, b))
    | some (st, []) => done (put s 0xFF (st, []))
    | some (st, b :: rest) =>
      let t := put s b.toNat (st, rest)
      done (if rest.isEmpty then delivered t 3 st else t)

/-! ## Requests as rows of the command table -/

/-- The frame of a request is addressed to its port and is one of Cleip's (R64, R65, R460). -/
def cleipFrameOk (s : State) (r : CleipReq) : Bool :=
  addressedTo r.src.encap r.frame (ownAddrs s r.src.carrier)
    && encapHolds r.src.encap r.frame (s.oval keyCleipEncap) (s.oval keyCleipEtype) (s.oval keyCleipUdp)

/-- A request arrives on its carrier: one on MS or FP has a valid CRC-32. -/
def arrive (buddy : Option (Nat × Nat)) (op : Nat) (r : CleipReq) (s : State) : State :=
  if r.src.carrier < 2 then (if ethOpen s r.src && cleipFrameOk s r then takeMessage buddy s op r else s)
  else if r.src.carrier = 2 then
    if msStores s then msWrite s (withCrc (reqBytes op r)) r.flashOk
    else if mgmtUp s then
      let t := msMatch s
      if serialBusy t 2 then t.bump keyMsOverruns 1 else takeMessage buddy t op r
    else s
  else if fpCleip s then (if serialBusy s 3 then s.bump keyMsOverruns 1 else takeMessage buddy s op r)
  else s

/-- A request of a row: it has its effect when it names an object of the row. -/
def request (mine : Bool) (buddy : Option (Nat × Nat)) (op : Nat) (r : CleipReq) (s : State) : Res :=
  onUnit r.src.carrier 4 (whenSt mine s (arrive buddy op r s))

/-- Operation code of a write: a block write's last segment on a DOMAIN when LAST is set, else WRITE. -/
def writeOp (r : CleipReq) : Nat := if r.last && isDomain (reqKey r) then 4 else 2

/-- A write of a row's object. -/
def rowWrite (mine : Nat → Bool) (r : CleipReq) (s : State) : Res := request (mine (reqKey r)) none (writeOp r) r s

/-! ## The serviceable instant (R463, R554) -/

/-- The request that MS stored is served; how its flash write ends is not for the command to say (assumption 5). -/
def serveStored (s : State) : State :=
  match s.cleip.ms.stored with
  | none => s
  | some b =>
    let t := { s with cleip := { s.cleip with ms := { s.cleip.ms with stored := none } } }
    let (n, t) := t.drawNat
    takeTransfer t 2 b (decide (n % 2 = 0))

/-- SERVICEABLE. -/
def execServiceable (s : State) : Res := whenSt (bootReady s) s (serveStored (becomeServiceable s))

end Sys2Proof.Machine
end

