-- ==== Sys2Proof/Machine/Dma.lean ====
section
/-!
DEFINITION. The DMA engines: doorbells, descriptors, the six operations, the end of a transfer and the end check, and the
interconnect timeout of every requester (R393 to R405).
-/
namespace Sys2Proof.Machine

/-! ## Channels (R393, R399) -/

/-- The engine of a channel is powered: its cluster is present, not lost, not retired and not gated (R393). -/
def chanLive (s : State) (ch : Nat) : Bool :=
  let k := ch / 16
  decide (k < nClusters s.part.variant) && s.up (regIsland k) && (s.cluster k).lostAt.isNone && !(s.cluster k).gated
    && s.powered

/-- R399: a write of DOORBELL. -/
def execDoorbell (chan : Nat) (addr : BitVec 40) (s : State) : Res :=
  onUnit chan 256 (whenSt (chanLive s chan) s (ringDoorbell s chan addr.toNat))

/-- R399: a write of CHAN_RESET. -/
def execChanReset (chan : Nat) (s : State) : Res := onUnit chan 256 (whenSt (chanLive s chan) s (resetChan s chan))

/-- A DMA_CHANNEL_ERR record (R405). -/
def chanErrRec (s : State) (cur status : Nat) : List Byte :=
  leBytes 8 s.time.now ++ leBytes 5 cur ++ leBytes 1 status ++ leBytes 2 0

/-- A status forms a signature on a task channel (R401). -/
def dmaSigned (status : Nat) : Bool := [0x10, 0x11, 0x30, 0x42].contains status

/-- CAUSE of a halted task channel's record (R403). -/
def dmaCause (status : Nat) : Nat :=
  match status with
  | 0x20 | 0x41 => 0x04 | 0x21 => 0x05 | 0x22 | 0x40 => 0x06 | _ => 0x01

/-- The record of a bad read or timeout of a channel that no task owns (R193). -/
def dmaOwnFault (s : State) (ch status cur fa : Nat) : State :=
  if 0x20 ≤ status ∧ status ≤ 0x22 ∨ status = 0x40 ∨ status = 0x41 then
    let dev := match chanAt s ch fa 1 false with | .dev a => a | _ => fa
    let action := if status = 0x21 && (chargeRegion s dev).any takesStrikes then 0x03 else 0x0E
    logFault s { faultNoJob s ((chargeRegion s dev).getD 0xFFFF) (dmaCause status) action with
      signature := status * 2 ^ 24 + cur % 2 ^ 24, address := dev }
  else s

/-- The dispatcher stops the task that owns a halted channel (R403). -/
def dmaTaskFault (s : State) (ch status cur fa : Nat) : State :=
  match (s.chan ch).owner with
  | none => if status = 0x43 then strike s (regIsland (ch / 16)) else dmaOwnFault s ch status cur fa
  | some c =>
    match (s.core c).task with
    | none => s
    | some ref =>
      let x := s.core c
      let again : State × Bool :=
        if (status = 0x20 ∨ status = 0x21) ∧ (s.chan ch).merged = false then
          match coreAt x c fa 1 false with
          | .dev a => reread s a
          | _ => (s, false)
        else (s, false)
      let num := status * 2 ^ 24 + cur % 2 ^ 24
      runFault again.1 ref
        { cause := dmaCause status, sig := if dmaSigned status then some [0x100 + status, cur % 2 ^ 24] else none
          num, addr := (match coreAt x c fa 1 false with | .dev a => a | _ => fa)
          region := if status = 0x43 then some (regIsland (ch / 16)) else none, absent := false
          damagedInput := again.2 && inInput s x fa }

/-- A channel halts with a status: counters, its error record where it has one, and its task (R399, R401, R403, R405). -/
def haltChan (s : State) (ch status fa : Nat) : State :=
  let x := s.chan ch
  let t := s.setChan ch { x with state := .halted, desc := none, moved := none, checks := 0, lastStatus := status }
  let t := if status = 0x30 then t.bump keyDmaChainLimits 1 else t.bump keyDmaErrors 1
  let t := if status = 0x22 ∨ status = 0x40 then t.bump keyDmaTimeouts 1 else t
  let t := if 0x40 ≤ status then
      let r := chanErrRec t x.cur status
      raiseEvent (t.setDom keyDmaChannelErr (16 * ch) r) keyDmaChannelErr (16 * ch) r
    else t
  let t := dmaTaskFault t ch status x.cur fa
  t.setChan ch { t.chan ch with merged := false }

/-- Status of a channel whose own descriptor cannot be reached (R401). -/
def descStatus : MErr → Nat
  | .timeout => 0x40 | .poison | .uncorrectable => 0x41 | .access => 0x10

/-! ## Addresses of a channel (R395) -/

/-- Read at a channel's own address: a window, like any address outside the map, gives ACCESS (R401). -/
def chanRead (s : State) (ch a n : Nat) : State × Rd :=
  match chanAt s ch a n false with
  | .bad _ => (s, .err .access a)
  | .virt b off => (s, .ok (slice b off n))
  | .dev d =>
    match memAt s d with
    | .window _ => (s, .err .access a)
    | _ => match devRead s 4 d n with
      | (s, .ok b) => (s, .ok b)
      | (s, .err e x) => (s, .err e (a + (x - d)))

/-- Write at a channel's own address; answers the first error found by then and where it lies. DRAM takes the bytes into its
write queue (R426). -/
def chanWrite (s : State) (ch a : Nat) (b : List Byte) : State × Option (MErr × Nat) :=
  match chanAt s ch a b.length true with
  | .dev d =>
    match memAt s d with
    | .window _ => (s, some (.access, a))
    | _ => match devQueue s none d b with
      | (s, none) => (s, none)
      | (s, some (e, x)) => (s, some (e, a + (x - d)))
  | _ => (s, some (.access, a))

/-! ## Descriptors (R396, R397) -/

/-- The fields of a descriptor. -/
structure Dd where
  w0 : Nat
  w1 : Nat
  src : Nat
  dst : Nat
  ant : Nat
  esize : Nat
  planes : Nat
  stride : Nat
  len : Nat
  /-- The words as fetched. -/
  ws : List Nat
  deriving DecidableEq, Repr

/-- The descriptor that eight words spell. -/
def ddOf (l : List (BitVec 64)) : Dd :=
  let w (i : Nat) : Nat := ((l[i]?).map (·.toNat)).getD 0
  { w0 := w 0, w1 := w 1, src := bits (w 2) 39 0, dst := bits (w 3) 39 0, ant := bits (w 4) 63 56
    esize := bits (w 4) 55 52, planes := bits (w 4) 51 48, stride := bits (w 4) 47 24, len := bits (w 4) 23 0
    ws := (List.range 8).map w }

/-- OP of a descriptor. -/
def Dd.op (d : Dd) : Nat := bits d.w0 60 57
/-- Element bytes. -/
def Dd.e (d : Dd) : Nat := 2 ^ d.esize
/-- Planes of a bit-plane operation. -/
def Dd.p (d : Dd) : Nat := d.planes + 1
/-- The descriptor ends its chain. -/
def Dd.isEnd (d : Dd) : Bool := tbit d.w0 63

/-- The descriptor is well formed for its operation: no reserved code, no unused field set, every size relation kept;
reserved bits are ignored, those of SRC above the pattern of a fill among them (R3, R397, R401). -/
def Dd.ok (d : Dd) : Bool :=
  decide (d.op ≤ 5) && decide (d.len ≠ 0) && decide (d.esize ≤ 3) &&
    (match d.op with
     | 0 => decide (d.ant = 0 ∧ d.esize = 0 ∧ d.planes = 0 ∧ d.stride = 0)
     | 1 => decide (d.ant = 0 ∧ d.esize = 0 ∧ d.planes = 0 ∧ d.stride = 0)
     | 2 | 3 => decide (2 ≤ d.ant ∧ d.ant ≤ 64) && decide (d.planes = 0) && decide (d.len % (d.ant * d.e) = 0)
     | _ => decide (d.ant = 0) && decide (d.esize ≤ 1) && decide (d.p ≤ 8 * d.e) && decide (d.len % (8 * d.e) = 0))

/-- R399: a fetched descriptor is checked for OWN and the chain limit, and its transfer begins or the channel halts. -/
def execDmaDescriptorFetched (chan : Nat) (s : State) : Res :=
  onUnit chan 256 <|
    let x := s.chan chan
    if !chanLive s chan || decide (x.state ≠ .running) || x.desc.isSome then done s
    else done (settleAll s (
      match chanRead s chan x.cur 64 with
      | (t, .err e a) => haltChan t chan (descStatus e) a
      | (t, .ok b) =>
        let ws := (List.range 8).map fun i => BitVec.ofNat 64 (leNat (slice b (8 * i) 8))
        let d := ddOf ws
        if tbit d.w1 63 = false then haltChan t chan 0x42 x.cur
        else if s.oval keyDmaChainLimit < x.count then
          let t := t.setChan chan { x with count := s.oval keyDmaChainLimit }
          haltChan (writeBack t chan x.cur 0x30 0).1 chan 0x30 x.cur
        else t.setChan chan { x with count := max 1 x.count, desc := some ws, moved := if d.ok then none else some (0x11, 0, x.cur) }))

/-! ## The operations (R397, R398) -/

/-- One write of a transfer: where it goes, the source ranges it needs and the bytes it makes of them. -/
structure Piece where
  dst : Nat
  n : Nat
  srcs : List (Nat × Nat)
  make : List Byte → List Byte

/-- The aligned 64-byte lines of a range: start and length of each part (R398). -/
def linesOf (a n : Nat) : List (Nat × Nat) :=
  (List.range ((a + n + 63) / 64 - a / 64)).map fun i =>
    let lo := max a ((a / 64 + i) * 64)
    (lo, min (a + n) ((a / 64 + i + 1) * 64) - lo)

/-- Runs of adjacent addresses, cut at 64-byte lines, in the order given. -/
def runsOf : List Nat → List (Nat × Nat)
  | [] => []
  | a :: r =>
    match runsOf r with
    | (b, n) :: t => if b = a + 1 ∧ b % 64 ≠ 0 then (a, n + 1) :: t else (a, 1) :: (b, n) :: t
    | [] => [(a, 1)]

/-- Writes of a stream whose byte o comes from one source byte. -/
def mapPieces (dst n : Nat) (src : Nat → Nat) : List Piece :=
  (linesOf dst n).map fun (a, k) =>
    { dst := a, n := k, srcs := runsOf ((List.range k).map fun i => src (a - dst + i)), make := fun b => b }

/-- OP 0: LEN bytes from SRC to DST. -/
def copyPieces (d : Dd) : List Piece := mapPieces d.dst d.len fun o => d.src + o

/-- OP 1: the pattern repeated from byte 0 in memory order. -/
def fillPieces (d : Dd) : List Piece :=
  (linesOf d.dst d.len).map fun (a, k) =>
    { dst := a, n := k, srcs := []
      make := fun _ => (List.range k).map fun i => BitVec.ofNat 8 (d.src / 256 ^ ((a - d.dst + i) % 4)) }

/-- OP 2: element i of stream a goes to DST + (i × A + a) × E. -/
def interleavePieces (d : Dd) : List Piece :=
  mapPieces d.dst d.len fun o => d.src + o / d.e % d.ant * d.stride + o / d.e / d.ant * d.e + o % d.e

/-- OP 3: the inverse of OP 2. -/
def deinterleavePieces (d : Dd) : List Piece :=
  (List.range d.ant).flatMap fun a =>
    mapPieces (d.dst + a * d.stride) (d.len / d.ant) fun o => d.src + (o / d.e * d.ant + a) * d.e + o % d.e

/-- OP 4: plane j holds bit 8E − 1 − j of every element. -/
def splitPieces (d : Dd) : List Piece :=
  (List.range d.p).flatMap fun j =>
    let dst := d.dst + j * d.stride
    (linesOf dst (d.len / d.e / 8)).map fun (a, k) =>
      { dst := a, n := k, srcs := linesOf (d.src + (a - dst) * 8 * d.e) (k * 8 * d.e)
        make := fun b => packBits ((List.range (8 * k)).map fun i => tbit (leNat (slice b (i * d.e) d.e)) (8 * d.e - 1 - j)) }

/-- OP 5: element i receives bit i of plane j at bit 8E − 1 − j. -/
def mergePieces (d : Dd) : List Piece :=
  (linesOf d.dst d.len).map fun (a, k) =>
    let first := (a - d.dst) / d.e / 8
    let count := (a - d.dst + k - 1) / d.e / 8 + 1 - first
    let plane (b : List Byte) (j i : Nat) : Bool := (bitsOf (slice b (j * count) count)).getD (i - 8 * first) false
    { dst := a, n := k, srcs := (List.range d.p).flatMap fun j => linesOf (d.src + j * d.stride + first) count
      make := fun b => (List.range k).map fun q =>
        let o := a - d.dst + q
        let v := ((List.range d.p).map fun j => b2n (plane b j (o / d.e)) * 2 ^ (8 * d.e - 1 - j)).sum
        BitVec.ofNat 8 (v / 256 ^ (o % d.e)) }

/-- Lines of source bytes that the funnel holds, by device address. -/
abbrev Lines : Type := List (Nat × List Byte)

/-- Read the 64-byte lines of a source range that the funnel does not hold (R398). -/
def readLines (s : State) (held : Lines) : List Nat → State × Lines × Option (MErr × Nat)
  | [] => (s, [], none)
  | l :: r =>
    let one : State × Rd := match held.find? fun x => decide (x.1 = l) with
      | some x => (s, .ok x.2)
      | none => devRead s 4 l 64
    match one with
    | (t, .err e x) => (t, [], some (e, x))
    | (t, .ok b) =>
      match readLines t held r with
      | (u, m, e) => (u, (l, b) :: m, e)

/-- Read one source range through the funnel: its bytes and the lines then held. -/
def readSrc (s : State) (ch : Nat) (held : Lines) (a n : Nat) : State × Lines × Rd :=
  match chanAt s ch a n false with
  | .bad _ => (s, [], .err .access a)
  | .virt b off => (s, [], .ok (slice b off n))
  | .dev d =>
    match memAt s d with
    | .window _ => (s, [], .err .access a)
    | .none => (s, [], .err .access a)
    | _ => match readLines s held ((rangeLines d n).map (64 * ·)) with
      | (t, m, some (e, x)) => (t, m, .err e (a + x - d))
      | (t, m, none) => (t, m, .ok (cut (m.flatMap (·.2)) (d % 64) n))

/-- Read the source ranges of a piece in order; the funnel keeps the lines that the piece used. -/
def readSrcs (s : State) (ch : Nat) (held : Lines) : List (Nat × Nat) → State × Lines × Rd
  | [] => (s, [], .ok [])
  | (a, n) :: r =>
    match readSrc s ch held a n with
    | (t, m, .err e x) => (t, m, .err e x)
    | (t, m, .ok b) =>
      match readSrcs t ch (m ++ held) r with
      | (u, k, .ok c) => (u, m ++ k, .ok (b ++ c))
      | (u, k, .err e x) => (u, m ++ k, .err e x)

/-- Status of a transfer that met an error (R401). -/
def dmaStatus : MErr → Nat
  | .access => 0x10 | .poison => 0x20 | .uncorrectable => 0x21 | .timeout => 0x22

/-- An unpredictable byte of a channel: what the channel may itself read at a free address, or zero (R4). -/
def looseByte (s : State) (ch free : Nat) : Byte :=
  match (chanRead s ch (free % 2 ^ 40) 1).2 with
  | .ok b => b.headD 0
  | .err _ _ => 0

/-- Destination bytes beyond the error are unpredictable (R401, R4). -/
def looseBytes (s : State) (ch : Nat) (l : List Piece) : State :=
  l.foldl (fun (t : State) p =>
    match chanAt t ch p.dst p.n true with
    | .dev d =>
      match memAt t d with
      | .window _ => t
      | _ =>
        let free := (List.range p.n).map fun i => looseByte t ch (Config.freeNat (t.free + i))
        setBytes { t with free := t.free + p.n } (msetAll t.mem.bytes d free)
    | _ => t) s

/-- The read half of a merge has met an error, for the channel that writes (R412). -/
def noteMerge (s : State) (ch : Nat) : State := s.setChan ch { s.chan ch with merged := true }

/-- The lines of DRAM that a transfer has written only in part are merged before it ends: as runPieces answers (R414). -/
def settlePieces (s : State) (ch : Nat) (count : Nat) : List Piece → State × (Nat × Nat × Nat)
  | [] => (s, (0x01, count, 0))
  | p :: r =>
    match chanAt s ch p.dst p.n true with
    | .dev d => match settleRange s d p.n with
      | (t, none) => settlePieces t ch (count + p.n) r
      | (t, some (e, x)) => (looseBytes (noteMerge t ch) ch (p :: r), (dmaStatus e, count, p.dst + x - d))
    | _ => settlePieces s ch (count + p.n) r

/-- Carry out pieces of a transfer in order, and then merge the partial lines of all it wrote: status, bytes completed and
the faulting address. -/
def runFrom (s : State) (ch : Nat) (held : Lines) (count : Nat) (all : List Piece) : List Piece → State × (Nat × Nat × Nat)
  | [] => settlePieces s ch 0 all
  | p :: r =>
    match readSrcs s ch held p.srcs with
    | (t, _, .err e a) => (looseBytes t ch (p :: r), (dmaStatus e, count, a))
    | (t, m, .ok b) =>
      match chanWrite t ch p.dst (p.make b) with
      | (u, some (e, a)) => (looseBytes (if e = .access ∨ e = .timeout then u else noteMerge u ch) ch (p :: r), (dmaStatus e, count, a))
      | (u, none) => runFrom u ch m (count + p.n) all r

/-- Carry out the pieces of a transfer: status, bytes completed and the faulting address (R398, R401). -/
def runPieces (s : State) (ch : Nat) (pieces : List Piece) : State × (Nat × Nat × Nat) := runFrom s ch [] 0 pieces pieces

/-- The pieces of a descriptor by its operation (R397). -/
def piecesOf (d : Dd) : List Piece :=
  match d.op with
  | 0 => copyPieces d | 1 => fillPieces d | 2 => interleavePieces d
  | 3 => deinterleavePieces d | 4 => splitPieces d | _ => mergePieces d

/-- A piece reads or writes at an address. -/
def Piece.touches (p : Piece) (a : Nat) : Bool :=
  (decide (p.dst ≤ a) && decide (a < p.dst + p.n)) || p.srcs.any fun x => decide (x.1 ≤ a) && decide (a < x.1 + x.2)

/-- A data access of the descriptor being run does not answer: what comes before it is carried out, and the rest of its
destination is unpredictable (R401, R402). -/
def timeoutChan (s : State) (ch a : Nat) : State :=
  let x := s.chan ch
  match x.state, x.desc, x.moved with
  | .running, some ws, none =>
    let ps := piecesOf (ddOf ws)
    let pre := ps.takeWhile fun p => !p.touches a
    if pre.length = ps.length then s
    else match runPieces s ch pre with
      | (t, (st, n, fa)) =>
        if st ≠ 0x01 then t.setChan ch { t.chan ch with moved := some (st, n, fa) }
        else
          let u := looseBytes t ch (ps.drop pre.length)
          u.setChan ch { u.chan ch with moved := some (0x22, n, a) }
  | _, _, _ => s

/-- The transfer of a channel's descriptor, when it has this operation; DONE of a complete one is LEN (R396). -/
def transfer (s : State) (ch op : Nat) (pieces : Dd → List Piece) : Res :=
  onUnit ch 256 <|
    let x := s.chan ch
    match x.state, x.desc, x.moved with
    | .running, some ws, none =>
      let d := ddOf ws
      if d.op ≠ op ∨ chanLive s ch = false then done s
      else
        let (t, (status, n, fa)) := runPieces s ch (pieces d)
        done (settleAll s (t.setChan ch { t.chan ch with moved := some (status, if status = 0x01 then d.len else n, fa) }))
    | _, _, _ => done s

/-- R397: OP 0 copies LEN bytes. -/
def execDmaCopy (chan : Nat) (s : State) : Res := transfer s chan 0 copyPieces
/-- R397: OP 1 fills LEN bytes. -/
def execDmaFill (chan : Nat) (s : State) : Res := transfer s chan 1 fillPieces
/-- R397: OP 2 interleaves antenna streams. -/
def execDmaAntennaInterleave (chan : Nat) (s : State) : Res := transfer s chan 2 interleavePieces
/-- R397: OP 3 separates antenna streams. -/
def execDmaAntennaDeinterleave (chan : Nat) (s : State) : Res := transfer s chan 3 deinterleavePieces
/-- R397: OP 4 splits elements into bit planes. -/
def execDmaBitPlaneSplit (chan : Nat) (s : State) : Res := transfer s chan 4 splitPieces
/-- R397: OP 5 merges bit planes into elements. -/
def execDmaBitPlaneMerge (chan : Nat) (s : State) : Res := transfer s chan 5 mergePieces

/-- R400: the transfer ends, is written back and the end-check read issues, or an error halts the channel. A parity error of
the engine's data path may have struck it: the spec says not when, so a free bit does (R401, assumption 78). -/
def execDmaTransferEnd (chan : Nat) (s : State) : Res :=
  onUnit chan 256 <|
    let x := s.chan chan
    match x.state, x.desc, x.moved with
    | .running, some ws, some (status, n, fa) =>
      if chanLive s chan = false then done s
      else if Config.dataPathFails s.free then done (settleAll s (haltChan { s with free := s.free + 1 } chan 0x43 x.cur))
      else
        let s := { s with free := s.free + 1 }
        let (t, e) := writeBack s chan x.cur status n
        let t := t.bump keyDmaDescriptors 1
        done (settleAll s (match e with
          | some er => haltChan t chan (descStatus er) x.cur
          | none =>
            if status ≠ 0x01 then haltChan t chan status fa
            else
              let t := t.setChan chan { x with state := .parked, desc := none, moved := none, checks := 1, lastStatus := 1 }
              if tbit (ddOf ws).w0 62 then raiseEvent t keyDmaChannelErr (16 * chan) (t.domBytes keyDmaChannelErr (16 * chan) 16)
              else t))
    | _, _, _ => done s

/-- R399: a parked channel's end-check read returns. -/
def execEndCheckReturn (chan : Nat) (s : State) : Res :=
  onUnit chan 256 <|
    let x := s.chan chan
    if x.state ≠ .parked ∨ x.checks = 0 ∨ chanLive s chan = false then done s
    else done (settleAll s (
      match chanRead s chan x.cur 8 with
      | (t, .err e a) => haltChan t chan (descStatus e) a
      | (t, .ok b) =>
        let w := leNat b
        if tbit w 63 then t.setChan chan { x with checks := x.checks - 1 }
        else t.setChan chan { x with state := .running, count := x.count + 1, cur := bits w 39 0, checks := 0 }))

/-! ## The interconnect timeout (R402) -/

/-- Device address that a requester's address means, and the cluster the request leaves. -/
def requestAt (s : State) (who : Requester) (a : Nat) : Option Nat × Option Nat :=
  let dev : CoreAt → Option Nat := fun x => match x with | .dev d => some d | _ => none
  match who with
  | .core c | .vector c => (dev (coreAt (s.core c) c a 1 false), some (c / 36))
  | .dma ch | .descriptor ch => (dev (chanAt s ch a 1 false), some (ch / 16))
  | .engine _ _ => (some a, none)

/-- The cluster island that a request crosses into (R167). -/
def crossesInto (s : State) (who : Requester) (a : Nat) : Option Nat :=
  match requestAt s who a with
  | (some d, k) =>
    match memAt s d with
    | .cluster j | .tcm j =>
      let n := match memAt s d with | .tcm _ => j / 36 | _ => j
      if k = some n then none else some n
    | _ => none
  | _ => none

/-- Unit number of a requester, and the bound of its numbering. -/
def requesterUnit : Requester → Nat × Nat
  | .core c | .vector c => (c, 576)
  | .dma ch | .descriptor ch => (ch, 256)
  | .engine kind n => (n, nEngines .m5f kind)

/-- The timeout reaches its requester (R402): a load of the bundle in issue faults there, a posted store reports it (R224), and
a vector access through a segment faults when its instruction executes (R240, R245). Without such an access there is nothing to time out. -/
def timeoutTo (s : State) (who : Requester) (a : Nat) : State :=
  match who with
  | .core c =>
    let x := s.core c
    if x.running && x.bundle.effs.any (fun e => match e with | .load _ ea _ _ => decide (ea = a) | _ => false) then
      raisePrecise s c 2 0x09 0 a
    else match x.sbuf.find? fun p => decide (p.ea = a) with
      | some p => if x.running ∧ x.sberr = none then s.setCore c { x with sberr := some (p, 0x09) } else s
      | none => if x.task.isNone then lateFault s (.core c) 0x06 0 a false none else s
  | .vector c =>
    let x := s.core c
    if x.running && !x.vfault && decide (0x40000000 ≤ a)
        && x.vpend.any (fun op => op.elems.any fun y => y.2 && decide (y.1 = (a : Int))) then
      s.setCore c { x with slow := some a }
    else s
  | .dma ch => timeoutChan s ch a
  | .descriptor ch =>
    let x := s.chan ch
    if x.state = .running ∧ x.desc.isNone = true ∨ x.state = .parked ∧ x.checks ≠ 0 then haltChan s ch 0x40 a else s
  | .engine kind n =>
    match (s.engine kind n).entry with
    | some e => engineFault s kind n e 0x12 0 a
    | none => lateError s kind n 0x12 (0x12 * 2 ^ 16) a false

/-- R402: a request has waited 4,096 cycles and ends with a timeout to its requester; a crossing into a cluster island
that times out loses that island (R167). -/
def execInterconnectTimeout (who : Requester) (addr : Nat) (s : State) : Res :=
  onUnit (requesterUnit who).1 (requesterUnit who).2 <|
    let t := timeoutTo s who addr
    if t = s then done s
    else done (settleAll s (match crossesInto s who addr with | some k => loseIsland t k | none => t))

end Sys2Proof.Machine
end

