-- ==== Sys2Proof/Machine/Rows.lean ====
section
/-!
DEFINITION. The rows of the command table that Cleip carries, and the ends of the longer operations they begin (R102, R108,
R119, R137, R146, R150, R151, R171, R174, R175, R181, R184, R188, R302, R334, R339, R343, R353, R375, R381, R384, R386, R422,
R424, R428, R430, R436 to R458, R461, R465 to R473, R476, R482, R488, R493 to R498, R503, R507, R512, R517, R547, R551).
-/
namespace Sys2Proof.Machine

/-! ## Objects with a row of their own -/

/-- Objects of POOL_CONFIG (R32). -/
def isPoolSetting (k : Nat) : Bool := decide (0x430100 ≤ k) && decide (k < 0x43FF00) && decide (2 ≤ k % 256) && decide (k % 256 ≤ 6)

/-- Objects of NB_CONFIG_WRITE (R302 to R305). -/
def isNbSetting (k : Nat) : Bool := decide (k = keyNbChannelTable) || (decide (0x810000 ≤ k) && decide (k < 0x812000) && decide (k % 256 = 1))

/-- Installer bounds of policy values (R146). -/
def isPolicyBound (k : Nat) : Bool := (decide (k / 256 = 0x5001) || decide (k / 256 = 0x5002)) && decide (k % 256 ≠ 0)

/-- EtherTypes and UDP ports of R461. -/
def isCarrierId (k : Nat) : Bool := [keyCleipEtype, keyTransportEtype, keyCleipUdp, keyTransportUdp, keyEcpriUdp].contains k

/-- Objects of RESULT_STORE_CONFIG (R102). -/
def isResultSetting (k : Nat) : Bool := [keyResultStoreBytes, keyResultBufSize, keyResultHandles].contains k

/-- Objects whose writes have a row of their own in the command table, the groups above apart. -/
def rowObjects : List Nat :=
  [keyFwUpdateCmd, keyTakeoverCmd, keyBuddyRelease, keyBuddy, keyRegionRestore, keyRegionRetire, keyOvercastMask, keyQueueReset,
   keyQueueConfig, keyCellConfig, keyMigrateCmd, keyAdmitProbe, keyKernelTable, keyMakerLockBlow, keyAuditExported,
   keyKeyLoadPlain, keyKeyLoadWrapped, keyKeyErase, keyCipherLock, keyCipherLockBoot, keyConfigBackup, keyFwImage,
   keyGroupEnable, keyLaneCmd, keyLaneConfig, keyLinkConfig, keyTdContainers, keyAnvilPoolRole, keyFhCell, keyTdLanding,
   keyDramConfig, keyTsa, keyTsb, keyDramDelays, keyDramFreqCmd, keyTimeSet, keyAdjust, keyIncrement, keyActiveDomain,
   keyTimeRefSel, keyPtpDomain 0, keyPtpDomain 1, keyTcDomains, keyModuleMap, keyOpticsCmd, keyPowerTarget, keyDeepCmd,
   keyResetCmd]

/-- A write of an object has a row of its own. -/
def hasRow (k : Nat) : Bool :=
  rowObjects.contains k || isPoolSetting k || isNbSetting k || isPolicyBound k || isCarrierId k || isResultSetting k

/-- A write of one object. -/
def writeOf (k : Nat) (r : CleipReq) (s : State) : Res := rowWrite (fun x => decide (x = k)) r s

/-- The value that a scalar write carries. -/
def reqVal (r : CleipReq) : Nat := beNat (r.body.take r.length)

/-! ## Fault masking, firmware and the buddy -/

/-- FW_UPDATE_CMD (R174). -/
def execFwUpdateCmd (r : CleipReq) (s : State) : Res := writeOf keyFwUpdateCmd r s
/-- TAKEOVER_CMD (R181). -/
def execTakeoverCmd (r : CleipReq) (s : State) : Res := writeOf keyTakeoverCmd r s
/-- BUDDY_RELEASE (R184). -/
def execBuddyRelease (r : CleipReq) (s : State) : Res := writeOf keyBuddyRelease r s
/-- BUDDY (R175). -/
def execBuddy (r : CleipReq) (answer : Option (Nat × Nat)) (s : State) : Res :=
  request (decide (reqKey r = keyBuddy)) answer (writeOp r) r s
/-- REGION_RESTORE (R162, R171). -/
def execRegionRestore (r : CleipReq) (s : State) : Res := writeOf keyRegionRestore r s
/-- REGION_RETIRE (R171). -/
def execRegionRetire (r : CleipReq) (s : State) : Res := writeOf keyRegionRetire r s
/-- OVERCAST_MASK (R188). -/
def execOvercastMask (r : CleipReq) (s : State) : Res := writeOf keyOvercastMask r s

/-- REGION_RESTORE_DONE: the test ends, and the write that began it is answered (R171). -/
def execRegionRestoreDone (region : Nat) (passed : Bool) (s : State) : Res :=
  let (st, t) := restoreTested s region passed
  let i := t.cleip.inService.find? fun i => decide (i.key = keyRegionRestore) && decide (i.rec'.new = region)
  onUnit region 0x624
    (whenSt (s.powered && isMemRegion region && decide (s.regState region = 1)) s
      (settleAll s (match i with | some i => endService t i st | none => t)))

/-! ## Queues, pools, cells and policy -/

/-- QUEUE_RESET (R108). -/
def execQueueReset (r : CleipReq) (s : State) : Res := writeOf keyQueueReset r s
/-- QUEUE_CONFIG (R108, R110). -/
def execQueueConfig (r : CleipReq) (s : State) : Res := writeOf keyQueueConfig r s
/-- POOL_CONFIG (R32, R33). -/
def execPoolConfig (r : CleipReq) (s : State) : Res := rowWrite isPoolSetting r s
/-- RESULT_STORE_CONFIG (R102). -/
def execResultStoreConfig (r : CleipReq) (s : State) : Res := rowWrite isResultSetting r s
/-- CELL_CONFIG (R119). -/
def execCellConfig (r : CleipReq) (s : State) : Res := writeOf keyCellConfig r s
/-- MIGRATE_CMD (R151). -/
def execMigrateCmd (r : CleipReq) (s : State) : Res := writeOf keyMigrateCmd r s
/-- ADMIT_PROBE (R150). -/
def execAdmitProbe (r : CleipReq) (s : State) : Res := writeOf keyAdmitProbe r s
/-- KERNEL_TABLE (R137). -/
def execKernelTable (r : CleipReq) (s : State) : Res := writeOf keyKernelTable r s
/-- POLICY_BOUND (R146). -/
def execPolicyBound (r : CleipReq) (s : State) : Res := rowWrite isPolicyBound r s

/-- The wait of a write in service for a fill is over (R422). -/
def fillOver (s : State) (i : InService) : Bool :=
  if isPoolSetting i.key then !poolFilling s (i.key / 256 - 0x4300)
  else if isResultSetting i.key then !poolFilling s 0x7F
  else decide (i.key = keyConfigBackup) && s.mem.fills.isEmpty

/-- FAST_FILL_DONE: the pool is configured, its buffers are zero, and the write that filled it is answered (R33, R422). -/
def execFastFillDone (what : Nat) (s : State) : Res :=
  let mine : List (Nat × Nat × Nat) := s.mem.fills.filter fun f => decide (f.1 = what)
  let rest : List (Nat × Nat × Nat) := s.mem.fills.filter fun f => decide (f.1 ≠ what)
  let t := mine.foldl (fun (t : State) f => fastFill t f.2.1 f.2.2) { s with mem := { s.mem with fills := rest } }
  let late := t.cleip.inService.filter (fillOver t)
  whenSt (s.powered && poolFilling s what) s (settleAll s (late.foldl (fun (t : State) i => endService t i csOk) t))

/-! ## The dictionary at large -/

/-- OBJECT_WRITE (R476). -/
def execObjectWrite (r : CleipReq) (s : State) : Res := rowWrite (fun k => !hasRow k) r s
/-- CLEIP_READ (R465). -/
def execCleipRead (r : CleipReq) (s : State) : Res := request true none 1 r s
/-- CLEIP_READ_BLOCK (R465). -/
def execCleipReadBlock (r : CleipReq) (s : State) : Res := request true none 3 r s
/-- CLEIP_WRITE_BLOCK (R469, R470). -/
def execCleipWriteBlock (r : CleipReq) (s : State) : Res := request true none 4 r s
/-- CARRIER_ID_WRITE (R461). -/
def execCarrierIdWrite (r : CleipReq) (s : State) : Res := rowWrite isCarrierId r s

/-- A SUBSCRIBE is not of another row's mode. -/
def modeFits (r : CleipReq) (mode : Nat) : Bool := match subMode r with | some m => decide (m = mode) || decide (2 < m) | none => true

/-- SUBSCRIBE_CANCEL (R472). -/
def execSubscribeCancel (r : CleipReq) (s : State) : Res := request (modeFits r 0) none 5 r s
/-- SUBSCRIBE_ON_CHANGE (R472). -/
def execSubscribeOnChange (r : CleipReq) (s : State) : Res := request (modeFits r 1) none 5 r s
/-- SUBSCRIBE_ON_EVENT (R472). -/
def execSubscribeOnEvent (r : CleipReq) (s : State) : Res := request (modeFits r 2) none 5 r s

/-- SUBSCRIPTION_INTERVAL (R472). -/
def execSubscriptionInterval (n : Nat) (s : State) : Res :=
  match kget s.cleip.subs n with
  | none => done s
  | some x => whenSt (decide (x.mode = 1) && decide (x.lastCompare + x.interval * msNs ≤ s.time.now)) s (compareSub s n x)

/-- SUB_LEASE_LAPSE: a last event with TIMEOUT, behind those that a pause still holds (R96, R472, R473). -/
def execSubLeaseLapse (n : Nat) (s : State) : Res :=
  match kget s.cleip.subs n with
  | none => done s
  | some x =>
    let src := x.requester
    let msgs := x.queue ++ [eventMsg s x csTimeout 0xFFFFFFFF []]
    let t := msgs.foldl (fun t m => (t.sendAt src.carrier (srcPrio src) (.frame (cleipFrame s src m))).bump keyCleipEventsSent 1) s
    whenSt (decide (x.requester.carrier < 2) && decide (x.renewed + s.oval keySubLease * secNs ≤ s.time.now)) s
      { t with cleip := { t.cleip with subs := kdel t.cleip.subs n } }

/-- CLEIP_BLOCK_TIMEOUT: the block write is discarded and audited (R471). -/
def execCleipBlockTimeout (key : Nat) (s : State) : Res :=
  match s.cleip.blocks.find? fun b => decide (b.key = key) with
  | none => done s
  | some b =>
    let w : WReq := { key, role := roleOf b.requester.carrier, carrier := b.requester.carrier, val := beNat b.data, off := b.start
                      data := b.data, flashOk := true, cipherFaults := 0 }
    let r : CleipReq := { src := b.requester, version := 1, resp := false, last := false, tid := b.tid, index := key / 256
                          sub := key % 256, length := 0, offset := b.start, body := [], frame := noFrame, flashOk := true, cipherFaults := 0 }
    let t := audit (closeBlock s key) { auditFor s 1 r w with status := csTimeout }
    whenSt (decide (b.lastSeg + s.oval keyCleipBlockTimeout * msNs ≤ s.time.now)) s (t.bump keyBlockTimeouts 1)

/-- CLEIP_REPLAY_HOLD_EXPIRY (R467). -/
def execCleipReplayHoldExpiry (src : CleipSrc) (tid : Nat) (s : State) : Res :=
  done { s with cleip := { s.cleip with
    held := s.cleip.held.filter fun h =>
      !(sameReq h.requester src && decide (h.tid = tid) && decide (h.time + s.oval keyCleipReplayHold * msNs ≤ s.time.now)) } }

/-! ## Ports, audit and keys -/

/-- MAKER_LOCK_BLOW (R488). -/
def execMakerLockBlow (r : CleipReq) (s : State) : Res := writeOf keyMakerLockBlow r s
/-- AUDIT_EXPORTED (R493). -/
def execAuditExported (r : CleipReq) (s : State) : Res := writeOf keyAuditExported r s
/-- KEY_LOAD_PLAIN (R495). -/
def execKeyLoadPlain (r : CleipReq) (s : State) : Res := writeOf keyKeyLoadPlain r s
/-- KEY_LOAD_WRAPPED (R495). -/
def execKeyLoadWrapped (r : CleipReq) (s : State) : Res := writeOf keyKeyLoadWrapped r s
/-- KEY_ERASE (R495). -/
def execKeyErase (r : CleipReq) (s : State) : Res := writeOf keyKeyErase r s
/-- CIPHER_LOCK (R498). -/
def execCipherLock (r : CleipReq) (s : State) : Res := writeOf keyCipherLock r s
/-- CIPHER_LOCK_BOOT (R498). -/
def execCipherLockBoot (r : CleipReq) (s : State) : Res := writeOf keyCipherLockBoot r s
/-- CONFIG_BACKUP_RESTORE (R482). -/
def execConfigBackupRestore (r : CleipReq) (s : State) : Res := writeOf keyConfigBackup r s
/-- FW_IMAGE (R174, R551). -/
def execFwImage (r : CleipReq) (s : State) : Res := writeOf keyFwImage r s

/-- CONFIG_BACKUP_REBUILD (R503). Sealing waits while the cipher engine that it needs is out of service, or fails (R499). -/
def execConfigBackupRebuild (s : State) : Res :=
  let t := { s with cleip := { s.cleip with generation := (s.cleip.generation + 1) % 2 ^ 32, rebuildDue := none } }
  let b := backupNow t
  let t := { t with cleip := { t.cleip with backup := b } }
  let (c, bad) := if sealOwn s = 0 then (t, false)
    else cipherRun (useCipher t (cmacBlocks (b.length - 16) + if sealOwn s = 2 then (b.length - 48 + 15) / 16 else 0))
  whenSt (mgmtUp s && s.cleip.rebuildDue.isSome && (decide (sealOwn s = 0) || cipherUp s)) s
    (if bad then { c with cleip := s.cleip } else c)

/-! ## Fronthaul -/

/-- NB_CONFIG_WRITE (R302 to R305). -/
def execNbConfigWrite (r : CleipReq) (s : State) : Res := rowWrite isNbSetting r s
/-- GROUP_ENABLE (R326, R343). -/
def execGroupEnable (r : CleipReq) (s : State) : Res := writeOf keyGroupEnable r s

/-- Code of a LANE_CMD (R343). -/
def laneCode (r : CleipReq) : Nat := bits (reqVal r) 11 8

/-- LANE_CMD_SLIP; a code of no command is refused here (R334, R343). -/
def execLaneCmdSlip (r : CleipReq) (s : State) : Res :=
  rowWrite (fun k => decide (k = keyLaneCmd) && decide (laneCode r ≠ 2) && decide (laneCode r ≠ 3)) r s
/-- LANE_CMD_DRAIN (R339). -/
def execLaneCmdDrain (r : CleipReq) (s : State) : Res := rowWrite (fun k => decide (k = keyLaneCmd) && decide (laneCode r = 2)) r s
/-- LANE_CMD_RESTORE (R339). -/
def execLaneCmdRestore (r : CleipReq) (s : State) : Res := rowWrite (fun k => decide (k = keyLaneCmd) && decide (laneCode r = 3)) r s
/-- LANE_CONFIG (R344). -/
def execLaneConfig (r : CleipReq) (s : State) : Res := writeOf keyLaneConfig r s
/-- LINK_CONFIG (R375). -/
def execLinkConfig (r : CleipReq) (s : State) : Res := writeOf keyLinkConfig r s
/-- TD_CONTAINERS (R353). -/
def execTdContainers (r : CleipReq) (s : State) : Res := writeOf keyTdContainers r s
/-- ANVIL_POOL_ROLE (R381). -/
def execAnvilPoolRole (r : CleipReq) (s : State) : Res := writeOf keyAnvilPoolRole r s
/-- FH_CELL (R384). -/
def execFhCell (r : CleipReq) (s : State) : Res := writeOf keyFhCell r s
/-- TD_LANDING (R386). -/
def execTdLanding (r : CleipReq) (s : State) : Res := writeOf keyTdLanding r s

/-! ## Memory, time and optics -/

/-- DRAM_CONFIG (R424). -/
def execDramConfig (r : CleipReq) (s : State) : Res := writeOf keyDramConfig r s
/-- TIMING_SET_WRITE (R428). -/
def execTimingSetWrite (r : CleipReq) (s : State) : Res := rowWrite (fun k => decide (k = keyTsa) || decide (k = keyTsb)) r s
/-- DRAM_DELAYS (R430). -/
def execDramDelays (r : CleipReq) (s : State) : Res := writeOf keyDramDelays r s
/-- DRAM_FREQ_CMD (R428). -/
def execDramFreqCmd (r : CleipReq) (s : State) : Res := writeOf keyDramFreqCmd r s
/-- TIME_SET (R441). -/
def execTimeSet (r : CleipReq) (s : State) : Res := writeOf keyTimeSet r s
/-- ADJUST (R438, R441). -/
def execAdjust (r : CleipReq) (s : State) : Res := writeOf keyAdjust r s
/-- INCREMENT (R436, R442). -/
def execIncrement (r : CleipReq) (s : State) : Res := writeOf keyIncrement r s
/-- ACTIVE_DOMAIN (R450). -/
def execActiveDomain (r : CleipReq) (s : State) : Res := writeOf keyActiveDomain r s
/-- TIME_REF_SEL (R436). -/
def execTimeRefSel (r : CleipReq) (s : State) : Res := writeOf keyTimeRefSel r s
/-- PTP_DOMAIN (R458). -/
def execPtpDomain (r : CleipReq) (s : State) : Res := rowWrite (fun k => decide (k = keyPtpDomain 0) || decide (k = keyPtpDomain 1)) r s
/-- TC_DOMAINS (R449). -/
def execTcDomains (r : CleipReq) (s : State) : Res := writeOf keyTcDomains r s
/-- MODULE_MAP (R507). -/
def execModuleMap (r : CleipReq) (s : State) : Res := writeOf keyModuleMap r s

/-- Code of an OPTICS_CMD (R515). -/
def opticsCode (r : CleipReq) : Nat := bits (reqVal r) 9 8

/-- OPTICS_CMD_DRAIN; a code of no command is refused here (R512, R515). -/
def execOpticsCmdDrain (r : CleipReq) (s : State) : Res :=
  rowWrite (fun k => decide (k = keyOpticsCmd) && decide (opticsCode r ≠ 2)) r s
/-- OPTICS_CMD_RESTORE (R512). -/
def execOpticsCmdRestore (r : CleipReq) (s : State) : Res :=
  rowWrite (fun k => decide (k = keyOpticsCmd) && decide (opticsCode r = 2)) r s

/-! ## Power and reset -/

/-- POWER_TARGET (R517). -/
def execPowerTarget (r : CleipReq) (s : State) : Res := writeOf keyPowerTarget r s
/-- DEEP_CMD (R517). -/
def execDeepCmd (r : CleipReq) (s : State) : Res := writeOf keyDeepCmd r s
/-- RESET_CMD_WARM; a value of no command is refused here (R547). -/
def execResetCmdWarm (r : CleipReq) (s : State) : Res := rowWrite (fun k => decide (k = keyResetCmd) && decide (reqVal r ≠ 2)) r s
/-- RESET_CMD_COLD (R547). -/
def execResetCmdCold (r : CleipReq) (s : State) : Res := rowWrite (fun k => decide (k = keyResetCmd) && decide (reqVal r = 2)) r s

end Sys2Proof.Machine
end

