-- ==== Sys2Proof/Machine/Scalar.lean ====
section
/-!
DEFINITION. The scalar instructions of the Bruop core: control registers, arithmetic, accumulators, loops, branches and
system instructions (R200, R201, R209 to R221).
-/
namespace Sys2Proof.Machine

/-! ## Shared forms -/

/-- An instruction that writes one general register, with the clip mark of a saturating form. -/
def Iss.toG (d : BitVec 5) (r : BitVec 32 × Bool) : Iss :=
  { writes := [.g d.toNat], effs := if r.2 then [.wg d r.1, .sat] else [.wg d r.1] }

/-- A register operation of the ALU group (R218). -/
def alu (c : Nat) (f : AFmt) (s : State) (op : BitVec 32 → BitVec 32 → BitVec 32 × Bool) : Res :=
  issue c f.stop s fun x _ => Iss.toG f.d (op (x.rg f.a) (x.rg f.b))

/-- A unary operation: B must be zero (R218). -/
def alu1 (c : Nat) (f : AFmt) (s : State) (op : BitVec 32 → BitVec 32 × Bool) : Res :=
  issue c f.stop s fun x _ => if f.b ≠ 0 then Iss.bad .scalar 0 else Iss.toG f.d (op (x.rg f.a))

/-- A shift by the B field (R217). -/
def aluSh (c : Nat) (f : AFmt) (s : State) (op : BitVec 32 → Nat → BitVec 32 × Bool) : Res :=
  issue c f.stop s fun x _ => Iss.toG f.d (op (x.rg f.a) f.b.toNat)

/-- An operation with an immediate (R217). -/
def aluI (c : Nat) (f : IFmt) (s : State) (op : BitVec 32 → BitVec 32) : Res :=
  issue c f.stop s fun x _ => Iss.toG f.d (op (x.rg f.a), false)

/-- A result that does not clip. -/
def plain (v : BitVec 32) : BitVec 32 × Bool := (v, false)

/-- Shift amount of a register form (R218). -/
def shAmt (b : BitVec 32) : Nat := b.toNat % 32

/-- Saturating left shift (R218, R211). -/
def slls32 (a : BitVec 32) (n : Nat) : BitVec 32 × Bool := fit32 true (a.toInt * (2 ^ n : Nat))

/-- Arithmetic right shift with floor (R211). -/
def sra32 (a : BitVec 32) (n : Nat) : BitVec 32 := BitVec.ofInt 32 (floorShift a.toInt n)

/-! ## Control registers (R201, R216, R235, R264) -/

/-- What a read of a control register waits for (R235, R264). -/
def ctlSync (s : State) (n : Nat) : List Eff :=
  if n = 0x001 ∨ (0x080 ≤ n ∧ n < 0x100) then [.vsync]
  else if n = 0x100 ∧ hasMxc s.part.variant then [.mxsync]
  else []

/-- MOVC: gD := control register (R216). -/
def execMovc (c : Nat) (stop : Bool) (d : BitVec 5) (ctrl : BitVec 10) (s : State) : Res :=
  issueM c stop s fun s _ _ =>
    if ctlListed ctrl.toNat then { writes := [.g d.toNat], effs := .movc d ctrl.toNat :: ctlSync s ctrl.toNat }
    else Iss.bad .scalar 0

/-- MOVTC: control register := gA; a write to a read-only one is ignored (R201, R216). -/
def execMovtc (c : Nat) (stop : Bool) (a : BitVec 5) (ctrl : BitVec 10) (s : State) : Res :=
  issueM c stop s fun s x _ =>
    let n := ctrl.toNat
    if !ctlListed n then Iss.bad .scalar 0
    else if ctlWritable n && !(decide (n = 0x100) && !hasMxc s.part.variant) then
      { writes := [.ctl n], effs := .wctl n (x.rg a) :: (if n = 0x100 then [.mxsync] else []) }
    else {}

/-- JR: jump to the address in gA (R216); one that is not a multiple of 4 is fetched as it stands (DESIGN CHOICE,
assumption 81). -/
def execJr (c : Nat) (stop : Bool) (a : BitVec 5) (s : State) : Res :=
  issue c stop s fun x _ => { flow := true, effs := [.goto (x.rg a).toNat] }

/-! ## ALU group (R211, R212, R218) -/

/-- gD := gA + gB. -/
def execAdd (c : Nat) (f : AFmt) (s : State) : Res := alu c f s fun a b => plain (a + b)
/-- gD := gA − gB. -/
def execSub (c : Nat) (f : AFmt) (s : State) : Res := alu c f s fun a b => plain (a - b)
/-- The saturating sum. -/
def execAdds (c : Nat) (f : AFmt) (s : State) : Res := alu c f s fun a b => fit32 true (a.toInt + b.toInt)
/-- The saturating difference. -/
def execSubs (c : Nat) (f : AFmt) (s : State) : Res := alu c f s fun a b => fit32 true (a.toInt - b.toInt)
/-- Bitwise AND. -/
def execAnd (c : Nat) (f : AFmt) (s : State) : Res := alu c f s fun a b => plain (a &&& b)
/-- Bitwise OR. -/
def execOr (c : Nat) (f : AFmt) (s : State) : Res := alu c f s fun a b => plain (a ||| b)
/-- Bitwise XOR. -/
def execXor (c : Nat) (f : AFmt) (s : State) : Res := alu c f s fun a b => plain (a ^^^ b)
/-- gA AND NOT gB. -/
def execAndn (c : Nat) (f : AFmt) (s : State) : Res := alu c f s fun a b => plain (a &&& ~~~b)
/-- Shift left by gB[4:0]. -/
def execSll (c : Nat) (f : AFmt) (s : State) : Res := alu c f s fun a b => plain (a <<< shAmt b)
/-- Logical shift right by gB[4:0]. -/
def execSrl (c : Nat) (f : AFmt) (s : State) : Res := alu c f s fun a b => plain (a >>> shAmt b)
/-- Arithmetic shift right by gB[4:0]. -/
def execSra (c : Nat) (f : AFmt) (s : State) : Res := alu c f s fun a b => plain (sra32 a (shAmt b))
/-- 1 if gA is less than gB signed. -/
def execSlt (c : Nat) (f : AFmt) (s : State) : Res := alu c f s fun a b => plain (BitVec.ofNat 32 (b2n (a.slt b)))
/-- 1 if gA is less than gB unsigned. -/
def execSltu (c : Nat) (f : AFmt) (s : State) : Res := alu c f s fun a b => plain (BitVec.ofNat 32 (b2n (a.ult b)))
/-- Signed minimum. -/
def execMin (c : Nat) (f : AFmt) (s : State) : Res := alu c f s fun a b => plain (if b.slt a then b else a)
/-- Signed maximum. -/
def execMax (c : Nat) (f : AFmt) (s : State) : Res := alu c f s fun a b => plain (if a.slt b then b else a)
/-- Unsigned minimum. -/
def execMinu (c : Nat) (f : AFmt) (s : State) : Res := alu c f s fun a b => plain (if b.ult a then b else a)
/-- Unsigned maximum. -/
def execMaxu (c : Nat) (f : AFmt) (s : State) : Res := alu c f s fun a b => plain (if a.ult b then b else a)
/-- Low 32 bits of the product. -/
def execMul (c : Nat) (f : AFmt) (s : State) : Res := alu c f s fun a b => plain (a * b)
/-- High 32 bits of the signed product. -/
def execMulh (c : Nat) (f : AFmt) (s : State) : Res :=
  alu c f s fun a b => plain (BitVec.ofInt 32 (floorShift (a.toInt * b.toInt) 32))
/-- High 32 bits of the unsigned product. -/
def execMulhu (c : Nat) (f : AFmt) (s : State) : Res :=
  alu c f s fun a b => plain (BitVec.ofNat 32 (a.toNat * b.toNat / 2 ^ 32))
/-- The product clipped to 32 bits (R212). -/
def execMuls (c : Nat) (f : AFmt) (s : State) : Res := alu c f s fun a b => fit32 true (a.toInt * b.toInt)
/-- Wrapping absolute value (R212). -/
def execAbs (c : Nat) (f : AFmt) (s : State) : Res := alu1 c f s fun a => fit32 false (a.toInt.natAbs : Int)
/-- Saturating absolute value (R212). -/
def execAbss (c : Nat) (f : AFmt) (s : State) : Res := alu1 c f s fun a => fit32 true (a.toInt.natAbs : Int)
/-- Wrapping negation (R212). -/
def execNeg (c : Nat) (f : AFmt) (s : State) : Res := alu1 c f s fun a => fit32 false (-a.toInt)
/-- Saturating negation (R212). -/
def execNegs (c : Nat) (f : AFmt) (s : State) : Res := alu1 c f s fun a => fit32 true (-a.toInt)
/-- Saturating left shift by gB[4:0]. -/
def execSlls (c : Nat) (f : AFmt) (s : State) : Res := alu c f s fun a b => slls32 a (shAmt b)

/-! ## Immediates (R217) -/

/-- gA plus a sign-extended immediate. -/
def execAddi (c : Nat) (f : IFmt) (s : State) : Res := aluI c f s fun a => a + f.imm.signExtend 32
/-- gA AND a zero-extended immediate. -/
def execAndi (c : Nat) (f : IFmt) (s : State) : Res := aluI c f s fun a => a &&& f.imm.setWidth 32
/-- gA OR a zero-extended immediate. -/
def execOri (c : Nat) (f : IFmt) (s : State) : Res := aluI c f s fun a => a ||| f.imm.setWidth 32
/-- gA XOR a zero-extended immediate. -/
def execXori (c : Nat) (f : IFmt) (s : State) : Res := aluI c f s fun a => a ^^^ f.imm.setWidth 32
/-- The immediate in the upper half (DEDUCED from the name, assumption 20). -/
def execLui (c : Nat) (f : IFmt) (s : State) : Res := aluI c f s fun _ => f.imm.setWidth 32 <<< 16
/-- Shift left by the B field. -/
def execSllImmediate (c : Nat) (f : AFmt) (s : State) : Res := aluSh c f s fun a n => plain (a <<< n)
/-- Logical shift right by the B field. -/
def execSrlImmediate (c : Nat) (f : AFmt) (s : State) : Res := aluSh c f s fun a n => plain (a >>> n)
/-- Arithmetic shift right by the B field. -/
def execSraImmediate (c : Nat) (f : AFmt) (s : State) : Res := aluSh c f s fun a n => plain (sra32 a n)
/-- Saturating left shift by the B field. -/
def execSllsImmediate (c : Nat) (f : AFmt) (s : State) : Res := aluSh c f s fun a n => slls32 a n

/-! ## Accumulators (R211, R212, R214, R219) -/

/-- An instruction that writes an accumulator with a value formed at 40 bits (R212). -/
def Iss.toAcc (n : BitVec 2) (sat : Bool) (v : Int) : Iss :=
  let r := fit sat 40 v
  { writes := [.acc n.toNat], effs := if r.2 then [.wacc n (BitVec.ofNat 40 r.1), .sat] else [.wacc n (BitVec.ofNat 40 r.1)] }

/-- Signed low half. -/
def lo16 (v : BitVec 32) : Int := (v.extractLsb' 0 16).toInt
/-- Signed high half. -/
def hi16 (v : BitVec 32) : Int := (v.extractLsb' 16 16).toInt

/-- acc_a + gA[15:0] × gB[15:0]. -/
def execMac (c : Nat) (f : AccFmt) (s : State) : Res :=
  issue c f.stop s fun x _ => Iss.toAcc f.acc f.sat ((x.ra f.acc).toInt + lo16 (x.rg f.a) * lo16 (x.rg f.b))
/-- acc_a − gA[15:0] × gB[15:0]. -/
def execMsu (c : Nat) (f : AccFmt) (s : State) : Res :=
  issue c f.stop s fun x _ => Iss.toAcc f.acc f.sat ((x.ra f.acc).toInt - lo16 (x.rg f.a) * lo16 (x.rg f.b))
/-- acc_a + gA[31:16] × gB[31:16]. -/
def execMachh (c : Nat) (f : AccFmt) (s : State) : Res :=
  issue c f.stop s fun x _ => Iss.toAcc f.acc f.sat ((x.ra f.acc).toInt + hi16 (x.rg f.a) * hi16 (x.rg f.b))
/-- acc_a := sign-extended gA shifted left by k. -/
def execAccld (c : Nat) (f : AccFmt) (s : State) : Res :=
  issue c f.stop s fun x _ => Iss.toAcc f.acc f.sat ((x.rg f.a).toInt * (2 ^ f.k.toNat : Nat))
/-- gD := acc_a shifted right by k, narrowed to 32 bits. -/
def execAccx (c : Nat) (f : AccFmt) (s : State) : Res :=
  issue c f.stop s fun x _ => Iss.toG f.d (fit32 f.sat (floorShift (x.ra f.acc).toInt f.k.toNat))
/-- gD := acc_a shifted right by k, narrowed to 16 bits and sign-extended. -/
def execAccx16 (c : Nat) (f : AccFmt) (s : State) : Res :=
  issue c f.stop s fun x _ =>
    let r := fit f.sat 16 (floorShift (x.ra f.acc).toInt f.k.toNat)
    Iss.toG f.d ((BitVec.ofNat 16 r.1).signExtend 32, r.2)
/-- acc_a := 0. -/
def execAccclr (c : Nat) (f : AccFmt) (s : State) : Res := issue c f.stop s fun _ _ => Iss.toAcc f.acc false 0

/-! ## Min/max with index, block exponent (R213, R214, R220) -/

/-- Keep the extreme value and its index: gD and gD+1 are replaced when gA is strictly beyond gD (R213). -/
def keepIx (c : Nat) (f : IxFmt) (s : State) (beyond : BitVec 32 → BitVec 32 → Bool) : Res :=
  issue c f.stop s fun x _ =>
    if f.low ≠ 0 then Iss.bad .scalar 0
    else if oddReg f.d then Iss.bad .scalar 4
    else
      { writes := [.g f.d.toNat, .g (pairOf f.d).toNat]
        effs := if beyond (x.rg f.a) (x.rg f.d) then [.wg f.d (x.rg f.a), .wg (pairOf f.d) (x.rg f.b)] else [] }

/-- Keep the signed maximum and its index. -/
def execMaxix (c : Nat) (f : IxFmt) (s : State) : Res := keepIx c f s fun a d => d.slt a
/-- Keep the signed minimum and its index. -/
def execMinix (c : Nat) (f : IxFmt) (s : State) : Res := keepIx c f s fun a d => a.slt d
/-- Keep the unsigned maximum and its index. -/
def execMaxux (c : Nat) (f : IxFmt) (s : State) : Res := keepIx c f s fun a d => d.ult a
/-- Keep the unsigned minimum and its index. -/
def execMinux (c : Nat) (f : IxFmt) (s : State) : Res := keepIx c f s fun a d => a.ult d

/-- A block-exponent operation whose FN[5:0] must be zero. -/
def blockExp (c : Nat) (f : IxFmt) (s : State) (bad : Bool) (op : Core → BitVec 32 × Bool) : Res :=
  issue c f.stop s fun x _ => if f.low ≠ 0 ∨ bad = true then Iss.bad .scalar 0 else Iss.toG f.d (op x)

/-- gD := rsb(gA). -/
def execBexp (c : Nat) (f : IxFmt) (s : State) : Res :=
  blockExp c f s false fun x => plain (BitVec.ofNat 32 (rsb 32 (x.rg f.a).toNat))
/-- gD := min(gD, rsb(gA)), as signed numbers (assumption 21). -/
def execBexpm (c : Nat) (f : IxFmt) (s : State) : Res :=
  blockExp c f s false fun x =>
    let v := BitVec.ofNat 32 (rsb 32 (x.rg f.a).toNat)
    plain (if (x.rg f.d).slt v then x.rg f.d else v)
/-- gD := rsb40(acc_n) − 8, n in B[1:0] and B[4:2] zero. -/
def execBexpa (c : Nat) (f : IxFmt) (s : State) : Res :=
  blockExp c f s (decide (4 ≤ f.b.toNat)) fun x =>
    plain (BitVec.ofInt 32 ((rsb 40 (x.ra (f.b.setWidth 2)).toNat : Int) - 8))
/-- gD := gA clipped to 16 bits. -/
def execSat16 (c : Nat) (f : IxFmt) (s : State) : Res :=
  blockExp c f s false fun x =>
    let r := clipTo 16 (x.rg f.a).toInt
    ((BitVec.ofNat 16 r.1).signExtend 32, r.2)

/-! ## Control flow (R197, R215, R216) -/

/-- Address of a branch target: OFF words from the branch, wrapping at 32 bits. -/
def branchTo {n : Nat} (a : Nat) (off : BitVec n) : Nat := (BitVec.ofNat 32 a + off.signExtend 32 * 4).toNat

/-- A conditional branch on gA. -/
def branchIf (c : Nat) (stop : Bool) (a : BitVec 5) (off : BitVec 18) (s : State) (test : BitVec 32 → Bool) : Res :=
  issue c stop s fun x at' => { flow := true, effs := if test (x.rg a) then [.goto (branchTo at' off)] else [] }

/-- Branch when gA is zero. -/
def execBeqz (c : Nat) (stop : Bool) (a : BitVec 5) (off : BitVec 18) (s : State) : Res :=
  branchIf c stop a off s fun v => v == 0
/-- Branch when gA is not zero. -/
def execBnez (c : Nat) (stop : Bool) (a : BitVec 5) (off : BitVec 18) (s : State) : Res :=
  branchIf c stop a off s fun v => v != 0
/-- Branch when gA is negative. -/
def execBltz (c : Nat) (stop : Bool) (a : BitVec 5) (off : BitVec 18) (s : State) : Res :=
  branchIf c stop a off s fun v => decide (v.toInt < 0)
/-- Branch when gA is not negative. -/
def execBgez (c : Nat) (stop : Bool) (a : BitVec 5) (off : BitVec 18) (s : State) : Res :=
  branchIf c stop a off s fun v => decide (0 ≤ v.toInt)
/-- Branch when gA is positive. -/
def execBgtz (c : Nat) (stop : Bool) (a : BitVec 5) (off : BitVec 18) (s : State) : Res :=
  branchIf c stop a off s fun v => decide (0 < v.toInt)
/-- Branch when gA is not positive. -/
def execBlez (c : Nat) (stop : Bool) (a : BitVec 5) (off : BitVec 18) (s : State) : Res :=
  branchIf c stop a off s fun v => decide (v.toInt ≤ 0)
/-- Branch always. -/
def execBr (c : Nat) (stop : Bool) (off : BitVec 25) (s : State) : Res :=
  issue c stop s fun _ a => { flow := true, effs := [.goto (branchTo a off)] }
/-- Branch and write the address of the next bundle to g31. -/
def execBal (c : Nat) (stop : Bool) (off : BitVec 25) (s : State) : Res :=
  issue c stop s fun _ a => { writes := [.g 31], flow := true, effs := [.goto (branchTo a off), .link] }
/-- Start a hardware loop level; a level already running raises ILLEGAL (R215). Level 1 runs also while LPCNT0 is 0 (DESIGN
CHOICE, assumption 81). -/
def execLoop (c : Nat) (stop : Bool) (a : BitVec 5) (lvl : Bool) (last : BitVec 20) (s : State) : Res :=
  issue c stop s fun x at' =>
    let i := if lvl then 1 else 0
    if vget x.lpcnt i 0 ≠ 0 then Iss.bad .scalar 3
    else
      { writes := [.ctl (0x010 + 4 * i), .ctl (0x011 + 4 * i), .ctl (0x012 + 4 * i)], flow := true
        effs := [.loop lvl (x.rg a) (at' + 4 * last.toNat)] }

/-! ## Loads and stores (R206, R209, R210, R216, R224) -/

/-- Access size in bytes of an SZ code; none for a reserved one (R216). -/
def szBytes (sz : BitVec 3) : Option Nat :=
  match sz.toNat with
  | 0 => some 1 | 1 => some 1 | 2 => some 2 | 3 => some 2 | 4 => some 4 | 5 => some 8 | _ => none

/-- A signed SZ code. -/
def szSigned (sz : BitVec 3) : Bool := sz.toNat = 1 || sz.toNat = 3

/-- Encoding checks shared by loads and stores: the SUB of the ILLEGAL raised (R210, R216, R223). -/
def memBad (f : MFmt) (store : Bool) : Option Nat :=
  if szBytes f.sz = none ∨ (store = true ∧ szSigned f.sz = true) ∨ f.mode = 3 ∨ (f.cb ≠ 0 ∧ f.mode ≠ 2) then some 0
  else if f.sz.toNat = 5 ∧ oddReg f.d = true then some 4
  else if store = false ∧ f.mode ≠ 0 ∧ (f.d = f.a ∨ (f.sz.toNat = 5 ∧ pairOf f.d = f.a)) then some 2
  else none

/-- Effective address of an access of n bytes (R209, R216). -/
def memEa (x : Core) (f : MFmt) (n : Nat) : Nat :=
  if f.mode = 0 then (x.rg f.a + f.off.signExtend 32 * BitVec.ofNat 32 n).toNat else (x.rg f.a).toNat

/-- An access in mode 10 lies outside its circular buffer (R209). -/
def outsideCb (x : Core) (f : MFmt) (ea n : Nat) : Bool :=
  let base := (vget x.cbBase f.cb.toNat 0).toNat
  let len := (vget x.cbLen f.cb.toNat 0).toNat
  decide (f.mode = 2) && decide (len ≠ 0) && (decide (ea < base) || decide (base + len < ea + n))

/-- The pointer after the access, in the modes that update it (R209). -/
def memPtr (x : Core) (f : MFmt) (ea n : Nat) : Option (BitVec 32) :=
  let base := (vget x.cbBase f.cb.toNat 0).toNat
  let len := (vget x.cbLen f.cb.toNat 0).toNat
  let step := f.off.toInt * (n : Int)
  if f.mode = 0 then none
  else if f.mode = 2 ∧ len ≠ 0 then some (BitVec.ofInt 32 (base + ((ea : Int) - base + step) % (len : Int)))
  else some (BitVec.ofInt 32 ((ea : Int) + step))

/-- Registers that an access writes: the pointer it updates. -/
def ptrWrites (f : MFmt) : List WReg := if f.mode = 0 then [] else [.g f.a.toNat]

/-- Registers that a load writes. -/
def loadWrites (f : MFmt) : List WReg :=
  (if f.sz.toNat = 5 then [.g f.d.toNat, .g (pairOf f.d).toNat] else [.g f.d.toNat]) ++ ptrWrites f

/-- LD (R209): its access is made when its bundle is complete. ALIGN comes before ACCESS (DESIGN CHOICE, assumption 81). -/
def execLd (c : Nat) (f : MFmt) (s : State) : Res :=
  issue c f.stop s fun x _ =>
    match memBad f false, szBytes f.sz with
    | some sub, _ => Iss.bad .mem sub
    | none, none => Iss.bad .mem 0
    | none, some n =>
      let ea := memEa x f n
      let stopped (cause sub : Nat) : Iss := { cls := .mem, writes := loadWrites f, exc := some (cause, sub, ea) }
      if outsideCb x f ea n then stopped 0x04 0x01
      else if ea % n ≠ 0 then stopped 0x04 0x00
      else { cls := .mem, writes := loadWrites f, effs := [.load f ea n (memPtr x f ea n)] }

/-- The value a store writes. -/
def ptrVal (x : Core) (f : MFmt) : BitVec 64 :=
  if f.sz.toNat = 5 then x.rg (pairOf f.d) ++ x.rg f.d else (x.rg f.d).setWidth 64

/-- ST (R209, R224). ALIGN comes before ACCESS (DESIGN CHOICE, assumption 81). -/
def execSt (c : Nat) (f : MFmt) (s : State) : Res :=
  issueM c f.stop s fun s x _ =>
    match memBad f true, szBytes f.sz with
    | some sub, _ => Iss.bad .mem sub
    | none, none => Iss.bad .mem 0
    | none, some n =>
      let ea := memEa x f n
      let stopped (cause sub : Nat) : Iss := { cls := .mem, writes := ptrWrites f, exc := some (cause, sub, ea) }
      let good : Iss :=
        { cls := .mem, writes := ptrWrites f, effs := .store ea n (ptrVal x f) :: ptrEffs f (memPtr x f ea n) }
      if outsideCb x f ea n then stopped 0x04 0x01
      else if ea % n ≠ 0 then stopped 0x04 0x00
      else
        match coreAt x c ea n true with
        | .bad sub => stopped 0x05 sub
        | .virt _ _ => stopped 0x05 0x01
        | .dev a =>
          match memAt s a with
          | .window ch => if (windowWrite s ch ((a - windowBase) % 64) 0).isNone then stopped 0x05 0x00 else good
          | _ => good

/-- CBSET: base and length of a circular buffer (R210). -/
def execCbset (c : Nat) (stop : Bool) (n : BitVec 3) (a b : BitVec 5) (res : BitVec 13) (s : State) : Res :=
  issue c stop s fun x _ =>
    if res ≠ 0 then Iss.bad .scalar 0
    else
      { writes := [.ctl (0x020 + 2 * n.toNat), .ctl (0x021 + 2 * n.toNat)]
        effs := [.wctl (0x020 + 2 * n.toNat) (x.rg a), .wctl (0x021 + 2 * n.toNat) (x.rg b)] }

/-! ## System (R217, R221 to R224) -/

/-- A system instruction: its D field is zero (R217). -/
def system (c : Nat) (f : IFmt) (s : State) (i : Iss) : Res :=
  issue c f.stop s fun _ _ => if f.d ≠ 0 then Iss.bad .scalar 0 else i

/-- NOP. -/
def execNop (c : Nat) (f : IFmt) (s : State) : Res := system c f s {}
/-- TEND ends the task when its bundle commits (R221). -/
def execTend (c : Nat) (f : IFmt) (s : State) : Res := system c f s { flow := true, effs := [.tend] }
/-- FENCE waits until every posted store has completed or faulted (R221). -/
def execFence (c : Nat) (f : IFmt) (s : State) : Res := system c f s { effs := [.fence] }
/-- TRAP raises a precise exception with its code in EADDR (R223). -/
def execTrap (c : Nat) (f : IFmt) (s : State) : Res := system c f s { exc := some (0x06, 0, f.imm.toNat) }

/-- R224: the target of a posted store reports an error; it is raised at the next FENCE, TEND or full buffer. -/
def execPostedStoreError (c ea cause : Nat) (s : State) : Res :=
  onUnit c 576 (done (
    let x := s.core c
    match x.sbuf.find? fun p => decide (p.ea = ea) with
    | none => s
    | some p =>
      if x.running ∧ (cause = 0x07 ∨ cause = 0x08 ∨ cause = 0x09) ∧ x.sberr = none then
        s.setCore c { x with sberr := some (p, cause) }
      else s))

/-- Cycles of a core's watchdog: max(WD_MIN, WD_FACTOR × L(t)) (R133). -/
def watchdogCycles (s : State) (ref : TaskRef) : Nat :=
  match findRun s ref with
  | none => s.oval keyWdMin
  | some (j, _, _) => match (jobGraph s j).tasks[ref.task]? with
    | none => s.oval keyWdMin
    | some d => max (s.oval keyWdMin) (s.oval keyWdFactor * budgetL s j.desc.graph ref.task d)

/-- R133: the watchdog of a core's task expires. SLOT of its exception is 0: R223 does not say which it names (DESIGN CHOICE,
assumption 81). -/
def execWatchdogExpiry (c : Nat) (s : State) : Res :=
  onUnit c 576 (done (
    let x := s.core c
    match x.task with
    | none => lateFault s (.core c) 0x03 0 0 true none
    | some ref =>
      if watchdogCycles s ref ≤ coreCycles s c then
        takeExc s c { cause := 0x0A, sub := 0, slot := 0, eaddr := 0, epc := x.pc, imprecise := true }
      else s))

end Sys2Proof.Machine
end

