-- ==== Sys2Proof/Machine/Sched.lean ====
section
/-!
DEFINITION. The commands of the scheduler and the policy layer: admission, deadlines, overrun, learning, operating
points, thermal ceilings and the migration switch (R120 to R125, R131, R132, R136, R138, R140, R142 to R144).
-/
namespace Sys2Proof.Machine

/-- A timed job is within its cell's Horizon (R120). -/
def withinHorizon (s : State) (j : Job) : Bool :=
  decide (j.dl - s.time.now ≤ horizonOf s j.desc.cell * (s.cell j.desc.cell).slotNs)

/-- The best-effort test, and its admission (R124). -/
def admitBest (s : State) (j : Job) : State :=
  match bestEffortTest s j with
  | none => s.setJob j
  | some p =>
    let t := s.setJob { j with admission := .bestEffort, cluster := jobCluster s j }
    switchOpp (if j.demoted then t else t.bump keyAdmitBestEffort 1) (jobCluster s j) p

/-- R123, R124: admission of one job. -/
def admitJob (s : State) (j : Job) : State :=
  if j.desc.guaranteed && !j.demoted then
    match guaranteedTest s j with
    | some p =>
      let t := chargeSlot s j.desc.cell (slotOfDeadline (s.cell j.desc.cell) j.dl) (chargeOf s j)
      let t := t.setJob { j with admission := .guaranteed, charge := chargeOf s j, cluster := jobCluster s j }
      switchOpp (t.bump keyAdmitGuaranteed 1) (jobCluster s j) p
    | none =>
      let j := { j with demoted := true }
      let x := s.cellState j.desc.cell
      let t := ((s.setJob j).setCellSt j.desc.cell { x with demoted := x.demoted + 1 }).bump keyAdmitDemoted 1
      admitBest t j
  else admitBest s j

/-- A timed job waits for admission (R120, R125). -/
def awaitsAdmission (s : State) (j : Job) : Bool :=
  j.desc.timed && j.expanded && !j.final && decide (j.admission = .none) && withinHorizon s j

/-- The first instant at which a job is within its cell's Horizon (R120). -/
def entryTime (s : State) (j : Job) : Int := max j.acceptTime (j.dl - horizonOf s j.desc.cell * (s.cell j.desc.cell).slotNs)

/-- Of two jobs that admission has not tested, the one that enters first: by instant, then by d, then by acceptance
(R120). -/
def entersBefore (s : State) (a b : Job) : Bool :=
  let x := entryTime s a
  let y := entryTime s b
  decide (x < y) || (decide (x = y) && (decide (a.dl < b.dl) || (decide (a.dl = b.dl) && decide (a.order < b.order))))

/-- No other untested job enters admission before this one; a retry waits for none (R120, R125). -/
def itsTurn (s : State) (j : Job) : Bool :=
  j.tried || s.jobs.all fun i => i.tried || !awaitsAdmission s i || !entersBefore s i j

/-- R123: a timed job within its Horizon and not admitted is tested. -/
def execAdmission (q : Nat) (seq : BitVec 32) (s : State) : Res :=
  match s.job q seq with
  | none => done s
  | some j =>
    whenSt (s.awake && !s.schedStopped && awaitsAdmission s j && itsTurn s j) s (trackReady (admitJob s { j with tried := true }))

/-- R132: the deadline of a timed job arrives. -/
def execJobDeadline (q : Nat) (seq : BitVec 32) (s : State) : Res :=
  match s.job q seq with
  | none => done s
  | some j =>
    if !j.desc.timed || j.final || !j.expanded || decide ((s.time.now : Int) < j.dl) then done s
    else if !j.started then done (settleAll s (finalise s j stExpired))
    else if j.tasks.all (·.done) then done s
    else if (jobGraph s j).abort then done (settleAll s (finalise s j stOverrun))
    else done ((bankAll s).setJob { j with admission := .bestEffort })

/-- R131: a task of a guaranteed job has used more than its budget and margin; it runs on. -/
def execOverrunMark (t : TaskRef) (s : State) : Res :=
  match findRun s t with
  | none => done s
  | some (j, ti, r) =>
    match (jobGraph s j).tasks[t.task]? with
    | none => done s
    | some d =>
      let l := budgetL s j.desc.graph t.task d
      whenSt (decide (d.kind = 0) && decide (r.phase = 1) && j.isG
          && decide (l * (32768 + s.oval keyOverrunMargin) < runCycles s r * 32768))
        s ((setTask (bankAll s) { j with overrun := true } t.task
          { ti with runs := ti.runs.map fun x => { x with marked := true } }).bump keyOverrunMarks 1)

/-! ## Learning (R136) -/

/-- Upper edge of a bin (R134). -/
def binEdge (b : Nat) : Nat := (9 + b % 8) * 2 ^ (b / 8 + 5)

/-- The histogram after one decay. -/
def decayHist (shift : Nat) (h : List (Nat × Nat)) : List (Nat × Nat) := h.map fun x => (x.1, x.2 - x.2 / 2 ^ shift)

/-- The smallest bin above which at most so many samples lie. -/
def tailBin (h : List (Nat × Nat)) (allowed : Nat) : Nat :=
  ((List.range 128).find? fun q => decide (((h.filter fun x => decide (q < x.1)).map (·.2)).sum / 256 ≤ allowed)).getD 127

/-- One task's budget at the end of a LEARN_PERIOD (R136). -/
def learnTask (s : State) (b : Budget) : Budget :=
  let h := decayHist (s.oval keyDecayShift) b.hist
  let n := (h.map (·.2)).sum / 256
  if n < s.oval keyLearnMin then { b with hist := h, samples := n }
  else
    let e := binEdge (tailBin h (n * s.oval keyLearnTail / 1000000))
    let cand := e + e * s.oval keyLearnMargin / 32768
    { hist := h, samples := n, valid := true
      learned := if !b.valid || decide (b.learned ≤ cand) then cand else b.learned - (b.learned - cand) / 8 }

/-- R136: LEARN_PERIOD passes. -/
def execLearnPeriod (s : State) : Res :=
  whenSt (s.oflag keyLearnEnable && s.awake && s.sv.switching.isNone
      && decide (s.lastLearn + s.oval keyLearnPeriod * msNs ≤ s.time.now)) s
    { s with lastLearn := s.time.now
             budgets := s.budgets.map fun x =>
               if (s.graph (x.1 / 256)).isSome then (x.1, learnTask s x.2) else x }

/-! ## Operating points (R143) -/

/-- Every admitted guaranteed deadline on a cluster meets condition 2 of R123 at a point (R143). -/
def dvfsDemand (s : State) (k p : Nat) : Bool :=
  let js := s.jobs.filter fun j => j.isG && decide (0 < demandOn s j k)
  js.all fun j =>
    decide (((js.filter fun i => decide (i.dl ≤ j.dl)).map fun i => demandOn s i k).sum * 1000 * 32768
      ≤ s.oval keyUMax * capacityTo s k p j.dl)

/-- The load of a cluster fits a point: G_RATE and the cycles of ranks 2 to 4 against DVFS_TARGET (R143). -/
def dvfsLoad (s : State) (k p low period : Nat) : Bool :=
  let (n, d) := gRateFrac s k
  decide ((n * period + low * secNs * d) * 32768 ≤ s.oval keyDvfsTarget * usable s k * (oppMHz p * 1000000) * (d * period))

/-- The operating point of R143, or the ceiling under Overcast (R187). -/
def dvfsPoint (s : State) (k low period : Nat) : Nat :=
  if s.overcast.on && hasCell s k then ceilingOf s k
  else (([3, 2, 1, 0].filter fun p => decide (ceilingOf s k ≤ p)).find? fun p =>
    dvfsLoad s k p low period && dvfsDemand s k p).getD (ceilingOf s k)

/-- Cycles of ranks 2 to 4 on a cluster in the period that ends now. -/
def periodLow (s : State) (k : Nat) : Nat :=
  (bankLow s k |>.cluster k).lowRankCycles

/-- One cluster at the end of a DVFS_PERIOD. -/
def dvfsCluster (s : State) (k : Nat) : State :=
  if (s.cluster k).gated || !clusterUp s k then s
  else
    let low := periodLow s k
    let t := switchOpp s k (dvfsPoint s k low (max 1 (s.time.now - s.lastDvfs)))
    t.setCluster k { t.cluster k with lowRankCycles := 0 }

/-- Guaranteed engine time of the period that ends (R186). -/
def dvfsEngines (s : State) : State :=
  { s with engines := s.engines.map fun (n, x) =>
      let run := match x.entry with
        | some e => if e.rank = 0 then s.time.now - max x.startTime s.lastDvfs else 0
        | none => 0
      (n, { x with lastGTime := x.gTime + run, gTime := 0 }) }

/-- R143: DVFS_PERIOD passes: operating points and migration. -/
def execDvfsPeriod (s : State) : Res :=
  whenSt (s.awake && s.sv.switching.isNone && decide (s.lastDvfs + s.oval keyDvfsPeriod * usNs ≤ s.time.now)) s
    (let t := dvfsEngines ((List.range (nClusters s.part.variant)).foldl dvfsCluster s)
     reOvercast (evalMigration { t with lastDvfs := s.time.now }))

/-- The thermal ceiling at a temperature in 0.125 °C, given the ceiling in force (R144). -/
def thermalOf (limit temp : Int) (old : Nat) : Nat :=
  if limit + 24 < temp then 2
  else if old = 2 ∧ limit + 8 < temp then 2
  else if limit < temp then 1
  else if 1 ≤ old ∧ limit - 16 < temp then 1
  else 0

/-- R144: the temperature of a cluster island is taken, and its thermal ceiling follows; an absent cluster has none (R11). -/
def execThermalCeiling (k : Nat) (temp : Int) (s : State) : Res :=
  onUnit k 16 (whenSt (decide (k < nClusters s.part.variant)) s
    (let x := s.cluster k
     let ceil := thermalOf (s.ovalInt keyThermalOpp 16 * 8) temp x.thermal
     let hot := if s.ovalInt keyThermalMigrate 16 * 8 < temp then some (x.hotSince.getD s.time.now) else none
     let t := s.setCluster k { x with temp, thermal := ceil, hotSince := hot }
     let t := if schedOpp t k < ceilingOf t k then switchOpp t k (ceilingOf t k) else t
     settle s t))

/-- R138: a cluster island has stayed above THERMAL_MIGRATE for 100 ms. -/
def execThermalMigrate (k : Nat) (s : State) : Res :=
  onUnit k 16 (whenSt (tooHot s k && s.awake && s.sv.switching.isNone) s (thermalOne s k))

/-- R140: the first slot boundary of a migrating cell after its target is awake; capacity migration does not wait for the
boundary. -/
def execMigrationSwitch (cell : Nat) (s : State) : Res :=
  onUnit cell 4095
    (match (s.cellState cell).migration with
    | none => done s
    | some m =>
      whenSt (!m.switched && !(s.cluster m.target).gated && clusterUp s m.target
          && (decide (m.reason = 3) ||
            (s.sv.switching.isNone && decide (nextSlotBoundary (s.cell cell) m.startTime ≤ s.time.now)))) s
        (settle s (switchCell s cell)))

/-- R142: the rail is ready and the clock of the cluster is switched. -/
def execOppSwitchDone (k : Nat) (s : State) : Res :=
  onUnit k 16
    (match (s.cluster k).oppPending with
    | none => done s
    | some p => done (setClock s k p))

end Sys2Proof.Machine
end

