-- ==== Sys2Proof/Machine/Vector.lean ====
section
/-!
DEFINITION. The short and long vector instructions (R226 to R256).
-/
namespace Sys2Proof.Machine

/-! ## Checks at decode (R251 to R256) -/

/-- Types an operation permits (R251). -/
inductive TyOk where
  | all | int | cplx | narrowInt | c16 | narrow | intC16
  deriving DecidableEq, Repr

/-- The type of VTYPE is permitted (R251). -/
def TyOk.allows (k : TyOk) (t : VTy) : Bool :=
  match k with
  | .all => true
  | .int => !t.cplx
  | .cplx => t.cplx
  | .narrowInt => !t.cplx && decide (t.e ≤ 16)
  | .c16 => t.cplx && decide (t.w = 16)
  | .narrow => decide (t.w ≤ 16)
  | .intC16 => !t.cplx || decide (t.w = 16)

/-- A register field names an operand of the given width: aligned to its group, which is at most 8 (R228, R251). -/
def opOk (x : Core) (u wide : Bool) (r : BitVec 5) : Bool :=
  let n := regsOf u x.grp wide
  decide (n ≤ 8) && regOk u r.toNat n

/-- A predicate is named in bits [2:0] with bits [4:3] zero (R250). -/
def predOk (r : BitVec 5) : Bool := decide (r.toNat < 8)

/-- Issue a vector instruction whose type and register fields are checked (R251). -/
def vissue (c : Nat) (f : VFmt) (s : State) (k : TyOk) (regs : List (BitVec 5 × Bool)) (mk : Core → Nat → Iss) : Res :=
  issue c f.stop s fun x a =>
    if !k.allows x.ty || !(regs.all fun r => opOk x f.u r.2 r.1) then Iss.bad .vec 0 else mk x a

/-- Effects that write a vector destination of n registers, and the clip mark. -/
def toV (u : Bool) (d : BitVec 5) (n : Nat) (r : Nat × Bool) : List Eff :=
  (if u then [.ww d n r.1]
   else (List.range n).map fun i => .wh (d + BitVec.ofNat 5 i) (BitVec.ofNat 128 (r.1 / 2 ^ (128 * i))))
  ++ (if r.2 then [.vsat] else [])

/-- The new destination: each active element replaced, the others undisturbed (R231, R232). -/
def vmap (x : Core) (u pm : Bool) (k : BitVec 3) (e old : Nat) (f : Nat → Nat × Bool) : Nat × Bool :=
  (List.range (x.span' u)).foldl (fun acc i =>
    if x.active u pm k i then
      let r := f i
      (elemSet e acc.1 i r.1, acc.2 || r.2)
    else acc) (old, false)

/-- Write the destination of an instruction element by element. -/
def vout (x : Core) (f : VFmt) (wide : Bool) (e : Nat) (g : Nat → Nat → Nat × Bool) : Iss :=
  let n := regsOf f.u x.grp wide
  let old := x.vop f.u f.d.toNat n
  { cls := .vec, effs := toV f.u f.d n (vmap x f.u f.pm f.k e old fun i => g (elemAt e old i) i) }

/-- Element i of a vector register operand. -/
def vel (x : Core) (u wide : Bool) (r : BitVec 5) (i : Nat) : Nat :=
  elemAt (if wide then 2 * x.ty.e else x.ty.e) (x.vop u r.toNat (regsOf u x.grp wide)) i

/-! ## Element functions (R237, R238) -/

/-- An operation on each part of an element. -/
def byParts (g : Nat → Nat → Nat → Nat × Bool) (t : VTy) (a b : Nat) : Nat × Bool :=
  let r := List.zipWith (g t.w) (partsOf t a) (partsOf t b)
  (ofParts t (r.map (·.1)), r.any (·.2))

/-- Two exact parts formed into an element. -/
def fitPair (sat : Bool) (w : Nat) (p : Int × Int) : Nat × Bool :=
  let a := fit sat w p.1
  let b := fit sat w p.2
  (a.1 % 2 ^ w + b.1 % 2 ^ w * 2 ^ w, a.2 || b.2)

/-- An operation on complex elements. -/
def byCplx (sat : Bool) (g : Nat → Int × Int → Int × Int → Int × Int) (t : VTy) (a b : Nat) : Nat × Bool :=
  fitPair sat t.w (g t.w (cplxOf t a) (cplxOf t b))

/-! ## Majors 0x18 and 0x19 (R252) -/

/-- The scalar operand of major 0x19 (R252). -/
def scalarOp (x : Core) (r : BitVec 5) : Nat :=
  if x.ty.e = 64 then (x.rg r).toNat + (x.rg (pairOf r)).toNat * 2 ^ 32 else (x.rg r).toNat % 2 ^ x.ty.e

/-- The pair operand of c32 in major 0x19 must be even (R251). -/
def pairBad (x : Core) (scalar : Bool) (r : BitVec 5) : Bool := scalar && decide (x.ty.e = 64) && oddReg r

/-- A binary operation of major 0x18 or 0x19. -/
def vbin (c : Nat) (sc : Bool) (f : VFmt) (s : State) (k : TyOk) (op : VTy → Nat → Nat → Nat × Bool) : Res :=
  vissue c f s k ((f.d, false) :: (f.a, false) :: (if sc then [] else [(f.b, false)])) fun x _ =>
    if pairBad x sc f.b then Iss.bad .vec 4
    else vout x f false x.ty.e fun _ i =>
      op x.ty (vel x f.u false f.a i) (if sc then scalarOp x f.b else vel x f.u false f.b i)

/-- A unary operation: B must be zero (R252). -/
def vun (c : Nat) (f : VFmt) (s : State) (k : TyOk) (op : VTy → Nat → Nat → Nat × Bool) : Res :=
  vissue c f s k [(f.d, false), (f.a, false)] fun x _ =>
    if f.b ≠ 0 then Iss.bad .vec 0 else vout x f false x.ty.e fun _ i => op x.ty (vel x f.u false f.a i) 0

/-- A shift: by the low 6 bits of each part of vB, or by gB[5:0] (R252). -/
def vshift (c : Nat) (sc : Bool) (f : VFmt) (s : State) (op : Nat → Nat → Nat → Nat × Bool) : Res :=
  vissue c f s .all ((f.d, false) :: (f.a, false) :: (if sc then [] else [(f.b, false)])) fun x _ =>
    vout x f false x.ty.e fun _ i =>
      let a := vel x f.u false f.a i
      if sc then byParts (fun w a _ => op w a ((x.rg f.b).toNat % 64)) x.ty a 0
      else byParts (fun w a b => op w a (b % 64)) x.ty a (vel x f.u false f.b i)

/-- VMOV and VSPLAT (R252). -/
def vmove (c : Nat) (sc : Bool) (f : VFmt) (s : State) : Res :=
  vissue c f s .all ((f.d, false) :: (if sc then [] else [(f.b, false)])) fun x _ =>
    if pairBad x sc f.b then Iss.bad .vec 4
    else vout x f false x.ty.e fun _ i => (if sc then scalarOp x f.b else vel x f.u false f.b i, false)

/-! ## Major 0x1A (R253) -/

/-- An accumulating operation: vD is the third operand. -/
def vacc (c : Nat) (f : VFmt) (s : State) (k : TyOk) (op : VTy → Nat → Nat → Nat → Nat × Bool) : Res :=
  vissue c f s k [(f.d, false), (f.a, false), (f.b, false)] fun x _ =>
    vout x f false x.ty.e fun d i => op x.ty d (vel x f.u false f.a i) (vel x f.u false f.b i)

/-- An accumulating operation on integer elements. -/
def accParts (g : Nat → Int → Int → Int → Nat × Bool) (t : VTy) (d a b : Nat) : Nat × Bool :=
  g t.w (sgn t.w d) (sgn t.w a) (sgn t.w b)

/-- A sum whose product and sum saturate. -/
def satSum (w : Nat) (d p : Int) : Nat × Bool :=
  let q := clipTo w p
  let r := clipTo w (d + sgn w q.1)
  (r.1, q.2 || r.2)

/-- A complex accumulation. -/
def accCplx (sat conj : Bool) (t : VTy) (d a b : Nat) : Nat × Bool :=
  let p := cmulQ t.w conj (cplxOf t a) (cplxOf t b)
  let z := cplxOf t d
  if sat then
    let re := satSum t.w z.1 p.1
    let im := satSum t.w z.2 p.2
    (re.1 % 2 ^ t.w + im.1 % 2 ^ t.w * 2 ^ t.w, re.2 || im.2)
  else fitPair false t.w (z.1 + p.1, z.2 + p.2)

/-- A widening operation: vD has the wide type. -/
def vwide (c : Nat) (f : VFmt) (s : State) (k : TyOk) (op : VTy → Nat → Nat → Nat → Nat × Bool) : Res :=
  vissue c f s k [(f.d, true), (f.a, false), (f.b, false)] fun x _ =>
    vout x f true (2 * x.ty.e) fun d i => op x.ty d (vel x f.u false f.a i) (vel x f.u false f.b i)

/-- A widening operation on integer elements, wrapping at the wide width. -/
def widePart (g : Int → Int → Int → Int) (t : VTy) (d a b : Nat) : Nat × Bool :=
  fit false (2 * t.w) (g (sgn (2 * t.w) d) (sgn t.w a) (sgn t.w b))

/-- The wide complex accumulation. -/
def wideCplx (conj : Bool) (t : VTy) (d a b : Nat) : Nat × Bool :=
  let p := cmulExact conj (cplxOf t a) (cplxOf t b)
  let z := cplxOf t.wide d
  fitPair false (2 * t.w) (z.1 + p.1, z.2 + p.2)

/-- VWIDEN. -/
def vwidenOp (c : Nat) (f : VFmt) (s : State) : Res :=
  vissue c f s .narrow [(f.d, true), (f.a, false)] fun x _ =>
    vout x f true (2 * x.ty.e) fun _ i =>
      (ofParts x.ty.wide ((partsOf x.ty (vel x f.u false f.a i)).map fun p => unsgn (2 * x.ty.w) (sgn x.ty.w p)), false)

/-- VNSRA and VNSRAS. -/
def vnarrow (c : Nat) (f : VFmt) (s : State) (sat : Bool) : Res :=
  vissue c f s .narrow [(f.d, false), (f.a, true)] fun x _ =>
    vout x f false x.ty.e fun _ i =>
      let r := (partsOf x.ty.wide (vel x f.u true f.a i)).map fun p =>
        fit sat x.ty.w (floorShift (sgn (2 * x.ty.w) p) ((x.rg f.b).toNat % 64))
      (ofParts x.ty (r.map (·.1)), r.any (·.2))

/-! ## Major 0x1C (R239, R255) -/

/-- A predicate with the bits of a range replaced. -/
def kmap (old : BitVec 1024) (n : Nat) (f : Nat → Option Bool) : BitVec 1024 :=
  BitVec.ofNat 1024 ((List.range n).foldl (fun acc i =>
    match f i with
    | some b => elemSet 1 acc i (b2n b)
    | none => acc) old.toNat)

/-- A compare: bit i of kD for each active element (R236). -/
def vcmp (c : Nat) (f : VFmt) (s : State) (k : TyOk) (op : VTy → Nat → Nat → Bool) : Res :=
  vissue c f s k [(f.a, false), (f.b, false)] fun x _ =>
    if !predOk f.d then Iss.bad .vec 0
    else
      { cls := .vec
        effs := [.wk (f.d.setWidth 3) (kmap (x.kr f.d.toNat) (x.span' f.u) fun i =>
          if x.active f.u f.pm f.k i then some (op x.ty (vel x f.u false f.a i) (vel x f.u false f.b i)) else none)] }

/-- Predicate logic of two operands: never predicated, below the bound (R236, R251). -/
def klogic (c : Nat) (f : VFmt) (s : State) (op : Bool → Bool → Bool) : Res :=
  issue c f.stop s fun x _ =>
    if f.pm || !predOk f.d || !predOk f.a || !predOk f.b then Iss.bad .vec 0
    else
      { cls := .vec
        effs := [.wk (f.d.setWidth 3) (kmap (x.kr f.d.toNat) (x.span' f.u) fun i =>
          some (op ((x.kr f.a.toNat).getLsbD i) ((x.kr f.b.toNat).getLsbD i)))] }

/-- Predicate logic of one operand or none. -/
def klogic1 (c : Nat) (f : VFmt) (s : State) (a : BitVec 5) (op : Bool → Bool) : Res :=
  issue c f.stop s fun x _ =>
    if f.pm || !predOk f.d || !predOk a then Iss.bad .vec 0
    else
      { cls := .vec
        effs := [.wk (f.d.setWidth 3) (kmap (x.kr f.d.toNat) (x.span' f.u) fun i =>
          some (op ((x.kr a.toNat).getLsbD i)))] }

/-- Active elements in increasing index. -/
def activeIx (x : Core) (f : VFmt) : List Nat := (List.range (x.span' f.u)).filter fun i => x.active f.u f.pm f.k i

/-- A synchronising instruction's result in gD (R248, R255). -/
def toGSync (d : BitVec 5) (v : BitVec 32) : Iss :=
  { cls := .vec, writes := [.g d.toNat], effs := [.wg d v, .vsync] }

/-- An index reduction: the extreme over the active elements and its lowest index, or the identity and 0xFFFF_FFFF
(R239, R255). -/
def vredIx (c : Nat) (f : VFmt) (s : State) (signed : Bool) (ident : Nat → Int) (beyond : Int → Int → Bool) : Res :=
  vissue c f s .int [(f.b, false)] fun x _ =>
    if oddReg f.d then Iss.bad .vec 4
    else
      let val (i : Nat) : Int := if signed then sgn x.ty.e (vel x f.u false f.b i) else (vel x f.u false f.b i : Int)
      let r := (activeIx x f).foldl (fun (acc : Option (Int × Nat)) i => match acc with
        | none => some (val i, i)
        | some (v, j) => if beyond (val i) v then some (val i, i) else some (v, j)) none
      let p := match r with
        | some (v, i) => (BitVec.ofInt 32 v, BitVec.ofNat 32 i)
        | none => (BitVec.ofInt 32 (ident x.ty.e), 0xFFFFFFFF)
      { cls := .vec, writes := [.g f.d.toNat, .g (pairOf f.d).toNat]
        effs := [.wg f.d p.1, .wg (pairOf f.d) p.2, .vsync] }

/-- VBEXP: the least rsb over the parts of the active elements, w − 1 with none (R239). -/
def execVbexp (c : Nat) (f : VFmt) (s : State) : Res :=
  vissue c f s .all [(f.b, false)] fun x _ =>
    toGSync f.d (BitVec.ofNat 32 ((activeIx x f).foldl (fun m i =>
      ((partsOf x.ty (vel x f.u false f.b i)).map (rsb x.ty.w)).foldl min m) (x.ty.w - 1)))

/-- VREDSUM: the sum of the sign-extended active elements, wrapping at 32 bits (R255). -/
def execVredsum (c : Nat) (f : VFmt) (s : State) : Res :=
  vissue c f s .int [(f.b, false)] fun x _ =>
    toGSync f.d (BitVec.ofInt 32 ((activeIx x f).foldl (fun a i => a + sgn x.ty.e (vel x f.u false f.b i)) 0))

/-- VMVG: element gA of vB sign-extended, 0 when gA is not below the bound (R255). -/
def execVmvg (c : Nat) (f : VFmt) (s : State) : Res :=
  vissue c f s .intC16 [(f.b, false)] fun x _ =>
    let i := (x.rg f.a).toNat
    toGSync f.d (if i < x.span' f.u then BitVec.ofInt 32 (sgn x.ty.e (vel x f.u false f.b i)) else 0)

/-- VMVV: element gA of vD := gB[e−1:0]; no effect when gA is not below the bound (R255). -/
def execVmvv (c : Nat) (f : VFmt) (s : State) : Res :=
  vissue c f s .intC16 [(f.d, false)] fun x _ =>
    vout x f false x.ty.e fun d i => (if i = (x.rg f.a).toNat then (x.rg f.b).toNat % 2 ^ x.ty.e else d, false)

/-- KPOPC: set bits of kA in the range (R255). -/
def execKpopc (c : Nat) (f : VFmt) (s : State) : Res :=
  issue c f.stop s fun x _ =>
    if !predOk f.a then Iss.bad .vec 0
    else toGSync f.d (BitVec.ofNat 32 (((List.range (x.span' f.u)).filter fun i => (x.kr f.a.toNat).getLsbD i).length))

/-- KFIRST: lowest set bit of kA in the range, or 0xFFFF_FFFF (R255). -/
def execKfirst (c : Nat) (f : VFmt) (s : State) : Res :=
  issue c f.stop s fun x _ =>
    if !predOk f.a then Iss.bad .vec 0
    else toGSync f.d (match (List.range (x.span' f.u)).find? fun i => (x.kr f.a.toNat).getLsbD i with
      | some i => BitVec.ofNat 32 i
      | none => 0xFFFFFFFF)

/-- VIOTA: element i of vD := i, in both parts of a complex element (R255). -/
def execViota (c : Nat) (f : VFmt) (s : State) : Res :=
  vissue c f s .all [(f.d, false)] fun x _ =>
    vout x f false x.ty.e fun _ i => (ofParts x.ty [i, i], false)

/-! ## Control (R230, R248, R256) -/

/-- SPANSET: VTYPE, and SPAN and gD := min(gA, VLMAX) (R230). -/
def execSpanset (c : Nat) (stop : Bool) (d a : BitVec 5) (etype : BitVec 3) (grp : BitVec 2) (res : BitVec 5) (s : State) : Res :=
  issue c stop s fun x _ =>
    match tyOf etype.toNat with
    | none => Iss.bad .vec 0
    | some t =>
      if res ≠ 0 then Iss.bad .vec 0
      else
        let n := min (x.rg a).toNat (vlMax t.e (2 ^ grp.toNat))
        { cls := .vec, writes := [.g d.toNat], effs := [.wg d (BitVec.ofNat 32 n), .spanset (grp ++ etype) n] }

/-- A control operation: U, PM and K zero, and the fields it does not name zero (R256). -/
def vctl (c : Nat) (f : VFmt) (s : State) (unused : List (BitVec 5)) (mk : Core → Iss) : Res :=
  issue c f.stop s fun x _ =>
    if f.u || f.pm || decide (f.k ≠ 0) || unused.any (fun r => decide (r ≠ 0)) then Iss.bad .vec 0 else mk x

/-- VSYNC waits until the vector queue has drained (R248). -/
def execVsync (c : Nat) (f : VFmt) (s : State) : Res :=
  vctl c f s [f.d, f.a, f.b] fun _ => { cls := .vec, effs := [.vsync] }

/-- VMOVHW: wD[127:0] := hB (R256). -/
def execVmovhw (c : Nat) (f : VFmt) (s : State) : Res :=
  vctl c f s [f.a] fun x =>
    { cls := .vec
      effs := [.ww f.d 1 (elemSet 128 (x.vop true f.d.toNat 1) 0 (x.vop false f.b.toNat 1))] }

/-- VMOVWH: hD := wB[127:0] (R256). -/
def execVmovwh (c : Nat) (f : VFmt) (s : State) : Res :=
  vctl c f s [f.a] fun x => { cls := .vec, effs := [.wh f.d (BitVec.ofNat 128 (x.vop true f.b.toNat 1))] }

/-! ## Memory (R241, R242, R254) -/

/-- A vector memory instruction: its element addresses are formed at issue from the general registers (R241, R244). -/
def vmem (c : Nat) (f : VMFmt) (s : State) (store first : Bool) (index : Bool) (addr : Core → Nat → Int) : Res :=
  issue c f.stop s fun x a =>
    if f.low ≠ 0 ∨ (first && !f.u) = true ∨ opOk x f.u false f.d = false ∨ (index && !opOk x f.u false f.b) = true then
      Iss.bad .vec 0
    else
      { cls := .vec
        effs := [.vmem {
          store, first, wide := f.u, reg := f.d.toNat, ebytes := x.ty.e / 8, grp := regsOf f.u x.grp false, pc := a, made := x.commits + 1
          elems := (List.range (x.span' f.u)).map fun i => (addr x i, x.active f.u f.pm f.k i) }] }

/-- Unit stride (R241). -/
def unitAddr (f : VMFmt) (x : Core) (i : Nat) : Int := (x.rg f.a).toNat + i * (x.ty.e / 8)
/-- A signed byte stride in gB (R241). -/
def strideAddr (f : VMFmt) (x : Core) (i : Nat) : Int := (x.rg f.a).toNat + (i : Int) * (x.rg f.b).toInt
/-- Element i of the index operand vB, unsigned (R241). -/
def indexAddr (f : VMFmt) (x : Core) (i : Nat) : Int :=
  (x.rg f.a).toNat + vel x f.u false f.b i * (x.ty.e / 8)

/-- VLD. -/
def execVld (c : Nat) (f : VMFmt) (s : State) : Res := vmem c f s false false false (unitAddr f)
/-- VST. -/
def execVst (c : Nat) (f : VMFmt) (s : State) : Res := vmem c f s true false false (unitAddr f)
/-- VLDS. -/
def execVlds (c : Nat) (f : VMFmt) (s : State) : Res := vmem c f s false false false (strideAddr f)
/-- VSTS. -/
def execVsts (c : Nat) (f : VMFmt) (s : State) : Res := vmem c f s true false false (strideAddr f)
/-- VGATH. -/
def execVgath (c : Nat) (f : VMFmt) (s : State) : Res := vmem c f s false false true (indexAddr f)
/-- VSCAT. -/
def execVscat (c : Nat) (f : VMFmt) (s : State) : Res := vmem c f s true false true (indexAddr f)
/-- VGATHF: only for Bruop-W (R242). -/
def execVgathf (c : Nat) (f : VMFmt) (s : State) : Res := vmem c f s false true true (indexAddr f)

/-- R246: a recorded vector fault is delivered to the first bundle that reaches WB. -/
def execVectorFaultDelivery (c : Nat) (s : State) : Res :=
  onUnit c 576 (done (if (s.core c).running && (s.core c).vfault then deliverFault s c else s))

/-! ## Elementwise operations, majors 0x18 to 0x1C -/

/-- a + b (R252). -/
def execVadd (c : Nat) (sc : Bool) (f : VFmt) (s : State) : Res := vbin c sc f s .all (byParts fun w a b => fit false w (sgn w a + sgn w b))
/-- a − b (R252). -/
def execVsub (c : Nat) (sc : Bool) (f : VFmt) (s : State) : Res := vbin c sc f s .all (byParts fun w a b => fit false w (sgn w a - sgn w b))
/-- The saturating sum (R252). -/
def execVadds (c : Nat) (sc : Bool) (f : VFmt) (s : State) : Res := vbin c sc f s .all (byParts fun w a b => fit true w (sgn w a + sgn w b))
/-- The saturating difference (R252). -/
def execVsubs (c : Nat) (sc : Bool) (f : VFmt) (s : State) : Res := vbin c sc f s .all (byParts fun w a b => fit true w (sgn w a - sgn w b))
/-- Bitwise AND (R252). -/
def execVand (c : Nat) (sc : Bool) (f : VFmt) (s : State) : Res := vbin c sc f s .all (byParts fun _ a b => (a &&& b, false))
/-- Bitwise OR (R252). -/
def execVor (c : Nat) (sc : Bool) (f : VFmt) (s : State) : Res := vbin c sc f s .all (byParts fun _ a b => (a ||| b, false))
/-- Bitwise XOR (R252). -/
def execVxor (c : Nat) (sc : Bool) (f : VFmt) (s : State) : Res := vbin c sc f s .all (byParts fun _ a b => (a ^^^ b, false))
/-- a AND NOT b (R252). -/
def execVandn (c : Nat) (sc : Bool) (f : VFmt) (s : State) : Res := vbin c sc f s .all (byParts fun w a b => (a &&& (2 ^ w - 1 - b), false))
/-- Shift left; w or more gives 0 (R252). -/
def execVsll (c : Nat) (sc : Bool) (f : VFmt) (s : State) : Res := vshift c sc f s fun w a n => fit false w ((a * 2 ^ n : Nat) : Int)
/-- Logical shift right; w or more gives 0 (R252). -/
def execVsrl (c : Nat) (sc : Bool) (f : VFmt) (s : State) : Res := vshift c sc f s fun _ a n => (a / 2 ^ n, false)
/-- Arithmetic shift right with floor; w or more gives a sign fill (R252). -/
def execVsra (c : Nat) (sc : Bool) (f : VFmt) (s : State) : Res := vshift c sc f s fun w a n => fit false w (floorShift (sgn w a) n)
/-- Saturating left shift; w or more clips any non-zero part (R252). -/
def execVslls (c : Nat) (sc : Bool) (f : VFmt) (s : State) : Res := vshift c sc f s fun w a n => fit true w (sgn w a * (2 ^ n : Nat))
/-- Signed minimum (R252). -/
def execVmin (c : Nat) (sc : Bool) (f : VFmt) (s : State) : Res := vbin c sc f s .int (byParts fun w a b => (if sgn w b < sgn w a then b else a, false))
/-- Signed maximum (R252). -/
def execVmax (c : Nat) (sc : Bool) (f : VFmt) (s : State) : Res := vbin c sc f s .int (byParts fun w a b => (if sgn w a < sgn w b then b else a, false))
/-- Unsigned minimum (R252). -/
def execVminu (c : Nat) (sc : Bool) (f : VFmt) (s : State) : Res := vbin c sc f s .int (byParts fun _ a b => (min a b, false))
/-- Unsigned maximum (R252). -/
def execVmaxu (c : Nat) (sc : Bool) (f : VFmt) (s : State) : Res := vbin c sc f s .int (byParts fun _ a b => (max a b, false))
/-- Wrapping absolute value (R252). -/
def execVabs (c : Nat) (_sc : Bool) (f : VFmt) (s : State) : Res := vun c f s .int (byParts fun w a _ => fit false w ((sgn w a).natAbs : Int))
/-- Saturating absolute value (R252). -/
def execVabss (c : Nat) (_sc : Bool) (f : VFmt) (s : State) : Res := vun c f s .int (byParts fun w a _ => fit true w ((sgn w a).natAbs : Int))
/-- Wrapping negation (R252). -/
def execVneg (c : Nat) (_sc : Bool) (f : VFmt) (s : State) : Res := vun c f s .all (byParts fun w a _ => fit false w (-sgn w a))
/-- Saturating negation (R252). -/
def execVnegs (c : Nat) (_sc : Bool) (f : VFmt) (s : State) : Res := vun c f s .all (byParts fun w a _ => fit true w (-sgn w a))
/-- Low e bits of the product (R252). -/
def execVmul (c : Nat) (sc : Bool) (f : VFmt) (s : State) : Res := vbin c sc f s .int (byParts fun w a b => fit false w (sgn w a * sgn w b))
/-- High bits of the signed product (R252). -/
def execVmulh (c : Nat) (sc : Bool) (f : VFmt) (s : State) : Res := vbin c sc f s .int (byParts fun w a b => fit false w (floorShift (sgn w a * sgn w b) w))
/-- The wrapping fixed-point product (R238). -/
def execVmulq (c : Nat) (sc : Bool) (f : VFmt) (s : State) : Res := vbin c sc f s .int (byParts fun w a b => fit false w (mulQ w (sgn w a) (sgn w b)))
/-- The saturating fixed-point product (R238). -/
def execVmulqs (c : Nat) (sc : Bool) (f : VFmt) (s : State) : Res := vbin c sc f s .int (byParts fun w a b => fit true w (mulQ w (sgn w a) (sgn w b)))
/-- The wrapping complex product (R238). -/
def execVcmul (c : Nat) (sc : Bool) (f : VFmt) (s : State) : Res := vbin c sc f s .cplx (byCplx false fun w a b => cmulQ w false a b)
/-- The saturating complex product (R238). -/
def execVcmuls (c : Nat) (sc : Bool) (f : VFmt) (s : State) : Res := vbin c sc f s .cplx (byCplx true fun w a b => cmulQ w false a b)
/-- a × conj(b), wrapping (R238). -/
def execVcmulj (c : Nat) (sc : Bool) (f : VFmt) (s : State) : Res := vbin c sc f s .cplx (byCplx false fun w a b => cmulQ w true a b)
/-- a × conj(b), saturating (R238). -/
def execVcmuljs (c : Nat) (sc : Bool) (f : VFmt) (s : State) : Res := vbin c sc f s .cplx (byCplx true fun w a b => cmulQ w true a b)
/-- (re, −im), wrapping (R252). -/
def execVconj (c : Nat) (_sc : Bool) (f : VFmt) (s : State) : Res := vun c f s .cplx (byCplx false fun _ a _ => (a.1, -a.2))
/-- (−im, re), wrapping (R252). -/
def execVmulj (c : Nat) (_sc : Bool) (f : VFmt) (s : State) : Res := vun c f s .cplx (byCplx false fun _ a _ => (-a.2, a.1))
/-- vD := vB (R252). -/
def execVmov (c : Nat) (f : VFmt) (s : State) : Res := vmove c false f s
/-- vD := gB in every element (R252). -/
def execVsplat (c : Nat) (f : VFmt) (s : State) : Res := vmove c true f s
/-- vD + low e bits of vA × vB (R253). -/
def execVmac (c : Nat) (f : VFmt) (s : State) : Res := vacc c f s .int (accParts fun w d a b => fit false w (d + a * b))
/-- vD − low e bits of vA × vB (R253). -/
def execVmsu (c : Nat) (f : VFmt) (s : State) : Res := vacc c f s .int (accParts fun w d a b => fit false w (d - a * b))
/-- vD + the fixed-point product, wrapping (R253). -/
def execVmacq (c : Nat) (f : VFmt) (s : State) : Res := vacc c f s .int (accParts fun w d a b => fit false w (d + mulQ w a b))
/-- Product and sum saturating (R253). -/
def execVmacqs (c : Nat) (f : VFmt) (s : State) : Res := vacc c f s .int (accParts fun w d a b => satSum w d (mulQ w a b))
/-- vD + the complex product, wrapping (R253). -/
def execVcmac (c : Nat) (f : VFmt) (s : State) : Res := vacc c f s .cplx (accCplx false false)
/-- vD + the complex product, saturating (R253). -/
def execVcmacs (c : Nat) (f : VFmt) (s : State) : Res := vacc c f s .cplx (accCplx true false)
/-- vD + vA × conj(vB), wrapping (R253). -/
def execVcmacj (c : Nat) (f : VFmt) (s : State) : Res := vacc c f s .cplx (accCplx false true)
/-- vD + vA × conj(vB), saturating (R253). -/
def execVcmacjs (c : Nat) (f : VFmt) (s : State) : Res := vacc c f s .cplx (accCplx true true)
/-- Wide vD := exact vA × vB (R253). -/
def execVwmul (c : Nat) (f : VFmt) (s : State) : Res := vwide c f s .narrowInt (widePart fun _ a b => a * b)
/-- Wide vD + exact vA × vB, wrapping (R253). -/
def execVwmac (c : Nat) (f : VFmt) (s : State) : Res := vwide c f s .narrowInt (widePart fun d a b => d + a * b)
/-- Wide vD + exact complex product, wrapping (R253). -/
def execVwcmac (c : Nat) (f : VFmt) (s : State) : Res := vwide c f s .c16 (wideCplx false)
/-- Wide vD + exact vA × conj(vB), wrapping (R253). -/
def execVwcmacj (c : Nat) (f : VFmt) (s : State) : Res := vwide c f s .c16 (wideCplx true)
/-- Wide vD := sign extension of vA (R253). -/
def execVwiden (c : Nat) (f : VFmt) (s : State) : Res := vwidenOp c f s
/-- vD := wide vA >> gB[5:0], wrapping (R253). -/
def execVnsra (c : Nat) (f : VFmt) (s : State) : Res := vnarrow c f s false
/-- vD := wide vA >> gB[5:0], saturating (R253). -/
def execVnsras (c : Nat) (f : VFmt) (s : State) : Res := vnarrow c f s true
/-- Equal; for complex elements both parts (R255). -/
def execVcmpeq (c : Nat) (f : VFmt) (s : State) : Res := vcmp c f s .all fun _ a b => decide (a = b)
/-- Not equal (R255). -/
def execVcmpne (c : Nat) (f : VFmt) (s : State) : Res := vcmp c f s .all fun _ a b => decide (a ≠ b)
/-- Signed less-than (R255). -/
def execVcmplt (c : Nat) (f : VFmt) (s : State) : Res := vcmp c f s .int fun t a b => decide (sgn t.e a < sgn t.e b)
/-- Signed less-or-equal (R255). -/
def execVcmple (c : Nat) (f : VFmt) (s : State) : Res := vcmp c f s .int fun t a b => decide (sgn t.e a ≤ sgn t.e b)
/-- Unsigned less-than (R255). -/
def execVcmpltu (c : Nat) (f : VFmt) (s : State) : Res := vcmp c f s .int fun _ a b => decide (a < b)
/-- Unsigned less-or-equal (R255). -/
def execVcmpleu (c : Nat) (f : VFmt) (s : State) : Res := vcmp c f s .int fun _ a b => decide (a ≤ b)
/-- kA AND kB (R255). -/
def execKand (c : Nat) (f : VFmt) (s : State) : Res := klogic c f s fun a b => a && b
/-- kA OR kB (R255). -/
def execKor (c : Nat) (f : VFmt) (s : State) : Res := klogic c f s fun a b => a || b
/-- kA XOR kB (R255). -/
def execKxor (c : Nat) (f : VFmt) (s : State) : Res := klogic c f s fun a b => a != b
/-- kA AND NOT kB (R255). -/
def execKandn (c : Nat) (f : VFmt) (s : State) : Res := klogic c f s fun a b => a && !b
/-- NOT kA (R255). -/
def execKnot (c : Nat) (f : VFmt) (s : State) : Res := klogic1 c f s f.a fun a => !a
/-- kD bits := 1 (R255). -/
def execKset (c : Nat) (f : VFmt) (s : State) : Res := klogic1 c f s 0 fun _ => true
/-- Signed maximum and its lowest index (R239). -/
def execVredmaxix (c : Nat) (f : VFmt) (s : State) : Res := vredIx c f s true (fun e => minS e) (fun a b => decide (b < a))
/-- Signed minimum and its lowest index (R239). -/
def execVredminix (c : Nat) (f : VFmt) (s : State) : Res := vredIx c f s true (fun e => maxS e) (fun a b => decide (a < b))
/-- Unsigned maximum and its lowest index (R239). -/
def execVredmaxux (c : Nat) (f : VFmt) (s : State) : Res := vredIx c f s false (fun _ => 0) (fun a b => decide (b < a))
/-- Unsigned minimum and its lowest index (R239). -/
def execVredminux (c : Nat) (f : VFmt) (s : State) : Res := vredIx c f s false (fun e => (2 ^ e : Nat) - 1) (fun a b => decide (a < b))
end Sys2Proof.Machine
end

