-- ==== Sys2Proof/Machine/Dispatch.lean ====
section
/-!
DEFINITION. The dispatch of commands: one arm per constructor of Instr, each a direct call of its meaning.
-/
namespace Sys2Proof.Machine

def exec (i : Instr) (s : State) : Host.Outcome State Fault Refusal :=
  match i with
  | .desc f => Sys2Proof.Machine.execDesc f s
  | .data f => Sys2Proof.Machine.execData f s
  | .ack f => Sys2Proof.Machine.execAck f s
  | .resend f => Sys2Proof.Machine.execResend f s
  | .mirror f => Sys2Proof.Machine.execMirror f s
  | .mirrorAck f => Sys2Proof.Machine.execMirrorAck f s
  | .pfcPauseRx port prio quanta => Sys2Proof.Machine.execPfcPauseRx port prio quanta s
  | .assemblyTimeout q seq => Sys2Proof.Machine.execAssemblyTimeout q seq s
  | .jobAccept q => Sys2Proof.Machine.execJobAccept q s
  | .mirrorTimeout => Sys2Proof.Machine.execMirrorTimeout s
  | .acceptCoalesceExpiry port => Sys2Proof.Machine.execAcceptCoalesceExpiry port s
  | .complCoalesceExpiry q => Sys2Proof.Machine.execComplCoalesceExpiry q s
  | .retxTimeout q => Sys2Proof.Machine.execRetxTimeout q s
  | .creditRefresh => Sys2Proof.Machine.execCreditRefresh s
  | .creditGrant => Sys2Proof.Machine.execCreditGrant s
  | .portDown fault => Sys2Proof.Machine.execPortDown fault s
  | .portUpHoldExpiry port => Sys2Proof.Machine.execPortUpHoldExpiry port s
  | .recordRelease q => Sys2Proof.Machine.execRecordRelease q s
  | .admission q seq => Sys2Proof.Machine.execAdmission q seq s
  | .taskDispatch t p => Sys2Proof.Machine.execTaskDispatch t p s
  | .taskReplay t p => Sys2Proof.Machine.execTaskReplay t p s
  | .jobDeadline q seq => Sys2Proof.Machine.execJobDeadline q seq s
  | .overrunMark t => Sys2Proof.Machine.execOverrunMark t s
  | .watchdogExpiry c => Sys2Proof.Machine.execWatchdogExpiry c s
  | .learnPeriod => Sys2Proof.Machine.execLearnPeriod s
  | .dvfsPeriod => Sys2Proof.Machine.execDvfsPeriod s
  | .thermalCeiling k temp => Sys2Proof.Machine.execThermalCeiling k temp s
  | .thermalMigrate k => Sys2Proof.Machine.execThermalMigrate k s
  | .migrationSwitch cell => Sys2Proof.Machine.execMigrationSwitch cell s
  | .gateIdleExpiry k => Sys2Proof.Machine.execGateIdleExpiry k s
  | .oppSwitchDone k => Sys2Proof.Machine.execOppSwitchDone k s
  | .islandLoss island => Sys2Proof.Machine.execIslandLoss island s
  | .islandRestored island passed => Sys2Proof.Machine.execIslandRestored island passed s
  | .strikeLapse region => Sys2Proof.Machine.execStrikeLapse region s
  | .overcastExit => Sys2Proof.Machine.execOvercastExit s
  | .supervisorSwitchover cause => Sys2Proof.Machine.execSupervisorSwitchover cause s
  | .supervisorPairRetested passed => Sys2Proof.Machine.execSupervisorPairRetested passed s
  | .standbyCopy => Sys2Proof.Machine.execStandbyCopy s
  | .fwUpdateCmd r => Sys2Proof.Machine.execFwUpdateCmd r s
  | .fwStandbyLoaded => Sys2Proof.Machine.execFwStandbyLoaded s
  | .fwUpdateDone => Sys2Proof.Machine.execFwUpdateDone s
  | .mirrorResend => Sys2Proof.Machine.execMirrorResend s
  | .mirrorKeepalive => Sys2Proof.Machine.execMirrorKeepalive s
  | .buddyFence => Sys2Proof.Machine.execBuddyFence s
  | .buddyDead source => Sys2Proof.Machine.execBuddyDead source s
  | .takeoverCmd r => Sys2Proof.Machine.execTakeoverCmd r s
  | .buddyRelease r => Sys2Proof.Machine.execBuddyRelease r s
  | .buddy r answer => Sys2Proof.Machine.execBuddy r answer s
  | .regionRestore r => Sys2Proof.Machine.execRegionRestore r s
  | .regionRestoreDone region passed => Sys2Proof.Machine.execRegionRestoreDone region passed s
  | .regionRetire r => Sys2Proof.Machine.execRegionRetire r s
  | .overcastMask r => Sys2Proof.Machine.execOvercastMask r s
  | .queueReset r => Sys2Proof.Machine.execQueueReset r s
  | .queueConfig r => Sys2Proof.Machine.execQueueConfig r s
  | .poolConfig r => Sys2Proof.Machine.execPoolConfig r s
  | .resultStoreConfig r => Sys2Proof.Machine.execResultStoreConfig r s
  | .cellConfig r => Sys2Proof.Machine.execCellConfig r s
  | .migrateCmd r => Sys2Proof.Machine.execMigrateCmd r s
  | .admitProbe r => Sys2Proof.Machine.execAdmitProbe r s
  | .kernelTable r => Sys2Proof.Machine.execKernelTable r s
  | .policyBound r => Sys2Proof.Machine.execPolicyBound r s
  | .objectWrite r => Sys2Proof.Machine.execObjectWrite r s
  | .cleipRead r => Sys2Proof.Machine.execCleipRead r s
  | .cleipReadBlock r => Sys2Proof.Machine.execCleipReadBlock r s
  | .cleipWriteBlock r => Sys2Proof.Machine.execCleipWriteBlock r s
  | .subscribeCancel r => Sys2Proof.Machine.execSubscribeCancel r s
  | .subscribeOnChange r => Sys2Proof.Machine.execSubscribeOnChange r s
  | .subscribeOnEvent r => Sys2Proof.Machine.execSubscribeOnEvent r s
  | .subscriptionInterval n => Sys2Proof.Machine.execSubscriptionInterval n s
  | .subLeaseLapse n => Sys2Proof.Machine.execSubLeaseLapse n s
  | .cleipBlockTimeout key => Sys2Proof.Machine.execCleipBlockTimeout key s
  | .cleipReplayHoldExpiry src tid => Sys2Proof.Machine.execCleipReplayHoldExpiry src tid s
  | .carrierIdWrite r => Sys2Proof.Machine.execCarrierIdWrite r s
  | .msWriteTransfer x flashOk => Sys2Proof.Machine.execMsWriteTransfer x flashOk s
  | .msReadTransfer x => Sys2Proof.Machine.execMsReadTransfer x s
  | .bypass => Sys2Proof.Machine.execBypass s
  | .idcode => Sys2Proof.Machine.execIdcode s
  | .samplePreload => Sys2Proof.Machine.execSamplePreload s
  | .extest => Sys2Proof.Machine.execExtest s
  | .cleip => Sys2Proof.Machine.execCleip s
  | .vendorDebug code => Sys2Proof.Machine.execVendorDebug code s
  | .fpAppendByte b => Sys2Proof.Machine.execFpAppendByte b s
  | .fpStop flashOk => Sys2Proof.Machine.execFpStop flashOk s
  | .fpFetchByte => Sys2Proof.Machine.execFpFetchByte s
  | .makerLockBlow r => Sys2Proof.Machine.execMakerLockBlow r s
  | .auditExported r => Sys2Proof.Machine.execAuditExported r s
  | .keyLoadPlain r => Sys2Proof.Machine.execKeyLoadPlain r s
  | .keyLoadWrapped r => Sys2Proof.Machine.execKeyLoadWrapped r s
  | .keyErase r => Sys2Proof.Machine.execKeyErase r s
  | .cipherLock r => Sys2Proof.Machine.execCipherLock r s
  | .cipherLockBoot r => Sys2Proof.Machine.execCipherLockBoot r s
  | .cipherSelfTestDone passed => Sys2Proof.Machine.execCipherSelfTestDone passed s
  | .configBackupRestore r => Sys2Proof.Machine.execConfigBackupRestore r s
  | .configBackupRebuild => Sys2Proof.Machine.execConfigBackupRebuild s
  | .fwImage r => Sys2Proof.Machine.execFwImage r s
  | .movc c stop d ctrl => Sys2Proof.Machine.execMovc c stop d ctrl s
  | .movtc c stop a ctrl => Sys2Proof.Machine.execMovtc c stop a ctrl s
  | .jr c stop a => Sys2Proof.Machine.execJr c stop a s
  | .add c f => Sys2Proof.Machine.execAdd c f s
  | .sub c f => Sys2Proof.Machine.execSub c f s
  | .adds c f => Sys2Proof.Machine.execAdds c f s
  | .subs c f => Sys2Proof.Machine.execSubs c f s
  | .and c f => Sys2Proof.Machine.execAnd c f s
  | .or c f => Sys2Proof.Machine.execOr c f s
  | .xor c f => Sys2Proof.Machine.execXor c f s
  | .andn c f => Sys2Proof.Machine.execAndn c f s
  | .sll c f => Sys2Proof.Machine.execSll c f s
  | .srl c f => Sys2Proof.Machine.execSrl c f s
  | .sra c f => Sys2Proof.Machine.execSra c f s
  | .slt c f => Sys2Proof.Machine.execSlt c f s
  | .sltu c f => Sys2Proof.Machine.execSltu c f s
  | .min c f => Sys2Proof.Machine.execMin c f s
  | .max c f => Sys2Proof.Machine.execMax c f s
  | .minu c f => Sys2Proof.Machine.execMinu c f s
  | .maxu c f => Sys2Proof.Machine.execMaxu c f s
  | .mul c f => Sys2Proof.Machine.execMul c f s
  | .mulh c f => Sys2Proof.Machine.execMulh c f s
  | .mulhu c f => Sys2Proof.Machine.execMulhu c f s
  | .muls c f => Sys2Proof.Machine.execMuls c f s
  | .abs c f => Sys2Proof.Machine.execAbs c f s
  | .abss c f => Sys2Proof.Machine.execAbss c f s
  | .neg c f => Sys2Proof.Machine.execNeg c f s
  | .negs c f => Sys2Proof.Machine.execNegs c f s
  | .slls c f => Sys2Proof.Machine.execSlls c f s
  | .addi c f => Sys2Proof.Machine.execAddi c f s
  | .andi c f => Sys2Proof.Machine.execAndi c f s
  | .ori c f => Sys2Proof.Machine.execOri c f s
  | .xori c f => Sys2Proof.Machine.execXori c f s
  | .lui c f => Sys2Proof.Machine.execLui c f s
  | .sllImmediate c f => Sys2Proof.Machine.execSllImmediate c f s
  | .srlImmediate c f => Sys2Proof.Machine.execSrlImmediate c f s
  | .sraImmediate c f => Sys2Proof.Machine.execSraImmediate c f s
  | .sllsImmediate c f => Sys2Proof.Machine.execSllsImmediate c f s
  | .mac c f => Sys2Proof.Machine.execMac c f s
  | .msu c f => Sys2Proof.Machine.execMsu c f s
  | .machh c f => Sys2Proof.Machine.execMachh c f s
  | .accld c f => Sys2Proof.Machine.execAccld c f s
  | .accx c f => Sys2Proof.Machine.execAccx c f s
  | .accx16 c f => Sys2Proof.Machine.execAccx16 c f s
  | .accclr c f => Sys2Proof.Machine.execAccclr c f s
  | .maxix c f => Sys2Proof.Machine.execMaxix c f s
  | .minix c f => Sys2Proof.Machine.execMinix c f s
  | .maxux c f => Sys2Proof.Machine.execMaxux c f s
  | .minux c f => Sys2Proof.Machine.execMinux c f s
  | .bexp c f => Sys2Proof.Machine.execBexp c f s
  | .bexpm c f => Sys2Proof.Machine.execBexpm c f s
  | .bexpa c f => Sys2Proof.Machine.execBexpa c f s
  | .sat16 c f => Sys2Proof.Machine.execSat16 c f s
  | .beqz c stop a off => Sys2Proof.Machine.execBeqz c stop a off s
  | .bnez c stop a off => Sys2Proof.Machine.execBnez c stop a off s
  | .bltz c stop a off => Sys2Proof.Machine.execBltz c stop a off s
  | .bgez c stop a off => Sys2Proof.Machine.execBgez c stop a off s
  | .bgtz c stop a off => Sys2Proof.Machine.execBgtz c stop a off s
  | .blez c stop a off => Sys2Proof.Machine.execBlez c stop a off s
  | .br c stop off => Sys2Proof.Machine.execBr c stop off s
  | .bal c stop off => Sys2Proof.Machine.execBal c stop off s
  | .loop c stop a lvl last => Sys2Proof.Machine.execLoop c stop a lvl last s
  | .ld c f => Sys2Proof.Machine.execLd c f s
  | .st c f => Sys2Proof.Machine.execSt c f s
  | .cbset c stop n a b res => Sys2Proof.Machine.execCbset c stop n a b res s
  | .nop c f => Sys2Proof.Machine.execNop c f s
  | .tend c f => Sys2Proof.Machine.execTend c f s
  | .fence c f => Sys2Proof.Machine.execFence c f s
  | .trap c f => Sys2Proof.Machine.execTrap c f s
  | .postedStoreError c ea cause => Sys2Proof.Machine.execPostedStoreError c ea cause s
  | .interconnectTimeout who addr => Sys2Proof.Machine.execInterconnectTimeout who addr s
  | .spanset c stop d a etype grp res => Sys2Proof.Machine.execSpanset c stop d a etype grp res s
  | .vsync c f => Sys2Proof.Machine.execVsync c f s
  | .vmovhw c f => Sys2Proof.Machine.execVmovhw c f s
  | .vmovwh c f => Sys2Proof.Machine.execVmovwh c f s
  | .vadd c scalar f => Sys2Proof.Machine.execVadd c scalar f s
  | .vsub c scalar f => Sys2Proof.Machine.execVsub c scalar f s
  | .vadds c scalar f => Sys2Proof.Machine.execVadds c scalar f s
  | .vsubs c scalar f => Sys2Proof.Machine.execVsubs c scalar f s
  | .vand c scalar f => Sys2Proof.Machine.execVand c scalar f s
  | .vor c scalar f => Sys2Proof.Machine.execVor c scalar f s
  | .vxor c scalar f => Sys2Proof.Machine.execVxor c scalar f s
  | .vandn c scalar f => Sys2Proof.Machine.execVandn c scalar f s
  | .vsll c scalar f => Sys2Proof.Machine.execVsll c scalar f s
  | .vsrl c scalar f => Sys2Proof.Machine.execVsrl c scalar f s
  | .vsra c scalar f => Sys2Proof.Machine.execVsra c scalar f s
  | .vslls c scalar f => Sys2Proof.Machine.execVslls c scalar f s
  | .vmin c scalar f => Sys2Proof.Machine.execVmin c scalar f s
  | .vmax c scalar f => Sys2Proof.Machine.execVmax c scalar f s
  | .vminu c scalar f => Sys2Proof.Machine.execVminu c scalar f s
  | .vmaxu c scalar f => Sys2Proof.Machine.execVmaxu c scalar f s
  | .vabs c scalar f => Sys2Proof.Machine.execVabs c scalar f s
  | .vabss c scalar f => Sys2Proof.Machine.execVabss c scalar f s
  | .vneg c scalar f => Sys2Proof.Machine.execVneg c scalar f s
  | .vnegs c scalar f => Sys2Proof.Machine.execVnegs c scalar f s
  | .vmul c scalar f => Sys2Proof.Machine.execVmul c scalar f s
  | .vmulh c scalar f => Sys2Proof.Machine.execVmulh c scalar f s
  | .vmulq c scalar f => Sys2Proof.Machine.execVmulq c scalar f s
  | .vmulqs c scalar f => Sys2Proof.Machine.execVmulqs c scalar f s
  | .vcmul c scalar f => Sys2Proof.Machine.execVcmul c scalar f s
  | .vcmuls c scalar f => Sys2Proof.Machine.execVcmuls c scalar f s
  | .vcmulj c scalar f => Sys2Proof.Machine.execVcmulj c scalar f s
  | .vcmuljs c scalar f => Sys2Proof.Machine.execVcmuljs c scalar f s
  | .vconj c scalar f => Sys2Proof.Machine.execVconj c scalar f s
  | .vmulj c scalar f => Sys2Proof.Machine.execVmulj c scalar f s
  | .vmov c f => Sys2Proof.Machine.execVmov c f s
  | .vsplat c f => Sys2Proof.Machine.execVsplat c f s
  | .vmac c f => Sys2Proof.Machine.execVmac c f s
  | .vmsu c f => Sys2Proof.Machine.execVmsu c f s
  | .vmacq c f => Sys2Proof.Machine.execVmacq c f s
  | .vmacqs c f => Sys2Proof.Machine.execVmacqs c f s
  | .vcmac c f => Sys2Proof.Machine.execVcmac c f s
  | .vcmacs c f => Sys2Proof.Machine.execVcmacs c f s
  | .vcmacj c f => Sys2Proof.Machine.execVcmacj c f s
  | .vcmacjs c f => Sys2Proof.Machine.execVcmacjs c f s
  | .vwmul c f => Sys2Proof.Machine.execVwmul c f s
  | .vwmac c f => Sys2Proof.Machine.execVwmac c f s
  | .vwcmac c f => Sys2Proof.Machine.execVwcmac c f s
  | .vwcmacj c f => Sys2Proof.Machine.execVwcmacj c f s
  | .vwiden c f => Sys2Proof.Machine.execVwiden c f s
  | .vnsra c f => Sys2Proof.Machine.execVnsra c f s
  | .vnsras c f => Sys2Proof.Machine.execVnsras c f s
  | .vld c f => Sys2Proof.Machine.execVld c f s
  | .vst c f => Sys2Proof.Machine.execVst c f s
  | .vlds c f => Sys2Proof.Machine.execVlds c f s
  | .vsts c f => Sys2Proof.Machine.execVsts c f s
  | .vgath c f => Sys2Proof.Machine.execVgath c f s
  | .vscat c f => Sys2Proof.Machine.execVscat c f s
  | .vgathf c f => Sys2Proof.Machine.execVgathf c f s
  | .vcmpeq c f => Sys2Proof.Machine.execVcmpeq c f s
  | .vcmpne c f => Sys2Proof.Machine.execVcmpne c f s
  | .vcmplt c f => Sys2Proof.Machine.execVcmplt c f s
  | .vcmple c f => Sys2Proof.Machine.execVcmple c f s
  | .vcmpltu c f => Sys2Proof.Machine.execVcmpltu c f s
  | .vcmpleu c f => Sys2Proof.Machine.execVcmpleu c f s
  | .kand c f => Sys2Proof.Machine.execKand c f s
  | .kor c f => Sys2Proof.Machine.execKor c f s
  | .kxor c f => Sys2Proof.Machine.execKxor c f s
  | .kandn c f => Sys2Proof.Machine.execKandn c f s
  | .knot c f => Sys2Proof.Machine.execKnot c f s
  | .kset c f => Sys2Proof.Machine.execKset c f s
  | .vredmaxix c f => Sys2Proof.Machine.execVredmaxix c f s
  | .vredminix c f => Sys2Proof.Machine.execVredminix c f s
  | .vredmaxux c f => Sys2Proof.Machine.execVredmaxux c f s
  | .vredminux c f => Sys2Proof.Machine.execVredminux c f s
  | .vbexp c f => Sys2Proof.Machine.execVbexp c f s
  | .vredsum c f => Sys2Proof.Machine.execVredsum c f s
  | .vmvg c f => Sys2Proof.Machine.execVmvg c f s
  | .vmvv c f => Sys2Proof.Machine.execVmvv c f s
  | .kpopc c f => Sys2Proof.Machine.execKpopc c f s
  | .kfirst c f => Sys2Proof.Machine.execKfirst c f s
  | .viota c f => Sys2Proof.Machine.execViota c f s
  | .vectorFaultDelivery c => Sys2Proof.Machine.execVectorFaultDelivery c s
  | .mxmac c f => Sys2Proof.Machine.execMxmac c f s
  | .mxmach c f => Sys2Proof.Machine.execMxmach c f s
  | .mxmul c f => Sys2Proof.Machine.execMxmul c f s
  | .mxmulh c f => Sys2Proof.Machine.execMxmulh c f s
  | .mxmsu c f => Sys2Proof.Machine.execMxmsu c f s
  | .mxclr c f => Sys2Proof.Machine.execMxclr c f s
  | .mxpack c f => Sys2Proof.Machine.execMxpack c f s
  | .mxtrn c f => Sys2Proof.Machine.execMxtrn c f s
  | .mxherm c f => Sys2Proof.Machine.execMxherm c f s
  | .mxrd c f => Sys2Proof.Machine.execMxrd c f s
  | .mxbexp c f => Sys2Proof.Machine.execMxbexp c f s
  | .mxwr c f => Sys2Proof.Machine.execMxwr c f s
  | .mxld c f => Sys2Proof.Machine.execMxld c f s
  | .mxst c f => Sys2Proof.Machine.execMxst c f s
  | .mxstz c f => Sys2Proof.Machine.execMxstz c f s
  | .mxlock c f => Sys2Proof.Machine.execMxlock c f s
  | .mxunlock c f => Sys2Proof.Machine.execMxunlock c f s
  | .mxsave c f => Sys2Proof.Machine.execMxsave c f s
  | .mxrestore c f => Sys2Proof.Machine.execMxrestore c f s
  | .mxsync c f => Sys2Proof.Machine.execMxsync c f s
  | .mxcLockGrant m => Sys2Proof.Machine.execMxcLockGrant m s
  | .mxcWaitEvict m => Sys2Proof.Machine.execMxcWaitEvict m s
  | .mxcSquashDrainEnd m => Sys2Proof.Machine.execMxcSquashDrainEnd m s
  | .mxcImpreciseError c code addr => Sys2Proof.Machine.execMxcImpreciseError c code addr s
  | .ldpcDecode n => Sys2Proof.Machine.execLdpcDecode n s
  | .ldpcEncode n => Sys2Proof.Machine.execLdpcEncode n s
  | .polarDecode n => Sys2Proof.Machine.execPolarDecode n s
  | .polarEncode n => Sys2Proof.Machine.execPolarEncode n s
  | .fft n => Sys2Proof.Machine.execFft n s
  | .ifft n => Sys2Proof.Machine.execIfft n s
  | .engineEntryEnd kind n fail => Sys2Proof.Machine.execEngineEntryEnd kind n fail s
  | .engineWatchdog kind n => Sys2Proof.Machine.execEngineWatchdog kind n s
  | .nbReceive n => Sys2Proof.Machine.execNbReceive n s
  | .nbTransmit n => Sys2Proof.Machine.execNbTransmit n s
  | .nbSliceBistDone n passed => Sys2Proof.Machine.execNbSliceBistDone n passed s
  | .nbConfigWrite r => Sys2Proof.Machine.execNbConfigWrite r s
  | .groupEnable r => Sys2Proof.Machine.execGroupEnable r s
  | .laneBlockReceived lane header upper lower => Sys2Proof.Machine.execLaneBlockReceived lane header upper lower s
  | .laneLock lane => Sys2Proof.Machine.execLaneLock lane s
  | .laneLockLoss lane noSignal => Sys2Proof.Machine.execLaneLockLoss lane noSignal s
  | .fillerRow group skews => Sys2Proof.Machine.execFillerRow group skews s
  | .rowRelease group => Sys2Proof.Machine.execRowRelease group s
  | .laneCmdSlip r => Sys2Proof.Machine.execLaneCmdSlip r s
  | .laneCmdDrain r => Sys2Proof.Machine.execLaneCmdDrain r s
  | .laneCmdRestore r => Sys2Proof.Machine.execLaneCmdRestore r s
  | .laneConfig r => Sys2Proof.Machine.execLaneConfig r s
  | .laneRowTransmit group => Sys2Proof.Machine.execLaneRowTransmit group s
  | .basicFrameReceived link => Sys2Proof.Machine.execBasicFrameReceived link s
  | .sectionReceived link => Sys2Proof.Machine.execSectionReceived link s
  | .basicFrameTransmit link => Sys2Proof.Machine.execBasicFrameTransmit link s
  | .sectionTransmit queue => Sys2Proof.Machine.execSectionTransmit queue s
  | .containerSampleTransmit cont => Sys2Proof.Machine.execContainerSampleTransmit cont s
  | .defectSet link defect => Sys2Proof.Machine.execDefectSet link defect s
  | .defectClear link defect => Sys2Proof.Machine.execDefectClear link defect s
  | .mcMessageReceived link bytes => Sys2Proof.Machine.execMcMessageReceived link bytes s
  | .mcTimeout link => Sys2Proof.Machine.execMcTimeout link s
  | .ruPoll link => Sys2Proof.Machine.execRuPoll link s
  | .versionSeal v => Sys2Proof.Machine.execVersionSeal v s
  | .versionRetainExpiry v => Sys2Proof.Machine.execVersionRetainExpiry v s
  | .ecpriIqData port src form id seqId bytes => Sys2Proof.Machine.execEcpriIqData port src form id seqId bytes s
  | .ecpriRtControl port src form id seqId bytes => Sys2Proof.Machine.execEcpriRtControl port src form id seqId bytes s
  | .ecpriDelayMeasurement port src form action ident t2 => Sys2Proof.Machine.execEcpriDelayMeasurement port src form action ident t2 s
  | .linkConfig r => Sys2Proof.Machine.execLinkConfig r s
  | .tdContainers r => Sys2Proof.Machine.execTdContainers r s
  | .anvilPoolRole r => Sys2Proof.Machine.execAnvilPoolRole r s
  | .fhCell r => Sys2Proof.Machine.execFhCell r s
  | .tdLanding r => Sys2Proof.Machine.execTdLanding r s
  | .doorbell chan addr => Sys2Proof.Machine.execDoorbell chan addr s
  | .chanReset chan => Sys2Proof.Machine.execChanReset chan s
  | .dmaDescriptorFetched chan => Sys2Proof.Machine.execDmaDescriptorFetched chan s
  | .dmaCopy chan => Sys2Proof.Machine.execDmaCopy chan s
  | .dmaFill chan => Sys2Proof.Machine.execDmaFill chan s
  | .dmaAntennaInterleave chan => Sys2Proof.Machine.execDmaAntennaInterleave chan s
  | .dmaAntennaDeinterleave chan => Sys2Proof.Machine.execDmaAntennaDeinterleave chan s
  | .dmaBitPlaneSplit chan => Sys2Proof.Machine.execDmaBitPlaneSplit chan s
  | .dmaBitPlaneMerge chan => Sys2Proof.Machine.execDmaBitPlaneMerge chan s
  | .dmaTransferEnd chan => Sys2Proof.Machine.execDmaTransferEnd chan s
  | .endCheckReturn chan => Sys2Proof.Machine.execEndCheckReturn chan s
  | .drizzleRead unit found => Sys2Proof.Machine.execDrizzleRead unit found s
  | .drizzleLapLimit unit => Sys2Proof.Machine.execDrizzleLapLimit unit s
  | .codeImageRewriteDone image ok => Sys2Proof.Machine.execCodeImageRewriteDone image ok s
  | .fastFillDone what => Sys2Proof.Machine.execFastFillDone what s
  | .dramRefresh rank => Sys2Proof.Machine.execDramRefresh rank s
  | .rankPowerDown rank => Sys2Proof.Machine.execRankPowerDown rank s
  | .dramConfig r => Sys2Proof.Machine.execDramConfig r s
  | .timingSetWrite r => Sys2Proof.Machine.execTimingSetWrite r s
  | .dramDelays r => Sys2Proof.Machine.execDramDelays r s
  | .dramFreqCmd r => Sys2Proof.Machine.execDramFreqCmd r s
  | .dramFreqChangeDone chan => Sys2Proof.Machine.execDramFreqChangeDone chan s
  | .timeBeat => Sys2Proof.Machine.execTimeBeat s
  | .beatTimeout island => Sys2Proof.Machine.execBeatTimeout island s
  | .secondBoundary => Sys2Proof.Machine.execSecondBoundary s
  | .dayBoundary => Sys2Proof.Machine.execDayBoundary s
  | .ref10mhzLoss => Sys2Proof.Machine.execRef10mhzLoss s
  | .timeSet r => Sys2Proof.Machine.execTimeSet r s
  | .adjust r => Sys2Proof.Machine.execAdjust r s
  | .increment r => Sys2Proof.Machine.execIncrement r s
  | .activeDomain r => Sys2Proof.Machine.execActiveDomain r s
  | .timeRefSel r => Sys2Proof.Machine.execTimeRefSel r s
  | .ptpDomain r => Sys2Proof.Machine.execPtpDomain r s
  | .tcDomains r => Sys2Proof.Machine.execTcDomains r s
  | .ptpSync tb port t1 t2 t3 t4 correction => Sys2Proof.Machine.execPtpSync tb port t1 t2 t3 t4 correction s
  | .ptpAnnounce port head a => Sys2Proof.Machine.execPtpAnnounce port head a s
  | .ptpDelayReq port head requester correction => Sys2Proof.Machine.execPtpDelayReq port head requester correction s
  | .announceReceiptTimeout tb => Sys2Proof.Machine.execAnnounceReceiptTimeout tb s
  | .ptpMessageTransmit tb port kind => Sys2Proof.Machine.execPtpMessageTransmit tb port kind s
  | .tcForward port dstMac domain kind residence frame => Sys2Proof.Machine.execTcForward port dstMac domain kind residence frame s
  | .ppsInEdge t => Sys2Proof.Machine.execPpsInEdge t s
  | .holdoverLimit => Sys2Proof.Machine.execHoldoverLimit s
  | .omPoll pos reading => Sys2Proof.Machine.execOmPoll pos reading s
  | .moduleMap r => Sys2Proof.Machine.execModuleMap r s
  | .opticsCmdDrain r => Sys2Proof.Machine.execOpticsCmdDrain r s
  | .opticsCmdRestore r => Sys2Proof.Machine.execOpticsCmdRestore r s
  | .powerTarget r => Sys2Proof.Machine.execPowerTarget r s
  | .deepCmd r => Sys2Proof.Machine.execDeepCmd r s
  | .duskVote flashFails => Sys2Proof.Machine.execDuskVote flashFails s
  | .duskVoteTimeout => Sys2Proof.Machine.execDuskVoteTimeout s
  | .duskEntryComplete => Sys2Proof.Machine.execDuskEntryComplete s
  | .aonRegRdy => Sys2Proof.Machine.execAonRegRdy s
  | .pswRdy => Sys2Proof.Machine.execPswRdy s
  | .pllLock => Sys2Proof.Machine.execPllLock s
  | .memRdy badBanks => Sys2Proof.Machine.execMemRdy badBanks s
  | .wakeEdge => Sys2Proof.Machine.execWakeEdge s
  | .wakeAlarm => Sys2Proof.Machine.execWakeAlarm s
  | .aonBrownout => Sys2Proof.Machine.execAonBrownout s
  | .engineIslandGate island => Sys2Proof.Machine.execEngineIslandGate island s
  | .gatedIslandWake island badBanks => Sys2Proof.Machine.execGatedIslandWake island badBanks s
  | .vinMainLow => Sys2Proof.Machine.execVinMainLow s
  | .vinMainRestored => Sys2Proof.Machine.execVinMainRestored s
  | .bkupOkMeasure mv => Sys2Proof.Machine.execBkupOkMeasure mv s
  | .vinBkupLoss => Sys2Proof.Machine.execVinBkupLoss s
  | .pwrGoodFall => Sys2Proof.Machine.execPwrGoodFall s
  | .pwrGoodRise => Sys2Proof.Machine.execPwrGoodRise s
  | .resetNFall => Sys2Proof.Machine.execResetNFall s
  | .resetNCold => Sys2Proof.Machine.execResetNCold s
  | .resetNRelease fpEn aui0 aui1 => Sys2Proof.Machine.execResetNRelease fpEn aui0 aui1 s
  | .serviceable => Sys2Proof.Machine.execServiceable s
  | .resetCmdWarm r => Sys2Proof.Machine.execResetCmdWarm r s
  | .resetCmdCold r => Sys2Proof.Machine.execResetCmdCold r s
  | .sysRefclkLoss => Sys2Proof.Machine.execSysRefclkLoss s
  | .temperatureAlarm hot => Sys2Proof.Machine.execTemperatureAlarm hot s
  | .portUp port => Sys2Proof.Machine.execPortUp port s
  | .pfcPauseExpiry port prio => Sys2Proof.Machine.execPfcPauseExpiry port prio s
  | .commandParityError sub retryOk => Sys2Proof.Machine.execCommandParityError sub retryOk s
  | .switchOverComplete => Sys2Proof.Machine.execSwitchOverComplete s
  | .ppsInEdgeMissing => Sys2Proof.Machine.execPpsInEdgeMissing s
  | .alwaysOnPowerOn mainOk bkupMv => Sys2Proof.Machine.execAlwaysOnPowerOn mainOk bkupMv s
  | .testLogicReset => Sys2Proof.Machine.execTestLogicReset s

end Sys2Proof.Machine
end

