-- ==== Sys2Proof/Machine/Fetch.lean ====
section
/-!
DEFINITION. What a core executes of its own: the word at its fetch address, decoded, or a reserved encoding (R196, R208,
R216, R217, R276).
-/
namespace Sys2Proof.Machine

/-! ## Codes of the groups -/

/-- Major 0x00, by FN from 0 (R218). -/
def aluOps : List (Nat → AFmt → State → Res) :=
  [execAdd, execSub, execAdds, execSubs, execAnd, execOr, execXor, execAndn, execSll, execSrl, execSra, execSlt,
   execSltu, execMin, execMax, execMinu, execMaxu, execMul, execMulh, execMulhu, execMuls, execAbs, execAbss,
   execNeg, execNegs, execSlls]

/-- Major 0x07, by FN (R217). -/
def shiftOps : List (Nat × (Nat → AFmt → State → Res)) :=
  [(0x008, execSllImmediate), (0x009, execSrlImmediate), (0x00A, execSraImmediate), (0x019, execSllsImmediate)]

/-- Major 0x08, by OP from 0 (R219). -/
def accOps : List (Nat → AccFmt → State → Res) :=
  [execMac, execMsu, execMachh, execAccld, execAccx, execAccx16, execAccclr]

/-- Major 0x09, by FN[10:6] from 0 (R220). -/
def ixOps : List (Nat → IxFmt → State → Res) :=
  [execMaxix, execMinix, execMaxux, execMinux, execBexp, execBexpm, execBexpa, execSat16]

/-- Major 0x0B, by COND from 0 (R216). -/
def condOps : List (Nat → Bool → BitVec 5 → BitVec 18 → State → Res) :=
  [execBeqz, execBnez, execBltz, execBgez, execBgtz, execBlez]

/-- Major 0x13, by A from 0 (R217). -/
def systemOps : List (Nat → IFmt → State → Res) :=
  [execNop, execTend, execFence, execTrap]

/-- Majors 0x18 and 0x19, by FN from 0 (R252). -/
def vectorOps : List (Nat → Bool → VFmt → State → Res) :=
  [execVadd, execVsub, execVadds, execVsubs, execVand, execVor, execVxor, execVandn, execVsll, execVsrl, execVsra,
   execVslls, execVmin, execVmax, execVminu, execVmaxu, execVabs, execVabss, execVneg, execVnegs, execVmul,
   execVmulh, execVmulq, execVmulqs, execVcmul, execVcmuls, execVcmulj, execVcmuljs, execVconj, execVmulj,
   fun c scalar f => if scalar then execVsplat c f else execVmov c f]

/-- Major 0x1A, by FN from 0 (R253). -/
def wideOps : List (Nat → VFmt → State → Res) :=
  [execVmac, execVmsu, execVmacq, execVmacqs, execVcmac, execVcmacs, execVcmacj, execVcmacjs, execVwmul, execVwmac,
   execVwcmac, execVwcmacj, execVwiden, execVnsra, execVnsras]

/-- Major 0x1B, by OP from 0 (R254). -/
def vmemOps : List (Nat → VMFmt → State → Res) :=
  [execVld, execVst, execVlds, execVsts, execVgath, execVscat, execVgathf]

/-- Major 0x1C, by FN (R255). -/
def reduceOps : List (Nat × (Nat → VFmt → State → Res)) :=
  [(0x00, execVcmpeq), (0x01, execVcmpne), (0x02, execVcmplt), (0x03, execVcmple), (0x04, execVcmpltu),
   (0x05, execVcmpleu), (0x08, execKand), (0x09, execKor), (0x0A, execKxor), (0x0B, execKandn), (0x0C, execKnot),
   (0x0D, execKset), (0x10, execVredmaxix), (0x11, execVredminix), (0x12, execVredmaxux), (0x13, execVredminux),
   (0x14, execVbexp), (0x15, execVredsum), (0x16, execVmvg), (0x17, execVmvv), (0x18, execKpopc), (0x19, execKfirst),
   (0x1A, execViota)]

/-- Major 0x1E, by FN from 0 (R275). -/
def matrixOps : List (Nat → XFmt → State → Res) :=
  [execMxmac, execMxmach, execMxmul, execMxmulh, execMxmsu, execMxclr, execMxpack, execMxtrn, execMxherm, execMxrd,
   execMxbexp, execMxwr]

/-- Major 0x1F, by FN from 0 (R275). -/
def matrixMemOps : List (Nat → XFmt → State → Res) :=
  [execMxld, execMxst, execMxstz, execMxlock, execMxunlock, execMxsave, execMxrestore, execMxsync]

/-- The meaning that a list gives a code. -/
def opAt {α : Type} (l : List (Nat × α)) (code : Nat) : Option α := (l.find? fun x => decide (x.1 = code)).map (·.2)

/-- Major 0x0A (R216). Reserved bits [20:16] and [13:10] of format C are ignored (DESIGN CHOICE, assumption 81). -/
def controlMeaning (c : Nat) (w : BitVec 32) : Option (State → Res) :=
  match (w.extractLsb' 14 2).toNat with
  | 0 => some (execMovc c (wordStop w) (wordD w) (w.extractLsb' 0 10))
  | 1 => some (execMovtc c (wordStop w) (wordD w) (w.extractLsb' 0 10))
  | 2 => some (execJr c (wordStop w) (wordD w))
  | _ => none

/-- Major 0x1D (R256). -/
def vectorControlMeaning (c : Nat) (w : BitVec 32) : Option (State → Res) :=
  match wordFn w with
  | 0 =>
    some (execSpanset c (wordStop w) (wordD w) (wordA w) (w.extractLsb' 13 3) (w.extractLsb' 11 2) (w.extractLsb' 6 5))
  | 1 => some (execVsync c (vFmt w))
  | 2 => some (execVmovhw c (vFmt w))
  | 3 => some (execVmovwh c (vFmt w))
  | _ => none

/-- The meaning of the instruction that a word of core c's instruction memory spells; none for a reserved major, FN or
sub-operation (R216 to R220, R250 to R256, R274, R275). -/
def wordMeaning (c : Nat) (w : BitVec 32) : Option (State → Res) :=
  let fn := (w.extractLsb' 0 11).toNat
  match wordMajor w with
  | 0x00 => (aluOps[fn]?).map fun f => f c (aFmt w)
  | 0x01 => some (execAddi c (iFmt w))
  | 0x02 => some (execAndi c (iFmt w))
  | 0x03 => some (execOri c (iFmt w))
  | 0x04 => some (execXori c (iFmt w))
  | 0x05 => some (execLui c (iFmt w))
  | 0x07 => (opAt shiftOps fn).map fun f => f c (aFmt w)
  | 0x08 => (accOps[(w.extractLsb' 8 3).toNat]?).map fun f => f c (accFmt w)
  | 0x09 => (ixOps[(w.extractLsb' 6 5).toNat]?).map fun f => f c (ixFmt w)
  | 0x0A => controlMeaning c w
  | 0x0B => (condOps[(w.extractLsb' 18 3).toNat]?).map fun f => f c (wordStop w) (wordD w) (w.extractLsb' 0 18)
  | 0x0C => some ((if w.getLsbD 25 then execBal else execBr) c (wordStop w) (w.extractLsb' 0 25))
  | 0x0D => some (execLoop c (wordStop w) (wordD w) (w.getLsbD 20) (w.extractLsb' 0 20))
  | 0x10 => some (execLd c (mFmt w))
  | 0x11 => some (execSt c (mFmt w))
  | 0x12 =>
    some (execCbset c (wordStop w) (w.extractLsb' 21 3) (wordA w) (wordB w) (w.extractLsb' 24 2 ++ w.extractLsb' 0 11))
  | 0x13 => (systemOps[(wordA w).toNat]?).map fun f => f c (iFmt w)
  | 0x18 => (vectorOps[wordFn w]?).map fun f => f c false (vFmt w)
  | 0x19 => (vectorOps[wordFn w]?).map fun f => f c true (vFmt w)
  | 0x1A => (wideOps[wordFn w]?).map fun f => f c (vFmt w)
  | 0x1B => (vmemOps[(w.extractLsb' 3 3).toNat]?).map fun f => f c (vmFmt w)
  | 0x1C => (opAt reduceOps (wordFn w)).map fun f => f c (vFmt w)
  | 0x1D => vectorControlMeaning c w
  | 0x1E => (matrixOps[wordFn w]?).map fun f => f c (xFmt w)
  | 0x1F => (matrixMemOps[wordFn w]?).map fun f => f c (xFmt w)
  | _ => none

/-! ## Execution -/

/-- A core executes instructions: it runs a task and does not wait for its quad's lock. -/
def coreRuns (s : State) (c : Nat) : Bool := (s.core c).running && !lockWaits s c

/-- The core whose turn it is to execute: the first that runs, from the one after the last (assumption 1). -/
def nextCore (s : State) : Option Nat := ((List.range 576).map fun i => (s.turn + i) % 576).find? (coreRuns s)

/-- The word that a core fetches next: the one after those of its open bundle (R196, R208). -/
def coreWord (s : State) (c : Nat) : BitVec 32 :=
  let x := s.core c
  BitVec.ofNat 32 (leNat (mgetAll s.mem.imem (c * 65536 + (x.pc + 4 * x.bundle.count)) 4))

/-- The class of a major opcode (R217). -/
def majorCls (m : Nat) : Cls :=
  if m = 0x10 ∨ m = 0x11 then .mem else if 0x18 ≤ m then .vec else .scalar

/-- A reserved major, FN or sub-operation raises ILLEGAL with SUB 0; an MXC one on a core without an MXC raises ABSENT_UNIT
(R217, R251, R274, R276). -/
def execReserved (c : Nat) (w : BitVec 32) (s : State) : Res :=
  issueM c (wordStop w) s fun s _ _ =>
    { cls := majorCls (wordMajor w), illegal := some 0
      absentUnit := decide (0x1E ≤ wordMajor w) && !hasMxc s.part.variant }

/-- A core executes the next instruction of its instruction memory (R196). -/
def fetchCore (c : Nat) (s : State) : Res :=
  match wordMeaning c (coreWord s c) with
  | some run => run s
  | none => execReserved c (coreWord s c) s

/-- What the block does when no command waits: the core whose turn it is executes one instruction, and a block in which no
core runs idles (DESIGN CHOICE, assumption 1). -/
def idle (s : State) : Res :=
  match nextCore s with
  | some c => fetchCore c { s with turn := c + 1 }
  | none => .next s

end Sys2Proof.Machine
end

