-- ==== Sys2Proof/Safety.lean ====
section
/-!
DEFINITION. The conditions under which claims say a command runs: what makes a core take the instruction at its next
address, and what makes it the only instruction of its bundle.
-/
namespace Sys2Proof.Machine

/-- Core c takes the instruction at its next address: it runs, waits for no lock, its bundle starts inside its kernel
and the instruction word reads good (R196, R208, R223). -/
abbrev Fetches (s : State) (c : Nat) : Prop :=
  c < 576 ∧ (s.core c).running = true ∧ lockWaits s c = false
    ∧ ((s.core c).bundle.count = 0 → (s.core c).kbase.toNat ≤ (s.core c).pc ∧ (s.core c).pc < (s.core c).klimit.toNat)
    ∧ (s.core c).pc + 4 * (s.core c).bundle.count < 0x10000
    ∧ kget s.mem.ibad (c * 65536 + ((s.core c).pc + 4 * (s.core c).bundle.count) / 8 * 8) = none

/-- No imprecise fault of the core waits, and its vector queue is empty (R224, R244, R246, R273). -/
abbrev NoneWaits (x : Core) : Prop :=
  (x.vfault = false ∧ x.sberr = none ∧ x.mxerr = none) ∧ (x.vseen = false ∧ x.vq = [] ∧ x.vpend = none)

/-- No hardware loop ends at the core's bundle (R215). -/
abbrev NoLoopEnd (x : Core) : Prop :=
  (vget x.lpcnt 0 0 = 0 ∨ (vget x.lpend 0 0).toNat ≠ x.pc) ∧ (vget x.lpcnt 1 0 = 0 ∨ (vget x.lpend 1 0).toNat ≠ x.pc)

/-- The next instruction of core c opens a bundle, with nothing waiting and no loop ending there. -/
abbrev Opens (s : State) (c : Nat) : Prop :=
  Fetches s c ∧ (s.core c).bundle = Bundle.init ∧ NoneWaits (s.core c) ∧ NoLoopEnd (s.core c)

/-- A core after it has committed a bundle of one instruction with these effects, a sticky SAT last (R196, assumption 70). -/
def committed (x : Core) (effs : List Eff) : Core :=
  { (inOrder effs).foldl (applyEff (x.pc + 4)) x with pc := x.pc + 4, bundle := Bundle.init, commits := x.commits + 1 }

/-- Without its stop bit an instruction that adds i to its bundle joins the open bundle, whose effects wait for the commit;
all else in the state stays (R196 to R198). -/
abbrev Adds (s : State) (c : Nat) (stop : Bool) (i : Iss) (r : Res) : Prop :=
  stop = false → Fetches s c → (s.core c).vpend = none → bundleOk (s.core c).bundle i = true →
    r = .next (s.setCore c { s.core c with bundle := (s.core c).bundle.add i })

/-- The two ways an instruction goes that adds i to its bundle, r being what exec answers. Without its stop bit it joins
the open bundle, whose effects wait for the commit. With its stop bit and alone in its bundle it commits: its effects
are carried out and the pc advances by one word. In both, all else in the state stays (R196 to R199). -/
def Issues (s : State) (c : Nat) (stop : Bool) (i : Iss) (r : Res) : Prop :=
  Adds s c stop i r
  ∧ (stop = true → Opens s c → r = .next (s.setCore c (committed (s.core c) i.effs)))

/-- An effect on the core's own registers that steers no fetch, or a wait. -/
def Eff.ofCore : Eff → Bool
  | .wg _ _ | .wacc _ _ | .sat | .spanset _ _ | .wh _ _ | .ww _ _ _ | .wk _ _ | .vsat | .vsync | .mxsync => true
  | .wctl n _ => n != 0x010 && n != 0x014 && n != 0x100
  | _ => false

/-- A precise exception that an instruction brings at decode: it joins its bundle with it, and where its bundle then ends and
holds no other, exec answers the state in which core c has taken it, with EPC at the bundle (R222, R223). -/
def Raises (s : State) (c : Nat) (stop : Bool) (cls : Cls) (cause sub : Nat) (r : Res) : Prop :=
  let i : Iss := if cause = 3 then { cls, absentUnit := true } else { cls, illegal := some sub }
  Adds s c stop i r
  ∧ (stop = true → Fetches s c → NoneWaits (s.core c) → (s.core c).bundle.exc = none →
    r = .next (takeExc s c { cause, sub, slot := slotNo (s.core c).bundle cls, eaddr := 0, epc := (s.core c).pc
                             imprecise := false }))

/-- An integer clipped to w bits (R211). -/
def clampTo (w : Nat) (v : Int) : Int := max (-(2 ^ (w - 1))) (min v (2 ^ (w - 1) - 1))

/-- A result of 32 bits that clips, with the mark whether it did (R212). -/
def clamp32 (v : Int) : BitVec 32 × Bool := (BitVec.ofInt 32 (clampTo 32 v), decide (clampTo 32 v ≠ v))

/-- What an instruction of the accumulator group adds to its bundle for a value formed without bound: saturating forms
clip it to 40 bits, and CSTAT.SAT records a clip; plain forms wrap (R211, R212). -/
def accResult (n : BitVec 2) (sat : Bool) (v : Int) : Iss :=
  { writes := [.acc n.toNat]
    effs := if sat then
        (if clampTo 40 v = v then [.wacc n (BitVec.ofInt 40 v)] else [.wacc n (BitVec.ofInt 40 (clampTo 40 v)), .sat])
      else [.wacc n (BitVec.ofInt 40 v)] }

/-- n redundant sign bits: v fits in w − n bits and, short of all, in no fewer (R214). -/
def signBits (w n : Nat) (v : Int) : Prop :=
  n < w ∧ -(2 ^ (w - 1 - n)) ≤ v ∧ v < 2 ^ (w - 1 - n) ∧ (n < w - 1 → ¬(-(2 ^ (w - 2 - n)) ≤ v ∧ v < 2 ^ (w - 2 - n)))

/-- A core after it has committed a bundle of one instruction that goes to an address: a loop level whose body lies
elsewhere ends (R215). -/
def branched (x : Core) (target : Nat) : Core :=
  { leaveLoop (leaveLoop x target 1) target 0 with pc := target, bundle := Bundle.init, commits := x.commits + 1 }

/-- What a control-flow instruction does that goes to an address, writing the register of a call where it makes one. -/
def Goes (s : State) (c : Nat) (stop : Bool) (i : Iss) (x : Core) (target : Nat) (r : Res) : Prop :=
  Adds s c stop i r
  ∧ (stop = true → Opens s c → r = .next (s.setCore c (branched x target)))

/-- A test of the branch group on gA: taken, fetch goes OFF words from the branch; otherwise on to the next bundle
(R197, R216). -/
def BranchesIf (s : State) (c : Nat) (stop : Bool) (off : BitVec 18) (taken : Prop) (r : Res) : Prop :=
  let to' := (BitVec.ofNat 32 ((s.core c).pc + 4 * (s.core c).bundle.count) + off.signExtend 32 * 4).toNat
  (taken → Goes s c stop { flow := true, effs := [.goto to'] } (s.core c) to' r)
  ∧ (¬taken → Issues s c stop { flow := true } r)

/-- An instruction whose exception is found when it executes: it joins its bundle with it, and its stop bit alone in the
bundle takes it, EPC being the bundle (R222, R223). -/
def RaisesAtExecute (s : State) (c : Nat) (stop : Bool) (i : Iss) (slot cause sub ea : Nat) (r : Res) : Prop :=
  let i' := { i with exc := some (cause, sub, ea) }
  Adds s c stop i' r
  ∧ (stop = true → Opens s c →
    r = .next (takeExc (s.setCore c { s.core c with bundle := { Bundle.init.add i' with begun := true } }) c
      { cause, sub, slot, eaddr := ea, epc := (s.core c).pc, imprecise := false }))

/-- n bytes of a core's TCM can be read: they lie in it, its cluster is powered and answers, and no word of them is bad (R205, R408). -/
abbrev TcmGood (s : State) (c ea n : Nat) : Prop :=
  ea + n ≤ 0x40000 ∧ (s.cluster (c / 36)).gated = false ∧ memAt s (tcmBase c + ea) = .tcm c ∧ memAt s (tcmBase c + ea + n - 1) = .tcm c
    ∧ rangeUsable s (tcmBase c + ea) n = true ∧ ∀ u ∈ wordsOf (.tcm c) (tcmBase c + ea) n, kget s.mem.bad u = none

/-- A byte of a core's TCM as it reads: zero in a line not yet written since the task started (R204). -/
def tcmByte (s : State) (c ea : Nat) : Byte :=
  if (s.core c).lines.contains (ea / 64) then mget s.mem.bytes (tcmBase c + ea) else 0

/-- The number in n bytes of a core's TCM, least significant byte first (R206). -/
def tcmWord (s : State) (c ea n : Nat) : Nat := leNat ((List.range n).map fun i => tcmByte s c (ea + i))

/-- Bytes of an access by its SZ code (R216). -/
def accessBytes (sz : BitVec 3) : Nat := 2 ^ (if sz = 5 then 3 else sz.toNat / 2)

/-- The encoding of an access is one the spec gives: its size, no sign on a store, its mode, a circular buffer only in mode
2, an even pair, and no pointer update of a loaded register (R210, R216, R223). -/
abbrev AccessEncoded (f : MFmt) (store : Bool) : Prop :=
  f.sz.toNat ≤ 5 ∧ (store = true → f.sz ≠ 1 ∧ f.sz ≠ 3) ∧ f.mode ≠ 3 ∧ (f.cb = 0 ∨ f.mode = 2)
    ∧ (f.sz = 5 → f.d.getLsbD 0 = false)
    ∧ (store = false → f.mode ≠ 0 → f.d ≠ f.a ∧ (f.sz = 5 → f.d + 1 ≠ f.a))

/-- Address of an access: gA plus the scaled offset in mode 0, gA in the modes that update it (R209). -/
def accessAt (x : Core) (f : MFmt) : Nat :=
  if f.mode = 0 then (x.rg f.a + f.off.signExtend 32 * BitVec.ofNat 32 (accessBytes f.sz)).toNat else (x.rg f.a).toNat

/-- The circular buffer of an access in mode 2: base and length; a length of 0 is no buffer (R209, R210). -/
def ringOf (x : Core) (f : MFmt) : Nat × Nat := ((vget x.cbBase f.cb.toNat 0).toNat, (vget x.cbLen f.cb.toNat 0).toNat)

/-- An access in mode 2 lies in its circular buffer, where there is one (R209). -/
abbrev InRing (x : Core) (f : MFmt) : Prop :=
  f.mode = 2 → (ringOf x f).2 ≠ 0 → (ringOf x f).1 ≤ accessAt x f
    ∧ accessAt x f + accessBytes f.sz ≤ (ringOf x f).1 + (ringOf x f).2

/-- gA after an access: none in mode 0, where it stays; else plus the scaled offset, modulo the circular buffer (R209). -/
def pointerNext (x : Core) (f : MFmt) : Option (BitVec 32) :=
  let to' := (accessAt x f : Int) + f.off.toInt * accessBytes f.sz
  if f.mode = 0 then none
  else if f.mode = 2 ∧ (ringOf x f).2 ≠ 0 then
    some (BitVec.ofInt 32 ((ringOf x f).1 + (to' - (ringOf x f).1) % ((ringOf x f).2 : Int)))
  else some (BitVec.ofInt 32 to')

/-- The update of gA by an access. -/
def pointerEffs (x : Core) (f : MFmt) : List Eff := ((pointerNext x f).map (Eff.wg f.a)).toList

/-- The registers that an access with an updated pointer writes besides its data. -/
def pointerWrites (f : MFmt) : List WReg := if f.mode = 0 then [] else [.g f.a.toNat]

/-! ## Vector instructions -/

/-- A part of w bits with its clip mark: clipped in saturating forms, wrapped in plain ones (R237, R238). -/
def narrow (sat : Bool) (w : Nat) (v : Int) : Nat × Bool :=
  if sat then (unsgn w (clampTo w v), decide (clampTo w v ≠ v)) else (unsgn w v, false)

/-- The registers that a vector instruction names are operands of its kind, a wide one spanning twice the registers
(R228, R251, R253). -/
abbrev VNames (x : Core) (f : VFmt) (regs : List (BitVec 5 × Bool)) : Prop := ∀ r ∈ regs, opOk x f.u r.2 r.1 = true

/-- A vector instruction replaces each active element of its destination, of e bits, by what `op` gives for it, leaves the
others as they were, and sets CSTAT.SAT when an active element clipped (R231, R232, R236, R237). -/
def VWrites (s : State) (c : Nat) (f : VFmt) (wide : Bool) (e : Nat) (op : Nat → Nat × Bool) (r : Res) : Prop :=
  let x := s.core c
  let n := regsOf f.u x.grp wide
  ∃ (v : Nat) (clip : Bool),
    Issues s c f.stop { cls := .vec, effs := toV f.u f.d n (v, clip) } r
    ∧ (∀ i, x.active f.u f.pm f.k i = true → elemAt e v i = (op i).1 % 2 ^ e)
    ∧ (∀ i, x.active f.u f.pm f.k i = false → elemAt e v i = elemAt e (x.vop f.u f.d.toNat n) i)
    ∧ (clip = true ↔ ∃ i, x.active f.u f.pm f.k i = true ∧ (op i).2 = true)

/-- The second operand of majors 0x18 and 0x19: an element of vB, or gB (its pair for 64-bit elements) (R252). -/
def operandB (x : Core) (sc : Bool) (f : VFmt) (i : Nat) : Nat :=
  if sc then (if x.ty.e = 64 then (x.rg f.b).toNat + (x.rg (f.b + 1)).toNat * 2 ^ 32 else (x.rg f.b).toNat % 2 ^ x.ty.e)
  else vel x f.u false f.b i

/-- A binary operation of majors 0x18 and 0x19: it writes its elements where its type is permitted and its fields name
operands; elsewhere it raises ILLEGAL, with SUB 0, or 4 for an odd pair (R251, R252). -/
def VBinary (s : State) (c : Nat) (sc : Bool) (f : VFmt) (permitted : VTy → Prop) (op : VTy → Nat → Nat → Nat × Bool)
    (r : Res) : Prop :=
  let x := s.core c
  let legal := permitted x.ty ∧ VNames x f ((f.d, false) :: (f.a, false) :: if sc then [] else [(f.b, false)])
  let oddPair := sc = true ∧ x.ty.e = 64 ∧ f.b.getLsbD 0 = true
  (legal → ¬oddPair →
    VWrites s c f false x.ty.e (fun i => op x.ty (vel x f.u false f.a i) (operandB x sc f i)) r)
  ∧ (¬legal → Raises s c f.stop .vec 0x01 0 r) ∧ (legal → oddPair → Raises s c f.stop .vec 0x01 4 r)

/-- A unary operation of majors 0x18 and 0x19: B is zero (R252). -/
def VUnary (s : State) (c : Nat) (f : VFmt) (permitted : VTy → Prop) (op : VTy → Nat → Nat × Bool) (r : Res) : Prop :=
  let x := s.core c
  let legal := permitted x.ty ∧ VNames x f [(f.d, false), (f.a, false)] ∧ f.b = 0
  (legal → VWrites s c f false x.ty.e (fun i => op x.ty (vel x f.u false f.a i)) r)
  ∧ (¬legal → Raises s c f.stop .vec 0x01 0 r)

/-- An operation on each part of an element: the parts as signed integers, the exact result of each narrowed (R237). -/
def eachPart (sat : Bool) (g : Nat → Int → Int → Int) (t : VTy) (a b : Nat) : Nat × Bool :=
  let r := List.zipWith (fun p q => narrow sat t.w (g t.w (sgn t.w p) (sgn t.w q))) (partsOf t a) (partsOf t b)
  (ofParts t (r.map (·.1)), r.any (·.2))

/-- An operation on the bits of each part, whose result needs no narrowing. -/
def eachPartBits (g : Nat → Nat → Nat → Nat) (t : VTy) (a b : Nat) : Nat × Bool :=
  (ofParts t (List.zipWith (g t.w) (partsOf t a) (partsOf t b)), false)

/-- A shift of each part by the low 6 bits of the part of vB, or by gB[5:0] (R252). -/
def VShift (s : State) (c : Nat) (sc : Bool) (f : VFmt) (op : Nat → Nat → Nat → Nat × Bool) (r : Res) : Prop :=
  let x := s.core c
  let legal := VNames x f ((f.d, false) :: (f.a, false) :: if sc then [] else [(f.b, false)])
  let amounts (i : Nat) : List Nat :=
    if sc then (partsOf x.ty 0).map fun _ => (x.rg f.b).toNat % 64 else (partsOf x.ty (vel x f.u false f.b i)).map (· % 64)
  (legal → VWrites s c f false x.ty.e (fun i =>
      let p := List.zipWith (op x.ty.w) (partsOf x.ty (vel x f.u false f.a i)) (amounts i)
      (ofParts x.ty (p.map (·.1)), p.any (·.2))) r)
  ∧ (¬legal → Raises s c f.stop .vec 0x01 0 r)

/-- A complex element from two exact parts, each narrowed (R238). -/
def complexOf (sat : Bool) (w : Nat) (re im : Int) : Nat × Bool :=
  let p := narrow sat w re
  let q := narrow sat w im
  (p.1 % 2 ^ w + q.1 % 2 ^ w * 2 ^ w, p.2 || q.2)

/-- The exact product of two complex elements, the second conjugated where said (R238). -/
def complexProduct (conj : Bool) (a b : Int × Int) : Int × Int :=
  if conj then (a.1 * b.1 + a.2 * b.2, a.2 * b.1 - a.1 * b.2) else (a.1 * b.1 - a.2 * b.2, a.1 * b.2 + a.2 * b.1)

/-- A vector memory instruction: where its encoding is legal it carries its element addresses into its bundle and enters the
vector queue when the bundle commits; elsewhere it raises ILLEGAL (R241, R242, R244, R254). -/
def VMemory (s : State) (c : Nat) (f : VMFmt) (store first index : Bool) (addr : Nat → Int) (r : Res) : Prop :=
  let x := s.core c
  let legal := f.low = 0 ∧ opOk x f.u false f.d = true ∧ (index = true → opOk x f.u false f.b = true)
    ∧ (first = true → f.u = true)
  let op : VMemOp := { store, first, wide := f.u, reg := f.d.toNat, ebytes := x.ty.e / 8, grp := regsOf f.u x.grp false
                       pc := x.pc + 4 * x.bundle.count, made := x.commits + 1
                       elems := (List.range (x.span' f.u)).map fun i => (addr i, x.active f.u f.pm f.k i) }
  (legal → Adds s c f.stop { cls := .vec, effs := [.vmem op] } r)
  ∧ (legal → f.stop = true → Opens s c →
      r = .next (s.setCore c { committed x [] with vq := [if store then .store else .load], vpend := some op }))
  ∧ (¬legal → Raises s c f.stop .vec 0x01 0 r)

/-- An active element of a vector memory instruction can be carried out in TCM. -/
abbrev ElementGood (s : State) (c : Nat) (op : VMemOp) (a : Int) : Prop :=
  0 ≤ a ∧ a % (op.ebytes : Int) = 0 ∧ TcmGood s c a.toNat op.ebytes

/-! ## Cleip requests -/

/-- The state in which a request is served: counted, a request on MS having matched its address, and on MS and FP a response
not yet read having given way (R462, R463, R504). -/
def taken (s : State) (r : CleipReq) : State :=
  let t := (if r.src.carrier = 2 then msMatch s else s).bump keyCleipRx 1
  if r.src.carrier < 2 then t else setSerial t r.src.carrier { serial t r.src.carrier with response := none }

/-- A request of an operation is served at once: its carrier is open and not busy, its frame is good, its header is one of
R464, no response
to the same request is held, and no request of its requester is in service (R460 to R467). -/
abbrev Served (s : State) (op : Nat) (r : CleipReq) : Prop :=
  r.src.carrier < 4 ∧ (r.src.carrier < 2 → ethOpen s r.src = true ∧ cleipFrameOk s r = true)
    ∧ (r.src.carrier = 2 → msStores s = false ∧ mgmtUp s = true ∧ serialBusy (msMatch s) 2 = false)
    ∧ (r.src.carrier = 3 → fpCleip s = true ∧ serialBusy s 3 = false)
    ∧ r.version = 1 ∧ r.resp = false ∧ heldFor (taken s r) op r = none ∧ inService (taken s r) r.src = false

/-- The write that a WRITE request proposes: its object, role, value and bytes. -/
def proposed (r : CleipReq) : WReq := reqWrite r 0 (r.body.take r.length)

/-- A WRITE of object k reaches the rule of its object: it is served, its status so far is OK, and its value has the type
and lies in the range of the table (R475, R478, R479). -/
abbrev Reaches (s : State) (r : CleipReq) (k : Nat) : Prop :=
  Served s 2 r ∧ reqKey r = k ∧ r.last = false ∧ preStatus (taken s r) 2 r = csOk
    ∧ ∃ row, objRow (k / 256) (k % 256) = some row ∧ fitsType (taken s r) row k false (proposed r).data = true
        ∧ inTable row (proposed r).val = true

/-- A last segment of a block write of object k is served, its status so far OK (R469, R475). -/
abbrev LastSegment (s : State) (r : CleipReq) (k : Nat) : Prop :=
  Served s 4 r ∧ reqKey r = k ∧ isDomain k = true ∧ r.last = true ∧ preStatus (taken s r) 4 r = csOk

/-- How a write of object k comes to the rule of its object: by a WRITE, by a block write of one segment, or by the last of
several segments; with the operation, the state in which it is applied and the write that it proposes (R469 to R471). -/
inductive Proposes (s : State) (r : CleipReq) (k : Nat) : Nat → State → WReq → Prop where
  | whole (h : Reaches s r k) : Proposes s r k 2 (taken s r) (proposed r)
  | segment (h : LastSegment s r k) (few : (taken s r).cleip.blocks.length < 4)
      (free : ∀ b ∈ (taken s r).cleip.blocks, b.key ≠ k) (start : isVariable k = true → r.offset = 0) :
      Proposes s r k 4 (taken s r) (reqWrite r r.offset (r.body.take r.length))
  | staged (b : BlockWrite) (h : LastSegment s r k)
      (mine : (taken s r).cleip.blocks.find? (fun b => decide (b.key = k) && sameReq b.requester r.src) = some b)
      (next : r.offset = b.start + b.data.length) (start : isVariable k = true → b.start = 0) :
      Proposes s r k 4 (closeBlock (taken s r) k) (reqWrite r b.start (b.data ++ r.body.take r.length))

/-- What a row that writes object k answers: its rule is applied, what follows from it follows, the write is audited, and
its response is sent and held (R468, R470, R476, R489, R503). -/
def Written (s : State) (r : CleipReq) (k : Nat) (rule : State → WReq → Applied) (x : Res) : Prop :=
  ∀ op t w, Proposes s r k op t w → x = .next (endWrite t op r w (afterWrite t k (rule t w)))

/-- The commands that are rows for a WRITE of objects of their own, each with the objects it writes (R476). -/
inductive RowOf (r : CleipReq) : (Nat → Bool) → Instr → Prop where
  | fwUpdateCmd : RowOf r (fun k => decide (k = keyFwUpdateCmd)) (.fwUpdateCmd r)
  | takeoverCmd : RowOf r (fun k => decide (k = keyTakeoverCmd)) (.takeoverCmd r)
  | buddyRelease : RowOf r (fun k => decide (k = keyBuddyRelease)) (.buddyRelease r)
  | regionRestore : RowOf r (fun k => decide (k = keyRegionRestore)) (.regionRestore r)
  | regionRetire : RowOf r (fun k => decide (k = keyRegionRetire)) (.regionRetire r)
  | overcastMask : RowOf r (fun k => decide (k = keyOvercastMask)) (.overcastMask r)
  | queueReset : RowOf r (fun k => decide (k = keyQueueReset)) (.queueReset r)
  | queueConfig : RowOf r (fun k => decide (k = keyQueueConfig)) (.queueConfig r)
  | poolConfig : RowOf r isPoolSetting (.poolConfig r)
  | resultStoreConfig : RowOf r isResultSetting (.resultStoreConfig r)
  | cellConfig : RowOf r (fun k => decide (k = keyCellConfig)) (.cellConfig r)
  | migrateCmd : RowOf r (fun k => decide (k = keyMigrateCmd)) (.migrateCmd r)
  | admitProbe : RowOf r (fun k => decide (k = keyAdmitProbe)) (.admitProbe r)
  | kernelTable : RowOf r (fun k => decide (k = keyKernelTable)) (.kernelTable r)
  | policyBound : RowOf r isPolicyBound (.policyBound r)
  | objectWrite : RowOf r (fun k => !hasRow k) (.objectWrite r)
  | carrierIdWrite : RowOf r isCarrierId (.carrierIdWrite r)
  | makerLockBlow : RowOf r (fun k => decide (k = keyMakerLockBlow)) (.makerLockBlow r)
  | auditExported : RowOf r (fun k => decide (k = keyAuditExported)) (.auditExported r)
  | keyLoadPlain : RowOf r (fun k => decide (k = keyKeyLoadPlain)) (.keyLoadPlain r)
  | keyLoadWrapped : RowOf r (fun k => decide (k = keyKeyLoadWrapped)) (.keyLoadWrapped r)
  | keyErase : RowOf r (fun k => decide (k = keyKeyErase)) (.keyErase r)
  | cipherLock : RowOf r (fun k => decide (k = keyCipherLock)) (.cipherLock r)
  | cipherLockBoot : RowOf r (fun k => decide (k = keyCipherLockBoot)) (.cipherLockBoot r)
  | configBackupRestore : RowOf r (fun k => decide (k = keyConfigBackup)) (.configBackupRestore r)
  | fwImage : RowOf r (fun k => decide (k = keyFwImage)) (.fwImage r)
  | nbConfigWrite : RowOf r isNbSetting (.nbConfigWrite r)
  | groupEnable : RowOf r (fun k => decide (k = keyGroupEnable)) (.groupEnable r)
  | laneCmdSlip : RowOf r (fun k => decide (k = keyLaneCmd) && decide (laneCode r ≠ 2) && decide (laneCode r ≠ 3)) (.laneCmdSlip r)
  | laneCmdDrain : RowOf r (fun k => decide (k = keyLaneCmd) && decide (laneCode r = 2)) (.laneCmdDrain r)
  | laneCmdRestore : RowOf r (fun k => decide (k = keyLaneCmd) && decide (laneCode r = 3)) (.laneCmdRestore r)
  | laneConfig : RowOf r (fun k => decide (k = keyLaneConfig)) (.laneConfig r)
  | linkConfig : RowOf r (fun k => decide (k = keyLinkConfig)) (.linkConfig r)
  | tdContainers : RowOf r (fun k => decide (k = keyTdContainers)) (.tdContainers r)
  | anvilPoolRole : RowOf r (fun k => decide (k = keyAnvilPoolRole)) (.anvilPoolRole r)
  | fhCell : RowOf r (fun k => decide (k = keyFhCell)) (.fhCell r)
  | tdLanding : RowOf r (fun k => decide (k = keyTdLanding)) (.tdLanding r)
  | dramConfig : RowOf r (fun k => decide (k = keyDramConfig)) (.dramConfig r)
  | timingSetWrite : RowOf r (fun k => decide (k = keyTsa) || decide (k = keyTsb)) (.timingSetWrite r)
  | dramDelays : RowOf r (fun k => decide (k = keyDramDelays)) (.dramDelays r)
  | dramFreqCmd : RowOf r (fun k => decide (k = keyDramFreqCmd)) (.dramFreqCmd r)
  | timeSet : RowOf r (fun k => decide (k = keyTimeSet)) (.timeSet r)
  | adjust : RowOf r (fun k => decide (k = keyAdjust)) (.adjust r)
  | increment : RowOf r (fun k => decide (k = keyIncrement)) (.increment r)
  | activeDomain : RowOf r (fun k => decide (k = keyActiveDomain)) (.activeDomain r)
  | timeRefSel : RowOf r (fun k => decide (k = keyTimeRefSel)) (.timeRefSel r)
  | ptpDomain : RowOf r (fun k => decide (k = keyPtpDomain 0) || decide (k = keyPtpDomain 1)) (.ptpDomain r)
  | tcDomains : RowOf r (fun k => decide (k = keyTcDomains)) (.tcDomains r)
  | moduleMap : RowOf r (fun k => decide (k = keyModuleMap)) (.moduleMap r)
  | opticsCmdDrain : RowOf r (fun k => decide (k = keyOpticsCmd) && decide (opticsCode r ≠ 2)) (.opticsCmdDrain r)
  | opticsCmdRestore : RowOf r (fun k => decide (k = keyOpticsCmd) && decide (opticsCode r = 2)) (.opticsCmdRestore r)
  | powerTarget : RowOf r (fun k => decide (k = keyPowerTarget)) (.powerTarget r)
  | deepCmd : RowOf r (fun k => decide (k = keyDeepCmd)) (.deepCmd r)
  | resetCmdWarm : RowOf r (fun k => decide (k = keyResetCmd) && decide (reqVal r ≠ 2)) (.resetCmdWarm r)
  | resetCmdCold : RowOf r (fun k => decide (k = keyResetCmd) && decide (reqVal r = 2)) (.resetCmdCold r)
  | buddy (answer : Option (Nat × Nat)) : RowOf r (fun k => decide (k = keyBuddy)) (.buddy r answer)

end Sys2Proof.Machine
end

