-- ==== Sys2Proof/Certificates/Slice0/Obligations.lean ====
section
/-!
DEFINITION. The statements about the model, for the provers.
-/
open Sys2Proof
open Sys2Proof.Machine

/-! ## Scalar instructions (R209 to R224) -/

/-- R218, R211, R212: every operation of the ALU group writes its result to gD from the values gA and gB have before the
bundle; the saturating forms clip to 32 bits and set CSTAT.SAT when they do; nothing else changes. R218, R212: the four
one-operand forms with B zero; with B not zero (reserved) they raise ILLEGAL with SUB 0 (DEDUCED from R217). The model's
own readings in it: log entries 22, 23 and 70. -/
def Obligations.AluOperationsWriteTheirResult : Prop :=
  (
    ∀ (s : State) (c : Nat) (f : AFmt),
      let a := (s.core c).rg f.a
      let b := (s.core c).rg f.b
      let n := b.toNat % 32
      let puts (v : BitVec 32) (r : Res) : Prop := Issues s c f.stop (Iss.toG f.d (v, false)) r
      let clips (v : Int) (r : Res) : Prop := Issues s c f.stop (Iss.toG f.d (clamp32 v)) r
      puts (a + b) (exec (.add c f) s) ∧ puts (a - b) (exec (.sub c f) s)
      ∧ clips (a.toInt + b.toInt) (exec (.adds c f) s) ∧ clips (a.toInt - b.toInt) (exec (.subs c f) s)
      ∧ puts (a &&& b) (exec (.and c f) s) ∧ puts (a ||| b) (exec (.or c f) s) ∧ puts (a ^^^ b) (exec (.xor c f) s)
      ∧ puts (a &&& ~~~b) (exec (.andn c f) s)
      ∧ puts (a <<< n) (exec (.sll c f) s) ∧ puts (a >>> n) (exec (.srl c f) s) ∧ puts (a.sshiftRight n) (exec (.sra c f) s)
      ∧ clips (a.toInt * 2 ^ n) (exec (.slls c f) s)
      ∧ puts (if a.toInt < b.toInt then 1 else 0) (exec (.slt c f) s)
      ∧ puts (if a.toNat < b.toNat then 1 else 0) (exec (.sltu c f) s)
      ∧ puts (BitVec.ofInt 32 (min a.toInt b.toInt)) (exec (.min c f) s)
      ∧ puts (BitVec.ofInt 32 (max a.toInt b.toInt)) (exec (.max c f) s)
      ∧ puts (BitVec.ofNat 32 (min a.toNat b.toNat)) (exec (.minu c f) s)
      ∧ puts (BitVec.ofNat 32 (max a.toNat b.toNat)) (exec (.maxu c f) s)
      ∧ puts (BitVec.ofInt 32 (a.toInt * b.toInt)) (exec (.mul c f) s)
      ∧ puts (BitVec.ofInt 32 (a.toInt * b.toInt / 2 ^ 32)) (exec (.mulh c f) s)
      ∧ puts (BitVec.ofNat 32 (a.toNat * b.toNat / 2 ^ 32)) (exec (.mulhu c f) s)
      ∧ clips (a.toInt * b.toInt) (exec (.muls c f) s))
  ∧ (
    ∀ (s : State) (c : Nat) (f : AFmt),
      let a := (s.core c).rg f.a
      (f.b = 0 →
        Issues s c f.stop (Iss.toG f.d (BitVec.ofInt 32 (max a.toInt (-a.toInt)), false)) (exec (.abs c f) s)
        ∧ Issues s c f.stop (Iss.toG f.d (clamp32 (max a.toInt (-a.toInt)))) (exec (.abss c f) s)
        ∧ Issues s c f.stop (Iss.toG f.d (-a, false)) (exec (.neg c f) s)
        ∧ Issues s c f.stop (Iss.toG f.d (clamp32 (-a.toInt))) (exec (.negs c f) s))
      ∧ (f.b ≠ 0 → Raises s c f.stop .scalar 0x01 0 (exec (.abs c f) s) ∧ Raises s c f.stop .scalar 0x01 0 (exec (.abss c f) s)
        ∧ Raises s c f.stop .scalar 0x01 0 (exec (.neg c f) s) ∧ Raises s c f.stop .scalar 0x01 0 (exec (.negs c f) s)))

/-- R217: immediates are sign-extended by ADDI and zero-extended by the logical forms; LUI places its immediate in the upper
half (DEDUCED, assumption 20); the shifts take their amount from the B field. R219, R211, R212: the accumulators take the
exact product of the named halves, added to or subtracted from their 40 bits; ACCLD shifts left, ACCX and ACCX16 narrow a
right shift with floor, ACCCLR clears. The model's own readings in it: log entry 20. -/
def Obligations.ImmediateAndAccumulatorFormsFollowTheRules : Prop :=
  (
    ∀ (s : State) (c : Nat) (i : IFmt) (f : AFmt),
      let a := (s.core c).rg i.a
      let b := (s.core c).rg f.a
      let n := f.b.toNat
      let puts (v : BitVec 32) (r : Res) : Prop := Issues s c i.stop (Iss.toG i.d (v, false)) r
      let shifts (v : BitVec 32) (r : Res) : Prop := Issues s c f.stop (Iss.toG f.d (v, false)) r
      puts (a + i.imm.signExtend 32) (exec (.addi c i) s) ∧ puts (a &&& i.imm.zeroExtend 32) (exec (.andi c i) s)
      ∧ puts (a ||| i.imm.zeroExtend 32) (exec (.ori c i) s) ∧ puts (a ^^^ i.imm.zeroExtend 32) (exec (.xori c i) s)
      ∧ puts (i.imm ++ (0 : BitVec 16)) (exec (.lui c i) s)
      ∧ shifts (b <<< n) (exec (.sllImmediate c f) s) ∧ shifts (b >>> n) (exec (.srlImmediate c f) s)
      ∧ shifts (b.sshiftRight n) (exec (.sraImmediate c f) s)
      ∧ Issues s c f.stop (Iss.toG f.d (clamp32 (b.toInt * 2 ^ n))) (exec (.sllsImmediate c f) s))
  ∧ (
    ∀ (s : State) (c : Nat) (f : AccFmt),
      let x := s.core c
      let lo (r : BitVec 5) : Int := ((x.rg r).extractLsb 15 0).toInt
      let hi (r : BitVec 5) : Int := ((x.rg r).extractLsb 31 16).toInt
      let z := (x.ra f.acc).toInt
      let y := z / 2 ^ f.k.toNat
      Issues s c f.stop (accResult f.acc f.sat (z + lo f.a * lo f.b)) (exec (.mac c f) s)
      ∧ Issues s c f.stop (accResult f.acc f.sat (z - lo f.a * lo f.b)) (exec (.msu c f) s)
      ∧ Issues s c f.stop (accResult f.acc f.sat (z + hi f.a * hi f.b)) (exec (.machh c f) s)
      ∧ Issues s c f.stop (accResult f.acc f.sat ((x.rg f.a).toInt * 2 ^ f.k.toNat)) (exec (.accld c f) s)
      ∧ Issues s c f.stop (Iss.toG f.d (if f.sat then clamp32 y else (BitVec.ofInt 32 y, false))) (exec (.accx c f) s)
      ∧ Issues s c f.stop (Iss.toG f.d (if f.sat then (BitVec.ofInt 32 (clampTo 16 y), decide (clampTo 16 y ≠ y))
          else ((BitVec.ofInt 16 y).signExtend 32, false))) (exec (.accx16 c f) s)
      ∧ Issues s c f.stop (accResult f.acc false 0) (exec (.accclr c f) s))

/-- R213, R214, R220: a min/max with index replaces gD and gD+1 by gA and gB when gA is strictly beyond gD, and keeps them
otherwise; the block exponents write redundant sign bits; SAT16 clips. FN[5:0] not zero raises ILLEGAL SUB 0, an odd pair
ILLEGAL SUB 4. The model's own readings in it: log entry 21. -/
def Obligations.IndexAndExponentOperationsFollowTheRules : Prop :=
  ∀ (s : State) (c : Nat) (f : IxFmt),
    let x := s.core c
    let a := x.rg f.a
    let d := x.rg f.d
    let keeps (beyond : Prop) (r : Res) : Prop :=
      (f.low = 0 → f.d.getLsbD 0 = false →
        (beyond → Issues s c f.stop { writes := [.g f.d.toNat, .g (f.d + 1).toNat]
                                      effs := [.wg f.d a, .wg (f.d + 1) (x.rg f.b)] } r)
        ∧ (¬beyond → Issues s c f.stop { writes := [.g f.d.toNat, .g (f.d + 1).toNat] } r))
      ∧ (f.low ≠ 0 → Raises s c f.stop .scalar 0x01 0 r)
      ∧ (f.low = 0 → f.d.getLsbD 0 = true → Raises s c f.stop .scalar 0x01 4 r)
    keeps (d.toInt < a.toInt) (exec (.maxix c f) s) ∧ keeps (a.toInt < d.toInt) (exec (.minix c f) s)
    ∧ keeps (d.toNat < a.toNat) (exec (.maxux c f) s) ∧ keeps (a.toNat < d.toNat) (exec (.minux c f) s)
    ∧ (f.low = 0 → ∃ n, signBits 32 n a.toInt
        ∧ Issues s c f.stop (Iss.toG f.d (BitVec.ofNat 32 n, false)) (exec (.bexp c f) s)
        ∧ Issues s c f.stop (Iss.toG f.d (BitVec.ofInt 32 (min d.toInt n), false)) (exec (.bexpm c f) s))
    ∧ (f.low = 0 → f.b.toNat < 4 → ∃ n, signBits 40 n (x.ra (f.b.setWidth 2)).toInt
        ∧ Issues s c f.stop (Iss.toG f.d (BitVec.ofInt 32 ((n : Int) - 8), false)) (exec (.bexpa c f) s))
    ∧ (f.low = 0 → Issues s c f.stop (Iss.toG f.d (BitVec.ofInt 32 (clampTo 16 a.toInt),
        decide (clampTo 16 a.toInt ≠ a.toInt))) (exec (.sat16 c f) s))
    ∧ (f.low ≠ 0 → Raises s c f.stop .scalar 0x01 0 (exec (.bexp c f) s) ∧ Raises s c f.stop .scalar 0x01 0 (exec (.bexpm c f) s)
        ∧ Raises s c f.stop .scalar 0x01 0 (exec (.bexpa c f) s) ∧ Raises s c f.stop .scalar 0x01 0 (exec (.sat16 c f) s))
    ∧ (4 ≤ f.b.toNat → Raises s c f.stop .scalar 0x01 0 (exec (.bexpa c f) s))

/-- R197, R215, R216: a branch taken goes OFF words from the branch and ends a loop level whose body it leaves; not taken the
next bundle follows; BAL writes the address of the next bundle to g31; JR goes to the address in gA. R215: LOOP sets the
count, start and end of its level; a count of zero skips the body; a level already running raises ILLEGAL with SUB 3. The
model's own readings in it: log entries 22, 80 and 81. -/
def Obligations.BranchesAndLoopsGoWhereTheRulesSay : Prop :=
  (
    ∀ (s : State) (c : Nat) (stop : Bool) (a : BitVec 5) (off : BitVec 18) (far : BitVec 25),
      let x := s.core c
      let v := x.rg a
      let here := BitVec.ofNat 32 (x.pc + 4 * x.bundle.count)
      let to' := (here + far.signExtend 32 * 4).toNat
      BranchesIf s c stop off (v.toInt = 0) (exec (.beqz c stop a off) s)
      ∧ BranchesIf s c stop off (v.toInt ≠ 0) (exec (.bnez c stop a off) s)
      ∧ BranchesIf s c stop off (v.toInt < 0) (exec (.bltz c stop a off) s)
      ∧ BranchesIf s c stop off (0 ≤ v.toInt) (exec (.bgez c stop a off) s)
      ∧ BranchesIf s c stop off (0 < v.toInt) (exec (.bgtz c stop a off) s)
      ∧ BranchesIf s c stop off (v.toInt ≤ 0) (exec (.blez c stop a off) s)
      ∧ Goes s c stop { flow := true, effs := [.goto to'] } x to' (exec (.br c stop far) s)
      ∧ Goes s c stop { writes := [.g 31], flow := true, effs := [.goto to', .link] }
          (x.setG 31 (BitVec.ofNat 32 (x.pc + 4))) to' (exec (.bal c stop far) s)
      ∧ Goes s c stop { flow := true, effs := [.goto v.toNat] } x v.toNat (exec (.jr c stop a) s))
  ∧ (
    ∀ (s : State) (c : Nat) (stop : Bool) (a : BitVec 5) (lvl : Bool) (last : BitVec 20),
      let x := s.core c
      let i := if lvl then 1 else 0
      let n := x.rg a
      let last' := x.pc + 4 * x.bundle.count + 4 * last.toNat
      let iss : Iss := { writes := [.ctl (0x010 + 4 * i), .ctl (0x011 + 4 * i), .ctl (0x012 + 4 * i)], flow := true
                         effs := [.loop lvl n last'] }
      let y := { x with lpcnt := vput x.lpcnt i n, lpstart := vput x.lpstart i (BitVec.ofNat 32 (x.pc + 4))
                        lpend := vput x.lpend i (BitVec.ofNat 32 last'), bundle := Bundle.init, commits := x.commits + 1 }
      (vget x.lpcnt i 0 = 0 →
        Adds s c stop iss (exec (.loop c stop a lvl last) s)
        ∧ (stop = true → Opens s c → exec (.loop c stop a lvl last) s
            = .next (s.setCore c { y with pc := if n = 0 then afterBundle s c last' else x.pc + 4 })))
      ∧ (vget x.lpcnt i 0 ≠ 0 → Raises s c stop .scalar 0x01 3 (exec (.loop c stop a lvl last) s)))

/-- R209, R210, R216, R223: LD from TCM, whose access its complete bundle makes, writes the little-endian value at its
address, sign- or zero-extended, with the pointer update of its mode; outside its circular buffer or unaligned it raises
ALIGN with the address in EADDR. R206, R209, R224: ST joins its bundle with its store; to TCM it stores the low bytes of
gD (the pair for 8 bytes) at its address when its bundle commits, least significant byte first, with the pointer update of
its mode; every other byte of the core's TCM, every byte outside it, and every register but the pointer stay. The model's
own readings in it: log entries 22, 70 and 81. -/
def Obligations.LoadsAndStoresAccessTcmAndUpdateTheirPointer : Prop :=
  (
    ∀ (s : State) (c : Nat) (f : MFmt), AccessEncoded f false →
      let x := s.core c
      let n := accessBytes f.sz
      let ea := accessAt x f
      let v := tcmWord s c ea n
      let data : List Eff :=
        if f.sz = 5 then [.wg f.d (BitVec.ofNat 32 v), .wg (f.d + 1) (BitVec.ofNat 32 (v / 2 ^ 32))]
        else if f.sz = 1 then [.wg f.d ((BitVec.ofNat 8 v).signExtend 32)]
        else if f.sz = 3 then [.wg f.d ((BitVec.ofNat 16 v).signExtend 32)]
        else [.wg f.d (BitVec.ofNat 32 v)]
      let writes := (if f.sz = 5 then [.g f.d.toNat, .g (f.d + 1).toNat] else [.g f.d.toNat]) ++ pointerWrites f
      (InRing x f → ea % n = 0 →
        Adds s c f.stop { cls := .mem, writes, effs := [.load f ea n (pointerNext x f)] } (exec (.ld c f) s)
        ∧ (f.stop = true → Opens s c → TcmGood s c ea n →
            exec (.ld c f) s = .next (s.setCore c (committed x (data ++ pointerEffs x f)))))
      ∧ (¬InRing x f → RaisesAtExecute s c f.stop { cls := .mem, writes } 2 0x04 0x01 ea (exec (.ld c f) s))
      ∧ (InRing x f → ea % n ≠ 0 → RaisesAtExecute s c f.stop { cls := .mem, writes } 2 0x04 0x00 ea (exec (.ld c f) s)))
  ∧ (
    ∀ (s : State) (c : Nat) (f : MFmt), AccessEncoded f true →
      let x := s.core c
      let n := accessBytes f.sz
      let ea := accessAt x f
      let v := (x.rg f.d).toNat + (if f.sz = 5 then (x.rg (f.d + 1)).toNat * 2 ^ 32 else 0)
      (InRing x f → ea % n = 0 → ea + n ≤ 0x40000 →
          Adds s c f.stop { cls := .mem, writes := pointerWrites f
                            effs := .store ea n (BitVec.ofNat 64 v) :: pointerEffs x f } (exec (.st c f) s))
      ∧ (f.stop = true → Opens s c → InRing x f → ea % n = 0 → TcmGood s c ea n →
        ∃ t, exec (.st c f) s = .next t
          ∧ (∀ i < n, tcmByte t c (ea + i) = BitVec.ofNat 8 (v / 256 ^ i))
          ∧ (∀ a, a < ea ∨ ea + n ≤ a → a < 0x40000 → tcmByte t c a = tcmByte s c a)
          ∧ (∀ a, a < tcmBase c ∨ tcmBase c + 0x40000 ≤ a → mget t.mem.bytes a = mget s.mem.bytes a)
          ∧ { t.core c with lines := x.lines } = committed x (pointerEffs x f)
          ∧ (∀ j, j ≠ c → t.core j = s.core j) ∧ { t.mem with bytes := s.mem.bytes, bad := s.mem.bad } = s.mem
          ∧ { t with cores := s.cores, mem := s.mem } = s)
      ∧ (¬InRing x f →
          RaisesAtExecute s c f.stop { cls := .mem, writes := pointerWrites f } 2 0x04 0x01 ea (exec (.st c f) s))
      ∧ (InRing x f → ea % n ≠ 0 →
          RaisesAtExecute s c f.stop { cls := .mem, writes := pointerWrites f } 2 0x04 0x00 ea (exec (.st c f) s)))

/-- R216, R201, R210, R217, R221: MOVC reads the control registers when its bundle is complete, MOVTC writes the writable ones
and is ignored by the others, CBSET sets a circular buffer, NOP does nothing, FENCE has the writes of the core's posted
stores issued and then clears them, or where one has failed delivers its error, and TRAP takes its exception; an unlisted
control register or a reserved field that is not zero raises ILLEGAL with SUB 0. The model's own readings in it: log
entries 22, 24 and 70. -/
def Obligations.ControlRegisterAndSystemInstructionsFollowTheRules : Prop :=
  ∀ (s : State) (c : Nat) (stop : Bool) (d a b : BitVec 5) (ctrl : BitVec 10) (m : BitVec 3) (res : BitVec 13) (f : IFmt),
    let x := s.core c
    let n := ctrl.toNat
    let fence : Iss := { effs := [.fence] }
    (ctlListed n = true →
      Adds s c stop { writes := [.g d.toNat], effs := .movc d n :: ctlSync s n } (exec (.movc c stop d ctrl) s)
      ∧ (stop = true → Opens s c → exec (.movc c stop d ctrl) s
          = .next (s.setCore c (committed x (.wg d (ctlRead s c x n) :: ctlSync s n)))))
    ∧ ctlRead s c x 0x002 = x.epc ∧ ctlRead s c x 0x003 = x.ecause ∧ ctlRead s c x 0x004 = x.eaddr
    ∧ ctlRead s c x 0x005 = x.kbase ∧ ctlRead s c x 0x006 = x.klimit
    ∧ ctlRead s c x 0x010 = vget x.lpcnt 0 0 ∧ ctlRead s c x 0x016 = vget x.lpend 1 0
    ∧ ctlRead s c x 0x021 = vget x.cbLen 0 0 ∧ ctlRead s c x 0x080 = BitVec.ofNat 32 x.span
    ∧ (ctlListed n = false → Raises s c stop .scalar 0x01 0 (exec (.movc c stop d ctrl) s)
        ∧ Raises s c stop .scalar 0x01 0 (exec (.movtc c stop a ctrl) s))
    ∧ (n = 0x001 ∨ (0x020 ≤ n ∧ n < 0x030) →
        Issues s c stop { writes := [.ctl n], effs := [.wctl n (x.rg a)] } (exec (.movtc c stop a ctrl) s))
    ∧ (ctlListed n = true → ctlWritable n = false → Issues s c stop {} (exec (.movtc c stop a ctrl) s))
    ∧ (n = 0x010 ∨ n = 0x014 → stop = true → Opens s c → (vget x.lpend 0 0).toNat ≠ x.pc → (vget x.lpend 1 0).toNat ≠ x.pc →
        exec (.movtc c stop a ctrl) s
          = .next (s.setCore c (committed { x with lpcnt := vput x.lpcnt (if n = 0x010 then 0 else 1) (x.rg a) } [])))
    ∧ (res = 0 → Issues s c stop
        { writes := [.ctl (0x020 + 2 * m.toNat), .ctl (0x021 + 2 * m.toNat)]
          effs := [.wctl (0x020 + 2 * m.toNat) (x.rg a), .wctl (0x021 + 2 * m.toNat) (x.rg b)] }
        (exec (.cbset c stop m a b res) s))
    ∧ (res ≠ 0 → Raises s c stop .scalar 0x01 0 (exec (.cbset c stop m a b res) s))
    ∧ (f.d = 0 → Issues s c f.stop {} (exec (.nop c f) s) ∧ Adds s c f.stop fence (exec (.fence c f) s)
        ∧ (f.stop = true → Opens s c →
            let t := issueWhere (s.setCore c { x with bundle := Bundle.init.add fence }) fun e => e.posted.any fun p => decide (p.1 = c)
            ((t.core c).sberr = none → exec (.fence c f) s = .next (t.setCore c (committed (t.core c) [.fence])))
            ∧ ((t.core c).sberr ≠ none → exec (.fence c f) s = .next (deliverFault (beginBundle t c) c)))
        ∧ RaisesAtExecute s c f.stop {} 0 0x06 0 f.imm.toNat (exec (.trap c f) s))
    ∧ (f.d ≠ 0 → Raises s c f.stop .scalar 0x01 0 (exec (.nop c f) s) ∧ Raises s c f.stop .scalar 0x01 0 (exec (.fence c f) s)
        ∧ Raises s c f.stop .scalar 0x01 0 (exec (.trap c f) s) ∧ Raises s c f.stop .scalar 0x01 0 (exec (.tend c f) s))

/-! ## Vector instructions (R226 to R256) -/

/-- R237, R251, R252: the element operations of majors 0x18 and 0x19 on integer parts: each active element takes the exact
result of its parts, wrapped in the plain forms and clipped in the saturating ones. The model's own readings in it: log
entries 23 and 24. -/
def Obligations.VectorElementOperationsFollowTheRules : Prop :=
  ∀ (s : State) (c : Nat) (sc : Bool) (f : VFmt),
    let any' : VTy → Prop := fun _ => True
    let int' : VTy → Prop := fun t => t.cplx = false
    VBinary s c sc f any' (eachPart false fun _ a b => a + b) (exec (.vadd c sc f) s)
    ∧ VBinary s c sc f any' (eachPart false fun _ a b => a - b) (exec (.vsub c sc f) s)
    ∧ VBinary s c sc f any' (eachPart true fun _ a b => a + b) (exec (.vadds c sc f) s)
    ∧ VBinary s c sc f any' (eachPart true fun _ a b => a - b) (exec (.vsubs c sc f) s)
    ∧ VBinary s c sc f any' (eachPartBits fun _ a b => a &&& b) (exec (.vand c sc f) s)
    ∧ VBinary s c sc f any' (eachPartBits fun _ a b => a ||| b) (exec (.vor c sc f) s)
    ∧ VBinary s c sc f any' (eachPartBits fun _ a b => a ^^^ b) (exec (.vxor c sc f) s)
    ∧ VBinary s c sc f any' (eachPartBits fun w a b => a &&& (2 ^ w - 1 - b)) (exec (.vandn c sc f) s)
    ∧ VBinary s c sc f int' (eachPart false fun _ a b => min a b) (exec (.vmin c sc f) s)
    ∧ VBinary s c sc f int' (eachPart false fun _ a b => max a b) (exec (.vmax c sc f) s)
    ∧ VBinary s c sc f int' (eachPartBits fun _ a b => min a b) (exec (.vminu c sc f) s)
    ∧ VBinary s c sc f int' (eachPartBits fun _ a b => max a b) (exec (.vmaxu c sc f) s)
    ∧ VBinary s c sc f int' (eachPart false fun _ a b => a * b) (exec (.vmul c sc f) s)
    ∧ VBinary s c sc f int' (eachPart false fun w a b => a * b / 2 ^ w) (exec (.vmulh c sc f) s)
    ∧ VBinary s c sc f int' (eachPart false fun w a b => a * b / 2 ^ (w - 1)) (exec (.vmulq c sc f) s)
    ∧ VBinary s c sc f int' (eachPart true fun w a b => a * b / 2 ^ (w - 1)) (exec (.vmulqs c sc f) s)
    ∧ VShift s c sc f (fun w a n => narrow false w (a * 2 ^ n)) (exec (.vsll c sc f) s)
    ∧ VShift s c sc f (fun _ a n => (a / 2 ^ n, false)) (exec (.vsrl c sc f) s)
    ∧ VShift s c sc f (fun w a n => narrow false w (sgn w a / 2 ^ n)) (exec (.vsra c sc f) s)
    ∧ VShift s c sc f (fun w a n => narrow true w (sgn w a * 2 ^ n)) (exec (.vslls c sc f) s)
    ∧ VUnary s c f int' (fun t a => eachPart false (fun _ a _ => max a (-a)) t a 0) (exec (.vabs c sc f) s)
    ∧ VUnary s c f int' (fun t a => eachPart true (fun _ a _ => max a (-a)) t a 0) (exec (.vabss c sc f) s)
    ∧ VUnary s c f any' (fun t a => eachPart false (fun _ a _ => -a) t a 0) (exec (.vneg c sc f) s)
    ∧ VUnary s c f any' (fun t a => eachPart true (fun _ a _ => -a) t a 0) (exec (.vnegs c sc f) s)

/-- R238, R251, R252: the complex products take the exact product shifted right by w − 1 with floor, of a with b or with its
conjugate; VCONJ and VMULJ negate and swap parts; VMOV copies and VSPLAT repeats gB. The model's own readings in it: log
entries 23 and 24. -/
def Obligations.VectorComplexAndMoveOperationsFollowTheRules : Prop :=
  ∀ (s : State) (c : Nat) (sc : Bool) (f : VFmt),
    let x := s.core c
    let complex : VTy → Prop := fun t => t.cplx = true
    let product (sat conj : Bool) (t : VTy) (a b : Nat) : Nat × Bool :=
      let p := complexProduct conj (cplxOf t a) (cplxOf t b)
      complexOf sat t.w (p.1 / 2 ^ (t.w - 1)) (p.2 / 2 ^ (t.w - 1))
    VBinary s c sc f complex (product false false) (exec (.vcmul c sc f) s)
    ∧ VBinary s c sc f complex (product true false) (exec (.vcmuls c sc f) s)
    ∧ VBinary s c sc f complex (product false true) (exec (.vcmulj c sc f) s)
    ∧ VBinary s c sc f complex (product true true) (exec (.vcmuljs c sc f) s)
    ∧ VUnary s c f complex (fun t a => complexOf false t.w (cplxOf t a).1 (-(cplxOf t a).2)) (exec (.vconj c sc f) s)
    ∧ VUnary s c f complex (fun t a => complexOf false t.w (-(cplxOf t a).2) (cplxOf t a).1) (exec (.vmulj c sc f) s)
    ∧ (VNames x f [(f.d, false), (f.b, false)] →
        VWrites s c f false x.ty.e (fun i => (vel x f.u false f.b i, false)) (exec (.vmov c f) s))
    ∧ (¬VNames x f [(f.d, false), (f.b, false)] → Raises s c f.stop .vec 0x01 0 (exec (.vmov c f) s))
    ∧ (VNames x f [(f.d, false)] → ¬(x.ty.e = 64 ∧ f.b.getLsbD 0 = true) →
        VWrites s c f false x.ty.e (fun i => (operandB x true f i, false)) (exec (.vsplat c f) s))
    ∧ (VNames x f [(f.d, false)] → x.ty.e = 64 ∧ f.b.getLsbD 0 = true → Raises s c f.stop .vec 0x01 4 (exec (.vsplat c f) s))
    ∧ (¬VNames x f [(f.d, false)] → Raises s c f.stop .vec 0x01 0 (exec (.vsplat c f) s))

/-- R253: the accumulating forms add to or subtract from the old element of vD; the widening forms work at twice the width
without loss; the narrowing forms shift right by gB[5:0] with floor. The model's own readings in it: log entries 23 and
24. -/
def Obligations.VectorAccumulateWidenAndNarrowFollowTheRules : Prop :=
  ∀ (s : State) (c : Nat) (f : VFmt),
    let x := s.core c
    let w := x.ty.w
    let a (i : Nat) : Nat := vel x f.u false f.a i
    let b (i : Nat) : Nat := vel x f.u false f.b i
    let d (i : Nat) : Nat := vel x f.u false f.d i
    let wd (i : Nat) : Nat := vel x f.u true f.d i
    let same := [(f.d, false), (f.a, false), (f.b, false)]
    let widens := [(f.d, true), (f.a, false), (f.b, false)]
    let int3 (sat : Bool) (g : Int → Int → Int → Int) (r : Res) : Prop :=
      (x.ty.cplx = false ∧ VNames x f same →
        VWrites s c f false x.ty.e (fun i => narrow sat w (g (sgn w (d i)) (sgn w (a i)) (sgn w (b i)))) r)
      ∧ (¬(x.ty.cplx = false ∧ VNames x f same) → Raises s c f.stop .vec 0x01 0 r)
    let prod (conj : Bool) (i : Nat) : Int × Int := complexProduct conj (cplxOf x.ty (a i)) (cplxOf x.ty (b i))
    let cplx3 (conj : Bool) (r : Res) : Prop :=
      (x.ty.cplx = true ∧ VNames x f same →
        VWrites s c f false x.ty.e (fun i => complexOf false w ((cplxOf x.ty (d i)).1 + (prod conj i).1 / 2 ^ (w - 1))
          ((cplxOf x.ty (d i)).2 + (prod conj i).2 / 2 ^ (w - 1))) r)
      ∧ (¬(x.ty.cplx = true ∧ VNames x f same) → Raises s c f.stop .vec 0x01 0 r)
    let cplx3s (conj : Bool) (r : Res) : Prop :=
      (x.ty.cplx = true ∧ VNames x f same →
        VWrites s c f false x.ty.e (fun i =>
          let q := ((prod conj i).1 / 2 ^ (w - 1), (prod conj i).2 / 2 ^ (w - 1))
          let z := complexOf true w ((cplxOf x.ty (d i)).1 + clampTo w q.1) ((cplxOf x.ty (d i)).2 + clampTo w q.2)
          (z.1, z.2 || decide (clampTo w q.1 ≠ q.1) || decide (clampTo w q.2 ≠ q.2))) r)
      ∧ (¬(x.ty.cplx = true ∧ VNames x f same) → Raises s c f.stop .vec 0x01 0 r)
    let wide3 (g : Int → Int → Int → Int) (r : Res) : Prop :=
      (x.ty.cplx = false ∧ x.ty.e ≤ 16 ∧ VNames x f widens →
        VWrites s c f true (2 * x.ty.e) (fun i => narrow false (2 * w) (g (sgn (2 * w) (wd i)) (sgn w (a i)) (sgn w (b i)))) r)
      ∧ (¬(x.ty.cplx = false ∧ x.ty.e ≤ 16 ∧ VNames x f widens) → Raises s c f.stop .vec 0x01 0 r)
    let wcplx (conj : Bool) (r : Res) : Prop :=
      (x.ty.cplx = true ∧ w = 16 ∧ VNames x f widens →
        VWrites s c f true (2 * x.ty.e) (fun i => complexOf false 32 (sgn 32 (wd i) + (prod conj i).1)
          (sgn 32 (wd i / 2 ^ 32) + (prod conj i).2)) r)
      ∧ (¬(x.ty.cplx = true ∧ w = 16 ∧ VNames x f widens) → Raises s c f.stop .vec 0x01 0 r)
    let narrows (sat : Bool) (r : Res) : Prop :=
      let p (i : Nat) : List (Nat × Bool) := (partsOf x.ty.wide (vel x f.u true f.a i)).map fun q =>
        narrow sat w (sgn (2 * w) q / 2 ^ ((x.rg f.b).toNat % 64))
      (w ≤ 16 ∧ VNames x f [(f.d, false), (f.a, true)] →
        VWrites s c f false x.ty.e (fun i => (ofParts x.ty ((p i).map (·.1)), (p i).any (·.2))) r)
      ∧ (¬(w ≤ 16 ∧ VNames x f [(f.d, false), (f.a, true)]) → Raises s c f.stop .vec 0x01 0 r)
    int3 false (fun d a b => d + a * b) (exec (.vmac c f) s) ∧ int3 false (fun d a b => d - a * b) (exec (.vmsu c f) s)
    ∧ int3 false (fun d a b => d + a * b / 2 ^ (w - 1)) (exec (.vmacq c f) s)
    ∧ (x.ty.cplx = false ∧ VNames x f same →
        VWrites s c f false x.ty.e (fun i =>
          let q := sgn w (a i) * sgn w (b i) / 2 ^ (w - 1)
          let z := narrow true w (sgn w (d i) + clampTo w q)
          (z.1, z.2 || decide (clampTo w q ≠ q))) (exec (.vmacqs c f) s))
    ∧ (¬(x.ty.cplx = false ∧ VNames x f same) → Raises s c f.stop .vec 0x01 0 (exec (.vmacqs c f) s))
    ∧ cplx3 false (exec (.vcmac c f) s) ∧ cplx3 true (exec (.vcmacj c f) s)
    ∧ cplx3s false (exec (.vcmacs c f) s) ∧ cplx3s true (exec (.vcmacjs c f) s)
    ∧ wide3 (fun _ a b => a * b) (exec (.vwmul c f) s) ∧ wide3 (fun d a b => d + a * b) (exec (.vwmac c f) s)
    ∧ wcplx false (exec (.vwcmac c f) s) ∧ wcplx true (exec (.vwcmacj c f) s)
    ∧ (w ≤ 16 ∧ VNames x f [(f.d, true), (f.a, false)] →
        VWrites s c f true (2 * x.ty.e) (fun i =>
          (ofParts x.ty.wide ((partsOf x.ty (a i)).map fun p => unsgn (2 * w) (sgn w p)), false)) (exec (.vwiden c f) s))
    ∧ (¬(w ≤ 16 ∧ VNames x f [(f.d, true), (f.a, false)]) → Raises s c f.stop .vec 0x01 0 (exec (.vwiden c f) s))
    ∧ narrows false (exec (.vnsra c f) s) ∧ narrows true (exec (.vnsras c f) s)

/-- R236, R251, R255: a compare writes bit i of kD for each active element and leaves the other bits; predicate logic writes
every bit below the bound. The model's own readings in it: log entries 23 and 24. -/
def Obligations.VectorPredicateOperationsFollowTheRules : Prop :=
  ∀ (s : State) (c : Nat) (f : VFmt),
    let x := s.core c
    let compares (permitted : Prop) (p : Nat → Nat → Bool) (r : Res) : Prop :=
      let legal := permitted ∧ VNames x f [(f.a, false), (f.b, false)] ∧ f.d.toNat < 8
      (legal → ∃ k : BitVec 1024, Issues s c f.stop { cls := .vec, effs := [.wk (f.d.setWidth 3) k] } r
        ∧ ∀ i < 1024, k.getLsbD i = if x.active f.u f.pm f.k i then p (vel x f.u false f.a i) (vel x f.u false f.b i)
            else (x.kr f.d.toNat).getLsbD i)
      ∧ (¬legal → Raises s c f.stop .vec 0x01 0 r)
    let logic (named : Prop) (p : Nat → Bool) (r : Res) : Prop :=
      let legal := f.pm = false ∧ f.d.toNat < 8 ∧ named
      (legal → ∃ k : BitVec 1024, Issues s c f.stop { cls := .vec, effs := [.wk (f.d.setWidth 3) k] } r
        ∧ ∀ i < 1024, k.getLsbD i = if i < x.span' f.u then p i else (x.kr f.d.toNat).getLsbD i)
      ∧ (¬legal → Raises s c f.stop .vec 0x01 0 r)
    let ka (i : Nat) : Bool := (x.kr f.a.toNat).getLsbD i
    let kb (i : Nat) : Bool := (x.kr f.b.toNat).getLsbD i
    let e := x.ty.e
    let int' := x.ty.cplx = false
    let two := f.a.toNat < 8 ∧ f.b.toNat < 8
    compares True (fun a b => a == b) (exec (.vcmpeq c f) s) ∧ compares True (fun a b => a != b) (exec (.vcmpne c f) s)
    ∧ compares int' (fun a b => decide (sgn e a < sgn e b)) (exec (.vcmplt c f) s)
    ∧ compares int' (fun a b => decide (sgn e a ≤ sgn e b)) (exec (.vcmple c f) s)
    ∧ compares int' (fun a b => decide (a < b)) (exec (.vcmpltu c f) s)
    ∧ compares int' (fun a b => decide (a ≤ b)) (exec (.vcmpleu c f) s)
    ∧ logic two (fun i => ka i && kb i) (exec (.kand c f) s) ∧ logic two (fun i => ka i || kb i) (exec (.kor c f) s)
    ∧ logic two (fun i => ka i != kb i) (exec (.kxor c f) s) ∧ logic two (fun i => ka i && !kb i) (exec (.kandn c f) s)
    ∧ logic (f.a.toNat < 8) (fun i => !ka i) (exec (.knot c f) s) ∧ logic True (fun _ => true) (exec (.kset c f) s)

/-- R239, R255, R256, R230: reductions give the extreme of the active elements with its lowest index, the least redundant sign
bits and the sum; element moves, predicate counts and VIOTA; SPANSET sets VTYPE and SPAN to min(gA, VLMAX); VMOVHW and
VMOVWH move the low 128 bits; VSYNC changes nothing. The model's own readings in it: log entries 23 and 24. -/
def Obligations.VectorReductionsMovesAndControlFollowTheRules : Prop :=
  ∀ (s : State) (c : Nat) (f : VFmt) (stop : Bool) (d a : BitVec 5) (etype : BitVec 3) (grp : BitVec 2) (res : BitVec 5),
    let x := s.core c
    let e := x.ty.e
    let el (i : Nat) : Nat := vel x f.u false f.b i
    let act (i : Nat) : Prop := x.active f.u f.pm f.k i = true
    let gives (v : BitVec 32) (r : Res) : Prop :=
      Issues s c f.stop { cls := .vec, writes := [.g f.d.toNat], effs := [.wg f.d v, .vsync] } r
    let pair (p q : BitVec 32) (r : Res) : Prop :=
      Issues s c f.stop { cls := .vec, writes := [.g f.d.toNat, .g (f.d + 1).toNat]
                          effs := [.wg f.d p, .wg (f.d + 1) q, .vsync] } r
    let extreme (val : Nat → Int) (ident : Int) (beyond : Int → Int → Prop) (r : Res) : Prop :=
      (x.ty.cplx = false → VNames x f [(f.b, false)] → f.d.getLsbD 0 = false →
        (∀ i, act i → (∀ j, act j → ¬beyond (val j) (val i)) → (∀ j < i, act j → val j ≠ val i) →
          pair (BitVec.ofInt 32 (val i)) (BitVec.ofNat 32 i) r)
        ∧ ((∀ i, ¬act i) → pair (BitVec.ofInt 32 ident) 0xFFFFFFFF r))
      ∧ (¬(x.ty.cplx = false ∧ VNames x f [(f.b, false)]) → Raises s c f.stop .vec 0x01 0 r)
      ∧ (x.ty.cplx = false → VNames x f [(f.b, false)] → f.d.getLsbD 0 = true → Raises s c f.stop .vec 0x01 4 r)
    let ka (i : Nat) : Prop := i < x.span' f.u ∧ (x.kr f.a.toNat).getLsbD i = true
    let plain' := f.u = false ∧ f.pm = false ∧ f.k = 0
    extreme (fun i => sgn e (el i)) (-(2 ^ (e - 1))) (fun p q => q < p) (exec (.vredmaxix c f) s)
    ∧ extreme (fun i => sgn e (el i)) (2 ^ (e - 1) - 1) (fun p q => p < q) (exec (.vredminix c f) s)
    ∧ extreme (fun i => (el i : Int)) 0 (fun p q => q < p) (exec (.vredmaxux c f) s)
    ∧ extreme (fun i => (el i : Int)) (2 ^ e - 1) (fun p q => p < q) (exec (.vredminux c f) s)
    ∧ (VNames x f [(f.b, false)] → ∃ n, gives (BitVec.ofNat 32 n) (exec (.vbexp c f) s) ∧ n ≤ x.ty.w - 1
        ∧ (∀ i, act i → ∀ p ∈ partsOf x.ty (el i), n ≤ rsb x.ty.w p)
        ∧ (n = x.ty.w - 1 ∨ ∃ i, act i ∧ ∃ p ∈ partsOf x.ty (el i), rsb x.ty.w p = n))
    ∧ (x.ty.cplx = false → VNames x f [(f.b, false)] →
        gives (BitVec.ofInt 32 ((List.range (x.span' f.u)).map fun i => if x.active f.u f.pm f.k i then sgn e (el i) else 0).sum)
          (exec (.vredsum c f) s))
    ∧ ((x.ty.cplx = true → x.ty.w = 16) → VNames x f [(f.b, false)] →
        gives (if (x.rg f.a).toNat < x.span' f.u then BitVec.ofInt 32 (sgn e (el (x.rg f.a).toNat)) else 0)
          (exec (.vmvg c f) s))
    ∧ ((x.ty.cplx = true → x.ty.w = 16) → VNames x f [(f.d, false)] →
        VWrites s c f false e (fun i => (if i = (x.rg f.a).toNat then (x.rg f.b).toNat else vel x f.u false f.d i, false))
          (exec (.vmvv c f) s))
    ∧ (f.a.toNat < 8 → ∃ l : List Nat, l.Nodup ∧ (∀ i, i ∈ l ↔ ka i) ∧ gives (BitVec.ofNat 32 l.length) (exec (.kpopc c f) s))
    ∧ (f.a.toNat < 8 → (∀ i, ka i → (∀ j < i, ¬ka j) → gives (BitVec.ofNat 32 i) (exec (.kfirst c f) s))
        ∧ ((∀ i, ¬ka i) → gives 0xFFFFFFFF (exec (.kfirst c f) s)))
    ∧ (VNames x f [(f.d, false)] → VWrites s c f false e (fun i => (ofParts x.ty [i, i], false)) (exec (.viota c f) s))
    ∧ (res = 0 → etype.toNat < 5 →
        let bitsOf : Nat := if etype.toNat = 0 then 8 else if etype.toNat = 1 then 16 else if etype.toNat = 4 then 64 else 32
        let n := min (x.rg a).toNat (1024 * 2 ^ grp.toNat / bitsOf)
        Issues s c stop { cls := .vec, writes := [.g d.toNat], effs := [.wg d (BitVec.ofNat 32 n), .spanset (grp ++ etype) n] }
          (exec (.spanset c stop d a etype grp res) s))
    ∧ (res ≠ 0 ∨ 5 ≤ etype.toNat → Raises s c stop .vec 0x01 0 (exec (.spanset c stop d a etype grp res) s))
    ∧ (plain' → f.a = 0 → ∃ v, Issues s c f.stop { cls := .vec, effs := [.ww f.d 1 v] } (exec (.vmovhw c f) s)
        ∧ elemAt 128 v 0 = (vget x.h f.b.toNat 0).toNat
        ∧ ∀ i, 0 < i → elemAt 128 v i = elemAt 128 (vget x.w f.d.toNat 0).toNat i)
    ∧ (plain' → f.a = 0 → Issues s c f.stop
        { cls := .vec, effs := [.wh f.d (BitVec.ofNat 128 (vget x.w f.b.toNat 0).toNat)] } (exec (.vmovwh c f) s))
    ∧ (plain' → f.d = 0 → f.a = 0 → f.b = 0 → Issues s c f.stop { cls := .vec, effs := [.vsync] } (exec (.vsync c f) s))
    ∧ (¬plain' → Raises s c f.stop .vec 0x01 0 (exec (.vmovhw c f) s) ∧ Raises s c f.stop .vec 0x01 0 (exec (.vmovwh c f) s)
        ∧ Raises s c f.stop .vec 0x01 0 (exec (.vsync c f) s))

/-- R241, R242, R244, R254: the seven vector memory instructions form their element addresses from gA, gB and vB as they stand
before the bundle: unit stride, a signed byte stride, or an index scaled by the element size. R231, R241, R245: a vector
load whose active elements can all be read replaces exactly those; the lowest element that cannot (here an unaligned one,
or one whose access has timed out) is recorded in the VFR with its cause, its address and its number, and the elements
below it are loaded; a gather up to the first ACCESS loads the elements below it and sets SPAN to its number; a vector
store changes no byte that no active element covers. The model's own readings in it: log entries 5, 23 and 24. -/
def Obligations.VectorMemoryFormsAddressesAndActsOnElements : Prop :=
  (
    ∀ (s : State) (c : Nat) (f : VMFmt),
      let x := s.core c
      let n : Int := (x.ty.e / 8 : Nat)
      let base : Int := (x.rg f.a).toNat
      let unit (i : Nat) : Int := base + i * n
      let stride (i : Nat) : Int := base + i * (x.rg f.b).toInt
      let index (i : Nat) : Int := base + vel x f.u false f.b i * n
      VMemory s c f false false false unit (exec (.vld c f) s) ∧ VMemory s c f true false false unit (exec (.vst c f) s)
      ∧ VMemory s c f false false false stride (exec (.vlds c f) s) ∧ VMemory s c f true false false stride (exec (.vsts c f) s)
      ∧ VMemory s c f false false true index (exec (.vgath c f) s) ∧ VMemory s c f true false true index (exec (.vscat c f) s)
      ∧ VMemory s c f false true true index (exec (.vgathf c f) s))
  ∧ (
    ∀ (s : State) (c : Nat) (op : VMemOp), 0 < op.ebytes → (s.core c).vfault = false →
      let x := s.core c
      let e := 8 * op.ebytes
      let old := x.vop op.wide op.reg op.grp
      let below (i : Nat) : Prop := ∀ j b, j < i → op.elems[j]? = some (b, true) → ElementGood s c op b ∧ x.slow ≠ some b.toNat
      let loaded (v i : Nat) : Prop :=
        ∀ j b, j < i → op.elems[j]? = some (b, true) → elemAt e v j = tcmWord s c b.toNat op.ebytes
      let faults (i : Nat) (a : Int) (cause : Nat) : Prop :=
        ∃ v, vmemRun s c op = { s with free := s.free + op.elems.length }.setCore c
            { x.setVop op.wide op.reg op.grp v with
              slow := none, vfault := true, vfaultMade := op.made, vmerge := false, vfrPc := BitVec.ofNat 32 op.pc
              vfrInfo := BitVec.ofNat 32 (cause * 2 ^ 24 + i), vfrAddr := BitVec.ofInt 32 a }
          ∧ loaded v i
      (op.store = false → op.first = false → x.slow = none → (∀ a, (a, true) ∈ op.elems → ElementGood s c op a) →
        ∃ v, vmemRun s c op = s.setCore c (x.setVop op.wide op.reg op.grp v)
          ∧ ∀ i, elemAt e v i = match op.elems[i]? with
            | some (a, true) => tcmWord s c a.toNat op.ebytes
            | _ => elemAt e old i)
      ∧ (op.store = false → op.first = false → ∀ i a, op.elems[i]? = some (a, true) → below i →
          (a % (op.ebytes : Int) ≠ 0 → faults i a 0x04)
          ∧ (ElementGood s c op a → x.slow = some a.toNat → faults i a 0x09))
      ∧ (op.store = false → op.first = true → ∀ i a, op.elems[i]? = some (a, true) → below i → x.slow = none →
          a % (op.ebytes : Int) = 0 → a < 0 ∨ 2 ^ 32 ≤ a →
          ∃ v, vmemRun s c op = s.setCore c { x.setVop op.wide op.reg op.grp v with span := i } ∧ loaded v i
            ∧ ∀ j, i ≤ j → elemAt e v j = elemAt e old j)
      ∧ (op.store = true → x.slow = none → (∀ a, (a, true) ∈ op.elems → ElementGood s c op a) →
          (∀ a < 0x40000, (∀ b, (b, true) ∈ op.elems → a < b.toNat ∨ b.toNat + op.ebytes ≤ a) →
            tcmByte (vmemRun s c op) c a = tcmByte s c a)
          ∧ (∀ i b, op.elems[i]? = some (b, true) →
            (∀ j d, i < j → op.elems[j]? = some (d, true) → d.toNat + op.ebytes ≤ b.toNat ∨ b.toNat + op.ebytes ≤ d.toNat) →
            tcmWord (vmemRun s c op) c b.toNat op.ebytes = elemAt e old i)))

/-- R222, R201: taking an exception stores EPC, ECAUSE with IMP, SLOT, SUB and CAUSE, and EADDR; nothing that follows from it
overwrites them. R133, R221, R224, R246, R402: an expired watchdog, a waiting vector fault and a timed-out core access are
taken as exceptions with their causes, the vector queue discarded; a posted store's error waits; TEND, with no store of
the core in a DRAM queue, ends the task when its bundle commits, but raises ACCESS with SUB 3 at its bundle, which then
has not taken effect, when an output length is above its capacity. The model's own readings in it: log entries 22, 23, 70,
80 and 81. -/
def Obligations.ExceptionsAndCoreEventsFollowTheRules : Prop :=
  (
    ∀ (s : State) (c : Nat) (e : Exc),
      let x := (takeExc s c e).core c
      x.epc = BitVec.ofNat 32 e.epc ∧ x.eaddr = BitVec.ofNat 32 e.eaddr
      ∧ x.ecause.getLsbD 31 = e.imprecise ∧ x.ecause.extractLsb 25 24 = BitVec.ofNat 2 e.slot
      ∧ x.ecause.extractLsb 23 16 = BitVec.ofNat 8 e.sub ∧ x.ecause.extractLsb 7 0 = BitVec.ofNat 8 e.cause)
  ∧ (
    ∀ (s : State) (c : Nat), c < 576 →
      let x := s.core c
      (∀ ref, x.task = some ref → watchdogCycles s ref ≤ coreCycles s c →
        exec (.watchdogExpiry c) s = .next (takeExc s c
          { cause := 0x0A, sub := 0, slot := 0, eaddr := 0, epc := x.pc, imprecise := true }))
      ∧ (x.running = true → x.vfault = true → x.sberr = none → x.mxerr = none →
          let t := if x.vq = [] then s else s.setCore c { x with vq := [], vpend := none, vpos := none, vseen := true }
          exec (.vectorFaultDelivery c) s = .next (takeExc t c
            { cause := 0x0B, sub := (x.vfrInfo.extractLsb 31 24).toNat, slot := 3, eaddr := x.vfrAddr.toNat, epc := x.pc
              imprecise := true, merge := x.vmerge }))
      ∧ (∀ p cause, x.running = true → x.sberr = none → x.sbuf.find? (fun q => decide (q.ea = p.ea)) = some p →
          cause = 0x07 ∨ cause = 0x08 ∨ cause = 0x09 →
          exec (.postedStoreError c p.ea cause) s = .next (s.setCore c { x with sberr := some (p, cause) }))
      ∧ (∀ a f n p, x.running = true → NoneWaits x → crossesInto s (.core c) a = none → Eff.load f a n p ∈ x.bundle.effs →
          let t := takeExc s c { cause := 0x09, sub := 0, slot := 2, eaddr := a, epc := x.pc, imprecise := false }
          t ≠ s → exec (.interconnectTimeout (.core c) a) s = .next (settleAll s t))
      ∧ (∀ (f : IFmt) (ref : TaskRef) (j : Job) (ti : TaskInst) (r : TaskRun),
          f.d = 0 → f.stop = true → Opens s c → x.task = some ref → findRun s ref = some (j, ti, r) →
          TcmGood s c 0x80 0x10 → x.dmaChan = none → (∀ e ∈ s.mem.wqueue, ∀ p ∈ e.posted, p.1 ≠ c) →
          let len (i : Nat) : Nat := tcmWord s c (0x80 + 4 * i) 4
          let outs := (r.staging.filter fun y => decide (y.1 ≠ harqPlace)).map (·.1)
          let g := jobGraph s j
          let cap (i : Nat) : Nat := match g.tasks[ref.task]?, outs[i]? with
            | some d, some o => (poolCfg s (stagingPool s g j.desc d o)).size
            | _, _ => 0
          let t := s.setCore c (committed x [])
          ((∀ i < 4, len i ≤ cap i) → exec (.tend c f) s = .next (
            let u := runDone t ref (outs.zipIdx.map fun y => (y.1, len y.2))
            settleAll t (if (u.core c).task = some ref then freeCore u c else u)))
          ∧ ((∃ i < 4, cap i < len i) → exec (.tend c f) s = .next (takeExc
              (s.setCore c { x with bundle := { Bundle.init.add { flow := true, effs := [.tend] } with begun := true } }) c
              { cause := 0x05, sub := 0x03, slot := 0, eaddr := 0, epc := x.pc, imprecise := false }))))

/-! ## The matrix coprocessor (R258 to R276) -/

/-- R260, R263 to R275: on a core that holds its quad's lock and whose fields are legal, each matrix instruction alone in its
bundle leaves the quad's tiles as the rules say and nothing else of the quad: the eight-term exact complex products into
zD, wrapping at 40 bits, MXCLR, the narrowing of MXPACK, the transposes and MXWR. The model's own readings in it: log
entry 23. -/
def Obligations.MatrixTileOperationsFollowTheRules : Prop :=
  ∀ (s : State) (c : Nat) (f : XFmt), hasMxc s.part.variant = true → holdsMxc s c = true → f.stop = true → Opens s c →
    let x := s.core c
    let q := c / 36 * 9 + c % 36 / 4
    let m := s.mxc q
    let part (v : BitVec 32) : Int × Int := ((v.extractLsb 15 0).toInt, (v.extractLsb 31 16).toInt)
    let mAt (t : BitVec 5) (r k : Nat) : Int × Int := part (vget (vget m.m t.toNat (.replicate 64 0)) (8 * r + k) 0)
    let zAt (t : BitVec 5) (i : Nat) : BitVec 40 × BitVec 40 := vget (vget m.z t.toNat (.replicate 64 (0, 0))) i (0, 0)
    let word (p : Int × Int) : BitVec 32 := BitVec.ofInt 16 p.2 ++ BitVec.ofInt 16 p.1
    let leaves (m' : Mxc) (r : Res) : Prop := r = .next ((s.setCore c (committed x [])).setMxc q m')
    let putZ (z : Nat → BitVec 40 × BitVec 40) : Mxc := { m with z := vput m.z f.d.toNat (Vector.ofFn fun (i : Fin 64) => z i.val) }
    let putM (v : Nat → BitVec 32) : Mxc := { m with m := vput m.m f.d.toNat (Vector.ofFn fun (i : Fin 64) => v i.val) }
    let sum (a : Nat → Nat → Int × Int) (i : Nat) : Int × Int :=
      ((List.range 8).map fun k => complexProduct false (a (i / 8) k) (mAt f.b k (i % 8))).foldl
        (fun p v => (p.1 + v.1, p.2 + v.2)) (0, 0)
    let straight (r k : Nat) : Int × Int := mAt f.a r k
    let herm (r k : Nat) : Int × Int := ((mAt f.a k r).1, -(mAt f.a k r).2)
    let into (keep sign : Int) (a : Nat → Nat → Int × Int) : Mxc := putZ fun i =>
      (BitVec.ofInt 40 (keep * (zAt f.d i).1.toInt + sign * (sum a i).1),
       BitVec.ofInt 40 (keep * (zAt f.d i).2.toInt + sign * (sum a i).2))
    let narrowed (v : BitVec 40) : Int := clampTo 16 (v.toInt / 2 ^ f.k.toNat)
    let clips (t : BitVec 5) : Bool := (List.range 64).any fun i =>
      decide (narrowed (zAt t i).1 ≠ (zAt t i).1.toInt / 2 ^ f.k.toNat)
        || decide (narrowed (zAt t i).2 ≠ (zAt t i).2.toInt / 2 ^ f.k.toNat)
    (f.d.toNat < 4 → f.a.toNat < 8 → f.b.toNat < 8 → f.k = 0 →
      leaves (into 1 1 straight) (exec (.mxmac c f) s) ∧ leaves (into 1 1 herm) (exec (.mxmach c f) s)
      ∧ leaves (into 0 1 straight) (exec (.mxmul c f) s) ∧ leaves (into 0 1 herm) (exec (.mxmulh c f) s)
      ∧ leaves (into 1 (-1) straight) (exec (.mxmsu c f) s))
    ∧ (f.d.toNat < 4 → f.a = 0 → f.b = 0 → f.k = 0 → leaves (putZ fun _ => (0, 0)) (exec (.mxclr c f) s))
    ∧ (f.d.toNat < 8 → f.a.toNat < 4 → f.b = 0 →
      leaves (let m1 := putM fun i => word (narrowed (zAt f.a i).1, narrowed (zAt f.a i).2)
          { m1 with sat := m.sat || clips f.a })
        (exec (.mxpack c f) s))
    ∧ (f.d.toNat < 8 → f.a.toNat < 8 → f.b = 0 → f.k = 0 →
      leaves (putM fun i => word (mAt f.a (i % 8) (i / 8))) (exec (.mxtrn c f) s)
      ∧ leaves (putM fun i => word (herm (i / 8) (i % 8))) (exec (.mxherm c f) s))
    ∧ (f.d.toNat < 8 → f.k = 0 →
      let tile := vput (vget m.m f.d.toNat (.replicate 64 0)) ((x.rg f.b).toNat % 64) (x.rg f.a)
      leaves { m with m := vput m.m f.d.toNat tile } (exec (.mxwr c f) s))

/-- R258 to R266, R271, R272, R274: the other matrix instructions. MXRD and MXBEXP write general registers; MXLD, MXST, MXSTZ,
MXSAVE and MXRESTORE move tiles at aligned TCM addresses; MXLOCK joins the wait for the lock, MXUNLOCK releases it, MXSYNC
waits; without the lock the instruction raises NOT_HOLDER, with reserved fields ILLEGAL, on a part without the coprocessor
ABSENT. The model's own readings in it: log entry 23. -/
def Obligations.MatrixMovesAndLockFollowTheRules : Prop :=
  ∀ (s : State) (c : Nat) (f : XFmt),
    let x := s.core c
    let q := c / 36 * 9 + c % 36 / 4
    let m := s.mxc q
    let zAt (t : BitVec 5) (i : Nat) : BitVec 40 × BitVec 40 := vget (vget m.z t.toNat (.replicate 64 (0, 0))) i (0, 0)
    let e := zAt f.a ((x.rg f.b).toNat % 64)
    let done' : State := s.setCore c (committed x [])
    let rows := (List.range 8).map fun i => (x.rg f.a + BitVec.ofNat 32 i * x.rg f.b).toNat
    let rowsOk := ∀ a ∈ rows, a % 4 = 0 ∧ a + 32 ≤ 0x40000
    let area := (x.rg f.a).toNat % 64 = 0 ∧ (x.rg f.a).toNat + 0x1840 ≤ 0x40000
    let tile (t : BitVec 5) : List (BitVec 32) := (vget m.m t.toNat (.replicate 64 0)).toList
    let writesRows (u : State) (data : List (BitVec 32)) : State :=
      (rows.zipIdx).foldl (fun t r => mxWrite t c r.1 (tileBytes ((data.drop (8 * r.2)).take 8))) u
    (hasMxc s.part.variant = true → holdsMxc s c = true → f.stop = true → Opens s c →
      (f.a.toNat < 4 → f.k = 0 → f.d.getLsbD 0 = false →
        let u := s.setCore c (committed x [.wg f.d (BitVec.ofInt 32 (clampTo 32 e.1.toInt)),
          .wg (f.d + 1) (BitVec.ofInt 32 (clampTo 32 e.2.toInt))])
        exec (.mxrd c f) s = .next (if clampTo 32 e.1.toInt = e.1.toInt ∧ clampTo 32 e.2.toInt = e.2.toInt then u
          else u.setMxc q { m with sat := true }))
      ∧ (f.a.toNat < 4 → f.b = 0 → f.k = 0 → ∃ n : Nat, n ≤ 39
          ∧ (∀ i < 64, n ≤ rsb 40 (zAt f.a i).1.toNat ∧ n ≤ rsb 40 (zAt f.a i).2.toNat)
          ∧ (∃ i < 64, rsb 40 (zAt f.a i).1.toNat = n ∨ rsb 40 (zAt f.a i).2.toNat = n)
          ∧ exec (.mxbexp c f) s = .next (s.setCore c (committed x [.wg f.d (BitVec.ofInt 32 ((n : Int) - 8))])))
      ∧ (f.d.toNat < 8 → f.k = 0 → rowsOk → (∀ a ∈ rows, TcmGood s c a 32) →
          exec (.mxld c f) s = .next (done'.setMxc q { m with m := vput m.m f.d.toNat (Vector.ofFn fun (i : Fin 64) =>
            BitVec.ofNat 32 (tcmWord s c (rows.getD (i.val / 8) 0 + 4 * (i.val % 8)) 4)) }))
      ∧ (f.d.toNat < 8 → f.k = 0 → rowsOk → exec (.mxst c f) s = .next (writesRows done' (tile f.d)))
      ∧ (f.d.toNat < 4 → rowsOk →
          let u := writesRows done' (packTile m f.d f.k.toNat).1
          exec (.mxstz c f) s
            = .next (if (packTile m f.d f.k.toNat).2 then u.setMxc q { m with sat := true } else u))
      ∧ (f.d = 0 → f.b = 0 → f.k = 0 → area →
          exec (.mxsave c f) s = .next (mxWrite done' c (x.rg f.a).toNat (mxSaveBytes m)))
      ∧ (f.d = 0 → f.b = 0 → f.k = 0 → area → TcmGood s c (x.rg f.a).toNat 0x1840 →
          exec (.mxrestore c f) s = .next (done'.setMxc q
            (mxRestored m ((List.range 0x1840).map fun i => tcmByte s c ((x.rg f.a).toNat + i)))))
      ∧ (f.d = 0 → f.a = 0 → f.b = 0 → f.k = 0 →
          exec (.mxsync c f) s = .next done'
          ∧ exec (.mxunlock c f) s = .next (done'.setMxc q
              { m with holder := none, released := true, waiting := m.waiting.filter fun w => decide (w.1 ≠ c % 36) })))
    ∧ (hasMxc s.part.variant = true → holdsMxc s c = false → f.stop = true → Opens s c →
        f.d = 0 → f.a = 0 → f.b = 0 → f.k = 0 →
        exec (.mxlock c f) s = .next ((s.setCore c { x with bundle := Bundle.init.add (Iss.mx [.mxlock]) }).setMxc q
          { m with waiting := m.waiting ++ [(c % 36, 0)] }))
    ∧ (hasMxc s.part.variant = true → holdsMxc s c = false → f.d.toNat < 4 → f.a = 0 → f.b = 0 → f.k = 0 →
        RaisesAtExecute s c f.stop { cls := .vec } 3 0x0C 0x01 0 (exec (.mxclr c f) s))
    ∧ (hasMxc s.part.variant = true → f.b ≠ 0 → Raises s c f.stop .vec 0x01 0 (exec (.mxtrn c f) s))
    ∧ (hasMxc s.part.variant = false → Raises s c f.stop .vec 0x03 0x01 (exec (.mxmac c f) s))

/-- R258, R261, R270, R273: the lock goes to the core that has waited longest, with its tiles and SAT zero, and that core's
bundle commits; an eviction for the lock; a drain ends and releases the lock; an imprecise error of the holder is taken as
an exception, a bad tile word being logged first. The model's own readings in it: log entry 23. -/
def Obligations.MatrixLockEventsFollowTheRules : Prop :=
  ∀ (s : State) (m : Nat), m < 144 →
    let x := s.mxc m
    (∀ l t rest, x.waiting = (l, t) :: rest → x.holder = none → x.draining = false → hasMxc s.part.variant = true →
      s.up (regMxc m) = true →
      let c := m / 9 * 36 + l
      let y := s.core c
      y.bundle = Bundle.init.add (Iss.mx [.mxlock]) → NoneWaits y → NoLoopEnd y →
      let u := (s.setMxc m { Mxc.init with holder := some l, waiting := rest, grantAt := s.time.now }).bump keyMxcLockGrants 1
      exec (.mxcLockGrant m) s = .next (u.setCore c (committed y [])))
    ∧ (∀ h ref j r w, x.holder = some h → x.draining = false → (s.core (m / 9 * 36 + h)).task = some ref → refRun s ref = some (j, r) →
        w ∈ x.waiting → coreRank s (m / 9 * 36 + w.1) = some 1 →
        s.oval keyMxcWaitEvict * 1000 ≤ w.2 →
        (∃ k, coreRank s (m / 9 * 36 + h) = some k ∧ 2 ≤ k) → r.evictions < s.oval keyEvictMax →
        exec (.mxcWaitEvict m) s = .next (settleAll s ((evictRun s ref).bump keyMxcWaitEvictions 1)))
    ∧ (x.draining = true → exec (.mxcSquashDrainEnd m) s = .next (s.setMxc m { x with draining := false, holder := none, released := true }))
    ∧ (∀ c code, c < 576 → (s.core c).running = true → (s.core c).mxerr = none → (s.core c).vfault = false →
        (s.core c).sberr = none → (s.core c).vq = [] → code = 0x12 ∨ code = 0x13 → holdsMxc s c = true →
        let y := s.core c
        exec (.mxcImpreciseError c code 0) s
          = .next (takeExc ((noteTile s c code).setCore c { y with mxerr := some (code, 0, y.commits), mxmerge := false }) c
          { cause := 0x0C, sub := code, slot := 3, eaddr := 0, epc := y.pc, imprecise := true }))

/-! ## The job transport and the journal's stream (R64 to R105, R175 to R184) -/

/-- What a transport frame comes to: nothing when it is not for this device, one count in RX_BAD_HEADER when its header fails
R66, else what its addressee makes of it (R64 to R66, R183). The model's own readings in it: log entries 10 and 26. -/
def Obligations.TransportFramesAreCheckedBeforeUse : Prop :=
  ∀ (s : State) (f : RxFrame), f.port < 2 →
    let taken (type : Nat) (fromHost : Bool) (most implied : Nat) (r : Res) (serve : Nat → Res → Prop) : Prop :=
      let good := f.version = 1 ∧ f.type = type ∧ (if fromHost then f.sender = 0xFFFF else f.sender ≤ 0x3FF) ∧ 1 ≤ f.count ∧ f.count ≤ most
        ∧ f.length = implied ∧ f.length ≤ f.payload.length
      (transportFor s f = none → r = .next s)
      ∧ (∀ base, transportFor s f = some base →
          (¬good → r = .next (s.setOval keyRxBadHeader (min (s.oval keyRxBadHeader + 1) 0xFFFFFFFF)))
          ∧ (good → serve base r))
    let peer : Peer := { mac := f.srcMac, encap := f.encap, ip := f.srcIp, udp := f.srcUdp, vlan := f.vlan }
    let learned (t : State) (q : Nat) : State := t.setQueue q
      (if f.port = 0 then { t.queue q with peer0 := some peer } else { t.queue q with peer1 := some peer })
    let at' (off n : Nat) : Nat := beNat (slice f.payload off n)
    let descs := (List.range f.count).map fun i =>
      (descOf (at' (72 + 64 * i) 64), if i % 2 = 0 then at' (i / 2) 1 / 16 else at' (i / 2) 1 % 16)
    let names := (List.range f.count).map fun i => (at' (8 * i) 8 / 2 ^ 52, BitVec.ofNat 32 (at' (8 * i) 8))
    let known (base : Nat) : State := names.foldl (fun t x => learned t (base + x.1)) s
    let acked (t : State) (q : Nat) (seq : BitVec 32) : State :=
      if 0 < (seq - (t.queue q).releasedSeq).toInt then t.bump keyAckInvalid 1
      else if 0 < (seq - (t.queue q).ackSeq).toInt then ackTo t q seq else t
    taken 1 true 140 (72 + 64 * f.count) (exec (.desc f) s) (fun base r =>
      r = .next (updateHeadroom (descs.foldl
        (fun t x => if base = 0 then takeDesc t f.port x.1 x.2 else takenOverDesc t base f.port x.1)
        (descs.foldl (fun t x => learned t (base + x.1.sqid)) s))))
    ∧ taken 2 true 1 (16 + at' 0 16 % 65536) (exec (.data f) s) (fun base r =>
        let h := at' 0 16
        let t := learned s (base + h / 2 ^ 116 % 4096)
        r = .next (if base = 0 then updateHeadroom (takeData t f.port (h / 2 ^ 116 % 4096) (h / 2 ^ 114 % 4)
          (BitVec.ofNat 32 (h / 2 ^ 80)) (h / 2 ^ 48 % 2 ^ 32) (h / 2 ^ 16 % 2 ^ 32) (cut f.payload 16 (h % 65536)) f.bad) else t))
    ∧ taken 7 true 1120 (8 * f.count) (exec (.ack f) s) (fun base r =>
        r = .next (endTakeover (names.foldl (fun t x => acked t (base + x.1) x.2) (known base)) base))
    ∧ taken 8 true 1120 (8 * f.count) (exec (.resend f) s) (fun base r =>
        r = .next (names.foldl (fun t x => takeResend t f.port (base + x.1) x.2) (known base)))
    ∧ taken 9 false 124 (8 + 72 * f.count) (exec (.mirror f) s) (fun base r =>
        r = .next (if base = 0 then takeMirror s f.port peer f.sender (BitVec.ofNat 32 (at' 0 4))
          ((List.range f.count).map fun i => entryOf (slice f.payload (8 + 72 * i) 72)) else s))
    ∧ taken 10 false 1 8 (exec (.mirrorAck f) s) (fun base r =>
        r = .next (if base = 0 ∧ s.oval keyBuddy ≠ 0xFFFF ∧ f.sender = s.oval keyBuddy then
          takeMirrorAck s (BitVec.ofNat 32 (at' 0 4)) else s))

/-- R79, R80: the classes of a descriptor and of a DATA segment of an own queue, in order, with the counter and the answer
each gives. The model's own readings in it: log entry 26. -/
def Obligations.DescriptorsAndSegmentsAreClassified : Prop :=
  ∀ (s : State) (p q : Nat) (d : Desc) (mask : Nat) (seq : BitVec 32) (k total off : Nat) (b : List Byte) (bad : Option BadWord),
    let x := s.queue q
    let dist (n : BitVec 32) : Int := (n - x.nextSeq).toInt
    let credited (n : BitVec 32) : Prop := 0 < (x.creditSeq - n).toInt
    (d.sqid = q →
      (x.enable = false → takeDesc s p d mask = refuse (s.bump keyRxDisabled 1) q 0x18 d.seq p)
      ∧ (x.enable = true → dist d.seq < -(s.oval keyDedupWindow : Int) →
          takeDesc s p d mask = refuse (s.bump keyRxStale 1) q 0x17 d.seq p)
      ∧ (x.enable = true → -(s.oval keyDedupWindow : Int) ≤ dist d.seq → dist d.seq < 0 → s.job q d.seq = none →
          takeDesc s p d mask = answerDuplicate (s.bump keyRxDuplicateDesc 1) q d.seq p)
      ∧ (x.enable = true → 0 ≤ dist d.seq → ¬credited d.seq →
          takeDesc s p d mask = refuse (s.bump keyRxNoCredit 1) q 0x16 d.seq p)
      ∧ (∀ a, x.enable = true → 0 ≤ dist d.seq → credited d.seq → asmGet s q d.seq = some a → a.desc ≠ none →
          takeDesc s p d mask = s.bump keyRxDuplicateDesc 1)
      ∧ (x.enable = true → 0 ≤ dist d.seq → credited d.seq → asmGet s q d.seq = none →
          takeDesc s p d mask =
            judgeAsm s q d.seq { Asm.new s.time.now with desc := some d, mask := mask, descPort := p } p))
    ∧ (x.enable = false → takeData s p q k seq total off b bad = s.bump keyRxDisabled 1)
    ∧ (x.enable = true → dist seq < 0 → takeData s p q k seq total off b bad = s.bump keyRxDuplicateData 1)
    ∧ (x.enable = true → 0 ≤ dist seq → ¬credited seq → takeData s p q k seq total off b bad = s.bump keyRxNoCredit 1)
    ∧ (x.enable = true → 0 ≤ dist seq → credited seq → asmGet s q seq = none → b ≠ [] →
        takeData s p q k seq total off b bad =
          if off % 64 ≠ 0 ∨ total = 0 ∨ 8960 < b.length ∨ (b.length % 64 ≠ 0 ∧ off + b.length ≠ total) ∨ total < off + b.length
          then refuse { s with asms := s.asms.filter fun y => !decide (y.1 = (q, seq)) } q 0x14 seq p
          else judgeAsm s q seq
            { Asm.new s.time.now with segs := [{ port := p, slot := k, total := total, offset := off, bytes := b, bad }] } p)

/-- R81, R83, R84: a refused job is answered with the first failing check of R73 and leaves its assembly; a job without a free
pool buffer waits; an accepted one takes steps 3 to 7, unless a word of its data cannot be read (R413), which discards its
assembly and counts in INGRESS_ERRORS. ASSEMBLY_TIMEOUT discards an incomplete assembly. The model's own readings in it:
log entries 25 and 26. -/
def Obligations.JobAcceptanceFollowsItsSteps : Prop :=
  ∀ (s : State) (q : Nat) (a : Asm) (d : Desc), q < 4096 →
    let seq := (s.queue q).nextSeq
    (asmGet s q seq = some a → a.desc = some d → a.complete = true → s.serving = true → s.powered = true → s.power.phase = 0 →
      (∀ code, refusalOf s a d = some code → code ≠ 0x16 →
        exec (.jobAccept q) s = .next (updateHeadroom (refuse (asmDel s q seq) q code seq a.descPort)))
      ∧ (refusalOf s a d = some 0x16 →
        exec (.jobAccept q) s
          = .next (updateHeadroom (refuse (asmDel (s.bump keyRxNoCredit 1) q seq) q 0x16 seq a.descPort)))
      ∧ (refusalOf s a d = none → copySlots s a d [0, 1, 2, 3] = none → a.waiting = false →
        exec (.jobAccept q) s = .next ((asmSet s q seq { a with waiting := true }).bump keyPoolWaits 1))
      ∧ (∀ t copies, refusalOf s a d = none → copySlots s a d [0, 1, 2, 3] = some (t, copies) →
        ((readSegs t a).2 = false → exec (.jobAccept q) s
          = .next (jobWake (updateHeadroom (settleAll s (mirrorStep (journalJob (readSegs t a).1 a d copies) q seq)))))
        ∧ ((readSegs t a).2 = true → exec (.jobAccept q) s
          = .next (updateHeadroom (settleAll s (asmDel ((readSegs s a).1.bump keyIngressErrors 1) q seq)))))
      ∧ (s.graph d.graph = none → refusalOf s a d = some 0x10)
      ∧ (∀ g, s.graph d.graph = some g → d.graph = 0 → d.timed = true → refusalOf s a d = some 0x19))
    ∧ (∀ seq' : BitVec 32, asmGet s q seq' = some a → a.complete = false →
        a.started + s.oval keyAssemblyTimeout * 1000 ≤ s.time.now →
        exec (.assemblyTimeout q seq') s
          = .next (updateHeadroom ({ s with asms := s.asms.filter fun y => !decide (y.1 = (q, seq')) }.bump keyAssemblyExpired 1)))

/-- R44, R87, R92, R94, R96, R97, R99: what the transport's timers and the release of a record do when they are due. The
model's own readings in it: log entries 27 and 29. -/
def Obligations.TransportTimersDoTheirWork : Prop :=
  ∀ (s : State),
    (∀ port, port < 2 → ∀ e ∈ (s.port port).pending, e.since + s.oval keyAcceptCoalesce ≤ s.time.now →
      exec (.acceptCoalesceExpiry port) s = .next (flushEntries s port))
    ∧ (∀ q seq t rest, (s.queue q).toSend = (seq, t) :: rest → t + s.oval keyComplCoalesce ≤ s.time.now →
        exec (.complCoalesceExpiry q) s = .next (sendFrom s q ((seq, t) :: rest)))
    ∧ (∀ q, let x := s.queue q
        x.releasedSeq ≠ x.ackSeq → x.retxHalted = none → canSend s x.activePort = true → x.retxDue ≤ s.time.now →
        exec (.retxTimeout q) s =
          .next (let t := retransmit (flushPending (flushPending s 0) 1) q x.activePort (x.ackSeq + 1)
            let next := min (2 * x.retxInterval) 32000000
            t.setQueue q { t.queue q with retxDue := s.time.now + next, retxInterval := next, retxHalted := none }))
    ∧ (s.serving = true → s.lastRefresh + s.oval keyCreditRefresh ≤ s.time.now →
        exec .creditRefresh s = .next ((s.queues.filter fun x => x.2.enable && decide (x.1 < 4096)).foldl
          (fun t x => sendCredit t x.1) { s with lastRefresh := s.time.now }))
    ∧ (∀ q x, s.serving = true → s.powered = true → s.queues = [(q, x)] → x.enable = true → q < 4096 →
        exec .creditGrant s = .next (updateHeadroom (grantTo { s with lastGrant := q } q)))
    ∧ (∀ q j r, s.serving = true → (s.jobs.find? fun i => decide (i.qn = q) && !i.released) = some j → j.record = some r →
        exec (.recordRelease q) s = .next (releaseJob s j r))
    ∧ (∀ port prio, port < 2 → prio < 8 →
        let x := s.port port
        let rest := x.pauses.filter fun y => decide (y.1 ≠ prio)
        (∀ quanta, 0 < quanta →
          let t := s.setPort port { x with pauses := rest ++ [(prio, s.time.now + quanta * 128 / 100)] }
          exec (.pfcPauseRx port prio quanta) s = .next ((queuesOn t port).foldl settleTimer t))
        ∧ exec (.pfcPauseRx port prio 0) s = .next (resumePort (s.setPort port { x with pauses := rest }) port)
        ∧ (∀ till, (prio, till) ∈ x.pauses → till ≤ s.time.now →
            exec (.pfcPauseExpiry port prio) s = .next (resumePort (s.setPort port { x with
              pauses := x.pauses.filter fun y => !(decide (y.1 = prio) && decide (y.2 ≤ s.time.now)) }) port)))

/-- R96, R104, R105: once a fault has persisted for PORT_DOWN_TIME, a failed port's queues, its pending entries and its
virtual links move to the other port; a port that comes up is state 2, and takes over when the other is down; its own
queues return after PORT_UP_HOLD. R89, R177, R178, R180, R181: the timers of the mirror stream. The model's own readings
in it: log entries 27, 28, 41 and 67. -/
def Obligations.PortsAndMirrorFollowTheRules : Prop :=
  (
    ∀ (s : State) (p since : Nat), p < 2 →
      ((s.port p).state ≠ 0 → since + s.oval keyPortDownTime ≤ s.time.now →
        let u := { s.setPort p { s.port p with state := 0, xoff := false } with held := s.held.filter fun x => decide (x.1 ≠ p) }
        let t := logFault u (faultNoJob u (regPort p) 0x0E 0x0D)
        let qs := queuesOn t p
        let moved := moveEntries (moveFresh (qs.foldl (fun t q => setActive t q (1 - p)) t) p (1 - p)) p (1 - p)
        let again := qs.foldl (fun t q => failOver t q (1 - p)) moved
        exec (.portDown ⟨p, since⟩) s
          = .next (settle s (portLeavesPtp (moveVlinks again fun _ x => if x.activePort = p then 1 - p else x.activePort) p)))
      ∧ ((s.port p).state = 0 → s.serving = true → s.powered = true → (s.port (1 - p)).state ≠ 0 →
          exec (.portUp p) s = .next (settle s (updateHeadroom (portOpens
            (s.setPort p { s.port p with state := 2, upSince := s.time.now }) p))))
      ∧ ((s.port p).state = 0 → s.serving = true → s.powered = true → (s.port (1 - p)).state = 0 →
          let t := s.setPort p { s.port p with state := 2, upSince := s.time.now }
          let qs := queuesOn t (1 - p)
          let moved := moveEntries (moveFresh (qs.foldl (fun t q => setActive t q p) t) (1 - p) p) (1 - p) p
          exec (.portUp p) s = .next (settle s (updateHeadroom (portOpens
            (moveVlinks (qs.foldl (fun t q => failOver t q p) moved) fun _ _ => p) p))))
      ∧ ((s.port p).state = 2 → (s.port p).upSince + s.oval keyPortUpHold * 1000000 ≤ s.time.now →
          let t := s.setPort p { s.port p with state := 1 }
          let back := (t.queues.filter fun y => decide (y.2.homePort = p) && decide (y.2.activePort ≠ p)).foldl
            (fun t y => setActive t y.1 p) (homeFresh t p)
          exec (.portUpHoldExpiry p) s = .next (moveVlinks back fun n y =>
            if tbit (beNat (s.domBytes keyEcpriVlinks (16 * n) 16)) 126 = decide (p = 1) then p else y.activePort)))
  ∧ (
    ∀ (s : State),
      let x := s.mirrorTx
      (s.serving = true → s.oval keyBuddy ≠ 0xFFFF →
        (x.reachable = true → x.unacked ≠ [] → 1 ≤ x.tries → x.sentAt + s.oval keyMirrorTimeout ≤ s.time.now →
          let t := declareUnreachable (s.bump keyMirrorTimeouts 1)
          exec .mirrorTimeout s = .next (if s.oval keyMirrorMode = 0 then sendAllDue (acceptUnmirrored t) else t))
        ∧ (∀ m ∈ x.unacked, s.powered = true → m.sent + s.oval keyMirrorTimeout / 4 ≤ s.time.now →
          exec .mirrorResend s = .next (resendMirror { s with mirrorTx := { x with tries := x.tries + 1 } }))
        ∧ (s.powered = true → x.reachable = true → x.lastSend + 1000000 ≤ s.time.now →
          exec .mirrorKeepalive s = .next (mirrorPut s keepAlive)))
      ∧ (s.serving = true → s.oval keyMirrorMode = 1 → x.fenced = false →
          x.lastAck + s.oval keyBuddyFenceTime * 1000000 ≤ s.time.now →
          exec .buddyFence s = .next ({ s with mirrorTx := { x with fenced := true } }.bump keyFences 1))
      ∧ (∀ source y, s.serving = true → (s.srcs.find? fun z => decide (z.source = source)) = some y → source ≠ 0xFFFF →
          s.oval keyMirrorFrom0 = source ∨ s.oval keyMirrorFrom1 = source → s.oval keyTakeoverMode = 1 → y.takeover = 0 → y.dormant = false →
          nth0 y.identity 2 % 2 = 1 → y.lastFrame + s.oval keyBuddyDeadTime * 1000000 ≤ s.time.now →
          exec (.buddyDead source) s = .next (settleAll s (takeOver s source))))

/-! ## Scheduling and the policy layer (R120 to R156) -/

/-- R128, R156, R202, R281: a ready run that heads its cluster's order starts on a free core that may take it, in the start
state of its task; a ready accelerator run becomes a waiting entry; a faulted run starts again the same way, counted, or
waits for a core as a ready task. R123, R124, R131, R132: admission of a timed job within its Horizon, the overrun of a
guaranteed task's budget with its margin, and what a deadline does to a job that has not started, is under ABORT or is
under FINISH. The model's own readings in it: log entries 25, 31 and 69. -/
def Obligations.RunsStartAndDeadlinesFollowTheRules : Prop :=
  (
    ∀ (s : State) (t : TaskRef) (j : Job) (ti : TaskInst) (r : TaskRun) (d : TaskDef),
      findRun s t = some (j, ti, r) → (jobGraph s j).tasks[t.task]? = some d →
      (∀ c u, c < 576 → d.kind = 0 → c ∈ freeCores s j d r → startOnCore s t j d c = some u →
        (runReady s j t.task d r 0 = true → isHead s j d r = true →
            exec (.taskDispatch t (.core c)) s = .next (if r.replay = true then u.bump keyReplays 1 else u))
        ∧ (runReady s j t.task d r 3 = true → (∀ x ∈ freeCores s j d r, coreReserve s x = true → coreReserve s c = true) →
            exec (.taskReplay t (.core c)) s = .next (u.bump keyReplays 1))
        ∧ (u.core c).task = some t ∧ (u.core c).running = true ∧ (u.core c).pc = d.entry ∧ (u.core c).lines = [0, 1, 2, 3]
        ∧ (u.core c).g = Core.init.g ∧ (u.core c).acc = Core.init.acc ∧ (u.core c).bundle = Bundle.init)
      ∧ (∀ c, c < 576 → d.kind = 0 → freeCores s j d r = [] → runReady s j t.task d r 3 = true →
          exec (.taskReplay t (.core c)) s
            = .next (setTask s j t.task (ti.setRun { r with phase := 0, replay := true })))
      ∧ (∀ p u, d.kind ≠ 0 →
        (runReady s j t.task d r 0 = true → queueEntry s t j d r false = some u → exec (.taskDispatch t p) s = .next u)
        ∧ (runReady s j t.task d r 3 = true → queueEntry s t j d r true = some u →
            exec (.taskReplay t p) s = .next (u.bump keyReplays 1))))
  ∧ (
    ∀ (s : State) (q : Nat) (seq : BitVec 32) (j : Job), s.job q seq = some j → j.desc.timed = true → j.expanded = true →
      j.final = false →
      (j.admission = .none → s.awake = true → s.schedStopped = false →
        j.dl - s.time.now ≤ horizonOf s j.desc.cell * (s.cell j.desc.cell).slotNs →
        (j.tried = false → ∀ i ∈ s.jobs, i.tried = false → awaitsAdmission s i = true → entryTime s j < entryTime s i
          ∨ (entryTime s j = entryTime s i ∧ (j.dl < i.dl ∨ (j.dl = i.dl ∧ j.order ≤ i.order)))) →
        let k := { j with tried := true }
        (∀ p, j.desc.guaranteed = true → j.demoted = false → guaranteedTest s k = some p →
          let slot := slotOfDeadline (s.cell j.desc.cell) j.dl
          let u := (chargeSlot s j.desc.cell slot (chargeOf s k)).setJob
            { k with admission := .guaranteed, charge := chargeOf s k, cluster := jobCluster s k }
          exec (.admission q seq) s = .next (trackReady (switchOpp (u.bump keyAdmitGuaranteed 1) (jobCluster s k) p)))
        ∧ (j.desc.guaranteed = true → j.demoted = false → guaranteedTest s k = none →
          let x := s.cellState j.desc.cell
          let m := { k with demoted := true }
          exec (.admission q seq) s = .next (trackReady
            (admitBest (((s.setJob m).setCellSt j.desc.cell { x with demoted := x.demoted + 1 }).bump keyAdmitDemoted 1) m)))
        ∧ (j.desc.guaranteed = false → bestEffortTest s k = none → exec (.admission q seq) s = .next (trackReady (s.setJob k)))
        ∧ (∀ p, j.desc.guaranteed = false → j.demoted = false → bestEffortTest s k = some p →
          exec (.admission q seq) s = .next (trackReady (switchOpp ((s.setJob
            { k with admission := .bestEffort, cluster := jobCluster s k }).bump keyAdmitBestEffort 1) (jobCluster s k) p))))
      ∧ (j.dl ≤ s.time.now →
        (j.started = false → exec (.jobDeadline q seq) s = .next (settleAll s (finalise s j 0x02)))
        ∧ (j.started = true → (∃ t ∈ j.tasks, t.done = false) →
          ((jobGraph s j).abort = true → exec (.jobDeadline q seq) s = .next (settleAll s (finalise s j 0x06)))
          ∧ ((jobGraph s j).abort = false →
              exec (.jobDeadline q seq) s = .next ((bankAll s).setJob { j with admission := .bestEffort }))))
      ∧ (∀ (t : TaskRef) ti r d, findRun s t = some (j, ti, r) → (jobGraph s j).tasks[t.task]? = some d → d.kind = 0 →
          r.phase = 1 → j.isG = true →
          let l := budgetL s j.desc.graph t.task d
          exec (.overrunMark t) s = .next (if l * (32768 + s.oval keyOverrunMargin) < runCycles s r * 32768
            then (setTask (bankAll s) { j with overrun := true } t.task
              { ti with runs := ti.runs.map fun x => { x with marked := true } }).bump keyOverrunMarks 1
            else s)))

/-- R136, R138, R140, R142 to R145: learning, operating points, the thermal ceiling with its hysteresis, thermal migration,
the switch of a migrating cell, the end of a clock raise, and gating. The model's own readings in it: log entry 31. -/
def Obligations.PolicyTimersFollowTheRules : Prop :=
  ∀ (s : State),
    (s.awake = true → s.sv.switching = none →
      (s.oval keyLearnEnable ≠ 0 → s.lastLearn + s.oval keyLearnPeriod * 1000000 ≤ s.time.now →
        exec .learnPeriod s = .next { s with
          lastLearn := s.time.now
          budgets := s.budgets.map fun x => if (s.graph (x.1 / 256)).isSome then (x.1, learnTask s x.2) else x })
      ∧ (s.lastDvfs + s.oval keyDvfsPeriod * 1000 ≤ s.time.now →
        let t := dvfsEngines ((List.range (nClusters s.part.variant)).foldl dvfsCluster s)
        exec .dvfsPeriod s = .next (reOvercast (evalMigration { t with lastDvfs := s.time.now })))
      ∧ (∀ k t, k < 16 → (s.cluster k).hotSince = some t → t + 100000000 ≤ s.time.now →
          exec (.thermalMigrate k) s = .next (thermalOne s k)))
    ∧ (∀ k temp, k < nClusters s.part.variant →
        let x := s.cluster k
        let limit := s.ovalInt keyThermalOpp 16 * 8
        let ceil := if temp > limit + 24 then 2 else if x.thermal = 2 ∧ temp > limit + 8 then 2
          else if temp > limit then 1 else if 1 ≤ x.thermal ∧ temp > limit - 16 then 1 else 0
        let hot := if s.ovalInt keyThermalMigrate 16 * 8 < temp then some (x.hotSince.getD s.time.now) else none
        let t := s.setCluster k { x with temp := temp, thermal := ceil, hotSince := hot }
        exec (.thermalCeiling k temp) s
          = .next (settle s (if schedOpp t k < ceilingOf t k then switchOpp t k (ceilingOf t k) else t)))
    ∧ (∀ cell m, cell < 4095 → (s.cellState cell).migration = some m → m.switched = false →
        (s.cluster m.target).gated = false → clusterUp s m.target = true →
        m.reason = 3 ∨ (s.sv.switching = none ∧ nextSlotBoundary (s.cell cell) m.startTime ≤ s.time.now) →
        exec (.migrationSwitch cell) s = .next (settle s (switchCell s cell)))
    ∧ (∀ k p, k < 16 → (s.cluster k).oppPending = some p → ∃ t, exec (.oppSwitchDone k) s = .next t
        ∧ (t.cluster k).opp = p ∧ (t.cluster k).oppPending = none
        ∧ { t with clusters := s.clusters, cores := s.cores } = s)
    ∧ (∀ k t, k < 16 → s.awake = true → s.power.phase = 0 → s.power.state = 1 → s.overcast.on = false →
        s.sv.switching = none → gateable s k = true → (s.cluster k).idleSince = some t →
        t + s.oval keyGateIdle * 1000 ≤ s.time.now →
        exec (.gateIdleExpiry k) s
          = .next (setRail ((loseCluster s k).setCluster k
              { s.cluster k with gated := true, idleSince := none, oppPending := none }) (k / 4)))

/-! ## Fault masking (R160 to R174, R186 to R191) -/

/-- R160, R167 to R169, R171, R188, R297, R432: the loss of a cluster island and its return, that of an Anvil quarter and of
an engine island, strikes that lapse, the end of a region's restore test, and the end of Overcast. The model's own
readings in it: log entries 37, 58, 76 and 79. -/
def Obligations.IslandsRegionsAndOvercastFollowTheRules : Prop :=
  ∀ (s : State),
    (∀ k, k < 16 → s.regState (regIsland k) = 0 →
      let x := s.cluster k
      let losses := (x.losses.filter fun t => decide (s.time.now - t < s.oval keyRetireWindow * 1000000000)) ++ [s.time.now]
      let t := (runsOn (strike (s.bump keyIslandLosses 1) (regIsland k)) k).foldl (fun t ref => runFault t ref lossFault)
        (strike (s.bump keyIslandLosses 1) (regIsland k))
      let l := (List.range 36).foldl (fun t i => lateFault t (.core (36 * k + i)) 0x09 0 0 false none) t
      let u := (resetIsland l k).setCluster k
        { Cluster.init with losses := losses, temp := x.temp, thermal := x.thermal, lostAt := some s.time.now }
      exec (.islandLoss k) s = .next (settleAll s
        (if u.regState (regIsland k) = 2 ∨ s.oval keyIslandRestores ≤ losses.length then
          logFault (retireIsland u k) (faultNoJob u (regIsland k) 0x09 0x04)
        else logFault (u.setRegState (regIsland k) 1) (faultNoJob u (regIsland k) 0x09 0x05))))
    ∧ (∀ k, k < 16 → s.regState (regIsland k) ≠ 0 → exec (.islandLoss k) s = .next (settleAll s s))
    ∧ (∀ i, 21 ≤ i → i ≤ 24 → exec (.islandLoss i) s = .next (settleAll s (loseMemRegion s (regQuarter (i - 21)))))
    ∧ (∀ i, 25 ≤ i → i ≤ 33 → runsOnEngines s i ≠ [] →
        exec (.islandLoss i) s = .next (settleAll s ((runsOnEngines s i).foldl (fun (t : State) x =>
          freeEngine (runFault t x.1 lossFault) x.2.1 x.2.2) s)))
    ∧ (∀ i, 25 ≤ i → i ≤ 33 → runsOnEngines s i = [] → islandEngines s i ≠ [] →
        exec (.islandLoss i) s = .next (settleAll s (logFault s (faultNoJob s 0xFFFF 0x09 0x0E))))
    ∧ (∀ k, k < 16 → s.regState (regIsland k) = 1 →
        exec (.islandRestored k false) s = .next (settleAll s (retireIsland s k))
        ∧ (let x := s.cluster k
           let back := { Cluster.init with losses := x.losses, temp := x.temp, thermal := x.thermal }
           let t := ((fillIsland s k).setRegState (regIsland k) 0).setCluster k back
           exec (.islandRestored k true) s = .next (settleAll s
            (((liveWords s k).foldl (fun t u => setBad t u (some .poison)) t).bump keyPoisonedWords (liveWords s k).length))))
    ∧ (∀ r, r < 0x624 →
        let young (t : Nat) : Bool := decide (s.time.now - t < s.oval keyRetireWindow * 1000000000)
        exec (.strikeLapse r) s
          = .next (s.setRegion r { s.region r with strikes := (s.region r).strikes.filter young }))
    ∧ (∀ r, r < 0x624 → s.powered = true → isMemRegion r = true → s.regState r = 1 →
        (∀ i ∈ s.cleip.inService, i.key ≠ keyRegionRestore) →
        exec (.regionRestoreDone r false) s = .next (settleAll s (s.setRegState r 3))
        ∧ exec (.regionRestoreDone r true) s = .next (settleAll s ((zeroRegion s r).setRegion r Region.init)))
    ∧ (s.overcast.on = true → s.overcast.cause &&& (s.oval keyOvercastMask ||| 1) = 0 →
        (∀ b t, s.overcast.lastHeld[b]? = some t → tbit (s.oval keyOvercastMask ||| 1) b = true →
          t + s.oval keyOvercastExitHold * 1000000 ≤ s.time.now) →
        exec .overcastExit s = .next { s with overcast := { s.overcast with
          on := false, total := s.overcast.total + (s.time.now - s.overcast.since) } })

/-- R172 to R174: the standby takes over from a failed active pair, and without one the device restarts; a pair retested
becomes standby or is retired; the standby copy; the steps of a firmware update. The model's own readings in it: log
entries 42, 43, 59 and 75. -/
def Obligations.SupervisorsFollowTheRules : Prop :=
  ∀ (s : State),
    let pair (t : State) (n : Nat) : Nat := if n = 0 then t.sv.pair0 else t.sv.pair1
    let put (t : State) (n st : Nat) : State :=
      { t with sv := if n = 0 then { t.sv with pair0 := st } else { t.sv with pair1 := st } }
    let a := s.sv.active
    (∀ cause, pair s a = 0 →
      let t := strike (logFault s (faultNoJob s (regSv a) cause 0x06)) (regSv a)
      let u := put t a (if t.regState (regSv a) = 2 then 3 else 2)
      (pair s (1 - a) = 1 → exec (.supervisorSwitchover cause) s = .next (settleAll s
        (let v := { put u (1 - a) 0 with obj := standbyObjects u }
         { v with sv := { v.sv with active := 1 - a, switching := some v.time.now } }.bump keySvSwitchovers 1)))
      ∧ (pair s (1 - a) ≠ 1 → exec (.supervisorSwitchover cause) s = .next (restartNow u 7)))
    ∧ (∀ n, n < 2 → pair s n = 2 → pair s (1 - n) ≠ 2 →
        exec (.supervisorPairRetested true) s = .next (settleAll s
          (let v := put s n 1
           { v with sv := { v.sv with copy := s.obj, lastCopy := s.time.now } }))
        ∧ (s.regState (regSv n) ≠ 2 →
            exec (.supervisorPairRetested false) s = .next (settleAll s (retireRegion (put s n 3) (regSv n)))))
    ∧ ((s.sv.pair0 = 1 ∨ s.sv.pair1 = 1) → s.sv.lastCopy + 1000000 ≤ s.time.now →
        exec .standbyCopy s = .next { s with sv := { s.sv with copy := s.obj, lastCopy := s.time.now } })
    ∧ (∀ t, s.sv.switching = some t → exec .switchOverComplete s =
        .next (reOvercast (evalMigration { s with sv := { s.sv with switching := none } })))
    ∧ (s.sv.updState = 2 → s.sv.updStep = 0 → s.sv.active = 0 → s.sv.pair0 = 0 → s.sv.pair1 = 4 →
        exec .fwStandbyLoaded s = .next (settleAll s
          (let w := { s with sv := { s.sv with pair0 := 4, copy := s.obj, lastCopy := s.time.now } }
           let v := { w with
             obj := standbyObjects w
             sv := { w.sv with pair1 := 0, active := 1, switching := some s.time.now } }.bump keySvSwitchovers 1
           { v with sv := { v.sv with updStep := 1 } })))
    ∧ (∀ i n, authenticFw s = some i → s.sv.updState = 2 → s.sv.updStep = 1 → s.sv.switching = none → n < 2 → pair s n = 4 →
        pair s (1 - n) ≠ 4 →
        let image := { i with generation := s.supply.bootGeneration + 1 }
        let u := put s n 1
        exec .fwUpdateDone s = .next (settleAll s { u with
          sv := { u.sv with updState := 3, fwRunning := i.release }
          keys := { s.keys with bootPending := false }
          graphs := joinGraphs u image
          flash := if s.supply.bootSlot = 0 then { s.flash with slotB := some image } else { s.flash with slotA := some image } }))

/-! ## Power states, supplies and the boot (R516 to R554) -/

/-- R521 to R525: the prepare of a Dusk. With no alarm due, the block being prepared refuses for its reason, or passes the
turn to the next block that votes, or after the last makes the Dusk final; a late vote refuses with reason 0x01; the entry
to the target state. The model's own readings in it: log entry 60. -/
def Obligations.DuskFollowsItsSteps : Prop :=
  ∀ (s : State),
    (s.power.phase = 1 →
      (∀ bad, alarmDue s = true → exec (.duskVote bad) s = .next (wake (s.setOval keyWakeAlarm 0) 3))
      ∧ (alarmDue s = false →
        (s.power.block = 2 → (∃ j ∈ s.jobs, j.final = false) → exec (.duskVote false) s = .next (refuseDusk s 0x02 0))
        ∧ (s.power.block = 2 → (∀ j ∈ s.jobs, j.final = true) → nMigrating s ≠ 0 →
            exec (.duskVote false) s = .next (refuseDusk s 0x03 0))
        ∧ (∀ b, s.power.block = 9 → b ∈ s.cleip.blocks → exec (.duskVote false) s = .next (refuseDusk s 0x09 0))
        ∧ (s.power.block = 10 → exec (.duskVote true) s = .next (refuseDusk s 0x08 0))
        ∧ (∀ b, s.power.target = 3 → s.power.state ≤ 1 → s.power.block = b → b ∈ [5, 6, 8] →
            exec (.duskVote false) s = .next { s with power := { s.power with block := b + 1, prepAt := s.time.now } })
        ∧ (s.power.block = 10 → s.sv.switching = none →
            exec (.duskVote false) s = .next { s with power := { s.power with phase := 2, block := 0 } }))
      ∧ (s.power.prepAt + 50000 ≤ s.time.now → exec .duskVoteTimeout s = .next (refuseDusk s 0x01 0)))
    ∧ (s.power.phase = 2 → ∀ target, s.power.target = target → target = 2 ∨ target = 3 →
        let t := (if target = 3 then resetIslands s true else enterP2 s).bump keyDuskEntries 1
        let p := { s.power with phase := 0, state := target, target := 0, block := 0, latched := none }
        (s.power.latched = none → exec .duskEntryComplete s = .next { t with power := p })
        ∧ (∀ src time, s.power.latched = some (src, time) →
            exec .duskEntryComplete s = .next (startDawn { t with power := p } src true s.power.seen time)))

/-- R528 to R531: Dawn takes its ready signals in order; its last step checks the retained memory and leads from P2 back to
service and from P3 to a restart. R519, R520, R523, R530, R533: the wake sources, and the gating and waking of engine and
cluster islands. The model's own readings in it: log entry 60. -/
def Obligations.DawnAndWakesFollowTheRules : Prop :=
  (
    ∀ (s : State), s.power.phase = 3 →
      let dawn (n : Nat) : State := { s with power := { s.power with dawn := n } }
      (s.power.dawn = 1 → exec .aonRegRdy s = .next (dawn 2) ∧ exec .pswRdy s = .next s ∧ exec .pllLock s = .next s)
      ∧ (s.power.dawn = 2 → exec .pswRdy s = .next (dawn 3) ∧ exec .aonRegRdy s = .next s ∧ exec .pllLock s = .next s)
      ∧ (s.power.dawn = 3 → exec .pllLock s = .next (dawn 4) ∧ exec .aonRegRdy s = .next s ∧ exec .pswRdy s = .next s)
      ∧ (∀ bad, s.power.dawn ≠ 4 → exec (.memRdy bad) s = .next s)
      ∧ (∀ bad, s.power.dawn = 4 → s.power.state = 3 → exec (.memRdy bad) s = .next (dawnP3 s bad))
      ∧ (∀ bad, s.power.dawn = 4 → s.power.state = 2 → exec (.memRdy bad) s = .next (dawnP2 s bad)))
  ∧ (
    ∀ (s : State),
      (s.power.phase = 0 → 2 ≤ s.power.state →
        let dawn (u : State) (src : Nat) : State := { u with power := { u.power with
          phase := 3, dawn := 1, block := 0, target := 0, wakeSource := src, seen := 2 ^ (src - 1), latched := none
          lastWake := wakeRec src false (2 ^ (src - 1)) s.power.state s.time.now } }
        (tbit (s.oval keyWakeEnable) 0 = true → s.supply.aonUp = true → exec .wakeEdge s = .next (dawn s 2))
        ∧ (s.oval keyWakeAlarm ≠ 0 → tbit (s.oval keyWakeEnable) 1 = true →
            s.oval keyWakeAlarm / 2 ^ 32 * 1000000000 + s.oval keyWakeAlarm % 2 ^ 32 ≤ s.time.now →
            exec .wakeAlarm s = .next (dawn (s.setOval keyWakeAlarm 0) 3)))
      ∧ (s.power.phase = 1 → tbit (s.oval keyWakeEnable) 0 = true → s.supply.aonUp = true →
          exec .wakeEdge s = .next (refuseDusk s 0x0A 0))
      ∧ (s.power.state = 3 → regLow s = true → exec .aonBrownout s = .next
          (wake ({ s with time := { s.time with now := 0, frac := 0, timeLost := true } }.bump keyAonBrownouts 1) 6))
      ∧ (s.awake = true → s.power.phase = 0 → s.power.state = 1 → s.overcast.on = false → s.sv.switching = none →
          ∀ i t, 25 ≤ i → i ≤ 33 → s.oval keyEngineGate ≠ 0 → islandQuiet s i = true → kget s.power.islandIdle i = some t →
          t + s.oval keyGateIdle * 1000 ≤ s.time.now → i ∉ s.power.gatedIslands →
          exec (.engineIslandGate i) s
            = .next { s with power := { s.power with gatedIslands := sinsert s.power.gatedIslands i } })
      ∧ (s.awake = true → ∀ i bad,
          (16 ≤ i → i < 48 → i ∈ s.power.gatedIslands →
            (∃ x ∈ islandEngines s i, (∃ e ∈ s.entries, kindOfEntry e.kind = x.1) ∧ idleEngines s x.1 = []) →
            let rest := s.power.gatedIslands.filter fun k => decide (k ≠ i)
            exec (.gatedIslandWake i bad) s = .next { s with power := { s.power with gatedIslands := rest } })
          ∧ (i < 16 → (s.cluster i).gated = true →
              exec (.gatedIslandWake i bad) s = .next (settleAll s (wakeCluster s i bad)))))

/-- R439, R533, R538 to R542, R558, R566: the supply inputs with their counters and regions, the loss of the backup input
while it alone feeds the always-on island, and the alarms. R542, R546, R547, R552, R554, R570: power-on, PWR_GOOD and
RESET_N. The cause of each reset, what begins it, and the sampling of the straps at the release; the serviceable instant.
The model's own readings in it: log entries 2, 45, 46 and 61. -/
def Obligations.SuppliesAndResetsFollowTheRules : Prop :=
  (
    ∀ (s : State),
      let main (ok : Bool) : State := { s with supply := { s.supply with mainOk := ok, onBackup := !ok } }
      (s.supply.aonUp = true →
        (s.supply.mainOk = true → exec .vinMainLow s = .next (supplyRegions ((main false).bump keyInputSwitches 1)))
        ∧ (s.supply.mainOk = false → exec .vinMainRestored s = .next (supplyRegions ((main true).bump keyInputSwitches 1)))
        ∧ (∀ mv,
            let ok := if s.supply.bkupOk then decide (s.oval keyBkupOkLevel ≤ mv) else decide (s.oval keyBkupOkLevel + 20 ≤ mv)
            exec (.bkupOkMeasure mv) s
              = .next (supplyRegions { s with supply := { s.supply with bkupMv := mv, bkupOk := ok } }))
        ∧ (s.supply.onBackup = true → ∃ t, exec .vinBkupLoss s = .next t ∧ t.supply.aonUp = false ∧ t.supply.bkupOk = false
            ∧ t.epoch = 0 ∧ t.time.now = 0 ∧ t.time.timeLost = true ∧ t.jobs = [] ∧ t.ja = [] ∧ t.jb = []
            ∧ t.audit.restartOld = some 0xFFFFFFFF ∧ t.power.lastWake = 0))
      ∧ exec .sysRefclkLoss s = .next { s with supply := { s.supply with refclkLost := true } }
      ∧ (∀ hot, exec (.temperatureAlarm hot) s = .next { s with supply := { s.supply with hot := hot } }))
  ∧ (
    ∀ (s : State),
      (s.supply.pwrGood = true →
        let t := { s with supply := { s.supply with pwrGood := false }, flash := { s.flash with xspi := Xspi.init } }
        (s.supply.aonUp = false → exec .pwrGoodFall s = .next t)
        ∧ (s.supply.aonUp = true → s.supply.resetN = true →
            exec .pwrGoodFall s = .next (beginRestart (t.bump keyMainLosses 1) 2))
        ∧ (s.supply.aonUp = true → s.supply.resetN = false → exec .pwrGoodFall s = .next (beginRestart t 2)))
      ∧ (s.supply.pwrGood = false → s.supply.aonUp = true →
          let t := supplyRegions { s with supply := { s.supply with pwrGood := true } }
          (s.supply.resetN = true → exec .pwrGoodRise s = .next (bootUp t))
          ∧ (s.supply.resetN = false → exec .pwrGoodRise s = .next t))
      ∧ (s.supply.resetN = true → s.supply.aonUp = true →
          let t := { s with supply := { s.supply with resetN := false, resetFallAt := s.time.now }
                            flash := { s.flash with xspi := Xspi.init } }
          (¬(s.power.state = 3 ∧ s.power.phase = 0) → exec .resetNFall s = .next (beginRestart t 5))
          ∧ (s.power.state = 3 → s.power.phase = 0 → exec .resetNFall s = .next
              { t with power := { s.power with phase := 3, dawn := 1, wakeSource := 0, pendingCause := some 5 } }))
      ∧ (s.supply.resetN = false → s.supply.aonUp = true →
          (s.supply.resetFallAt + 100000000 ≤ s.time.now → s.power.pendingCause = none →
            exec .resetNCold s = .next (beginRestart s 3))
          ∧ (∀ fpEn a0 a1, s.supply.pwrGood = true → s.power.pendingCause = none →
              exec (.resetNRelease fpEn a0 a1) s = .next (bootUp { s with
                supply := { s.supply with resetN := true, resetRiseAt := s.time.now, refclkLost := false, aui4e0 := a0, aui4e1 := a1 }
                fport := { s.fport with fpEn := fpEn, ir := if s.fport.ir = 0 then 0xFF else s.fport.ir } })))
      ∧ (∀ ok mv, s.supply.aonUp = false → s.supply.pwrGood = false →
          let t := withCause (loseAon s) 1
          exec (.alwaysOnPowerOn ok mv) s = .next { t with supply := { t.supply with
            aonUp := true, mainOk := ok, onBackup := !ok, bkupMv := mv, bkupOk := decide (s.oval keyBkupOkLevel ≤ mv) } })
      ∧ (s.supply.bootState = 4 → s.supply.restart = none → s.powered = true →
          exec .serviceable s = .next (serveStored (becomeServiceable s))))

/-! ## Cleip (R460 to R477) -/

/-- R464 to R473: what a READ, a READ_BLOCK, a first and a last segment of a block write and each SUBSCRIBE answer when they
are served and their status so far is OK. The model's own readings in it: log entries 11, 12, 13 and 49. -/
def Obligations.CleipRequestsAreAnswered : Prop :=
  ∀ (s : State) (r : CleipReq),
    let u := taken s r
    let k := reqKey r
    (Served s 1 r → preStatus u 1 r = csOk → isAlias r.index = false → k ≠ keyConfigBackup →
      exec (.cleipRead r) s = .next (answer u 1 r csOk r.last (readValue u k)))
    ∧ (Served s 1 r → preStatus u 1 r ≠ csOk → exec (.cleipRead r) s = .next (answer u 1 r (preStatus u 1 r) r.last []))
    ∧ (Served s 3 r → preStatus u 3 r = csOk → isDomain k = true → r.length = 4 → k ≠ keyConfigBackup →
        let count := beNat (r.body.take 4)
        let n := min count (domSize u k - r.offset)
        exec (.cleipReadBlock r) s = .next (if count = 0 ∨ bodyLimit r.src.carrier < count ∨ domSize u k ≤ r.offset
          then answer u 3 r csRange r.last []
          else answer u 3 r csOk (decide (r.offset + n = domSize u k)) (readDom u k r.offset n)))
    ∧ (Served s 4 r → preStatus u 4 r = csOk → isDomain k = true → isVariable k = false → r.last = false →
        (∀ b ∈ u.cleip.blocks, b.key ≠ k) →
        let block : BlockWrite :=
          { requester := r.src, key := k, start := r.offset, data := r.body.take r.length, lastSeg := u.time.now, tid := r.tid
            rec' := auditFor u 1 r (reqWrite r r.offset (r.body.take r.length)) }
        let opened : State := { u with cleip := { u.cleip with blocks := u.cleip.blocks ++ [block] } }
        exec (.cleipWriteBlock r) s = .next (if u.cleip.blocks.length < 4 then answer opened 4 r csOk false []
          else endWrite u 4 r (reqWrite r r.offset (r.body.take r.length)) (csBusy, u)))
    ∧ (∀ b, Served s 4 r → preStatus u 4 r = csOk → u.cleip.blocks = [b] → b.key = k → sameReq b.requester r.src = true →
        r.last = true → r.offset = b.start + b.data.length →
        let t : State := { u with cleip := { u.cleip with blocks := [] } }
        let w := reqWrite r b.start (b.data ++ r.body.take r.length)
        exec (.cleipWriteBlock r) s = .next (endWrite t 4 r w (applyWrite none t w true)))
    ∧ (∀ mode, Served s 5 r → preStatus u 5 r = csOk → subMode r = some mode →
        let interval := beNat (slice r.body 4 4)
        let x : Subscr := { requester := r.src, key := okey r.index r.sub, mode := mode, interval := interval, nextTid := 0
                            renewed := u.time.now, lastCompare := u.time.now, lastValue := none, queue := [] }
        (mode = 1 → isDomain k = true → exec (.subscribeOnChange r) s = .next (answer u 5 r csType r.last []))
        ∧ (mode = 1 → isDomain k = false → 10 ≤ interval → interval ≤ 60000 → u.cleip.subs = [] →
            exec (.subscribeOnChange r) s
              = .next (compareSub (answer (setSub u 0 x) 5 r csOk r.last (beBytes 2 0)) 0 x))
        ∧ (mode = 2 → interval = 0 → eventObjects.contains k = true → u.cleip.subs = [] →
            exec (.subscribeOnEvent r) s = .next (answer (setSub u 0 x) 5 r csOk r.last (beBytes 2 0)))
        ∧ (mode = 2 → interval = 0 → eventObjects.contains k = false →
            exec (.subscribeOnEvent r) s = .next (answer u 5 r csRange r.last []))
        ∧ (∀ n y, mode = 0 → interval = 0 → u.cleip.subs = [(n, y)] → sameReq y.requester r.src = true →
            y.key = okey r.index r.sub →
            exec (.subscribeCancel r) s
              = .next (answer { u with cleip := { u.cleip with subs := [] } } 5 r csOk r.last (beBytes 2 n)))
        ∧ (mode = 0 → interval = 0 → u.cleip.subs = [] →
            exec (.subscribeCancel r) s = .next (answer u 5 r csRange r.last [])))

/-- R465 to R467, R475: a message that R465 discards, a repeat, a request in service and the first statuses of R475 in their
order. R467, R471 to R473, R503: the timers of Cleip. An interval that ends compares its value; a lease and an open block
write that ends are reported; a held response that is due is held no more; the backup is rebuilt. The model's own readings
in it: log entries 10, 11, 12 and 49. -/
def Obligations.CleipChecksAndTimersFollowTheRules : Prop :=
  (
    ∀ (s : State) (r : CleipReq) (op : Nat), r.src.carrier < 2 → ethOpen s r.src = true → cleipFrameOk s r = true →
      let u := s.bump keyCleipRx 1
      let limit := bodyLimit r.src.carrier
      (r.version ≠ 1 ∨ r.resp = true → exec (.cleipRead r) s = .next (u.bump keyCleipBadFrames 1))
      ∧ (r.version = 1 → r.resp = false →
          (∀ h, heldFor u 1 r = some h →
            exec (.cleipRead r) s = .next (putResponse (u.bump keyCleipReplays 1) r.src h.response))
          ∧ (heldFor u 1 r = none → (∃ i ∈ u.cleip.inService, sameReq i.req.src r.src = true ∧ i.req.tid = r.tid) →
            exec (.cleipRead r) s = .next (u.bump keyCleipInflightDiscards 1)))
      ∧ (r.body.length < r.length ∨ limit < r.length → preStatus u op r = csLength)
      ∧ (r.length ≤ r.body.length → r.length ≤ limit → ¬(op = 1 ∧ isDomain (reqKey r) = true) → op ≠ 4 →
          (s.sv.switching ≠ none → preStatus u op r = csBusy)
          ∧ (s.sv.switching = none → s.supply.bootState = 7 → servedInRecovery (reqKey r) = false → preStatus u op r = csBusy)
          ∧ (s.sv.switching = none → s.supply.bootState = 5 →
              (indexExists r.index = false → preStatus u op r = csNoObject)
              ∧ (indexExists r.index = true → subExists r.index r.sub = false → preStatus u op r = csNoSub)
              ∧ (indexExists r.index = true → subExists r.index r.sub = true →
                  absentObject u (reqKey r / 256) (reqKey r % 256) = true → preStatus u op r = csAbsent)
              ∧ (indexExists r.index = true → subExists r.index r.sub = true →
                  absentObject u (reqKey r / 256) (reqKey r % 256) = false →
                  preStatus u op r = if grants (reqAccess (reqKey r) (roleOf r.src.carrier)) op then csOk else csDenied))))
  ∧ (
    ∀ (s : State),
      (∀ n x, kget s.cleip.subs n = some x →
        (x.mode = 1 → x.lastCompare + x.interval * 1000000 ≤ s.time.now →
          let y := { x with lastCompare := s.time.now }
          exec (.subscriptionInterval n) s = .next (if x.lastValue = some (subValue s x) then setSub s n y
            else sendEvent s n { y with lastValue := some (subValue s x) } 0 0xFFFFFFFF (subValue s x)))
        ∧ (x.requester.carrier < 2 → x.renewed + s.oval keySubLease * 1000000000 ≤ s.time.now →
          let t := (x.queue ++ [eventMsg s x csTimeout 0xFFFFFFFF []]).foldl (fun t m =>
            (t.sendAt x.requester.carrier (srcPrio x.requester) (.frame (cleipFrame s x.requester m))).bump keyCleipEventsSent 1) s
          exec (.subLeaseLapse n) s = .next { t with cleip := { t.cleip with subs := kdel t.cleip.subs n } }))
      ∧ (∀ b, s.cleip.blocks = [b] → b.lastSeg + s.oval keyCleipBlockTimeout * 1000000 ≤ s.time.now →
          ∃ t, exec (.cleipBlockTimeout b.key) s = .next t ∧ t.cleip.blocks = [] ∧ t.jobs = s.jobs
            ∧ t.audit.head = s.audit.head + (if s.audit.restartOld = none ∧ s.audit.sealKind = sealKindNow (sealTrial s (keyOf s 2)) then 1 else 2))
      ∧ (∀ h tid, h ∈ s.cleip.held → h.time + s.oval keyCleipReplayHold * 1000000 ≤ s.time.now → h.tid = tid →
          ∃ held, exec (.cleipReplayHoldExpiry h.requester tid) s = .next { s with cleip := { s.cleip with held := held } }
            ∧ h ∉ held ∧ ∀ x, x ∈ held → x ∈ s.cleip.held)
      ∧ (s.cleip.rebuildDue ≠ none → mgmtUp s = true → sealOwn s = 0 →
          let t := { s with cleip := { s.cleip with generation := (s.cleip.generation + 1) % 2 ^ 32, rebuildDue := none } }
          exec .configBackupRebuild s = .next { t with cleip := { t.cleip with backup := backupNow t } }))

/-- R460, R462, R463, R485 to R487: transfers on MS, and the instructions and data register of the factory port, which serve
only while the port is enabled; a refused instruction puts BYPASS in force and counts. The model's own readings in it: log
entries 10, 51 and 52. -/
def Obligations.SerialAndFactoryPortsFollowTheRules : Prop :=
  ∀ (s : State),
    (msStores s = false → mgmtUp s = true → canWake s = false →
      (∀ b ok, b ≠ [] → 276 < b.length ∨ serialBusy s 2 = true → exec (.msWriteTransfer ⟨s.cleip.msAddr, b⟩ ok) s = .next (s.bump keyMsOverruns 1))
      ∧ (∀ m ok, m.length + 4 ≤ 276 → 16 ≤ m.length → serialBusy s 2 = false →
          let a := freeAnswer s (if (parseReq 2 m ok).1 = 2 then reqKey (parseReq 2 m ok).2 else 0)
          exec (.msWriteTransfer ⟨s.cleip.msAddr, withCrc m⟩ ok) s
            = .next (takeMessage a.1 a.2 (parseReq 2 m ok).1 (parseReq 2 m ok).2))
      ∧ (∀ n, s.cleip.ms.response = none → serialBusy s 2 = true →
          exec (.msReadTransfer ⟨s.cleip.msAddr, n⟩) s = .next (s.emit (.serial (([1#8] ++ fill n 0xFF).take n)))))
    ∧ (∀ a b ok n, a ≠ s.cleip.msAddr → exec (.msWriteTransfer ⟨a, b⟩ ok) s = .next s ∧ exec (.msReadTransfer ⟨a, n⟩) s = .next s)
    ∧ (s.supply.aonUp = true → s.power.state = 3 → s.power.phase = 0 →
        ∀ b ok, b ≠ [] → b.length ≤ 276 → s.cleip.ms.stored = none → exec (.msWriteTransfer ⟨s.cleip.msAddr, b⟩ ok) s
          = .next { wake s 1 with cleip := { s.cleip with ms := { s.cleip.ms with stored := some b } } })
    ∧ (fpOn s = true →
        let ir (v : Nat) : State := { s with fport := { s.fport with ir := v } }
        exec .bypass s = .next (ir 0xFF) ∧ exec .samplePreload s = .next (ir 0x02) ∧ exec .cleip s = .next (ir 0x20)
        ∧ exec .idcode s = .next ((ir 0x01).emit (.tdo 0x14D350F3))
        ∧ exec .extest s = .next (if s.supply.resetN then (ir 0xFF).bump keyFpRefused 1 else ir 0x00)
        ∧ (∀ code : BitVec 8, 0x40 ≤ code.toNat → code.toNat < 0x80 → exec (.vendorDebug code) s
            = .next (if s.flash.makerLock then (ir 0xFF).bump keyFpRefused 1 else (ir code.toNat).emit (.vendor code.toNat)))
        ∧ (s.fport.ir = 0x20 →
          (∀ b, s.fport.wr.length < 277 →
            exec (.fpAppendByte b) s = .next { s with fport := { s.fport with wr := s.fport.wr ++ [b] } })
          ∧ (∀ ok, mgmtUp s = true → exec (.fpStop ok) s
              = .next (takeTransfer { s with fport := { s.fport with wr := [], rd := none } } 3 s.fport.wr ok))
          ∧ (mgmtUp s = true → s.fport.rd = none → exec .fpFetchByte s = .next
              ({ s with fport := { s.fport with capture := 0x200 + (readStream s 3).1, rd := some (readStream s 3) }
               }.emit (.tdo (0x200 + (readStream s 3).1))))))
    ∧ (fpOn s = false → exec .bypass s = .next s ∧ exec .idcode s = .next s ∧ exec .cleip s = .next s)
    ∧ exec .testLogicReset s = .next { s with fport := { s.fport with ir := 0x01, wr := [], rd := none } }

/-! ## Time (R435 to R458) -/

/-- R436, R440, R441, R445, R451, R452: the beat at each multiple of 1,000 ns with the step that waits, applied while it is
permitted and refused else, a missed beat, a second boundary, the loss of the 10 MHz input, the holdover limit and the
edges of PPS_IN. The model's own readings in it: log entries 9 and 54. -/
def Obligations.BeatsAndBoundariesFollowTheRules : Prop :=
  ∀ (s : State),
    let next := (s.time.now / 1000 + 1) * 1000
    (s.supply.aonUp = true → s.powered = false →
      exec .timeBeat s = .next { s with time := { s.time with now := next, frac := 0, secondDone := false } })
    ∧ (s.supply.aonUp = true → s.powered = true → s.time.step = none → ∃ t, exec .timeBeat s = .next (byTime t)
        ∧ t.time.now = next ∧ t.time.step = none ∧ t.time.increment = s.time.increment ∧ t.time.slew = slewLeft s
        ∧ t.out = s.out ++ [.beat next t.time.incNow none] ∧ { t with time := s.time, out := s.out, mxcs := s.mxcs, cores := s.cores } = s
        ∧ (s.mxcs = [] → t.mxcs = s.mxcs ∧ t.cores = s.cores))
    ∧ (∀ d, s.supply.aonUp = true → s.powered = true → s.time.step = some d →
        (s.time.traced = false ∨ s.oval keyStepAllow ≠ 0 → ∃ t, exec .timeBeat s = .next (byTime t)
          ∧ t.time.now = ((next : Int) + d).toNat ∧ t.time.step = none ∧ t.time.timeLost = false ∧ t.time.stepRefused = false)
        ∧ (s.time.traced = true → s.oval keyStepAllow = 0 → s.time.stepDemanded = false →
          ∃ t, exec .timeBeat s = .next (byTime t)
            ∧ t.time.now = next ∧ t.time.step = none ∧ t.time.stepRefused = true ∧ t.time.timeLost = s.time.timeLost))
    ∧ (∀ i, i < 48 → islandPowered s i = true → exec (.beatTimeout i) s
        = .next { s with time := { s.time with alarms := kset s.time.alarms i s.time.now, beatAlarm := true } })
    ∧ (s.powered = true → s.time.now % 1000000000 = 0 → s.time.secondDone = false →
        s.oval keyPpsOutMode = 0 → ∃ t, exec .secondBoundary s = .next t
          ∧ (∀ g, g < 4 → (t.link g).counters = (s.link g).counters ∧ (t.link g).countersPrev = (s.link g).counters
              ∧ (t.link g).latchSec = s.time.now / 1000000000
              ∧ ((s.link g).framer ≠ 0 → (t.link g).goodSecs
                  = if s.oval keyDegThreshold ≤ (s.link g).secErrRows then 0 else (s.link g).goodSecs + 1))
          ∧ (∀ n, kget t.fh.lanes n = (kget s.fh.lanes n).map fun x => { x with countersPrev := x.counters })
          ∧ t.time.tcCount0 = 0 ∧ t.time.tcCount1 = 0 ∧ t.time.secondDone = true ∧ t.out = s.out ++ (if s.oval keyClk10OutEn = 0 then [] else [.clk10])
          ∧ { t with fh := s.fh, engines := s.engines, time := s.time, out := s.out } = s)
    ∧ (s.time.on10MHz = true →
        exec .ref10mhzLoss s = .next { s with time := { s.time with on10MHz := false, refLost := true } })
    ∧ (domainState s (activeDom s) = 4 →
        (s.domain (activeDom s)).holdoverSince + s.oval keyHoldoverLimit * 1000000000 < s.time.now →
        exec .holdoverLimit s = .next (followPps { s with time := { s.time with holdoverExceeded := true } }))
    ∧ (∀ t : Nat, s.powered = true → s.oval keyPpsInMode = 1 →
        let at' : Int := (t : Int) - s.ovalInt keyPpsInDelay 32
        let offset : Int := (at' + 500000000) / 1000000000 * 1000000000 - at'
        let seen := match s.time.lastPps with
          | some p => decide (p + 999000000 ≤ t) && decide (t ≤ p + 1001000000)
          | none => false
        exec (.ppsInEdge t) s
          = .next { s with time := { s.time with ppsOffset := offset, lastPps := some t, ppsPresent := seen } })
    ∧ (∀ p, s.time.lastPps = some p → p + 1001000000 < s.time.now → s.oval keyPpsInMode = 1 →
        exec .ppsInEdgeMissing s = .next { s with time := { s.time with lastPps := none, ppsPresent := false } })

/-- R443 to R449: an exchange with the selected master gives offset and path delay; an Announce is held and the master
selected anew; a Delay_Req on a MASTER port is answered; what a port sends; the loss of the Announces; forwarding between
ports. The model's own readings in it: log entries 5, 54 and 55. -/
def Obligations.PtpMessagesFollowTheRules : Prop :=
  ∀ (s : State) (p : Nat), p < 2 → s.serving = true → s.powered = true → portUp s p = true →
    (∀ (src : SyncFrom) (t1 t2 t3 t4 corr : Int), ptpDst src.dstMac = false ∨ src.absent ≠ none →
      exec (.ptpSync src p t1 t2 t3 t4 corr) s = .next (s.bump keyPtpDiscarded 1))
    ∧ (∀ (src : SyncFrom) (t1 t2 t3 t4 corr : Int), let n := b2n src.tb
      ptpDst src.dstMac = true → src.absent = none → ptpPort s n p = true → (s.domain n).slave = some p →
      let asym := s.ovalInt (okey (0x3010 + n) (8 + p)) 32
      let delay := ((t2 - t1 - corr) + (t4 - t3)) / 2
      exec (.ptpSync src p t1 t2 t3 t4 corr) s
        = .next (exchange (s.bump keyPtpRx 1) n (t1 + delay + asym + corr - t2) delay.toNat))
    ∧ (∀ n dom mac a, ptpDst mac = true → tcDomain s dom = false → domainOf s dom = some n → ptpPort s n p = true →
        exec (.ptpAnnounce p ⟨mac, dom, none⟩ a) s = .next (reselect ((s.bump keyPtpRx 1).setDomain n
          ((s.domain n).setAnn p (some (a.gmIdentity, bmcaVector s n p a, s.time.now)))) n))
    ∧ (∀ dom mac absent a, ptpDst mac = false ∨ absent ≠ none ∨ domainOf s dom = none → tcDomain s dom = false →
        exec (.ptpAnnounce p ⟨mac, dom, absent⟩ a) s = .next (s.bump keyPtpDiscarded 1))
    ∧ (∀ n dom mac who corr, ptpDst mac = true → tcDomain s dom = false → domainOf s dom = some n → ptpPortState s n p = 6 →
        exec (.ptpDelayReq p ⟨mac, dom, none⟩ who corr) s = .next (((s.bump keyPtpRx 1).sendAt p 0
          (.ptpResp p (ptpMac (s.oval (okey (0x3010 + n) 4))) dom who s.time.now corr)).bump keyPtpTx 1))
    ∧ (∀ tb kind, let n := b2n tb
        (kind < 2 ∧ ptpPortState s n p = 6) ∨ (kind = 2 ∧ ptpPortState s n p = 9) →
        exec (.ptpMessageTransmit tb p kind) s
          = .next ((s.sendAt p 0 (.ptp p (ptpMac (s.oval (okey (0x3010 + n) 4))) (s.oval (keyPtpDomain n)) kind (announced s n))).bump keyPtpTx 1))
    ∧ (∀ tb a, let n := b2n tb
        let d := s.domain n
        d.slave = some p → d.ann p = some a → domainOn s n = true → a.2.2 + 375000000 ≤ s.time.now → d.state = 3 →
        exec (.announceReceiptTimeout tb) s
          = .next (reselect (enterDomain ((s.setDomain n (d.setAnn p none)).bump keyAnnounceTimeouts 1) n 4) n))
    ∧ (∀ dst dom kind res frame, tcDomain s dom = true →
        let n := if p = 0 then s.time.tcCount0 else s.time.tcCount1
        let x := if p = 0 then { s.time with tcCount0 := n + 1 } else { s.time with tcCount1 := n + 1 }
        exec (.tcForward p dst dom kind res frame) s = .next
          (if dst = 0x011B19000000 ∧ n < s.oval keyTcRateLimit ∧ portUp s (1 - p) = true then
            (({ s with time := x } : State).sendAt (1 - p) (tagPcp frame) (.forward (1 - p) (addCorrection frame (if kind < 2 then res * 65536 else 0)))).bump keyTcForwarded 1
          else s.bump keyTcDiscarded 1))

/-- R436, R438, R441, R442, R449, R450, R458: what a write of each time object does. The model's own readings in it: log entry
54. -/
def Obligations.TimeWritesFollowTheRules : Prop :=
  ∀ (s : State) (r : CleipReq),
    Written s r keyTimeSet (fun t w => if 999999999 < w.val % 2 ^ 32 then (csRange, t)
      else if t.time.traced ∧ t.oval keyStepAllow = 0 then (csConflict, refuseStep t)
      else (csOk, { t.setOval keyTimeSet w.val with
        time := { t.time with step := some (((w.val / 2 ^ 32 * 1000000000 + w.val % 2 ^ 32 : Nat) : Int) - t.time.now)
                              stepDemanded := false } })) (exec (.timeSet r) s)
    ∧ Written s r keyAdjust (fun t w =>
        let d := (BitVec.ofNat 32 w.val).toInt
        let u := t.setOval keyAdjust w.val
        if t.oval keyServoMode = 0 then (csConflict, t)
        else if d.natAbs * 1000000000 + t.time.slew.natAbs ≤ t.oval keyStepLimit * 1000000000 then
          (csOk, { u with time := { t.time with slew := t.time.slew + d * 1000000000 } })
        else if t.time.traced ∧ t.oval keyStepAllow = 0 then (csConflict, refuseStep t)
        else (csOk, { u with time := { t.time with step := some (d + t.time.step.getD 0), stepDemanded := false } }))
      (exec (.adjust r) s)
    ∧ Written s r keyIncrement (fun t w => if w.val < 0x1FFE5C91D ∨ 0x2001A36E3 < w.val then (csRange, t)
        else if t.oval keyServoMode = 0 then (csConflict, t)
        else (csOk, { t with time := { t.time with increment := w.val } })) (exec (.increment r) s)
    ∧ Written s r keyActiveDomain (fun t w => if 1 < w.val then (csRange, t)
        else if w.val = 1 ∧ t.part.variant ≠ .m5f then (csAbsent, t)
        else if mayTakeOver t w.val = false then (csConflict, t)
        else ifFlash t w (if w.val = t.oval keyActiveDomain then t else switchDomain t w.val)) (exec (.activeDomain r) s)
    ∧ Written s r keyTimeRefSel (fun t w => if 1 < w.val then (csRange, t) else ifFlash t w
        { t.setOval keyTimeRefSel w.val with time := { t.time with on10MHz := decide (w.val = 1), refLost := false } })
      (exec (.timeRefSel r) s)
    ∧ (∀ n, n = 0 ∨ n = 1 → Written s r (keyPtpDomain n) (fun t w =>
        if w.val < 24 ∨ 43 < w.val then (csRange, t)
        else if t.part.variant = .m5f ∧ t.oval (keyPtpDomain (1 - n)) = w.val then (csConflict, t)
        else ifFlash t w (let u := t.setOval (keyPtpDomain n) w.val
          if t.oval (keyPtpDomain n) = w.val then u
          else reselect (u.setDomain n { u.domain n with ann0 := none, ann1 := none }) n)) (exec (.ptpDomain r) s))
    ∧ Written s r keyTcDomains (fun t w =>
        let u := t.setDom keyTcDomains w.off w.data
        if tcDomain u (t.oval (keyPtpDomain 0)) ∨ (t.part.variant = .m5f ∧ tcDomain u (t.oval (keyPtpDomain 1)))
        then (csConflict, t) else ifFlash t w u) (exec (.tcDomains r) s)

/-! ## Memories and optics (R408 to R432, R506 to R515) -/

/-- R416 to R418, R422, R423, R427, R428: scrubbing a good word and one with a correctable error, a lap past its limit, the
rewriting of a code image, the end of a fill, refresh, power-down, a command parity error and the end of a frequency
change. R424, R428, R430: what a write of each DRAM object does; the active timing set and its delays are not written. The
model's own readings in it: log entries 38, 39, 77 and 79. -/
def Obligations.MemoryUpkeepAndDramWritesFollowTheRules : Prop :=
  (
    ∀ (s : State),
      (∀ u, u < 605 → 576 ≤ u → u < 592 → scrubs s u = true → (s.drizzle u).nextAddr + 8 < 0x800000 →
        let a := clusterBase (u - 576) + (s.drizzle u).nextAddr
        let on (t : State) : State := t.setDrizzle u { s.drizzle u with nextAddr := (s.drizzle u).nextAddr + 8 }
        (kget s.mem.bad a = none → exec (.drizzleRead u none) s = .next (settleAll s (on s)))
        ∧ (kget s.mem.bad a = some .correctable → memAt s a = .cluster (u - 576) →
            exec (.drizzleRead u none) s = .next (settleAll s (on ((setBad s a none).bump keySramCorrected 1)))))
      ∧ (∀ u, u < 605 → scrubs s u = true → (s.drizzle u).late = false →
          (s.drizzle u).lapStart + lapLimit s u * 1000000 < s.time.now → exec (.drizzleLapLimit u) s = .next (raiseLap s u))
      ∧ (∀ i, i ∈ s.mem.rewriting → s.sv.switching = none →
          let t := { s with mem := { s.mem with rewriting := s.mem.rewriting.filter fun k => decide (k ≠ i) } }
          exec (.codeImageRewriteDone i true) s = .next (settleAll s ((cleanImage t i).bump keyCodeReloads 1))
          ∧ exec (.codeImageRewriteDone i false) s = .next (settleAll s (loseImage t i)))
      ∧ (∀ p a n, s.powered = true → s.mem.fills = [(p, a, n)] → poolFilling s p = true → s.cleip.inService = [] →
          exec (.fastFillDone p) s = .next (settleAll s (fastFill { s with mem := { s.mem with fills := [] } } a n)))
      ∧ (∀ k, k < 16 → s.powered = true → rankPresent s k = true →
          ((s.rank k).lastRefresh + refreshNs s ≤ s.time.now →
            exec (.dramRefresh k) s = .next (s.setRank k { s.rank k with lastRefresh := s.time.now }))
          ∧ (s.oval keyRankPdIdle ≠ 0 → (s.rank k).lastRequest + idleNs s ≤ s.time.now → exec (.rankPowerDown k) s = .next (s.setRank k { s.rank k with powerDown := true })))
      ∧ (∀ k, k < 8 → s.powered = true → regionAbsent s (regSub k) = false →
          let x := s.dramChan (k / 2)
          exec (.commandParityError k true) s = .next (s.setDramChan (k / 2) { x with parityRetries := x.parityRetries + 1 })
          ∧ exec (.commandParityError k false) s = .next (settleAll s (loseMemRegion s (regSub k))))
      ∧ (∀ c, c < 4 → (s.dramChan c).changing = true → (∀ d, d < c → (s.dramChan d).changing = false) →
          let u := drainQueue (drainQueue s (2 * c)) (2 * c + 1)
          ∃ t, exec (.dramFreqChangeDone c) s = .next t ∧ t.mem.activeSet = 1 - (s.dramChan c).set
            ∧ t.dramChan c = { s.dramChan c with changing := false, selfRefresh := false, set := 1 - (s.dramChan c).set }
            ∧ (∀ d, d ≠ c → t.dramChan d = s.dramChan d)
            ∧ { t with mem := { t.mem with chans := u.mem.chans, activeSet := u.mem.activeSet } } = u))
  ∧ (
    ∀ (s : State) (r : CleipReq),
      Written s r keyDramConfig (fun t w => match subGiB w.val with
        | none => (csRange, t)
        | some n =>
          let cap := nSubs t * n * 2 ^ 30
          if (∃ i ∈ List.range 0x7E, poolBytes t (i + 1) ≠ 0 ∧ cap < (poolCfg t (i + 1)).base + poolBytes t (i + 1))
              ∨ cap < Config.dramReserved t.supply.fwRelease (Nat.land w.val 0xF01) + t.oval keyResultStoreBytes then (csConflict, t)
          else ifFlash t w (t.setOval keyDramConfig (Nat.land w.val 0xF01))) (exec (.dramConfig r) s)
      ∧ (∀ n k, (n = 0 ∧ k = keyTsa) ∨ (n = 1 ∧ k = keyTsb) → Written s r k (fun t w =>
          let rate := bits (newRec t w 32 0) 255 248
          if n = t.mem.activeSet then (csConflict, t) else if rate ≠ 0x30 ∧ rate ≠ 0x38 ∧ rate ≠ 0x40 then (csRange, t)
          else ifFlash t w (storeRecs t w 32 ((2 ^ 145 - 1) * 2 ^ 111))) (exec (.timingSetWrite r) s))
      ∧ Written s r keyDramDelays (fun t w => if (∃ i ∈ touched w 256, i % 2 = t.mem.activeSet) then (csConflict, t)
          else ifFlash t w (t.setDom keyDramDelays w.off
            (w.data.zipIdx.map fun (b, i) => b &&& BitVec.ofNat 8 (delayMask (w.off + i))))) (exec (.dramDelays r) s)
      ∧ Written s r keyDramFreqCmd (fun t w =>
          let target := 1 - t.mem.activeSet
          if 2 ^ nDramCh t.part.variant ≤ w.val then (csRange, t)
          else if (∃ c ∈ List.range 4, (t.dramChan c).changing = true) ∨ tbit (timingSet t target) 111 = false ∨ t.mem.fills ≠ []
              ∨ t.supply.restart ≠ none then (csConflict, t)
          else (csOk, ((List.range 4).filter fun c => tbit w.val c && decide ((t.dramChan c).set ≠ target)).foldl
            (fun u c => u.setDramChan c { u.dramChan c with changing := true, selfRefresh := true })
            (t.setOval keyDramFreqCmd w.val))) (exec (.dramFreqCmd r) s))

/-- R507 to R513: a poll of a fitted module reads it or counts a failed read and moves its state on; a day boundary; the map
of modules; and the two optics commands with their conditions. The model's own readings in it: log entry 56. -/
def Obligations.OpticsFollowTheRules : Prop :=
  ∀ (s : State),
    (∀ p, p < 32 → s.serving = true → s.powered = true → s.sv.switching = none → moduleOn s p = true →
      (∀ t, (s.module p).lastPoll = some t → t + s.oval keyOmPoll * 1000000 ≤ s.time.now) →
      let polled (t : State) : State := advanceModule (t.setModule p { t.module p with lastPoll := some s.time.now }) p
      let sent : State := s.emit (.om (p / 8) (2 ^ (p % 8)))
      (∀ m, exec (.omPoll p (some m)) s = .next (polled (moduleRead sent p m)))
      ∧ exec (.omPoll p none) s = .next (polled (moduleFail sent p))
      ∧ ((s.module p).fails < 2 → (s.module p).serial = none →
          moduleFail s p = ((s.emit (.omClear (p / 8))).bump keyModuleReadFails 1).setModule p { s.module p with fails := (s.module p).fails + 1 }))
    ∧ (s.serving = true → s.powered = true → s.time.now % (86400 * 1000000000) = 0 → s.opt.day ≠ today s →
        let t := { s with opt := { s.opt with day := today s } }
        let ps := (List.range 32).filter (moduleOn t)
        let u := ps.foldl moduleDay t
        exec .dayBoundary s = .next ((ps.foldl (fun l p => putDrain u p l) []).foldl followModule u))
    ∧ (∀ r : CleipReq, ∀ p, p < 32 →
        (reqVal r = p + 256 →
          Written s r keyOpticsCmd (fun t w => if (t.module p).state = 2 then (csOk, startDrain (t.setOval keyOpticsCmd w.val) p)
            else (csConflict, t)) (exec (.opticsCmdDrain r) s))
        ∧ (reqVal r = p + 512 → Written s r keyOpticsCmd (fun t w =>
            if (t.module p).state = 4 ∧ ¬(t.oval keyAutoDrain ≠ 0 ∧ dueWithin t (t.module p) (t.oval keyDrainDays) = true) then
              (csOk, advanceModule ((t.setOval keyOpticsCmd w.val).setModule p
                { t.module p with restoring := true, todo := moduleLanes t p }) p)
            else (csConflict, t)) (exec (.opticsCmdRestore r) s)))
    ∧ (∀ r : CleipReq, Written s r keyModuleMap (fun t w =>
        let u := storeRecs t w 8 (2 ^ 63 + (2 ^ 28 - 1) * 2 ^ 28)
        let changed := (touched w 8).filter fun p => decide (moduleMap u p ≠ moduleMap t p)
        if ∃ p ∈ touched w 8, noRepeat ((moduleLanes u p).map (· / 17)) = false
            ∨ (∃ n ∈ moduleLanes u p, 17 * nGroups t.part.variant ≤ n)
            ∨ ∃ q ∈ List.range 32, q ≠ p ∧ ∃ n ∈ moduleLanes u p, n ∈ moduleLanes u q then (csRange, t)
        else if ∃ p ∈ changed, moduleOn t p = true ∧ (∃ n ∈ moduleLanes t p, laneDrain t n ≠ .normal) then (csConflict, t)
        else ifFlash t w (changed.foldl (fun v p => v.setModule p Module.init) u)) (exec (.moduleMap r) s))

/-! ## Engines, the narrowband modem and the DMA engines (R278 to R322, R393 to R405) -/

/-- R156, R281, R294, R297, R298, R313, R321, R322: an instance takes the entry that is due to it, with the result its run
will have, and without one nothing changes; the entry ends with that result or with an error, in time or late; the engine
watchdog; the end of a modem slice's test. Each clause gives the next state. The model's own readings in it: log entries
33, 34, 35 and 47. -/
def Obligations.EnginesTakeAndEndTheirEntries : Prop :=
  ∀ (s : State) (n : Nat) (e : Entry),
    let b := e.block.toNat
    (n < 64 → takes s 1 n 1 = some e →
      exec (.ldpcDecode n) s = .next (startEntry s 1 n e (decodeCost (ldpcPar b)) keyAccEntries (runDecode s e)))
    ∧ (n < 32 → takes s 2 n 2 = some e →
      exec (.ldpcEncode n) s = .next (startEntry s 2 n e (encodeCost (ldpcPar b)) keyAccEntries (runEncode s e)))
    ∧ (n < 16 → takes s 3 n 3 = some e →
      exec (.polarDecode n) s = .next (startEntry s 3 n e (polarCost b false) keyAccEntries (runPolarDecode s e)))
    ∧ (n < 16 → takes s 3 n 4 = some e →
      exec (.polarEncode n) s = .next (startEntry s 3 n e (polarCost b true) keyAccEntries (runPolarEncode s e)))
    ∧ (n < 32 → takes s 4 n 5 = some e →
      exec (.fft n) s = .next (startEntry s 4 n e (fftCost b) keyAccEntries (runFft s e false)))
    ∧ (n < 32 → takes s 4 n 6 = some e →
      exec (.ifft n) s = .next (startEntry s 4 n e (fftCost b) keyAccEntries (runFft s e true)))
    ∧ (n < 8 → takes s 5 n 0 = some e →
      (nbIsTx b = false → exec (.nbTransmit n) s = .next s
        ∧ exec (.nbReceive n) s = .next (startEntry s 5 n e (nbCost s e) keyNbEntries (runNbReceive s e)))
      ∧ (nbIsTx b = true → exec (.nbReceive n) s = .next s
        ∧ exec (.nbTransmit n) s = .next (startEntry s 5 n e (nbCost s e) keyNbEntries (runNbTransmit s e))))
    ∧ ((n < 64 → takes s 1 n 1 = none → exec (.ldpcDecode n) s = .next s)
      ∧ (n < 32 → takes s 2 n 2 = none → exec (.ldpcEncode n) s = .next s)
      ∧ (n < 16 → takes s 3 n 3 = none → exec (.polarDecode n) s = .next s)
      ∧ (n < 16 → takes s 3 n 4 = none → exec (.polarEncode n) s = .next s)
      ∧ (n < 32 → takes s 4 n 5 = none → exec (.fft n) s = .next s)
      ∧ (n < 32 → takes s 4 n 6 = none → exec (.ifft n) s = .next s)
      ∧ (n < 8 → takes s 5 n 0 = none → exec (.nbReceive n) s = .next s ∧ exec (.nbTransmit n) s = .next s))
    ∧ (∀ kind cost counter out,
        let t := startEntry s kind n e cost counter out
        (t.engine kind n).entry = some e ∧ (t.engine kind n).result = some out.2 ∧ t.entries = s.entries.erase e)
    ∧ (∀ kind r, n < nEngines .m5f kind → (s.engine kind n).entry = some e → (s.engine kind n).result = some r →
        (∀ code, code = 0x20 ∨ code = 0x21 → exec (.engineEntryEnd kind n (some code)) s
          = .next (settleAll s (engineFault s kind n e code 0 0)))
        ∧ (kind ≠ 5 → exec (.engineEntryEnd kind n none) s = .next (settleAll s (endEntry s kind n e r id)))
        ∧ (kind = 5 → exec (.engineEntryEnd 5 n none) s = .next (settleAll s (endEntry s 5 n e r fun t => match r with
            | .done out _ _ => countNb t e (inputBytes s e) out
            | .error _ _ _ => t)))
        ∧ (watchdogDue s (s.engine kind n) (entryCost s e) = true →
            exec (.engineWatchdog kind n) s = .next (settleAll s (engineFault s kind n e 0x22 0 0)))
        ∧ (watchdogDue s (s.engine kind n) (entryCost s e) = false → exec (.engineWatchdog kind n) s = .next s))
    ∧ (∀ kind, n < nEngines .m5f kind → (s.engine kind n).entry = none →
        (∀ code, code = 0x20 ∨ code = 0x21 →
          exec (.engineEntryEnd kind n (some code)) s = .next (lateError s kind n code (code * 2 ^ 16) 0 true))
        ∧ exec (.engineWatchdog kind n) s = .next (lateError s kind n 0x22 (0x22 * 2 ^ 16) 0 true)
        ∧ (s.late.find? (fun x => decide (x.place = .engine kind n)) = none →
            exec (.engineEntryEnd kind n none) s = .next s)
        ∧ (∀ x code off addr, s.late.find? (fun x => decide (x.place = .engine kind n)) = some x → x.err = some (code, off, addr) →
            exec (.engineEntryEnd kind n none) s
              = .next (lateError s kind n code (code * 2 ^ 16 + off) addr (!unsigned code))))
    ∧ (n < 8 → (s.engine 5 n).testing = none → ∀ passed, exec (.nbSliceBistDone n passed) s = .next s)
    ∧ (∀ t, n < 8 → (s.engine 5 n).testing = some t → (s.engine 5 n).failed = false → t + 1000000 ≤ s.time.now →
        let x := s.engine 5 n
        exec (.nbSliceBistDone n true) s = .next (settleAll s (s.setEngine 5 n { x with testing := none }))
        ∧ exec (.nbSliceBistDone n false) s = .next (settleAll s
            (strike (s.setEngine 5 n { x with testing := none, failed := true }) (regEngine 5 n))))

/-- R396, R399 to R401: a doorbell in each state of a channel, CHAN_RESET, the checks of a fetched descriptor, the six
operations, each on a descriptor of its own, the end of a transfer with its write-back, or with INTERNAL where a data-path
error has struck it (a free bit, log entry 78), and the end check. Each clause gives the next state. R397: the bytes that
the DMA operations move, whatever the lines they are cut into: a copy, a fill, an antenna interleave and its inverse write
each byte of their destination with its own source byte, and a copy writes nothing else. The model's own readings in it:
log entries 36 and 78. -/
def Obligations.DmaFollowsTheRules : Prop :=
  (
    ∀ (s : State) (ch : Nat), ch < 256 → chanLive s ch = true →
      let x := s.chan ch
      (∀ a : BitVec 40,
        let y := { x with lastDoorbell := a.toNat }
        let rung (z : Chan) : Prop := exec (.doorbell ch a) s = .next (s.setChan ch z)
        (x.state = .idle →
          rung { y with state := .running, count := 0, cur := a.toNat, desc := none, moved := none, checks := 0 })
        ∧ (x.state = .running → rung { y with count := 0 })
        ∧ (x.state = .parked → rung { y with count := 0, checks := if x.checks = 0 then 1 else 2 })
        ∧ (x.state = .halted → rung y))
      ∧ (x.state ≠ .running → exec (.chanReset ch) s
          = .next (s.setChan ch { x with state := .idle, desc := none, moved := none, checks := 0, merged := false }))
      ∧ (x.state = .running → exec (.chanReset ch) s = .next (
          let z : Chan := { x with state := .idle, desc := none, moved := none, checks := 0, merged := false }
          if x.desc = none then s.setChan ch z
          else (writeBack s ch x.cur 0x31 ((x.moved.map (·.2.1)).getD 0)).1.setChan ch { z with lastStatus := 0x31 }))
      ∧ (x.state = .running → x.desc = none →
          let fetched (r : Res) (u : State) : Prop := r = .next (settleAll s u)
          let at' (b : List Byte) (i : Nat) : BitVec 64 := BitVec.ofNat 64 (leNat (slice b (8 * i) 8))
          (∀ t er a, chanRead s ch x.cur 64 = (t, .err er a) →
            fetched (exec (.dmaDescriptorFetched ch) s) (haltChan t ch (descStatus er) a))
          ∧ ∀ t b, chanRead s ch x.cur 64 = (t, .ok b) →
            ((at' b 1).getLsbD 63 = false → fetched (exec (.dmaDescriptorFetched ch) s) (haltChan t ch 0x42 x.cur))
            ∧ ((at' b 1).getLsbD 63 = true → x.count ≤ s.oval keyDmaChainLimit →
                let ws := (List.range 8).map (at' b)
                fetched (exec (.dmaDescriptorFetched ch) s) (t.setChan ch { x with
                  count := max 1 x.count, desc := some ws, moved := if (ddOf ws).ok then none else some (0x11, 0, x.cur) }))
            ∧ ((at' b 1).getLsbD 63 = true → s.oval keyDmaChainLimit < x.count →
                let u := t.setChan ch { x with count := s.oval keyDmaChainLimit }
                fetched (exec (.dmaDescriptorFetched ch) s) (haltChan (writeBack u ch x.cur 0x30 0).1 ch 0x30 x.cur)))
      ∧ (∀ ws, x.state = .running → x.desc = some ws → x.moved = none →
          let d := ddOf ws
          let moves (pieces : List Piece) (r : Res) : Prop :=
            let o := runPieces s ch pieces
            r = .next (settleAll s (o.1.setChan ch { o.1.chan ch with
              moved := some (o.2.1, if o.2.1 = 0x01 then d.len else o.2.2.1, o.2.2.2) }))
          (d.op = 0 → moves (copyPieces d) (exec (.dmaCopy ch) s))
          ∧ (d.op = 1 → moves (fillPieces d) (exec (.dmaFill ch) s))
          ∧ (d.op = 2 → moves (interleavePieces d) (exec (.dmaAntennaInterleave ch) s))
          ∧ (d.op = 3 → moves (deinterleavePieces d) (exec (.dmaAntennaDeinterleave ch) s))
          ∧ (d.op = 4 → moves (splitPieces d) (exec (.dmaBitPlaneSplit ch) s))
          ∧ (d.op = 5 → moves (mergePieces d) (exec (.dmaBitPlaneMerge ch) s)))
      ∧ (∀ ws st n fa, x.state = .running → x.desc = some ws → x.moved = some (st, n, fa) →
          let u := { s with free := s.free + 1 }
          let struck := haltChan u ch 0x43 x.cur
          let ends (v : State) : Prop :=
            exec (.dmaTransferEnd ch) s = .next (settleAll s (if Config.dataPathFails s.free then struck else v))
          (∀ t er, writeBack u ch x.cur st n = (t, some er) → ends (haltChan (t.bump keyDmaDescriptors 1) ch (descStatus er) x.cur))
          ∧ (∀ t, writeBack u ch x.cur st n = (t, none) →
            let t := t.bump keyDmaDescriptors 1
            let parked := t.setChan ch { x with state := .parked, desc := none, moved := none, checks := 1, lastStatus := 1 }
            (st = 1 → (ddOf ws).w0.testBit 62 = false → ends parked)
            ∧ (st = 1 → (ddOf ws).w0.testBit 62 = true →
                ends (raiseEvent parked keyDmaChannelErr (16 * ch) (parked.domBytes keyDmaChannelErr (16 * ch) 16)))
            ∧ (st ≠ 1 → ends (haltChan t ch st fa))))
      ∧ (∀ t er a, x.state = .parked → x.checks ≠ 0 → chanRead s ch x.cur 8 = (t, .err er a) →
          exec (.endCheckReturn ch) s = .next (settleAll s (haltChan t ch (descStatus er) a)))
      ∧ (∀ t b, x.state = .parked → x.checks ≠ 0 → chanRead s ch x.cur 8 = (t, .ok b) →
          let w := leNat b
          exec (.endCheckReturn ch) s = .next (settleAll s (t.setChan ch (if w.testBit 63 then { x with checks := x.checks - 1 }
            else { x with state := .running, count := x.count + 1, cur := w % 2 ^ 40, checks := 0 })))))
  ∧ (
    ∀ (d : Dd) (m : Nat → Byte),
      let wrote (ps : List Piece) (a : Nat) : Option Byte :=
        (ps.find? fun p => decide (p.dst ≤ a) && decide (a < p.dst + p.n)).map fun p =>
          (p.make (p.srcs.flatMap fun x => (List.range x.2).map fun i => m (x.1 + i))).getD (a - p.dst) 0
      (∀ a, wrote (copyPieces d) a = if d.dst ≤ a ∧ a < d.dst + d.len then some (m (d.src + (a - d.dst))) else none)
      ∧ (∀ o, o < d.len → wrote (fillPieces d) (d.dst + o) = some (BitVec.ofNat 8 (d.src / 256 ^ (o % 4))))
      ∧ (∀ i a b, 0 < d.ant → d.len % (d.ant * d.e) = 0 → i < d.len / (d.ant * d.e) → a < d.ant → b < d.e →
          wrote (interleavePieces d) (d.dst + (i * d.ant + a) * d.e + b) = some (m (d.src + a * d.stride + i * d.e + b))
          ∧ (d.len / d.ant ≤ d.stride →
              wrote (deinterleavePieces d) (d.dst + a * d.stride + i * d.e + b)
                = some (m (d.src + (i * d.ant + a) * d.e + b)))))

/-! ## Fronthaul lanes (R324 to R346) -/

/-- R327, R328, R331 to R334, R342, R344: the line bits of a block on a lane by its state: polarity, destuffing, the cut into
words, the header and the descrambled payload; lock after 64 valid headers; loss of lock, which strikes an ALIGNED lane
and abandons a drain in its group. Bits on a lane in OFF say that its group's reference has come (log entry 19). The
model's own readings in it: log entry 19. -/
def Obligations.LaneBlocksAndLocksFollowTheRules : Prop :=
  ∀ (s : State) (n : Nat), n < 68 →
    let x := s.lane n
    let seen : Lane := { x with signal := true }
    let cfg := laneCfg s n
    (∀ h u l, let line := h ++ u ++ l
      let polar := if tbit cfg 62 then line.map (!·) else line
      let plain := destuffBits x.rxRun polar
      let held := x.rxBits ++ plain.2.1
      let taken : Lane := { seen with rxRun := plain.1, rxBits := held.drop x.rxSkip, rxSkip := x.rxSkip - held.length
                                      counters := addCtr x.counters 1 plain.2.2 }
      let word := taken.rxBits.take 264
      let k := headerKind (BitVec.ofNat 8 (bitsNum (word.take 8)))
      let clear := throughBits descrambleBit x.scr (word.drop 8)
      let counted : Lane := { taken with scr := clear.1, rxBits := taken.rxBits.drop 264
                                         counters := addCtr taken.counters 0 (if k = .bad then 1 else 0) }
      let slips := tbit (s.oval keySlipMode) (n / 17) = false ∧ s.sv.switching = none
      let up := groupEnabled s (n / 17) = true ∧ s.serving = true ∧ s.powered = true
      (x.state = .off → ¬ up → exec (.laneBlockReceived n h u l) s = .next s)
      ∧ (x.state = .off → up → ∃ t, exec (.laneBlockReceived n h u l) s = .next t
          ∧ (∀ m ∈ groupLanes (n / 17), t.lane m = { Lane.init with
              counters := (s.lane m).counters, countersPrev := (s.lane m).countersPrev
              state := if laneTest s m then .test else .hunt })
          ∧ (t.link (n / 17)).framer = (if tbit (domRec s keyLinkConfig 16 (n / 17)) 127 = true
              ∧ (s.link (n / 17)).framer = 0 then 1 else (s.link (n / 17)).framer)
          ∧ (t.link (n / 17)).txScr = (s.link (n / 17)).txScr ∧ (t.link (n / 17)).txRuns = (s.link (n / 17)).txRuns)
      ∧ (x.state ≠ .off → x.state ≠ .test → taken.rxBits.length < 264 →
          exec (.laneBlockReceived n h u l) s = .next (s.setLane n taken))
      ∧ (x.state = .hunt → 264 ≤ taken.rxBits.length → k ≠ .bad →
          exec (.laneBlockReceived n h u l) s = .next (s.setLane n { counted with goodRun := x.goodRun + 1 }))
      ∧ (x.state = .hunt → 264 ≤ taken.rxBits.length → k = .bad → exec (.laneBlockReceived n h u l) s = .next (s.setLane n
          (if slips then { counted with goodRun := 0, slipPos := (x.slipPos + 1) % 264, rxSkip := counted.rxSkip + 1 }
           else { counted with goodRun := 0 })))
      ∧ (x.state = .locked ∨ x.state = .aligned → 264 ≤ taken.rxBits.length → x.blocks.length ≤ 64 →
          exec (.laneBlockReceived n h u l) s = .next (s.setLane n
            { counted with
              window := (x.window ++ [decide (k = .bad)]).drop (x.window.length - 63)
              blocks := (x.blocks ++ [({ kind := k, payload := payloadOf clear.2 } : LaneBlk)]).drop (x.blocks.length - 63) }))
      ∧ (x.state = .test →
          let seq := prbsErrors x.scr polar
          let mode := bits cfg 61 60
          exec (.laneBlockReceived n h u l) s = .next (if mode = 1 then s else s.setLane n { seen with
            scr := seq.1, echo := if mode = 2 then x.echo ++ line else []
            counters := addCtr x.counters 7 (if tbit cfg 59 then seq.2 else 0) })))
    ∧ (x.state = .hunt → exec (.laneLock n) s = .next (if 64 ≤ x.goodRun
        then s.setLane n { x with state := .locked, window := [], blocks := [], erased := true } else s))
    ∧ (let lost : Lane := { x with state := .hunt, goodRun := 0, window := [], blocks := [], erased := true
                                   counters := addCtr x.counters 2 1 }
      (x.state = .locked → 16 ≤ (x.window.filter id).length → exec (.laneLockLoss n false) s = .next (s.setLane n lost))
      ∧ (x.state = .locked → exec (.laneLockLoss n true) s = .next (s.setLane n { lost with signal := false }))
      ∧ (x.state = .aligned → ∃ t, exec (.laneLockLoss n true) s = .next t ∧ t.lane n = { lost with signal := false }
          ∧ t.regions = (strike s (regLane n)).regions
          ∧ ∀ m ∈ groupLanes (n / 17), m ≠ n → t.lane m = if (s.lane m).drain = .verify
              then { s.lane m with drain := .normal, verifyCount := 0, restoring := false } else s.lane m)
      ∧ (x.state = .locked ∨ x.state = .aligned → (x.window.filter id).length < 16 →
          exec (.laneLockLoss n false) s = .next s))

/-- R329, R334 to R339, R341, R350: a filler row is deleted and places the lanes; a data row is delivered, rebuilt from parity
or absent, no block of a retired lane being used; a row is sent with its parity, the first of a multi-frame with the
instant at which it enters the lanes, or a filler row. The model's own readings in it: log entry 19. -/
def Obligations.LaneRowsFollowTheRules : Prop :=
  ∀ (s : State) (g : Nat), g < 4 →
    (∀ skews n, n ∈ groupLanes g → (∀ m ∈ groupLanes g, (s.lane m).drain ≠ .verify) →
      ((∃ m ∈ groupLanes g, (s.lane m).state = .aligned ∧ laneRetired s m = false) → rowIsFiller s g = true) →
      (∃ m ∈ groupLanes g, ((s.lane m).state = .aligned ∧ laneRetired s m = false)
        ∨ ((s.lane m).state = .locked ∧ fillerOf (s.lane m) ≠ none)) →
      ∀ p rest, fillerOf (s.lane n) = some (p, rest) →
        let skew := skews.getD (n - 17 * g) 0
        let x : Lane := { s.lane n with blocks := rest, laneSeen := fillerLane p, skew := min skew 255
                                        counters := addCtr (s.lane n).counters 5 1 }
        ∃ t, exec (.fillerRow g skews) s = .next t ∧ t.lane n =
          if (s.lane n).state = .aligned then
            (if fillerCount p ≠ groupCount s g then { x with state := .locked, erased := true }
             else { x with skewExcess := decide (s.oval keyDeskewMax < skew), erased := decide (s.oval keyDeskewMax < skew) })
          else if fillerLane p ≠ n % 17 then { x with miswired := true }
          else if fillerCount p ≠ groupCount s g then x
          else if s.oval keyDeskewMax < skew then { x with miswired := false, skewExcess := true }
          else { x with state := .aligned, miswired := false, skewExcess := false, erased := false })
    ∧ (let e := erasedLanes s g
      (s.lane (17 * g)).state ≠ .off → rowIsFiller s g = false →
      (∃ n ∈ groupLanes g, (s.lane n).state = .aligned ∧ laneRetired s n = false ∧ (s.lane n).blocks ≠ []) →
      ∃ t, exec (.rowRelease g) s = .next t
        ∧ ((s.link g).framer = 0 → t.link g = s.link g)
        ∧ ((s.link g).framer ≠ 0 → (t.link g).rx = (s.link g).rx ++ [(s.time.now, (List.range 16).map fun i =>
            if 17 * g + i ∉ e then some (((s.lane (17 * g + i)).blocks.head?.map (·.payload)).getD 0)
            else if e = [17 * g + i] then some (rebuilt s (17 * g + i)) else none)])
        ∧ (∀ n ∈ groupLanes g, (s.lane n).drain ≠ .verify →
            (t.lane n).counters = if n ∈ e ∧ n % 17 ≠ 16
              then addCtr (s.lane n).counters (if e = [n] then 3 else 4) 1 else (s.lane n).counters)
        ∧ (∀ n ∈ groupLanes g, (s.lane n).drain = .verify → n ∉ e → e = [] → blkPayload s n = rebuilt s n →
            (t.lane n).drain = (if (s.lane n).verifyCount + 1 < s.oval keyDrainVerify then .verify
              else if (s.lane n).restoring then .normal else .drained)
            ∧ (t.lane n).verifyCount = (if (s.lane n).verifyCount + 1 < s.oval keyDrainVerify
              then (s.lane n).verifyCount + 1 else 0))
        ∧ (∀ n ∈ groupLanes g, (s.lane n).state = .aligned → (t.lane n).blocks = (s.lane n).blocks.drop 1))
    ∧ ((s.lane (17 * g)).state ≠ .off →
        let x := s.link g
        let sent (filler : Bool) (payload : Nat → BitVec 256) (i : Nat) :=
          let own := filler || laneRetired s (17 * g + i)
          laneSerial s g i own (if own then fillerPayload (x.txBlockCount + 1) i g else payload i) (x.txScr.getD i 0)
            (x.txRuns.getD i (false, 0))
        let heard (l : List (BitVec 58 × (Bool × Nat) × List Bool)) : State := (List.range 17).foldl (fun t i =>
          t.setLane (17 * g + i) (looped s (17 * g + i) ((l[i]?.map (·.2.2)).getD []))) s
        let after (l : List (BitVec 58 × (Bool × Nat) × List Bool)) : Link :=
          { x with txBlockCount := (x.txBlockCount + 1) % 2 ^ 32, txScr := l.map (·.1), txRuns := l.map (·.2.1) }
        (x.txRows = [] ∨ 16383 ≤ x.txSinceFiller →
          let l := (List.range 17).map (sent true fun _ => 0)
          exec (.laneRowTransmit g) s
            = .next (((heard l).setLink g { after l with txSinceFiller := 0 }).emit (.row g true (l.map (·.2.2)))))
        ∧ (∀ row rest, x.txRows = row :: rest → x.txSinceFiller < 16383 →
          let first := beginsMf x.txRows
          let row := if first then stampRow s.time.now row else row
          let l := (List.range 17).map (sent false fun i => if i = 16 then row.foldl (· ^^^ ·) 0 else row.getD i 0)
          let u := (heard l).setLink g { after l with txRows := rest, txSinceFiller := x.txSinceFiller + 1 }
          let head := (row.getD 0 0).toNat
          exec (.laneRowTransmit g) s = .next
            ((if first then u.emit (.header g (bits head 191 160) s.time.now (tbit head 79)) else u).emit
              (.row g false (l.map (·.2.2))))))

/-! ## Fronthaul framing (R347 to R392) -/

/-- R348, R350, R358, R361, R362: the framer finds its phase, keeps its own count, follows the multi-frame headers and leaves
SYNC; what a frame carries is taken in SYNC only. The model's own readings in it: log entry 16. -/
def Obligations.BasicFramesMoveTheFramer : Prop :=
  ∀ (s : State) (g : Nat), g < 4 → 64 ≤ (s.link g).rx.length →
    let x := s.link g
    let rows := (x.rx.take 64).map (·.2)
    let l := frameBytes rows
    let first := (rows[0]?).bind markerBfn
    let noTd : Prop := ∀ i, i < 128 → tdRxEn (tdCont s (128 * g + i)) = false
    (x.framer = 0 → exec (.basicFrameReceived g) s = .next s)
    ∧ (∀ i b, x.framer = 1 → i < 64 → x.phaseCounts = [((x.phase + i) % 64, 2)] →
        (∀ j, j < 64 → (rows[j]?).bind markerBfn = if j = i then some b else none) →
        ∃ t, exec (.basicFrameReceived g) s = .next t ∧ (t.link g).framer = 2 ∧ (t.link g).ownCount = b
          ∧ (t.link g).phase = (x.phase + i) % 64 ∧ (t.link g).rx = x.rx.drop i ∧ (t.link g).phaseCounts = [])
    ∧ (x.framer = 3 → first = some x.ownCount → 0 < x.ownCount →
        let y : Link := { x with rx := x.rx.drop 64, noMarker := 0, ownCount := (x.ownCount + 1) % 256 }
        (x.lastAis = false → x.airTimeErr = false → fhStopped s 5 = false → exec (.basicFrameReceived g) s
          = .next (trackDefects (takeFrame (s.setLink g y) g x.ownCount ((x.rx.take 64).map (·.1)) l) g))
        ∧ (x.lastAis = true → exec (.basicFrameReceived g) s = .next (trackDefects (s.setLink g (dropFrame y)) g)))
    ∧ (x.framer = 3 → x.ownCount = 0 → first = some 0 → noTd →
        let h := mfHeader l
        let air := bits h 415 368 * 1000000000 + bits h 367 336
        ∃ t, exec (.basicFrameReceived g) s = .next t
          ∧ (mfValid l = true → bits h 447 416 = x.expectMf → let d : Int := ((x.rx.map (·.1)).headD 0 : Int) - air
              (t.link g).framer = 3 ∧ (t.link g).hdrFails = 0 ∧ (t.link g).expectMf = (x.expectMf + 1) % 2 ^ 32
              ∧ (t.link g).mfNum = bits h 447 416 ∧ (t.link g).delay = d
              ∧ ((t.link g).airTimeErr = true ↔ d < 0 ∨ (bits (linkCfg s g) 63 32 : Int) < d)
              ∧ (t.link g).lastAis = tbit h 334 ∧ (t.link g).lastRdi = tbit h 335)
          ∧ (mfValid l = false → x.hdrFails = 0 → (t.link g).framer = 3 ∧ (t.link g).hdrFails = 1
              ∧ (t.link g).expectMf = (x.expectMf + 1) % 2 ^ 32 ∧ (t.link g).counters = addCtr x.counters 2 1)
          ∧ (mfValid l = false → 1 ≤ x.hdrFails → (t.link g).framer = 1 ∧ (t.link g).counters = addCtr x.counters 2 1))
    ∧ (x.framer = 2 ∨ x.framer = 3 → first = none → 3 ≤ x.noMarker →
        ∃ t, exec (.basicFrameReceived g) s = .next t ∧ (t.link g).framer = 1
          ∧ (t.link g).counters = addCtr (addCtr x.counters 0 1) 1 1 ∧ (t.link g).stream = [])

/-- R355 to R357, R364, R366, R389: a section came whole when the row with its last byte was released; an invalid header skips
to the next place that a SEC_PTR names; pads are passed over; a section of another cell, or too late, is counted; one in
time lands in the version of its slot. The model's own readings in it: log entries 15 and 16. -/
def Obligations.SectionsLandInTheirVersions : Prop :=
  ∀ (s : State) (g : Nat), g < 4 → (s.link g).inStep = true → 16 ≤ (s.link g).stream.length →
    let x := s.link g
    let l : List (Option Byte) := x.stream.map fun b => if b.2.1 then none else some b.1
    let h := secHdr (heldBytes l 0 16)
    let n := secLength h
    let a := slotOfN (s.cell h.cell) h.slot s.time.now
    let rec' := fhCell s h.cell
    let came := (x.stream[n - 1]?.map (·.2.2)).getD 0
    let fits : Prop := fhEnable rec' = true ∧ fhLink rec' = g ∧ fhComp rec' = h.comp
    (secHeld s l = false → let t := bumpLink s g 3 1
      exec (.sectionReceived g) s = .next (t.setLink g (resync (t.link g) 16)))
    ∧ (secHeld s l = true → n ≤ x.stream.length →
        (h.kind ≠ 1 → exec (.sectionReceived g) s = .next (s.setLink g (streamFrom x n)))
        ∧ (h.kind = 1 → ¬fits → ∃ t, exec (.sectionReceived g) s = .next t ∧ (t.link g).stream = x.stream.drop n
            ∧ (t.link g).counters = addCtr (addCtr x.counters 4 1) 5 1 ∧ t.fh.vers = s.fh.vers)
        ∧ (h.kind = 1 → fits → sealedOut s false h.cell a came = true → ∃ t, exec (.sectionReceived g) s = .next t
            ∧ (t.link g).counters = addCtr (addCtr x.counters 4 1) 7 1 ∧ t.fh.vers = s.fh.vers)
        ∧ (∀ k v i base, h.kind = 1 → fits → sealedOut s false h.cell a came = false → fhFind s false h.cell a = some (k, v) →
            v.damaged = false → v.phys = some i → physUsable s v.pool i = true → fhvAddr s v = some base →
            kget s.fh.vers k = some v → h.port < fhPorts rec' → h.first + h.num ≤ fhNrb rec' → 0 < h.num →
            allHeld l 16 (h.num * groupBytes h.comp) = true →
            let block (j : Nat) : Nat := (h.port * 14 + h.symbol) * fhNrb rec' + h.first + j
            (∀ j, j < h.num → v.expected.contains (block j) = true ∧ v.landed.contains (block j) = false) →
            ∃ t w, exec (.sectionReceived g) s = .next t ∧ kget t.fh.vers k = some w
              ∧ w.landed = v.landed ++ (List.range h.num).map block ∧ w.sections = v.sections + 1
              ∧ (t.link g).counters = addCtr x.counters 4 1))

/-- R359, R364, R365, R387: a defect is declared and cleared when its condition has held for its time; a version is sealed
LATE_MAX after its slot, and released when its retention has passed and no job holds it. The model's own readings in it:
log entries 14, 16 and 66. -/
def Obligations.DefectsAndVersionsFollowTheirTimes : Prop :=
  ∀ (s : State),
    (∀ g d, g < 4 → 3 ≤ d → d ≤ 5 → let x := s.link g
      let moved (m : Nat) : State :=
        let t := trackDefects (s.setLink g { x with defects := m, condSince := kdel x.condSince d }) g
        raiseEvent t keyLinkStatus (16 * g) (beBytes 16 (linkStatusNat (t.link g)))
      (∀ t0, x.framer ≠ 0 → tbit x.defects d = false → kget x.condSince d = some t0 →
        t0 + s.oval (defectKeys d).1 * 1000 ≤ s.time.now → exec (.defectSet g d) s = .next (moved (x.defects + 2 ^ d)))
      ∧ (∀ t0, x.framer ≠ 0 → tbit x.defects d = true → kget x.condSince d = some t0 →
          t0 + s.oval (defectKeys d).2 * 1000 ≤ s.time.now → exec (.defectClear g d) s = .next (moved (x.defects - 2 ^ d)))
      ∧ (∀ t0, kget x.condSince d = some t0 → s.time.now < t0 + s.oval (defectKeys d).1 * 1000 →
          exec (.defectSet g d) s = .next s))
    ∧ (∀ g, g < 4 → let x := s.link g
        let moved (d m : Nat) : State :=
          let t := trackDefects (s.setLink g { x with defects := m, condSince := kdel x.condSince d }) g
          raiseEvent t keyLinkStatus (16 * g) (beBytes 16 (linkStatusNat (t.link g)))
        (x.framer ≠ 0 → tbit x.defects 4 = false → tbit x.defects 3 = false → tbit x.defects 2 = false → x.lastAis = true →
          s.oval keyAisSet ≤ x.aisRun → exec (.defectSet g 2) s = .next (moved 2 (x.defects + 4)))
        ∧ (x.framer ≠ 0 → tbit x.defects 4 = false → tbit x.defects 3 = false → tbit x.defects 1 = true → x.lastRdi = false →
            s.oval keyRdiClear ≤ x.rdiRun → exec (.defectClear g 1) s = .next (moved 1 (x.defects - 2)))
        ∧ (x.framer ≠ 0 → tbit x.defects 0 = false → s.oval keyDegSet ≤ x.badSecs →
            exec (.defectSet g 0) s = .next (moved 0 (x.defects + 1))))
    ∧ (∀ n v, kget s.fh.vers n = some v →
        (v.sealed = false → slotEnd (s.cell (fhvCell s v)) v.slot + lateMax s (fhvLink s v) ≤ (s.time.now : Int) →
          exec (.versionSeal n) s = .next (settleAll s (bumpLink (sealFhv s n) (fhvLink s v) (if v.container then 9 else 8)
            (v.expected.filter fun j => !v.landed.contains j).length)))
        ∧ (v.sealed = true ∨ (s.time.now : Int) < slotEnd (s.cell (fhvCell s v)) v.slot + lateMax s (fhvLink s v) →
            exec (.versionSeal n) s = .next s)
        ∧ (∀ i, v.sealed = true → v.released = false → v.pins = [] → v.phys = some i →
            v.sealTime + fhRetain (fhCell s (fhvCell s v)) * (s.cell (fhvCell s v)).slotNs ≤ s.time.now →
            exec (.versionRetainExpiry n) s
              = .next (settleAll s (givePhys (setFhv s n { v with released := true, phys := none }) v.pool i)))
        ∧ (v.pins ≠ [] → exec (.versionRetainExpiry n) s = .next s))

/-- R347 to R352, R354 to R356, R360, R367, R392: a frame with nothing queued carries pads, one with a section that is in time
carries it, and one too late is counted; a section too late, on a link, or on a virtual link; a container's next sample.
The model's own readings in it: log entries 14 and 17. -/
def Obligations.FronthaulSendingFollowsTheRules : Prop :=
  ∀ (s : State),
    (∀ g, g < 4 → let x := s.link g
      let start := bits (linkCfg s g) 111 96
      let rdi := x.declared 4 || x.declared 3
      let bf0 := decide (x.txBfn = 0)
      let head := beBytes 4 0x6D2BF385 ++ [BitVec.ofNat 8 x.txBfn, 0] ++ fill 2 0
        ++ (if bf0 then mfHeaderBytes s g x 0 rdi else fill 56 0)
      let area (w : List Byte) : List Byte := w ++ padding (32768 - start - w.length)
      let body (w : List Byte) := (scrambleBytes (scrAtFrame x.txBfn) ((fill (start - 64) 0 ++ area w).map some)).map fun b => b.getD 0
      let y (w : List Byte) : Link := { x with
        txRows := frameRows (head ++ body w), txSecs := [], txPart := false, rdiSent := if bf0 then rdi else x.rdiSent
        txBfn := (x.txBfn + 1) % 256, txMfNum := if x.txBfn = 255 then (x.txMfNum + 1) % 2 ^ 32 else x.txMfNum }
      (tbit (linkCfg s g) 127 = true → (s.lane (17 * g)).state ≠ .off → x.txRows = [] → x.framer ≠ 3 →
        (∀ i, i < 128 → tdTxEn (tdCont s (128 * g + i)) = false) →
        (x.txSecs = [] → exec (.basicFrameTransmit g) s = .next (s.setLink g (y [])))
        ∧ (∀ w, x.txSecs = [w] → x.txPart = false → w.limit ≤ (s.time.now : Int) →
            exec (.basicFrameTransmit g) s = .next (bumpLink (s.setLink g (y [])) g 12 1))
        ∧ (∀ w, x.txSecs = [w] → x.txPart = false → (s.time.now : Int) < w.limit → w.bytes.length ≤ 32768 - start →
            exec (.basicFrameTransmit g) s = .next (bumpLink (s.setLink g (y w.bytes)) g 11 1)))
      ∧ (x.txRows ≠ [] → exec (.basicFrameTransmit g) s = .next s))
    ∧ (∀ q x r, q < 68 → kget s.fh.txq q = some (x :: r) →
        let t : State := { s with fh := { s.fh with txq := if r = [] then kdel s.fh.txq q else kset s.fh.txq q r } }
        let inTime : Prop := (s.time.now : Int) < x.slotStart - txAdvance s q ∧ ∀ v, kget s.vers x.ver = some v → v.st ≠ .damaged
        (x.slotStart - (txAdvance s q : Int) ≤ s.time.now →
          exec (.sectionTransmit q) s = .next (retireSent (bumpLink t q 12 1) x.ver))
        ∧ (∀ v, (s.time.now : Int) < x.slotStart - txAdvance s q → kget s.vers x.ver = some v → v.st = .damaged →
            exec (.sectionTransmit q) s = .next (retireSent (t.bump keyTxSectionsInvalid 1) x.ver))
        ∧ (inTime → txReady s q = false → exec (.sectionTransmit q) s = .next s)
        ∧ (q < 4 → inTime → txReady s q = true → let u := t.emit (.sectionSent q x.bytes)
            exec (.sectionTransmit q) s = .next (retireSent
              (u.setLink q { s.link q with
                txSecs := (s.link q).txSecs ++ [{ limit := x.slotStart - txAdvance s q, bytes := x.bytes }] }) x.ver))
        ∧ (4 ≤ q → inTime → txReady s q = true → exec (.sectionTransmit q) s
            = .next (retireSent (ecpriSection (t.emit (.sectionSent q x.bytes)) (q - 4) x.control x.bytes) x.ver)))
    ∧ (∀ c, c < 512 → let d := tdCont s c
        let g := c / 128
        let p := (nextSample s c).1
        let goesOn := (nextSample s c).2
        let due := airTime s c p - (txDue s c : Int)
        let e := max 1 (samplesPerEpoch s c)
        let old : ContRx := kgetD (s.link g).txStore (c % 128) { bits := [], index := p.2 }
        tdTxEn d = true → hasNbm s.part.variant = true → tdDen d ≠ 0 → tdNum d ≠ 0 → linkEnabled s g = true → groupOn s g = true →
        fhStopped s 6 = false →
        ((s.time.now : Int) + 1000 ≤ due → exec (.containerSampleTransmit c) s = .next s)
        ∧ (due < (s.time.now : Int) + 1000 → txVersion s c (slotAt (s.cell (tdCell d)) (airTime s c p)) = none →
            let st : ContRx := { bits := (if goesOn then old.bits else []) ++ List.replicate 32 (some false), index := (p.2 + 1) % e }
            let u := s.setLink g { s.link g with txStore := kset (s.link g).txStore (c % 128) st }
            exec (.containerSampleTransmit c) s
              = .next ({ u with fh := { u.fh with contTx := kset u.fh.contTx c (p.1 * e + p.2 + 1) } }.emit (.sample c p.2 0))))

/-! ## eCPRI, the management channel and radio units (R368 to R374, R514) -/

/-- R357, R361, R369 to R373, R514: eCPRI messages are numbered, counted and taken as sections, and only a valid one tells the
peer's addresses; delay measurements are answered; a management response moves the poll of the radio unit on; a request is
retried MC_RETRIES times. The model's own readings in it: log entries 16, 18, 57 and 67. -/
def Obligations.RadioUnitMessagesFollowTheRules : Prop :=
  ∀ (s : State),
    (∀ port src frame id seqId b, port < 2 → ecpriTaken s port src frame = true →
      let v := id.toNat
      let seq := seqId.toNat / 256
      let u := ecpriNote s v seq
      let h := secHdr (b.take 16)
      let bad := s.bump keyEcpriDiscarded 1
      (64 ≤ v ∨ tbit (vlinkCfg s v) 127 = false ∨ seqId.toNat % 256 ≠ 128 →
        exec (.ecpriIqData port src ⟨frame, 0⟩ id seqId b) s = .next bad
        ∧ exec (.ecpriRtControl port src ⟨frame, 2⟩ id seqId b) s = .next bad)
      ∧ (∀ type, type ∉ [0, 2, 5] → exec (.ecpriIqData port src ⟨frame, type⟩ id seqId b) s = .next bad
          ∧ exec (.ecpriRtControl port src ⟨frame, type⟩ id seqId b) s = .next bad
          ∧ exec (.ecpriDelayMeasurement port src ⟨frame, type⟩ 0 0 0) s = .next bad)
      ∧ (v < 64 → tbit (vlinkCfg s v) 127 = true → seqId.toNat % 256 = 128 →
          let whole : Prop := secValid u (b.take 16) = true ∧ secLength h ≤ b.length
          (whole → h.kind = 2 → exec (.ecpriRtControl port src ⟨frame, 2⟩ id seqId b) s = .next (ecpriLearn u port src v))
          ∧ (whole → h.kind = 1 → exec (.ecpriIqData port src ⟨frame, 0⟩ id seqId b) s
              = .next (landSection (ecpriLearn u port src v) (4 + v) { hdr := h, groups := sectionGroups h (b.map some) } s.time.now))
          ∧ (¬ whole → exec (.ecpriIqData port src ⟨frame, 0⟩ id seqId b) s = .next u
              ∧ exec (.ecpriRtControl port src ⟨frame, 2⟩ id seqId b) s = .next u)
          ∧ (u.vlink v).seqRx = some seq ∧ (u.vlink v).peer0 = (s.vlink v).peer0 ∧ (u.vlink v).peer1 = (s.vlink v).peer1
          ∧ (if port = 0 then ((ecpriLearn u port src v).vlink v).peer0 else ((ecpriLearn u port src v).vlink v).peer1) = some src
          ∧ u.oval keyEcpriSeqGaps
              = min (s.oval keyEcpriSeqGaps + if ∃ n ∈ (s.vlink v).seqRx, (n + 1) % 256 ≠ seq then 1 else 0) 0xFFFFFFFF))
    ∧ (∀ port src frame ident t2, port < 2 → ecpriTaken s port src frame = true →
        (∀ action, action < 2 → exec (.ecpriDelayMeasurement port src ⟨frame, 5⟩ action ident t2) s
          = .next (((s.bump keyEcpriRx 1).sendAt port (s.oval keyEcpriPcp) (.frame (ecpriFrame s port src
              ([0x10, 5] ++ beBytes 2 20 ++ (beBytes 1 ident ++ [0x02] ++ time80 t2 ++ fill 8 0))))).bump keyEcpriTx 1))
        ∧ (∀ action, 1 < action → exec (.ecpriDelayMeasurement port src ⟨frame, 5⟩ action ident t2) s
            = .next (s.bump keyEcpriDiscarded 1)))
    ∧ (∀ port src frame id seqId b, port < 2 →
        encapHolds src.encap frame (s.oval keyEcpriEncap) 0xAEFE (s.oval keyEcpriUdp) = false
          ∨ addressedTo src.encap frame (ownAddrs s port) = false ∨ portUp s port = false →
        exec (.ecpriIqData port src ⟨frame, 0⟩ id seqId b) s = .next s
        ∧ exec (.ecpriRtControl port src ⟨frame, 2⟩ id seqId b) s = .next s)
    ∧ (∀ g b, g < 4 → (s.link g).framer ≠ 3 ∨ (s.link g).lastAis = true ∨ (s.link g).airTimeErr = true →
        exec (.mcMessageReceived g b) s = .next s)
    ∧ (∀ g, g < 4 → (s.link g).framer = 3 → (s.link g).lastAis = false → (s.link g).airTimeErr = false → let x := s.link g
        let closed := s.setLink g { x with mcReq := none, mcTx := [], mcTxMid := false }
        (∀ r m, x.mcReq = some r → m.length ≤ 64 → r.tid < 65536 →
          let reply (status : Nat) (value : List Byte) : List Byte :=
            let b := [0x81] ++ beBytes 2 r.tid ++ beBytes 1 status ++ beBytes 1 value.length ++ value
            b ++ beBytes 2 (crc16 b).toNat
          (∀ st, st < 256 → exec (.mcMessageReceived g (reply st m)) s = .next (ruAnswer closed g st m))
          ∧ ((s.ru g).step = some 4 → exec (.mcMessageReceived g (reply 0 m)) s = .next (closed.setRu g
              { s.ru g with step := none, replaceBy := beNat m % 2 ^ 32, readDay := s.time.now / 1000000000 / 86400 })))
        ∧ (∀ b, b.length < 3 → exec (.mcMessageReceived g b) s = .next (bumpLink s g 13 1))
        ∧ (∀ r, x.mcReq = some r → r.sentAt + s.oval keyMcTimeout * 1000 ≤ s.time.now →
            (r.tries < s.oval keyMcRetries →
              let b := [0x01] ++ beBytes 2 r.tid ++ beBytes 2 r.index ++ beBytes 1 r.sub
              exec (.mcTimeout g) s = .next ((s.setLink g { x with
                  mcReq := some { r with tries := r.tries + 1, sentAt := s.time.now }
                  mcTx := b ++ beBytes 2 (crc16 b).toNat, mcTxMid := false }).emit (.mc g r.tid r.index r.sub)))
            ∧ (s.oval keyMcRetries ≤ r.tries →
              exec (.mcTimeout g) s = .next (closed.setRu g { s.ru g with step := none })))
        ∧ (∀ r, x.mcReq = none → kget s.opt.rus g = some r → r.step = none →
            r.lastPoll + s.oval keyRuPoll * 1000000000 ≤ s.time.now → s.sv.switching = none →
            exec (.ruPoll g) s = .next (ruNext (s.setRu g { r with lastPoll := s.time.now }) g 0)
            ∧ ∀ t, exec (.ruPoll g) s = .next t → (t.link g).mcReq
                = some { tid := x.mcNextTid, index := 0x1000, sub := 1, sentAt := s.time.now, tries := 0 }))

/-! ## Writes of the fronthaul (R302 to R305, R332 to R344, R353, R375, R376, R381, R384, R386) -/

/-- R326, R332 to R334, R339, R342 to R344: what a write of GROUP_ENABLE, LANE_CMD and LANE_CONFIG does. The model's own
readings in it: log entries 13, 19 and 73. -/
def Obligations.LaneWritesFollowTheRules : Prop :=
  ∀ (s : State) (r : CleipReq),
    Written s r keyGroupEnable (fun t w =>
        let old := t.oval keyGroupEnable
        let u := storeVal t w
        if 2 ^ nGroups t.part.variant ≤ w.val then (csRange, t)
        else if ∃ g ∈ List.range 4, tbit old g = true ∧ tbit w.val g = false ∧ tbit (linkCfg t g) 127 = true then (csConflict, t)
        else ifFlash t w ((List.range (nGroups t.part.variant)).foldl (fun (v : State) g =>
          if tbit w.val g = true ∧ groupOn v g = false then startGroup v g
          else if tbit w.val g = false ∧ groupOn v g = true then stopGroup v g else v) u)) (exec (.groupEnable r) s)
    ∧ (let n := reqVal r % 128
      let legal : Prop := n < 17 * nGroups s.part.variant ∧ reqVal r = n + 256 * laneCode r
      (legal → laneCode r = 1 → Written s r keyLaneCmd (fun t w => let x := t.lane n
          if tbit (t.oval keySlipMode) (n / 17) = true ∧ ¬(x.state = .aligned ∧ laneDrain t n ≠ .drained)
          then (csOk, storeVal (t.setLane n { x with slipPos := (x.slipPos + 1) % 264, rxSkip := x.rxSkip + 1 }) w) else (csConflict, t))
        (exec (.laneCmdSlip r) s))
      ∧ (legal → laneCode r = 2 →
          let t := taken s r
          let may : Prop := (t.lane n).drain = .normal ∧ laneRetired t n = false ∧ (t.lane (17 * (n / 17) + 16)).state = .aligned
            ∧ ∀ m ∈ groupLanes (n / 17), m ≠ n → (t.lane m).drain = .normal ∧ laneRetired t m = false
          (may → Written s r keyLaneCmd (fun t w =>
              (csOk, storeVal (t.setLane n { t.lane n with drain := .verify, verifyCount := 0, restoring := false }) w))
            (exec (.laneCmdDrain r) s))
          ∧ (¬may → Written s r keyLaneCmd (fun t _ => (csConflict, t)) (exec (.laneCmdDrain r) s)))
      ∧ (legal → laneCode r = 3 → Written s r keyLaneCmd (fun t w => let x := t.lane n
          if x.drain = .drained ∧ x.state = .aligned ∧ laneRetired t n = false
          then (csOk, storeVal (t.setLane n { x with drain := .verify, verifyCount := 0, restoring := true }) w) else (csConflict, t))
        (exec (.laneCmdRestore r) s))
      ∧ (¬legal ∨ laneCode r = 0 ∨ 3 < laneCode r → laneCode r ≠ 2 → laneCode r ≠ 3 →
          Written s r keyLaneCmd (fun t _ => (csRange, t)) (exec (.laneCmdSlip r) s))
      ∧ (¬legal → laneCode r = 2 → Written s r keyLaneCmd (fun t _ => (csRange, t)) (exec (.laneCmdDrain r) s))
      ∧ (¬legal → laneCode r = 3 → Written s r keyLaneCmd (fun t _ => (csRange, t)) (exec (.laneCmdRestore r) s)))
    ∧ Written s r keyLaneConfig (fun t w =>
        let ns := (touched w 8).filter fun n => decide (n < 68)
        let v (n : Nat) : Nat := newRec t w 8 n
        if ∃ n ∈ ns, bits (v n) 61 60 = 3 ∨ bits (v n) 55 48 < 40 ∨ 120 < bits (v n) 55 48 ∨ 10 < bits (v n) 47 44 then (csRange, t)
        else if ∃ n ∈ ns, bits (v n) 61 58 ≠ 0 ∧ bits (v n) 61 58 ≠ bits (laneCfg t n) 61 58 ∧ groupEnabled t (n / 17) = true
            ∧ laneDrain t n ≠ .drained then (csConflict, t)
        else ifFlash t w (ns.foldl followTest (storeRecs t w 8 (0xFCFFFFF * 2 ^ 36)))) (exec (.laneConfig r) s)

/-- R302 to R305, R353, R375, R376, R381, R384, R386: what a write of the links, the containers, their landing, the pool
roles, the cells and the narrowband settings does. The model's own readings in it: log entries 17 and 66. -/
def Obligations.FronthaulWritesFollowTheRules : Prop :=
  ∀ (s : State) (r : CleipReq),
    Written s r keyLinkConfig (fun t w =>
        let gs := touched w 16
        let v (g : Nat) : Nat := newRec t w 16 g
        let start (g : Nat) : Nat := bits (v g) 111 96
        if ∃ g ∈ gs, start g % 16 ≠ 0 ∨ start g < 112 ∨ 32752 < start g ∨ 1000000 < bits (v g) 95 64 ∨ bits (v g) 63 32 < 1000
            ∨ 1000000 < bits (v g) 63 32 ∨ bits (v g) 31 0 < 10000 ∨ 1000000 < bits (v g) 31 0
            ∨ ∃ i ∈ List.range 128, tdOn (tdCont t (128 * g + i)) = true
              ∧ start g < tdOffset (tdCont t (128 * g + i)) + tdArea (tdCont t (128 * g + i)) then (csRange, t)
        else if ∃ g ∈ gs, (tbit (v g) 127 = true ∧ groupEnabled t g = false)
            ∨ (tbit (linkCfg t g) 127 = true ∧ bits (v g) 119 0 ≠ bits (linkCfg t g) 119 0) then (csConflict, t)
        else ifFlash t w (gs.foldl followLink (storeRecs t w 16 (2 ^ 127 + (2 ^ 120 - 1))))) (exec (.linkConfig r) s)
    ∧ Written s r keyTdContainers (fun t w =>
        let is := touched w 16
        let u := storeRecs t w 16 (3 * 2 ^ 126 + (2 ^ 92 - 1) * 2 ^ 32)
        if ∃ i ∈ is, tdContOk u (i / 128) (i % 128) = false then (csRange, t)
        else if ∃ i ∈ is, tdOn (tdCont t i) = true ∧ linkEnabled t (i / 128) = true ∧ tdCont u i ≠ tdCont t i then (csConflict, t)
        else ifFlash t w u) (exec (.tdContainers r) s)
    ∧ Written s r keyTdLanding (fun t w =>
        let u := storeRecs t w 8 (0xFFFF * 2 ^ 48)
        if ∃ i ∈ touched w 8, tdOn (tdCont u i) = true ∧ tdPoolsOk u (tdCont u i) (tdRxPool u i) (tdTxPool u i) = false
        then (csRange, t) else ifFlash t w u) (exec (.tdLanding r) s)
    ∧ Written s r keyAnvilPoolRole (fun t w =>
        let role (i : Nat) : Nat := overlaid t w i
        let changed := (touched w 1).filter fun i => decide (role i ≠ poolRole t (0x80 + i))
        if ∃ i ∈ touched w 1, 4 < role i ∨ (3 ≤ role i ∧ hasNbm t.part.variant = false) then (csRange, t)
        else if ∃ i ∈ changed, poolFits (storeDom t w) (0x80 + i) = false then (csRange, t)
        else if ∃ i ∈ changed, poolInUse t (0x80 + i) = true then (csConflict, t)
        else ifFlash t w (changed.foldl (fun (u : State) i => freshPool u (0x80 + i)) (storeDom t w)))
      (exec (.anvilPoolRole r) s)
    ∧ Written s r keyFhCell (fun t w =>
        let cs := touched w 8
        let u := storeRecs t w 8 ((2 ^ 41 - 1) * 2 ^ 23)
        let changed := cs.filter fun c => decide (fhCell u c ≠ fhCell t c)
        let ok (v : Nat) : Prop := fhComp v ≤ 4 ∧ 1 ≤ fhPorts v ∧ fhPorts v ≤ 256 ∧ 1 ≤ fhNrb v ∧ fhNrb v ≤ 275 ∧ 0x80 ≤ fhRxPool v
          ∧ fhRxPool v ≤ 0xBF ∧ 1 ≤ fhRetain v ∧ fhRetain v ≤ 15 ∧ fhLink v ≤ 67 ∧ poolRole t (fhRxPool v) = 1
          ∧ fdBytes v ≤ (poolCfg t (fhRxPool v)).size
        if ∃ c ∈ cs, newRec t w 8 c ≠ 4 * 2 ^ 30 ∧ ¬ ok (newRec t w 8 c) then (csRange, t)
        else if ∃ c ∈ changed, ∃ x ∈ t.fh.vers, x.2.container = false ∧ x.2.id = c ∧ x.2.pins ≠ [] then (csConflict, t)
        else ifFlash t w (changed.foldl dropFhVersions u)) (exec (.fhCell r) s)
    ∧ Written s r keyNbChannelTable (fun t w =>
        if ∃ c ∈ touched w 8, c ∈ busyChannels t then (csConflict, t) else ifFlash t w (storeRecs t w 8 (0x8F * 2 ^ 56)))
      (exec (.nbConfigWrite r) s)
    ∧ (∀ p, p < 16 → Written s r (0x810001 + 256 * p) (fun t w =>
        if ∃ c ∈ busyChannels t, (nbChannel t c).2 = p then (csConflict, t)
        else ifFlash t w (storeRecs t w 64 (2 ^ 512 - 1 - 31 * 2 ^ 496 - 63 * 2 ^ 352))) (exec (.nbConfigWrite r) s)
      ∧ Written s r (0x811001 + 256 * p) (fun t w =>
        if ∃ c ∈ busyChannels t, (nbChannel t c).2 = p then (csConflict, t) else ifFlash t w (storeDom t w))
          (exec (.nbConfigWrite r) s))

/-! ## Writes of queues, pools, cells, policy and addresses (R32, R102, R108 to R119, R137, R146, R150, R151, R461) -/

/-- R102, R108, R110, R422: what a write of QUEUE_RESET, QUEUE_CONFIG, a pool and the result store does. The model's own
readings in it: log entries 11 and 29. -/
def Obligations.QueueAndPoolWritesFollowTheRules : Prop :=
  ∀ (s : State) (r : CleipReq),
    Written s r keyQueueReset (fun t w =>
        let q := w.val % 4096
        if w.val / 4096 ≠ 8 then (csRange, t)
        else if (∃ j ∈ t.jobs, j.qn = q) ∨ (∃ a ∈ t.asms, a.1.1 = q) then (csConflict, t)
        else (csOk, resetQueueState (storeVal t w) q)) (exec (.queueReset r) s)
    ∧ (∀ (t : State) (q : Nat), let u := resetQueueState t q
        let x := t.queue q
        let credit := (x.creditSeq - x.nextSeq).toNat
        (u.queue q).enable = true ∧ (u.queue q).nextSeq = 0 ∧ (u.queue q).creditSeq = 0 ∧ (u.queue q).releasedSeq = 0xFFFFFFFF
          ∧ (u.queue q).ackSeq = 0xFFFFFFFF ∧ (u.queue q).acceptedUnits = 0 ∧ (u.queue q).creditUnits = 0
          ∧ (u.queue q).toSend = [] ∧ (u.queue q).resends = [] ∧ (u.queue q).homePort = x.homePort ∧ (u.queue q).depth = x.depth
          ∧ u.jReserved = t.jReserved - 2 * credit ∧ u.jobs = t.jobs
          ∧ (u.queue q).creditDue = !canSend t (u.queue q).activePort
          ∧ ∀ p, p ≠ q → u.queue p = t.queue p)
    ∧ Written s r keyQueueConfig (fun t w =>
        let v (q : Nat) : Nat := recWith w (queueCfgNat (t.queue q)) 16 q
        let qs := touched w 16
        if ∃ q ∈ qs, 4 < bits (v q) 122 120 ∨ bits (v q) 111 96 < 1 ∨ 32768 < bits (v q) 111 96 ∨ bits (v q) 95 64 < 1
            ∨ 1048576 < bits (v q) 95 64 then (csRange, t)
        else if ∃ q ∈ qs, (t.queue q).enable = true ∧ tbit (v q) 127 = false ∧ queueBusy t q = true then (csConflict, t)
        else ifFlash t w (qs.foldl (fun (u : State) q => setQueueCfg u q (v q)) t)) (exec (.queueConfig r) s)
    ∧ (∀ p sub, 1 ≤ p → p ≤ 0xFE → p ≠ 0x7F → 2 ≤ sub → sub ≤ 6 → Written s r ((0x4300 + p) * 256 + sub) (fun t w =>
        let u := storeVal t w
        let v := freshPool u p
        if (sub = 2 ∧ w.val % 64 ≠ 0) ∨ (sub = 3 ∧ 16777216 < w.val) ∨ (sub = 6 ∧ nClusters t.part.variant ≤ w.val)
            ∨ poolFits u p = false ∨ poolRetired u p = true then (csRange, t)
        else if poolInUse t p = true then (csConflict, t)
        else if flashFails w = true then (csTimeout, t)
        else (if poolFilling v p = true then csWait else csOk, v)) (exec (.poolConfig r) s))
    ∧ (∀ k, k = keyResultStoreBytes ∨ k = keyResultBufSize ∨ k = keyResultHandles → Written s r k (fun t w =>
        let u := storeVal t w
        let bytes := u.oval keyResultStoreBytes
        let size := u.oval keyResultBufSize
        let handles := u.oval keyResultHandles
        let v := freshPool u 0x7F
        if bytes < 2 ^ 30 ∨ 2 ^ 36 < bytes ∨ size < 4096 ∨ 16777216 < size ∨ size &&& (size - 1) ≠ 0 ∨ bytes % size ≠ 0
            ∨ handles < 1 ∨ bytes / size < 2 * handles ∨ dramCapacity u < dramReserved u + bytes
            ∨ ∃ p ∈ List.range 0x7F, 1 ≤ p ∧ poolBytes u p ≠ 0 ∧ resultBase u bytes < (poolCfg u p).base + poolBytes u p
        then (csRange, t)
        else if poolInUse t 0x7F = true then (csConflict, t)
        else if flashFails w = true then (csTimeout, t)
        else (if poolFilling v 0x7F = true then csWait else csOk, v)) (exec (.resultStoreConfig r) s))

/-- R95, R96, R112, R115, R119, R137, R146, R150, R151, R175, R177, R191, R343, R373, R427, R444, R445, R451, R452, R458,
R461, R478, R512: what a write of the cells, a migration, a probe, the learned budgets, an installer bound, an EtherType
or UDP port answers; and what a write of any object without a row of its own in the command table answers, that of its own
rule where its chapter gives one, and else that its value is stored. The model's own readings in it: log entries 13, 29,
31 and 69. -/
def Obligations.CellAndPolicyWritesFollowTheRules : Prop :=
  ∀ (s : State) (r : CleipReq),
    Written s r keyCellConfig (fun t w =>
        let cs := (touched w 32).map fun c => (c, cellOf (recWith w (cellNat (t.cell c)) 32 c))
        let u := cs.foldl (fun (u : State) x => putCell u x.1 x.2) t
        if ∃ x ∈ cs, cellOk t x.2 = false then (csRange, t)
        else if ∃ x ∈ cs, (cellChanges (t.cell x.1) x.2 = true ∧ ∃ j ∈ t.jobs, j.desc.cell = x.1)
            ∨ ((t.cell x.1).enable = true ∧ x.2.home ≠ (t.cell x.1).home
              ∧ ((t.cellState x.1).migration ≠ none ∨ 4 < nMigrating u
                ∨ (x.2.enable = true ∧ x.2.home ≠ (t.cellState x.1).cluster ∧ (clusterUp t x.2.home = false
                  ∨ haloFits { t with cellCfg := kset t.cellCfg x.1 x.2 } x.1 x.2.home = false)))) then (csConflict, t)
        else if ∃ k ∈ List.range (nClusters t.part.variant), cellCheck t k = true ∧ cellCheck u k = false then (csConflict, t)
        else ifFlash t w (cs.foldl (fun (u : State) x => mirrorPut u (cellMarker x.1 x.2)) u)) (exec (.cellConfig r) s)
    ∧ Written s r keyMigrateCmd (fun t w =>
        let c := w.val % 4096
        let k := bits w.val 19 16
        let u := startMigration t c k 5
        if (t.cell c).enable = false ∨ c = 4095 ∨ nClusters t.part.variant ≤ k then (csRange, t)
        else if (t.cellState c).migration ≠ none ∨ (t.cellState c).cluster = k ∨ 4 ≤ nMigrating t ∨ clusterUp t k = false
            ∨ cellCheck u k = false ∨ haloFits t c k = false then (csConflict, t)
        else (csOk, storeVal u w)) (exec (.migrateCmd r) s)
    ∧ Written s r keyAdmitProbe (fun t w =>
        let v := newRec t w 34 0
        let c := bits v 271 256
        let x := cellOf v
        let u := storeDom t w
        let with' := cellAt { t with cellCfg := kset t.cellCfg c x } c x.home
        if 4094 < c then (csRange, t)
        else if cellOk t x = false then (csOk, u.setOval keyProbeResult 2)
        else (csOk, (u.setOval keyProbeResult (if cellCheck with' x.home = true then 0 else 1)).setOval keyProbeHeadroom
          (unsgn 32 (headroom with' x.home / (32768 * 1000000))))) (exec (.admitProbe r) s)
    ∧ Written s r keyKernelTable (fun t w => (csOk, (touched w 16).foldl (fun (u : State) i =>
        let v := recWith w (((kernelTasks t)[i]?.map (kernelRec t)).getD 0) 16 i
        let g := bits v 127 112
        let n := bits v 111 104
        if ∃ x ∈ kernelTasks t, x.1 = g ∧ x.2.1 = n then
          { u with budgets := kset u.budgets (g * 256 + n) { u.budget g n with learned := bits v 95 64, valid := tbit v 96 } }
        else u) t)) (exec (.kernelTable r) s)
    ∧ (∀ k, isPolicyBound k = true → Written s r k (fun t w =>
        let ss := k % 256
        let u := storeVal t w
        let lo := numOf u (0x500100 + ss)
        let hi := numOf u (0x500200 + ss)
        let now := numOf t (0x500000 + ss)
        if (ss = 0x0F ∧ lo.toNat &&& hi.toNat ≠ lo.toNat) ∨ (ss ≠ 0x0F ∧ hi < lo)
            ∨ ¬(∃ x, objRow 0x5000 ss = some x ∧ x.lo ≤ numOf u k ∧ numOf u k ≤ x.hi) then (csRange, t)
        else if withinBounds ss now lo hi = false then (csConflict, t)
        else ifFlash t w u) (exec (.policyBound r) s))
    ∧ (∀ k, k = keyCleipEtype ∨ k = keyTransportEtype → Written s r k (fun t w =>
        let other := if k = keyCleipEtype then keyTransportEtype else keyCleipEtype
        if w.val ∈ [0x0800, 0x0806, 0x86DD, 0x8100, 0x88A8, 0x8808, 0x88F7, 0xAEFE] ∨ w.val = t.oval other then (csRange, t)
        else ifFlash t w (storeVal t w)) (exec (.carrierIdWrite r) s))
    ∧ (∀ k, k = keyCleipUdp ∨ k = keyTransportUdp ∨ k = keyEcpriUdp → Written s r k (fun t w =>
        if ∃ o ∈ [keyCleipUdp, keyTransportUdp, keyEcpriUdp], o ≠ k ∧ t.oval o = w.val then (csRange, t)
        else ifFlash t w (storeVal t w)) (exec (.carrierIdWrite r) s))
    ∧ (let rule (k : Nat) (t : State) (w : WReq) : Applied :=
        let u := storeVal t w
        let told (v : State) : State := mirrorPut v (identityMarker v)
        let n := k / 256 - 0x3010
        let moved (x : State) (p : Nat) : State :=
          resumePort (if (t.port p).xoff then (x.emit (.pfc p (t.oval keyTransportPcp) false)).emit (.pfc p w.val true) else x) p
        if k / 256 = 0x5000 then
          (if withinBounds (k % 256) (numOf u k) (numOf t (0x500100 + k % 256)) (numOf t (0x500200 + k % 256)) = true
           then ifFlash t w u else (csRange, t))
        else if k = keyPfcXoff then ((ifFlash t w u).1, updateHeadroom (ifFlash t w u).2)
        else if k = keyTransportPcp then
          ifFlash t w (if t.oval keyTransportPcp = w.val then t else moved (moved u 0) 1)
        else if k = keyPortMac 0 ∨ k = keyPortMac 1 then (if 2 ^ 48 ≤ w.val ∨ tbit w.val 40 = true then (csRange, t) else ifFlash t w (told u))
        else if k = keyPortIpv4 0 ∨ k = keyPortIpv4 1 then ifFlash t w (told u)
        else if k = keyPortIpv6 0 ∨ k = keyPortIpv6 1 then ifFlash t w (told (storeDom t w))
        else if k = keyMirrorMode then
          ifFlash t w (told (if w.val = 0 ∧ buddyOn u = true ∧ u.mirrorTx.reachable = false then acceptUnmirrored u else u))
        else if k = keyEngineSpares then
          (if ∃ i ∈ List.range 4, 4 < w.val / 16 ^ i % 16 then (csRange, t) else ifFlash t w u)
        else if k = keyMirrorFrom0 ∨ k = keyMirrorFrom1 then
          ifFlash t w { u with srcs := u.srcs.filter fun x => isSource u x.source || decide (x.takeover ≠ 0) }
        else if k = keyDeskewMax then
          (if ∃ g ∈ List.range 4, groupEnabled t g = true then (csConflict, t) else ifFlash t w u)
        else if k = keyEcpriVlinks then
          (let v := storeRecs t w 16 (3 * 2 ^ 126 + (2 ^ 48 - 1) * 2 ^ 64)
          let goes := (touched w 16).filter fun i => tbit (vlinkCfg v i) 126 != tbit (vlinkCfg t i) 126
          ifFlash t w (goes.foldl (fun (y : State) i =>
            let home := b2n (tbit (vlinkCfg y i) 126)
            match kget y.fh.vlinks i with
            | some x => y.setVlink i { x with activePort := if portUp y home then home else 1 - home }
            | none => y) v))
        else if k = keyRankPdIdle then (if 0 < w.val ∧ w.val < 16 then (csRange, t) else ifFlash t w u)
        else if k = keyHoldoverLimit then
          (let past := (u.domain (activeDom u)).holdoverSince + u.oval keyHoldoverLimit * 1000000000
          ifFlash t w (followPps { u with time :=
            { u.time with holdoverExceeded := u.time.holdoverExceeded && decide (past < u.time.now) } }))
        else if k = keyPpsOutMode then ifFlash t w (followPps u)
        else if k = keyPpsInMode then ifFlash t w (reselect u 0)
        else if k = keyPtpEnable 0 ∨ k = keyPtpEnable 1 then
          ifFlash t w (if domainOn t n = domainOn u n then u else followHoldover (u.setDomain n Domain.init) n)
        else if k = keyPtpPorts 0 ∨ k = keyPtpPorts 1 then (if 3 < w.val then (csRange, t) else ifFlash t w (reselect u n))
        else if k = keyWarnDays ∨ k = keyDrainDays then
          (if u.oval keyWarnDays < u.oval keyDrainDays then (csRange, t) else ifFlash t w u)
        else ifFlash t w (if isDomain k then storeDom t w else u)
      ∀ k, hasRow k = false → Written s r k (rule k) (exec (.objectWrite r) s))

/-! ## Writes of firmware, the buddy, regions, power and reset (R162, R171, R174, R175, R181, R184, R188, R501, R517, R547) -/

/-- R162, R171, R174, R188, R499, R501, R551: what a write of FW_IMAGE, FW_UPDATE_CMD, REGION_RESTORE, REGION_RETIRE and
OVERCAST_MASK does. The model's own readings in it: log entries 43, 58 and 59. -/
def Obligations.FaultAndFirmwareWritesFollowTheRules : Prop :=
  ∀ (s : State) (r : CleipReq),
    Written s r keyFwUpdateCmd (fun t w =>
        let keyed := (keyOf t 1).isSome
        let tried := cipherFault t (if keyed = true ∧ cipherUp t = true then w.cipherFaults else 0)
        let v := tried.1
        if keyed = true ∧ cipherUp t = false then (csTimeout, t)
        else if tried.2 = true then (csTimeout, v)
        else match authenticFw v with
        | none => (csIntegrity, v)
        | some i =>
          if w.val ≠ 1 then (csRange, v)
          else if (t.sv.pair0 ≠ 1 ∧ t.sv.pair1 ≠ 1) ∨ t.overcast.on = true ∨ runningFormat t + 1 < i.stateFormat
              ∨ i.stateFormat + 1 < runningFormat t then (csConflict, v)
          else let u := storeVal (setSv v (if t.sv.pair0 = 1 then 0 else 1) 4) w
            (csOk, { u with sv := { u.sv with updState := 2, updStep := 0, updStart := t.time.now } })) (exec (.fwUpdateCmd r) s)
    ∧ Written s r keyFwImage (fun t w =>
        let keyed := (keyOf t 1).isSome
        let u : State := { t with flash := { t.flash with fwImage := w.data } }
        let u := if keyed then useCipher u (cmacBlocks (w.data.length - 16)) else u
        let fault := cipherFault t (if keyed then w.cipherFaults else 0)
        if keyed = true ∧ cipherUp t = false then (csTimeout, t)
        else if fault.2 = true then (csTimeout, fault.1)
        else match authenticFw u with
        | none => (csIntegrity, fault.1)
        | some i =>
          let u := u.setOval keyCipherMismatches (fault.1.oval keyCipherMismatches)
          let top := max ((t.flash.slotA.map (·.generation)).getD 0) ((t.flash.slotB.map (·.generation)).getD 0)
          if t.supply.bootState = 7 then
            (csOk, { u with flash := { u.flash with slotA := some (i.withGeneration (top + 1)) }
                            supply := { u.supply with resetAfter := some 0x0A } })
          else (csOk, { u with sv := { u.sv with updState := if u.sv.updState = 2 then 2 else 1 } })) (exec (.fwImage r) s)
    ∧ Written s r keyRegionRestore (fun t w =>
        let n := w.val
        let st := t.regState n
        let u := (zeroRegion (storeVal t w) n).setRegion n Region.init
        if 0x624 ≤ n then (csConflict, t)
        else if n ∈ memRegions ∧ st = 3 then (csWait, storeVal (t.setRegState n 1) w)
        else if st ≠ 2 then (csConflict, t)
        else if 0x2D0 ≤ n ∧ n < 0x2E0 then
          let x := u.cluster (n - 0x2D0)
          (csOk, (fillIsland u (n - 0x2D0)).setCluster (n - 0x2D0) { Cluster.init with temp := x.temp, thermal := x.thermal })
        else if (n = 0x5CE ∧ t.sv.pair0 = 3) ∨ (n = 0x5CF ∧ t.sv.pair1 = 3) then (csOk, setSv u (n - 0x5CE) 1)
        else (csOk, u)) (exec (.regionRestore r) s)
    ∧ Written s r keyRegionRetire (fun t w =>
        if w.val ∈ memRegions ∧ t.regState w.val = 3 then (csOk,
          ((storeVal t w).setRegion w.val { t.region w.val with state := 2, retiredAt := t.time.now }).bump keyRetirements 1)
        else (csConflict, t)) (exec (.regionRetire r) s)
    ∧ Written s r keyOvercastMask (fun t w =>
        let u := reOvercast (t.setOval keyOvercastMask (w.val ||| 1))
        ifFlash t w (if mayLeaveOvercast u = true then overcastLeave u else u)) (exec (.overcastMask r) s)

/-- R107, R175, R180 to R182, R184: what a write of BUDDY, TAKEOVER_CMD and BUDDY_RELEASE does. R517, R521, R535, R547: what a
write of POWER_TARGET, DEEP_CMD and RESET_CMD does. The model's own readings in it: log entries 13, 28, 41, 44, 62, 67 and
73. -/
def Obligations.BuddyPowerAndResetWritesFollowTheRules : Prop :=
  (
    ∀ (s : State) (r : CleipReq),
      (∀ answer, Reaches s r keyBuddy →
        let t := taken s r
        let w := proposed r
        let has : Prop := w.val = 0xFFFF ∨ ∃ a ∈ answer, Nat.land (a.2 % 16) (featBits t.part.variant) = featBits t.part.variant
        let v := askCandidate t w.val
        let u := storeVal v w
        let ends (a : Applied) : State := endWrite t 2 r w (afterWrite t keyBuddy a)
        (w.val ≠ 0xFFFF ∧ 1023 < w.val → exec (.buddy r answer) s = .next (ends (csRange, t)))
        ∧ (w.val = 0xFFFF ∨ w.val ≤ 1023 → ¬has → exec (.buddy r answer) s = .next (ends (csConflict, v)))
        ∧ (w.val = 0xFFFF ∨ w.val ≤ 1023 → has → exec (.buddy r answer) s = .next (ends (ifFlash v w (if buddyOn u = true
            then startStream u else { u with mirrorTx := { u.mirrorTx with reachable := false, unacked := [] } })))))
      ∧ Written s r keyTakeoverCmd (fun t w =>
          let u := storeVal t w
          if w.val ≠ 0xFFFF ∧ isSource t w.val = false then (csRange, t)
          else if ∃ x ∈ t.srcs, x.takeover = 1 then (csConflict, t)
          else if w.val = 0xFFFF then
            (csOk, { u with srcs := u.srcs.map fun x => if x.takeover = 0 then x else MirrorSrc.new x.source })
          else (csOk, takeOver u w.val)) (exec (.takeoverCmd r) s)
      ∧ (reqVal r ≠ (taken s r).oval keyDeviceNumber →
          Written s r keyBuddyRelease (fun t _ => (csRange, t)) (exec (.buddyRelease r) s))
      ∧ (Reaches s r keyBuddyRelease → reqVal r = (taken s r).oval keyDeviceNumber →
          let a := applyBuddyRelease (taken s r) (proposed r)
          exec (.buddyRelease r) s = .next (endWrite (taken s r) 2 r (proposed r) (afterWrite (taken s r) keyBuddyRelease a))
          ∧ a.1 = csOk ∧ (∀ j ∈ a.2.jobs, j.buddyOf ≠ none) ∧ a.2.ja = [] ∧ a.2.jb = [] ∧ a.2.jReserved = 0 ∧ a.2.iReserved = 0
          ∧ a.2.mirrorTx.fenced = (taken s r).mirrorTx.fenced
          ∧ ∀ q, q < 4096 → (a.2.queue q).creditSeq = 0 ∧ (a.2.queue q).creditUnits = 0))
  ∧ (
    ∀ (s : State) (r : CleipReq),
      let u := taken s r
      let busy : Prop := u.overcast.on = true ∨ u.power.phase ≠ 0 ∨ u.sv.updState = 2
      ((busy → Written s r keyPowerTarget (fun t _ => (csConflict, t)) (exec (.powerTarget r) s))
        ∧ (¬busy → Written s r keyPowerTarget (fun t w =>
              let u := storeVal t w
              if w.val = t.power.state then (csOk, u)
              else if w.val = 2 then
                (csOk, { u with power := { u.power with phase := 1, target := 2, block := 2, prepAt := t.time.now } })
              else if t.power.state = 2 then (csOk, wake u 4)
              else
                let v : State := { u with power := { u.power with state := w.val } }
                (csOk, if w.val = 0 then wakeAll v else v)) (exec (.powerTarget r) s)))
      ∧ (reqVal r ≠ 1 → Written s r keyDeepCmd (fun t _ => (csRange, t)) (exec (.deepCmd r) s))
      ∧ (reqVal r = 1 →
          (busy → Written s r keyDeepCmd (fun t _ => (csConflict, t)) (exec (.deepCmd r) s))
          ∧ (¬busy → Written s r keyDeepCmd (fun t w => (csOk, mirrorPut
              { storeVal t w with power := { t.power with phase := 1, target := 3, block := 1, prepAt := t.time.now } } dormantMarker))
                (exec (.deepCmd r) s)))
      ∧ (let resetBusy : Prop := u.sv.updState = 2 ∨ u.power.phase ≠ 0
        (reqVal r = 1 → resetBusy → Written s r keyResetCmd (fun t _ => (csConflict, t)) (exec (.resetCmdWarm r) s))
        ∧ (reqVal r = 1 → ¬resetBusy → Written s r keyResetCmd
            (fun t w => (csOk, { storeVal t w with supply := { t.supply with resetAfter := some 6 } })) (exec (.resetCmdWarm r) s))
        ∧ (reqVal r = 2 → resetBusy → Written s r keyResetCmd (fun t _ => (csConflict, t)) (exec (.resetCmdCold r) s))
        ∧ (reqVal r = 2 → ¬resetBusy → Written s r keyResetCmd
            (fun t w => (csOk, { storeVal t w with supply := { t.supply with resetAfter := some 4 } })) (exec (.resetCmdCold r) s))
        ∧ (reqVal r ≠ 1 → reqVal r ≠ 2 → Written s r keyResetCmd (fun t _ => (csRange, t)) (exec (.resetCmdWarm r) s))))

/-! ## Keys, locks, the audit export mark and the backup (R482, R488, R493 to R499, R503) -/

/-- R488, R493, R495 to R499, R505: what a write of a key, a lock, the maker lock and the export mark does. The model's own
readings in it: log entry 48. -/
def Obligations.KeyAndLockWritesFollowTheRules : Prop :=
  ∀ (s : State) (r : CleipReq),
    let status (t : State) (w : WReq) (n : Nat) : Nat :=
      if n ≠ 0 ∧ n < 6 ∧ w.role = 0 then csDenied
      else if n ≠ 0 ∧ n < 32 ∧ t.keys.lock.getLsbD n = true then csLocked
      else if n = 0 ∨ 31 < n then csRange else csOk
    let fault (t : State) (w : WReq) := cipherFault t w.cipherFaults
    (∀ k, k = keyKeyLoadPlain ∨ k = keyKeyLoadWrapped →
      let i : Instr := if k = keyKeyLoadPlain then .keyLoadPlain r else .keyLoadWrapped r
      Written s r k (fun t w =>
        let b (j : Nat) : Nat := overlaid t w j
        let n := b 0
        let kek := b 2
        let counted (a : Applied) : Applied := (a.1, a.2.bump (if a.1 = csOk then keyKeyLoads else keyKeyLoadFails) 1)
        counted <|
          if status t w n ≠ csOk then (status t w n, t)
          else if loadReserved t w = true ∨ (k = keyKeyLoadWrapped ∧ (kek < 5 ∨ 31 < kek ∨ kek = n)) then (csRange, t)
          else if (k = keyKeyLoadWrapped ∧ keyOf t kek = none) ∨ (n = 1 ∧ t.sv.updState = 2) then (csConflict, t)
          else if cipherUp t = false then (csTimeout, t)
          else match loadedKey t w with
          | none => (if (fault t w).2 = true then csTimeout else csIntegrity,
              useCipher (fault t w).1 (if b 1 % 2 = 1 then 24 else 12))
          | some key =>
            if (fault t w).2 = true ∨ w.flashOk = false then (csTimeout, (fault t w).1)
            else
              let u := saveKeys (fault t w).1 (kset t.keys.slots n { aes256 := decide (key.length = 32), key })
              (csOk, if n = 1 then { u with keys := { u.keys with bootPending := true } } else u)) (exec i s))
    ∧ Written s r keyKeyErase (fun t w =>
        if status t w w.val ≠ csOk then (status t w w.val, t)
        else if cipherUp t = false then (csTimeout, t)
        else if (fault t w).2 = true ∨ w.flashOk = false then (csTimeout, (fault t w).1)
        else (csOk, saveKeys (fault t w).1 (kdel t.keys.slots w.val))) (exec (.keyErase r) s)
    ∧ Written s r keyCipherLock (fun t w => let v := BitVec.ofNat 32 w.val
        if t.keys.lock &&& ~~~v = 0 then (csOk, { t with keys := { t.keys with lock := v ||| 1#32 } }) else (csLocked, t))
      (exec (.cipherLock r) s)
    ∧ Written s r keyCipherLockBoot (fun t w => let v := BitVec.ofNat 32 w.val
        if BitVec.ofNat 32 (t.oval keyCipherLockBoot) &&& ~~~v &&& t.keys.lock ≠ 0 ∧ r.src.carrier ≠ 3 then (csLocked, t)
        else ifFlash t w (storeVal t w)) (exec (.cipherLockBoot r) s)
    ∧ Written s r keyMakerLockBlow (fun t w =>
        if w.val ≠ t.part.serial % 2 ^ 32 then (csRange, t)
        else if t.flash.makerLock = true then (csConflict, t)
        else (csOk, { storeVal t w with flash := { t.flash with makerLock := true } })) (exec (.makerLockBlow r) s)
    ∧ Written s r keyAuditExported (fun t w => let v := BitVec.ofNat 32 w.val
        if v - t.audit.exported ≤ t.audit.head - t.audit.exported then
          (csOk, { t with audit := { t.audit with exported := v } }) else (csRange, t)) (exec (.auditExported r) s)
    ∧ (s.keys.state = 1 → ∀ passed, exec (.cipherSelfTestDone passed) s
        = .next { s with keys := { s.keys with state := if passed then 0 else 2 } })

/-- R479, R482, R503: a restore of CONFIG_BACKUP checks the seal and then sets every object that the role may write, or none.
What a candidate buddy answers while its number is restored is free (log entry 62). The model's own readings in it: log
entries 50 and 62. -/
def Obligations.BackupsAreRestoredWholeOrNotAtAll : Prop :=
  ∀ (s : State) (r : CleipReq) (op : Nat) (t : State) (w : WReq), Proposes s r keyConfigBackup op t w →
    r.src.carrier ≠ 0 → r.src.carrier ≠ 1 →
    let ends (a : Applied) : Res := .next (endWrite t op r w (afterWrite t keyConfigBackup a))
    let plain : Prop := sealOwn t = 0 ∧ (beNat (slice w.data 2 1) = 0 ∨ keyOf t 3 = none)
    (sealOwn t ≠ 0 → cipherUp t = false → exec (.configBackupRestore r) s = ends (csTimeout, t))
    ∧ (plain → openBackup t w.data = none → exec (.configBackupRestore r) s = ends (csIntegrity, t))
    ∧ (∀ es, plain → openBackup t w.data = some es →
        let u := restoreAll w t es
        (u.1 ≠ csOk → exec (.configBackupRestore r) s = ends (u.1, t))
        ∧ (u.1 = csOk → exec (.configBackupRestore r) s = ends (if u.2.mem.fills = [] then csOk else csWait, u.2))
        ∧ (∀ e, es = [e] → mayRestore t w.role e.1 = true →
            let asked := freeAnswer t e.1
            let one := writeObject asked.1 asked.2 { w with key := e.1, val := beNat e.2, off := 0, data := e.2, cipherFaults := 0 } false
            u = if one.1 = csOk ∨ one.1 = csWait then (csOk, one.2) else (one.1, t))
        ∧ (∀ e, es = [e] → mayRestore t w.role e.1 = false → u = (csOk, t)))
    ∧ (∀ b, openBackup t b ≠ none →
        let len := beNat (slice b 24 4)
        b.length = 48 + len ∧ beNat (slice b 0 2) = 1 ∧ sealOwn t ≤ beNat (slice b 2 1)
          ∧ b.drop (32 + len) = tagOf (backupKey t (beNat (slice b 2 1))) (b.take (32 + len)))

/-! ## Rows of the dictionary, the queue, reset and the whole machine -/

/-- R20, R475, R476, R478, R479, R483: a row takes only requests that write an object of its own; what it answers before the
object's own rule; a block write that a row ends is a block write like any other. The model's own readings in it: log
entry 13. -/
def Obligations.WritesAreCheckedBeforeTheirRules : Prop :=
  ∀ (s : State) (r : CleipReq) (mine : Nat → Bool) (i : Instr), RowOf r mine i → r.src.carrier < 4 →
    let k := reqKey r
    let t := taken s r
    let w := proposed r
    (mine k = false → exec i s = .next s)
    ∧ (mine k = true → r.last = true → isDomain k = true → (∀ a, i ≠ .buddy r a) → exec i s = exec (.cleipWriteBlock r) s)
    ∧ (mine k = true → r.last = false → Served s 2 r →
        (preStatus t 2 r ≠ csOk → exec i s = .next (endWrite t 2 r w (preStatus t 2 r, t)))
        ∧ (∀ row, preStatus t 2 r = csOk → k ≠ keyConfigBackup → objRow (k / 256) (k % 256) = some row →
            (fitsType t row k false w.data = false → exec i s = .next (endWrite t 2 r w (csType, t)))
            ∧ (fitsType t row k false w.data = true → inTable row w.val = false →
                exec i s = .next (endWrite t 2 r w (csRange, t)))))

/-- A step takes the command at the front of the queue and is what that command does to the rest. With an empty queue the core
whose turn it is executes the word at its pc, and a block in which no core runs idles (the model's choice, log entry 1).
The words are the worked examples of R216, R249 and R274. -/
def Obligations.AStepServesTheFrontOfTheQueue : Prop :=
  ∀ (s : State), (∀ c rest, step { s with pending := c :: rest } = exec c { s with pending := rest })
    ∧ (let t : State := { s with pending := [] }
      ((∀ c, c < 576 → coreRuns t c = false) → step t = .next t)
      ∧ (∀ n c, n < 576 → c = (s.turn + n) % 576 → coreRuns t c = true →
          (∀ m, m < n → coreRuns t ((s.turn + m) % 576) = false) →
          (∀ run, wordMeaning c (coreWord t c) = some run → step t = run { t with turn := c + 1 })
          ∧ (wordMeaning c (coreWord t c) = none → step t = execReserved c (coreWord t c) { t with turn := c + 1 })))
    ∧ (∀ c, wordMeaning c 0xC0E39203
          = some (execLd c { stop := true, d := 7, a := 3, sz := 4, mode := 2, cb := 2, off := 3 })
      ∧ wordMeaning c 0xEC8A4420
          = some (execVgath c { stop := true, d := 4, a := 10, b := 8, u := true, pm := false, k := 0, low := 0 })
      ∧ wordMeaning c 0xEC8A4430
          = some (execVgathf c { stop := true, d := 4, a := 10, b := 8, u := true, pm := false, k := 0, low := 0 })
      ∧ wordMeaning c 0xF8221800 = some (execMxmac c { stop := true, d := 1, a := 2, b := 3, k := 0 }))

/-- R464: what a request's message spells is the request: every field of the header is read back, with the body. -/
def Obligations.CleipHeadersAreReadBack : Prop :=
  ∀ (op carrier : Nat) (r : CleipReq), op < 16 → r.src = serialSrc carrier → r.version = 1 → r.tid < 2 ^ 16 → r.index < 2 ^ 16 →
    r.sub < 2 ^ 8 → r.length < 2 ^ 16 → r.offset < 2 ^ 32 → r.cipherFaults = 0 → r.frame = noFrame →
    parseReq carrier (reqBytes op r) r.flashOk = (op, r)

/-- Memory is kept in one canonical form by every step (the form is the model's; R419, R421, R422 for what reads as zero). The
model's own readings in it: log entry 2. -/
def Obligations.EveryStepKeepsMemoryCanonical : Prop :=
  ∀ s t : State, s.mem.wf = true → step s = .next t → t.mem.wf = true

/-- What no step changes or takes back: the part and its fuses, the commands behind the one served, what the device has sent,
and the maker-lock fuse (R488). The model's own readings in it: log entry 6. -/
def Obligations.EveryStepKeepsThePartAndItsHistory : Prop :=
  ∀ s t : State, step s = .next t →
    t.part = s.part ∧ t.pending = s.pending.tail ∧ (∃ l, t.out = s.out ++ l) ∧ s.free ≤ t.free
      ∧ (s.flash.makerLock = true → t.flash.makerLock = true)

/-- What bytes are written to memory are the bytes read there, and every other byte reads as before. -/
def Obligations.MemoryReadsBackWhatIsWritten : Prop :=
  ∀ (m : List Host.Cell) (a : Nat) (b : List Byte),
    mgetAll (msetAll m a b) a b.length = b
    ∧ (∀ x, x < a ∨ a + b.length ≤ x → mget (msetAll m a b) x = mget m x)
    ∧ (∀ n x, mget (mzero m a n) x = if a ≤ x ∧ x < a + n then 0 else mget m x)

/-- R107, R110, R172, R191, R334, R404, R433, R435, R462, R501: what the device holds before its first power-on, where the
spec gives the value; nothing waits, and memory lists nothing. The model's own readings in it: log entries 2, 40 and 52.
-/
def Obligations.ResetLeavesWhatTheRulesSay : Prop :=
  let s := State.reset
  s.pending = [] ∧ s.mem.wf = true ∧ s.mem.bytes = [] ∧ s.jobs = [] ∧ s.serving = false
  ∧ (∀ q, (s.queue q).enable = false ∧ (s.queue q).resultSlots = 1 ∧ (s.queue q).depth = 512 ∧ (s.queue q).unitsMax = 16384
      ∧ (s.queue q).creditSeq = 0 ∧ (s.queue q).releasedSeq = 0xFFFFFFFF ∧ (s.queue q).ackSeq = 0xFFFFFFFF)
  ∧ (∀ n, (s.lane n).state = .off ∧ (s.lane n).drain = .normal) ∧ (∀ g, (s.link g).framer = 0)
  ∧ (∀ r, (s.region r).state = 0) ∧ (∀ c, (s.chan c).state = .idle) ∧ s.time.increment = 0x200000000
  ∧ s.sv.active = 0 ∧ s.sv.pair0 = 0 ∧ s.sv.pair1 = 1 ∧ s.cleip.msAddr = 0x4C ∧ s.fport.ir = 0x01
  ∧ s.oval keyCleipEtype = 0x88B5 ∧ s.oval keyTransportUdp = 46774 ∧ s.oval keyResultStoreBytes = 0x400000000
  ∧ s.oval keyResultBufSize = 65536 ∧ s.oval keyResultHandles = 4096
end

