-- ==== Sys2Proof/Laws/Exec.lean ====
section
/-!
SUPPORT. exec of each command is its meaning: one lemma per constructor, true by definition.
-/
namespace Sys2Proof.Machine

variable (s : State)

@[simp] theorem exec_desc (f : RxFrame) : exec (.desc f) s = execDesc f s := rfl
@[simp] theorem exec_data (f : RxFrame) : exec (.data f) s = execData f s := rfl
@[simp] theorem exec_ack (f : RxFrame) : exec (.ack f) s = execAck f s := rfl
@[simp] theorem exec_resend (f : RxFrame) : exec (.resend f) s = execResend f s := rfl
@[simp] theorem exec_mirror (f : RxFrame) : exec (.mirror f) s = execMirror f s := rfl
@[simp] theorem exec_mirrorAck (f : RxFrame) : exec (.mirrorAck f) s = execMirrorAck f s := rfl
@[simp] theorem exec_pfcPauseRx (port prio quanta : Nat) : exec (.pfcPauseRx port prio quanta) s = execPfcPauseRx port prio quanta s := rfl
@[simp] theorem exec_assemblyTimeout (q : Nat) (seq : BitVec 32) : exec (.assemblyTimeout q seq) s = execAssemblyTimeout q seq s := rfl
@[simp] theorem exec_jobAccept (q : Nat) : exec (.jobAccept q) s = execJobAccept q s := rfl
@[simp] theorem exec_mirrorTimeout : exec (.mirrorTimeout) s = execMirrorTimeout s := rfl
@[simp] theorem exec_acceptCoalesceExpiry (port : Nat) : exec (.acceptCoalesceExpiry port) s = execAcceptCoalesceExpiry port s := rfl
@[simp] theorem exec_complCoalesceExpiry (q : Nat) : exec (.complCoalesceExpiry q) s = execComplCoalesceExpiry q s := rfl
@[simp] theorem exec_retxTimeout (q : Nat) : exec (.retxTimeout q) s = execRetxTimeout q s := rfl
@[simp] theorem exec_creditRefresh : exec (.creditRefresh) s = execCreditRefresh s := rfl
@[simp] theorem exec_creditGrant : exec (.creditGrant) s = execCreditGrant s := rfl
@[simp] theorem exec_portDown (fault : PcsFault) : exec (.portDown fault) s = execPortDown fault s := rfl
@[simp] theorem exec_portUpHoldExpiry (port : Nat) : exec (.portUpHoldExpiry port) s = execPortUpHoldExpiry port s := rfl
@[simp] theorem exec_recordRelease (q : Nat) : exec (.recordRelease q) s = execRecordRelease q s := rfl
@[simp] theorem exec_admission (q : Nat) (seq : BitVec 32) : exec (.admission q seq) s = execAdmission q seq s := rfl
@[simp] theorem exec_taskDispatch (t : TaskRef) (p : Place) : exec (.taskDispatch t p) s = execTaskDispatch t p s := rfl
@[simp] theorem exec_taskReplay (t : TaskRef) (p : Place) : exec (.taskReplay t p) s = execTaskReplay t p s := rfl
@[simp] theorem exec_jobDeadline (q : Nat) (seq : BitVec 32) : exec (.jobDeadline q seq) s = execJobDeadline q seq s := rfl
@[simp] theorem exec_overrunMark (t : TaskRef) : exec (.overrunMark t) s = execOverrunMark t s := rfl
@[simp] theorem exec_watchdogExpiry (c : Nat) : exec (.watchdogExpiry c) s = execWatchdogExpiry c s := rfl
@[simp] theorem exec_learnPeriod : exec (.learnPeriod) s = execLearnPeriod s := rfl
@[simp] theorem exec_dvfsPeriod : exec (.dvfsPeriod) s = execDvfsPeriod s := rfl
@[simp] theorem exec_thermalCeiling (k : Nat) (temp : Int) : exec (.thermalCeiling k temp) s = execThermalCeiling k temp s := rfl
@[simp] theorem exec_thermalMigrate (k : Nat) : exec (.thermalMigrate k) s = execThermalMigrate k s := rfl
@[simp] theorem exec_migrationSwitch (cell : Nat) : exec (.migrationSwitch cell) s = execMigrationSwitch cell s := rfl
@[simp] theorem exec_gateIdleExpiry (k : Nat) : exec (.gateIdleExpiry k) s = execGateIdleExpiry k s := rfl
@[simp] theorem exec_oppSwitchDone (k : Nat) : exec (.oppSwitchDone k) s = execOppSwitchDone k s := rfl
@[simp] theorem exec_islandLoss (island : Nat) : exec (.islandLoss island) s = execIslandLoss island s := rfl
@[simp] theorem exec_islandRestored (island : Nat) (passed : Bool) : exec (.islandRestored island passed) s = execIslandRestored island passed s := rfl
@[simp] theorem exec_strikeLapse (region : Nat) : exec (.strikeLapse region) s = execStrikeLapse region s := rfl
@[simp] theorem exec_overcastExit : exec (.overcastExit) s = execOvercastExit s := rfl
@[simp] theorem exec_supervisorSwitchover (cause : Nat) : exec (.supervisorSwitchover cause) s = execSupervisorSwitchover cause s := rfl
@[simp] theorem exec_supervisorPairRetested (passed : Bool) : exec (.supervisorPairRetested passed) s = execSupervisorPairRetested passed s := rfl
@[simp] theorem exec_standbyCopy : exec (.standbyCopy) s = execStandbyCopy s := rfl
@[simp] theorem exec_fwUpdateCmd (r : CleipReq) : exec (.fwUpdateCmd r) s = execFwUpdateCmd r s := rfl
@[simp] theorem exec_fwStandbyLoaded : exec (.fwStandbyLoaded) s = execFwStandbyLoaded s := rfl
@[simp] theorem exec_fwUpdateDone : exec (.fwUpdateDone) s = execFwUpdateDone s := rfl
@[simp] theorem exec_mirrorResend : exec (.mirrorResend) s = execMirrorResend s := rfl
@[simp] theorem exec_mirrorKeepalive : exec (.mirrorKeepalive) s = execMirrorKeepalive s := rfl
@[simp] theorem exec_buddyFence : exec (.buddyFence) s = execBuddyFence s := rfl
@[simp] theorem exec_buddyDead (source : Nat) : exec (.buddyDead source) s = execBuddyDead source s := rfl
@[simp] theorem exec_takeoverCmd (r : CleipReq) : exec (.takeoverCmd r) s = execTakeoverCmd r s := rfl
@[simp] theorem exec_buddyRelease (r : CleipReq) : exec (.buddyRelease r) s = execBuddyRelease r s := rfl
@[simp] theorem exec_buddy (r : CleipReq) (answer : Option (Nat × Nat)) : exec (.buddy r answer) s = execBuddy r answer s := rfl
@[simp] theorem exec_regionRestore (r : CleipReq) : exec (.regionRestore r) s = execRegionRestore r s := rfl
@[simp] theorem exec_regionRestoreDone (region : Nat) (passed : Bool) : exec (.regionRestoreDone region passed) s = execRegionRestoreDone region passed s := rfl
@[simp] theorem exec_regionRetire (r : CleipReq) : exec (.regionRetire r) s = execRegionRetire r s := rfl
@[simp] theorem exec_overcastMask (r : CleipReq) : exec (.overcastMask r) s = execOvercastMask r s := rfl
@[simp] theorem exec_queueReset (r : CleipReq) : exec (.queueReset r) s = execQueueReset r s := rfl
@[simp] theorem exec_queueConfig (r : CleipReq) : exec (.queueConfig r) s = execQueueConfig r s := rfl
@[simp] theorem exec_poolConfig (r : CleipReq) : exec (.poolConfig r) s = execPoolConfig r s := rfl
@[simp] theorem exec_resultStoreConfig (r : CleipReq) : exec (.resultStoreConfig r) s = execResultStoreConfig r s := rfl
@[simp] theorem exec_cellConfig (r : CleipReq) : exec (.cellConfig r) s = execCellConfig r s := rfl
@[simp] theorem exec_migrateCmd (r : CleipReq) : exec (.migrateCmd r) s = execMigrateCmd r s := rfl
@[simp] theorem exec_admitProbe (r : CleipReq) : exec (.admitProbe r) s = execAdmitProbe r s := rfl
@[simp] theorem exec_kernelTable (r : CleipReq) : exec (.kernelTable r) s = execKernelTable r s := rfl
@[simp] theorem exec_policyBound (r : CleipReq) : exec (.policyBound r) s = execPolicyBound r s := rfl
@[simp] theorem exec_objectWrite (r : CleipReq) : exec (.objectWrite r) s = execObjectWrite r s := rfl
@[simp] theorem exec_cleipRead (r : CleipReq) : exec (.cleipRead r) s = execCleipRead r s := rfl
@[simp] theorem exec_cleipReadBlock (r : CleipReq) : exec (.cleipReadBlock r) s = execCleipReadBlock r s := rfl
@[simp] theorem exec_cleipWriteBlock (r : CleipReq) : exec (.cleipWriteBlock r) s = execCleipWriteBlock r s := rfl
@[simp] theorem exec_subscribeCancel (r : CleipReq) : exec (.subscribeCancel r) s = execSubscribeCancel r s := rfl
@[simp] theorem exec_subscribeOnChange (r : CleipReq) : exec (.subscribeOnChange r) s = execSubscribeOnChange r s := rfl
@[simp] theorem exec_subscribeOnEvent (r : CleipReq) : exec (.subscribeOnEvent r) s = execSubscribeOnEvent r s := rfl
@[simp] theorem exec_subscriptionInterval (n : Nat) : exec (.subscriptionInterval n) s = execSubscriptionInterval n s := rfl
@[simp] theorem exec_subLeaseLapse (n : Nat) : exec (.subLeaseLapse n) s = execSubLeaseLapse n s := rfl
@[simp] theorem exec_cleipBlockTimeout (key : Nat) : exec (.cleipBlockTimeout key) s = execCleipBlockTimeout key s := rfl
@[simp] theorem exec_cleipReplayHoldExpiry (src : CleipSrc) (tid : Nat) : exec (.cleipReplayHoldExpiry src tid) s = execCleipReplayHoldExpiry src tid s := rfl
@[simp] theorem exec_carrierIdWrite (r : CleipReq) : exec (.carrierIdWrite r) s = execCarrierIdWrite r s := rfl
@[simp] theorem exec_msWriteTransfer (x : MsWrite) (flashOk : Bool) : exec (.msWriteTransfer x flashOk) s = execMsWriteTransfer x flashOk s := rfl
@[simp] theorem exec_msReadTransfer (x : MsRead) : exec (.msReadTransfer x) s = execMsReadTransfer x s := rfl
@[simp] theorem exec_bypass : exec (.bypass) s = execBypass s := rfl
@[simp] theorem exec_idcode : exec (.idcode) s = execIdcode s := rfl
@[simp] theorem exec_samplePreload : exec (.samplePreload) s = execSamplePreload s := rfl
@[simp] theorem exec_extest : exec (.extest) s = execExtest s := rfl
@[simp] theorem exec_cleip : exec (.cleip) s = execCleip s := rfl
@[simp] theorem exec_vendorDebug (code : BitVec 8) : exec (.vendorDebug code) s = execVendorDebug code s := rfl
@[simp] theorem exec_fpAppendByte (b : Byte) : exec (.fpAppendByte b) s = execFpAppendByte b s := rfl
@[simp] theorem exec_fpStop (flashOk : Bool) : exec (.fpStop flashOk) s = execFpStop flashOk s := rfl
@[simp] theorem exec_fpFetchByte : exec (.fpFetchByte) s = execFpFetchByte s := rfl
@[simp] theorem exec_makerLockBlow (r : CleipReq) : exec (.makerLockBlow r) s = execMakerLockBlow r s := rfl
@[simp] theorem exec_auditExported (r : CleipReq) : exec (.auditExported r) s = execAuditExported r s := rfl
@[simp] theorem exec_keyLoadPlain (r : CleipReq) : exec (.keyLoadPlain r) s = execKeyLoadPlain r s := rfl
@[simp] theorem exec_keyLoadWrapped (r : CleipReq) : exec (.keyLoadWrapped r) s = execKeyLoadWrapped r s := rfl
@[simp] theorem exec_keyErase (r : CleipReq) : exec (.keyErase r) s = execKeyErase r s := rfl
@[simp] theorem exec_cipherLock (r : CleipReq) : exec (.cipherLock r) s = execCipherLock r s := rfl
@[simp] theorem exec_cipherLockBoot (r : CleipReq) : exec (.cipherLockBoot r) s = execCipherLockBoot r s := rfl
@[simp] theorem exec_cipherSelfTestDone (passed : Bool) : exec (.cipherSelfTestDone passed) s = execCipherSelfTestDone passed s := rfl
@[simp] theorem exec_configBackupRestore (r : CleipReq) : exec (.configBackupRestore r) s = execConfigBackupRestore r s := rfl
@[simp] theorem exec_configBackupRebuild : exec (.configBackupRebuild) s = execConfigBackupRebuild s := rfl
@[simp] theorem exec_fwImage (r : CleipReq) : exec (.fwImage r) s = execFwImage r s := rfl
@[simp] theorem exec_movc (c : Nat) (stop : Bool) (d : BitVec 5) (ctrl : BitVec 10) : exec (.movc c stop d ctrl) s = execMovc c stop d ctrl s := rfl
@[simp] theorem exec_movtc (c : Nat) (stop : Bool) (a : BitVec 5) (ctrl : BitVec 10) : exec (.movtc c stop a ctrl) s = execMovtc c stop a ctrl s := rfl
@[simp] theorem exec_jr (c : Nat) (stop : Bool) (a : BitVec 5) : exec (.jr c stop a) s = execJr c stop a s := rfl
@[simp] theorem exec_add (c : Nat) (f : AFmt) : exec (.add c f) s = execAdd c f s := rfl
@[simp] theorem exec_sub (c : Nat) (f : AFmt) : exec (.sub c f) s = execSub c f s := rfl
@[simp] theorem exec_adds (c : Nat) (f : AFmt) : exec (.adds c f) s = execAdds c f s := rfl
@[simp] theorem exec_subs (c : Nat) (f : AFmt) : exec (.subs c f) s = execSubs c f s := rfl
@[simp] theorem exec_and (c : Nat) (f : AFmt) : exec (.and c f) s = execAnd c f s := rfl
@[simp] theorem exec_or (c : Nat) (f : AFmt) : exec (.or c f) s = execOr c f s := rfl
@[simp] theorem exec_xor (c : Nat) (f : AFmt) : exec (.xor c f) s = execXor c f s := rfl
@[simp] theorem exec_andn (c : Nat) (f : AFmt) : exec (.andn c f) s = execAndn c f s := rfl
@[simp] theorem exec_sll (c : Nat) (f : AFmt) : exec (.sll c f) s = execSll c f s := rfl
@[simp] theorem exec_srl (c : Nat) (f : AFmt) : exec (.srl c f) s = execSrl c f s := rfl
@[simp] theorem exec_sra (c : Nat) (f : AFmt) : exec (.sra c f) s = execSra c f s := rfl
@[simp] theorem exec_slt (c : Nat) (f : AFmt) : exec (.slt c f) s = execSlt c f s := rfl
@[simp] theorem exec_sltu (c : Nat) (f : AFmt) : exec (.sltu c f) s = execSltu c f s := rfl
@[simp] theorem exec_min (c : Nat) (f : AFmt) : exec (.min c f) s = execMin c f s := rfl
@[simp] theorem exec_max (c : Nat) (f : AFmt) : exec (.max c f) s = execMax c f s := rfl
@[simp] theorem exec_minu (c : Nat) (f : AFmt) : exec (.minu c f) s = execMinu c f s := rfl
@[simp] theorem exec_maxu (c : Nat) (f : AFmt) : exec (.maxu c f) s = execMaxu c f s := rfl
@[simp] theorem exec_mul (c : Nat) (f : AFmt) : exec (.mul c f) s = execMul c f s := rfl
@[simp] theorem exec_mulh (c : Nat) (f : AFmt) : exec (.mulh c f) s = execMulh c f s := rfl
@[simp] theorem exec_mulhu (c : Nat) (f : AFmt) : exec (.mulhu c f) s = execMulhu c f s := rfl
@[simp] theorem exec_muls (c : Nat) (f : AFmt) : exec (.muls c f) s = execMuls c f s := rfl
@[simp] theorem exec_abs (c : Nat) (f : AFmt) : exec (.abs c f) s = execAbs c f s := rfl
@[simp] theorem exec_abss (c : Nat) (f : AFmt) : exec (.abss c f) s = execAbss c f s := rfl
@[simp] theorem exec_neg (c : Nat) (f : AFmt) : exec (.neg c f) s = execNeg c f s := rfl
@[simp] theorem exec_negs (c : Nat) (f : AFmt) : exec (.negs c f) s = execNegs c f s := rfl
@[simp] theorem exec_slls (c : Nat) (f : AFmt) : exec (.slls c f) s = execSlls c f s := rfl
@[simp] theorem exec_addi (c : Nat) (f : IFmt) : exec (.addi c f) s = execAddi c f s := rfl
@[simp] theorem exec_andi (c : Nat) (f : IFmt) : exec (.andi c f) s = execAndi c f s := rfl
@[simp] theorem exec_ori (c : Nat) (f : IFmt) : exec (.ori c f) s = execOri c f s := rfl
@[simp] theorem exec_xori (c : Nat) (f : IFmt) : exec (.xori c f) s = execXori c f s := rfl
@[simp] theorem exec_lui (c : Nat) (f : IFmt) : exec (.lui c f) s = execLui c f s := rfl
@[simp] theorem exec_sllImmediate (c : Nat) (f : AFmt) : exec (.sllImmediate c f) s = execSllImmediate c f s := rfl
@[simp] theorem exec_srlImmediate (c : Nat) (f : AFmt) : exec (.srlImmediate c f) s = execSrlImmediate c f s := rfl
@[simp] theorem exec_sraImmediate (c : Nat) (f : AFmt) : exec (.sraImmediate c f) s = execSraImmediate c f s := rfl
@[simp] theorem exec_sllsImmediate (c : Nat) (f : AFmt) : exec (.sllsImmediate c f) s = execSllsImmediate c f s := rfl
@[simp] theorem exec_mac (c : Nat) (f : AccFmt) : exec (.mac c f) s = execMac c f s := rfl
@[simp] theorem exec_msu (c : Nat) (f : AccFmt) : exec (.msu c f) s = execMsu c f s := rfl
@[simp] theorem exec_machh (c : Nat) (f : AccFmt) : exec (.machh c f) s = execMachh c f s := rfl
@[simp] theorem exec_accld (c : Nat) (f : AccFmt) : exec (.accld c f) s = execAccld c f s := rfl
@[simp] theorem exec_accx (c : Nat) (f : AccFmt) : exec (.accx c f) s = execAccx c f s := rfl
@[simp] theorem exec_accx16 (c : Nat) (f : AccFmt) : exec (.accx16 c f) s = execAccx16 c f s := rfl
@[simp] theorem exec_accclr (c : Nat) (f : AccFmt) : exec (.accclr c f) s = execAccclr c f s := rfl
@[simp] theorem exec_maxix (c : Nat) (f : IxFmt) : exec (.maxix c f) s = execMaxix c f s := rfl
@[simp] theorem exec_minix (c : Nat) (f : IxFmt) : exec (.minix c f) s = execMinix c f s := rfl
@[simp] theorem exec_maxux (c : Nat) (f : IxFmt) : exec (.maxux c f) s = execMaxux c f s := rfl
@[simp] theorem exec_minux (c : Nat) (f : IxFmt) : exec (.minux c f) s = execMinux c f s := rfl
@[simp] theorem exec_bexp (c : Nat) (f : IxFmt) : exec (.bexp c f) s = execBexp c f s := rfl
@[simp] theorem exec_bexpm (c : Nat) (f : IxFmt) : exec (.bexpm c f) s = execBexpm c f s := rfl
@[simp] theorem exec_bexpa (c : Nat) (f : IxFmt) : exec (.bexpa c f) s = execBexpa c f s := rfl
@[simp] theorem exec_sat16 (c : Nat) (f : IxFmt) : exec (.sat16 c f) s = execSat16 c f s := rfl
@[simp] theorem exec_beqz (c : Nat) (stop : Bool) (a : BitVec 5) (off : BitVec 18) : exec (.beqz c stop a off) s = execBeqz c stop a off s := rfl
@[simp] theorem exec_bnez (c : Nat) (stop : Bool) (a : BitVec 5) (off : BitVec 18) : exec (.bnez c stop a off) s = execBnez c stop a off s := rfl
@[simp] theorem exec_bltz (c : Nat) (stop : Bool) (a : BitVec 5) (off : BitVec 18) : exec (.bltz c stop a off) s = execBltz c stop a off s := rfl
@[simp] theorem exec_bgez (c : Nat) (stop : Bool) (a : BitVec 5) (off : BitVec 18) : exec (.bgez c stop a off) s = execBgez c stop a off s := rfl
@[simp] theorem exec_bgtz (c : Nat) (stop : Bool) (a : BitVec 5) (off : BitVec 18) : exec (.bgtz c stop a off) s = execBgtz c stop a off s := rfl
@[simp] theorem exec_blez (c : Nat) (stop : Bool) (a : BitVec 5) (off : BitVec 18) : exec (.blez c stop a off) s = execBlez c stop a off s := rfl
@[simp] theorem exec_br (c : Nat) (stop : Bool) (off : BitVec 25) : exec (.br c stop off) s = execBr c stop off s := rfl
@[simp] theorem exec_bal (c : Nat) (stop : Bool) (off : BitVec 25) : exec (.bal c stop off) s = execBal c stop off s := rfl
@[simp] theorem exec_loop (c : Nat) (stop : Bool) (a : BitVec 5) (lvl : Bool) (last : BitVec 20) : exec (.loop c stop a lvl last) s = execLoop c stop a lvl last s := rfl
@[simp] theorem exec_ld (c : Nat) (f : MFmt) : exec (.ld c f) s = execLd c f s := rfl
@[simp] theorem exec_st (c : Nat) (f : MFmt) : exec (.st c f) s = execSt c f s := rfl
@[simp] theorem exec_cbset (c : Nat) (stop : Bool) (n : BitVec 3) (a b : BitVec 5) (res : BitVec 13) : exec (.cbset c stop n a b res) s = execCbset c stop n a b res s := rfl
@[simp] theorem exec_nop (c : Nat) (f : IFmt) : exec (.nop c f) s = execNop c f s := rfl
@[simp] theorem exec_tend (c : Nat) (f : IFmt) : exec (.tend c f) s = execTend c f s := rfl
@[simp] theorem exec_fence (c : Nat) (f : IFmt) : exec (.fence c f) s = execFence c f s := rfl
@[simp] theorem exec_trap (c : Nat) (f : IFmt) : exec (.trap c f) s = execTrap c f s := rfl
@[simp] theorem exec_postedStoreError (c ea : Nat) (cause : Nat) : exec (.postedStoreError c ea cause) s = execPostedStoreError c ea cause s := rfl
@[simp] theorem exec_interconnectTimeout (who : Requester) (addr : Nat) : exec (.interconnectTimeout who addr) s = execInterconnectTimeout who addr s := rfl
@[simp] theorem exec_spanset (c : Nat) (stop : Bool) (d a : BitVec 5) (etype : BitVec 3) (grp : BitVec 2) (res : BitVec 5) : exec (.spanset c stop d a etype grp res) s = execSpanset c stop d a etype grp res s := rfl
@[simp] theorem exec_vsync (c : Nat) (f : VFmt) : exec (.vsync c f) s = execVsync c f s := rfl
@[simp] theorem exec_vmovhw (c : Nat) (f : VFmt) : exec (.vmovhw c f) s = execVmovhw c f s := rfl
@[simp] theorem exec_vmovwh (c : Nat) (f : VFmt) : exec (.vmovwh c f) s = execVmovwh c f s := rfl
@[simp] theorem exec_vadd (c : Nat) (scalar : Bool) (f : VFmt) : exec (.vadd c scalar f) s = execVadd c scalar f s := rfl
@[simp] theorem exec_vsub (c : Nat) (scalar : Bool) (f : VFmt) : exec (.vsub c scalar f) s = execVsub c scalar f s := rfl
@[simp] theorem exec_vadds (c : Nat) (scalar : Bool) (f : VFmt) : exec (.vadds c scalar f) s = execVadds c scalar f s := rfl
@[simp] theorem exec_vsubs (c : Nat) (scalar : Bool) (f : VFmt) : exec (.vsubs c scalar f) s = execVsubs c scalar f s := rfl
@[simp] theorem exec_vand (c : Nat) (scalar : Bool) (f : VFmt) : exec (.vand c scalar f) s = execVand c scalar f s := rfl
@[simp] theorem exec_vor (c : Nat) (scalar : Bool) (f : VFmt) : exec (.vor c scalar f) s = execVor c scalar f s := rfl
@[simp] theorem exec_vxor (c : Nat) (scalar : Bool) (f : VFmt) : exec (.vxor c scalar f) s = execVxor c scalar f s := rfl
@[simp] theorem exec_vandn (c : Nat) (scalar : Bool) (f : VFmt) : exec (.vandn c scalar f) s = execVandn c scalar f s := rfl
@[simp] theorem exec_vsll (c : Nat) (scalar : Bool) (f : VFmt) : exec (.vsll c scalar f) s = execVsll c scalar f s := rfl
@[simp] theorem exec_vsrl (c : Nat) (scalar : Bool) (f : VFmt) : exec (.vsrl c scalar f) s = execVsrl c scalar f s := rfl
@[simp] theorem exec_vsra (c : Nat) (scalar : Bool) (f : VFmt) : exec (.vsra c scalar f) s = execVsra c scalar f s := rfl
@[simp] theorem exec_vslls (c : Nat) (scalar : Bool) (f : VFmt) : exec (.vslls c scalar f) s = execVslls c scalar f s := rfl
@[simp] theorem exec_vmin (c : Nat) (scalar : Bool) (f : VFmt) : exec (.vmin c scalar f) s = execVmin c scalar f s := rfl
@[simp] theorem exec_vmax (c : Nat) (scalar : Bool) (f : VFmt) : exec (.vmax c scalar f) s = execVmax c scalar f s := rfl
@[simp] theorem exec_vminu (c : Nat) (scalar : Bool) (f : VFmt) : exec (.vminu c scalar f) s = execVminu c scalar f s := rfl
@[simp] theorem exec_vmaxu (c : Nat) (scalar : Bool) (f : VFmt) : exec (.vmaxu c scalar f) s = execVmaxu c scalar f s := rfl
@[simp] theorem exec_vabs (c : Nat) (scalar : Bool) (f : VFmt) : exec (.vabs c scalar f) s = execVabs c scalar f s := rfl
@[simp] theorem exec_vabss (c : Nat) (scalar : Bool) (f : VFmt) : exec (.vabss c scalar f) s = execVabss c scalar f s := rfl
@[simp] theorem exec_vneg (c : Nat) (scalar : Bool) (f : VFmt) : exec (.vneg c scalar f) s = execVneg c scalar f s := rfl
@[simp] theorem exec_vnegs (c : Nat) (scalar : Bool) (f : VFmt) : exec (.vnegs c scalar f) s = execVnegs c scalar f s := rfl
@[simp] theorem exec_vmul (c : Nat) (scalar : Bool) (f : VFmt) : exec (.vmul c scalar f) s = execVmul c scalar f s := rfl
@[simp] theorem exec_vmulh (c : Nat) (scalar : Bool) (f : VFmt) : exec (.vmulh c scalar f) s = execVmulh c scalar f s := rfl
@[simp] theorem exec_vmulq (c : Nat) (scalar : Bool) (f : VFmt) : exec (.vmulq c scalar f) s = execVmulq c scalar f s := rfl
@[simp] theorem exec_vmulqs (c : Nat) (scalar : Bool) (f : VFmt) : exec (.vmulqs c scalar f) s = execVmulqs c scalar f s := rfl
@[simp] theorem exec_vcmul (c : Nat) (scalar : Bool) (f : VFmt) : exec (.vcmul c scalar f) s = execVcmul c scalar f s := rfl
@[simp] theorem exec_vcmuls (c : Nat) (scalar : Bool) (f : VFmt) : exec (.vcmuls c scalar f) s = execVcmuls c scalar f s := rfl
@[simp] theorem exec_vcmulj (c : Nat) (scalar : Bool) (f : VFmt) : exec (.vcmulj c scalar f) s = execVcmulj c scalar f s := rfl
@[simp] theorem exec_vcmuljs (c : Nat) (scalar : Bool) (f : VFmt) : exec (.vcmuljs c scalar f) s = execVcmuljs c scalar f s := rfl
@[simp] theorem exec_vconj (c : Nat) (scalar : Bool) (f : VFmt) : exec (.vconj c scalar f) s = execVconj c scalar f s := rfl
@[simp] theorem exec_vmulj (c : Nat) (scalar : Bool) (f : VFmt) : exec (.vmulj c scalar f) s = execVmulj c scalar f s := rfl
@[simp] theorem exec_vmov (c : Nat) (f : VFmt) : exec (.vmov c f) s = execVmov c f s := rfl
@[simp] theorem exec_vsplat (c : Nat) (f : VFmt) : exec (.vsplat c f) s = execVsplat c f s := rfl
@[simp] theorem exec_vmac (c : Nat) (f : VFmt) : exec (.vmac c f) s = execVmac c f s := rfl
@[simp] theorem exec_vmsu (c : Nat) (f : VFmt) : exec (.vmsu c f) s = execVmsu c f s := rfl
@[simp] theorem exec_vmacq (c : Nat) (f : VFmt) : exec (.vmacq c f) s = execVmacq c f s := rfl
@[simp] theorem exec_vmacqs (c : Nat) (f : VFmt) : exec (.vmacqs c f) s = execVmacqs c f s := rfl
@[simp] theorem exec_vcmac (c : Nat) (f : VFmt) : exec (.vcmac c f) s = execVcmac c f s := rfl
@[simp] theorem exec_vcmacs (c : Nat) (f : VFmt) : exec (.vcmacs c f) s = execVcmacs c f s := rfl
@[simp] theorem exec_vcmacj (c : Nat) (f : VFmt) : exec (.vcmacj c f) s = execVcmacj c f s := rfl
@[simp] theorem exec_vcmacjs (c : Nat) (f : VFmt) : exec (.vcmacjs c f) s = execVcmacjs c f s := rfl
@[simp] theorem exec_vwmul (c : Nat) (f : VFmt) : exec (.vwmul c f) s = execVwmul c f s := rfl
@[simp] theorem exec_vwmac (c : Nat) (f : VFmt) : exec (.vwmac c f) s = execVwmac c f s := rfl
@[simp] theorem exec_vwcmac (c : Nat) (f : VFmt) : exec (.vwcmac c f) s = execVwcmac c f s := rfl
@[simp] theorem exec_vwcmacj (c : Nat) (f : VFmt) : exec (.vwcmacj c f) s = execVwcmacj c f s := rfl
@[simp] theorem exec_vwiden (c : Nat) (f : VFmt) : exec (.vwiden c f) s = execVwiden c f s := rfl
@[simp] theorem exec_vnsra (c : Nat) (f : VFmt) : exec (.vnsra c f) s = execVnsra c f s := rfl
@[simp] theorem exec_vnsras (c : Nat) (f : VFmt) : exec (.vnsras c f) s = execVnsras c f s := rfl
@[simp] theorem exec_vld (c : Nat) (f : VMFmt) : exec (.vld c f) s = execVld c f s := rfl
@[simp] theorem exec_vst (c : Nat) (f : VMFmt) : exec (.vst c f) s = execVst c f s := rfl
@[simp] theorem exec_vlds (c : Nat) (f : VMFmt) : exec (.vlds c f) s = execVlds c f s := rfl
@[simp] theorem exec_vsts (c : Nat) (f : VMFmt) : exec (.vsts c f) s = execVsts c f s := rfl
@[simp] theorem exec_vgath (c : Nat) (f : VMFmt) : exec (.vgath c f) s = execVgath c f s := rfl
@[simp] theorem exec_vscat (c : Nat) (f : VMFmt) : exec (.vscat c f) s = execVscat c f s := rfl
@[simp] theorem exec_vgathf (c : Nat) (f : VMFmt) : exec (.vgathf c f) s = execVgathf c f s := rfl
@[simp] theorem exec_vcmpeq (c : Nat) (f : VFmt) : exec (.vcmpeq c f) s = execVcmpeq c f s := rfl
@[simp] theorem exec_vcmpne (c : Nat) (f : VFmt) : exec (.vcmpne c f) s = execVcmpne c f s := rfl
@[simp] theorem exec_vcmplt (c : Nat) (f : VFmt) : exec (.vcmplt c f) s = execVcmplt c f s := rfl
@[simp] theorem exec_vcmple (c : Nat) (f : VFmt) : exec (.vcmple c f) s = execVcmple c f s := rfl
@[simp] theorem exec_vcmpltu (c : Nat) (f : VFmt) : exec (.vcmpltu c f) s = execVcmpltu c f s := rfl
@[simp] theorem exec_vcmpleu (c : Nat) (f : VFmt) : exec (.vcmpleu c f) s = execVcmpleu c f s := rfl
@[simp] theorem exec_kand (c : Nat) (f : VFmt) : exec (.kand c f) s = execKand c f s := rfl
@[simp] theorem exec_kor (c : Nat) (f : VFmt) : exec (.kor c f) s = execKor c f s := rfl
@[simp] theorem exec_kxor (c : Nat) (f : VFmt) : exec (.kxor c f) s = execKxor c f s := rfl
@[simp] theorem exec_kandn (c : Nat) (f : VFmt) : exec (.kandn c f) s = execKandn c f s := rfl
@[simp] theorem exec_knot (c : Nat) (f : VFmt) : exec (.knot c f) s = execKnot c f s := rfl
@[simp] theorem exec_kset (c : Nat) (f : VFmt) : exec (.kset c f) s = execKset c f s := rfl
@[simp] theorem exec_vredmaxix (c : Nat) (f : VFmt) : exec (.vredmaxix c f) s = execVredmaxix c f s := rfl
@[simp] theorem exec_vredminix (c : Nat) (f : VFmt) : exec (.vredminix c f) s = execVredminix c f s := rfl
@[simp] theorem exec_vredmaxux (c : Nat) (f : VFmt) : exec (.vredmaxux c f) s = execVredmaxux c f s := rfl
@[simp] theorem exec_vredminux (c : Nat) (f : VFmt) : exec (.vredminux c f) s = execVredminux c f s := rfl
@[simp] theorem exec_vbexp (c : Nat) (f : VFmt) : exec (.vbexp c f) s = execVbexp c f s := rfl
@[simp] theorem exec_vredsum (c : Nat) (f : VFmt) : exec (.vredsum c f) s = execVredsum c f s := rfl
@[simp] theorem exec_vmvg (c : Nat) (f : VFmt) : exec (.vmvg c f) s = execVmvg c f s := rfl
@[simp] theorem exec_vmvv (c : Nat) (f : VFmt) : exec (.vmvv c f) s = execVmvv c f s := rfl
@[simp] theorem exec_kpopc (c : Nat) (f : VFmt) : exec (.kpopc c f) s = execKpopc c f s := rfl
@[simp] theorem exec_kfirst (c : Nat) (f : VFmt) : exec (.kfirst c f) s = execKfirst c f s := rfl
@[simp] theorem exec_viota (c : Nat) (f : VFmt) : exec (.viota c f) s = execViota c f s := rfl
@[simp] theorem exec_vectorFaultDelivery (c : Nat) : exec (.vectorFaultDelivery c) s = execVectorFaultDelivery c s := rfl
@[simp] theorem exec_mxmac (c : Nat) (f : XFmt) : exec (.mxmac c f) s = execMxmac c f s := rfl
@[simp] theorem exec_mxmach (c : Nat) (f : XFmt) : exec (.mxmach c f) s = execMxmach c f s := rfl
@[simp] theorem exec_mxmul (c : Nat) (f : XFmt) : exec (.mxmul c f) s = execMxmul c f s := rfl
@[simp] theorem exec_mxmulh (c : Nat) (f : XFmt) : exec (.mxmulh c f) s = execMxmulh c f s := rfl
@[simp] theorem exec_mxmsu (c : Nat) (f : XFmt) : exec (.mxmsu c f) s = execMxmsu c f s := rfl
@[simp] theorem exec_mxclr (c : Nat) (f : XFmt) : exec (.mxclr c f) s = execMxclr c f s := rfl
@[simp] theorem exec_mxpack (c : Nat) (f : XFmt) : exec (.mxpack c f) s = execMxpack c f s := rfl
@[simp] theorem exec_mxtrn (c : Nat) (f : XFmt) : exec (.mxtrn c f) s = execMxtrn c f s := rfl
@[simp] theorem exec_mxherm (c : Nat) (f : XFmt) : exec (.mxherm c f) s = execMxherm c f s := rfl
@[simp] theorem exec_mxrd (c : Nat) (f : XFmt) : exec (.mxrd c f) s = execMxrd c f s := rfl
@[simp] theorem exec_mxbexp (c : Nat) (f : XFmt) : exec (.mxbexp c f) s = execMxbexp c f s := rfl
@[simp] theorem exec_mxwr (c : Nat) (f : XFmt) : exec (.mxwr c f) s = execMxwr c f s := rfl
@[simp] theorem exec_mxld (c : Nat) (f : XFmt) : exec (.mxld c f) s = execMxld c f s := rfl
@[simp] theorem exec_mxst (c : Nat) (f : XFmt) : exec (.mxst c f) s = execMxst c f s := rfl
@[simp] theorem exec_mxstz (c : Nat) (f : XFmt) : exec (.mxstz c f) s = execMxstz c f s := rfl
@[simp] theorem exec_mxlock (c : Nat) (f : XFmt) : exec (.mxlock c f) s = execMxlock c f s := rfl
@[simp] theorem exec_mxunlock (c : Nat) (f : XFmt) : exec (.mxunlock c f) s = execMxunlock c f s := rfl
@[simp] theorem exec_mxsave (c : Nat) (f : XFmt) : exec (.mxsave c f) s = execMxsave c f s := rfl
@[simp] theorem exec_mxrestore (c : Nat) (f : XFmt) : exec (.mxrestore c f) s = execMxrestore c f s := rfl
@[simp] theorem exec_mxsync (c : Nat) (f : XFmt) : exec (.mxsync c f) s = execMxsync c f s := rfl
@[simp] theorem exec_mxcLockGrant (m : Nat) : exec (.mxcLockGrant m) s = execMxcLockGrant m s := rfl
@[simp] theorem exec_mxcWaitEvict (m : Nat) : exec (.mxcWaitEvict m) s = execMxcWaitEvict m s := rfl
@[simp] theorem exec_mxcSquashDrainEnd (m : Nat) : exec (.mxcSquashDrainEnd m) s = execMxcSquashDrainEnd m s := rfl
@[simp] theorem exec_mxcImpreciseError (c : Nat) (code : Nat) (addr : Nat) : exec (.mxcImpreciseError c code addr) s = execMxcImpreciseError c code addr s := rfl
@[simp] theorem exec_ldpcDecode (n : Nat) : exec (.ldpcDecode n) s = execLdpcDecode n s := rfl
@[simp] theorem exec_ldpcEncode (n : Nat) : exec (.ldpcEncode n) s = execLdpcEncode n s := rfl
@[simp] theorem exec_polarDecode (n : Nat) : exec (.polarDecode n) s = execPolarDecode n s := rfl
@[simp] theorem exec_polarEncode (n : Nat) : exec (.polarEncode n) s = execPolarEncode n s := rfl
@[simp] theorem exec_fft (n : Nat) : exec (.fft n) s = execFft n s := rfl
@[simp] theorem exec_ifft (n : Nat) : exec (.ifft n) s = execIfft n s := rfl
@[simp] theorem exec_engineEntryEnd (kind n : Nat) (fail : Option Nat) : exec (.engineEntryEnd kind n fail) s = execEngineEntryEnd kind n fail s := rfl
@[simp] theorem exec_engineWatchdog (kind n : Nat) : exec (.engineWatchdog kind n) s = execEngineWatchdog kind n s := rfl
@[simp] theorem exec_nbReceive (n : Nat) : exec (.nbReceive n) s = execNbReceive n s := rfl
@[simp] theorem exec_nbTransmit (n : Nat) : exec (.nbTransmit n) s = execNbTransmit n s := rfl
@[simp] theorem exec_nbSliceBistDone (n : Nat) (passed : Bool) : exec (.nbSliceBistDone n passed) s = execNbSliceBistDone n passed s := rfl
@[simp] theorem exec_nbConfigWrite (r : CleipReq) : exec (.nbConfigWrite r) s = execNbConfigWrite r s := rfl
@[simp] theorem exec_groupEnable (r : CleipReq) : exec (.groupEnable r) s = execGroupEnable r s := rfl
@[simp] theorem exec_laneBlockReceived (lane : Nat) (header upper lower : List Bool) : exec (.laneBlockReceived lane header upper lower) s = execLaneBlockReceived lane header upper lower s := rfl
@[simp] theorem exec_laneLock (lane : Nat) : exec (.laneLock lane) s = execLaneLock lane s := rfl
@[simp] theorem exec_laneLockLoss (lane : Nat) (noSignal : Bool) : exec (.laneLockLoss lane noSignal) s = execLaneLockLoss lane noSignal s := rfl
@[simp] theorem exec_fillerRow (group : Nat) (skews : List Nat) : exec (.fillerRow group skews) s = execFillerRow group skews s := rfl
@[simp] theorem exec_rowRelease (group : Nat) : exec (.rowRelease group) s = execRowRelease group s := rfl
@[simp] theorem exec_laneCmdSlip (r : CleipReq) : exec (.laneCmdSlip r) s = execLaneCmdSlip r s := rfl
@[simp] theorem exec_laneCmdDrain (r : CleipReq) : exec (.laneCmdDrain r) s = execLaneCmdDrain r s := rfl
@[simp] theorem exec_laneCmdRestore (r : CleipReq) : exec (.laneCmdRestore r) s = execLaneCmdRestore r s := rfl
@[simp] theorem exec_laneConfig (r : CleipReq) : exec (.laneConfig r) s = execLaneConfig r s := rfl
@[simp] theorem exec_laneRowTransmit (group : Nat) : exec (.laneRowTransmit group) s = execLaneRowTransmit group s := rfl
@[simp] theorem exec_basicFrameReceived (link : Nat) : exec (.basicFrameReceived link) s = execBasicFrameReceived link s := rfl
@[simp] theorem exec_sectionReceived (link : Nat) : exec (.sectionReceived link) s = execSectionReceived link s := rfl
@[simp] theorem exec_basicFrameTransmit (link : Nat) : exec (.basicFrameTransmit link) s = execBasicFrameTransmit link s := rfl
@[simp] theorem exec_sectionTransmit (queue : Nat) : exec (.sectionTransmit queue) s = execSectionTransmit queue s := rfl
@[simp] theorem exec_containerSampleTransmit (cont : Nat) : exec (.containerSampleTransmit cont) s = execContainerSampleTransmit cont s := rfl
@[simp] theorem exec_defectSet (link defect : Nat) : exec (.defectSet link defect) s = execDefectSet link defect s := rfl
@[simp] theorem exec_defectClear (link defect : Nat) : exec (.defectClear link defect) s = execDefectClear link defect s := rfl
@[simp] theorem exec_mcMessageReceived (link : Nat) (bytes : List Byte) : exec (.mcMessageReceived link bytes) s = execMcMessageReceived link bytes s := rfl
@[simp] theorem exec_mcTimeout (link : Nat) : exec (.mcTimeout link) s = execMcTimeout link s := rfl
@[simp] theorem exec_ruPoll (link : Nat) : exec (.ruPoll link) s = execRuPoll link s := rfl
@[simp] theorem exec_versionSeal (v : Nat) : exec (.versionSeal v) s = execVersionSeal v s := rfl
@[simp] theorem exec_versionRetainExpiry (v : Nat) : exec (.versionRetainExpiry v) s = execVersionRetainExpiry v s := rfl
@[simp] theorem exec_ecpriIqData (port : Nat) (src : Peer) (form : EcpriForm) (id seqId : BitVec 16) (bytes : List Byte) : exec (.ecpriIqData port src form id seqId bytes) s = execEcpriIqData port src form id seqId bytes s := rfl
@[simp] theorem exec_ecpriRtControl (port : Nat) (src : Peer) (form : EcpriForm) (id seqId : BitVec 16) (bytes : List Byte) : exec (.ecpriRtControl port src form id seqId bytes) s = execEcpriRtControl port src form id seqId bytes s := rfl
@[simp] theorem exec_ecpriDelayMeasurement (port : Nat) (src : Peer) (form : EcpriForm) (action ident : Nat) (t2 : Nat) : exec (.ecpriDelayMeasurement port src form action ident t2) s = execEcpriDelayMeasurement port src form action ident t2 s := rfl
@[simp] theorem exec_linkConfig (r : CleipReq) : exec (.linkConfig r) s = execLinkConfig r s := rfl
@[simp] theorem exec_tdContainers (r : CleipReq) : exec (.tdContainers r) s = execTdContainers r s := rfl
@[simp] theorem exec_anvilPoolRole (r : CleipReq) : exec (.anvilPoolRole r) s = execAnvilPoolRole r s := rfl
@[simp] theorem exec_fhCell (r : CleipReq) : exec (.fhCell r) s = execFhCell r s := rfl
@[simp] theorem exec_tdLanding (r : CleipReq) : exec (.tdLanding r) s = execTdLanding r s := rfl
@[simp] theorem exec_doorbell (chan : Nat) (addr : BitVec 40) : exec (.doorbell chan addr) s = execDoorbell chan addr s := rfl
@[simp] theorem exec_chanReset (chan : Nat) : exec (.chanReset chan) s = execChanReset chan s := rfl
@[simp] theorem exec_dmaDescriptorFetched (chan : Nat) : exec (.dmaDescriptorFetched chan) s = execDmaDescriptorFetched chan s := rfl
@[simp] theorem exec_dmaCopy (chan : Nat) : exec (.dmaCopy chan) s = execDmaCopy chan s := rfl
@[simp] theorem exec_dmaFill (chan : Nat) : exec (.dmaFill chan) s = execDmaFill chan s := rfl
@[simp] theorem exec_dmaAntennaInterleave (chan : Nat) : exec (.dmaAntennaInterleave chan) s = execDmaAntennaInterleave chan s := rfl
@[simp] theorem exec_dmaAntennaDeinterleave (chan : Nat) : exec (.dmaAntennaDeinterleave chan) s = execDmaAntennaDeinterleave chan s := rfl
@[simp] theorem exec_dmaBitPlaneSplit (chan : Nat) : exec (.dmaBitPlaneSplit chan) s = execDmaBitPlaneSplit chan s := rfl
@[simp] theorem exec_dmaBitPlaneMerge (chan : Nat) : exec (.dmaBitPlaneMerge chan) s = execDmaBitPlaneMerge chan s := rfl
@[simp] theorem exec_dmaTransferEnd (chan : Nat) : exec (.dmaTransferEnd chan) s = execDmaTransferEnd chan s := rfl
@[simp] theorem exec_endCheckReturn (chan : Nat) : exec (.endCheckReturn chan) s = execEndCheckReturn chan s := rfl
@[simp] theorem exec_drizzleRead (unit : Nat) (found : Option BadWord) : exec (.drizzleRead unit found) s = execDrizzleRead unit found s := rfl
@[simp] theorem exec_drizzleLapLimit (unit : Nat) : exec (.drizzleLapLimit unit) s = execDrizzleLapLimit unit s := rfl
@[simp] theorem exec_codeImageRewriteDone (image : Nat) (ok : Bool) : exec (.codeImageRewriteDone image ok) s = execCodeImageRewriteDone image ok s := rfl
@[simp] theorem exec_fastFillDone (what : Nat) : exec (.fastFillDone what) s = execFastFillDone what s := rfl
@[simp] theorem exec_dramRefresh (rank : Nat) : exec (.dramRefresh rank) s = execDramRefresh rank s := rfl
@[simp] theorem exec_rankPowerDown (rank : Nat) : exec (.rankPowerDown rank) s = execRankPowerDown rank s := rfl
@[simp] theorem exec_dramConfig (r : CleipReq) : exec (.dramConfig r) s = execDramConfig r s := rfl
@[simp] theorem exec_timingSetWrite (r : CleipReq) : exec (.timingSetWrite r) s = execTimingSetWrite r s := rfl
@[simp] theorem exec_dramDelays (r : CleipReq) : exec (.dramDelays r) s = execDramDelays r s := rfl
@[simp] theorem exec_dramFreqCmd (r : CleipReq) : exec (.dramFreqCmd r) s = execDramFreqCmd r s := rfl
@[simp] theorem exec_dramFreqChangeDone (chan : Nat) : exec (.dramFreqChangeDone chan) s = execDramFreqChangeDone chan s := rfl
@[simp] theorem exec_timeBeat : exec (.timeBeat) s = execTimeBeat s := rfl
@[simp] theorem exec_beatTimeout (island : Nat) : exec (.beatTimeout island) s = execBeatTimeout island s := rfl
@[simp] theorem exec_secondBoundary : exec (.secondBoundary) s = execSecondBoundary s := rfl
@[simp] theorem exec_dayBoundary : exec (.dayBoundary) s = execDayBoundary s := rfl
@[simp] theorem exec_ref10mhzLoss : exec (.ref10mhzLoss) s = execRef10mhzLoss s := rfl
@[simp] theorem exec_timeSet (r : CleipReq) : exec (.timeSet r) s = execTimeSet r s := rfl
@[simp] theorem exec_adjust (r : CleipReq) : exec (.adjust r) s = execAdjust r s := rfl
@[simp] theorem exec_increment (r : CleipReq) : exec (.increment r) s = execIncrement r s := rfl
@[simp] theorem exec_activeDomain (r : CleipReq) : exec (.activeDomain r) s = execActiveDomain r s := rfl
@[simp] theorem exec_timeRefSel (r : CleipReq) : exec (.timeRefSel r) s = execTimeRefSel r s := rfl
@[simp] theorem exec_ptpDomain (r : CleipReq) : exec (.ptpDomain r) s = execPtpDomain r s := rfl
@[simp] theorem exec_tcDomains (r : CleipReq) : exec (.tcDomains r) s = execTcDomains r s := rfl
@[simp] theorem exec_ptpSync (src : SyncFrom) (port : Nat) (t1 t2 t3 t4 : Int) (correction : Int) : exec (.ptpSync src port t1 t2 t3 t4 correction) s = execPtpSync src port t1 t2 t3 t4 correction s := rfl
@[simp] theorem exec_ptpAnnounce (port : Nat) (head : PtpHead) (a : Announce) : exec (.ptpAnnounce port head a) s = execPtpAnnounce port head a s := rfl
@[simp] theorem exec_ptpDelayReq (port : Nat) (head : PtpHead) (requester : Nat) (correction : Int) : exec (.ptpDelayReq port head requester correction) s = execPtpDelayReq port head requester correction s := rfl
@[simp] theorem exec_announceReceiptTimeout (tb : Bool) : exec (.announceReceiptTimeout tb) s = execAnnounceReceiptTimeout tb s := rfl
@[simp] theorem exec_ptpMessageTransmit (tb : Bool) (port kind : Nat) : exec (.ptpMessageTransmit tb port kind) s = execPtpMessageTransmit tb port kind s := rfl
@[simp] theorem exec_tcForward (port dstMac domain kind : Nat) (residence : Int) (frame : List Byte) : exec (.tcForward port dstMac domain kind residence frame) s = execTcForward port dstMac domain kind residence frame s := rfl
@[simp] theorem exec_ppsInEdge (t : Nat) : exec (.ppsInEdge t) s = execPpsInEdge t s := rfl
@[simp] theorem exec_holdoverLimit : exec (.holdoverLimit) s = execHoldoverLimit s := rfl
@[simp] theorem exec_omPoll (pos : Nat) (reading : Option ModuleReading) : exec (.omPoll pos reading) s = execOmPoll pos reading s := rfl
@[simp] theorem exec_moduleMap (r : CleipReq) : exec (.moduleMap r) s = execModuleMap r s := rfl
@[simp] theorem exec_opticsCmdDrain (r : CleipReq) : exec (.opticsCmdDrain r) s = execOpticsCmdDrain r s := rfl
@[simp] theorem exec_opticsCmdRestore (r : CleipReq) : exec (.opticsCmdRestore r) s = execOpticsCmdRestore r s := rfl
@[simp] theorem exec_powerTarget (r : CleipReq) : exec (.powerTarget r) s = execPowerTarget r s := rfl
@[simp] theorem exec_deepCmd (r : CleipReq) : exec (.deepCmd r) s = execDeepCmd r s := rfl
@[simp] theorem exec_duskVote (flashFails : Bool) : exec (.duskVote flashFails) s = execDuskVote flashFails s := rfl
@[simp] theorem exec_duskVoteTimeout : exec (.duskVoteTimeout) s = execDuskVoteTimeout s := rfl
@[simp] theorem exec_duskEntryComplete : exec (.duskEntryComplete) s = execDuskEntryComplete s := rfl
@[simp] theorem exec_aonRegRdy : exec (.aonRegRdy) s = execAonRegRdy s := rfl
@[simp] theorem exec_pswRdy : exec (.pswRdy) s = execPswRdy s := rfl
@[simp] theorem exec_pllLock : exec (.pllLock) s = execPllLock s := rfl
@[simp] theorem exec_memRdy (badBanks : List Nat) : exec (.memRdy badBanks) s = execMemRdy badBanks s := rfl
@[simp] theorem exec_wakeEdge : exec (.wakeEdge) s = execWakeEdge s := rfl
@[simp] theorem exec_wakeAlarm : exec (.wakeAlarm) s = execWakeAlarm s := rfl
@[simp] theorem exec_aonBrownout : exec (.aonBrownout) s = execAonBrownout s := rfl
@[simp] theorem exec_engineIslandGate (island : Nat) : exec (.engineIslandGate island) s = execEngineIslandGate island s := rfl
@[simp] theorem exec_gatedIslandWake (island : Nat) (badBanks : List Nat) : exec (.gatedIslandWake island badBanks) s = execGatedIslandWake island badBanks s := rfl
@[simp] theorem exec_vinMainLow : exec (.vinMainLow) s = execVinMainLow s := rfl
@[simp] theorem exec_vinMainRestored : exec (.vinMainRestored) s = execVinMainRestored s := rfl
@[simp] theorem exec_bkupOkMeasure (mv : Nat) : exec (.bkupOkMeasure mv) s = execBkupOkMeasure mv s := rfl
@[simp] theorem exec_vinBkupLoss : exec (.vinBkupLoss) s = execVinBkupLoss s := rfl
@[simp] theorem exec_pwrGoodFall : exec (.pwrGoodFall) s = execPwrGoodFall s := rfl
@[simp] theorem exec_pwrGoodRise : exec (.pwrGoodRise) s = execPwrGoodRise s := rfl
@[simp] theorem exec_resetNFall : exec (.resetNFall) s = execResetNFall s := rfl
@[simp] theorem exec_resetNCold : exec (.resetNCold) s = execResetNCold s := rfl
@[simp] theorem exec_resetNRelease (fpEn aui0 aui1 : Bool) : exec (.resetNRelease fpEn aui0 aui1) s = execResetNRelease fpEn aui0 aui1 s := rfl
@[simp] theorem exec_serviceable : exec (.serviceable) s = execServiceable s := rfl
@[simp] theorem exec_resetCmdWarm (r : CleipReq) : exec (.resetCmdWarm r) s = execResetCmdWarm r s := rfl
@[simp] theorem exec_resetCmdCold (r : CleipReq) : exec (.resetCmdCold r) s = execResetCmdCold r s := rfl
@[simp] theorem exec_sysRefclkLoss : exec (.sysRefclkLoss) s = execSysRefclkLoss s := rfl
@[simp] theorem exec_temperatureAlarm (hot : Bool) : exec (.temperatureAlarm hot) s = execTemperatureAlarm hot s := rfl
@[simp] theorem exec_portUp (port : Nat) : exec (.portUp port) s = execPortUp port s := rfl
@[simp] theorem exec_pfcPauseExpiry (port prio : Nat) : exec (.pfcPauseExpiry port prio) s = execPfcPauseExpiry port prio s := rfl
@[simp] theorem exec_commandParityError (sub : Nat) (retryOk : Bool) : exec (.commandParityError sub retryOk) s = execCommandParityError sub retryOk s := rfl
@[simp] theorem exec_switchOverComplete : exec (.switchOverComplete) s = execSwitchOverComplete s := rfl
@[simp] theorem exec_ppsInEdgeMissing : exec (.ppsInEdgeMissing) s = execPpsInEdgeMissing s := rfl
@[simp] theorem exec_alwaysOnPowerOn (mainOk : Bool) (bkupMv : Nat) : exec (.alwaysOnPowerOn mainOk bkupMv) s = execAlwaysOnPowerOn mainOk bkupMv s := rfl
@[simp] theorem exec_testLogicReset : exec (.testLogicReset) s = execTestLogicReset s := rfl

end Sys2Proof.Machine
end

