-- ==== Sys2Proof/Laws/Flags.lean ====
section
/-!
SUPPORT. Narrowing in the terms of integers: what clips, what wraps, and what the redundant sign bits of a pattern are.
-/
namespace Sys2Proof.Machine

theorem ofNat_unsgn (w : Nat) (v : Int) : BitVec.ofNat w (unsgn w v) = BitVec.ofInt w v := by
  apply BitVec.eq_of_toNat_eq
  have h : (0 : Int) ≤ v % ((2 ^ w : Nat) : Int) := Int.emod_nonneg _ (by positivity)
  have g : v % ((2 ^ w : Nat) : Int) < ((2 ^ w : Nat) : Int) := Int.emod_lt_of_pos _ (by positivity)
  simp only [BitVec.toNat_ofNat, BitVec.toNat_ofInt, unsgn]
  apply Nat.mod_eq_of_lt
  omega

/-- Clipping is the nearest value of w bits, and is marked when it is not the value itself (R211, R212). -/
theorem clipTo_eq (w : Nat) (v : Int) : clipTo w v = (unsgn w (clampTo w v), decide (clampTo w v ≠ v)) := by
  have hp : (1 : Int) ≤ 2 ^ (w - 1) := one_le_pow₀ (by norm_num)
  have e1 : minS w = -(2 ^ (w - 1) : Int) := by simp [minS]
  have e2 : maxS w = (2 ^ (w - 1) : Int) - 1 := by simp [maxS]
  simp only [clipTo, e1, e2]
  split
  · have e : clampTo w v = -(2 ^ (w - 1)) := by unfold clampTo; omega
    have : ¬-(2 ^ (w - 1) : Int) = v := by omega
    simp [e, this]
  · split
    · have e : clampTo w v = 2 ^ (w - 1) - 1 := by unfold clampTo; omega
      have : ¬(2 ^ (w - 1) - 1 : Int) = v := by omega
      simp [e, this]
    · have e : clampTo w v = v := by unfold clampTo; omega
      simp [e]

@[simp] theorem fit32_true (v : Int) : fit32 true v = clamp32 v := by
  simp [fit32, fit, clipTo_eq, ofNat_unsgn, clamp32]

@[simp] theorem fit32_false (v : Int) : fit32 false v = (BitVec.ofInt 32 v, false) := by
  simp [fit32, fit, wrapTo, ofNat_unsgn]

theorem fit_true (w : Nat) (v : Int) : fit true w v = (unsgn w (clampTo w v), decide (clampTo w v ≠ v)) := clipTo_eq w v

theorem fit_false (w : Nat) (v : Int) : fit false w v = (unsgn w v, false) := rfl

/-- The redundant sign bits of a pattern are those of the number it stands for (R214). -/
theorem rsb_signBits (w : Nat) (hw : 0 < w) (v : BitVec w) : signBits w (rsb w v.toNat) v.toInt := by
  have hlt := v.isLt
  obtain ⟨k, rfl⟩ : ∃ k, w = k + 1 := ⟨w - 1, by omega⟩
  have h2 : 2 ^ (k + 1) = 2 * 2 ^ k := by rw [Nat.pow_succ]; omega
  have hm : v.toNat % 2 ^ (k + 1) = v.toNat := Nat.mod_eq_of_lt hlt
  -- m is the magnitude whose bit length decides
  obtain ⟨m, hm0, hmk, hv⟩ : ∃ m, rsb (k + 1) v.toNat = k - bitLen m ∧ m < 2 ^ k ∧ (v.toInt = m ∨ v.toInt = -(m : Int) - 1) := by
    by_cases hs : v.toNat < 2 ^ k
    · refine ⟨v.toNat, ?_, hs, .inl ?_⟩
      · simp [rsb, hm, hs]
      · rw [BitVec.toInt_eq_toNat_of_lt (by omega)]
    · refine ⟨2 ^ (k + 1) - 1 - v.toNat, ?_, by omega, .inr ?_⟩
      · simp [rsb, hm, hs]
      · rw [BitVec.toInt_eq_toNat_cond, if_neg (by omega)]
        push_cast
        have : (2 : Int) ^ (k + 1) = ((2 ^ (k + 1) : Nat) : Int) := by norm_cast
        rw [this]
        omega
  rw [hm0]
  have hb : m < 2 ^ bitLen m ∧ (m ≠ 0 → 2 ^ (bitLen m - 1) ≤ m) ∧ (m = 0 → bitLen m = 0) ∧ (m ≠ 0 → 0 < bitLen m) := by
    by_cases h0 : m = 0
    · subst h0; simp [bitLen]
    · simp only [bitLen, h0, if_false]
      exact ⟨Nat.lt_log2_self, fun _ => by simpa using Nat.log2_self_le h0, by simp, by simp⟩
  have hle : bitLen m ≤ k := by
    by_cases h0 : m = 0
    · rw [hb.2.2.1 h0]; omega
    · by_contra hc
      have : 2 ^ k ≤ 2 ^ (bitLen m - 1) := Nat.pow_le_pow_right (by omega) (by omega)
      have := hb.2.1 h0
      omega
  have c1 : k + 1 - 1 - (k - bitLen m) = bitLen m := by omega
  have hbi : (m : Int) < 2 ^ bitLen m := by exact_mod_cast hb.1
  refine ⟨by omega, ?_, ?_, ?_⟩
  · rw [c1]; rcases hv with h | h <;> omega
  · rw [c1]; rcases hv with h | h <;> omega
  · intro hn
    have h0 : m ≠ 0 := by
      intro h
      have := hb.2.2.1 h
      omega
    have c2 : k + 1 - 2 - (k - bitLen m) = bitLen m - 1 := by have := hb.2.2.2 h0; omega
    have hmi : (2 : Int) ^ (bitLen m - 1) ≤ m := by exact_mod_cast hb.2.1 h0
    rw [c2]
    rcases hv with h | h <;> omega

end Sys2Proof.Machine
end

