-- ==== Sys2Proof/Laws/Maps.lean ====
section
/-!
SUPPORT. Laws of the finite maps: a read after a write of the same key and of another key, and the canonical form that
every write keeps.
-/
namespace Sys2Proof.Machine

variable {α : Type}

@[simp] theorem kget_kset (m : List (Nat × α)) (k : Nat) (v : α) : kget (kset m k v) k = some v := by
  induction m with
  | nil => simp [kset, kget]
  | cons p r ih =>
    obtain ⟨a, w⟩ := p
    simp only [kset]
    split
    · simp [kget]
    · split
      · simp [kget]
      · rename_i h; simp [kget, h, ih]

theorem kget_kset_ne (m : List (Nat × α)) (k j : Nat) (v : α) (h : j ≠ k) : kget (kset m k v) j = kget m j := by
  induction m with
  | nil => simp [kset, kget, Ne.symm h]
  | cons p r ih =>
    obtain ⟨a, w⟩ := p
    simp only [kset]
    split
    · simp [kget, Ne.symm h]
    · split
      · rename_i e; subst e; simp [kget, Ne.symm h]
      · simp [kget, ih]

@[simp] theorem kset_kset (m : List (Nat × α)) (k : Nat) (v w : α) : kset (kset m k v) k w = kset m k w := by
  induction m with
  | nil => simp [kset]
  | cons p r ih =>
    obtain ⟨a, x⟩ := p
    simp only [kset]
    split
    · simp [kset]
    · split
      · simp [kset]
      · rename_i h g; simp [kset, h, g, ih]

@[simp] theorem kget_kdel (m : List (Nat × α)) (k : Nat) : kget (kdel m k) k = none := by
  induction m with
  | nil => rfl
  | cons p r ih =>
    obtain ⟨a, w⟩ := p
    simp only [kdel]
    split
    · exact ih
    · rename_i h; simp [kget, h, ih]

theorem kget_kdel_ne (m : List (Nat × α)) (k j : Nat) (h : j ≠ k) : kget (kdel m k) j = kget m j := by
  induction m with
  | nil => rfl
  | cons p r ih =>
    obtain ⟨a, w⟩ := p
    simp only [kdel]
    split
    · rename_i e; subst e; simp [kget, Ne.symm h, ih]
    · simp [kget, ih]

@[simp] theorem kgetD_kset (m : List (Nat × α)) (k : Nat) (v d : α) : kgetD (kset m k v) k d = v := by
  simp [kgetD]

theorem kgetD_kset_ne (m : List (Nat × α)) (k j : Nat) (v d : α) (h : j ≠ k) : kgetD (kset m k v) j d = kgetD m j d := by
  simp [kgetD, kget_kset_ne m k j v h]

/-- What every step of a fold keeps, the fold keeps. -/
theorem foldl_keeps {β γ δ : Type} (p : β → δ) (f : β → γ → β) (h : ∀ x a, p (f x a) = p x) (l : List γ) (x : β) :
    p (l.foldl f x) = p x := by
  induction l generalizing x with
  | nil => rfl
  | cons a l ih => rw [List.foldl_cons, ih, h]

/-! ## Rising keys -/

/-- Every key of a map is above a bound. -/
def keysAbove (n : Nat) (m : List (Nat × α)) : Prop := ∀ p ∈ m, n < p.1

theorem kwf_cons (a : Nat) (w : α) (r : List (Nat × α)) : kwf ((a, w) :: r) = true ↔ keysAbove a r ∧ kwf r = true := by
  induction r generalizing a w with
  | nil => simp [kwf, keysAbove]
  | cons p r ih =>
    obtain ⟨b, v⟩ := p
    simp only [kwf, Bool.and_eq_true, decide_eq_true_eq]
    constructor
    · rintro ⟨h, g⟩
      refine ⟨?_, g⟩
      intro q hq
      rcases List.mem_cons.1 hq with rfl | hq
      · exact h
      · exact Nat.lt_trans h (((ih b v).1 g).1 q hq)
    · rintro ⟨h, g⟩
      exact ⟨h (b, v) (by simp), g⟩

theorem mem_kset (m : List (Nat × α)) (k : Nat) (v : α) (p : Nat × α) (h : p ∈ kset m k v) : p = (k, v) ∨ p ∈ m := by
  induction m with
  | nil => simpa [kset] using h
  | cons q r ih =>
    obtain ⟨a, w⟩ := q
    simp only [kset] at h
    split at h
    · simpa using h
    · split at h
      · rcases List.mem_cons.1 h with h | h
        · exact .inl h
        · exact .inr (List.mem_cons_of_mem _ h)
      · rcases List.mem_cons.1 h with h | h
        · exact .inr (by simp [h])
        · rcases ih h with h | h
          · exact .inl h
          · exact .inr (List.mem_cons_of_mem _ h)

theorem mem_kdel (m : List (Nat × α)) (k : Nat) (p : Nat × α) (h : p ∈ kdel m k) : p ∈ m := by
  induction m with
  | nil => simp [kdel] at h
  | cons q r ih =>
    obtain ⟨a, w⟩ := q
    simp only [kdel] at h
    split at h
    · exact List.mem_cons_of_mem _ (ih h)
    · rcases List.mem_cons.1 h with h | h
      · simp [h]
      · exact List.mem_cons_of_mem _ (ih h)

/-- Setting a key keeps the keys rising. -/
theorem kwf_kset (m : List (Nat × α)) (k : Nat) (v : α) (h : kwf m = true) : kwf (kset m k v) = true := by
  induction m with
  | nil => simp [kset, kwf]
  | cons p r ih =>
    obtain ⟨a, w⟩ := p
    obtain ⟨ha, hr⟩ := (kwf_cons a w r).1 h
    simp only [kset]
    split
    · rename_i hk
      refine (kwf_cons k v _).2 ⟨?_, h⟩
      intro q hq
      rcases List.mem_cons.1 hq with rfl | hq
      · exact hk
      · exact Nat.lt_trans hk (ha q hq)
    · split
      · rename_i e; subst e
        exact (kwf_cons _ _ _).2 ⟨ha, hr⟩
      · rename_i h1 h2
        refine (kwf_cons _ _ _).2 ⟨?_, ih hr⟩
        intro q hq
        rcases mem_kset r k v q hq with rfl | hq
        · show a < k
          omega
        · exact ha q hq

/-- Removing a key keeps the keys rising. -/
theorem kwf_kdel (m : List (Nat × α)) (k : Nat) (h : kwf m = true) : kwf (kdel m k) = true := by
  induction m with
  | nil => rfl
  | cons p r ih =>
    obtain ⟨a, w⟩ := p
    obtain ⟨ha, hr⟩ := (kwf_cons a w r).1 h
    simp only [kdel]
    split
    · exact ih hr
    · exact (kwf_cons _ _ _).2 ⟨fun q hq => ha q (mem_kdel r k q hq), ih hr⟩

/-- A part of a map picked by a test has rising keys. -/
theorem kwf_filter (m : List (Nat × α)) (p : Nat × α → Bool) (h : kwf m = true) : kwf (m.filter p) = true := by
  induction m with
  | nil => rfl
  | cons q r ih =>
    obtain ⟨a, w⟩ := q
    obtain ⟨ha, hr⟩ := (kwf_cons a w r).1 h
    simp only [List.filter]
    split
    · exact (kwf_cons _ _ _).2 ⟨fun q hq => ha q (List.mem_filter.1 hq).1, ih hr⟩
    · exact ih hr

end Sys2Proof.Machine
end

