-- ==== Sys2Proof/Laws/State.lean ====
section
/-!
SUPPORT. What each named update of the state leaves as it was: one lemma per field, true by definition; and what a
read of a numbered unit gives after a write of one.
-/
namespace Sys2Proof.Machine

/-! ## State.setOval changes only `obj` -/

@[simp] theorem State.setOval_pending (s : State) (k v : Nat) : (s.setOval k v).pending = s.pending := rfl
@[simp] theorem State.setOval_free (s : State) (k v : Nat) : (s.setOval k v).free = s.free := rfl
@[simp] theorem State.setOval_out (s : State) (k v : Nat) : (s.setOval k v).out = s.out := rfl
@[simp] theorem State.setOval_held (s : State) (k v : Nat) : (s.setOval k v).held = s.held := rfl
@[simp] theorem State.setOval_part (s : State) (k v : Nat) : (s.setOval k v).part = s.part := rfl
@[simp] theorem State.setOval_time (s : State) (k v : Nat) : (s.setOval k v).time = s.time := rfl
@[simp] theorem State.setOval_cleip (s : State) (k v : Nat) : (s.setOval k v).cleip = s.cleip := rfl
@[simp] theorem State.setOval_fport (s : State) (k v : Nat) : (s.setOval k v).fport = s.fport := rfl
@[simp] theorem State.setOval_audit (s : State) (k v : Nat) : (s.setOval k v).audit = s.audit := rfl
@[simp] theorem State.setOval_keys (s : State) (k v : Nat) : (s.setOval k v).keys = s.keys := rfl
@[simp] theorem State.setOval_epoch (s : State) (k v : Nat) : (s.setOval k v).epoch = s.epoch := rfl
@[simp] theorem State.setOval_turn (s : State) (k v : Nat) : (s.setOval k v).turn = s.turn := rfl
@[simp] theorem State.setOval_queues (s : State) (k v : Nat) : (s.setOval k v).queues = s.queues := rfl
@[simp] theorem State.setOval_aon2 (s : State) (k v : Nat) : (s.setOval k v).aon2 = s.aon2 := rfl
@[simp] theorem State.setOval_ports (s : State) (k v : Nat) : (s.setOval k v).ports = s.ports := rfl
@[simp] theorem State.setOval_asms (s : State) (k v : Nat) : (s.setOval k v).asms = s.asms := rfl
@[simp] theorem State.setOval_jobs (s : State) (k v : Nat) : (s.setOval k v).jobs = s.jobs := rfl
@[simp] theorem State.setOval_nextOrder (s : State) (k v : Nat) : (s.setOval k v).nextOrder = s.nextOrder := rfl
@[simp] theorem State.setOval_graphs (s : State) (k v : Nat) : (s.setOval k v).graphs = s.graphs := rfl
@[simp] theorem State.setOval_hmap (s : State) (k v : Nat) : (s.setOval k v).hmap = s.hmap := rfl
@[simp] theorem State.setOval_vers (s : State) (k v : Nat) : (s.setOval k v).vers = s.vers := rfl
@[simp] theorem State.setOval_nextVer (s : State) (k v : Nat) : (s.setOval k v).nextVer = s.nextVer := rfl
@[simp] theorem State.setOval_pools (s : State) (k v : Nat) : (s.setOval k v).pools = s.pools := rfl
@[simp] theorem State.setOval_ja (s : State) (k v : Nat) : (s.setOval k v).ja = s.ja := rfl
@[simp] theorem State.setOval_jb (s : State) (k v : Nat) : (s.setOval k v).jb = s.jb := rfl
@[simp] theorem State.setOval_jReserved (s : State) (k v : Nat) : (s.setOval k v).jReserved = s.jReserved := rfl
@[simp] theorem State.setOval_rReserved (s : State) (k v : Nat) : (s.setOval k v).rReserved = s.rReserved := rfl
@[simp] theorem State.setOval_rLinger (s : State) (k v : Nat) : (s.setOval k v).rLinger = s.rLinger := rfl
@[simp] theorem State.setOval_iReserved (s : State) (k v : Nat) : (s.setOval k v).iReserved = s.iReserved := rfl
@[simp] theorem State.setOval_lastGrant (s : State) (k v : Nat) : (s.setOval k v).lastGrant = s.lastGrant := rfl
@[simp] theorem State.setOval_lastRefresh (s : State) (k v : Nat) : (s.setOval k v).lastRefresh = s.lastRefresh := rfl
@[simp] theorem State.setOval_cellCfg (s : State) (k v : Nat) : (s.setOval k v).cellCfg = s.cellCfg := rfl
@[simp] theorem State.setOval_cellSt (s : State) (k v : Nat) : (s.setOval k v).cellSt = s.cellSt := rfl
@[simp] theorem State.setOval_budgets (s : State) (k v : Nat) : (s.setOval k v).budgets = s.budgets := rfl
@[simp] theorem State.setOval_lastLearn (s : State) (k v : Nat) : (s.setOval k v).lastLearn = s.lastLearn := rfl
@[simp] theorem State.setOval_lastDvfs (s : State) (k v : Nat) : (s.setOval k v).lastDvfs = s.lastDvfs := rfl
@[simp] theorem State.setOval_clusters (s : State) (k v : Nat) : (s.setOval k v).clusters = s.clusters := rfl
@[simp] theorem State.setOval_rails (s : State) (k v : Nat) : (s.setOval k v).rails = s.rails := rfl
@[simp] theorem State.setOval_cores (s : State) (k v : Nat) : (s.setOval k v).cores = s.cores := rfl
@[simp] theorem State.setOval_mxcs (s : State) (k v : Nat) : (s.setOval k v).mxcs = s.mxcs := rfl
@[simp] theorem State.setOval_engines (s : State) (k v : Nat) : (s.setOval k v).engines = s.engines := rfl
@[simp] theorem State.setOval_entries (s : State) (k v : Nat) : (s.setOval k v).entries = s.entries := rfl
@[simp] theorem State.setOval_chans (s : State) (k v : Nat) : (s.setOval k v).chans = s.chans := rfl
@[simp] theorem State.setOval_mem (s : State) (k v : Nat) : (s.setOval k v).mem = s.mem := rfl
@[simp] theorem State.setOval_regions (s : State) (k v : Nat) : (s.setOval k v).regions = s.regions := rfl
@[simp] theorem State.setOval_faultLog (s : State) (k v : Nat) : (s.setOval k v).faultLog = s.faultLog := rfl
@[simp] theorem State.setOval_late (s : State) (k v : Nat) : (s.setOval k v).late = s.late := rfl
@[simp] theorem State.setOval_faultNext (s : State) (k v : Nat) : (s.setOval k v).faultNext = s.faultNext := rfl
@[simp] theorem State.setOval_overcast (s : State) (k v : Nat) : (s.setOval k v).overcast = s.overcast := rfl
@[simp] theorem State.setOval_sv (s : State) (k v : Nat) : (s.setOval k v).sv = s.sv := rfl
@[simp] theorem State.setOval_mirrorTx (s : State) (k v : Nat) : (s.setOval k v).mirrorTx = s.mirrorTx := rfl
@[simp] theorem State.setOval_srcs (s : State) (k v : Nat) : (s.setOval k v).srcs = s.srcs := rfl
@[simp] theorem State.setOval_fh (s : State) (k v : Nat) : (s.setOval k v).fh = s.fh := rfl
@[simp] theorem State.setOval_opt (s : State) (k v : Nat) : (s.setOval k v).opt = s.opt := rfl
@[simp] theorem State.setOval_power (s : State) (k v : Nat) : (s.setOval k v).power = s.power := rfl
@[simp] theorem State.setOval_supply (s : State) (k v : Nat) : (s.setOval k v).supply = s.supply := rfl
@[simp] theorem State.setOval_flash (s : State) (k v : Nat) : (s.setOval k v).flash = s.flash := rfl

/-! ## State.bump changes only `obj` -/

@[simp] theorem State.bump_pending (s : State) (k n : Nat) : (s.bump k n).pending = s.pending := rfl
@[simp] theorem State.bump_free (s : State) (k n : Nat) : (s.bump k n).free = s.free := rfl
@[simp] theorem State.bump_out (s : State) (k n : Nat) : (s.bump k n).out = s.out := rfl
@[simp] theorem State.bump_held (s : State) (k n : Nat) : (s.bump k n).held = s.held := rfl
@[simp] theorem State.bump_part (s : State) (k n : Nat) : (s.bump k n).part = s.part := rfl
@[simp] theorem State.bump_time (s : State) (k n : Nat) : (s.bump k n).time = s.time := rfl
@[simp] theorem State.bump_cleip (s : State) (k n : Nat) : (s.bump k n).cleip = s.cleip := rfl
@[simp] theorem State.bump_fport (s : State) (k n : Nat) : (s.bump k n).fport = s.fport := rfl
@[simp] theorem State.bump_audit (s : State) (k n : Nat) : (s.bump k n).audit = s.audit := rfl
@[simp] theorem State.bump_keys (s : State) (k n : Nat) : (s.bump k n).keys = s.keys := rfl
@[simp] theorem State.bump_epoch (s : State) (k n : Nat) : (s.bump k n).epoch = s.epoch := rfl
@[simp] theorem State.bump_turn (s : State) (k n : Nat) : (s.bump k n).turn = s.turn := rfl
@[simp] theorem State.bump_queues (s : State) (k n : Nat) : (s.bump k n).queues = s.queues := rfl
@[simp] theorem State.bump_aon2 (s : State) (k n : Nat) : (s.bump k n).aon2 = s.aon2 := rfl
@[simp] theorem State.bump_ports (s : State) (k n : Nat) : (s.bump k n).ports = s.ports := rfl
@[simp] theorem State.bump_asms (s : State) (k n : Nat) : (s.bump k n).asms = s.asms := rfl
@[simp] theorem State.bump_jobs (s : State) (k n : Nat) : (s.bump k n).jobs = s.jobs := rfl
@[simp] theorem State.bump_nextOrder (s : State) (k n : Nat) : (s.bump k n).nextOrder = s.nextOrder := rfl
@[simp] theorem State.bump_graphs (s : State) (k n : Nat) : (s.bump k n).graphs = s.graphs := rfl
@[simp] theorem State.bump_hmap (s : State) (k n : Nat) : (s.bump k n).hmap = s.hmap := rfl
@[simp] theorem State.bump_vers (s : State) (k n : Nat) : (s.bump k n).vers = s.vers := rfl
@[simp] theorem State.bump_nextVer (s : State) (k n : Nat) : (s.bump k n).nextVer = s.nextVer := rfl
@[simp] theorem State.bump_pools (s : State) (k n : Nat) : (s.bump k n).pools = s.pools := rfl
@[simp] theorem State.bump_ja (s : State) (k n : Nat) : (s.bump k n).ja = s.ja := rfl
@[simp] theorem State.bump_jb (s : State) (k n : Nat) : (s.bump k n).jb = s.jb := rfl
@[simp] theorem State.bump_jReserved (s : State) (k n : Nat) : (s.bump k n).jReserved = s.jReserved := rfl
@[simp] theorem State.bump_rReserved (s : State) (k n : Nat) : (s.bump k n).rReserved = s.rReserved := rfl
@[simp] theorem State.bump_rLinger (s : State) (k n : Nat) : (s.bump k n).rLinger = s.rLinger := rfl
@[simp] theorem State.bump_iReserved (s : State) (k n : Nat) : (s.bump k n).iReserved = s.iReserved := rfl
@[simp] theorem State.bump_lastGrant (s : State) (k n : Nat) : (s.bump k n).lastGrant = s.lastGrant := rfl
@[simp] theorem State.bump_lastRefresh (s : State) (k n : Nat) : (s.bump k n).lastRefresh = s.lastRefresh := rfl
@[simp] theorem State.bump_cellCfg (s : State) (k n : Nat) : (s.bump k n).cellCfg = s.cellCfg := rfl
@[simp] theorem State.bump_cellSt (s : State) (k n : Nat) : (s.bump k n).cellSt = s.cellSt := rfl
@[simp] theorem State.bump_budgets (s : State) (k n : Nat) : (s.bump k n).budgets = s.budgets := rfl
@[simp] theorem State.bump_lastLearn (s : State) (k n : Nat) : (s.bump k n).lastLearn = s.lastLearn := rfl
@[simp] theorem State.bump_lastDvfs (s : State) (k n : Nat) : (s.bump k n).lastDvfs = s.lastDvfs := rfl
@[simp] theorem State.bump_clusters (s : State) (k n : Nat) : (s.bump k n).clusters = s.clusters := rfl
@[simp] theorem State.bump_rails (s : State) (k n : Nat) : (s.bump k n).rails = s.rails := rfl
@[simp] theorem State.bump_cores (s : State) (k n : Nat) : (s.bump k n).cores = s.cores := rfl
@[simp] theorem State.bump_mxcs (s : State) (k n : Nat) : (s.bump k n).mxcs = s.mxcs := rfl
@[simp] theorem State.bump_engines (s : State) (k n : Nat) : (s.bump k n).engines = s.engines := rfl
@[simp] theorem State.bump_entries (s : State) (k n : Nat) : (s.bump k n).entries = s.entries := rfl
@[simp] theorem State.bump_chans (s : State) (k n : Nat) : (s.bump k n).chans = s.chans := rfl
@[simp] theorem State.bump_mem (s : State) (k n : Nat) : (s.bump k n).mem = s.mem := rfl
@[simp] theorem State.bump_regions (s : State) (k n : Nat) : (s.bump k n).regions = s.regions := rfl
@[simp] theorem State.bump_faultLog (s : State) (k n : Nat) : (s.bump k n).faultLog = s.faultLog := rfl
@[simp] theorem State.bump_late (s : State) (k n : Nat) : (s.bump k n).late = s.late := rfl
@[simp] theorem State.bump_faultNext (s : State) (k n : Nat) : (s.bump k n).faultNext = s.faultNext := rfl
@[simp] theorem State.bump_overcast (s : State) (k n : Nat) : (s.bump k n).overcast = s.overcast := rfl
@[simp] theorem State.bump_sv (s : State) (k n : Nat) : (s.bump k n).sv = s.sv := rfl
@[simp] theorem State.bump_mirrorTx (s : State) (k n : Nat) : (s.bump k n).mirrorTx = s.mirrorTx := rfl
@[simp] theorem State.bump_srcs (s : State) (k n : Nat) : (s.bump k n).srcs = s.srcs := rfl
@[simp] theorem State.bump_fh (s : State) (k n : Nat) : (s.bump k n).fh = s.fh := rfl
@[simp] theorem State.bump_opt (s : State) (k n : Nat) : (s.bump k n).opt = s.opt := rfl
@[simp] theorem State.bump_power (s : State) (k n : Nat) : (s.bump k n).power = s.power := rfl
@[simp] theorem State.bump_supply (s : State) (k n : Nat) : (s.bump k n).supply = s.supply := rfl
@[simp] theorem State.bump_flash (s : State) (k n : Nat) : (s.bump k n).flash = s.flash := rfl

/-! ## State.setDom changes only `obj` -/

@[simp] theorem State.setDom_pending (s : State) (k off : Nat) (b : List Byte) : (s.setDom k off b).pending = s.pending := rfl
@[simp] theorem State.setDom_free (s : State) (k off : Nat) (b : List Byte) : (s.setDom k off b).free = s.free := rfl
@[simp] theorem State.setDom_out (s : State) (k off : Nat) (b : List Byte) : (s.setDom k off b).out = s.out := rfl
@[simp] theorem State.setDom_held (s : State) (k off : Nat) (b : List Byte) : (s.setDom k off b).held = s.held := rfl
@[simp] theorem State.setDom_part (s : State) (k off : Nat) (b : List Byte) : (s.setDom k off b).part = s.part := rfl
@[simp] theorem State.setDom_time (s : State) (k off : Nat) (b : List Byte) : (s.setDom k off b).time = s.time := rfl
@[simp] theorem State.setDom_cleip (s : State) (k off : Nat) (b : List Byte) : (s.setDom k off b).cleip = s.cleip := rfl
@[simp] theorem State.setDom_fport (s : State) (k off : Nat) (b : List Byte) : (s.setDom k off b).fport = s.fport := rfl
@[simp] theorem State.setDom_audit (s : State) (k off : Nat) (b : List Byte) : (s.setDom k off b).audit = s.audit := rfl
@[simp] theorem State.setDom_keys (s : State) (k off : Nat) (b : List Byte) : (s.setDom k off b).keys = s.keys := rfl
@[simp] theorem State.setDom_epoch (s : State) (k off : Nat) (b : List Byte) : (s.setDom k off b).epoch = s.epoch := rfl
@[simp] theorem State.setDom_turn (s : State) (k off : Nat) (b : List Byte) : (s.setDom k off b).turn = s.turn := rfl
@[simp] theorem State.setDom_queues (s : State) (k off : Nat) (b : List Byte) : (s.setDom k off b).queues = s.queues := rfl
@[simp] theorem State.setDom_aon2 (s : State) (k off : Nat) (b : List Byte) : (s.setDom k off b).aon2 = s.aon2 := rfl
@[simp] theorem State.setDom_ports (s : State) (k off : Nat) (b : List Byte) : (s.setDom k off b).ports = s.ports := rfl
@[simp] theorem State.setDom_asms (s : State) (k off : Nat) (b : List Byte) : (s.setDom k off b).asms = s.asms := rfl
@[simp] theorem State.setDom_jobs (s : State) (k off : Nat) (b : List Byte) : (s.setDom k off b).jobs = s.jobs := rfl
@[simp] theorem State.setDom_nextOrder (s : State) (k off : Nat) (b : List Byte) : (s.setDom k off b).nextOrder = s.nextOrder := rfl
@[simp] theorem State.setDom_graphs (s : State) (k off : Nat) (b : List Byte) : (s.setDom k off b).graphs = s.graphs := rfl
@[simp] theorem State.setDom_hmap (s : State) (k off : Nat) (b : List Byte) : (s.setDom k off b).hmap = s.hmap := rfl
@[simp] theorem State.setDom_vers (s : State) (k off : Nat) (b : List Byte) : (s.setDom k off b).vers = s.vers := rfl
@[simp] theorem State.setDom_nextVer (s : State) (k off : Nat) (b : List Byte) : (s.setDom k off b).nextVer = s.nextVer := rfl
@[simp] theorem State.setDom_pools (s : State) (k off : Nat) (b : List Byte) : (s.setDom k off b).pools = s.pools := rfl
@[simp] theorem State.setDom_ja (s : State) (k off : Nat) (b : List Byte) : (s.setDom k off b).ja = s.ja := rfl
@[simp] theorem State.setDom_jb (s : State) (k off : Nat) (b : List Byte) : (s.setDom k off b).jb = s.jb := rfl
@[simp] theorem State.setDom_jReserved (s : State) (k off : Nat) (b : List Byte) : (s.setDom k off b).jReserved = s.jReserved := rfl
@[simp] theorem State.setDom_rReserved (s : State) (k off : Nat) (b : List Byte) : (s.setDom k off b).rReserved = s.rReserved := rfl
@[simp] theorem State.setDom_rLinger (s : State) (k off : Nat) (b : List Byte) : (s.setDom k off b).rLinger = s.rLinger := rfl
@[simp] theorem State.setDom_iReserved (s : State) (k off : Nat) (b : List Byte) : (s.setDom k off b).iReserved = s.iReserved := rfl
@[simp] theorem State.setDom_lastGrant (s : State) (k off : Nat) (b : List Byte) : (s.setDom k off b).lastGrant = s.lastGrant := rfl
@[simp] theorem State.setDom_lastRefresh (s : State) (k off : Nat) (b : List Byte) : (s.setDom k off b).lastRefresh = s.lastRefresh := rfl
@[simp] theorem State.setDom_cellCfg (s : State) (k off : Nat) (b : List Byte) : (s.setDom k off b).cellCfg = s.cellCfg := rfl
@[simp] theorem State.setDom_cellSt (s : State) (k off : Nat) (b : List Byte) : (s.setDom k off b).cellSt = s.cellSt := rfl
@[simp] theorem State.setDom_budgets (s : State) (k off : Nat) (b : List Byte) : (s.setDom k off b).budgets = s.budgets := rfl
@[simp] theorem State.setDom_lastLearn (s : State) (k off : Nat) (b : List Byte) : (s.setDom k off b).lastLearn = s.lastLearn := rfl
@[simp] theorem State.setDom_lastDvfs (s : State) (k off : Nat) (b : List Byte) : (s.setDom k off b).lastDvfs = s.lastDvfs := rfl
@[simp] theorem State.setDom_clusters (s : State) (k off : Nat) (b : List Byte) : (s.setDom k off b).clusters = s.clusters := rfl
@[simp] theorem State.setDom_rails (s : State) (k off : Nat) (b : List Byte) : (s.setDom k off b).rails = s.rails := rfl
@[simp] theorem State.setDom_cores (s : State) (k off : Nat) (b : List Byte) : (s.setDom k off b).cores = s.cores := rfl
@[simp] theorem State.setDom_mxcs (s : State) (k off : Nat) (b : List Byte) : (s.setDom k off b).mxcs = s.mxcs := rfl
@[simp] theorem State.setDom_engines (s : State) (k off : Nat) (b : List Byte) : (s.setDom k off b).engines = s.engines := rfl
@[simp] theorem State.setDom_entries (s : State) (k off : Nat) (b : List Byte) : (s.setDom k off b).entries = s.entries := rfl
@[simp] theorem State.setDom_chans (s : State) (k off : Nat) (b : List Byte) : (s.setDom k off b).chans = s.chans := rfl
@[simp] theorem State.setDom_mem (s : State) (k off : Nat) (b : List Byte) : (s.setDom k off b).mem = s.mem := rfl
@[simp] theorem State.setDom_regions (s : State) (k off : Nat) (b : List Byte) : (s.setDom k off b).regions = s.regions := rfl
@[simp] theorem State.setDom_faultLog (s : State) (k off : Nat) (b : List Byte) : (s.setDom k off b).faultLog = s.faultLog := rfl
@[simp] theorem State.setDom_late (s : State) (k off : Nat) (b : List Byte) : (s.setDom k off b).late = s.late := rfl
@[simp] theorem State.setDom_faultNext (s : State) (k off : Nat) (b : List Byte) : (s.setDom k off b).faultNext = s.faultNext := rfl
@[simp] theorem State.setDom_overcast (s : State) (k off : Nat) (b : List Byte) : (s.setDom k off b).overcast = s.overcast := rfl
@[simp] theorem State.setDom_sv (s : State) (k off : Nat) (b : List Byte) : (s.setDom k off b).sv = s.sv := rfl
@[simp] theorem State.setDom_mirrorTx (s : State) (k off : Nat) (b : List Byte) : (s.setDom k off b).mirrorTx = s.mirrorTx := rfl
@[simp] theorem State.setDom_srcs (s : State) (k off : Nat) (b : List Byte) : (s.setDom k off b).srcs = s.srcs := rfl
@[simp] theorem State.setDom_fh (s : State) (k off : Nat) (b : List Byte) : (s.setDom k off b).fh = s.fh := rfl
@[simp] theorem State.setDom_opt (s : State) (k off : Nat) (b : List Byte) : (s.setDom k off b).opt = s.opt := rfl
@[simp] theorem State.setDom_power (s : State) (k off : Nat) (b : List Byte) : (s.setDom k off b).power = s.power := rfl
@[simp] theorem State.setDom_supply (s : State) (k off : Nat) (b : List Byte) : (s.setDom k off b).supply = s.supply := rfl
@[simp] theorem State.setDom_flash (s : State) (k off : Nat) (b : List Byte) : (s.setDom k off b).flash = s.flash := rfl

/-! ## State.emit changes only `out` -/

@[simp] theorem State.emit_pending (s : State) (o : Out) : (s.emit o).pending = s.pending := rfl
@[simp] theorem State.emit_free (s : State) (o : Out) : (s.emit o).free = s.free := rfl
@[simp] theorem State.emit_held (s : State) (o : Out) : (s.emit o).held = s.held := rfl
@[simp] theorem State.emit_part (s : State) (o : Out) : (s.emit o).part = s.part := rfl
@[simp] theorem State.emit_time (s : State) (o : Out) : (s.emit o).time = s.time := rfl
@[simp] theorem State.emit_obj (s : State) (o : Out) : (s.emit o).obj = s.obj := rfl
@[simp] theorem State.emit_cleip (s : State) (o : Out) : (s.emit o).cleip = s.cleip := rfl
@[simp] theorem State.emit_fport (s : State) (o : Out) : (s.emit o).fport = s.fport := rfl
@[simp] theorem State.emit_audit (s : State) (o : Out) : (s.emit o).audit = s.audit := rfl
@[simp] theorem State.emit_keys (s : State) (o : Out) : (s.emit o).keys = s.keys := rfl
@[simp] theorem State.emit_epoch (s : State) (o : Out) : (s.emit o).epoch = s.epoch := rfl
@[simp] theorem State.emit_turn (s : State) (o : Out) : (s.emit o).turn = s.turn := rfl
@[simp] theorem State.emit_queues (s : State) (o : Out) : (s.emit o).queues = s.queues := rfl
@[simp] theorem State.emit_aon2 (s : State) (o : Out) : (s.emit o).aon2 = s.aon2 := rfl
@[simp] theorem State.emit_ports (s : State) (o : Out) : (s.emit o).ports = s.ports := rfl
@[simp] theorem State.emit_asms (s : State) (o : Out) : (s.emit o).asms = s.asms := rfl
@[simp] theorem State.emit_jobs (s : State) (o : Out) : (s.emit o).jobs = s.jobs := rfl
@[simp] theorem State.emit_nextOrder (s : State) (o : Out) : (s.emit o).nextOrder = s.nextOrder := rfl
@[simp] theorem State.emit_graphs (s : State) (o : Out) : (s.emit o).graphs = s.graphs := rfl
@[simp] theorem State.emit_hmap (s : State) (o : Out) : (s.emit o).hmap = s.hmap := rfl
@[simp] theorem State.emit_vers (s : State) (o : Out) : (s.emit o).vers = s.vers := rfl
@[simp] theorem State.emit_nextVer (s : State) (o : Out) : (s.emit o).nextVer = s.nextVer := rfl
@[simp] theorem State.emit_pools (s : State) (o : Out) : (s.emit o).pools = s.pools := rfl
@[simp] theorem State.emit_ja (s : State) (o : Out) : (s.emit o).ja = s.ja := rfl
@[simp] theorem State.emit_jb (s : State) (o : Out) : (s.emit o).jb = s.jb := rfl
@[simp] theorem State.emit_jReserved (s : State) (o : Out) : (s.emit o).jReserved = s.jReserved := rfl
@[simp] theorem State.emit_rReserved (s : State) (o : Out) : (s.emit o).rReserved = s.rReserved := rfl
@[simp] theorem State.emit_rLinger (s : State) (o : Out) : (s.emit o).rLinger = s.rLinger := rfl
@[simp] theorem State.emit_iReserved (s : State) (o : Out) : (s.emit o).iReserved = s.iReserved := rfl
@[simp] theorem State.emit_lastGrant (s : State) (o : Out) : (s.emit o).lastGrant = s.lastGrant := rfl
@[simp] theorem State.emit_lastRefresh (s : State) (o : Out) : (s.emit o).lastRefresh = s.lastRefresh := rfl
@[simp] theorem State.emit_cellCfg (s : State) (o : Out) : (s.emit o).cellCfg = s.cellCfg := rfl
@[simp] theorem State.emit_cellSt (s : State) (o : Out) : (s.emit o).cellSt = s.cellSt := rfl
@[simp] theorem State.emit_budgets (s : State) (o : Out) : (s.emit o).budgets = s.budgets := rfl
@[simp] theorem State.emit_lastLearn (s : State) (o : Out) : (s.emit o).lastLearn = s.lastLearn := rfl
@[simp] theorem State.emit_lastDvfs (s : State) (o : Out) : (s.emit o).lastDvfs = s.lastDvfs := rfl
@[simp] theorem State.emit_clusters (s : State) (o : Out) : (s.emit o).clusters = s.clusters := rfl
@[simp] theorem State.emit_rails (s : State) (o : Out) : (s.emit o).rails = s.rails := rfl
@[simp] theorem State.emit_cores (s : State) (o : Out) : (s.emit o).cores = s.cores := rfl
@[simp] theorem State.emit_mxcs (s : State) (o : Out) : (s.emit o).mxcs = s.mxcs := rfl
@[simp] theorem State.emit_engines (s : State) (o : Out) : (s.emit o).engines = s.engines := rfl
@[simp] theorem State.emit_entries (s : State) (o : Out) : (s.emit o).entries = s.entries := rfl
@[simp] theorem State.emit_chans (s : State) (o : Out) : (s.emit o).chans = s.chans := rfl
@[simp] theorem State.emit_mem (s : State) (o : Out) : (s.emit o).mem = s.mem := rfl
@[simp] theorem State.emit_regions (s : State) (o : Out) : (s.emit o).regions = s.regions := rfl
@[simp] theorem State.emit_faultLog (s : State) (o : Out) : (s.emit o).faultLog = s.faultLog := rfl
@[simp] theorem State.emit_late (s : State) (o : Out) : (s.emit o).late = s.late := rfl
@[simp] theorem State.emit_faultNext (s : State) (o : Out) : (s.emit o).faultNext = s.faultNext := rfl
@[simp] theorem State.emit_overcast (s : State) (o : Out) : (s.emit o).overcast = s.overcast := rfl
@[simp] theorem State.emit_sv (s : State) (o : Out) : (s.emit o).sv = s.sv := rfl
@[simp] theorem State.emit_mirrorTx (s : State) (o : Out) : (s.emit o).mirrorTx = s.mirrorTx := rfl
@[simp] theorem State.emit_srcs (s : State) (o : Out) : (s.emit o).srcs = s.srcs := rfl
@[simp] theorem State.emit_fh (s : State) (o : Out) : (s.emit o).fh = s.fh := rfl
@[simp] theorem State.emit_opt (s : State) (o : Out) : (s.emit o).opt = s.opt := rfl
@[simp] theorem State.emit_power (s : State) (o : Out) : (s.emit o).power = s.power := rfl
@[simp] theorem State.emit_supply (s : State) (o : Out) : (s.emit o).supply = s.supply := rfl
@[simp] theorem State.emit_flash (s : State) (o : Out) : (s.emit o).flash = s.flash := rfl

/-! ## State.setCore changes only `cores` -/

@[simp] theorem State.setCore_pending (s : State) (c : Nat) (x : Core) : (s.setCore c x).pending = s.pending := rfl
@[simp] theorem State.setCore_free (s : State) (c : Nat) (x : Core) : (s.setCore c x).free = s.free := rfl
@[simp] theorem State.setCore_out (s : State) (c : Nat) (x : Core) : (s.setCore c x).out = s.out := rfl
@[simp] theorem State.setCore_held (s : State) (c : Nat) (x : Core) : (s.setCore c x).held = s.held := rfl
@[simp] theorem State.setCore_part (s : State) (c : Nat) (x : Core) : (s.setCore c x).part = s.part := rfl
@[simp] theorem State.setCore_time (s : State) (c : Nat) (x : Core) : (s.setCore c x).time = s.time := rfl
@[simp] theorem State.setCore_obj (s : State) (c : Nat) (x : Core) : (s.setCore c x).obj = s.obj := rfl
@[simp] theorem State.setCore_cleip (s : State) (c : Nat) (x : Core) : (s.setCore c x).cleip = s.cleip := rfl
@[simp] theorem State.setCore_fport (s : State) (c : Nat) (x : Core) : (s.setCore c x).fport = s.fport := rfl
@[simp] theorem State.setCore_audit (s : State) (c : Nat) (x : Core) : (s.setCore c x).audit = s.audit := rfl
@[simp] theorem State.setCore_keys (s : State) (c : Nat) (x : Core) : (s.setCore c x).keys = s.keys := rfl
@[simp] theorem State.setCore_epoch (s : State) (c : Nat) (x : Core) : (s.setCore c x).epoch = s.epoch := rfl
@[simp] theorem State.setCore_turn (s : State) (c : Nat) (x : Core) : (s.setCore c x).turn = s.turn := rfl
@[simp] theorem State.setCore_queues (s : State) (c : Nat) (x : Core) : (s.setCore c x).queues = s.queues := rfl
@[simp] theorem State.setCore_aon2 (s : State) (c : Nat) (x : Core) : (s.setCore c x).aon2 = s.aon2 := rfl
@[simp] theorem State.setCore_ports (s : State) (c : Nat) (x : Core) : (s.setCore c x).ports = s.ports := rfl
@[simp] theorem State.setCore_asms (s : State) (c : Nat) (x : Core) : (s.setCore c x).asms = s.asms := rfl
@[simp] theorem State.setCore_jobs (s : State) (c : Nat) (x : Core) : (s.setCore c x).jobs = s.jobs := rfl
@[simp] theorem State.setCore_nextOrder (s : State) (c : Nat) (x : Core) : (s.setCore c x).nextOrder = s.nextOrder := rfl
@[simp] theorem State.setCore_graphs (s : State) (c : Nat) (x : Core) : (s.setCore c x).graphs = s.graphs := rfl
@[simp] theorem State.setCore_hmap (s : State) (c : Nat) (x : Core) : (s.setCore c x).hmap = s.hmap := rfl
@[simp] theorem State.setCore_vers (s : State) (c : Nat) (x : Core) : (s.setCore c x).vers = s.vers := rfl
@[simp] theorem State.setCore_nextVer (s : State) (c : Nat) (x : Core) : (s.setCore c x).nextVer = s.nextVer := rfl
@[simp] theorem State.setCore_pools (s : State) (c : Nat) (x : Core) : (s.setCore c x).pools = s.pools := rfl
@[simp] theorem State.setCore_ja (s : State) (c : Nat) (x : Core) : (s.setCore c x).ja = s.ja := rfl
@[simp] theorem State.setCore_jb (s : State) (c : Nat) (x : Core) : (s.setCore c x).jb = s.jb := rfl
@[simp] theorem State.setCore_jReserved (s : State) (c : Nat) (x : Core) : (s.setCore c x).jReserved = s.jReserved := rfl
@[simp] theorem State.setCore_rReserved (s : State) (c : Nat) (x : Core) : (s.setCore c x).rReserved = s.rReserved := rfl
@[simp] theorem State.setCore_rLinger (s : State) (c : Nat) (x : Core) : (s.setCore c x).rLinger = s.rLinger := rfl
@[simp] theorem State.setCore_iReserved (s : State) (c : Nat) (x : Core) : (s.setCore c x).iReserved = s.iReserved := rfl
@[simp] theorem State.setCore_lastGrant (s : State) (c : Nat) (x : Core) : (s.setCore c x).lastGrant = s.lastGrant := rfl
@[simp] theorem State.setCore_lastRefresh (s : State) (c : Nat) (x : Core) : (s.setCore c x).lastRefresh = s.lastRefresh := rfl
@[simp] theorem State.setCore_cellCfg (s : State) (c : Nat) (x : Core) : (s.setCore c x).cellCfg = s.cellCfg := rfl
@[simp] theorem State.setCore_cellSt (s : State) (c : Nat) (x : Core) : (s.setCore c x).cellSt = s.cellSt := rfl
@[simp] theorem State.setCore_budgets (s : State) (c : Nat) (x : Core) : (s.setCore c x).budgets = s.budgets := rfl
@[simp] theorem State.setCore_lastLearn (s : State) (c : Nat) (x : Core) : (s.setCore c x).lastLearn = s.lastLearn := rfl
@[simp] theorem State.setCore_lastDvfs (s : State) (c : Nat) (x : Core) : (s.setCore c x).lastDvfs = s.lastDvfs := rfl
@[simp] theorem State.setCore_clusters (s : State) (c : Nat) (x : Core) : (s.setCore c x).clusters = s.clusters := rfl
@[simp] theorem State.setCore_rails (s : State) (c : Nat) (x : Core) : (s.setCore c x).rails = s.rails := rfl
@[simp] theorem State.setCore_mxcs (s : State) (c : Nat) (x : Core) : (s.setCore c x).mxcs = s.mxcs := rfl
@[simp] theorem State.setCore_engines (s : State) (c : Nat) (x : Core) : (s.setCore c x).engines = s.engines := rfl
@[simp] theorem State.setCore_entries (s : State) (c : Nat) (x : Core) : (s.setCore c x).entries = s.entries := rfl
@[simp] theorem State.setCore_chans (s : State) (c : Nat) (x : Core) : (s.setCore c x).chans = s.chans := rfl
@[simp] theorem State.setCore_mem (s : State) (c : Nat) (x : Core) : (s.setCore c x).mem = s.mem := rfl
@[simp] theorem State.setCore_regions (s : State) (c : Nat) (x : Core) : (s.setCore c x).regions = s.regions := rfl
@[simp] theorem State.setCore_faultLog (s : State) (c : Nat) (x : Core) : (s.setCore c x).faultLog = s.faultLog := rfl
@[simp] theorem State.setCore_late (s : State) (c : Nat) (x : Core) : (s.setCore c x).late = s.late := rfl
@[simp] theorem State.setCore_faultNext (s : State) (c : Nat) (x : Core) : (s.setCore c x).faultNext = s.faultNext := rfl
@[simp] theorem State.setCore_overcast (s : State) (c : Nat) (x : Core) : (s.setCore c x).overcast = s.overcast := rfl
@[simp] theorem State.setCore_sv (s : State) (c : Nat) (x : Core) : (s.setCore c x).sv = s.sv := rfl
@[simp] theorem State.setCore_mirrorTx (s : State) (c : Nat) (x : Core) : (s.setCore c x).mirrorTx = s.mirrorTx := rfl
@[simp] theorem State.setCore_srcs (s : State) (c : Nat) (x : Core) : (s.setCore c x).srcs = s.srcs := rfl
@[simp] theorem State.setCore_fh (s : State) (c : Nat) (x : Core) : (s.setCore c x).fh = s.fh := rfl
@[simp] theorem State.setCore_opt (s : State) (c : Nat) (x : Core) : (s.setCore c x).opt = s.opt := rfl
@[simp] theorem State.setCore_power (s : State) (c : Nat) (x : Core) : (s.setCore c x).power = s.power := rfl
@[simp] theorem State.setCore_supply (s : State) (c : Nat) (x : Core) : (s.setCore c x).supply = s.supply := rfl
@[simp] theorem State.setCore_flash (s : State) (c : Nat) (x : Core) : (s.setCore c x).flash = s.flash := rfl

/-! ## State.setMxc changes only `mxcs` -/

@[simp] theorem State.setMxc_pending (s : State) (m : Nat) (x : Mxc) : (s.setMxc m x).pending = s.pending := rfl
@[simp] theorem State.setMxc_free (s : State) (m : Nat) (x : Mxc) : (s.setMxc m x).free = s.free := rfl
@[simp] theorem State.setMxc_out (s : State) (m : Nat) (x : Mxc) : (s.setMxc m x).out = s.out := rfl
@[simp] theorem State.setMxc_held (s : State) (m : Nat) (x : Mxc) : (s.setMxc m x).held = s.held := rfl
@[simp] theorem State.setMxc_part (s : State) (m : Nat) (x : Mxc) : (s.setMxc m x).part = s.part := rfl
@[simp] theorem State.setMxc_time (s : State) (m : Nat) (x : Mxc) : (s.setMxc m x).time = s.time := rfl
@[simp] theorem State.setMxc_obj (s : State) (m : Nat) (x : Mxc) : (s.setMxc m x).obj = s.obj := rfl
@[simp] theorem State.setMxc_cleip (s : State) (m : Nat) (x : Mxc) : (s.setMxc m x).cleip = s.cleip := rfl
@[simp] theorem State.setMxc_fport (s : State) (m : Nat) (x : Mxc) : (s.setMxc m x).fport = s.fport := rfl
@[simp] theorem State.setMxc_audit (s : State) (m : Nat) (x : Mxc) : (s.setMxc m x).audit = s.audit := rfl
@[simp] theorem State.setMxc_keys (s : State) (m : Nat) (x : Mxc) : (s.setMxc m x).keys = s.keys := rfl
@[simp] theorem State.setMxc_epoch (s : State) (m : Nat) (x : Mxc) : (s.setMxc m x).epoch = s.epoch := rfl
@[simp] theorem State.setMxc_turn (s : State) (m : Nat) (x : Mxc) : (s.setMxc m x).turn = s.turn := rfl
@[simp] theorem State.setMxc_queues (s : State) (m : Nat) (x : Mxc) : (s.setMxc m x).queues = s.queues := rfl
@[simp] theorem State.setMxc_aon2 (s : State) (m : Nat) (x : Mxc) : (s.setMxc m x).aon2 = s.aon2 := rfl
@[simp] theorem State.setMxc_ports (s : State) (m : Nat) (x : Mxc) : (s.setMxc m x).ports = s.ports := rfl
@[simp] theorem State.setMxc_asms (s : State) (m : Nat) (x : Mxc) : (s.setMxc m x).asms = s.asms := rfl
@[simp] theorem State.setMxc_jobs (s : State) (m : Nat) (x : Mxc) : (s.setMxc m x).jobs = s.jobs := rfl
@[simp] theorem State.setMxc_nextOrder (s : State) (m : Nat) (x : Mxc) : (s.setMxc m x).nextOrder = s.nextOrder := rfl
@[simp] theorem State.setMxc_graphs (s : State) (m : Nat) (x : Mxc) : (s.setMxc m x).graphs = s.graphs := rfl
@[simp] theorem State.setMxc_hmap (s : State) (m : Nat) (x : Mxc) : (s.setMxc m x).hmap = s.hmap := rfl
@[simp] theorem State.setMxc_vers (s : State) (m : Nat) (x : Mxc) : (s.setMxc m x).vers = s.vers := rfl
@[simp] theorem State.setMxc_nextVer (s : State) (m : Nat) (x : Mxc) : (s.setMxc m x).nextVer = s.nextVer := rfl
@[simp] theorem State.setMxc_pools (s : State) (m : Nat) (x : Mxc) : (s.setMxc m x).pools = s.pools := rfl
@[simp] theorem State.setMxc_ja (s : State) (m : Nat) (x : Mxc) : (s.setMxc m x).ja = s.ja := rfl
@[simp] theorem State.setMxc_jb (s : State) (m : Nat) (x : Mxc) : (s.setMxc m x).jb = s.jb := rfl
@[simp] theorem State.setMxc_jReserved (s : State) (m : Nat) (x : Mxc) : (s.setMxc m x).jReserved = s.jReserved := rfl
@[simp] theorem State.setMxc_rReserved (s : State) (m : Nat) (x : Mxc) : (s.setMxc m x).rReserved = s.rReserved := rfl
@[simp] theorem State.setMxc_rLinger (s : State) (m : Nat) (x : Mxc) : (s.setMxc m x).rLinger = s.rLinger := rfl
@[simp] theorem State.setMxc_iReserved (s : State) (m : Nat) (x : Mxc) : (s.setMxc m x).iReserved = s.iReserved := rfl
@[simp] theorem State.setMxc_lastGrant (s : State) (m : Nat) (x : Mxc) : (s.setMxc m x).lastGrant = s.lastGrant := rfl
@[simp] theorem State.setMxc_lastRefresh (s : State) (m : Nat) (x : Mxc) : (s.setMxc m x).lastRefresh = s.lastRefresh := rfl
@[simp] theorem State.setMxc_cellCfg (s : State) (m : Nat) (x : Mxc) : (s.setMxc m x).cellCfg = s.cellCfg := rfl
@[simp] theorem State.setMxc_cellSt (s : State) (m : Nat) (x : Mxc) : (s.setMxc m x).cellSt = s.cellSt := rfl
@[simp] theorem State.setMxc_budgets (s : State) (m : Nat) (x : Mxc) : (s.setMxc m x).budgets = s.budgets := rfl
@[simp] theorem State.setMxc_lastLearn (s : State) (m : Nat) (x : Mxc) : (s.setMxc m x).lastLearn = s.lastLearn := rfl
@[simp] theorem State.setMxc_lastDvfs (s : State) (m : Nat) (x : Mxc) : (s.setMxc m x).lastDvfs = s.lastDvfs := rfl
@[simp] theorem State.setMxc_clusters (s : State) (m : Nat) (x : Mxc) : (s.setMxc m x).clusters = s.clusters := rfl
@[simp] theorem State.setMxc_rails (s : State) (m : Nat) (x : Mxc) : (s.setMxc m x).rails = s.rails := rfl
@[simp] theorem State.setMxc_cores (s : State) (m : Nat) (x : Mxc) : (s.setMxc m x).cores = s.cores := rfl
@[simp] theorem State.setMxc_engines (s : State) (m : Nat) (x : Mxc) : (s.setMxc m x).engines = s.engines := rfl
@[simp] theorem State.setMxc_entries (s : State) (m : Nat) (x : Mxc) : (s.setMxc m x).entries = s.entries := rfl
@[simp] theorem State.setMxc_chans (s : State) (m : Nat) (x : Mxc) : (s.setMxc m x).chans = s.chans := rfl
@[simp] theorem State.setMxc_mem (s : State) (m : Nat) (x : Mxc) : (s.setMxc m x).mem = s.mem := rfl
@[simp] theorem State.setMxc_regions (s : State) (m : Nat) (x : Mxc) : (s.setMxc m x).regions = s.regions := rfl
@[simp] theorem State.setMxc_faultLog (s : State) (m : Nat) (x : Mxc) : (s.setMxc m x).faultLog = s.faultLog := rfl
@[simp] theorem State.setMxc_late (s : State) (m : Nat) (x : Mxc) : (s.setMxc m x).late = s.late := rfl
@[simp] theorem State.setMxc_faultNext (s : State) (m : Nat) (x : Mxc) : (s.setMxc m x).faultNext = s.faultNext := rfl
@[simp] theorem State.setMxc_overcast (s : State) (m : Nat) (x : Mxc) : (s.setMxc m x).overcast = s.overcast := rfl
@[simp] theorem State.setMxc_sv (s : State) (m : Nat) (x : Mxc) : (s.setMxc m x).sv = s.sv := rfl
@[simp] theorem State.setMxc_mirrorTx (s : State) (m : Nat) (x : Mxc) : (s.setMxc m x).mirrorTx = s.mirrorTx := rfl
@[simp] theorem State.setMxc_srcs (s : State) (m : Nat) (x : Mxc) : (s.setMxc m x).srcs = s.srcs := rfl
@[simp] theorem State.setMxc_fh (s : State) (m : Nat) (x : Mxc) : (s.setMxc m x).fh = s.fh := rfl
@[simp] theorem State.setMxc_opt (s : State) (m : Nat) (x : Mxc) : (s.setMxc m x).opt = s.opt := rfl
@[simp] theorem State.setMxc_power (s : State) (m : Nat) (x : Mxc) : (s.setMxc m x).power = s.power := rfl
@[simp] theorem State.setMxc_supply (s : State) (m : Nat) (x : Mxc) : (s.setMxc m x).supply = s.supply := rfl
@[simp] theorem State.setMxc_flash (s : State) (m : Nat) (x : Mxc) : (s.setMxc m x).flash = s.flash := rfl

/-! ## State.setCluster changes only `clusters` -/

@[simp] theorem State.setCluster_pending (s : State) (k : Nat) (x : Cluster) : (s.setCluster k x).pending = s.pending := rfl
@[simp] theorem State.setCluster_free (s : State) (k : Nat) (x : Cluster) : (s.setCluster k x).free = s.free := rfl
@[simp] theorem State.setCluster_out (s : State) (k : Nat) (x : Cluster) : (s.setCluster k x).out = s.out := rfl
@[simp] theorem State.setCluster_held (s : State) (k : Nat) (x : Cluster) : (s.setCluster k x).held = s.held := rfl
@[simp] theorem State.setCluster_part (s : State) (k : Nat) (x : Cluster) : (s.setCluster k x).part = s.part := rfl
@[simp] theorem State.setCluster_time (s : State) (k : Nat) (x : Cluster) : (s.setCluster k x).time = s.time := rfl
@[simp] theorem State.setCluster_obj (s : State) (k : Nat) (x : Cluster) : (s.setCluster k x).obj = s.obj := rfl
@[simp] theorem State.setCluster_cleip (s : State) (k : Nat) (x : Cluster) : (s.setCluster k x).cleip = s.cleip := rfl
@[simp] theorem State.setCluster_fport (s : State) (k : Nat) (x : Cluster) : (s.setCluster k x).fport = s.fport := rfl
@[simp] theorem State.setCluster_audit (s : State) (k : Nat) (x : Cluster) : (s.setCluster k x).audit = s.audit := rfl
@[simp] theorem State.setCluster_keys (s : State) (k : Nat) (x : Cluster) : (s.setCluster k x).keys = s.keys := rfl
@[simp] theorem State.setCluster_epoch (s : State) (k : Nat) (x : Cluster) : (s.setCluster k x).epoch = s.epoch := rfl
@[simp] theorem State.setCluster_turn (s : State) (k : Nat) (x : Cluster) : (s.setCluster k x).turn = s.turn := rfl
@[simp] theorem State.setCluster_queues (s : State) (k : Nat) (x : Cluster) : (s.setCluster k x).queues = s.queues := rfl
@[simp] theorem State.setCluster_aon2 (s : State) (k : Nat) (x : Cluster) : (s.setCluster k x).aon2 = s.aon2 := rfl
@[simp] theorem State.setCluster_ports (s : State) (k : Nat) (x : Cluster) : (s.setCluster k x).ports = s.ports := rfl
@[simp] theorem State.setCluster_asms (s : State) (k : Nat) (x : Cluster) : (s.setCluster k x).asms = s.asms := rfl
@[simp] theorem State.setCluster_jobs (s : State) (k : Nat) (x : Cluster) : (s.setCluster k x).jobs = s.jobs := rfl
@[simp] theorem State.setCluster_nextOrder (s : State) (k : Nat) (x : Cluster) : (s.setCluster k x).nextOrder = s.nextOrder := rfl
@[simp] theorem State.setCluster_graphs (s : State) (k : Nat) (x : Cluster) : (s.setCluster k x).graphs = s.graphs := rfl
@[simp] theorem State.setCluster_hmap (s : State) (k : Nat) (x : Cluster) : (s.setCluster k x).hmap = s.hmap := rfl
@[simp] theorem State.setCluster_vers (s : State) (k : Nat) (x : Cluster) : (s.setCluster k x).vers = s.vers := rfl
@[simp] theorem State.setCluster_nextVer (s : State) (k : Nat) (x : Cluster) : (s.setCluster k x).nextVer = s.nextVer := rfl
@[simp] theorem State.setCluster_pools (s : State) (k : Nat) (x : Cluster) : (s.setCluster k x).pools = s.pools := rfl
@[simp] theorem State.setCluster_ja (s : State) (k : Nat) (x : Cluster) : (s.setCluster k x).ja = s.ja := rfl
@[simp] theorem State.setCluster_jb (s : State) (k : Nat) (x : Cluster) : (s.setCluster k x).jb = s.jb := rfl
@[simp] theorem State.setCluster_jReserved (s : State) (k : Nat) (x : Cluster) : (s.setCluster k x).jReserved = s.jReserved := rfl
@[simp] theorem State.setCluster_rReserved (s : State) (k : Nat) (x : Cluster) : (s.setCluster k x).rReserved = s.rReserved := rfl
@[simp] theorem State.setCluster_rLinger (s : State) (k : Nat) (x : Cluster) : (s.setCluster k x).rLinger = s.rLinger := rfl
@[simp] theorem State.setCluster_iReserved (s : State) (k : Nat) (x : Cluster) : (s.setCluster k x).iReserved = s.iReserved := rfl
@[simp] theorem State.setCluster_lastGrant (s : State) (k : Nat) (x : Cluster) : (s.setCluster k x).lastGrant = s.lastGrant := rfl
@[simp] theorem State.setCluster_lastRefresh (s : State) (k : Nat) (x : Cluster) : (s.setCluster k x).lastRefresh = s.lastRefresh := rfl
@[simp] theorem State.setCluster_cellCfg (s : State) (k : Nat) (x : Cluster) : (s.setCluster k x).cellCfg = s.cellCfg := rfl
@[simp] theorem State.setCluster_cellSt (s : State) (k : Nat) (x : Cluster) : (s.setCluster k x).cellSt = s.cellSt := rfl
@[simp] theorem State.setCluster_budgets (s : State) (k : Nat) (x : Cluster) : (s.setCluster k x).budgets = s.budgets := rfl
@[simp] theorem State.setCluster_lastLearn (s : State) (k : Nat) (x : Cluster) : (s.setCluster k x).lastLearn = s.lastLearn := rfl
@[simp] theorem State.setCluster_lastDvfs (s : State) (k : Nat) (x : Cluster) : (s.setCluster k x).lastDvfs = s.lastDvfs := rfl
@[simp] theorem State.setCluster_rails (s : State) (k : Nat) (x : Cluster) : (s.setCluster k x).rails = s.rails := rfl
@[simp] theorem State.setCluster_cores (s : State) (k : Nat) (x : Cluster) : (s.setCluster k x).cores = s.cores := rfl
@[simp] theorem State.setCluster_mxcs (s : State) (k : Nat) (x : Cluster) : (s.setCluster k x).mxcs = s.mxcs := rfl
@[simp] theorem State.setCluster_engines (s : State) (k : Nat) (x : Cluster) : (s.setCluster k x).engines = s.engines := rfl
@[simp] theorem State.setCluster_entries (s : State) (k : Nat) (x : Cluster) : (s.setCluster k x).entries = s.entries := rfl
@[simp] theorem State.setCluster_chans (s : State) (k : Nat) (x : Cluster) : (s.setCluster k x).chans = s.chans := rfl
@[simp] theorem State.setCluster_mem (s : State) (k : Nat) (x : Cluster) : (s.setCluster k x).mem = s.mem := rfl
@[simp] theorem State.setCluster_regions (s : State) (k : Nat) (x : Cluster) : (s.setCluster k x).regions = s.regions := rfl
@[simp] theorem State.setCluster_faultLog (s : State) (k : Nat) (x : Cluster) : (s.setCluster k x).faultLog = s.faultLog := rfl
@[simp] theorem State.setCluster_late (s : State) (k : Nat) (x : Cluster) : (s.setCluster k x).late = s.late := rfl
@[simp] theorem State.setCluster_faultNext (s : State) (k : Nat) (x : Cluster) : (s.setCluster k x).faultNext = s.faultNext := rfl
@[simp] theorem State.setCluster_overcast (s : State) (k : Nat) (x : Cluster) : (s.setCluster k x).overcast = s.overcast := rfl
@[simp] theorem State.setCluster_sv (s : State) (k : Nat) (x : Cluster) : (s.setCluster k x).sv = s.sv := rfl
@[simp] theorem State.setCluster_mirrorTx (s : State) (k : Nat) (x : Cluster) : (s.setCluster k x).mirrorTx = s.mirrorTx := rfl
@[simp] theorem State.setCluster_srcs (s : State) (k : Nat) (x : Cluster) : (s.setCluster k x).srcs = s.srcs := rfl
@[simp] theorem State.setCluster_fh (s : State) (k : Nat) (x : Cluster) : (s.setCluster k x).fh = s.fh := rfl
@[simp] theorem State.setCluster_opt (s : State) (k : Nat) (x : Cluster) : (s.setCluster k x).opt = s.opt := rfl
@[simp] theorem State.setCluster_power (s : State) (k : Nat) (x : Cluster) : (s.setCluster k x).power = s.power := rfl
@[simp] theorem State.setCluster_supply (s : State) (k : Nat) (x : Cluster) : (s.setCluster k x).supply = s.supply := rfl
@[simp] theorem State.setCluster_flash (s : State) (k : Nat) (x : Cluster) : (s.setCluster k x).flash = s.flash := rfl

/-! ## State.setQueue changes only `queues aon2` -/

@[simp] theorem State.setQueue_pending (s : State) (q : Nat) (x : Queue) : (s.setQueue q x).pending = s.pending := rfl
@[simp] theorem State.setQueue_free (s : State) (q : Nat) (x : Queue) : (s.setQueue q x).free = s.free := rfl
@[simp] theorem State.setQueue_out (s : State) (q : Nat) (x : Queue) : (s.setQueue q x).out = s.out := rfl
@[simp] theorem State.setQueue_held (s : State) (q : Nat) (x : Queue) : (s.setQueue q x).held = s.held := rfl
@[simp] theorem State.setQueue_part (s : State) (q : Nat) (x : Queue) : (s.setQueue q x).part = s.part := rfl
@[simp] theorem State.setQueue_time (s : State) (q : Nat) (x : Queue) : (s.setQueue q x).time = s.time := rfl
@[simp] theorem State.setQueue_obj (s : State) (q : Nat) (x : Queue) : (s.setQueue q x).obj = s.obj := rfl
@[simp] theorem State.setQueue_cleip (s : State) (q : Nat) (x : Queue) : (s.setQueue q x).cleip = s.cleip := rfl
@[simp] theorem State.setQueue_fport (s : State) (q : Nat) (x : Queue) : (s.setQueue q x).fport = s.fport := rfl
@[simp] theorem State.setQueue_audit (s : State) (q : Nat) (x : Queue) : (s.setQueue q x).audit = s.audit := rfl
@[simp] theorem State.setQueue_keys (s : State) (q : Nat) (x : Queue) : (s.setQueue q x).keys = s.keys := rfl
@[simp] theorem State.setQueue_epoch (s : State) (q : Nat) (x : Queue) : (s.setQueue q x).epoch = s.epoch := rfl
@[simp] theorem State.setQueue_turn (s : State) (q : Nat) (x : Queue) : (s.setQueue q x).turn = s.turn := rfl
@[simp] theorem State.setQueue_ports (s : State) (q : Nat) (x : Queue) : (s.setQueue q x).ports = s.ports := rfl
@[simp] theorem State.setQueue_asms (s : State) (q : Nat) (x : Queue) : (s.setQueue q x).asms = s.asms := rfl
@[simp] theorem State.setQueue_jobs (s : State) (q : Nat) (x : Queue) : (s.setQueue q x).jobs = s.jobs := rfl
@[simp] theorem State.setQueue_nextOrder (s : State) (q : Nat) (x : Queue) : (s.setQueue q x).nextOrder = s.nextOrder := rfl
@[simp] theorem State.setQueue_graphs (s : State) (q : Nat) (x : Queue) : (s.setQueue q x).graphs = s.graphs := rfl
@[simp] theorem State.setQueue_hmap (s : State) (q : Nat) (x : Queue) : (s.setQueue q x).hmap = s.hmap := rfl
@[simp] theorem State.setQueue_vers (s : State) (q : Nat) (x : Queue) : (s.setQueue q x).vers = s.vers := rfl
@[simp] theorem State.setQueue_nextVer (s : State) (q : Nat) (x : Queue) : (s.setQueue q x).nextVer = s.nextVer := rfl
@[simp] theorem State.setQueue_pools (s : State) (q : Nat) (x : Queue) : (s.setQueue q x).pools = s.pools := rfl
@[simp] theorem State.setQueue_ja (s : State) (q : Nat) (x : Queue) : (s.setQueue q x).ja = s.ja := rfl
@[simp] theorem State.setQueue_jb (s : State) (q : Nat) (x : Queue) : (s.setQueue q x).jb = s.jb := rfl
@[simp] theorem State.setQueue_jReserved (s : State) (q : Nat) (x : Queue) : (s.setQueue q x).jReserved = s.jReserved := rfl
@[simp] theorem State.setQueue_rReserved (s : State) (q : Nat) (x : Queue) : (s.setQueue q x).rReserved = s.rReserved := rfl
@[simp] theorem State.setQueue_rLinger (s : State) (q : Nat) (x : Queue) : (s.setQueue q x).rLinger = s.rLinger := rfl
@[simp] theorem State.setQueue_iReserved (s : State) (q : Nat) (x : Queue) : (s.setQueue q x).iReserved = s.iReserved := rfl
@[simp] theorem State.setQueue_lastGrant (s : State) (q : Nat) (x : Queue) : (s.setQueue q x).lastGrant = s.lastGrant := rfl
@[simp] theorem State.setQueue_lastRefresh (s : State) (q : Nat) (x : Queue) : (s.setQueue q x).lastRefresh = s.lastRefresh := rfl
@[simp] theorem State.setQueue_cellCfg (s : State) (q : Nat) (x : Queue) : (s.setQueue q x).cellCfg = s.cellCfg := rfl
@[simp] theorem State.setQueue_cellSt (s : State) (q : Nat) (x : Queue) : (s.setQueue q x).cellSt = s.cellSt := rfl
@[simp] theorem State.setQueue_budgets (s : State) (q : Nat) (x : Queue) : (s.setQueue q x).budgets = s.budgets := rfl
@[simp] theorem State.setQueue_lastLearn (s : State) (q : Nat) (x : Queue) : (s.setQueue q x).lastLearn = s.lastLearn := rfl
@[simp] theorem State.setQueue_lastDvfs (s : State) (q : Nat) (x : Queue) : (s.setQueue q x).lastDvfs = s.lastDvfs := rfl
@[simp] theorem State.setQueue_clusters (s : State) (q : Nat) (x : Queue) : (s.setQueue q x).clusters = s.clusters := rfl
@[simp] theorem State.setQueue_rails (s : State) (q : Nat) (x : Queue) : (s.setQueue q x).rails = s.rails := rfl
@[simp] theorem State.setQueue_cores (s : State) (q : Nat) (x : Queue) : (s.setQueue q x).cores = s.cores := rfl
@[simp] theorem State.setQueue_mxcs (s : State) (q : Nat) (x : Queue) : (s.setQueue q x).mxcs = s.mxcs := rfl
@[simp] theorem State.setQueue_engines (s : State) (q : Nat) (x : Queue) : (s.setQueue q x).engines = s.engines := rfl
@[simp] theorem State.setQueue_entries (s : State) (q : Nat) (x : Queue) : (s.setQueue q x).entries = s.entries := rfl
@[simp] theorem State.setQueue_chans (s : State) (q : Nat) (x : Queue) : (s.setQueue q x).chans = s.chans := rfl
@[simp] theorem State.setQueue_mem (s : State) (q : Nat) (x : Queue) : (s.setQueue q x).mem = s.mem := rfl
@[simp] theorem State.setQueue_regions (s : State) (q : Nat) (x : Queue) : (s.setQueue q x).regions = s.regions := rfl
@[simp] theorem State.setQueue_faultLog (s : State) (q : Nat) (x : Queue) : (s.setQueue q x).faultLog = s.faultLog := rfl
@[simp] theorem State.setQueue_late (s : State) (q : Nat) (x : Queue) : (s.setQueue q x).late = s.late := rfl
@[simp] theorem State.setQueue_faultNext (s : State) (q : Nat) (x : Queue) : (s.setQueue q x).faultNext = s.faultNext := rfl
@[simp] theorem State.setQueue_overcast (s : State) (q : Nat) (x : Queue) : (s.setQueue q x).overcast = s.overcast := rfl
@[simp] theorem State.setQueue_sv (s : State) (q : Nat) (x : Queue) : (s.setQueue q x).sv = s.sv := rfl
@[simp] theorem State.setQueue_mirrorTx (s : State) (q : Nat) (x : Queue) : (s.setQueue q x).mirrorTx = s.mirrorTx := rfl
@[simp] theorem State.setQueue_srcs (s : State) (q : Nat) (x : Queue) : (s.setQueue q x).srcs = s.srcs := rfl
@[simp] theorem State.setQueue_fh (s : State) (q : Nat) (x : Queue) : (s.setQueue q x).fh = s.fh := rfl
@[simp] theorem State.setQueue_opt (s : State) (q : Nat) (x : Queue) : (s.setQueue q x).opt = s.opt := rfl
@[simp] theorem State.setQueue_power (s : State) (q : Nat) (x : Queue) : (s.setQueue q x).power = s.power := rfl
@[simp] theorem State.setQueue_supply (s : State) (q : Nat) (x : Queue) : (s.setQueue q x).supply = s.supply := rfl
@[simp] theorem State.setQueue_flash (s : State) (q : Nat) (x : Queue) : (s.setQueue q x).flash = s.flash := rfl

/-! ## State.setPort changes only `ports` -/

@[simp] theorem State.setPort_pending (s : State) (p : Nat) (x : Port) : (s.setPort p x).pending = s.pending := rfl
@[simp] theorem State.setPort_free (s : State) (p : Nat) (x : Port) : (s.setPort p x).free = s.free := rfl
@[simp] theorem State.setPort_out (s : State) (p : Nat) (x : Port) : (s.setPort p x).out = s.out := rfl
@[simp] theorem State.setPort_held (s : State) (p : Nat) (x : Port) : (s.setPort p x).held = s.held := rfl
@[simp] theorem State.setPort_part (s : State) (p : Nat) (x : Port) : (s.setPort p x).part = s.part := rfl
@[simp] theorem State.setPort_time (s : State) (p : Nat) (x : Port) : (s.setPort p x).time = s.time := rfl
@[simp] theorem State.setPort_obj (s : State) (p : Nat) (x : Port) : (s.setPort p x).obj = s.obj := rfl
@[simp] theorem State.setPort_cleip (s : State) (p : Nat) (x : Port) : (s.setPort p x).cleip = s.cleip := rfl
@[simp] theorem State.setPort_fport (s : State) (p : Nat) (x : Port) : (s.setPort p x).fport = s.fport := rfl
@[simp] theorem State.setPort_audit (s : State) (p : Nat) (x : Port) : (s.setPort p x).audit = s.audit := rfl
@[simp] theorem State.setPort_keys (s : State) (p : Nat) (x : Port) : (s.setPort p x).keys = s.keys := rfl
@[simp] theorem State.setPort_epoch (s : State) (p : Nat) (x : Port) : (s.setPort p x).epoch = s.epoch := rfl
@[simp] theorem State.setPort_turn (s : State) (p : Nat) (x : Port) : (s.setPort p x).turn = s.turn := rfl
@[simp] theorem State.setPort_queues (s : State) (p : Nat) (x : Port) : (s.setPort p x).queues = s.queues := rfl
@[simp] theorem State.setPort_aon2 (s : State) (p : Nat) (x : Port) : (s.setPort p x).aon2 = s.aon2 := rfl
@[simp] theorem State.setPort_asms (s : State) (p : Nat) (x : Port) : (s.setPort p x).asms = s.asms := rfl
@[simp] theorem State.setPort_jobs (s : State) (p : Nat) (x : Port) : (s.setPort p x).jobs = s.jobs := rfl
@[simp] theorem State.setPort_nextOrder (s : State) (p : Nat) (x : Port) : (s.setPort p x).nextOrder = s.nextOrder := rfl
@[simp] theorem State.setPort_graphs (s : State) (p : Nat) (x : Port) : (s.setPort p x).graphs = s.graphs := rfl
@[simp] theorem State.setPort_hmap (s : State) (p : Nat) (x : Port) : (s.setPort p x).hmap = s.hmap := rfl
@[simp] theorem State.setPort_vers (s : State) (p : Nat) (x : Port) : (s.setPort p x).vers = s.vers := rfl
@[simp] theorem State.setPort_nextVer (s : State) (p : Nat) (x : Port) : (s.setPort p x).nextVer = s.nextVer := rfl
@[simp] theorem State.setPort_pools (s : State) (p : Nat) (x : Port) : (s.setPort p x).pools = s.pools := rfl
@[simp] theorem State.setPort_ja (s : State) (p : Nat) (x : Port) : (s.setPort p x).ja = s.ja := rfl
@[simp] theorem State.setPort_jb (s : State) (p : Nat) (x : Port) : (s.setPort p x).jb = s.jb := rfl
@[simp] theorem State.setPort_jReserved (s : State) (p : Nat) (x : Port) : (s.setPort p x).jReserved = s.jReserved := rfl
@[simp] theorem State.setPort_rReserved (s : State) (p : Nat) (x : Port) : (s.setPort p x).rReserved = s.rReserved := rfl
@[simp] theorem State.setPort_rLinger (s : State) (p : Nat) (x : Port) : (s.setPort p x).rLinger = s.rLinger := rfl
@[simp] theorem State.setPort_iReserved (s : State) (p : Nat) (x : Port) : (s.setPort p x).iReserved = s.iReserved := rfl
@[simp] theorem State.setPort_lastGrant (s : State) (p : Nat) (x : Port) : (s.setPort p x).lastGrant = s.lastGrant := rfl
@[simp] theorem State.setPort_lastRefresh (s : State) (p : Nat) (x : Port) : (s.setPort p x).lastRefresh = s.lastRefresh := rfl
@[simp] theorem State.setPort_cellCfg (s : State) (p : Nat) (x : Port) : (s.setPort p x).cellCfg = s.cellCfg := rfl
@[simp] theorem State.setPort_cellSt (s : State) (p : Nat) (x : Port) : (s.setPort p x).cellSt = s.cellSt := rfl
@[simp] theorem State.setPort_budgets (s : State) (p : Nat) (x : Port) : (s.setPort p x).budgets = s.budgets := rfl
@[simp] theorem State.setPort_lastLearn (s : State) (p : Nat) (x : Port) : (s.setPort p x).lastLearn = s.lastLearn := rfl
@[simp] theorem State.setPort_lastDvfs (s : State) (p : Nat) (x : Port) : (s.setPort p x).lastDvfs = s.lastDvfs := rfl
@[simp] theorem State.setPort_clusters (s : State) (p : Nat) (x : Port) : (s.setPort p x).clusters = s.clusters := rfl
@[simp] theorem State.setPort_rails (s : State) (p : Nat) (x : Port) : (s.setPort p x).rails = s.rails := rfl
@[simp] theorem State.setPort_cores (s : State) (p : Nat) (x : Port) : (s.setPort p x).cores = s.cores := rfl
@[simp] theorem State.setPort_mxcs (s : State) (p : Nat) (x : Port) : (s.setPort p x).mxcs = s.mxcs := rfl
@[simp] theorem State.setPort_engines (s : State) (p : Nat) (x : Port) : (s.setPort p x).engines = s.engines := rfl
@[simp] theorem State.setPort_entries (s : State) (p : Nat) (x : Port) : (s.setPort p x).entries = s.entries := rfl
@[simp] theorem State.setPort_chans (s : State) (p : Nat) (x : Port) : (s.setPort p x).chans = s.chans := rfl
@[simp] theorem State.setPort_mem (s : State) (p : Nat) (x : Port) : (s.setPort p x).mem = s.mem := rfl
@[simp] theorem State.setPort_regions (s : State) (p : Nat) (x : Port) : (s.setPort p x).regions = s.regions := rfl
@[simp] theorem State.setPort_faultLog (s : State) (p : Nat) (x : Port) : (s.setPort p x).faultLog = s.faultLog := rfl
@[simp] theorem State.setPort_late (s : State) (p : Nat) (x : Port) : (s.setPort p x).late = s.late := rfl
@[simp] theorem State.setPort_faultNext (s : State) (p : Nat) (x : Port) : (s.setPort p x).faultNext = s.faultNext := rfl
@[simp] theorem State.setPort_overcast (s : State) (p : Nat) (x : Port) : (s.setPort p x).overcast = s.overcast := rfl
@[simp] theorem State.setPort_sv (s : State) (p : Nat) (x : Port) : (s.setPort p x).sv = s.sv := rfl
@[simp] theorem State.setPort_mirrorTx (s : State) (p : Nat) (x : Port) : (s.setPort p x).mirrorTx = s.mirrorTx := rfl
@[simp] theorem State.setPort_srcs (s : State) (p : Nat) (x : Port) : (s.setPort p x).srcs = s.srcs := rfl
@[simp] theorem State.setPort_fh (s : State) (p : Nat) (x : Port) : (s.setPort p x).fh = s.fh := rfl
@[simp] theorem State.setPort_opt (s : State) (p : Nat) (x : Port) : (s.setPort p x).opt = s.opt := rfl
@[simp] theorem State.setPort_power (s : State) (p : Nat) (x : Port) : (s.setPort p x).power = s.power := rfl
@[simp] theorem State.setPort_supply (s : State) (p : Nat) (x : Port) : (s.setPort p x).supply = s.supply := rfl
@[simp] theorem State.setPort_flash (s : State) (p : Nat) (x : Port) : (s.setPort p x).flash = s.flash := rfl

/-! ## State.setChan changes only `chans` -/

@[simp] theorem State.setChan_pending (s : State) (c : Nat) (x : Chan) : (s.setChan c x).pending = s.pending := rfl
@[simp] theorem State.setChan_free (s : State) (c : Nat) (x : Chan) : (s.setChan c x).free = s.free := rfl
@[simp] theorem State.setChan_out (s : State) (c : Nat) (x : Chan) : (s.setChan c x).out = s.out := rfl
@[simp] theorem State.setChan_held (s : State) (c : Nat) (x : Chan) : (s.setChan c x).held = s.held := rfl
@[simp] theorem State.setChan_part (s : State) (c : Nat) (x : Chan) : (s.setChan c x).part = s.part := rfl
@[simp] theorem State.setChan_time (s : State) (c : Nat) (x : Chan) : (s.setChan c x).time = s.time := rfl
@[simp] theorem State.setChan_obj (s : State) (c : Nat) (x : Chan) : (s.setChan c x).obj = s.obj := rfl
@[simp] theorem State.setChan_cleip (s : State) (c : Nat) (x : Chan) : (s.setChan c x).cleip = s.cleip := rfl
@[simp] theorem State.setChan_fport (s : State) (c : Nat) (x : Chan) : (s.setChan c x).fport = s.fport := rfl
@[simp] theorem State.setChan_audit (s : State) (c : Nat) (x : Chan) : (s.setChan c x).audit = s.audit := rfl
@[simp] theorem State.setChan_keys (s : State) (c : Nat) (x : Chan) : (s.setChan c x).keys = s.keys := rfl
@[simp] theorem State.setChan_epoch (s : State) (c : Nat) (x : Chan) : (s.setChan c x).epoch = s.epoch := rfl
@[simp] theorem State.setChan_turn (s : State) (c : Nat) (x : Chan) : (s.setChan c x).turn = s.turn := rfl
@[simp] theorem State.setChan_queues (s : State) (c : Nat) (x : Chan) : (s.setChan c x).queues = s.queues := rfl
@[simp] theorem State.setChan_aon2 (s : State) (c : Nat) (x : Chan) : (s.setChan c x).aon2 = s.aon2 := rfl
@[simp] theorem State.setChan_ports (s : State) (c : Nat) (x : Chan) : (s.setChan c x).ports = s.ports := rfl
@[simp] theorem State.setChan_asms (s : State) (c : Nat) (x : Chan) : (s.setChan c x).asms = s.asms := rfl
@[simp] theorem State.setChan_jobs (s : State) (c : Nat) (x : Chan) : (s.setChan c x).jobs = s.jobs := rfl
@[simp] theorem State.setChan_nextOrder (s : State) (c : Nat) (x : Chan) : (s.setChan c x).nextOrder = s.nextOrder := rfl
@[simp] theorem State.setChan_graphs (s : State) (c : Nat) (x : Chan) : (s.setChan c x).graphs = s.graphs := rfl
@[simp] theorem State.setChan_hmap (s : State) (c : Nat) (x : Chan) : (s.setChan c x).hmap = s.hmap := rfl
@[simp] theorem State.setChan_vers (s : State) (c : Nat) (x : Chan) : (s.setChan c x).vers = s.vers := rfl
@[simp] theorem State.setChan_nextVer (s : State) (c : Nat) (x : Chan) : (s.setChan c x).nextVer = s.nextVer := rfl
@[simp] theorem State.setChan_pools (s : State) (c : Nat) (x : Chan) : (s.setChan c x).pools = s.pools := rfl
@[simp] theorem State.setChan_ja (s : State) (c : Nat) (x : Chan) : (s.setChan c x).ja = s.ja := rfl
@[simp] theorem State.setChan_jb (s : State) (c : Nat) (x : Chan) : (s.setChan c x).jb = s.jb := rfl
@[simp] theorem State.setChan_jReserved (s : State) (c : Nat) (x : Chan) : (s.setChan c x).jReserved = s.jReserved := rfl
@[simp] theorem State.setChan_rReserved (s : State) (c : Nat) (x : Chan) : (s.setChan c x).rReserved = s.rReserved := rfl
@[simp] theorem State.setChan_rLinger (s : State) (c : Nat) (x : Chan) : (s.setChan c x).rLinger = s.rLinger := rfl
@[simp] theorem State.setChan_iReserved (s : State) (c : Nat) (x : Chan) : (s.setChan c x).iReserved = s.iReserved := rfl
@[simp] theorem State.setChan_lastGrant (s : State) (c : Nat) (x : Chan) : (s.setChan c x).lastGrant = s.lastGrant := rfl
@[simp] theorem State.setChan_lastRefresh (s : State) (c : Nat) (x : Chan) : (s.setChan c x).lastRefresh = s.lastRefresh := rfl
@[simp] theorem State.setChan_cellCfg (s : State) (c : Nat) (x : Chan) : (s.setChan c x).cellCfg = s.cellCfg := rfl
@[simp] theorem State.setChan_cellSt (s : State) (c : Nat) (x : Chan) : (s.setChan c x).cellSt = s.cellSt := rfl
@[simp] theorem State.setChan_budgets (s : State) (c : Nat) (x : Chan) : (s.setChan c x).budgets = s.budgets := rfl
@[simp] theorem State.setChan_lastLearn (s : State) (c : Nat) (x : Chan) : (s.setChan c x).lastLearn = s.lastLearn := rfl
@[simp] theorem State.setChan_lastDvfs (s : State) (c : Nat) (x : Chan) : (s.setChan c x).lastDvfs = s.lastDvfs := rfl
@[simp] theorem State.setChan_clusters (s : State) (c : Nat) (x : Chan) : (s.setChan c x).clusters = s.clusters := rfl
@[simp] theorem State.setChan_rails (s : State) (c : Nat) (x : Chan) : (s.setChan c x).rails = s.rails := rfl
@[simp] theorem State.setChan_cores (s : State) (c : Nat) (x : Chan) : (s.setChan c x).cores = s.cores := rfl
@[simp] theorem State.setChan_mxcs (s : State) (c : Nat) (x : Chan) : (s.setChan c x).mxcs = s.mxcs := rfl
@[simp] theorem State.setChan_engines (s : State) (c : Nat) (x : Chan) : (s.setChan c x).engines = s.engines := rfl
@[simp] theorem State.setChan_entries (s : State) (c : Nat) (x : Chan) : (s.setChan c x).entries = s.entries := rfl
@[simp] theorem State.setChan_mem (s : State) (c : Nat) (x : Chan) : (s.setChan c x).mem = s.mem := rfl
@[simp] theorem State.setChan_regions (s : State) (c : Nat) (x : Chan) : (s.setChan c x).regions = s.regions := rfl
@[simp] theorem State.setChan_faultLog (s : State) (c : Nat) (x : Chan) : (s.setChan c x).faultLog = s.faultLog := rfl
@[simp] theorem State.setChan_late (s : State) (c : Nat) (x : Chan) : (s.setChan c x).late = s.late := rfl
@[simp] theorem State.setChan_faultNext (s : State) (c : Nat) (x : Chan) : (s.setChan c x).faultNext = s.faultNext := rfl
@[simp] theorem State.setChan_overcast (s : State) (c : Nat) (x : Chan) : (s.setChan c x).overcast = s.overcast := rfl
@[simp] theorem State.setChan_sv (s : State) (c : Nat) (x : Chan) : (s.setChan c x).sv = s.sv := rfl
@[simp] theorem State.setChan_mirrorTx (s : State) (c : Nat) (x : Chan) : (s.setChan c x).mirrorTx = s.mirrorTx := rfl
@[simp] theorem State.setChan_srcs (s : State) (c : Nat) (x : Chan) : (s.setChan c x).srcs = s.srcs := rfl
@[simp] theorem State.setChan_fh (s : State) (c : Nat) (x : Chan) : (s.setChan c x).fh = s.fh := rfl
@[simp] theorem State.setChan_opt (s : State) (c : Nat) (x : Chan) : (s.setChan c x).opt = s.opt := rfl
@[simp] theorem State.setChan_power (s : State) (c : Nat) (x : Chan) : (s.setChan c x).power = s.power := rfl
@[simp] theorem State.setChan_supply (s : State) (c : Nat) (x : Chan) : (s.setChan c x).supply = s.supply := rfl
@[simp] theorem State.setChan_flash (s : State) (c : Nat) (x : Chan) : (s.setChan c x).flash = s.flash := rfl

/-! ## State.setEngine changes only `engines` -/

@[simp] theorem State.setEngine_pending (s : State) (kind n : Nat) (x : Engine) : (s.setEngine kind n x).pending = s.pending := rfl
@[simp] theorem State.setEngine_free (s : State) (kind n : Nat) (x : Engine) : (s.setEngine kind n x).free = s.free := rfl
@[simp] theorem State.setEngine_out (s : State) (kind n : Nat) (x : Engine) : (s.setEngine kind n x).out = s.out := rfl
@[simp] theorem State.setEngine_held (s : State) (kind n : Nat) (x : Engine) : (s.setEngine kind n x).held = s.held := rfl
@[simp] theorem State.setEngine_part (s : State) (kind n : Nat) (x : Engine) : (s.setEngine kind n x).part = s.part := rfl
@[simp] theorem State.setEngine_time (s : State) (kind n : Nat) (x : Engine) : (s.setEngine kind n x).time = s.time := rfl
@[simp] theorem State.setEngine_obj (s : State) (kind n : Nat) (x : Engine) : (s.setEngine kind n x).obj = s.obj := rfl
@[simp] theorem State.setEngine_cleip (s : State) (kind n : Nat) (x : Engine) : (s.setEngine kind n x).cleip = s.cleip := rfl
@[simp] theorem State.setEngine_fport (s : State) (kind n : Nat) (x : Engine) : (s.setEngine kind n x).fport = s.fport := rfl
@[simp] theorem State.setEngine_audit (s : State) (kind n : Nat) (x : Engine) : (s.setEngine kind n x).audit = s.audit := rfl
@[simp] theorem State.setEngine_keys (s : State) (kind n : Nat) (x : Engine) : (s.setEngine kind n x).keys = s.keys := rfl
@[simp] theorem State.setEngine_epoch (s : State) (kind n : Nat) (x : Engine) : (s.setEngine kind n x).epoch = s.epoch := rfl
@[simp] theorem State.setEngine_turn (s : State) (kind n : Nat) (x : Engine) : (s.setEngine kind n x).turn = s.turn := rfl
@[simp] theorem State.setEngine_queues (s : State) (kind n : Nat) (x : Engine) : (s.setEngine kind n x).queues = s.queues := rfl
@[simp] theorem State.setEngine_aon2 (s : State) (kind n : Nat) (x : Engine) : (s.setEngine kind n x).aon2 = s.aon2 := rfl
@[simp] theorem State.setEngine_ports (s : State) (kind n : Nat) (x : Engine) : (s.setEngine kind n x).ports = s.ports := rfl
@[simp] theorem State.setEngine_asms (s : State) (kind n : Nat) (x : Engine) : (s.setEngine kind n x).asms = s.asms := rfl
@[simp] theorem State.setEngine_jobs (s : State) (kind n : Nat) (x : Engine) : (s.setEngine kind n x).jobs = s.jobs := rfl
@[simp] theorem State.setEngine_nextOrder (s : State) (kind n : Nat) (x : Engine) : (s.setEngine kind n x).nextOrder = s.nextOrder := rfl
@[simp] theorem State.setEngine_graphs (s : State) (kind n : Nat) (x : Engine) : (s.setEngine kind n x).graphs = s.graphs := rfl
@[simp] theorem State.setEngine_hmap (s : State) (kind n : Nat) (x : Engine) : (s.setEngine kind n x).hmap = s.hmap := rfl
@[simp] theorem State.setEngine_vers (s : State) (kind n : Nat) (x : Engine) : (s.setEngine kind n x).vers = s.vers := rfl
@[simp] theorem State.setEngine_nextVer (s : State) (kind n : Nat) (x : Engine) : (s.setEngine kind n x).nextVer = s.nextVer := rfl
@[simp] theorem State.setEngine_pools (s : State) (kind n : Nat) (x : Engine) : (s.setEngine kind n x).pools = s.pools := rfl
@[simp] theorem State.setEngine_ja (s : State) (kind n : Nat) (x : Engine) : (s.setEngine kind n x).ja = s.ja := rfl
@[simp] theorem State.setEngine_jb (s : State) (kind n : Nat) (x : Engine) : (s.setEngine kind n x).jb = s.jb := rfl
@[simp] theorem State.setEngine_jReserved (s : State) (kind n : Nat) (x : Engine) : (s.setEngine kind n x).jReserved = s.jReserved := rfl
@[simp] theorem State.setEngine_rReserved (s : State) (kind n : Nat) (x : Engine) : (s.setEngine kind n x).rReserved = s.rReserved := rfl
@[simp] theorem State.setEngine_rLinger (s : State) (kind n : Nat) (x : Engine) : (s.setEngine kind n x).rLinger = s.rLinger := rfl
@[simp] theorem State.setEngine_iReserved (s : State) (kind n : Nat) (x : Engine) : (s.setEngine kind n x).iReserved = s.iReserved := rfl
@[simp] theorem State.setEngine_lastGrant (s : State) (kind n : Nat) (x : Engine) : (s.setEngine kind n x).lastGrant = s.lastGrant := rfl
@[simp] theorem State.setEngine_lastRefresh (s : State) (kind n : Nat) (x : Engine) : (s.setEngine kind n x).lastRefresh = s.lastRefresh := rfl
@[simp] theorem State.setEngine_cellCfg (s : State) (kind n : Nat) (x : Engine) : (s.setEngine kind n x).cellCfg = s.cellCfg := rfl
@[simp] theorem State.setEngine_cellSt (s : State) (kind n : Nat) (x : Engine) : (s.setEngine kind n x).cellSt = s.cellSt := rfl
@[simp] theorem State.setEngine_budgets (s : State) (kind n : Nat) (x : Engine) : (s.setEngine kind n x).budgets = s.budgets := rfl
@[simp] theorem State.setEngine_lastLearn (s : State) (kind n : Nat) (x : Engine) : (s.setEngine kind n x).lastLearn = s.lastLearn := rfl
@[simp] theorem State.setEngine_lastDvfs (s : State) (kind n : Nat) (x : Engine) : (s.setEngine kind n x).lastDvfs = s.lastDvfs := rfl
@[simp] theorem State.setEngine_clusters (s : State) (kind n : Nat) (x : Engine) : (s.setEngine kind n x).clusters = s.clusters := rfl
@[simp] theorem State.setEngine_rails (s : State) (kind n : Nat) (x : Engine) : (s.setEngine kind n x).rails = s.rails := rfl
@[simp] theorem State.setEngine_cores (s : State) (kind n : Nat) (x : Engine) : (s.setEngine kind n x).cores = s.cores := rfl
@[simp] theorem State.setEngine_mxcs (s : State) (kind n : Nat) (x : Engine) : (s.setEngine kind n x).mxcs = s.mxcs := rfl
@[simp] theorem State.setEngine_entries (s : State) (kind n : Nat) (x : Engine) : (s.setEngine kind n x).entries = s.entries := rfl
@[simp] theorem State.setEngine_chans (s : State) (kind n : Nat) (x : Engine) : (s.setEngine kind n x).chans = s.chans := rfl
@[simp] theorem State.setEngine_mem (s : State) (kind n : Nat) (x : Engine) : (s.setEngine kind n x).mem = s.mem := rfl
@[simp] theorem State.setEngine_regions (s : State) (kind n : Nat) (x : Engine) : (s.setEngine kind n x).regions = s.regions := rfl
@[simp] theorem State.setEngine_faultLog (s : State) (kind n : Nat) (x : Engine) : (s.setEngine kind n x).faultLog = s.faultLog := rfl
@[simp] theorem State.setEngine_late (s : State) (kind n : Nat) (x : Engine) : (s.setEngine kind n x).late = s.late := rfl
@[simp] theorem State.setEngine_faultNext (s : State) (kind n : Nat) (x : Engine) : (s.setEngine kind n x).faultNext = s.faultNext := rfl
@[simp] theorem State.setEngine_overcast (s : State) (kind n : Nat) (x : Engine) : (s.setEngine kind n x).overcast = s.overcast := rfl
@[simp] theorem State.setEngine_sv (s : State) (kind n : Nat) (x : Engine) : (s.setEngine kind n x).sv = s.sv := rfl
@[simp] theorem State.setEngine_mirrorTx (s : State) (kind n : Nat) (x : Engine) : (s.setEngine kind n x).mirrorTx = s.mirrorTx := rfl
@[simp] theorem State.setEngine_srcs (s : State) (kind n : Nat) (x : Engine) : (s.setEngine kind n x).srcs = s.srcs := rfl
@[simp] theorem State.setEngine_fh (s : State) (kind n : Nat) (x : Engine) : (s.setEngine kind n x).fh = s.fh := rfl
@[simp] theorem State.setEngine_opt (s : State) (kind n : Nat) (x : Engine) : (s.setEngine kind n x).opt = s.opt := rfl
@[simp] theorem State.setEngine_power (s : State) (kind n : Nat) (x : Engine) : (s.setEngine kind n x).power = s.power := rfl
@[simp] theorem State.setEngine_supply (s : State) (kind n : Nat) (x : Engine) : (s.setEngine kind n x).supply = s.supply := rfl
@[simp] theorem State.setEngine_flash (s : State) (kind n : Nat) (x : Engine) : (s.setEngine kind n x).flash = s.flash := rfl

/-! ## State.setRegion changes only `regions` -/

@[simp] theorem State.setRegion_pending (s : State) (r : Nat) (x : Region) : (s.setRegion r x).pending = s.pending := rfl
@[simp] theorem State.setRegion_free (s : State) (r : Nat) (x : Region) : (s.setRegion r x).free = s.free := rfl
@[simp] theorem State.setRegion_out (s : State) (r : Nat) (x : Region) : (s.setRegion r x).out = s.out := rfl
@[simp] theorem State.setRegion_held (s : State) (r : Nat) (x : Region) : (s.setRegion r x).held = s.held := rfl
@[simp] theorem State.setRegion_part (s : State) (r : Nat) (x : Region) : (s.setRegion r x).part = s.part := rfl
@[simp] theorem State.setRegion_time (s : State) (r : Nat) (x : Region) : (s.setRegion r x).time = s.time := rfl
@[simp] theorem State.setRegion_obj (s : State) (r : Nat) (x : Region) : (s.setRegion r x).obj = s.obj := rfl
@[simp] theorem State.setRegion_cleip (s : State) (r : Nat) (x : Region) : (s.setRegion r x).cleip = s.cleip := rfl
@[simp] theorem State.setRegion_fport (s : State) (r : Nat) (x : Region) : (s.setRegion r x).fport = s.fport := rfl
@[simp] theorem State.setRegion_audit (s : State) (r : Nat) (x : Region) : (s.setRegion r x).audit = s.audit := rfl
@[simp] theorem State.setRegion_keys (s : State) (r : Nat) (x : Region) : (s.setRegion r x).keys = s.keys := rfl
@[simp] theorem State.setRegion_epoch (s : State) (r : Nat) (x : Region) : (s.setRegion r x).epoch = s.epoch := rfl
@[simp] theorem State.setRegion_turn (s : State) (r : Nat) (x : Region) : (s.setRegion r x).turn = s.turn := rfl
@[simp] theorem State.setRegion_queues (s : State) (r : Nat) (x : Region) : (s.setRegion r x).queues = s.queues := rfl
@[simp] theorem State.setRegion_aon2 (s : State) (r : Nat) (x : Region) : (s.setRegion r x).aon2 = s.aon2 := rfl
@[simp] theorem State.setRegion_ports (s : State) (r : Nat) (x : Region) : (s.setRegion r x).ports = s.ports := rfl
@[simp] theorem State.setRegion_asms (s : State) (r : Nat) (x : Region) : (s.setRegion r x).asms = s.asms := rfl
@[simp] theorem State.setRegion_jobs (s : State) (r : Nat) (x : Region) : (s.setRegion r x).jobs = s.jobs := rfl
@[simp] theorem State.setRegion_nextOrder (s : State) (r : Nat) (x : Region) : (s.setRegion r x).nextOrder = s.nextOrder := rfl
@[simp] theorem State.setRegion_graphs (s : State) (r : Nat) (x : Region) : (s.setRegion r x).graphs = s.graphs := rfl
@[simp] theorem State.setRegion_hmap (s : State) (r : Nat) (x : Region) : (s.setRegion r x).hmap = s.hmap := rfl
@[simp] theorem State.setRegion_vers (s : State) (r : Nat) (x : Region) : (s.setRegion r x).vers = s.vers := rfl
@[simp] theorem State.setRegion_nextVer (s : State) (r : Nat) (x : Region) : (s.setRegion r x).nextVer = s.nextVer := rfl
@[simp] theorem State.setRegion_pools (s : State) (r : Nat) (x : Region) : (s.setRegion r x).pools = s.pools := rfl
@[simp] theorem State.setRegion_ja (s : State) (r : Nat) (x : Region) : (s.setRegion r x).ja = s.ja := rfl
@[simp] theorem State.setRegion_jb (s : State) (r : Nat) (x : Region) : (s.setRegion r x).jb = s.jb := rfl
@[simp] theorem State.setRegion_jReserved (s : State) (r : Nat) (x : Region) : (s.setRegion r x).jReserved = s.jReserved := rfl
@[simp] theorem State.setRegion_rReserved (s : State) (r : Nat) (x : Region) : (s.setRegion r x).rReserved = s.rReserved := rfl
@[simp] theorem State.setRegion_rLinger (s : State) (r : Nat) (x : Region) : (s.setRegion r x).rLinger = s.rLinger := rfl
@[simp] theorem State.setRegion_iReserved (s : State) (r : Nat) (x : Region) : (s.setRegion r x).iReserved = s.iReserved := rfl
@[simp] theorem State.setRegion_lastGrant (s : State) (r : Nat) (x : Region) : (s.setRegion r x).lastGrant = s.lastGrant := rfl
@[simp] theorem State.setRegion_lastRefresh (s : State) (r : Nat) (x : Region) : (s.setRegion r x).lastRefresh = s.lastRefresh := rfl
@[simp] theorem State.setRegion_cellCfg (s : State) (r : Nat) (x : Region) : (s.setRegion r x).cellCfg = s.cellCfg := rfl
@[simp] theorem State.setRegion_cellSt (s : State) (r : Nat) (x : Region) : (s.setRegion r x).cellSt = s.cellSt := rfl
@[simp] theorem State.setRegion_budgets (s : State) (r : Nat) (x : Region) : (s.setRegion r x).budgets = s.budgets := rfl
@[simp] theorem State.setRegion_lastLearn (s : State) (r : Nat) (x : Region) : (s.setRegion r x).lastLearn = s.lastLearn := rfl
@[simp] theorem State.setRegion_lastDvfs (s : State) (r : Nat) (x : Region) : (s.setRegion r x).lastDvfs = s.lastDvfs := rfl
@[simp] theorem State.setRegion_clusters (s : State) (r : Nat) (x : Region) : (s.setRegion r x).clusters = s.clusters := rfl
@[simp] theorem State.setRegion_rails (s : State) (r : Nat) (x : Region) : (s.setRegion r x).rails = s.rails := rfl
@[simp] theorem State.setRegion_cores (s : State) (r : Nat) (x : Region) : (s.setRegion r x).cores = s.cores := rfl
@[simp] theorem State.setRegion_mxcs (s : State) (r : Nat) (x : Region) : (s.setRegion r x).mxcs = s.mxcs := rfl
@[simp] theorem State.setRegion_engines (s : State) (r : Nat) (x : Region) : (s.setRegion r x).engines = s.engines := rfl
@[simp] theorem State.setRegion_entries (s : State) (r : Nat) (x : Region) : (s.setRegion r x).entries = s.entries := rfl
@[simp] theorem State.setRegion_chans (s : State) (r : Nat) (x : Region) : (s.setRegion r x).chans = s.chans := rfl
@[simp] theorem State.setRegion_mem (s : State) (r : Nat) (x : Region) : (s.setRegion r x).mem = s.mem := rfl
@[simp] theorem State.setRegion_faultLog (s : State) (r : Nat) (x : Region) : (s.setRegion r x).faultLog = s.faultLog := rfl
@[simp] theorem State.setRegion_late (s : State) (r : Nat) (x : Region) : (s.setRegion r x).late = s.late := rfl
@[simp] theorem State.setRegion_faultNext (s : State) (r : Nat) (x : Region) : (s.setRegion r x).faultNext = s.faultNext := rfl
@[simp] theorem State.setRegion_overcast (s : State) (r : Nat) (x : Region) : (s.setRegion r x).overcast = s.overcast := rfl
@[simp] theorem State.setRegion_sv (s : State) (r : Nat) (x : Region) : (s.setRegion r x).sv = s.sv := rfl
@[simp] theorem State.setRegion_mirrorTx (s : State) (r : Nat) (x : Region) : (s.setRegion r x).mirrorTx = s.mirrorTx := rfl
@[simp] theorem State.setRegion_srcs (s : State) (r : Nat) (x : Region) : (s.setRegion r x).srcs = s.srcs := rfl
@[simp] theorem State.setRegion_fh (s : State) (r : Nat) (x : Region) : (s.setRegion r x).fh = s.fh := rfl
@[simp] theorem State.setRegion_opt (s : State) (r : Nat) (x : Region) : (s.setRegion r x).opt = s.opt := rfl
@[simp] theorem State.setRegion_power (s : State) (r : Nat) (x : Region) : (s.setRegion r x).power = s.power := rfl
@[simp] theorem State.setRegion_supply (s : State) (r : Nat) (x : Region) : (s.setRegion r x).supply = s.supply := rfl
@[simp] theorem State.setRegion_flash (s : State) (r : Nat) (x : Region) : (s.setRegion r x).flash = s.flash := rfl

/-! ## State.setLane changes only `fh` -/

@[simp] theorem State.setLane_pending (s : State) (n : Nat) (x : Lane) : (s.setLane n x).pending = s.pending := rfl
@[simp] theorem State.setLane_free (s : State) (n : Nat) (x : Lane) : (s.setLane n x).free = s.free := rfl
@[simp] theorem State.setLane_out (s : State) (n : Nat) (x : Lane) : (s.setLane n x).out = s.out := rfl
@[simp] theorem State.setLane_held (s : State) (n : Nat) (x : Lane) : (s.setLane n x).held = s.held := rfl
@[simp] theorem State.setLane_part (s : State) (n : Nat) (x : Lane) : (s.setLane n x).part = s.part := rfl
@[simp] theorem State.setLane_time (s : State) (n : Nat) (x : Lane) : (s.setLane n x).time = s.time := rfl
@[simp] theorem State.setLane_obj (s : State) (n : Nat) (x : Lane) : (s.setLane n x).obj = s.obj := rfl
@[simp] theorem State.setLane_cleip (s : State) (n : Nat) (x : Lane) : (s.setLane n x).cleip = s.cleip := rfl
@[simp] theorem State.setLane_fport (s : State) (n : Nat) (x : Lane) : (s.setLane n x).fport = s.fport := rfl
@[simp] theorem State.setLane_audit (s : State) (n : Nat) (x : Lane) : (s.setLane n x).audit = s.audit := rfl
@[simp] theorem State.setLane_keys (s : State) (n : Nat) (x : Lane) : (s.setLane n x).keys = s.keys := rfl
@[simp] theorem State.setLane_epoch (s : State) (n : Nat) (x : Lane) : (s.setLane n x).epoch = s.epoch := rfl
@[simp] theorem State.setLane_turn (s : State) (n : Nat) (x : Lane) : (s.setLane n x).turn = s.turn := rfl
@[simp] theorem State.setLane_queues (s : State) (n : Nat) (x : Lane) : (s.setLane n x).queues = s.queues := rfl
@[simp] theorem State.setLane_aon2 (s : State) (n : Nat) (x : Lane) : (s.setLane n x).aon2 = s.aon2 := rfl
@[simp] theorem State.setLane_ports (s : State) (n : Nat) (x : Lane) : (s.setLane n x).ports = s.ports := rfl
@[simp] theorem State.setLane_asms (s : State) (n : Nat) (x : Lane) : (s.setLane n x).asms = s.asms := rfl
@[simp] theorem State.setLane_jobs (s : State) (n : Nat) (x : Lane) : (s.setLane n x).jobs = s.jobs := rfl
@[simp] theorem State.setLane_nextOrder (s : State) (n : Nat) (x : Lane) : (s.setLane n x).nextOrder = s.nextOrder := rfl
@[simp] theorem State.setLane_graphs (s : State) (n : Nat) (x : Lane) : (s.setLane n x).graphs = s.graphs := rfl
@[simp] theorem State.setLane_hmap (s : State) (n : Nat) (x : Lane) : (s.setLane n x).hmap = s.hmap := rfl
@[simp] theorem State.setLane_vers (s : State) (n : Nat) (x : Lane) : (s.setLane n x).vers = s.vers := rfl
@[simp] theorem State.setLane_nextVer (s : State) (n : Nat) (x : Lane) : (s.setLane n x).nextVer = s.nextVer := rfl
@[simp] theorem State.setLane_pools (s : State) (n : Nat) (x : Lane) : (s.setLane n x).pools = s.pools := rfl
@[simp] theorem State.setLane_ja (s : State) (n : Nat) (x : Lane) : (s.setLane n x).ja = s.ja := rfl
@[simp] theorem State.setLane_jb (s : State) (n : Nat) (x : Lane) : (s.setLane n x).jb = s.jb := rfl
@[simp] theorem State.setLane_jReserved (s : State) (n : Nat) (x : Lane) : (s.setLane n x).jReserved = s.jReserved := rfl
@[simp] theorem State.setLane_rReserved (s : State) (n : Nat) (x : Lane) : (s.setLane n x).rReserved = s.rReserved := rfl
@[simp] theorem State.setLane_rLinger (s : State) (n : Nat) (x : Lane) : (s.setLane n x).rLinger = s.rLinger := rfl
@[simp] theorem State.setLane_iReserved (s : State) (n : Nat) (x : Lane) : (s.setLane n x).iReserved = s.iReserved := rfl
@[simp] theorem State.setLane_lastGrant (s : State) (n : Nat) (x : Lane) : (s.setLane n x).lastGrant = s.lastGrant := rfl
@[simp] theorem State.setLane_lastRefresh (s : State) (n : Nat) (x : Lane) : (s.setLane n x).lastRefresh = s.lastRefresh := rfl
@[simp] theorem State.setLane_cellCfg (s : State) (n : Nat) (x : Lane) : (s.setLane n x).cellCfg = s.cellCfg := rfl
@[simp] theorem State.setLane_cellSt (s : State) (n : Nat) (x : Lane) : (s.setLane n x).cellSt = s.cellSt := rfl
@[simp] theorem State.setLane_budgets (s : State) (n : Nat) (x : Lane) : (s.setLane n x).budgets = s.budgets := rfl
@[simp] theorem State.setLane_lastLearn (s : State) (n : Nat) (x : Lane) : (s.setLane n x).lastLearn = s.lastLearn := rfl
@[simp] theorem State.setLane_lastDvfs (s : State) (n : Nat) (x : Lane) : (s.setLane n x).lastDvfs = s.lastDvfs := rfl
@[simp] theorem State.setLane_clusters (s : State) (n : Nat) (x : Lane) : (s.setLane n x).clusters = s.clusters := rfl
@[simp] theorem State.setLane_rails (s : State) (n : Nat) (x : Lane) : (s.setLane n x).rails = s.rails := rfl
@[simp] theorem State.setLane_cores (s : State) (n : Nat) (x : Lane) : (s.setLane n x).cores = s.cores := rfl
@[simp] theorem State.setLane_mxcs (s : State) (n : Nat) (x : Lane) : (s.setLane n x).mxcs = s.mxcs := rfl
@[simp] theorem State.setLane_engines (s : State) (n : Nat) (x : Lane) : (s.setLane n x).engines = s.engines := rfl
@[simp] theorem State.setLane_entries (s : State) (n : Nat) (x : Lane) : (s.setLane n x).entries = s.entries := rfl
@[simp] theorem State.setLane_chans (s : State) (n : Nat) (x : Lane) : (s.setLane n x).chans = s.chans := rfl
@[simp] theorem State.setLane_mem (s : State) (n : Nat) (x : Lane) : (s.setLane n x).mem = s.mem := rfl
@[simp] theorem State.setLane_regions (s : State) (n : Nat) (x : Lane) : (s.setLane n x).regions = s.regions := rfl
@[simp] theorem State.setLane_faultLog (s : State) (n : Nat) (x : Lane) : (s.setLane n x).faultLog = s.faultLog := rfl
@[simp] theorem State.setLane_late (s : State) (n : Nat) (x : Lane) : (s.setLane n x).late = s.late := rfl
@[simp] theorem State.setLane_faultNext (s : State) (n : Nat) (x : Lane) : (s.setLane n x).faultNext = s.faultNext := rfl
@[simp] theorem State.setLane_overcast (s : State) (n : Nat) (x : Lane) : (s.setLane n x).overcast = s.overcast := rfl
@[simp] theorem State.setLane_sv (s : State) (n : Nat) (x : Lane) : (s.setLane n x).sv = s.sv := rfl
@[simp] theorem State.setLane_mirrorTx (s : State) (n : Nat) (x : Lane) : (s.setLane n x).mirrorTx = s.mirrorTx := rfl
@[simp] theorem State.setLane_srcs (s : State) (n : Nat) (x : Lane) : (s.setLane n x).srcs = s.srcs := rfl
@[simp] theorem State.setLane_opt (s : State) (n : Nat) (x : Lane) : (s.setLane n x).opt = s.opt := rfl
@[simp] theorem State.setLane_power (s : State) (n : Nat) (x : Lane) : (s.setLane n x).power = s.power := rfl
@[simp] theorem State.setLane_supply (s : State) (n : Nat) (x : Lane) : (s.setLane n x).supply = s.supply := rfl
@[simp] theorem State.setLane_flash (s : State) (n : Nat) (x : Lane) : (s.setLane n x).flash = s.flash := rfl

/-! ## State.setLink changes only `fh` -/

@[simp] theorem State.setLink_pending (s : State) (g : Nat) (x : Link) : (s.setLink g x).pending = s.pending := rfl
@[simp] theorem State.setLink_free (s : State) (g : Nat) (x : Link) : (s.setLink g x).free = s.free := rfl
@[simp] theorem State.setLink_out (s : State) (g : Nat) (x : Link) : (s.setLink g x).out = s.out := rfl
@[simp] theorem State.setLink_held (s : State) (g : Nat) (x : Link) : (s.setLink g x).held = s.held := rfl
@[simp] theorem State.setLink_part (s : State) (g : Nat) (x : Link) : (s.setLink g x).part = s.part := rfl
@[simp] theorem State.setLink_time (s : State) (g : Nat) (x : Link) : (s.setLink g x).time = s.time := rfl
@[simp] theorem State.setLink_obj (s : State) (g : Nat) (x : Link) : (s.setLink g x).obj = s.obj := rfl
@[simp] theorem State.setLink_cleip (s : State) (g : Nat) (x : Link) : (s.setLink g x).cleip = s.cleip := rfl
@[simp] theorem State.setLink_fport (s : State) (g : Nat) (x : Link) : (s.setLink g x).fport = s.fport := rfl
@[simp] theorem State.setLink_audit (s : State) (g : Nat) (x : Link) : (s.setLink g x).audit = s.audit := rfl
@[simp] theorem State.setLink_keys (s : State) (g : Nat) (x : Link) : (s.setLink g x).keys = s.keys := rfl
@[simp] theorem State.setLink_epoch (s : State) (g : Nat) (x : Link) : (s.setLink g x).epoch = s.epoch := rfl
@[simp] theorem State.setLink_turn (s : State) (g : Nat) (x : Link) : (s.setLink g x).turn = s.turn := rfl
@[simp] theorem State.setLink_queues (s : State) (g : Nat) (x : Link) : (s.setLink g x).queues = s.queues := rfl
@[simp] theorem State.setLink_aon2 (s : State) (g : Nat) (x : Link) : (s.setLink g x).aon2 = s.aon2 := rfl
@[simp] theorem State.setLink_ports (s : State) (g : Nat) (x : Link) : (s.setLink g x).ports = s.ports := rfl
@[simp] theorem State.setLink_asms (s : State) (g : Nat) (x : Link) : (s.setLink g x).asms = s.asms := rfl
@[simp] theorem State.setLink_jobs (s : State) (g : Nat) (x : Link) : (s.setLink g x).jobs = s.jobs := rfl
@[simp] theorem State.setLink_nextOrder (s : State) (g : Nat) (x : Link) : (s.setLink g x).nextOrder = s.nextOrder := rfl
@[simp] theorem State.setLink_graphs (s : State) (g : Nat) (x : Link) : (s.setLink g x).graphs = s.graphs := rfl
@[simp] theorem State.setLink_hmap (s : State) (g : Nat) (x : Link) : (s.setLink g x).hmap = s.hmap := rfl
@[simp] theorem State.setLink_vers (s : State) (g : Nat) (x : Link) : (s.setLink g x).vers = s.vers := rfl
@[simp] theorem State.setLink_nextVer (s : State) (g : Nat) (x : Link) : (s.setLink g x).nextVer = s.nextVer := rfl
@[simp] theorem State.setLink_pools (s : State) (g : Nat) (x : Link) : (s.setLink g x).pools = s.pools := rfl
@[simp] theorem State.setLink_ja (s : State) (g : Nat) (x : Link) : (s.setLink g x).ja = s.ja := rfl
@[simp] theorem State.setLink_jb (s : State) (g : Nat) (x : Link) : (s.setLink g x).jb = s.jb := rfl
@[simp] theorem State.setLink_jReserved (s : State) (g : Nat) (x : Link) : (s.setLink g x).jReserved = s.jReserved := rfl
@[simp] theorem State.setLink_rReserved (s : State) (g : Nat) (x : Link) : (s.setLink g x).rReserved = s.rReserved := rfl
@[simp] theorem State.setLink_rLinger (s : State) (g : Nat) (x : Link) : (s.setLink g x).rLinger = s.rLinger := rfl
@[simp] theorem State.setLink_iReserved (s : State) (g : Nat) (x : Link) : (s.setLink g x).iReserved = s.iReserved := rfl
@[simp] theorem State.setLink_lastGrant (s : State) (g : Nat) (x : Link) : (s.setLink g x).lastGrant = s.lastGrant := rfl
@[simp] theorem State.setLink_lastRefresh (s : State) (g : Nat) (x : Link) : (s.setLink g x).lastRefresh = s.lastRefresh := rfl
@[simp] theorem State.setLink_cellCfg (s : State) (g : Nat) (x : Link) : (s.setLink g x).cellCfg = s.cellCfg := rfl
@[simp] theorem State.setLink_cellSt (s : State) (g : Nat) (x : Link) : (s.setLink g x).cellSt = s.cellSt := rfl
@[simp] theorem State.setLink_budgets (s : State) (g : Nat) (x : Link) : (s.setLink g x).budgets = s.budgets := rfl
@[simp] theorem State.setLink_lastLearn (s : State) (g : Nat) (x : Link) : (s.setLink g x).lastLearn = s.lastLearn := rfl
@[simp] theorem State.setLink_lastDvfs (s : State) (g : Nat) (x : Link) : (s.setLink g x).lastDvfs = s.lastDvfs := rfl
@[simp] theorem State.setLink_clusters (s : State) (g : Nat) (x : Link) : (s.setLink g x).clusters = s.clusters := rfl
@[simp] theorem State.setLink_rails (s : State) (g : Nat) (x : Link) : (s.setLink g x).rails = s.rails := rfl
@[simp] theorem State.setLink_cores (s : State) (g : Nat) (x : Link) : (s.setLink g x).cores = s.cores := rfl
@[simp] theorem State.setLink_mxcs (s : State) (g : Nat) (x : Link) : (s.setLink g x).mxcs = s.mxcs := rfl
@[simp] theorem State.setLink_engines (s : State) (g : Nat) (x : Link) : (s.setLink g x).engines = s.engines := rfl
@[simp] theorem State.setLink_entries (s : State) (g : Nat) (x : Link) : (s.setLink g x).entries = s.entries := rfl
@[simp] theorem State.setLink_chans (s : State) (g : Nat) (x : Link) : (s.setLink g x).chans = s.chans := rfl
@[simp] theorem State.setLink_mem (s : State) (g : Nat) (x : Link) : (s.setLink g x).mem = s.mem := rfl
@[simp] theorem State.setLink_regions (s : State) (g : Nat) (x : Link) : (s.setLink g x).regions = s.regions := rfl
@[simp] theorem State.setLink_faultLog (s : State) (g : Nat) (x : Link) : (s.setLink g x).faultLog = s.faultLog := rfl
@[simp] theorem State.setLink_late (s : State) (g : Nat) (x : Link) : (s.setLink g x).late = s.late := rfl
@[simp] theorem State.setLink_faultNext (s : State) (g : Nat) (x : Link) : (s.setLink g x).faultNext = s.faultNext := rfl
@[simp] theorem State.setLink_overcast (s : State) (g : Nat) (x : Link) : (s.setLink g x).overcast = s.overcast := rfl
@[simp] theorem State.setLink_sv (s : State) (g : Nat) (x : Link) : (s.setLink g x).sv = s.sv := rfl
@[simp] theorem State.setLink_mirrorTx (s : State) (g : Nat) (x : Link) : (s.setLink g x).mirrorTx = s.mirrorTx := rfl
@[simp] theorem State.setLink_srcs (s : State) (g : Nat) (x : Link) : (s.setLink g x).srcs = s.srcs := rfl
@[simp] theorem State.setLink_opt (s : State) (g : Nat) (x : Link) : (s.setLink g x).opt = s.opt := rfl
@[simp] theorem State.setLink_power (s : State) (g : Nat) (x : Link) : (s.setLink g x).power = s.power := rfl
@[simp] theorem State.setLink_supply (s : State) (g : Nat) (x : Link) : (s.setLink g x).supply = s.supply := rfl
@[simp] theorem State.setLink_flash (s : State) (g : Nat) (x : Link) : (s.setLink g x).flash = s.flash := rfl

/-! ## State.drawNat changes only `free` -/

@[simp] theorem State.drawNat_pending (s : State) : (s.drawNat.2).pending = s.pending := rfl
@[simp] theorem State.drawNat_out (s : State) : (s.drawNat.2).out = s.out := rfl
@[simp] theorem State.drawNat_held (s : State) : (s.drawNat.2).held = s.held := rfl
@[simp] theorem State.drawNat_part (s : State) : (s.drawNat.2).part = s.part := rfl
@[simp] theorem State.drawNat_time (s : State) : (s.drawNat.2).time = s.time := rfl
@[simp] theorem State.drawNat_obj (s : State) : (s.drawNat.2).obj = s.obj := rfl
@[simp] theorem State.drawNat_cleip (s : State) : (s.drawNat.2).cleip = s.cleip := rfl
@[simp] theorem State.drawNat_fport (s : State) : (s.drawNat.2).fport = s.fport := rfl
@[simp] theorem State.drawNat_audit (s : State) : (s.drawNat.2).audit = s.audit := rfl
@[simp] theorem State.drawNat_keys (s : State) : (s.drawNat.2).keys = s.keys := rfl
@[simp] theorem State.drawNat_epoch (s : State) : (s.drawNat.2).epoch = s.epoch := rfl
@[simp] theorem State.drawNat_turn (s : State) : (s.drawNat.2).turn = s.turn := rfl
@[simp] theorem State.drawNat_queues (s : State) : (s.drawNat.2).queues = s.queues := rfl
@[simp] theorem State.drawNat_aon2 (s : State) : (s.drawNat.2).aon2 = s.aon2 := rfl
@[simp] theorem State.drawNat_ports (s : State) : (s.drawNat.2).ports = s.ports := rfl
@[simp] theorem State.drawNat_asms (s : State) : (s.drawNat.2).asms = s.asms := rfl
@[simp] theorem State.drawNat_jobs (s : State) : (s.drawNat.2).jobs = s.jobs := rfl
@[simp] theorem State.drawNat_nextOrder (s : State) : (s.drawNat.2).nextOrder = s.nextOrder := rfl
@[simp] theorem State.drawNat_graphs (s : State) : (s.drawNat.2).graphs = s.graphs := rfl
@[simp] theorem State.drawNat_hmap (s : State) : (s.drawNat.2).hmap = s.hmap := rfl
@[simp] theorem State.drawNat_vers (s : State) : (s.drawNat.2).vers = s.vers := rfl
@[simp] theorem State.drawNat_nextVer (s : State) : (s.drawNat.2).nextVer = s.nextVer := rfl
@[simp] theorem State.drawNat_pools (s : State) : (s.drawNat.2).pools = s.pools := rfl
@[simp] theorem State.drawNat_ja (s : State) : (s.drawNat.2).ja = s.ja := rfl
@[simp] theorem State.drawNat_jb (s : State) : (s.drawNat.2).jb = s.jb := rfl
@[simp] theorem State.drawNat_jReserved (s : State) : (s.drawNat.2).jReserved = s.jReserved := rfl
@[simp] theorem State.drawNat_rReserved (s : State) : (s.drawNat.2).rReserved = s.rReserved := rfl
@[simp] theorem State.drawNat_rLinger (s : State) : (s.drawNat.2).rLinger = s.rLinger := rfl
@[simp] theorem State.drawNat_iReserved (s : State) : (s.drawNat.2).iReserved = s.iReserved := rfl
@[simp] theorem State.drawNat_lastGrant (s : State) : (s.drawNat.2).lastGrant = s.lastGrant := rfl
@[simp] theorem State.drawNat_lastRefresh (s : State) : (s.drawNat.2).lastRefresh = s.lastRefresh := rfl
@[simp] theorem State.drawNat_cellCfg (s : State) : (s.drawNat.2).cellCfg = s.cellCfg := rfl
@[simp] theorem State.drawNat_cellSt (s : State) : (s.drawNat.2).cellSt = s.cellSt := rfl
@[simp] theorem State.drawNat_budgets (s : State) : (s.drawNat.2).budgets = s.budgets := rfl
@[simp] theorem State.drawNat_lastLearn (s : State) : (s.drawNat.2).lastLearn = s.lastLearn := rfl
@[simp] theorem State.drawNat_lastDvfs (s : State) : (s.drawNat.2).lastDvfs = s.lastDvfs := rfl
@[simp] theorem State.drawNat_clusters (s : State) : (s.drawNat.2).clusters = s.clusters := rfl
@[simp] theorem State.drawNat_rails (s : State) : (s.drawNat.2).rails = s.rails := rfl
@[simp] theorem State.drawNat_cores (s : State) : (s.drawNat.2).cores = s.cores := rfl
@[simp] theorem State.drawNat_mxcs (s : State) : (s.drawNat.2).mxcs = s.mxcs := rfl
@[simp] theorem State.drawNat_engines (s : State) : (s.drawNat.2).engines = s.engines := rfl
@[simp] theorem State.drawNat_entries (s : State) : (s.drawNat.2).entries = s.entries := rfl
@[simp] theorem State.drawNat_chans (s : State) : (s.drawNat.2).chans = s.chans := rfl
@[simp] theorem State.drawNat_mem (s : State) : (s.drawNat.2).mem = s.mem := rfl
@[simp] theorem State.drawNat_regions (s : State) : (s.drawNat.2).regions = s.regions := rfl
@[simp] theorem State.drawNat_faultLog (s : State) : (s.drawNat.2).faultLog = s.faultLog := rfl
@[simp] theorem State.drawNat_late (s : State) : (s.drawNat.2).late = s.late := rfl
@[simp] theorem State.drawNat_faultNext (s : State) : (s.drawNat.2).faultNext = s.faultNext := rfl
@[simp] theorem State.drawNat_overcast (s : State) : (s.drawNat.2).overcast = s.overcast := rfl
@[simp] theorem State.drawNat_sv (s : State) : (s.drawNat.2).sv = s.sv := rfl
@[simp] theorem State.drawNat_mirrorTx (s : State) : (s.drawNat.2).mirrorTx = s.mirrorTx := rfl
@[simp] theorem State.drawNat_srcs (s : State) : (s.drawNat.2).srcs = s.srcs := rfl
@[simp] theorem State.drawNat_fh (s : State) : (s.drawNat.2).fh = s.fh := rfl
@[simp] theorem State.drawNat_opt (s : State) : (s.drawNat.2).opt = s.opt := rfl
@[simp] theorem State.drawNat_power (s : State) : (s.drawNat.2).power = s.power := rfl
@[simp] theorem State.drawNat_supply (s : State) : (s.drawNat.2).supply = s.supply := rfl
@[simp] theorem State.drawNat_flash (s : State) : (s.drawNat.2).flash = s.flash := rfl

/-! ## State.drawBits changes only `free` -/

@[simp] theorem State.drawBits_pending (s : State) (w : Nat) : ((s.drawBits w).2).pending = s.pending := rfl
@[simp] theorem State.drawBits_out (s : State) (w : Nat) : ((s.drawBits w).2).out = s.out := rfl
@[simp] theorem State.drawBits_held (s : State) (w : Nat) : ((s.drawBits w).2).held = s.held := rfl
@[simp] theorem State.drawBits_part (s : State) (w : Nat) : ((s.drawBits w).2).part = s.part := rfl
@[simp] theorem State.drawBits_time (s : State) (w : Nat) : ((s.drawBits w).2).time = s.time := rfl
@[simp] theorem State.drawBits_obj (s : State) (w : Nat) : ((s.drawBits w).2).obj = s.obj := rfl
@[simp] theorem State.drawBits_cleip (s : State) (w : Nat) : ((s.drawBits w).2).cleip = s.cleip := rfl
@[simp] theorem State.drawBits_fport (s : State) (w : Nat) : ((s.drawBits w).2).fport = s.fport := rfl
@[simp] theorem State.drawBits_audit (s : State) (w : Nat) : ((s.drawBits w).2).audit = s.audit := rfl
@[simp] theorem State.drawBits_keys (s : State) (w : Nat) : ((s.drawBits w).2).keys = s.keys := rfl
@[simp] theorem State.drawBits_epoch (s : State) (w : Nat) : ((s.drawBits w).2).epoch = s.epoch := rfl
@[simp] theorem State.drawBits_turn (s : State) (w : Nat) : ((s.drawBits w).2).turn = s.turn := rfl
@[simp] theorem State.drawBits_queues (s : State) (w : Nat) : ((s.drawBits w).2).queues = s.queues := rfl
@[simp] theorem State.drawBits_aon2 (s : State) (w : Nat) : ((s.drawBits w).2).aon2 = s.aon2 := rfl
@[simp] theorem State.drawBits_ports (s : State) (w : Nat) : ((s.drawBits w).2).ports = s.ports := rfl
@[simp] theorem State.drawBits_asms (s : State) (w : Nat) : ((s.drawBits w).2).asms = s.asms := rfl
@[simp] theorem State.drawBits_jobs (s : State) (w : Nat) : ((s.drawBits w).2).jobs = s.jobs := rfl
@[simp] theorem State.drawBits_nextOrder (s : State) (w : Nat) : ((s.drawBits w).2).nextOrder = s.nextOrder := rfl
@[simp] theorem State.drawBits_graphs (s : State) (w : Nat) : ((s.drawBits w).2).graphs = s.graphs := rfl
@[simp] theorem State.drawBits_hmap (s : State) (w : Nat) : ((s.drawBits w).2).hmap = s.hmap := rfl
@[simp] theorem State.drawBits_vers (s : State) (w : Nat) : ((s.drawBits w).2).vers = s.vers := rfl
@[simp] theorem State.drawBits_nextVer (s : State) (w : Nat) : ((s.drawBits w).2).nextVer = s.nextVer := rfl
@[simp] theorem State.drawBits_pools (s : State) (w : Nat) : ((s.drawBits w).2).pools = s.pools := rfl
@[simp] theorem State.drawBits_ja (s : State) (w : Nat) : ((s.drawBits w).2).ja = s.ja := rfl
@[simp] theorem State.drawBits_jb (s : State) (w : Nat) : ((s.drawBits w).2).jb = s.jb := rfl
@[simp] theorem State.drawBits_jReserved (s : State) (w : Nat) : ((s.drawBits w).2).jReserved = s.jReserved := rfl
@[simp] theorem State.drawBits_rReserved (s : State) (w : Nat) : ((s.drawBits w).2).rReserved = s.rReserved := rfl
@[simp] theorem State.drawBits_rLinger (s : State) (w : Nat) : ((s.drawBits w).2).rLinger = s.rLinger := rfl
@[simp] theorem State.drawBits_iReserved (s : State) (w : Nat) : ((s.drawBits w).2).iReserved = s.iReserved := rfl
@[simp] theorem State.drawBits_lastGrant (s : State) (w : Nat) : ((s.drawBits w).2).lastGrant = s.lastGrant := rfl
@[simp] theorem State.drawBits_lastRefresh (s : State) (w : Nat) : ((s.drawBits w).2).lastRefresh = s.lastRefresh := rfl
@[simp] theorem State.drawBits_cellCfg (s : State) (w : Nat) : ((s.drawBits w).2).cellCfg = s.cellCfg := rfl
@[simp] theorem State.drawBits_cellSt (s : State) (w : Nat) : ((s.drawBits w).2).cellSt = s.cellSt := rfl
@[simp] theorem State.drawBits_budgets (s : State) (w : Nat) : ((s.drawBits w).2).budgets = s.budgets := rfl
@[simp] theorem State.drawBits_lastLearn (s : State) (w : Nat) : ((s.drawBits w).2).lastLearn = s.lastLearn := rfl
@[simp] theorem State.drawBits_lastDvfs (s : State) (w : Nat) : ((s.drawBits w).2).lastDvfs = s.lastDvfs := rfl
@[simp] theorem State.drawBits_clusters (s : State) (w : Nat) : ((s.drawBits w).2).clusters = s.clusters := rfl
@[simp] theorem State.drawBits_rails (s : State) (w : Nat) : ((s.drawBits w).2).rails = s.rails := rfl
@[simp] theorem State.drawBits_cores (s : State) (w : Nat) : ((s.drawBits w).2).cores = s.cores := rfl
@[simp] theorem State.drawBits_mxcs (s : State) (w : Nat) : ((s.drawBits w).2).mxcs = s.mxcs := rfl
@[simp] theorem State.drawBits_engines (s : State) (w : Nat) : ((s.drawBits w).2).engines = s.engines := rfl
@[simp] theorem State.drawBits_entries (s : State) (w : Nat) : ((s.drawBits w).2).entries = s.entries := rfl
@[simp] theorem State.drawBits_chans (s : State) (w : Nat) : ((s.drawBits w).2).chans = s.chans := rfl
@[simp] theorem State.drawBits_mem (s : State) (w : Nat) : ((s.drawBits w).2).mem = s.mem := rfl
@[simp] theorem State.drawBits_regions (s : State) (w : Nat) : ((s.drawBits w).2).regions = s.regions := rfl
@[simp] theorem State.drawBits_faultLog (s : State) (w : Nat) : ((s.drawBits w).2).faultLog = s.faultLog := rfl
@[simp] theorem State.drawBits_late (s : State) (w : Nat) : ((s.drawBits w).2).late = s.late := rfl
@[simp] theorem State.drawBits_faultNext (s : State) (w : Nat) : ((s.drawBits w).2).faultNext = s.faultNext := rfl
@[simp] theorem State.drawBits_overcast (s : State) (w : Nat) : ((s.drawBits w).2).overcast = s.overcast := rfl
@[simp] theorem State.drawBits_sv (s : State) (w : Nat) : ((s.drawBits w).2).sv = s.sv := rfl
@[simp] theorem State.drawBits_mirrorTx (s : State) (w : Nat) : ((s.drawBits w).2).mirrorTx = s.mirrorTx := rfl
@[simp] theorem State.drawBits_srcs (s : State) (w : Nat) : ((s.drawBits w).2).srcs = s.srcs := rfl
@[simp] theorem State.drawBits_fh (s : State) (w : Nat) : ((s.drawBits w).2).fh = s.fh := rfl
@[simp] theorem State.drawBits_opt (s : State) (w : Nat) : ((s.drawBits w).2).opt = s.opt := rfl
@[simp] theorem State.drawBits_power (s : State) (w : Nat) : ((s.drawBits w).2).power = s.power := rfl
@[simp] theorem State.drawBits_supply (s : State) (w : Nat) : ((s.drawBits w).2).supply = s.supply := rfl
@[simp] theorem State.drawBits_flash (s : State) (w : Nat) : ((s.drawBits w).2).flash = s.flash := rfl

/-! ## A write of a unit and the reads after it -/

/-- A write of one queue leaves what an unlisted one reads as. -/
@[simp] theorem freshQueue_setQueue (s : State) (q j : Nat) (x : Queue) : freshQueue (s.setQueue q x) j = freshQueue s j := rfl

@[simp] theorem State.core_setCore (s : State) (c : Nat) (x : Core) : (s.setCore c x).core c = x := by
  simp [State.core, State.setCore]
theorem State.core_setCore_ne (s : State) (c j : Nat) (x : Core) (h : j ≠ c) : (s.setCore c x).core j = s.core j :=
  kgetD_kset_ne _ _ _ _ _ h
@[simp] theorem State.setCore_setCore (s : State) (c : Nat) (x y : Core) : (s.setCore c x).setCore c y = s.setCore c y := by
  simp [State.setCore]

@[simp] theorem State.mxc_setMxc (s : State) (m : Nat) (x : Mxc) : (s.setMxc m x).mxc m = x := by
  simp [State.mxc, State.setMxc]
theorem State.mxc_setMxc_ne (s : State) (m j : Nat) (x : Mxc) (h : j ≠ m) : (s.setMxc m x).mxc j = s.mxc j :=
  kgetD_kset_ne _ _ _ _ _ h
@[simp] theorem State.setMxc_setMxc (s : State) (m : Nat) (x y : Mxc) : (s.setMxc m x).setMxc m y = s.setMxc m y := by
  simp [State.setMxc]

@[simp] theorem State.cluster_setCluster (s : State) (k : Nat) (x : Cluster) : (s.setCluster k x).cluster k = x := by
  simp [State.cluster, State.setCluster]
theorem State.cluster_setCluster_ne (s : State) (k j : Nat) (x : Cluster) (h : j ≠ k) : (s.setCluster k x).cluster j = s.cluster j :=
  kgetD_kset_ne _ _ _ _ _ h
@[simp] theorem State.setCluster_setCluster (s : State) (k : Nat) (x y : Cluster) : (s.setCluster k x).setCluster k y = s.setCluster k y := by
  simp [State.setCluster]

@[simp] theorem State.queue_setQueue (s : State) (q : Nat) (x : Queue) : (s.setQueue q x).queue q = x := by
  simp [State.queue, State.setQueue]
theorem State.queue_setQueue_ne (s : State) (q j : Nat) (x : Queue) (h : j ≠ q) : (s.setQueue q x).queue j = s.queue j :=
  kgetD_kset_ne _ _ _ _ _ h
@[simp] theorem State.setQueue_setQueue (s : State) (q : Nat) (x y : Queue) : (s.setQueue q x).setQueue q y = s.setQueue q y := by
  simp [State.setQueue]

@[simp] theorem State.port_setPort (s : State) (p : Nat) (x : Port) : (s.setPort p x).port p = x := by
  simp [State.port, State.setPort]
theorem State.port_setPort_ne (s : State) (p j : Nat) (x : Port) (h : j ≠ p) : (s.setPort p x).port j = s.port j :=
  kgetD_kset_ne _ _ _ _ _ h
@[simp] theorem State.setPort_setPort (s : State) (p : Nat) (x y : Port) : (s.setPort p x).setPort p y = s.setPort p y := by
  simp [State.setPort]

@[simp] theorem State.chan_setChan (s : State) (c : Nat) (x : Chan) : (s.setChan c x).chan c = x := by
  simp [State.chan, State.setChan]
theorem State.chan_setChan_ne (s : State) (c j : Nat) (x : Chan) (h : j ≠ c) : (s.setChan c x).chan j = s.chan j :=
  kgetD_kset_ne _ _ _ _ _ h
@[simp] theorem State.setChan_setChan (s : State) (c : Nat) (x y : Chan) : (s.setChan c x).setChan c y = s.setChan c y := by
  simp [State.setChan]

@[simp] theorem State.region_setRegion (s : State) (r : Nat) (x : Region) : (s.setRegion r x).region r = x := by
  simp [State.region, State.setRegion]
theorem State.region_setRegion_ne (s : State) (r j : Nat) (x : Region) (h : j ≠ r) : (s.setRegion r x).region j = s.region j :=
  kgetD_kset_ne _ _ _ _ _ h
@[simp] theorem State.setRegion_setRegion (s : State) (r : Nat) (x y : Region) : (s.setRegion r x).setRegion r y = s.setRegion r y := by
  simp [State.setRegion]

@[simp] theorem State.lane_setLane (s : State) (n : Nat) (x : Lane) : (s.setLane n x).lane n = x := by
  simp [State.lane, State.setLane]
theorem State.lane_setLane_ne (s : State) (n j : Nat) (x : Lane) (h : j ≠ n) : (s.setLane n x).lane j = s.lane j :=
  kgetD_kset_ne _ _ _ _ _ h
@[simp] theorem State.setLane_setLane (s : State) (n : Nat) (x y : Lane) : (s.setLane n x).setLane n y = s.setLane n y := by
  simp [State.setLane]

@[simp] theorem State.link_setLink (s : State) (g : Nat) (x : Link) : (s.setLink g x).link g = x := by
  simp [State.link, State.setLink]
theorem State.link_setLink_ne (s : State) (g j : Nat) (x : Link) (h : j ≠ g) : (s.setLink g x).link j = s.link j :=
  kgetD_kset_ne _ _ _ _ _ h
@[simp] theorem State.setLink_setLink (s : State) (g : Nat) (x y : Link) : (s.setLink g x).setLink g y = s.setLink g y := by
  simp [State.setLink]

/-- A scalar object reads the value written. -/
@[simp] theorem State.oval_setOval (s : State) (k v : Nat) : (s.setOval k v).oval k = v := by
  by_cases h : v = odflt s k
  · have : odflt (s.setOval k v) k = odflt s k := rfl
    simp only [State.oval, this]
    simp [State.setOval, h]
  · simp [State.setOval, State.oval, h]

/-- A write of one scalar object leaves every other as it reads. -/
theorem State.oval_setOval_ne (s : State) (k j v : Nat) (h : j ≠ k) : (s.setOval k v).oval j = s.oval j := by
  have : odflt (s.setOval k v) j = odflt s j := rfl
  simp only [State.oval, this]
  by_cases g : v = odflt s k <;> simp [State.setOval, g, kget_kset_ne _ _ _ _ h, kget_kdel_ne _ _ _ h]

/-- A counter reads its value plus the events, at most 0xFFFF_FFFF (R581). -/
@[simp] theorem State.oval_bump (s : State) (k n : Nat) : (s.bump k n).oval k = min (s.oval k + n) 0xFFFFFFFF := by
  simp [State.bump]

theorem State.oval_bump_ne (s : State) (k j n : Nat) (h : j ≠ k) : (s.bump k n).oval j = s.oval j :=
  State.oval_setOval_ne s k j _ h

@[simp] theorem State.emit_out (s : State) (o : Out) : (s.emit o).out = s.out ++ [o] := rfl
@[simp] theorem State.drawNat_free (s : State) : s.drawNat.2.free = s.free + 1 := rfl
@[simp] theorem State.drawBits_free (s : State) (w : Nat) : (s.drawBits w).2.free = s.free + 1 := rfl

end Sys2Proof.Machine
end

