-- ==== Sys2Proof/Laws/Issue.lean ====
section
/-!
SUPPORT. What issuing an instruction can do (R196 to R199): it joins the open bundle, or it commits alone.
-/
namespace Sys2Proof.Machine

theorem onUnit_lt {n b : Nat} (r : Res) (h : n < b) : onUnit n b r = r := by simp [onUnit, h]
theorem onUnit_ge {n b : Nat} (r : Res) (h : ¬n < b) : onUnit n b r = .fault (.noSuchUnit n) := by simp [onUnit, h]

theorem pendingFaults_none {x : Core} (h : NoneWaits x) : pendingFaults x = [] := by
  obtain ⟨⟨h1, h2, h3⟩, -⟩ := h
  simp [pendingFaults, h1, h2, h3]

theorem mustDeliver_none {x : Core} (h : NoneWaits x) (b : Bundle) : mustDeliver x b = false := by
  obtain ⟨⟨-, h2, h3⟩, h4, -⟩ := h
  simp [mustDeliver, h2, h3, h4]

/-- An empty bundle takes any one instruction (R198). -/
theorem bundleOk_init (i : Iss) : bundleOk Bundle.init i = true := by
  have h (c : Bool) : b2n c ≤ 1 := by cases c <;> simp [b2n]
  have h1 := h (decide (i.cls = .scalar))
  have h2 := h (decide (i.cls = .mem))
  have h3 := h (decide (i.cls = .vec))
  have h4 := h i.flow
  simp only [bundleOk, Bundle.init, Bool.and_eq_true]
  refine ⟨⟨⟨⟨⟨?_, ?_⟩, ?_⟩, ?_⟩, ?_⟩, ?_⟩ <;> first | omega | (simp; done) | (simp; omega)

/-- A bundle that takes an instruction holds at most four then. -/
theorem bundleOk_count {b : Bundle} {i : Iss} (h : bundleOk b i = true) : b.count < 4 := by
  simp only [bundleOk, Bool.and_eq_true] at h
  exact of_decide_eq_true h.1.1.1.1.1

@[simp] theorem firstExc_none (e : Option PendExc) : firstExc e none = e := by cases e <;> rfl

/-- An instruction without an exception, which its bundle takes, brings none (R198, R222). -/
theorem pend_none {i : Iss} {b : Bundle} (hi : i.illegal = none) (ha : i.absentUnit = false) (hx : i.exc = none)
    (hb : bundleOk b i = true) : i.pend b = none := by simp [Iss.pend, hi, ha, hx, hb]

theorem slotNo_le (b : Bundle) (k : Cls) : slotNo b k ≤ 3 := by
  unfold slotNo; split <;> first | omega | (split <;> omega)

/-- The exception of an encoding comes before that of its bundle (R222, assumption 70). -/
theorem pend_illegal {i : Iss} {sub : Nat} (b : Bundle) (ha : i.absentUnit = false) (hi : i.illegal = some sub) :
    i.pend b = some { slot := slotNo b i.cls, cause := 0x01, sub, eaddr := 0 } := by
  simp only [Iss.pend, hi, ha, Bool.false_eq_true, if_false]
  split
  · rfl
  · have := slotNo_le b i.cls
    simp [firstExc, PendExc.rank]
    omega

theorem pend_absent {i : Iss} (b : Bundle) (ha : i.absentUnit = true) :
    i.pend b = some { slot := slotNo b i.cls, cause := 0x03, sub := 0x01, eaddr := 0 } := by
  have hs := slotNo_le b i.cls
  simp only [Iss.pend, ha, if_true]
  split
  · rfl
  · simp only [firstExc, PendExc.rank]
    rw [if_neg]
    simp only [show ¬(3 = 2) by decide, if_true, if_false, show (3 : Nat) ≤ 3 from Nat.le_refl 3]
    omega

/-- The fetch of a core that takes its next instruction finds a good word. -/
theorem fetchWord_good {s : State} {c a : Nat} (h : kget s.mem.ibad (c * 65536 + a / 8 * 8) = none) :
    fetchWord s c a = (s, none) := by
  simp [fetchWord, h]

/-- No vector instruction is still to be carried out before this one. -/
theorem formed_now {s : State} {c : Nat} (a : Nat) (mk : State → Core → Nat → Iss) (h : (s.core c).vpend = none) :
    formed s c a mk = (s, mk s (s.core c) a) := by
  simp [formed, h]

/-- What an instruction does that is fetched: it joins its bundle, which it closes or not, or its exception is taken (R196,
R198, R222). -/
theorem issueM_fetched {s : State} {c : Nat} (stop : Bool) (mk : State → Core → Nat → Iss) (i : Iss) (hf : Fetches s c)
    (hv : (s.core c).vpend = none) (hm : mk s (s.core c) ((s.core c).pc + 4 * (s.core c).bundle.count) = i) :
    issueM c stop s mk = .next (
      let b := (s.core c).bundle.add i
      let close := stop || decide (4 < b.count)
      match b.exc.filter PendExc.atDecode with
      | some e => if close then raisePrecise s c e.slot e.cause e.sub e.eaddr else s.setCore c { s.core c with bundle := b }
      | none =>
        if stop && tendWaits s c b.effs then s
        else
          let u := s.setCore c { s.core c with bundle := b }
          if close then closeBundle u c else u) := by
  obtain ⟨h1, h2, h3, h4, h5, h6⟩ := hf
  have hk : ¬(((s.core c).bundle.count = 0 ∧
      ((s.core c).pc < (s.core c).kbase.toNat ∨ (s.core c).klimit.toNat ≤ (s.core c).pc))
      ∨ 0x10000 ≤ (s.core c).pc + 4 * (s.core c).bundle.count) := by
    rintro (⟨g1, g2⟩ | g)
    · have := h4 g1; omega
    · omega
  have hg : ¬(!(s.core c).running || lockWaits s c) = true := by rw [h2, h3]; decide
  unfold issueM
  rw [onUnit_lt _ h1]
  dsimp only
  rw [if_neg hg, if_neg hk, fetchWord_good h6]
  simp only [formed_now _ mk hv, hm, done]
  all_goals cases ((s.core c).bundle.add i).exc.filter PendExc.atDecode <;> rfl

/-- Without its stop bit an instruction that its bundle takes joins it (R196, R198). -/
theorem issueM_adds {s : State} {c : Nat} {stop : Bool} (mk : State → Core → Nat → Iss) (i : Iss)
    (hm : mk s (s.core c) ((s.core c).pc + 4 * (s.core c).bundle.count) = i) :
    Adds s c stop i (issueM c stop s mk) := by
  rintro rfl hf hv hb
  have hc : ¬4 < ((s.core c).bundle.add i).count := by
    have := bundleOk_count hb
    simp only [Bundle.add]
    omega
  rw [issueM_fetched false mk i hf hv hm]
  simp only [decide_eq_false hc, Bool.false_or, Bool.false_and, Bool.false_eq_true, if_false]
  split <;> rfl

/-- With its stop bit an instruction whose bundle then holds no exception of its decoding closes it. -/
theorem issueM_closes {s : State} {c : Nat} (mk : State → Core → Nat → Iss) (i : Iss) (hf : Fetches s c)
    (hv : (s.core c).vpend = none) (hm : mk s (s.core c) ((s.core c).pc + 4 * (s.core c).bundle.count) = i)
    (hx : ((s.core c).bundle.add i).exc.filter PendExc.atDecode = none)
    (ht : tendWaits s c ((s.core c).bundle.add i).effs = false) :
    issueM c true s mk = .next (closeBundle (s.setCore c { s.core c with bundle := (s.core c).bundle.add i }) c) := by
  rw [issueM_fetched true mk i hf hv hm]
  simp only [hx, ht, Bool.and_false, Bool.false_eq_true, if_false, Bool.true_or, if_true]

/-! ## What each effect on the core does -/

/-- A write of a control register stays in the core but for the loop counts and MXSTAT. -/
theorem ofCore_wctl (n : Nat) (v : BitVec 32) :
    (Eff.wctl n v).ofCore = true ↔ n ≠ 0x010 ∧ n ≠ 0x014 ∧ n ≠ 0x100 := by
  show (n != 0x010 && n != 0x014 && n != 0x100) = true ↔ _
  simp [and_assoc]

section
variable (n : Nat) (x : Core)
@[simp] theorem applyEff_wg (r : BitVec 5) (v : BitVec 32) : applyEff n x (.wg r v) = x.setG r v := rfl
@[simp] theorem applyEff_wacc (r : BitVec 2) (v : BitVec 40) : applyEff n x (.wacc r v) = x.setA r v := rfl
@[simp] theorem applyEff_sat : applyEff n x .sat = { x with sat := true } := rfl
@[simp] theorem applyEff_wctl (r : Nat) (v : BitVec 32) : applyEff n x (.wctl r v) = x.setCtl r v := rfl
@[simp] theorem applyEff_link : applyEff n x .link = x.setG 31 (BitVec.ofNat 32 n) := rfl
@[simp] theorem applyEff_goto (t : Nat) : applyEff n x (.goto t) = x := rfl
@[simp] theorem applyEff_spanset (vtype : BitVec 5) (span : Nat) :
    applyEff n x (.spanset vtype span) = { x with vtype, span } := rfl
theorem applyEff_wh (r : BitVec 5) (v : BitVec 128) : applyEff n x (.wh r v)
    = if x.vfault then x else { x with h := x.h.set r.toNat v (by have := r.isLt; omega) } := rfl
theorem applyEff_ww (r : BitVec 5) (g v : Nat) :
    applyEff n x (.ww r g v) = if x.vfault then x else x.setVop true r.toNat g v := rfl
theorem applyEff_wk (r : BitVec 3) (v : BitVec 1024) : applyEff n x (.wk r v)
    = if x.vfault then x else { x with k := x.k.set r.toNat v (by have := r.isLt; omega) } := rfl
theorem applyEff_vsat : applyEff n x .vsat = if x.vfault then x else { x with sat := true } := rfl
@[simp] theorem applyEff_fence : applyEff n x .fence = { x with sbuf := [] } := rfl
@[simp] theorem applyEff_vsync : applyEff n x .vsync = x := rfl
@[simp] theorem applyEff_mxsync : applyEff n x .mxsync = x := rfl
end

/-! ## Effects of a bundle -/

/-- Writing an operand of the vector file leaves the rest of the core, whatever bundle is open. -/
theorem setVop_bundle (x : Core) (u : Bool) (r n v : Nat) (b : Bundle) :
    ({ x with bundle := b } : Core).setVop u r n v = { x.setVop u r n v with bundle := b } := by
  unfold Core.setVop
  exact List.foldl_hom (fun y : Core => ({ y with bundle := b } : Core)) (fun y i => by cases u <;> rfl)

/-- Writing an operand of the vector file steers no fetch. -/
theorem setVop_flow (x : Core) (u : Bool) (r n v : Nat) :
    (x.setVop u r n v).lpcnt = x.lpcnt ∧ (x.setVop u r n v).lpend = x.lpend ∧ (x.setVop u r n v).pc = x.pc
      ∧ (x.setVop u r n v).commits = x.commits := by
  unfold Core.setVop
  refine ⟨foldl_keeps (·.lpcnt) _ ?_ _ x, foldl_keeps (·.lpend) _ ?_ _ x, foldl_keeps (·.pc) _ ?_ _ x,
    foldl_keeps (·.commits) _ ?_ _ x⟩ <;> intro y i <;> cases u <;> rfl

/-- A control register is written whatever bundle is open. -/
theorem setCtl_bundle (x : Core) (n : Nat) (v : BitVec 32) (b : Bundle) :
    ({ x with bundle := b } : Core).setCtl n v = { x.setCtl n v with bundle := b } := by
  unfold Core.setCtl
  split_ifs <;> rfl

/-- A core effect does not depend on the open bundle. -/
theorem applyEff_bundle (next : Nat) (x : Core) (e : Eff) (b : Bundle) :
    applyEff next { x with bundle := b } e = { applyEff next x e with bundle := b } := by
  cases e
  case wctl n v => exact setCtl_bundle x n v b
  case wh r v => rw [applyEff_wh, applyEff_wh]; by_cases h : x.vfault = true <;> simp only [h, ite_true, ite_false, Bool.false_eq_true]
  case ww r g v =>
    rw [applyEff_ww, applyEff_ww]
    by_cases h : x.vfault = true
    · rw [if_pos h, if_pos h]
    · rw [if_neg h, if_neg h]; exact setVop_bundle x true r.toNat g v b
  case wk r v => rw [applyEff_wk, applyEff_wk]; by_cases h : x.vfault = true <;> simp only [h, ite_true, ite_false, Bool.false_eq_true]
  case vsat => rw [applyEff_vsat, applyEff_vsat]; by_cases h : x.vfault = true <;> simp only [h, ite_true, ite_false, Bool.false_eq_true]
  all_goals rfl

theorem foldl_applyEff_bundle (next : Nat) (x : Core) (l : List Eff) (b : Bundle) :
    l.foldl (applyEff next) { x with bundle := b } = { l.foldl (applyEff next) x with bundle := b } := by
  induction l generalizing x with
  | nil => rfl
  | cons e l ih => simp only [List.foldl_cons, applyEff_bundle, ih]

/-- A control register that counts no loop steers no fetch. -/
theorem setCtl_flow (x : Core) (n : Nat) (v : BitVec 32) (h0 : n ≠ 0x010) (h1 : n ≠ 0x014) :
    (x.setCtl n v).lpcnt = x.lpcnt ∧ (x.setCtl n v).lpend = x.lpend ∧ (x.setCtl n v).pc = x.pc
      ∧ (x.setCtl n v).commits = x.commits := by
  unfold Core.setCtl
  rw [if_neg h0, if_neg h1]
  split_ifs <;> exact ⟨rfl, rfl, rfl, rfl⟩

/-- An effect of the core's own registers steers no fetch. -/
theorem applyEff_flow (next : Nat) (x : Core) (e : Eff) (h : e.ofCore = true) :
    (applyEff next x e).lpcnt = x.lpcnt ∧ (applyEff next x e).lpend = x.lpend ∧ (applyEff next x e).pc = x.pc
      ∧ (applyEff next x e).commits = x.commits := by
  cases e
  case wctl n v =>
    replace h := (ofCore_wctl n v).1 h
    exact setCtl_flow x n v h.1 h.2.1
  case wh r v => rw [applyEff_wh]; by_cases g : x.vfault = true <;> simp [g]
  case ww r g v =>
    rw [applyEff_ww]
    by_cases k : x.vfault = true
    · rw [if_pos k]; exact ⟨rfl, rfl, rfl, rfl⟩
    · rw [if_neg k]; exact setVop_flow x true r.toNat g v
  case wk r v => rw [applyEff_wk]; by_cases g : x.vfault = true <;> simp [g]
  case vsat => rw [applyEff_vsat]; by_cases g : x.vfault = true <;> simp [g]
  case loop => cases h
  all_goals exact ⟨rfl, rfl, rfl, rfl⟩

theorem foldl_applyEff_flow (next : Nat) (x : Core) (l : List Eff) (h : l.all Eff.ofCore = true) :
    (l.foldl (applyEff next) x).lpcnt = x.lpcnt ∧ (l.foldl (applyEff next) x).lpend = x.lpend
      ∧ (l.foldl (applyEff next) x).pc = x.pc ∧ (l.foldl (applyEff next) x).commits = x.commits := by
  induction l generalizing x with
  | nil => simp
  | cons e l ih =>
    simp only [List.all_cons, Bool.and_eq_true] at h
    simp only [List.foldl_cons]
    obtain ⟨a1, a2, a3, a4⟩ := applyEff_flow next x e h.1
    obtain ⟨b1, b2, b3, b4⟩ := ih (applyEff next x e) h.2
    exact ⟨b1.trans a1, b2.trans a2, b3.trans a3, b4.trans a4⟩

/-- No loop end: the level's end leaves the core and the fetch as they are. -/
theorem loopEnd_none {x : Core} {pc lvl : Nat} (fresh : Bool)
    (h : vget x.lpcnt lvl 0 = 0 ∨ (vget x.lpend lvl 0).toNat ≠ pc) : loopEnd x pc lvl fresh = (x, none) := by
  unfold loopEnd
  refine if_pos ?_
  rcases h with h | h
  · have : (vget x.lpcnt lvl 0).toNat = 0 := by rw [h]; rfl
    rw [decide_eq_true this, Bool.or_true, Bool.true_or]
  · rw [decide_eq_true h, Bool.or_true]

/-- Where no loop ends the next bundle follows (R197). -/
theorem fetchOn_next {pc next : Nat} {x : Core} (fresh : Option Bool)
    (h0 : vget x.lpcnt 0 0 = 0 ∨ (vget x.lpend 0 0).toNat ≠ pc)
    (h1 : vget x.lpcnt 1 0 = 0 ∨ (vget x.lpend 1 0).toNat ≠ pc) : fetchOn pc next x fresh = { x with pc := next } := by
  unfold fetchOn
  rw [loopEnd_none _ h1]
  dsimp only
  rw [loopEnd_none _ h0]

/-- Effects of the core's own registers change no fetch: the next bundle follows (R197). -/
theorem nextFetch_ofCore {s : State} {c pc next : Nat} {x : Core} {l : List Eff} (h : l.all Eff.ofCore = true)
    (h0 : vget x.lpcnt 0 0 = 0 ∨ (vget x.lpend 0 0).toNat ≠ pc)
    (h1 : vget x.lpcnt 1 0 = 0 ∨ (vget x.lpend 1 0).toNat ≠ pc) :
    nextFetch s c pc next x l = { x with pc := next } := by
  have g1 : l.findSome? gotoOf = none := by
    rw [List.findSome?_eq_none_iff]
    intro e he
    have := List.all_eq_true.1 h e he
    cases e <;> first | rfl | cases this
  have g2 : l.findSome? loopOf = none := by
    rw [List.findSome?_eq_none_iff]
    intro e he
    have := List.all_eq_true.1 h e he
    cases e <;> first | rfl | cases this
  unfold nextFetch
  rw [g1, g2]
  exact fetchOn_next none h0 h1

/-- Effects of the core's own registers do nothing in memory or in the matrix coprocessor. -/
theorem applyMx_ofCore (s : State) (c : Nat) (e : Eff) (h : e.ofCore = true) : applyMx s c e = s := by
  cases e
  case wctl n v =>
    replace h := (ofCore_wctl n v).1 h
    exact if_neg fun g => h.2.2 g.1
  all_goals first | rfl | cases h

theorem foldl_applyMx_ofCore (s : State) (c : Nat) (l : List Eff) (h : l.all Eff.ofCore = true) :
    l.foldl (fun s e => applyMx s c e) s = s := by
  induction l with
  | nil => rfl
  | cons e l ih =>
    simp only [List.all_cons, Bool.and_eq_true] at h
    rw [List.foldl_cons, applyMx_ofCore s c e h.1, ih h.2]

theorem foldl_applySt_ofCore (s : State) (c pc : Nat) (l : List Eff) (h : l.all Eff.ofCore = true) :
    l.foldl (applySt c pc) s = s := by
  induction l with
  | nil => rfl
  | cons e l ih =>
    simp only [List.all_cons, Bool.and_eq_true] at h
    have : applySt c pc s e = s := by cases e <;> first | rfl | cases h.1
    rw [List.foldl_cons, this, ih h.2]

theorem not_contains_ofCore {l : List Eff} (e : Eff) (h : l.all Eff.ofCore = true) (he : e.ofCore = false) :
    l.contains e = false := by
  cases hc : l.contains e with
  | false => rfl
  | true =>
    rw [List.contains_iff_mem] at hc
    have := List.all_eq_true.1 h e hc
    simp [he] at this

/-- Effects of which each neither accesses memory at the bundle's completion nor reads a control register. -/
def Eff.plain : Eff → Bool
  | .load _ _ _ _ | .store _ _ _ | .movc _ _ => false
  | _ => true

/-- A complete bundle of plain effects reads nothing (R199). -/
theorem runReads_plain (s : State) (c : Nat) (l : List Eff) (h : l.all Eff.plain = true) :
    runReads s c l = (s, .inl l) := by
  induction l with
  | nil => rfl
  | cons e l ih =>
    simp only [List.all_cons, Bool.and_eq_true] at h
    have hl := ih h.2
    cases e <;> first | (simp only [runReads, hl]; rfl) | cases h.1

theorem plain_ofCore {l : List Eff} (h : l.all Eff.ofCore = true) : l.all Eff.plain = true := by
  rw [List.all_eq_true] at h ⊢
  intro e he
  have := h e he
  cases e <;> first | rfl | cases this

theorem inOrder_ofCore {l : List Eff} (h : l.all Eff.ofCore = true) : (inOrder l).all Eff.ofCore = true := by
  rw [List.all_eq_true] at h ⊢
  intro e he
  simp only [inOrder, List.mem_append, List.mem_filter] at he
  exact h e (by rcases he with g | g <;> exact g.1)

/-- An empty vector queue holds up no bundle. -/
theorem settleQueue_empty {s : State} {c : Nat} (h : (s.core c).vq = []) : settleQueue s c = s := by
  simp [settleQueue, h]

/-- A bundle that waits for no posted store issues none. -/
theorem settleStores_none {s : State} {c : Nat} (hf : (s.core c).bundle.effs.contains .fence = false)
    (ht : (s.core c).bundle.effs.contains .tend = false) (hp : (s.core c).bundle.posts = false) : settleStores s c = s := by
  simp only [settleStores, hf, ht, hp, Bool.false_or, Bool.false_and, Bool.false_eq_true, if_false]

/-- What a complete bundle does with plain effects, once the posted stores it waits for are issued: with no fault waiting,
no exception of its own and no request of the lock it commits (R199). -/
theorem closeBundle_commits {u t : State} {c : Nat} (ht : settleStores u c = t) (hn : NoneWaits (t.core c))
    (hx : (t.core c).bundle.exc = none) (hp : (t.core c).bundle.effs.all Eff.plain = true)
    (hm : (u.core c).bundle.effs.contains .mxlock = false) :
    closeBundle u c
      = commitBundle (t.setCore c { t.core c with bundle := { (t.core c).bundle with begun := true } }) c := by
  have hx' (y : Core) : (t.setCore c y).core c = y := State.core_setCore _ _ _
  have hd (b : Bundle) : mustDeliver ({ t.core c with bundle := b } : Core) b = false := mustDeliver_none hn b
  unfold closeBundle
  simp only [hm, Bool.false_eq_true, ite_false]
  unfold finishBundle beginBundle
  simp only [ht, settleQueue_empty hn.2.2.1, hx', hd, hx, Bool.false_eq_true, ite_false, State.setCore_setCore, runReads_plain _ _ _ hp]

/-- The effects of a bundle that wait for nothing. -/
theorem posts_ofCore {b : Bundle} (h : b.effs.all Eff.ofCore = true) : b.posts = false := by
  unfold Bundle.posts
  rw [List.any_eq_false]
  intro e he
  have := List.all_eq_true.1 h e he
  cases e <;> first | exact Bool.false_ne_true | cases this

theorem vmemOf_ofCore {l : List Eff} (h : l.all Eff.ofCore = true) : l.findSome? vmemOf = none := by
  rw [List.findSome?_eq_none_iff]
  intro e he
  have := List.all_eq_true.1 h e he
  cases e <;> first | rfl | cases this

/-- The effects on the core leave the vector queue. -/
theorem applyEff_vq (next : Nat) (x : Core) (e : Eff) : (applyEff next x e).vq = x.vq := by
  cases e
  case wctl n v => simp only [applyEff_wctl]; unfold Core.setCtl; split_ifs <;> rfl
  case wh r v => rw [applyEff_wh]; split <;> rfl
  case ww r g v =>
    rw [applyEff_ww]
    split
    · rfl
    · unfold Core.setVop
      refine foldl_keeps (·.vq) _ ?_ _ x
      intro y i
      rfl
  case wk r v => rw [applyEff_wk]; split <;> rfl
  case vsat => rw [applyEff_vsat]; split <;> rfl
  all_goals rfl

theorem foldl_applyEff_vq (next : Nat) (x : Core) (l : List Eff) : (l.foldl (applyEff next) x).vq = x.vq :=
  foldl_keeps (·.vq) _ (applyEff_vq next) l x

/-- A bundle without a vector memory instruction puts nothing in an empty vector queue (R244, assumption 23). -/
theorem enterQueue_none {x : Core} {b : Bundle} (h : b.effs.findSome? vmemOf = none) (hq : x.vq = []) : enterQueue x b = x := by
  simp [enterQueue, h, hq]

/-- A bundle of one instruction with plain effects that waits for nothing and has no exception commits (R199). -/
theorem closeBundle_one {s : State} {c : Nat} (i : Iss) (hw : NoneWaits (s.core c)) (hi : i.illegal = none)
    (ha : i.absentUnit = false) (hx : i.exc = none) (hp : i.effs.all Eff.plain = true)
    (hm : i.effs.contains .mxlock = false) (hf : i.effs.contains .fence = false) (ht : i.effs.contains .tend = false)
    (hs : (Bundle.init.add i).posts = false) :
    closeBundle (s.setCore c { s.core c with bundle := Bundle.init.add i }) c
      = commitBundle (s.setCore c { s.core c with bundle := { Bundle.init.add i with begun := true } }) c := by
  have hx' (y : Core) : (s.setCore c y).core c = y := State.core_setCore _ _ _
  have hee : (Bundle.init.add i).effs = i.effs := by simp [Bundle.add, Bundle.init]
  have hxx : (Bundle.init.add i).exc = none := by
    rw [show (Bundle.init.add i).exc = firstExc none (i.pend Bundle.init) from rfl, pend_none hi ha hx (bundleOk_init i)]
    rfl
  rw [closeBundle_commits (t := s.setCore c { s.core c with bundle := Bundle.init.add i })
    (settleStores_none (by rw [hx']; simpa only [hee] using hf) (by rw [hx']; simpa only [hee] using ht) (by rw [hx']; exact hs))
    (by rw [hx']; exact hw) (by rw [hx']; exact hxx) (by rw [hx']; simpa only [hee] using hp) (by rw [hx']; simpa only [hee] using hm)]
  rw [hx', State.setCore_setCore]

/-- A bundle of one instruction whose effects stay in the core commits (R197, R199). -/
theorem closeBundle_alone {s : State} {c : Nat} (i : Iss) (ho : Opens s c) (hi : i.illegal = none)
    (ha : i.absentUnit = false) (hx : i.exc = none) (he : i.effs.all Eff.ofCore = true) :
    closeBundle (s.setCore c { s.core c with bundle := Bundle.init.add i }) c
      = s.setCore c (committed (s.core c) i.effs) := by
  obtain ⟨-, hb, hw, h0, h1⟩ := ho
  have hee : (Bundle.init.add i).effs = i.effs := by simp [Bundle.add, Bundle.init]
  have hcc : (Bundle.init.add i).count = 1 := by simp [Bundle.add, Bundle.init]
  have ho : (inOrder i.effs).all Eff.ofCore = true := inOrder_ofCore he
  have htd : (inOrder i.effs).contains .tend = false := not_contains_ofCore _ ho rfl
  obtain ⟨f1, f2, f3, f4⟩ := foldl_applyEff_flow ((s.core c).pc + 4) (s.core c) (inOrder i.effs) ho
  have hnf (u : State) (b : Bundle) := nextFetch_ofCore (s := u) (c := c)
    (next := (s.core c).pc + 4) (pc := (s.core c).pc)
    (x := { (inOrder i.effs).foldl (applyEff ((s.core c).pc + 4)) (s.core c) with bundle := b }) ho
    (by simpa [f1, f2] using h0) (by simpa [f1, f2] using h1)
  have hx' (y : Core) : (s.setCore c y).core c = y := State.core_setCore _ _ _
  have hq (b b' : Bundle) (g : b'.effs.findSome? vmemOf = none) :
      enterQueue { (inOrder i.effs).foldl (applyEff ((s.core c).pc + 4)) (s.core c) with bundle := b } b'
        = { (inOrder i.effs).foldl (applyEff ((s.core c).pc + 4)) (s.core c) with bundle := b } :=
    enterQueue_none g (by dsimp only; rw [foldl_applyEff_vq]; exact hw.2.2.1)
  rw [closeBundle_one i hw hi ha hx (plain_ofCore he) (not_contains_ofCore _ he rfl) (not_contains_ofCore _ he rfl)
    (not_contains_ofCore _ he rfl) (posts_ofCore (by rw [hee]; exact he))]
  unfold commitBundle
  rw [hx']
  dsimp only
  rw [hee, hcc, Nat.mul_one, foldl_applyEff_bundle, hq _ _ (vmemOf_ofCore he), hnf,
    State.setCore_setCore, foldl_applySt_ofCore _ _ _ _ ho, foldl_applyMx_ofCore _ _ _ ho, htd]
  rfl

/-- An instruction whose effects stay in the core goes one of the two ways that claims describe (R196 to R199). -/
theorem issueM_issues {s : State} {c : Nat} {stop : Bool} (mk : State → Core → Nat → Iss) (i : Iss)
    (hm : mk s (s.core c) ((s.core c).pc + 4 * (s.core c).bundle.count) = i)
    (hi : i.illegal = none) (ha : i.absentUnit = false) (hx : i.exc = none) (he : i.effs.all Eff.ofCore = true) :
    Issues s c stop i (issueM c stop s mk) := by
  refine ⟨issueM_adds mk i hm, ?_⟩
  rintro rfl ho
  obtain ⟨hf, hb, hw, -⟩ := id ho
  have ht : i.effs.contains .tend = false := not_contains_ofCore _ he rfl
  have hp := pend_none hi ha hx (bundleOk_init i)
  rw [issueM_closes mk i hf hw.2.2.2 hm (by rw [hb, show (Bundle.init.add i).exc = firstExc none (i.pend Bundle.init) from rfl, hp]; rfl)
    (by rw [hb, show (Bundle.init.add i).effs = i.effs from rfl, tendWaits, ht]; rfl)]
  rw [hb, closeBundle_alone i ho hi ha hx he]

/-- The same for an instruction that reads registers only. -/
theorem issue_issues {s : State} {c : Nat} {stop : Bool} (mk : Core → Nat → Iss) (i : Iss)
    (hm : mk (s.core c) ((s.core c).pc + 4 * (s.core c).bundle.count) = i)
    (hi : i.illegal = none) (ha : i.absentUnit = false) (hx : i.exc = none) (he : i.effs.all Eff.ofCore = true) :
    Issues s c stop i (issue c stop s mk) := issueM_issues _ i hm hi ha hx he

/-- A precise exception is taken at once where no fault waits and the vector queue is empty (R222, R247). -/
theorem raisePrecise_now {s : State} {c : Nat} (h : NoneWaits (s.core c)) (slot cause sub ea : Nat) :
    raisePrecise s c slot cause sub ea
      = takeExc s c { cause, sub, slot, eaddr := ea, epc := (s.core c).pc, imprecise := false } := by
  have hv : vdrain s c = s := by simp [vdrain, h.2.2.1]
  simp only [raisePrecise, raiseExc, hv, pendingFaults_none h, earliest]

/-- An exception of its own at decode is taken at the stop bit, where its bundle holds no other (R217, R223). -/
theorem issueM_takes {s : State} {c : Nat} (mk : State → Core → Nat → Iss) (i : Iss) (e : PendExc) (hf : Fetches s c)
    (hw : NoneWaits (s.core c)) (hb : (s.core c).bundle.exc = none)
    (hm : mk s (s.core c) ((s.core c).pc + 4 * (s.core c).bundle.count) = i)
    (hp : i.pend (s.core c).bundle = some e) (hd : e.atDecode = true) :
    issueM c true s mk = .next (takeExc s c { cause := e.cause, sub := e.sub, slot := e.slot, eaddr := e.eaddr
                                              epc := (s.core c).pc, imprecise := false }) := by
  have hx : ((s.core c).bundle.add i).exc = some e := by simp [Bundle.add, hb, hp, firstExc]
  rw [issueM_fetched true mk i hf hw.2.2.2 hm]
  simp only [hx, Option.filter, hd, if_true, Bool.true_or, raisePrecise_now hw]

/-- An encoding that raises ILLEGAL is taken as a precise exception (R217, R223). -/
theorem issueM_raises {s c stop} (mk : State → Core → Nat → Iss) (cls sub)
    (hm : mk s (s.core c) ((s.core c).pc + 4 * (s.core c).bundle.count) = Iss.bad cls sub) :
    Raises s c stop cls 0x01 sub (issueM c stop s mk) := by
  refine ⟨issueM_adds mk _ hm, ?_⟩
  rintro rfl hf hw hb
  exact issueM_takes mk (Iss.bad cls sub) { slot := slotNo (s.core c).bundle cls, cause := 0x01, sub, eaddr := 0 } hf hw hb hm
    (pend_illegal _ rfl rfl) rfl

/-- An instruction of an absent unit raises its exception (R222, R223). -/
theorem issueM_absent {s c stop} (mk : State → Core → Nat → Iss) (cls)
    (hm : mk s (s.core c) ((s.core c).pc + 4 * (s.core c).bundle.count) = { cls, absentUnit := true }) :
    Raises s c stop cls 0x03 0x01 (issueM c stop s mk) := by
  refine ⟨issueM_adds mk _ hm, ?_⟩
  rintro rfl hf hw hb
  exact issueM_takes mk { cls, absentUnit := true } { slot := slotNo (s.core c).bundle cls, cause := 0x03, sub := 0x01, eaddr := 0 }
    hf hw hb hm (pend_absent _ rfl) rfl

theorem issue_raises {s c stop} (mk : Core → Nat → Iss) (cls sub)
    (hm : mk (s.core c) ((s.core c).pc + 4 * (s.core c).bundle.count) = Iss.bad cls sub) :
    Raises s c stop cls 0x01 sub (issue c stop s mk) := issueM_raises _ _ _ hm

/-- A bundle of one instruction that goes to an address commits (R197, R215). -/
theorem closeBundle_goes {s : State} {c : Nat} (i : Iss) (t : Nat) (ho : Opens s c) (hi : i.illegal = none)
    (ha : i.absentUnit = false) (hx : i.exc = none)
    (he : i.effs = [.goto t] ∨ i.effs = [.goto t, .link]) :
    closeBundle (s.setCore c { s.core c with bundle := Bundle.init.add i }) c
      = s.setCore c (branched (i.effs.foldl (applyEff ((s.core c).pc + 4)) (s.core c)) t) := by
  obtain ⟨-, hb, hw, -, -⟩ := ho
  have hee : (Bundle.init.add i).effs = i.effs := by simp [Bundle.add, Bundle.init]
  have hcc : (Bundle.init.add i).count = 1 := by simp [Bundle.add, Bundle.init]
  have hx' (y : Core) : (s.setCore c y).core c = y := State.core_setCore _ _ _
  have hoo : inOrder i.effs = i.effs := by rcases he with h | h <;> rw [h] <;> rfl
  have hpl : i.effs.all Eff.plain = true := by rcases he with h | h <;> rw [h] <;> rfl
  have hl (x : Core) (b : Bundle) (l : Nat) :
      leaveLoop ({ x with bundle := b } : Core) t l = { leaveLoop x t l with bundle := b } := by
    unfold leaveLoop
    split <;> rfl
  have hl2 (x : Core) (b : Bundle) : leaveLoop (leaveLoop ({ x with bundle := b } : Core) t 1) t 0
      = { leaveLoop (leaveLoop x t 1) t 0 with bundle := b } := by rw [hl x b 1, hl (leaveLoop x t 1) b 0]
  have hmx : i.effs.contains .mxlock = false := by rcases he with h | h <;> rw [h] <;> rfl
  have htd : i.effs.contains .tend = false := by rcases he with h | h <;> rw [h] <;> rfl
  have hst (u : State) (p : Nat) : i.effs.foldl (applySt c p) u = u := by rcases he with h | h <;> rw [h] <;> rfl
  have hmm (u : State) : i.effs.foldl (fun s e => applyMx s c e) u = u := by rcases he with h | h <;> rw [h] <;> rfl
  have hnf (u : State) (p n : Nat) (x : Core) :
      nextFetch u c p n x i.effs = { leaveLoop (leaveLoop x t 1) t 0 with pc := t } := by
    rcases he with h | h <;> rw [h] <;> rfl
  have hcm : (i.effs.foldl (applyEff ((s.core c).pc + 4)) (s.core c)).commits = (s.core c).commits := by
    rcases he with h | h <;> rw [h] <;> rfl
  have hfe : i.effs.contains .fence = false := by rcases he with h | h <;> rw [h] <;> rfl
  have hpo : (Bundle.init.add i).posts = false := by
    unfold Bundle.posts; rw [hee]; rcases he with h | h <;> rw [h] <;> rfl
  have hvm : i.effs.findSome? vmemOf = none := by rcases he with h | h <;> rw [h] <;> rfl
  have hq (b b' : Bundle) (g : b'.effs.findSome? vmemOf = none) :
      enterQueue { i.effs.foldl (applyEff ((s.core c).pc + 4)) (s.core c) with bundle := b } b'
        = { i.effs.foldl (applyEff ((s.core c).pc + 4)) (s.core c) with bundle := b } :=
    enterQueue_none g (by dsimp only; rw [foldl_applyEff_vq]; exact hw.2.2.1)
  rw [closeBundle_one i hw hi ha hx hpl hmx hfe htd hpo]
  unfold commitBundle branched
  rw [hx', hcm]
  dsimp only
  rw [hee, hoo, hcc, Nat.mul_one, foldl_applyEff_bundle, hq _ _ hvm, hnf, State.setCore_setCore, hst, hmm, htd, hl2]
  rfl

/-- An instruction that goes to an address. -/
theorem issue_goes {s : State} {c : Nat} {stop : Bool} {t : Nat} (mk : Core → Nat → Iss) (i : Iss)
    (hm : mk (s.core c) ((s.core c).pc + 4 * (s.core c).bundle.count) = i)
    (hi : i.illegal = none) (ha : i.absentUnit = false) (hx : i.exc = none)
    (he : i.effs = [.goto t] ∨ i.effs = [.goto t, .link]) :
    Goes s c stop i (i.effs.foldl (applyEff ((s.core c).pc + 4)) (s.core c)) t (issue c stop s mk) := by
  refine ⟨issueM_adds _ i hm, ?_⟩
  rintro rfl ho
  obtain ⟨hf, hb, hw, -⟩ := id ho
  have ht : i.effs.contains .tend = false := by rcases he with h | h <;> rw [h] <;> rfl
  have hp := pend_none hi ha hx (bundleOk_init i)
  rw [issue, issueM_closes _ i hf hw.2.2.2 hm (by rw [hb, show (Bundle.init.add i).exc = firstExc none (i.pend Bundle.init) from rfl, hp]; rfl)
    (by rw [hb, show (Bundle.init.add i).effs = i.effs from rfl, tendWaits, ht]; rfl)]
  rw [hb, closeBundle_goes i t ho hi ha hx he]

end Sys2Proof.Machine
end

