-- ==== Sys2Proof/Laws/Memory.lean ====
section
/-!
SUPPORT. Device memory: every operation on the stored bytes keeps their canonical form, and the memory at reset has it.
-/
namespace Sys2Proof.Machine

theorem cellsWf_iff (m : List Host.Cell) : cellsWf m = true ↔ kwf m = true ∧ ∀ c ∈ m, c.2 ≠ 0 := by
  simp [cellsWf, List.all_eq_true]

/-- A write of one byte keeps the form. -/
theorem cellsWf_mset (m : List Host.Cell) (a : Nat) (b : Byte) (h : cellsWf m = true) : cellsWf (mset m a b) = true := by
  rw [cellsWf_iff] at h ⊢
  unfold mset
  split
  · exact ⟨kwf_kdel m a h.1, fun c hc => h.2 c (mem_kdel m a c hc)⟩
  · rename_i hb
    refine ⟨kwf_kset m a b h.1, fun c hc => ?_⟩
    rcases mem_kset m a b c hc with rfl | hm
    · exact hb
    · exact h.2 c hm

/-- A write of bytes keeps the form. -/
theorem cellsWf_msetAll (b : List Byte) : ∀ (m : List Host.Cell) (a : Nat), cellsWf m = true → cellsWf (msetAll m a b) = true := by
  induction b with
  | nil => intro m a h; exact h
  | cons x r ih => intro m a h; exact ih _ _ (cellsWf_mset m a x h)

/-- A choice among the stored bytes keeps the form. -/
theorem cellsWf_filter (m : List Host.Cell) (p : Host.Cell → Bool) (h : cellsWf m = true) : cellsWf (m.filter p) = true := by
  rw [cellsWf_iff] at h ⊢
  exact ⟨kwf_filter m p h.1, fun c hc => h.2 c ((List.mem_filter.mp hc).1)⟩

/-- A range set to zero keeps the form. -/
theorem cellsWf_mzero (m : List Host.Cell) (a n : Nat) (h : cellsWf m = true) : cellsWf (mzero m a n) = true :=
  cellsWf_filter m _ h

theorem Mem.wf_iff (m : Mem) : m.wf = true ↔ cellsWf m.bytes = true ∧ cellsWf m.imem = true := by simp [Mem.wf]

/-- Two memories with the same stored bytes have the form together. -/
theorem Mem.wf_congr {m n : Mem} (hb : n.bytes = m.bytes) (hi : n.imem = m.imem) : n.wf = m.wf := by simp [Mem.wf, hb, hi]

/-- Memory at reset lists nothing. -/
theorem reset_mem_wf : State.reset.mem.wf = true := rfl

@[simp] theorem setBad_bytes (s : State) (u : Nat) (b : Option BadWord) : (setBad s u b).mem.bytes = s.mem.bytes := rfl
@[simp] theorem setBad_imem (s : State) (u : Nat) (b : Option BadWord) : (setBad s u b).mem.imem = s.mem.imem := rfl
@[simp] theorem setBytes_bytes (s : State) (m : List Host.Cell) : (setBytes s m).mem.bytes = m := rfl
@[simp] theorem setBytes_imem (s : State) (m : List Host.Cell) : (setBytes s m).mem.imem = s.mem.imem := rfl

/-- The bytes after a range is zeroed. -/
theorem zeroRange_bytes (s : State) (a n : Nat) : (zeroRange s a n).mem.bytes = mzero s.mem.bytes a n := by
  unfold zeroRange; simp only []; split <;> simp only []

theorem zeroRange_imem (s : State) (a n : Nat) : (zeroRange s a n).mem.imem = s.mem.imem := by
  unfold zeroRange; simp only []; split <;> simp only []

/-- Filling a range keeps the form. -/
theorem zeroRange_wf (s : State) (a n : Nat) (h : s.mem.wf = true) : (zeroRange s a n).mem.wf = true := by
  rw [Mem.wf_iff] at h ⊢
  rw [zeroRange_bytes, zeroRange_imem]
  exact ⟨cellsWf_mzero _ a n h.1, h.2⟩

/-- Losing the DRAM keeps the form. -/
theorem loseDram_wf (s : State) (h : s.mem.wf = true) : (loseDram s).mem.wf = true := by
  rw [Mem.wf_iff] at h ⊢
  simp only [loseDram]
  exact ⟨cellsWf_filter _ _ h.1, h.2⟩

/-- Filling the SRAM keeps the form. -/
theorem fillSram_wf (s : State) (h : s.mem.wf = true) : (fillSram s).mem.wf = true := by
  rw [Mem.wf_iff] at h ⊢
  simp only [fillSram]
  exact ⟨cellsWf_filter _ _ h.1, by decide⟩

/-- Zeroing an island keeps the form. -/
theorem fillIsland_wf (s : State) (k : Nat) (h : s.mem.wf = true) : (fillIsland s k).mem.wf = true := by
  rw [Mem.wf_iff] at h ⊢
  simp only [fillIsland, zeroRange_bytes, zeroRange_imem]
  exact ⟨cellsWf_mzero _ _ _ (cellsWf_mzero _ _ _ h.1), cellsWf_filter _ _ h.2⟩

/-- Opening a TCM line keeps the form. -/
theorem openLine_wf (s : State) (c l : Nat) (h : s.mem.wf = true) : (openLine s c l).mem.wf = true := by
  by_cases hc : (s.core c).lines.contains l = true
  · simp only [openLine, hc, if_true]; exact h
  · rw [Mem.wf_iff] at h ⊢
    simp only [openLine, hc, State.setCore]
    exact ⟨cellsWf_mzero _ _ _ h.1, h.2⟩

/-- Opening the TCM lines of a write keeps the form. -/
theorem openLines_wf (s : State) (c a n : Nat) (h : s.mem.wf = true) : (openLines s c a n).mem.wf = true := by
  unfold openLines
  generalize (List.range ((a + n + 63) / 64 - a / 64)).map _ = l
  induction l generalizing s with
  | nil => exact h
  | cons x r ih => exact ih _ (openLine_wf s c x h)

/-! ## What memory operations leave of `mem` -/

@[simp] theorem setRegion_mem (s : State) (r : Nat) (x : Region) : (s.setRegion r x).mem = s.mem := rfl

@[simp] theorem setSub_mem (s : State) (n : Nat) (x : Subscr) : (setSub s n x).mem = s.mem := rfl

@[simp] theorem queueEvent_mem (s : State) (n : Nat) (x : Subscr) (m : List Byte) : (queueEvent s n x m).mem = s.mem := by
  unfold queueEvent; dsimp only; repeat' split
  all_goals simp only [State.bump_mem, State.emit_mem, setSub_mem]

@[simp] theorem deliverEvent_mem (s : State) (n : Nat) (x : Subscr) (m : List Byte) :
    (deliverEvent s n x m).mem = s.mem := by
  unfold deliverEvent; dsimp only; repeat' split
  all_goals simp only [State.bump_mem, queueEvent_mem]

@[simp] theorem raiseTo_mem (k n : Nat) (d : List Byte) (l : List (Nat × Subscr)) (s : State) :
    (raiseTo s k n d l).mem = s.mem := by
  induction l generalizing s with
  | nil => rfl
  | cons p r ih =>
    obtain ⟨i, x⟩ := p
    unfold raiseTo
    split
    · rw [ih, sendEvent, deliverEvent_mem, setSub_mem]
    · exact ih s

@[simp] theorem raiseEvent_mem (s : State) (k n : Nat) (d : List Byte) : (raiseEvent s k n d).mem = s.mem := raiseTo_mem ..

@[simp] theorem setRegState_mem (s : State) (r x : Nat) : (s.setRegState r x).mem = s.mem := rfl

@[simp] theorem abandonDrain_mem (s : State) (n : Nat) : (abandonDrain s n).mem = s.mem := by
  unfold abandonDrain
  refine foldl_keeps (·.mem) _ (fun t m => ?_) _ s
  dsimp only
  split <;> simp only [State.setLane_mem]

@[simp] theorem retireRegion_mem (s : State) (r : Nat) : (retireRegion s r).mem = s.mem := by
  unfold retireRegion
  simp only [State.bump_mem, setRegion_mem, apply_ite State.mem, abandonDrain_mem, ite_self]

@[simp] theorem strike_mem (s : State) (r : Nat) : (strike s r).mem = s.mem := by
  unfold strike
  generalize (takesStrikes r && !regionAbsent s r) = b
  cases b
  · rfl
  · simp only [if_true, apply_ite State.mem, retireRegion_mem, setRegion_mem, ite_self]

@[simp] theorem strikeAt_mem (s : State) (a : Nat) : (strikeAt s a).mem = s.mem := by
  unfold strikeAt; split
  · exact strike_mem ..
  · rfl

/-! ## What memory operations leave of the stored bytes -/

/-- The stored bytes of the device memories. -/
def cells (s : State) : List Host.Cell × List Host.Cell := (s.mem.bytes, s.mem.imem)

/-- The canonical form is a matter of the stored bytes. -/
theorem wf_of_cells {s t : State} (h : cells t = cells s) (w : s.mem.wf = true) : t.mem.wf = true := by
  have e := Prod.mk.inj h
  rw [Mem.wf_congr e.1 e.2]; exact w

/-- A step that leaves `mem` leaves the stored bytes. -/
theorem cells_of_mem {s t : State} (h : t.mem = s.mem) : cells t = cells s := by simp only [cells, h]

@[simp] theorem cells_bump (s : State) (k n : Nat) : cells (s.bump k n) = cells s := cells_of_mem (State.bump_mem ..)
@[simp] theorem cells_setCore (s : State) (c : Nat) (x : Core) : cells (s.setCore c x) = cells s := cells_of_mem (State.setCore_mem ..)
@[simp] theorem cells_strikeAt (s : State) (a : Nat) : cells (strikeAt s a) = cells s := cells_of_mem (strikeAt_mem s a)
@[simp] theorem cells_setBad (s : State) (u : Nat) (b : Option BadWord) : cells (setBad s u b) = cells s := rfl
@[simp] theorem cells_setRegState (s : State) (r x : Nat) : cells (s.setRegState r x) = cells s := rfl
@[simp] theorem cells_logFault (s : State) (f : FaultRec) : cells (logFault s f) = cells s := rfl
@[simp] theorem cells_damageVersions (s : State) (p : Nat → Nat → Bool) : cells (damageVersions s p) = cells s := rfl
@[simp] theorem cells_wakeRanks (s : State) (a n : Nat) : cells (wakeRanks s a n) = cells s := rfl

@[simp] theorem cells_memRecord (s : State) (r : MemRec) (e : Bool) : cells (memRecord s r e) = cells s := by
  unfold memRecord
  cases e
  · rfl
  · simp only [cells, if_true, raiseEvent_mem]

@[simp] theorem cells_memLog (s : State) (a f o u : Nat) (e : Bool) : cells (memLog s a f o u e) = cells s := cells_memRecord ..

@[simp] theorem cells_validLine (s : State) (u : Nat) : cells (validLine s u) = cells s := by
  unfold validLine; split <;> rfl

@[simp] theorem cells_loseMemRegion (s : State) (r : Nat) : cells (loseMemRegion s r) = cells s := by
  unfold loseMemRegion
  dsimp only
  repeat' split
  all_goals rfl

/-- A merge changes no stored byte. -/
@[simp] theorem cells_mergeWord (s : State) (u : Nat) : cells (mergeWord s u).1 = cells s := by
  unfold mergeWord
  dsimp only
  repeat' split
  all_goals simp only [cells_validLine, cells_setBad, cells_memLog, cells_bump, cells_strikeAt, cells_loseMemRegion]

@[simp] theorem cells_reportPosted (n : Nat) (s : State) (p : Nat × Posted) : cells (reportPosted n s p) = cells s := by
  unfold reportPosted
  dsimp only
  split
  · exact cells_setCore ..
  · rfl

/-- The issue of an entry changes no stored byte. -/
@[simp] theorem cells_issueEntry (s : State) (e : WEntry) : cells (issueEntry s e).1 = cells s := by
  unfold issueEntry
  dsimp only
  split
  · rfl
  · split
    · rename_i t h
      rw [cells_validLine, show t = (mergeWord { s with mem := { s.mem with wqueue := s.mem.wqueue.filter fun x => decide (x.line ≠ e.line) } } (64 * e.line)).1 by
        rw [h], cells_mergeWord]
      rfl
    · rename_i t er h
      rw [foldl_keeps cells _ (cells_reportPosted _), show t = (mergeWord { s with mem := { s.mem with wqueue := s.mem.wqueue.filter fun x => decide (x.line ≠ e.line) } } (64 * e.line)).1 by
        rw [h], cells_mergeWord]
      rfl

/-- A line that enters a write queue changes no stored byte. -/
@[simp] theorem cells_queueLine (who : Option (Nat × Posted)) (a n : Nat) (s : State) (l : Nat) :
    cells (queueLine who a n s l) = cells s := by
  unfold queueLine
  simp only []
  have key : ∀ t : State, cells t = cells s → ∀ l : List WEntry, cells (match l with
      | o :: _ => if 64 < l.length then (issueEntry t o).1 else t
      | [] => t) = cells s := by
    rintro t h (_ | ⟨o, r⟩)
    · exact h
    · simp only []
      split
      · rw [cells_issueEntry, h]
      · exact h
  refine key _ ?_ _
  split
  · rw [cells_validLine]; rfl
  · rfl

@[simp] theorem cells_issueLines (a : Nat) (l : List Nat) : ∀ s : State, cells (issueLines s a l).1 = cells s := by
  induction l with
  | nil => intro s; rfl
  | cons x r ih =>
    intro s
    unfold issueLines
    split
    · exact ih s
    · rename_i e _
      split
      · exact ih s
      · have he := cells_issueEntry s e
        split
        · rename_i t h; rw [ih t, ← he, h]
        · rename_i t er h; rw [ih t, ← he, h]

/-! ## Writes keep the canonical form -/

/-- Bytes laid over the stored ones keep the form. -/
theorem setBytes_wf (s : State) (a : Nat) (b : List Byte) (h : s.mem.wf = true) :
    (setBytes s (msetAll s.mem.bytes a b)).mem.wf = true := by
  rw [Mem.wf_iff] at h ⊢
  exact ⟨cellsWf_msetAll _ _ _ h.1, h.2⟩

/-- A write of one code word keeps the form. -/
theorem writeWord_wf (s : State) (m : MemAt) (u a : Nat) (b : List Byte) (h : s.mem.wf = true) :
    (writeWord s m u a b).1.mem.wf = true := by
  have key : ∀ r : State × Option MErr, cells r.1 = cells s →
      (match r with
        | (t, none) => (setBytes t (msetAll t.mem.bytes (max u a) (cut b (max u a - a) (min (u + unitOf m) (a + b.length) - max u a))), none)
        | (t, some e) => (t, some e) : State × Option MErr).1.mem.wf = true := by
    rintro ⟨t, _ | e⟩ hc
    · exact setBytes_wf t _ _ (wf_of_cells hc h)
    · exact wf_of_cells hc h
  unfold writeWord
  refine key _ ?_
  split
  · rfl
  · exact cells_mergeWord s u

/-- A write of code words keeps the form. -/
theorem writeWords_wf (m : MemAt) (a : Nat) (b : List Byte) (l : List Nat) :
    ∀ s : State, s.mem.wf = true → (writeWords s m a b l).1.mem.wf = true := by
  induction l with
  | nil => intro s h; exact h
  | cons u r ih =>
    intro s h
    have hw := writeWord_wf s m u a b h
    unfold writeWords
    split
    · rename_i t e; rw [e] at hw; exact ih t hw
    · rename_i t x e; rw [e] at hw; exact ih t hw

/-- The wake of a gated cluster that is reached leaves memory as it is. -/
@[simp] theorem reachIsland_mem (s : State) (m : MemAt) : (reachIsland s m).mem = s.mem := by
  unfold reachIsland
  split
  · split <;> rfl
  · rfl

/-- Memory outside the clusters wakes none. -/
theorem reachIsland_none (s : State) (m : MemAt) (h : m.island = none) : reachIsland s m = s := by
  unfold reachIsland
  rw [h]

/-- A powered cluster stays as it is when it is reached. -/
theorem reachIsland_powered (s : State) (m : MemAt) (k : Nat) (h : m.island = some k) (hp : (s.cluster k).gated = false) :
    reachIsland s m = s := by
  unfold reachIsland
  rw [h]
  simp [hp]

/-- A write, queued or not, keeps the form, whatever it answers. -/
theorem devQueue_wf (s : State) (who : Option (Nat × Posted)) (a : Nat) (b : List Byte) (h0 : s.mem.wf = true) :
    (devQueue s who a b).1.mem.wf = true := by
  have h : (reachIsland s (memAt s a)).mem.wf = true := by rw [reachIsland_mem]; exact h0
  unfold devQueue
  dsimp only
  generalize hr : reachIsland s (memAt s a) = s' at h ⊢
  repeat' split
  all_goals first
    | exact h0
    | exact writeWords_wf _ _ _ _ _ (openLines_wf s' _ a b.length h)
    | exact writeWords_wf _ _ _ _ _ h
    | exact wf_of_cells (foldl_keeps cells _ (fun x l => cells_queueLine who a b.length x l) _ _)
        (wf_of_cells (cells_wakeRanks _ _ _) (setBytes_wf s' a b h))

/-- The settling of a written range keeps the form. -/
theorem settleRange_wf (s : State) (a n : Nat) (h : s.mem.wf = true) : (settleRange s a n).1.mem.wf = true := by
  unfold settleRange
  split
  · exact wf_of_cells (cells_issueLines ..) h
  · exact h

/-- A device write keeps the form, whatever it answers. -/
theorem devWrite_wf (s : State) (a : Nat) (b : List Byte) (h : s.mem.wf = true) : (devWrite s a b).1.mem.wf = true := by
  have hq := devQueue_wf s none a b h
  unfold devWrite
  split
  · rename_i e; rw [e] at hq; exact hq
  · rename_i e; rw [e] at hq; exact settleRange_wf _ _ _ hq

@[simp] theorem cells_markGranules (s : State) (gs : List Nat) : cells (markGranules s gs) = cells s := rfl

/-- A fast fill keeps the form. -/
theorem fastFill_wf (s : State) (a n : Nat) (h : s.mem.wf = true) : (fastFill s a n).mem.wf = true := by
  refine wf_of_cells (s := zeroRange s a n) ?_ (zeroRange_wf s a n h)
  unfold fastFill
  generalize zeroRange s a n = t
  rw [cells_markGranules]
  rfl

/-- The fast fill of a subchannel keeps the form. -/
theorem fillSub_wf (s : State) (i : Nat) (h : s.mem.wf = true) : (fillSub s i).mem.wf = true := by
  rw [Mem.wf_iff] at h ⊢
  exact ⟨cellsWf_filter _ _ h.1, h.2⟩

/-- Reading as zeros keeps the form. -/
theorem blankRange_wf (s : State) (a n : Nat) (h : s.mem.wf = true) : (blankRange s a n).mem.wf = true := by
  rw [Mem.wf_iff] at h ⊢
  exact ⟨cellsWf_mzero _ a n h.1, h.2⟩

end Sys2Proof.Machine
end

