-- ==== Sys2Proof/Laws/Scalar.lean ====
section
/-!
SUPPORT. The shared forms of the scalar instructions.
-/
namespace Sys2Proof.Machine

/-- A write of one general register is an effect of the core. -/
theorem toG_ok (d r) : (Iss.toG d r).illegal = none ∧ (Iss.toG d r).absentUnit = false ∧ (Iss.toG d r).exc = none
    ∧ (Iss.toG d r).effs.all Eff.ofCore = true := by
  obtain ⟨v, b⟩ := r
  refine ⟨rfl, rfl, rfl, ?_⟩
  cases b <;> rfl

/-- An instruction that writes one general register. -/
theorem issue_toG {s c stop mk d r} (h : mk (s.core c) ((s.core c).pc + 4 * (s.core c).bundle.count) = Iss.toG d r) :
    Issues s c stop (Iss.toG d r) (issue c stop s mk) := by
  obtain ⟨a, b, c, d⟩ := toG_ok d r
  exact issue_issues _ _ h a b c d

theorem toAcc_eq (n : BitVec 2) (sat : Bool) (v : Int) : Iss.toAcc n sat v = accResult n sat v := by
  cases sat
  · simp [Iss.toAcc, accResult, fit_false, ofNat_unsgn]
  · simp only [Iss.toAcc, accResult, fit_true, ofNat_unsgn, ite_true]
    by_cases h : clampTo 40 v = v <;> simp [h]

end Sys2Proof.Machine
end

