-- ==== Sys2Proof/WellFormed.lean ====
section
/-!
DEFINITION. Which commands are well formed: every unit that a command names is one that the spec numbers, and every field
of a message fits the field that carries it. exec asks no more of a command than this, and less: only a unit beyond the
numbering stops it.
-/
namespace Sys2Proof

/-- A unit of a kind that has n. -/
def below (u n : Nat) : Bool := decide (u < n)

/-- Instances of an engine kind on the M5-F: LDPC decoders, LDPC encoders, polar, FFT, modem slices (R7, R16). -/
def enginesOf (kind : Nat) : Nat :=
  match kind with | 1 => 64 | 2 => 32 | 3 => 16 | 4 => 32 | 5 => 8 | _ => 0

/-- A VLAN identifier, where there is one (R64). -/
def vlanWf (v : Option Nat) : Bool := match v with | some n => decide (n < 4096) | none => true

/-- The addresses of a received frame (R64). -/
def FrameTo.wf (x : FrameTo) : Bool := decide (x.dstMac < 2 ^ 48) && decide (x.proto < 2 ^ 16) && decide (x.dstIp < 2 ^ 128)

/-- A source of Cleip requests: an untagged frame has no priority (R460, R466). -/
def CleipSrc.wf (x : CleipSrc) : Bool :=
  below x.carrier 4 && decide (x.mac < 2 ^ 48) && decide (x.ip < 2 ^ 128) && decide (x.udp < 2 ^ 16) && decide (x.encap < 3)
    && vlanWf x.vlan && decide (x.pcp < 8) && (x.vlan.isSome || decide (x.pcp = 0))

/-- A Cleip request whose fields fit the header of R464. -/
def CleipReq.wf (r : CleipReq) : Bool :=
  r.src.wf && decide (r.version < 16) && decide (r.tid < 2 ^ 16) && decide (r.index < 2 ^ 16) && decide (r.sub < 256)
    && decide (r.length < 2 ^ 16) && decide (r.offset < 2 ^ 32) && decide (r.cipherFaults ≤ 2) && r.frame.wf

/-- An eCPRI message type of 8 bits, given to the command of its type; a type that has no command may be given to any of
them (R371). -/
def ecpriTypeWf (type own : Nat) : Bool := decide (type < 256) && (decide (type = own) || !([0, 2, 5].contains type))

/-- A transport frame whose fields fit the header of R67, given to the command of its TYPE; a frame of a TYPE that has no
command (reserved, or never sent towards a device) may be given to any of them (R66, R68). -/
def RxFrame.wf (f : RxFrame) (type : Nat) : Bool :=
  decide (f.type < 16) && (decide (f.type = type) || !([1, 2, 7, 8, 9, 10].contains f.type))
    && below f.port 2 && decide (f.dstMac < 2 ^ 48) && decide (f.srcMac < 2 ^ 48) && decide (f.encap < 3) && decide (f.proto < 2 ^ 16)
    && vlanWf f.vlan && decide (f.srcIp < 2 ^ 128) && decide (f.dstIp < 2 ^ 128) && decide (f.srcUdp < 2 ^ 16)
    && decide (f.version < 16) && decide (f.count < 2 ^ 16) && decide (f.length < 2 ^ 16) && decide (f.sender < 2 ^ 16)
    && decide (f.epoch < 2 ^ 32)

/-- A peer's addresses (R104, R373). -/
def Peer.wf (p : Peer) : Bool :=
  decide (p.mac < 2 ^ 48) && decide (p.encap < 3) && decide (p.ip < 2 ^ 128) && decide (p.udp < 2 ^ 16) && vlanWf p.vlan

/-- The fields of an Announce (R446). -/
def Announce.wf (a : Announce) : Bool :=
  decide (a.gmIdentity < 2 ^ 64) && decide (a.gmClass < 256) && decide (a.accuracy < 256) && decide (a.variance < 2 ^ 16)
    && decide (a.priority1 < 256) && decide (a.priority2 < 256) && decide (a.stepsRemoved < 2 ^ 16)

/-- A core or an engine of the numbering (R7). -/
def Place.wf (p : Place) : Bool := match p with | .core c => below c 576 | .engine kind n => below n (enginesOf kind)

/-- A unit that waits for a response (R402). -/
def Requester.wf (p : Requester) : Bool :=
  match p with
  | .core c | .vector c => below c 576
  | .dma n | .descriptor n => below n 256
  | .engine kind n => below n (enginesOf kind)

/-- Every unit and field of a command is one that the spec has. -/
def wellFormed (i : Instr) : Bool :=
  match i with
  | .desc f => f.wf 1
  | .data f => f.wf 2
  | .ack f => f.wf 7
  | .resend f => f.wf 8
  | .mirror f => f.wf 9
  | .mirrorAck f => f.wf 10
  | .pfcPauseRx port prio _ => below port 2 && below prio 8
  | .assemblyTimeout _ _ => true
  | .jobAccept _ => true
  | .mirrorTimeout => true
  | .acceptCoalesceExpiry port => below port 2
  | .complCoalesceExpiry _ => true
  | .retxTimeout _ => true
  | .creditRefresh => true
  | .creditGrant => true
  | .portDown f => below f.port 2
  | .portUpHoldExpiry port => below port 2
  | .recordRelease q => below q 4096
  | .admission _ _ => true
  | .taskDispatch t p => below t.task 256 && p.wf
  | .taskReplay t p => below t.task 256 && p.wf
  | .jobDeadline _ _ => true
  | .overrunMark t => below t.task 256
  | .watchdogExpiry c => below c 576
  | .learnPeriod => true
  | .dvfsPeriod => true
  | .thermalCeiling k _ => below k 16
  | .thermalMigrate k => below k 16
  | .migrationSwitch cell => below cell 4095
  | .gateIdleExpiry k => below k 16
  | .oppSwitchDone k => below k 16
  | .islandLoss island => below island 48
  | .islandRestored island _ => below island 16
  | .strikeLapse region => below region 0x624
  | .overcastExit => true
  | .supervisorSwitchover _ => true
  | .supervisorPairRetested _ => true
  | .standbyCopy => true
  | .fwUpdateCmd r => r.wf
  | .fwStandbyLoaded => true
  | .fwUpdateDone => true
  | .mirrorResend => true
  | .mirrorKeepalive => true
  | .buddyFence => true
  | .buddyDead _ => true
  | .takeoverCmd r => r.wf
  | .buddyRelease r => r.wf
  | .buddy r _ => r.wf
  | .regionRestore r => r.wf
  | .regionRestoreDone region _ => below region 0x624
  | .regionRetire r => r.wf
  | .overcastMask r => r.wf
  | .queueReset r => r.wf
  | .queueConfig r => r.wf
  | .poolConfig r => r.wf
  | .resultStoreConfig r => r.wf
  | .cellConfig r => r.wf
  | .migrateCmd r => r.wf
  | .admitProbe r => r.wf
  | .kernelTable r => r.wf
  | .policyBound r => r.wf
  | .objectWrite r => r.wf
  | .cleipRead r => r.wf
  | .cleipReadBlock r => r.wf
  | .cleipWriteBlock r => r.wf
  | .subscribeCancel r => r.wf
  | .subscribeOnChange r => r.wf
  | .subscribeOnEvent r => r.wf
  | .subscriptionInterval n => below n 256
  | .subLeaseLapse n => below n 256
  | .cleipBlockTimeout _ => true
  | .cleipReplayHoldExpiry src _ => src.wf
  | .carrierIdWrite r => r.wf
  | .msWriteTransfer x _ => below x.address 128
  | .msReadTransfer x => below x.address 128
  | .bypass => true
  | .idcode => true
  | .samplePreload => true
  | .extest => true
  | .cleip => true
  | .vendorDebug _ => true
  | .fpAppendByte _ => true
  | .fpStop _ => true
  | .fpFetchByte => true
  | .makerLockBlow r => r.wf
  | .auditExported r => r.wf
  | .keyLoadPlain r => r.wf
  | .keyLoadWrapped r => r.wf
  | .keyErase r => r.wf
  | .cipherLock r => r.wf
  | .cipherLockBoot r => r.wf
  | .cipherSelfTestDone _ => true
  | .configBackupRestore r => r.wf
  | .configBackupRebuild => true
  | .fwImage r => r.wf
  | .movc c _ _ _ => below c 576
  | .movtc c _ _ _ => below c 576
  | .jr c _ _ => below c 576
  | .add c _ => below c 576
  | .sub c _ => below c 576
  | .adds c _ => below c 576
  | .subs c _ => below c 576
  | .and c _ => below c 576
  | .or c _ => below c 576
  | .xor c _ => below c 576
  | .andn c _ => below c 576
  | .sll c _ => below c 576
  | .srl c _ => below c 576
  | .sra c _ => below c 576
  | .slt c _ => below c 576
  | .sltu c _ => below c 576
  | .min c _ => below c 576
  | .max c _ => below c 576
  | .minu c _ => below c 576
  | .maxu c _ => below c 576
  | .mul c _ => below c 576
  | .mulh c _ => below c 576
  | .mulhu c _ => below c 576
  | .muls c _ => below c 576
  | .abs c _ => below c 576
  | .abss c _ => below c 576
  | .neg c _ => below c 576
  | .negs c _ => below c 576
  | .slls c _ => below c 576
  | .addi c _ => below c 576
  | .andi c _ => below c 576
  | .ori c _ => below c 576
  | .xori c _ => below c 576
  | .lui c _ => below c 576
  | .sllImmediate c _ => below c 576
  | .srlImmediate c _ => below c 576
  | .sraImmediate c _ => below c 576
  | .sllsImmediate c _ => below c 576
  | .mac c _ => below c 576
  | .msu c _ => below c 576
  | .machh c _ => below c 576
  | .accld c _ => below c 576
  | .accx c _ => below c 576
  | .accx16 c _ => below c 576
  | .accclr c _ => below c 576
  | .maxix c _ => below c 576
  | .minix c _ => below c 576
  | .maxux c _ => below c 576
  | .minux c _ => below c 576
  | .bexp c _ => below c 576
  | .bexpm c _ => below c 576
  | .bexpa c _ => below c 576
  | .sat16 c _ => below c 576
  | .beqz c _ _ _ => below c 576
  | .bnez c _ _ _ => below c 576
  | .bltz c _ _ _ => below c 576
  | .bgez c _ _ _ => below c 576
  | .bgtz c _ _ _ => below c 576
  | .blez c _ _ _ => below c 576
  | .br c _ _ => below c 576
  | .bal c _ _ => below c 576
  | .loop c _ _ _ _ => below c 576
  | .ld c _ => below c 576
  | .st c _ => below c 576
  | .cbset c _ _ _ _ _ => below c 576
  | .nop c _ => below c 576
  | .tend c _ => below c 576
  | .fence c _ => below c 576
  | .trap c _ => below c 576
  | .postedStoreError c _ _ => below c 576
  | .interconnectTimeout who _ => who.wf
  | .spanset c _ _ _ _ _ _ => below c 576
  | .vsync c _ => below c 576
  | .vmovhw c _ => below c 576
  | .vmovwh c _ => below c 576
  | .vadd c _ _ => below c 576
  | .vsub c _ _ => below c 576
  | .vadds c _ _ => below c 576
  | .vsubs c _ _ => below c 576
  | .vand c _ _ => below c 576
  | .vor c _ _ => below c 576
  | .vxor c _ _ => below c 576
  | .vandn c _ _ => below c 576
  | .vsll c _ _ => below c 576
  | .vsrl c _ _ => below c 576
  | .vsra c _ _ => below c 576
  | .vslls c _ _ => below c 576
  | .vmin c _ _ => below c 576
  | .vmax c _ _ => below c 576
  | .vminu c _ _ => below c 576
  | .vmaxu c _ _ => below c 576
  | .vabs c _ _ => below c 576
  | .vabss c _ _ => below c 576
  | .vneg c _ _ => below c 576
  | .vnegs c _ _ => below c 576
  | .vmul c _ _ => below c 576
  | .vmulh c _ _ => below c 576
  | .vmulq c _ _ => below c 576
  | .vmulqs c _ _ => below c 576
  | .vcmul c _ _ => below c 576
  | .vcmuls c _ _ => below c 576
  | .vcmulj c _ _ => below c 576
  | .vcmuljs c _ _ => below c 576
  | .vconj c _ _ => below c 576
  | .vmulj c _ _ => below c 576
  | .vmov c _ => below c 576
  | .vsplat c _ => below c 576
  | .vmac c _ => below c 576
  | .vmsu c _ => below c 576
  | .vmacq c _ => below c 576
  | .vmacqs c _ => below c 576
  | .vcmac c _ => below c 576
  | .vcmacs c _ => below c 576
  | .vcmacj c _ => below c 576
  | .vcmacjs c _ => below c 576
  | .vwmul c _ => below c 576
  | .vwmac c _ => below c 576
  | .vwcmac c _ => below c 576
  | .vwcmacj c _ => below c 576
  | .vwiden c _ => below c 576
  | .vnsra c _ => below c 576
  | .vnsras c _ => below c 576
  | .vld c _ => below c 576
  | .vst c _ => below c 576
  | .vlds c _ => below c 576
  | .vsts c _ => below c 576
  | .vgath c _ => below c 576
  | .vscat c _ => below c 576
  | .vgathf c _ => below c 576
  | .vcmpeq c _ => below c 576
  | .vcmpne c _ => below c 576
  | .vcmplt c _ => below c 576
  | .vcmple c _ => below c 576
  | .vcmpltu c _ => below c 576
  | .vcmpleu c _ => below c 576
  | .kand c _ => below c 576
  | .kor c _ => below c 576
  | .kxor c _ => below c 576
  | .kandn c _ => below c 576
  | .knot c _ => below c 576
  | .kset c _ => below c 576
  | .vredmaxix c _ => below c 576
  | .vredminix c _ => below c 576
  | .vredmaxux c _ => below c 576
  | .vredminux c _ => below c 576
  | .vbexp c _ => below c 576
  | .vredsum c _ => below c 576
  | .vmvg c _ => below c 576
  | .vmvv c _ => below c 576
  | .kpopc c _ => below c 576
  | .kfirst c _ => below c 576
  | .viota c _ => below c 576
  | .vectorFaultDelivery c => below c 576
  | .mxmac c _ => below c 576
  | .mxmach c _ => below c 576
  | .mxmul c _ => below c 576
  | .mxmulh c _ => below c 576
  | .mxmsu c _ => below c 576
  | .mxclr c _ => below c 576
  | .mxpack c _ => below c 576
  | .mxtrn c _ => below c 576
  | .mxherm c _ => below c 576
  | .mxrd c _ => below c 576
  | .mxbexp c _ => below c 576
  | .mxwr c _ => below c 576
  | .mxld c _ => below c 576
  | .mxst c _ => below c 576
  | .mxstz c _ => below c 576
  | .mxlock c _ => below c 576
  | .mxunlock c _ => below c 576
  | .mxsave c _ => below c 576
  | .mxrestore c _ => below c 576
  | .mxsync c _ => below c 576
  | .mxcLockGrant m => below m 144
  | .mxcWaitEvict m => below m 144
  | .mxcSquashDrainEnd m => below m 144
  | .mxcImpreciseError c _ _ => below c 576
  | .ldpcDecode n => below n 64
  | .ldpcEncode n => below n 32
  | .polarDecode n => below n 16
  | .polarEncode n => below n 16
  | .fft n => below n 32
  | .ifft n => below n 32
  | .engineEntryEnd kind n _ => below n (enginesOf kind)
  | .engineWatchdog kind n => below n (enginesOf kind)
  | .nbReceive n => below n 8
  | .nbTransmit n => below n 8
  | .nbSliceBistDone n _ => below n 8
  | .nbConfigWrite r => r.wf
  | .groupEnable r => r.wf
  | .laneBlockReceived lane _ _ _ => below lane 68
  | .laneLock lane => below lane 68
  | .laneLockLoss lane _ => below lane 68
  | .fillerRow group _ => below group 4
  | .rowRelease group => below group 4
  | .laneCmdSlip r => r.wf
  | .laneCmdDrain r => r.wf
  | .laneCmdRestore r => r.wf
  | .laneConfig r => r.wf
  | .laneRowTransmit group => below group 4
  | .basicFrameReceived link => below link 4
  | .sectionReceived link => below link 4
  | .basicFrameTransmit link => below link 4
  | .sectionTransmit queue => below queue 68
  | .containerSampleTransmit cont => below cont 512
  | .defectSet link defect => below link 4 && below defect 6
  | .defectClear link defect => below link 4 && below defect 6
  | .mcMessageReceived link _ => below link 4
  | .mcTimeout link => below link 4
  | .ruPoll link => below link 4
  | .versionSeal _ => true
  | .versionRetainExpiry _ => true
  | .ecpriIqData port src f _ _ _ => below port 2 && src.wf && f.frame.wf && ecpriTypeWf f.type 0
  | .ecpriRtControl port src f _ _ _ => below port 2 && src.wf && f.frame.wf && ecpriTypeWf f.type 2
  | .ecpriDelayMeasurement port src f _ _ _ => below port 2 && src.wf && f.frame.wf && ecpriTypeWf f.type 5
  | .linkConfig r => r.wf
  | .tdContainers r => r.wf
  | .anvilPoolRole r => r.wf
  | .fhCell r => r.wf
  | .tdLanding r => r.wf
  | .doorbell chan _ => below chan 256
  | .chanReset chan => below chan 256
  | .dmaDescriptorFetched chan => below chan 256
  | .dmaCopy chan => below chan 256
  | .dmaFill chan => below chan 256
  | .dmaAntennaInterleave chan => below chan 256
  | .dmaAntennaDeinterleave chan => below chan 256
  | .dmaBitPlaneSplit chan => below chan 256
  | .dmaBitPlaneMerge chan => below chan 256
  | .dmaTransferEnd chan => below chan 256
  | .endCheckReturn chan => below chan 256
  | .drizzleRead unit _ => below unit 605
  | .drizzleLapLimit unit => below unit 605
  | .codeImageRewriteDone _ _ => true
  | .fastFillDone _ => true
  | .dramRefresh rank => below rank 16
  | .rankPowerDown rank => below rank 16
  | .dramConfig r => r.wf
  | .timingSetWrite r => r.wf
  | .dramDelays r => r.wf
  | .dramFreqCmd r => r.wf
  | .dramFreqChangeDone chan => below chan 4
  | .timeBeat => true
  | .beatTimeout island => below island 48
  | .secondBoundary => true
  | .dayBoundary => true
  | .ref10mhzLoss => true
  | .timeSet r => r.wf
  | .adjust r => r.wf
  | .increment r => r.wf
  | .activeDomain r => r.wf
  | .timeRefSel r => r.wf
  | .ptpDomain r => r.wf
  | .tcDomains r => r.wf
  | .ptpSync _ port _ _ _ _ _ => below port 2
  | .ptpAnnounce port h a => below port 2 && decide (h.dstMac < 2 ^ 48) && a.wf
  | .ptpDelayReq port h _ _ => below port 2 && decide (h.dstMac < 2 ^ 48)
  | .announceReceiptTimeout _ => true
  | .ptpMessageTransmit _ port _ => below port 2
  | .tcForward port _ _ _ _ _ => below port 2
  | .ppsInEdge _ => true
  | .holdoverLimit => true
  | .omPoll pos _ => below pos 32
  | .moduleMap r => r.wf
  | .opticsCmdDrain r => r.wf
  | .opticsCmdRestore r => r.wf
  | .powerTarget r => r.wf
  | .deepCmd r => r.wf
  | .duskVote _ => true
  | .duskVoteTimeout => true
  | .duskEntryComplete => true
  | .aonRegRdy => true
  | .pswRdy => true
  | .pllLock => true
  | .memRdy _ => true
  | .wakeEdge => true
  | .wakeAlarm => true
  | .aonBrownout => true
  | .engineIslandGate island => below island 48
  | .gatedIslandWake island _ => below island 48
  | .vinMainLow => true
  | .vinMainRestored => true
  | .bkupOkMeasure _ => true
  | .vinBkupLoss => true
  | .pwrGoodFall => true
  | .pwrGoodRise => true
  | .resetNFall => true
  | .resetNCold => true
  | .resetNRelease _ _ _ => true
  | .serviceable => true
  | .resetCmdWarm r => r.wf
  | .resetCmdCold r => r.wf
  | .sysRefclkLoss => true
  | .temperatureAlarm _ => true
  | .portUp port => below port 2
  | .pfcPauseExpiry port prio => below port 2 && below prio 8
  | .commandParityError sub _ => below sub 8
  | .switchOverComplete => true
  | .ppsInEdgeMissing => true
  | .alwaysOnPowerOn _ _ => true
  | .testLogicReset => true

end Sys2Proof
end

