-- ==== Sys2Proof/Tests/Slice0.lean ====
section
/-!
SUPPORT. Tests: states that meet the hypotheses of the statements, the spec's own worked examples,
and commands that are not well formed.
-/
open Sys2Proof
open Sys2Proof.Machine
namespace Sys2Proof.Tests
set_option Elab.async false

/-! ## States -/

/-- A device that serves: powered, booted, both ports up, the factory port enabled. -/
def dev : State := { State.reset with
  time := { State.reset.time with now := 5000000000 }
  part := { State.reset.part with serial := 0x123456789, mac0 := 0x0242AC110002, mac1 := 0x0242AC110003 }
  supply := { State.reset.supply with
    aonUp := true, pwrGood := true, resetN := true, bootState := 5, bootGeneration := 1, fwRelease := 0x302 }
  ports := [(0, { Port.init with state := 2 }), (1, { Port.init with state := 2 })]
  fport := { State.reset.fport with enabled := true, fpEn := true, ir := 0x20 } }

/-- A core that runs a kernel of 4 KiB. -/
def runner : Core := { Core.init with running := true, klimit := 0x1000, pc := 0x100 }

/-- The serving device with one core, by number. -/
def withCore (c : Nat) (x : Core) : State := { dev with cores := [(c, x)] }

/-- The device whose first core runs. -/
def cpu : State := withCore 0 runner

/-! ## Cores (R196 to R276) -/

/-- The first and the last core may each open a bundle: what Issues, Goes and Raises ask. -/
theorem test_core_opens : Opens cpu 0 ∧ Opens (withCore 575 runner) 575 := by decide +kernel

/-- A core whose open bundle holds an ADD. -/
def joined : State := withCore 0 { runner with bundle := Bundle.init.add (Iss.toG 3 (7, false)) }

/-- An open bundle of one ADD takes a load beside it: what Adds asks. -/
theorem test_core_adds :
    Fetches joined 0 ∧ bundleOk (joined.core 0).bundle { cls := .mem, writes := [.g 4] } = true := by decide +kernel

/-- A bundle joined by ABS with and without its reserved field, and by an index form on an even and an odd pair (R212,
R213). -/
theorem test_scalar_forms :
    ((0 : BitVec 5) = 0 ∧ (31 : BitVec 5) ≠ 0) ∧ (BitVec.getLsbD (30 : BitVec 5) 0 = false
    ∧ BitVec.getLsbD (31 : BitVec 5) 0 = true)
    ∧ (3 : BitVec 5).toNat < 4 ∧ 4 ≤ (4 : BitVec 5).toNat := by decide

/-- A core whose gA holds what each test asks (R216), with a level running and one free (R215). -/
def brancher (v : Int) : Core :=
  { runner with g := vput runner.g 5 (BitVec.ofInt 32 v), lpcnt := vput runner.lpcnt 1 3,
                lpend := vput runner.lpend 1 0x200 }

theorem test_branch_tests :
    ((brancher 0).rg 5).toInt = 0 ∧ ((brancher (-1)).rg 5).toInt < 0 ∧ 0 < ((brancher 1).rg 5).toInt
    ∧ Opens (withCore 0 (brancher 0)) 0 ∧ vget (brancher 0).lpcnt 0 0 = 0 ∧ vget (brancher 0).lpcnt 1 0 ≠ 0 := by
    decide +kernel

/-- Loads and stores: an aligned word inside TCM at its top, one in a circular buffer, one outside it and one unaligned. -/
def loader (a : Nat) (base len : Nat) : Core :=
  { runner with g := vput runner.g 3 (BitVec.ofNat 32 a), cbBase := vput runner.cbBase 2 (BitVec.ofNat 32 base)
                cbLen := vput runner.cbLen 2 (BitVec.ofNat 32 len), lines := [0, 4095] }
def word (mode : BitVec 2) (cb : BitVec 3) : MFmt := { stop := true, d := 7, a := 3, sz := 4, mode, cb, off := 0 }

theorem test_access_forms :
    AccessEncoded (word 0 0) false ∧ AccessEncoded (word 2 2) true
    ∧ AccessEncoded { word 1 0 with sz := 5, d := 30 } false :=
  ⟨by decide, by decide, by decide⟩

theorem test_access_in_tcm :
    accessAt (loader 0x3FFFC 0 0) (word 0 0) = 0x3FFFC ∧ TcmGood (withCore 0 (loader 0x3FFFC 0 0)) 0 0x3FFFC 4
    ∧ Opens (withCore 0 (loader 0x3FFFC 0 0)) 0 := ⟨by decide +kernel, by decide +kernel, by decide +kernel⟩

theorem test_access_in_ring :
    InRing (loader 0x1FC 0x100 0x100) (word 2 2) ∧ ¬InRing (loader 0x200 0x100 0x100) (word 2 2)
    ∧ accessAt (loader 0x102 0 0) (word 0 0) % 4 ≠ 0 := ⟨by decide +kernel, by decide +kernel, by decide +kernel⟩

theorem test_control_numbers :
    ctlListed 0x001 = true ∧ ctlListed 0x02F = true ∧ ctlListed 0x3FF = false ∧ ctlWritable 0x002 = false
    ∧ ctlListed 0x002 = true
    ∧ (vget runner.lpend 0 0).toNat ≠ runner.pc ∧ (vget runner.lpend 1 0).toNat ≠ runner.pc := by decide +kernel

/-! ### Vectors -/

/-- A core set to c16 elements in single registers, and one set to i64 in pairs. -/
def vcore (type grp : Nat) (span : Nat) : Core :=
  { runner with span, vtype := BitVec.ofNat 5 (grp * 8 + type) }
def vf (d a b : BitVec 5) : VFmt := { stop := true, d, a, b, u := true, pm := false, k := 0 }

theorem test_vector_operands :
    VNames (vcore 1 0 64) (vf 31 31 31) [(31, false), (31, false), (31, false)]
    ∧ VNames (vcore 1 0 64) (vf 30 4 6) [(30, true), (4, false), (6, false)]
    ∧ ¬VNames (vcore 1 1 128) (vf 1 4 6) [(1, false)]
    ∧ (vcore 1 0 64).ty.cplx = false ∧ (vcore 3 0 32).ty.cplx = true ∧ (vcore 3 0 32).ty.w = 16
    ∧ (vcore 4 0 16).ty.e = 64 ∧ (vcore 0 0 128).ty.e ≤ 16 ∧ BitVec.getLsbD (7 : BitVec 5) 0 = true := by decide +kernel

theorem test_vector_elements :
    (vcore 1 0 64).active true false 0 63 = true ∧ (vcore 1 0 64).active true false 0 64 = false
    ∧ (∀ i < 1024, (vcore 1 0 0).active true false 0 i = false)
    ∧ (7 : BitVec 5).toNat < 8 ∧ ((vcore 1 0 64).rg 0).toNat < (vcore 1 0 64).span' true
    ∧ ((4 : BitVec 3).toNat < 5 ∧ 5 ≤ (5 : BitVec 3).toNat) := by decide +kernel

/-- A vector access of two 2-byte elements, and states of the core in which each is good, unaligned,
late or past all memory. -/
def vop (store first : Bool) (a b : Int) : VMemOp :=
  { store, first, wide := true, reg := 4, ebytes := 2, grp := 1, pc := 0x100, made := 0, elems := [(a, true), (b, true)] }
def vmachine : State := withCore 0 { vcore 1 0 2 with lines := [4, 5] }

theorem test_vector_memory :
    (∀ x ∈ (vop false false 0x100 0x13E).elems, ElementGood vmachine 0 (vop false false 0x100 0x13E) x.1)
    ∧ ElementGood vmachine 0 (vop false false 0x100 0x103) 0x100 ∧ (0x103 : Int) % 2 ≠ 0
    ∧ ElementGood (withCore 0 { vcore 1 0 2 with lines := [4], slow := some 0x100 }) 0 (vop false false 0x100 0x102) 0x100
    ∧ (0x100000000 : Int) % 2 = 0 ∧ (2 : Int) ^ 32 ≤ 0x100000000
    ∧ Opens vmachine 0 ∧ opOk (vmachine.core 0) true false 4 = true := by decide +kernel

/-! ### Exceptions and tasks -/

/-- A graph of one core task, and a job of it that runs on the first core. -/
def coreTask : TaskDef :=
  { kind := 0, entry := 0x100, dma := false, internals := [], scratch := (0x200, 0x1000), ekind := 0, block := 0
    blockFrom := none, harq := false, preds := [], reads := [], writes := [], image := [], static := 1000, kbase := 0
    klimit := 0x1000, usesMxc := false, latency := 0 }
def oneTask : Graph := { Graph.null with tasks := [coreTask] }
def mainRun (phase : Nat) (place : Option Place) : TaskRun := { TaskRun.new .main with phase, place, readySince := some 0 }
def oneJob (timed guaranteed : Bool) (deadline : Int) (r : TaskRun) : Job :=
  { Job.new { bareDesc 0 5 with graph := 7, timed, guaranteed, cell := 2 } 1 0 with
    pastStep6 := true, expanded := true, tasks := [{ TaskInst.new false coreTask with runs := [r] }]
    admission := if timed then (if guaranteed then .guaranteed else .bestEffort) else .untimed
    deadline := if timed then some deadline else none, started := decide (r.phase = 1), inVers := [none, none, none,
      none, none]
    outVers := [none, none, none, none, none] }
def mainRef : TaskRef := { q := 0, seq := 5, task := 0, role := .main }
def withJob (j : Job) (x : Core) : State :=
  { withCore 0 x with jobs := [j], graphs := [(0, Graph.null), (7, oneTask)] }
def busy : State := withJob (oneJob false false 0 (mainRun 1 (some (.core 0)))) { runner with task := some mainRef }

theorem test_core_events :
    watchdogCycles busy mainRef ≤ coreCycles { busy with cores := [(0, { runner with task := some mainRef,
                                                                                     cycles := 2 ^ 70 })] } 0
    ∧ runner.running = true ∧ { runner with vfault := true }.vfault = true ∧ runner.sberr = none ∧ runner.mxerr = none
    ∧ [({ pc := 0, ea := 0x50000, made := 0 } : Posted)].find? (fun q => decide (q.ea = 0x50000))
      = some { pc := 0, ea := 0x50000, made := 0 }
    ∧ crossesInto busy (.core 0) 0x4000000000 = none := by decide +kernel

theorem test_tend_task :
    Opens busy 0 ∧ (findRun busy mainRef).isSome = true ∧ TcmGood busy 0 0x80 0x10 ∧ (busy.core 0).dmaChan = none
    ∧ (∀ i < 4, tcmWord busy 0 (0x80 + 4 * i) 4 = 0) := by decide +kernel

/-- A load that waits for its access, and a task whose first output length lies above its capacity. -/
theorem test_access_waits :
    Eff.load (word 0 0) 0x50000 4 none ∈ (Bundle.init.add { cls := .mem, effs := [.load (word 0 0) 0x50000 4 none] }).effs
    ∧ tcmWord { withCore 0 { runner with lines := [2] } with mem := { Mem.init with bytes := [(tcmBase 0 + 0x80,
      5)] } } 0 0x80 4
      = 5 := by decide +kernel

/-! ### Matrices -/

/-- A core that holds the lock of its quad, and one that does not; a part without the coprocessor. -/
def holder : State := { cpu with part := { dev.part with variant := .m5f }, mxcs := [(0,
    { Mxc.init with holder := some 0 })] }

theorem test_matrix_lock :
    hasMxc holder.part.variant = true ∧ holdsMxc holder 0 = true ∧ Opens holder 0
    ∧ (holdsMxc { holder with mxcs := [] } 0 = false ∧ Opens { holder with mxcs := [] } 0)
    ∧ (∃ v : Variant, hasMxc v = false) := ⟨by decide, by decide, by decide +kernel, by decide +kernel, ⟨.m5e, by decide⟩⟩

/-- The row addresses that gA and gB of the holder give (R266). -/
def holderRows : List Nat := (List.range 8).map fun i => ((holder.core 0).rg 3 + BitVec.ofNat 32 i * (holder.core 0).rg
    3).toNat

theorem test_matrix_fields :
    (3 : BitVec 5).toNat < 4 ∧ (7 : BitVec 5).toNat < 8 ∧ BitVec.getLsbD (30 : BitVec 5) 0 = false
    ∧ (∀ a ∈ holderRows, a % 4 = 0 ∧ a + 32 ≤ 0x40000) ∧ (∀ a ∈ holderRows, TcmGood holder 0 a 32)
    ∧ ((holder.core 0).rg 3).toNat % 64 = 0 ∧ TcmGood holder 0 ((holder.core 0).rg 3).toNat 0x1840 := by
  decide +kernel

/-- A core that waits for its lock. -/
def waiter : State := { holder with
  mxcs := [(0, { Mxc.init with waiting := [(0, 5)] })]
  cores := [(0, { runner with bundle := Bundle.init.add (Iss.mx [.mxlock]) })] }

/-- Cores that wait for the lock: the grant, the eviction for it, a drain, and an imprecise error of the holder. -/
theorem test_matrix_events :
    (waiter.mxc 0).waiting = [(0, 5)] ∧ (waiter.mxc 0).holder = none ∧ (waiter.mxc 0).draining = false
    ∧ waiter.up (regMxc 0) = true ∧ NoneWaits (waiter.core 0) ∧ NoLoopEnd (waiter.core 0)
    ∧ (waiter.core 0).bundle = Bundle.init.add (Iss.mx [.mxlock])
    ∧ (holder.core 0).mxerr = none ∧ (holder.core 0).vfault = false := by decide +kernel

/-- A core whose task is guaranteed waits for a lock that an untimed task holds, and has waited long enough (R261). -/
def contended : State := { holder with
  jobs := [{ oneJob true true 6000000000 (mainRun 1 (some (.core 1))) with started := true },
           { oneJob false false 0 (mainRun 1 (some (.core 0))) with desc := { bareDesc 1 5 with graph := 7 } }]
  graphs := [(0, Graph.null), (7, oneTask)]
  cores := [(0, { runner with task := some { mainRef with q := 1 } }), (1, { runner with task := some mainRef })]
  mxcs := [(0, { Mxc.init with holder := some 0, waiting := [(1, 2 ^ 60)] })] }

theorem test_matrix_evicts :
    coreRank contended 1 = some 1 ∧ coreRank contended 0 = some 4 ∧ contended.oval keyMxcWaitEvict * 1000 ≤ 2 ^ 60
    ∧ (refRun contended { mainRef with q := 1 }).isSome = true ∧ 0 < contended.oval keyEvictMax := by decide +kernel

/-! ## The job transport (R64 to R105, R175 to R181) -/

/-- Two queues: one with credit, retransmission due and two records to send; one on the other port. -/
def queueA : Queue := { Queue.init 0 with
  enable := true, nextSeq := 5, creditSeq := 9, creditUnits := 100, acceptedUnits := 30, ackSeq := 2, releasedSeq := 4
  toSend := [(3, 100), (4, 200)], retxDue := 1000, retxInterval := 64000 }
def descA (seq : BitVec 32) (graph : Nat) : Desc :=
  { bareDesc 0 seq with graph, outH := [if graph = 0 then 0 else 0x7F000001, 0, 0, 0] }
def asmA (d : Desc) (complete : Bool) : Asm := { Asm.new 0 with desc := some d, complete }
def transport : State := { dev with
  queues := [(0, queueA), (1, { Queue.init 1 with enable := true, homePort := 1, activePort := 1 })]
  graphs := [(0, Graph.null), (7, { Graph.null with outUsed := [0] })]
  asms := [((0, 5), asmA (descA 5 7) true), ((0, 6), asmA (descA 6 7) false)]
  jobs := [{ Job.new (bareDesc 0 4) 1 0 with pastStep6 := true, record := some (recOf 0) }] }

/-- A transport frame of the host to port 0. -/
def frame (type count length sender : Nat) (payload : List Byte) : RxFrame :=
  { port := 0, dstMac := 0x0242AC110002, srcMac := 0x123456, encap := 0, proto := 0x88B6, vlan := none, srcIp := 0,
    dstIp := 0
    srcUdp := 0, ipOk := true, udpOk := true, version := 1, type, count, length, sender, epoch := 7, payload }

theorem test_frames_for_the_device :
    transportFor transport (frame 1 1 136 0xFFFF (fill 136 0)) = some 0
    ∧ transportFor transport { frame 1 1 136 0xFFFF (fill 136 0) with dstMac := 5 } = none
    ∧ transportFor transport { frame 1 1 136 0xFFFF (fill 136 0) with proto := 0x88B5 } = none := by decide +kernel

/-- Classes of descriptors and segments: disabled, stale, duplicate, beyond credit, held and new (R79, R80). -/
theorem test_descriptor_classes :
    (transport.queue 2).enable = false ∧ (queueA.enable = true)
    ∧ ((0 : BitVec 32) - 5).toInt < 0 ∧ (BitVec.ofNat 32 (5 + 2 ^ 31) - 5).toInt < -(transport.oval keyDedupWindow : Int)
    ∧ ¬0 < ((9 : BitVec 32) - 9).toInt ∧ 0 < ((9 : BitVec 32) - 8).toInt
    ∧ (asmGet transport 0 5).isSome = true ∧ asmGet transport 0 8 = none ∧ transport.job 0 3 = none := by decide +kernel

/-- A job that is accepted, one refused for a graph that is not loaded, and one for a null graph with a deadline (R73,
R83). -/
theorem test_job_acceptance :
    asmGet transport 0 5 = some (asmA (descA 5 7) true) ∧ transport.serving = true ∧ transport.powered = true
    ∧ transport.power.phase = 0 ∧ refusalOf transport (asmA (descA 5 7) true) (descA 5 7) = none
    ∧ (copySlots transport (asmA (descA 5 7) true) (descA 5 7) [0, 1, 2, 3]).isSome = true
    ∧ transport.graph 9 = none ∧ transport.graph 0 = some Graph.null
    ∧ refusalOf transport (asmA (descA 5 9) true) (descA 5 9) = some 0x10
    ∧ asmGet transport 0 6 = some (asmA (descA 6 7) false) ∧ transport.oval keyAssemblyTimeout * 1000 ≤
      transport.time.now := by
  decide +kernel

/-- Without credit for its units a job is refused 0x16. -/
theorem test_job_without_credit :
    refusalOf { transport with queues := [(0, { queueA with creditUnits := 0 })] } (asmA (descA 5 7) true) (descA 5 7)
      = some 0x16 := by decide +kernel

theorem test_transport_timers :
    0 + transport.oval keyAcceptCoalesce ≤ transport.time.now ∧ queueA.toSend = (3, 100) :: [(4, 200)]
    ∧ 100 + transport.oval keyComplCoalesce ≤ transport.time.now
    ∧ queueA.releasedSeq ≠ queueA.ackSeq ∧ queueA.retxHalted = none ∧ canSend transport 0 = true
    ∧ queueA.retxDue ≤ transport.time.now
    ∧ transport.lastRefresh + transport.oval keyCreditRefresh ≤ transport.time.now
    ∧ (transport.jobs.find? fun i => decide (i.qn = 0) && !i.released).isSome = true := by decide +kernel

/-- Port 0 is down and port 1 up, and the other way round (R104, R105). -/
def ports (a b : Nat) : State := { transport with ports := [(0, { Port.init with state := a }), (1,
    { Port.init with state := b })] }

theorem test_ports :
    ((ports 2 2).port 0).state ≠ 0 ∧ 0 + (ports 2 2).oval keyPortDownTime ≤ (ports 2 2).time.now
    ∧ ((ports 0 1).port 0).state = 0 ∧ ((ports 0 1).port 1).state ≠ 0 ∧ ((ports 0 0).port 1).state = 0
    ∧ ((ports 2 2).port 1).upSince + (ports 2 2).oval keyPortUpHold * 1000000 ≤ (ports 2 2).time.now := by decide +kernel

/-- A device with a buddy: a reachable stream with an entry that waits, a source whose IDENTITY asks for take-over. -/
def mirrored : State := { (((dev.setOval keyBuddy 8).setOval keyMirrorMode 1).setOval keyTakeoverMode 1).setOval
    keyMirrorFrom0 3 with
  mirrorTx := { MirrorTx.init with reachable := true, unacked := [{ pos := 0, entry := (identityMarker dev).sealed,
                                                                    sent := 5, tries := 0, held := false }], tries := 1 }
  srcs := [{ MirrorSrc.new 3 with synced := true, identity := [4, 0, 1, 0, 3, 0, 0, 0] }] }

theorem test_mirror_timers :
    mirrored.serving = true ∧ mirrored.oval keyBuddy ≠ 0xFFFF ∧ mirrored.mirrorTx.reachable = true
    ∧ mirrored.mirrorTx.unacked ≠ []
    ∧ mirrored.mirrorTx.sentAt + mirrored.oval keyMirrorTimeout ≤ mirrored.time.now
    ∧ 5 + mirrored.oval keyMirrorTimeout / 4 ≤ mirrored.time.now ∧ mirrored.mirrorTx.lastSend + 1000000 ≤ mirrored.time.now
    ∧ mirrored.oval keyMirrorMode = 1 ∧ mirrored.mirrorTx.fenced = false
    ∧ mirrored.mirrorTx.lastAck + mirrored.oval keyBuddyFenceTime * 1000000 ≤ mirrored.time.now := by decide +kernel

theorem test_buddy_dead :
    (mirrored.srcs.find? fun z => decide (z.source = 3)).isSome = true ∧ mirrored.oval keyMirrorFrom0 = 3
    ∧ mirrored.oval keyTakeoverMode = 1 ∧ nth0 [4, 0, 1, 0, 3, 0, 0, 0] 2 % 2 = 1
    ∧ (MirrorSrc.new 3).lastFrame + mirrored.oval keyBuddyDeadTime * 1000000 ≤ mirrored.time.now := by decide +kernel

/-! ## Scheduling, masking and power (R120 to R191, R517 to R570) -/

/-- Two cells on clusters 1 and 0. -/
def cellA (home gBudget : Nat) : CellCfg :=
  { enable := true, kind := 1, migratable := true, halo := false, home, horizon := 4, slotNs := 500000, epochPeriod := 10000
    epochOffset := 0, gBudget }
def stands (k : Nat) (m : Option Migration) : CellSt :=
  { cluster := k, migration := m, migrations := 3, lastReason := 1, demoted := 0, lastMove := none, ledger := [] }
def sched (budget : Nat) (j : Job) : State := { withCore 36 Core.init with
  cellCfg := [(2, cellA 1 budget), (3, cellA 0 0)], cellSt := [(2, stands 1 none), (3, stands 0 none)]
  graphs := [(0, Graph.null), (7, oneTask)], jobs := [{ j with cluster := 1 }] }
def untimed (r : TaskRun) : State := sched 0 (oneJob false false 0 r)
def timed (budget : Nat) (guaranteed tried : Bool) (d : Int) (r : TaskRun) : State :=
  sched budget { oneJob true guaranteed d r with admission := .none, tried, started := false }

/-- What the dispatch statement asks of the one run of a state: its job, task, run and definition, found. -/
def runOf (s : State) : Option (Job × TaskRun) := (findRun s mainRef).map fun x => (x.1, x.2.2)

/-- A ready core run heads its cluster's order and has a free core that it can start on; so does a replay; on a cluster
without a free core a replay waits. -/
theorem test_dispatch :
    (match runOf (untimed (mainRun 0 none)) with
      | some (j, r) => runReady (untimed (mainRun 0 none)) j 0 coreTask r 0 && isHead (untimed (mainRun 0 none)) j coreTask r
          && decide (36 ∈ freeCores (untimed (mainRun 0 none)) j coreTask r)
          && (startOnCore (untimed (mainRun 0 none)) mainRef j coreTask 36).isSome
      | none => false) = true := by decide +kernel

theorem test_replay :
    (match runOf (untimed (mainRun 3 none)) with
      | some (j, r) => runReady (untimed (mainRun 3 none)) j 0 coreTask r 3
          && decide (36 ∈ freeCores (untimed (mainRun 3 none)) j coreTask r)
          && (freeCores { untimed (mainRun 3 none) with clusters := [(1,
            { Cluster.init with gated := true })] } j coreTask r).length == 0
      | none => false) = true := by decide +kernel

theorem test_admission :
    (timed 1000000 true false 5000600000 (mainRun 0 none)).awake = true
    ∧ (timed 1000000 true false 5000600000 (mainRun 0 none)).schedStopped = false
    ∧ (guaranteedTest (timed 1000000 true true 5001400000 (mainRun 0 none))
        { oneJob true true 5001400000 (mainRun 0 none) with admission := .none, tried := true, started := false,
                                                            cluster := 1 }).isSome = true
    ∧ guaranteedTest (timed 0 true true 5001400000 (mainRun 0 none))
        { oneJob true true 5001400000 (mainRun 0 none) with admission := .none, tried := true, started := false,
                                                            cluster := 1 } = none
    ∧ (bestEffortTest (timed 0 false true 5001400000 (mainRun 0 none))
        { oneJob true false 5001400000 (mainRun 0 none) with admission := .none, tried := true, started := false,
                                                             cluster := 1 }).isSome = true
    ∧ bestEffortTest (timed 0 false true 5000000001 (mainRun 0 none))
        { oneJob true false 5000000001 (mainRun 0 none) with admission := .none, tried := true, started := false,
                                                             cluster := 1 } = none := by
  decide +kernel

/-- A deadline that has passed, before the start and after it, under FINISH and under ABORT (R132). -/
theorem test_deadlines :
    (oneJob true true 4999999999 (mainRun 0 none)).dl ≤ dev.time.now
    ∧ (oneJob true true 4999999999 (mainRun 0 none)).started = false
    ∧ (oneJob true true 4999999999 (mainRun 1 none)).started = true
    ∧ (∃ t ∈ (oneJob true true 4999999999 (mainRun 1 none)).tasks, t.done = false)
    ∧ oneTask.abort = false ∧ (oneJob true true 4999999999 (mainRun 1 none)).isG = true := by decide +kernel

/-- Clusters: one hot, one with a raise under way, one idle for long; a cell whose migration may switch (R138 to R145). -/
def clustered : State := { dev with
  clusters := [(1, { Cluster.init with hotSince := some 5, temp := 900, thermal := 1 }),
    (2, { Cluster.init with opp := 0, oppPending := some 3 }), (3, { Cluster.init with idleSince := some 5 })]
  cellCfg := [(2, cellA 1 0)]
  cellSt := [(2, stands 1 (some { target := 5, reason := 1, startTime := 0, switched := false, source := 1 }))]
  power := { dev.power with state := 1 } }

theorem test_policy_timers :
    clustered.awake = true ∧ clustered.sv.switching = none ∧ clustered.oval keyLearnEnable ≠ 0
    ∧ clustered.lastLearn + clustered.oval keyLearnPeriod * 1000000 ≤ 10 ^ 12
    ∧ clustered.lastDvfs + clustered.oval keyDvfsPeriod * 1000 ≤ clustered.time.now
    ∧ 5 + 100000000 ≤ clustered.time.now ∧ (clustered.cluster 2).oppPending = some 3
    ∧ (clustered.cluster 5).gated = false ∧ clusterUp clustered 5 = true
    ∧ nextSlotBoundary (clustered.cell 2) 0 ≤ clustered.time.now
    ∧ clustered.power.phase = 0 ∧ clustered.power.state = 1 ∧ gateable clustered 3 = true
    ∧ 5 + clustered.oval keyGateIdle * 1000 ≤ clustered.time.now := by decide +kernel

/-- Regions in service, lost and retired; an Overcast whose conditions are gone (R160 to R191). -/
def masked : State := { dev with
  regions := [(regIsland 1, { Region.init with state := 1 }), (0x370, { Region.init with state := 1, strikes := [3] })]
  overcast := { dev.overcast with on := true, cause := 0, lastHeld := [0, 0, 0, 0, 0] } }

theorem test_masking :
    masked.regState (regIsland 0) = 0 ∧ masked.regState (regIsland 1) = 1 ∧ isMemRegion 0x370 = true
    ∧ masked.regState 0x370 = 1
    ∧ masked.overcast.cause &&& (masked.oval keyOvercastMask ||| 1) = 0
    ∧ 0 + masked.oval keyOvercastExitHold * 1000000 ≤ masked.time.now := by decide +kernel

theorem test_supervisors :
    dev.sv.pair0 = 0 ∧ dev.sv.pair1 = 1 ∧ dev.sv.active = 0 ∧ dev.sv.lastCopy + 1000000 ≤ dev.time.now
    ∧ dev.regState (regSv 0) ≠ 2 := by decide +kernel

/-- An image of 80 bytes whose CRC seal passes, which a firmware update may take (R174, R501, R549, R551). -/
def imageHead : List Byte := [0x4E, 0x4C, 0x4B, 0x35, 80, 0, 0, 0, 3, 0, 0, 0, 3, 3, 0, 7]
def image : List Byte := imageHead ++ fill 16 0 ++ fill 16 0 ++ fill 16 0 ++ beBytes 4 0x1355DA5D ++ fill 12 0

theorem image_crc : crc32 (imageHead ++ fill 16 0 ++ fill 16 0 ++ fill 16 0) = 0x1355DA5D := by
  have h1 : imageHead.foldl crc32Step 0xFFFFFFFF#32 = 0xBA022DB9#32 := by decide +kernel
  have h2 : (fill 16 0).foldl crc32Step 0xBA022DB9#32 = 0x787780E8#32 := by decide +kernel
  have h3 : (fill 16 0).foldl crc32Step 0x787780E8#32 = 0x377DB9EB#32 := by decide +kernel
  have h4 : (fill 16 0).foldl crc32Step 0x377DB9EB#32 = 0xECAA25A2#32 := by decide +kernel
  simp only [crc32, List.foldl_append, h1, h2, h3, h4]
  decide

def updated : State := { dev with flash := { dev.flash with fwImage := image } }

theorem test_update_image : (authenticFw updated).isSome = true := by
  have p : parseImage image = some ({ bytes := image, generation := 3, release := 0x303, stateFormat := 0,
                                      variants := 7 }, 80) := by
    decide +kernel
  have t : image.drop 64 = tagOf none (image.take 64) := by
    have h : image.take 64 = imageHead ++ fill 16 0 ++ fill 16 0 ++ fill 16 0 := by decide +kernel
    rw [tagOf, h, image_crc]; decide +kernel
  have a : imageAuthentic updated { bytes := image, generation := 3, release := 0x303, stateFormat := 0,
                                    variants := 7 } = true := by
    have k : keyOf updated 1 = none := by decide +kernel
    have l : image.length - 16 = 64 := by decide +kernel
    simp only [imageAuthentic, k, l, t, decide_true, Bool.or_true]
  have f : updated.flash.fwImage = image := rfl
  have e : (!image.isEmpty) = true := by decide +kernel
  simp only [authenticFw, f, p, a, e, Bool.and_self, if_true, Option.isSome_some]

/-! ### Power -/

def powered (phase state target block dawn : Nat) : State :=
  { ((dev.setOval keyWakeEnable 0xFF).setOval keyEngineGate 1).setOval keyWakeAlarm (4 * 2 ^ 32 + 7) with
    power := { dev.power with phase, state, target, block, dawn } }

theorem test_dusk :
    alarmDue (powered 1 0 2 2 0) = true ∧ alarmDue dev = false
    ∧ (powered 1 0 2 2 0).power.prepAt + 50000 ≤ (powered 1 0 2 2 0).time.now
    ∧ nMigrating clustered ≠ 0 ∧ (∀ j ∈ clustered.jobs, j.final = true) ∧ (5 : Nat) ∈ [5, 6, 8] := by decide +kernel

theorem test_wakes :
    tbit ((powered 0 2 0 0 0).oval keyWakeEnable) 0 = true ∧ tbit ((powered 0 3 0 0 0).oval keyWakeEnable) 1 = true
    ∧ (powered 0 2 0 0 0).supply.aonUp = true ∧ (powered 0 3 0 0 0).oval keyWakeAlarm ≠ 0 ∧ regLow (powered 0 3 0 0 0) = true
    ∧ 4 * 1000000000 + 7 ≤ (powered 0 3 0 0 0).time.now := by decide +kernel

/-- An engine island that has been idle for long, and gated islands (R519, R520). -/
theorem test_islands :
    islandQuiet (powered 0 1 0 0 0) 25 = true
    ∧ kget [(25, 5)] 25 = some 5 ∧ 5 + dev.oval keyGateIdle * 1000 ≤ dev.time.now ∧ (33 : Nat) ∉ ([] : List Nat)
    ∧ (powered 0 1 0 0 0).overcast.on = false ∧ (powered 0 1 0 0 0).awake = true := by decide +kernel

theorem test_supplies :
    dev.supply.aonUp = true ∧ State.reset.supply.aonUp = false ∧ State.reset.supply.pwrGood = false
    ∧ dev.supply.resetN = true
    ∧ dev.supply.restart = none ∧ dev.powered = true ∧ dev.power.pendingCause = none
    ∧ dev.supply.resetFallAt + 100000000 ≤ dev.time.now := by decide +kernel

/-! ## Cleip, time, memories and engines (R278 to R322, R393 to R515) -/

/-- Who asks on a carrier. -/
def asker (carrier : Nat) : CleipSrc :=
  { carrier, mac := if carrier < 2 then 0xAABBCCDDEE00 else 0, ip := 0, udp := 0, encap := 0, vlan := none, pcp := 0 }

/-- How a frame reaches a port of the device with a protocol of its own. -/
def reached (port proto : Nat) : FrameTo := { noFrame with dstMac := 0x0242AC110002 + port, proto, ipOk := true,
                                                           udpOk := true }

/-- A request for object k. -/
def asks (carrier k off : Nat) (last : Bool) (b : List Byte) : CleipReq :=
  { src := asker carrier, version := 1, resp := false, last, tid := 77, index := k / 256, sub := k % 256, length := b.length
    offset := off, body := b, frame := if carrier < 2 then reached carrier 0x88B5 else noFrame, flashOk := true,
      cipherFaults := 0 }

theorem test_cleip_requests :
    (Served dev 1 (asks 0 0x500101 0 false []) ∧ preStatus (taken dev (asks 0 0x500101 0 false [])) 1 (asks 0 0x500101 0
      false []) = csOk)
    ∧ preStatus (taken dev (asks 2 0x500177 0 false [])) 1 (asks 2 0x500177 0 false []) ≠ csOk
    ∧ (Served dev 3 (asks 3 keyCellConfig 0 false (beBytes 4 32))
      ∧ preStatus (taken dev (asks 3 keyCellConfig 0 false (beBytes 4 32))) 3 (asks 3 keyCellConfig 0 false (beBytes 4
        32)) = csOk)
    ∧ (Served dev 4 (asks 3 keyCellConfig 0 false (fill 32 0))
      ∧ preStatus (taken dev (asks 3 keyCellConfig 0 false (fill 32 0))) 4 (asks 3 keyCellConfig 0 false (fill 32 0)) = csOk
      ∧ isDomain keyCellConfig = true ∧ isVariable keyCellConfig = false) :=
  ⟨by decide +kernel, by decide +kernel, by decide +kernel, by decide +kernel⟩

theorem test_cleip_subscribe :
    Served dev 5 (asks 2 0x500101 0 false ([1, 0, 0, 0] ++ beBytes 4 10))
    ∧ preStatus (taken dev (asks 2 0x500101 0 false ([1, 0, 0, 0] ++ beBytes 4 10))) 5
        (asks 2 0x500101 0 false ([1, 0, 0, 0] ++ beBytes 4 10)) = csOk
    ∧ subMode (asks 2 0x500101 0 false ([1, 0, 0, 0] ++ beBytes 4 10)) = some 1
    ∧ eventObjects.contains keyLastRefusal = true :=
  ⟨by decide +kernel, by decide +kernel, by decide +kernel, by decide +kernel⟩

theorem test_cleip_checks :
    ethOpen dev (asker 0) = true ∧ (asker 1).carrier < 2 ∧ indexExists 0x1234 = false ∧ indexExists 0x5001 = true
    ∧ subExists 0x5001 0x77 = false ∧ subExists 0x5001 1 = true ∧ servedInRecovery keyCellConfig = false
    ∧ absentObject { dev with part := { dev.part with variant := .m5e } } 0x6001 1 = false := by decide +kernel

theorem test_cleip_timers :
    0 + dev.oval keySubLease * 1000000000 ≤ 10 ^ 15 ∧ 0 + dev.oval keyCleipBlockTimeout * 1000000 ≤ dev.time.now
    ∧ 0 + dev.oval keyCleipReplayHold * 1000000 ≤ dev.time.now ∧ mgmtUp dev = true ∧ sealOwn dev = 0 := by decide +kernel

theorem test_serial_ports :
    msStores dev = false ∧ mgmtUp dev = true ∧ canWake dev = false ∧ serialBusy dev 2 = false ∧ dev.cleip.ms.response = none
    ∧ fpOn dev = true ∧ dev.fport.ir = 0x20 ∧ dev.fport.rd = none ∧ fpOn State.reset = false := by decide +kernel

/-! ### Time -/

def domain (state : Nat) (slave : Option Nat) (a : Option (Nat × Nat × Nat)) : Domain :=
  { Domain.init with state, slave, ann0 := a }
def timed' (d : Domain) : State := { ((dev.setOval (keyPtpEnable 0) 1).setOval (keyPtpPorts 0) 3).setOval keyPpsInMode 1 with
  time := { dev.time with ta := d, lastPps := some 3000000000 } }

theorem test_beats :
    dev.supply.aonUp = true ∧ dev.powered = true ∧ dev.time.step = none ∧ islandPowered dev 0 = true
    ∧ islandPowered dev 47 = true
    ∧ dev.time.now % 1000000000 = 0 ∧ (dev.link 0).latchSec ≠ dev.time.now / 1000000000
    ∧ (dev.setOval keyPpsOutMode 0).oval keyPpsOutMode = 0
    ∧ domainState (timed' (domain 4 none none)) (activeDom dev) = 4 ∧ 3000000000 + 1001000000 < dev.time.now := by
    decide +kernel

theorem test_ptp :
    ptpPort (timed' (domain 3 (some 0) (some (5, 77, 0)))) 0 0 = true ∧ portUp dev 0 = true
    ∧ ptpDst 0x011B19000000 = true ∧ ptpDst 0x011B19000001 = false ∧ tcDomain dev 24 = false
    ∧ domainOf (timed' (domain 3 (some 0) none)) 24 = some 0 ∧ domainOf dev 25 = none
    ∧ ptpPortState (timed' (domain 1 none none)) 0 0 = 6 ∧ ptpPortState (timed' (domain 3 (some 0) none)) 0 0 = 9
    ∧ domainOn (timed' (domain 3 (some 0) none)) 0 = true ∧ 0 + 375000000 ≤ dev.time.now
    ∧ tcDomain (dev.setDom keyTcDomains 3 [0x10#8]) 28 = true := by decide +kernel

/-! ### Memories -/

def memory : State := { dev with mem := { dev.mem with
  inEffect := 0x801, bad := [(clusterBase 3 + 64, .correctable)], drizzle := [(579, { Drizzle.init with nextAddr := 64 })]
  rewriting := [3], chans := [(0, { DramChan.init with changing := true })] } }

theorem test_memory_upkeep :
    scrubs memory 579 = true ∧ (memory.drizzle 579).nextAddr + 8 < 0x800000
    ∧ kget memory.mem.bad (clusterBase 3 + 64) = some .correctable ∧ memAt memory (clusterBase 3 + 64) = .cluster 3
    ∧ kget memory.mem.bad (clusterBase 0) = none ∧ (memory.drizzle 579).late = false
    ∧ rankPresent memory 0 = true ∧ regionAbsent memory (regSub 0) = false ∧ (memory.dramChan 0).changing = true
    ∧ poolFilling { memory with mem := { memory.mem with fills := [(0x90, clusterBase 3, 4096)] } } 0x90 = true := by
    decide +kernel

def modules (m : Module) : State := { dev.setDom keyModuleMap 0 (beBytes 8 (2 ^ 63 + 0 * 2 ^ 49 + 1 * 2 ^ 42 + 0x7F * 2 ^
    35 + 0x7F * 2 ^ 28)) with
  opt := { dev.opt with modules := [(0, m)] } }

theorem test_modules :
    moduleOn (modules Module.init) 0 = true ∧ dev.sv.switching = none ∧ Module.init.lastPoll = none ∧ Module.init.fails < 2
    ∧ Module.init.serial = none ∧ ((modules { Module.init with state := 4 }).module 0).state = 4
    ∧ ((modules Module.init).setOval keyAutoDrain 0).oval keyAutoDrain = 0
    ∧ (86400 * 1000000000 * 3) % (86400 * 1000000000) = 0 := by decide +kernel

/-! ### Engines and DMA -/

/-- A graph of one engine task of each kind, its job and the entries that its tasks have become. -/
def engineTask (kind ekind : Nat) : TaskDef := { coreTask with kind, ekind, static := 1 }
def engineGraph : Graph := { Graph.null with tasks := [engineTask 1 1, engineTask 2 2, engineTask 3 3, engineTask 3 4,
    engineTask 4 5
  , engineTask 4 6, engineTask 5 0] }
def engineJob : Job := { oneJob false false 0 (mainRun 5 none) with
  desc := { bareDesc 0 5 with graph := 9, cell := 2 }, tasks := engineGraph.tasks.map fun d =>
    { TaskInst.new false d with runs := [mainRun 5 none] } }
def entryOf' (t ekind : Nat) : Entry :=
  { task := { mainRef with task := t }, kind := ekind, rank := 3, dkey := 0xFFFFFFFF, start := 0, inAddr := 0, inVirt := none
    inLen := 0, outAddr := 0, outCap := 0, block := 0, harqIn := 0, harqOut := 0, harqSize := 0, harqBad := false,
      isReplay := false }
def queued (t ekind : Nat) : State :=
  { dev with jobs := [engineJob], graphs := [(9, engineGraph)], entries := [entryOf' t ekind] }

theorem test_engines_take :
    (takes (queued 0 1) 1 0 1).isSome = true ∧ (takes (queued 1 2) 2 0 2).isSome = true
    ∧ (takes (queued 2 3) 3 0 3).isSome = true
    ∧ (takes (queued 3 4) 3 0 4).isSome = true ∧ (takes (queued 4 5) 4 0 5).isSome = true
    ∧ (takes (queued 5 6) 4 0 6).isSome = true
    ∧ (takes { queued 6 0 with part := { dev.part with variant := .m5f } } 5 0 0).isSome = true
    ∧ nbIsTx 0 = false ∧ nbIsTx (2 ^ 508) = true := by decide +kernel

/-- An engine at work on its entry, past its watchdog; a modem slice whose test has run long enough. -/
theorem test_engines_end :
    0 < nEngines .m5f 1 ∧ watchdogDue dev { Engine.init with entry := some (entryOf' 0 1), startTime := 0 } 5 = true
    ∧ 0 + 1000000 ≤ dev.time.now := by decide +kernel

/-- A channel at a descriptor in its cluster's memory (R397, R399). -/
def dd (op src dst len : Nat) : List (BitVec 64) :=
  [BitVec.ofNat 64 (op * 2 ^ 57), 2 ^ 63, BitVec.ofNat 64 src, BitVec.ofNat 64 dst, BitVec.ofNat 64 len, 0, 0, 0]
def channel (c : Chan) : State := { dev with
  chans := [(0, c)], mem := { dev.mem with bytes := msetAll [] (clusterBase 0) ((dd 0 64 128 4).flatMap fun w => leBytes
    8 w.toNat) } }

theorem test_dma_channels :
    chanLive (channel Chan.init) 0 = true ∧ chanLive dev 255 = true
    ∧ (match (chanRead (channel { Chan.init with state := .running, cur := clusterBase 0 }) 0 (clusterBase 0) 64).2 with
      | .ok b => (BitVec.ofNat 64 (leNat (slice b 8 8))).getLsbD 63
      | _ => false) = true
    ∧ (ddOf (dd 0 64 128 4)).ok = true ∧ (ddOf (dd 1 7 128 4)).op = 1
    ∧ (writeBack (channel { Chan.init with state := .running, cur := clusterBase 0 }) 0 (clusterBase 0) 1 4).2 = none := by
  decide +kernel

/-! ## The fronthaul (R324 to R392, R514) -/

/-- Lanes of group 0: each in a state of its own, with the blocks it holds. -/
def laneIn (state : LaneState) (blocks : List LaneBlk) : Lane := { Lane.init with state, blocks, signal := true }
def lanes (f : Nat → Lane) : State := { dev with fh := { dev.fh with lanes := (List.range 17).map fun i => (i, f i) } }
def filler (i : Nat) : LaneBlk := { kind := .filler, payload := fillerPayload 7 i 0 }
def data (v : Nat) : LaneBlk := { kind := .data, payload := BitVec.ofNat 256 v }

theorem test_lane_blocks :
    headerKind 0xA5 = .data ∧ headerKind 0x5A = .filler ∧ headerKind 0xA4 = .bad
    ∧ tbit (dev.oval keySlipMode) 0 = false ∧ dev.sv.switching = none
    ∧ (List.replicate 16 true).length = 16 ∧ ((List.replicate 64 true).filter id).length ≥ 16
    ∧ (67 : Nat) < 68 ∧ 67 ∈ groupLanes 3 := by decide +kernel

/-- A filler row over ALIGNED lanes and one over LOCKED lanes; a data row of ALIGNED lanes with one erased. -/
def fillers (state : LaneState) : State := lanes fun i => laneIn state [filler i]
def datas : State := lanes fun i => { laneIn .aligned [data i] with erased := decide (i = 3) }

theorem test_filler_rows :
    rowIsFiller (fillers .aligned) 0 = true ∧ (fillerOf ((fillers .aligned).lane 16)).isSome = true
    ∧ (fillerOf ((fillers .locked).lane 0)).isSome = true ∧ fillerCount (filler 4).payload = 7
    ∧ fillerLane (filler 4).payload = 4
    ∧ groupCount (fillers .locked) 0 = 7 ∧ (∀ m ∈ groupLanes 0, ((fillers .aligned).lane m).drain ≠ .verify) := by
    decide +kernel

theorem test_data_rows :
    erasedLanes datas 0 = [3] ∧ rowIsFiller datas 0 = false ∧ (datas.lane 0).state ≠ .off
    ∧ (datas.lane 16).blocks ≠ [] ∧ (datas.link 0).txRows = [] ∧ (Link.init.txSinceFiller < 16383) := by decide +kernel

/-- A link set up on group 0, and a fronthaul cell on it (R375, R384). -/
def linked : State := { ((((dev.setDom keyLinkConfig 0 (beBytes 16 (2 ^ 127 + 112 * 2 ^ 96 + 10 ^ 6 * 2 ^ 32 +
    10000))).setDom keyFhCell 16
    (beBytes 8 (2 ^ 63 + 2 ^ 60 + 2 * 2 ^ 51 + 6 * 2 ^ 42 + 0x80 * 2 ^ 34 + 2 ^ 30))).setDom keyAnvilPoolRole 0
      [1#8]).setOval
    (keyPoolBufSize 0x80) 8192).setOval (keyPoolShadow 0x80) 4 with
  cellCfg := [(2, cellA 1 0)], fh := { dev.fh with lanes := [(0, laneIn .hunt [])] } }

/-- A section of the cell as its link carries it. -/
def header (kind comp cell port symbol slot first num : Nat) : List Byte :=
  let b := (beBytes 16 (kind * 2 ^ 124 + comp * 2 ^ 121 + cell * 2 ^ 108 + port * 2 ^ 100 + symbol * 2 ^ 96 + slot * 2 ^ 64
    + first * 2 ^ 52 + num * 2 ^ 40)).take 14
  b ++ beBytes 2 (crc16 b).toNat
def version (slot : Int) (phys : Option Nat) : FhVersion :=
  { container := false, id := 2, slot, pool := 0x80, phys, sealed := false, sealTime := 0, expected := List.range 168,
    landed := []
    sections := 0, overflow := false, released := false, expired := false, damaged := false, pins := [] }
def streamed (b : List Byte) : State := { linked with fh := { linked.fh with
  links := [(0, { Link.init with framer := 3, inStep := true, stream := b.map fun x => (x, false, 4999000000) })]
  vers := [(4, version 10003 (some 1))] } }
def streamOf (s : State) : List (Option Byte) := (s.link 0).stream.map fun b => if b.2.1 then none else some b.1

theorem test_sections :
    secHeld (streamed (header 1 1 2 1 4 3 2 3 ++ fill 80 1)) (streamOf (streamed (header 1 1 2 1 4 3 2 3 ++ fill 80 1)))
      = true
    ∧ secHeld (streamed (header 0 0 0 0 0 0 0 0)) (streamOf (streamed (header 0 0 0 0 0 0 0 0))) = true
    ∧ secHeld (streamed (fill 16 7)) (streamOf (streamed (fill 16 7))) = false
    ∧ slotOfN (linked.cell 2) 3 linked.time.now = 10003 ∧ sealedOut linked false 2 10003 4999000000 = false
    ∧ sealedOut linked false 2 9999 5000000000 = true
    ∧ fhLink (fhCell linked 2) = 0 ∧ fhComp (fhCell linked 2) = 1 ∧ physUsable linked 0x80 1 = true
    ∧ (fhvAddr linked (version 10003 (some 1))).isSome = true := by decide +kernel

/-- Rows of the receiver: their markers are where the frames begin (R348, R358). -/
def blank : List (Option (BitVec 256)) := List.replicate 16 (some 0)
def marked (bfn : Nat) : List (Option (BitVec 256)) := some (BitVec.ofNat 256 (0x6D2BF385 * 2 ^ 224 + bfn * 2 ^ 216)) ::
    List.replicate 15 (some 0)

theorem test_framer :
    markerBfn (marked 5) = some 5 ∧ markerBfn blank = none ∧ markerBfn (none :: blank) = none
    ∧ (∀ i, i < 128 → tdRxEn (tdCont dev i) = false) ∧ fhStopped dev 5 = false := by decide +kernel

theorem test_defects :
    tbit 0x2A 3 = true ∧ tbit 0x2A 4 = false ∧ 0 + dev.oval (defectKeys 3).1 * 1000 ≤ dev.time.now
    ∧ 0 + dev.oval (defectKeys 5).2 * 1000 ≤ dev.time.now ∧ dev.time.now < 4999999999 + dev.oval (defectKeys 5).1 * 1000
    ∧ dev.oval keyAisSet ≤ 10 ^ 6 ∧ dev.oval keyRdiClear ≤ 10 ^ 6 ∧ dev.oval keyDegSet ≤ 10 ^ 6 := by decide +kernel

theorem test_versions :
    slotEnd (linked.cell (fhvCell linked (version 9998 (some 1)))) 9998 + lateMax linked (fhvLink linked (version 9998
      (some 1)))
      ≤ (linked.time.now : Int)
    ∧ (linked.time.now : Int) < slotEnd (linked.cell 2) 10003 + lateMax linked 0
    ∧ 0 + fhRetain (fhCell linked 2) * (linked.cell 2).slotNs ≤ linked.time.now := by decide +kernel

/-- Transmit queues: a section too late, one of a damaged version, one in time on a link and on a virtual link. -/
def sending : State := { (linked.setDom keyEcpriVlinks 0 (beBytes 16 (2 ^ 127 + 3))) with
  vers := [(1, { handle := 0x80000001, phys := 1, len := 64, st := .valid, order := 3, superseded := false, pins := [] })] }

theorem test_sending :
    tbit (linkCfg sending 0) 127 = true ∧ (sending.lane 0).state ≠ .off ∧ (sending.link 0).txRows = []
    ∧ (∀ i, i < 128 → tdTxEn (tdCont sending i) = false) ∧ txReady sending 0 = true ∧ txReady sending 4 = true
    ∧ txReady sending 5 = false ∧ (kget sending.vers 1).isSome = true
    ∧ (6000000000 : Int) - (txAdvance sending 0 : Int) > (sending.time.now : Int) := by decide +kernel

def container : State := { linked.setDom keyTdContainers 0 (beBytes 16 (2 ^ 126 + 2 * 2 ^ 112 + 200 * 2 ^ 96 + 1000 * 2 ^ 80
    + 30720000 * 2 ^ 48 + 2 ^ 32)) with part := { dev.part with variant := .m5f } }

theorem test_containers :
    tdTxEn (tdCont container 0) = true ∧ tdDen (tdCont container 0) = 1 ∧ tdNum (tdCont container 0) = 30720000
    ∧ hasNbm container.part.variant = true ∧ linkEnabled container 0 = true ∧ groupOn container 0 = true
    ∧ fhStopped container 6 = false
    ∧ txVersion container 0 10000 = none := by decide +kernel

/-! ### eCPRI and radio units -/

def peer : Peer := { mac := 7, encap := 0, ip := 0, udp := 0, vlan := none }
def ecpri : State := (sending.setOval keyEcpriEncap 7).setDom keyFhCell 16
  (beBytes 8 (2 ^ 63 + 2 ^ 60 + 2 * 2 ^ 51 + 6 * 2 ^ 42 + 0x80 * 2 ^ 34 + 2 ^ 30 + 4 * 2 ^ 23))

theorem test_ecpri :
    ecpriTaken ecpri 0 peer (reached 0 0xAEFE) = true ∧ ecpriTaken ecpri 0 peer (reached 0 0x88B5) = false
    ∧ tbit (vlinkCfg ecpri 0) 127 = true ∧ tbit (vlinkCfg ecpri 63) 127 = false
    ∧ secValid (ecpriNote ecpri 0 5) (header 1 1 2 1 4 3 2 3) = true
    ∧ (secHdr (header 2 0 2 0 15 0 0 3)).kind = 2 ∧ secValid (ecpriNote ecpri 0 5) (header 2 0 2 0 15 0 0 3) = true
    ∧ secValid (ecpriNote ecpri 0 5) (fill 16 7) = false := by decide +kernel

theorem test_radio_units :
    0 + dev.oval keyMcTimeout * 1000 ≤ dev.time.now ∧ 0 < dev.oval keyMcRetries
    ∧ 0 + dev.oval keyRuPoll * 1000000000 ≤ 10 ^ 15 := by
  decide +kernel

/-! ## Writes (R107 to R119, R174 to R188, R302 to R390, R421 to R518, R547) -/

/-- A WRITE of object k with value v, as long as its type. -/
def writes (carrier k v : Nat) : CleipReq :=
  asks carrier k 0 false (beBytes (((objRow (k / 256) (k % 256)).map fun x => tyBytes x.ty).getD 0) v)

/-- Whether a WRITE reaches the rule of object k. -/
def reachesCheck (s : State) (r : CleipReq) (k : Nat) : Bool :=
  decide (Served s 2 r) && decide (reqKey r = k) && !r.last && decide (preStatus (taken s r) 2 r = csOk)
    && (match objRow (k / 256) (k % 256) with
      | some row => fitsType (taken s r) row k false (proposed r).data && inTable row (proposed r).val
      | none => false)

theorem reaches_of_check {s : State} {r : CleipReq} {k : Nat} (h : reachesCheck s r k = true) : Reaches s r k := by
  unfold reachesCheck at h
  split at h
  · next row hr =>
    simp only [Bool.and_eq_true, decide_eq_true_eq, Bool.not_eq_true'] at h
    obtain ⟨⟨⟨⟨a, b⟩, c⟩, d⟩, e⟩ := h
    exact ⟨a, b, c, d, row, hr, e.1, e.2⟩
  · simp at h

/-- Whether a segment is the only and the last one of a block write of object k. -/
def segmentCheck (s : State) (r : CleipReq) (k : Nat) : Bool :=
  decide (LastSegment s r k) && decide ((taken s r).cleip.blocks.length < 4)
    && (taken s r).cleip.blocks.all (fun b => decide (b.key ≠ k)) && (!isVariable k || decide (r.offset = 0))

theorem proposes_of_check {s : State} {r : CleipReq} {k : Nat} (h : segmentCheck s r k = true) :
    ∃ t w, Proposes s r k 4 t w := by
  simp only [segmentCheck, Bool.and_eq_true, decide_eq_true_eq, List.all_eq_true, Bool.or_eq_true, Bool.not_eq_true'] at h
  obtain ⟨⟨⟨a, b⟩, c⟩, d⟩ := h
  exact ⟨_, _, .segment a b c fun v => d.resolve_left (by simp [v])⟩

/-- WRITE requests that reach the rules of their objects, by carrier, object and value. -/
def wholeWrites : List (Nat × Nat × Nat) :=
  [(2, keyTimeSet, 5), (2, keyAdjust, 7), (2, keyIncrement, 9), (2, keyActiveDomain, 1), (2, keyTimeRefSel, 1)
  , (2, keyPtpDomain 0, 24), (2, keyPtpDomain 1, 24), (2, keyDramConfig, 0), (2, keyDramFreqCmd, 1), (2, keyOpticsCmd, 256)
  , (2, keyOpticsCmd, 512), (3, keyGroupEnable, 1), (3, keyLaneCmd, 0x100), (3, keyLaneCmd, 0x200), (3, keyLaneCmd, 0x300)
  , (3, keyLaneCmd, 0x400), (3, keyLaneCmd, 0x7F + 0x200), (3, keyQueueReset, 0x8000), (3, 0x430102, 0), (3, 0x43FE06, 0)
  , (3, keyResultBufSize, 4096), (3, keyResultStoreBytes, 2 ^ 34), (3, keyResultHandles, 1), (3, keyMigrateCmd, 0x10000)
  , (3, 0x50000D, 600), (3, 0x50010D, 0), (3, 0x50020D, 600), (2, keyCleipEtype, 0x88B6), (2, keyTransportEtype, 0x88B6)
  , (2, keyCleipUdp, 5000), (2, keyTransportUdp, 5000), (2, keyEcpriUdp, 5000), (2, keyMcTimeout, 2000)
  , (2, keyFwUpdateCmd, 1), (2, keyRegionRestore, 5), (2, keyRegionRetire, 5), (2, keyOvercastMask, 31), (3, keyBuddy, 8)
  , (3, keyBuddy, 0xFFFF), (3, keyTakeoverCmd, 0xFFFF), (2, keyBuddyRelease, 0), (2, keyPowerTarget, 1), (2, keyDeepCmd, 1)
  , (2, keyDeepCmd, 0), (2, keyResetCmd, 1), (2, keyResetCmd, 2), (2, keyResetCmd, 3), (3, keyKeyErase, 1)
  , (3, keyCipherLock, 1), (3, keyCipherLockBoot, 1), (3, keyMakerLockBlow, 0x23456789), (3, keyAuditExported, 0)]

/-- Block writes of one segment, by carrier, object, offset and length. -/
def segmentWrites : List (Nat × Nat × Nat × Nat) :=
  [(3, keyCellConfig, 32, 32), (3, keyQueueConfig, 16, 16), (3, keyModuleMap, 0, 8)
  , (3, keyLaneConfig, 67 * 8, 8), (3, keyLinkConfig, 16, 16), (3, keyTdContainers, 0, 16), (3, keyTdLanding, 0, 8)
  , (3, keyAnvilPoolRole, 0, 1), (3, keyFhCell, 16, 8), (3, keyNbChannelTable, 0, 16), (3, 0x810001, 0, 1)
  , (3, 0x811001, 0, 1), (2, keyTsa, 0, 16), (2, keyTsb, 0, 16), (2, keyDramDelays, 0, 1), (2, keyTcDomains, 0, 16)
  , (0, keyAdmitProbe, 0, 34), (3, keyKeyLoadPlain, 0, 34), (3, keyKeyLoadWrapped, 0, 44), (3, keyFwImage, 0, 96)
  , (3, keyConfigBackup, 0, 48)]

theorem test_whole_writes : ∀ x ∈ wholeWrites, Reaches dev (writes x.1 x.2.1 x.2.2) x.2.1 :=
  fun x h => reaches_of_check
    ((show ∀ x ∈ wholeWrites, reachesCheck dev (writes x.1 x.2.1 x.2.2) x.2.1 = true by decide +kernel) x h)

theorem test_segment_writes :
    ∀ x ∈ segmentWrites, ∃ t w, Proposes dev (asks x.1 x.2.1 x.2.2.1 true (fill x.2.2.2 0)) x.2.1 4 t w :=
  fun x h => proposes_of_check
    ((show ∀ x ∈ segmentWrites, segmentCheck dev (asks x.1 x.2.1 x.2.2.1 true (fill x.2.2.2 0)) x.2.1 = true by
      decide +kernel) x h)

/-- A WRITE proposes its value; the last of two segments proposes the bytes of both (R471). -/
theorem test_proposes_whole : ∃ t w, Proposes dev (writes 2 keyTimeRefSel 1) keyTimeRefSel 2 t w :=
  ⟨_, _, .whole (reaches_of_check (by decide +kernel))⟩

theorem test_proposes_learned_budgets :
    ∃ t w, Proposes { dev with graphs := [(0, oneTask)] } (asks 3 keyKernelTable 0 true (fill 16 0)) keyKernelTable 4 t w :=
  proposes_of_check (by decide +kernel)

/-- A block write whose first segment has come. -/
def half : BlockWrite :=
  { requester := asker 3, key := keyCellConfig, start := 32, data := fill 16 0, lastSeg := 5000000000, tid := 77
    rec' := auditFor dev 1 (asks 3 keyCellConfig 32 false (fill 16 0)) (reqWrite (asks 3 keyCellConfig 32 false (fill 16
      0)) 32 (fill 16 0)) }
def halfWritten : State := { dev with cleip := { dev.cleip with blocks := [half] } }

theorem test_proposes_staged :
    ∃ t w, Proposes halfWritten (asks 3 keyCellConfig 48 true (fill 16 0)) keyCellConfig 4 t w :=
  ⟨_, _, .staged half (by decide +kernel) (by decide +kernel) (by decide +kernel) (by decide +kernel)⟩

/-- What the table of objects refuses before the rule of the object: another row's object, a value longer than its type,
and a
value outside its range (R475, R478). -/
theorem test_rows :
    RowOf (writes 3 keyBuddyRelease 0) (fun k => decide (k = keyBuddyRelease)) (.buddyRelease (writes 3 keyBuddyRelease 0))
    ∧ decide (reqKey (writes 3 keyBuddy 8) = keyBuddyRelease) = false
    ∧ preStatus (taken dev (writes 3 keyBuddyRelease 0)) 2 (writes 3 keyBuddyRelease 0) ≠ csOk
    ∧ Served dev 2 (writes 3 keyBuddyRelease 0)
    ∧ fitsType dev ⟨0x6030, 1, 0x03, .u16, 1, 3, 3, 65535, true, 0, 65535⟩ keyBuddy false [0#8, 0#8, 8#8] = false
    ∧ inTable ⟨0x6030, 1, 0x01, .u16, 1, 3, 3, 0, true, 0, 1023⟩ 1024 = false :=
  ⟨.buddyRelease, by decide +kernel, by decide +kernel, by decide +kernel, by decide +kernel, by decide +kernel⟩

/-- What the writes of the buddy, of power and of reset distinguish. -/
theorem test_write_cases :
    reqVal (writes 2 keyBuddyRelease 0) = (taken dev (writes 2 keyBuddyRelease 0)).oval keyDeviceNumber
    ∧ reqVal (writes 2 keyBuddyRelease 1) ≠ (taken dev (writes 2 keyBuddyRelease 1)).oval keyDeviceNumber
    ∧ reqVal (writes 2 keyDeepCmd 1) = 1 ∧ reqVal (writes 2 keyResetCmd 2) = 2
    ∧ ¬((taken dev (writes 2 keyDeepCmd 1)).overcast.on = true ∨ (taken dev (writes 2 keyDeepCmd 1)).power.phase ≠ 0
      ∨ (taken dev (writes 2 keyDeepCmd 1)).sv.updState = 2)
    ∧ laneCode (writes 3 keyLaneCmd 0x2FF) = 2 ∧ reqVal (writes 3 keyLaneCmd 0x2FF) % 128 = 127
    ∧ opticsCode (writes 2 keyOpticsCmd 512) = 2 := by decide +kernel

/-! ## A step (R476; log entry 1) -/

theorem test_steps :
    State.reset.pending = [] ∧ (∀ c, c < 576 → coreRuns dev c = false) ∧ coreRuns cpu 0 = true
    ∧ (wordMeaning 0 (coreWord cpu 0)).isSome = true ∧ (wordMeaning 0 0x7FFFFFFF).isNone = true := by decide +kernel

/-- A request as its message spells it is one that the statement about messages reads back (R464). -/
theorem test_messages :
    (writes 2 keyTimeRefSel 1).src = serialSrc 2 ∧ (writes 2 keyTimeRefSel 1).version = 1
    ∧ (writes 2 keyTimeRefSel 1).tid < 2 ^ 16 ∧ (writes 2 keyTimeRefSel 1).cipherFaults = 0 := by decide +kernel

/-! ## Clauses with cases of their own -/

/-- A channel in each state, at a descriptor to fetch and at one it may not read (R399). -/
def running (n cur : Nat) : Chan := { Chan.init with state := .running, count := n, cur }
def rdOk (x : State × Rd) : Bool := match x.2 with
  | .ok _ => true
  | _ => false

theorem test_dma_fetch :
    (∀ st, st ∈ [ChanState.idle, .running, .parked, .halted] → chanLive (channel { Chan.init with state := st }) 0 = true)
    ∧ rdOk (chanRead (channel (running 0 (clusterBase 0))) 0 (clusterBase 0) 64) = true
    ∧ rdOk (chanRead (channel (running 0 (clusterBase 0 + 64))) 0 (clusterBase 0 + 64) 64) = true
    ∧ (match (chanRead (channel (running 0 (clusterBase 0 + 64))) 0 (clusterBase 0 + 64) 64).2 with
      | .ok b => (BitVec.ofNat 64 (leNat (slice b 8 8))).getLsbD 63
      | _ => true) = false
    ∧ rdOk (chanRead (channel (running 0 0)) 0 0 64) = false
    ∧ (running 0 0).count ≤ dev.oval keyDmaChainLimit ∧ dev.oval keyDmaChainLimit < (running (2 ^ 20) 0).count := by
    decide +kernel

/-- A descriptor of each operation; a transfer that succeeded and one that did not; a descriptor with the event bit; an
end check. -/
theorem test_dma_ends :
    (∀ k, k < 6 → (ddOf (dd k 64 128 4)).op = k)
    ∧ (ddOf (dd 0 64 128 4)).w0.testBit 62 = false ∧ (ddOf (dd 32 64 128 4)).w0.testBit 62 = true
    ∧ (writeBack { channel (running 0 (clusterBase 0)) with free := 1 } 0 (clusterBase 0) 0x21 0).2 = none
    ∧ (writeBack { channel (running 0 0) with free := 1 } 0 0 1 4).2 ≠ none
    ∧ ({ running 0 0 with state := .parked, checks := 1 } : Chan).checks ≠ 0
    ∧ rdOk (chanRead (channel { running 0 (clusterBase 0) with state := .parked, checks := 1 }) 0 (clusterBase 0) 8) = true
    ∧ rdOk (chanRead (channel { running 0 0 with state := .parked, checks := 1 }) 0 0 8) = false := by decide +kernel

/-- An engine at work, one whose entry was stopped, a slice on test, and a modem entry of each direction. -/
def stoppedRun : LateRun :=
  { place := .engine 1 0, sqid := 0, seq := 5, task := 0, start := 0, until' := 0, err := some (0x10, 4, 0) }
def engined (x : Engine) : State :=
  { dev with engines := [(engKey 1 0, x)], part := { dev.part with variant := .m5f }, late := [stoppedRun] }
def modemEntry (block : Nat) : State :=
  { queued 6 0 with part := { dev.part with variant := .m5f },
                    entries := [{ entryOf' 6 0 with block := BitVec.ofNat 512 block }] }

def atWork : Engine := { Engine.init with entry := some (entryOf' 0 1), result := some (.done [] [] 0) }
theorem test_engine_cases :
    (engined atWork).engine 1 0 = atWork ∧ atWork.entry = some (entryOf' 0 1) ∧ atWork.result = some (.done [] [] 0)
    ∧ ((engined Engine.init).engine 1 0).entry = none
    ∧ ((engined Engine.init).late.find? (fun x => decide (x.place = .engine 1 0))).isSome = true
    ∧ ((engined Engine.init).late.find? (fun x => decide (x.place = .engine 1 3))) = none
    ∧ watchdogDue dev { Engine.init with startTime := 5000000000 } 5 = false
    ∧ ({ Engine.init with testing := some 0 } : Engine).failed = false ∧ Engine.init.testing = none
    ∧ (takes (modemEntry 0) 5 0 0).map (fun e => nbIsTx e.block.toNat) = some false
    ∧ (takes (modemEntry (2 ^ 508)) 5 0 0).map (fun e => nbIsTx e.block.toNat) = some true
    ∧ takes dev 1 0 1 = none ∧ takes dev 5 0 0 = none := by decide +kernel

/-- Words of the ingress buffer: good, and unreadable (R413). -/
def seg (bad : Option BadWord) : Seg := { port := 0, slot := 0, total := 64, offset := 0, bytes := fill 64 1, bad }
theorem test_ingress_words :
    (readSegs dev { Asm.new 0 with segs := [seg none, seg (some .correctable)] }).2 = false
    ∧ (readSegs dev { Asm.new 0 with segs := [seg (some .uncorrectable)] }).2 = true
    ∧ (readSegs dev { Asm.new 0 with segs := [seg (some .poison)] }).2 = true := by decide +kernel

theorem test_engine_islands :
    runsOnEngines (engined { Engine.init with entry := some (entryOf' 0 1) }) (engineIsland 1 0) ≠ []
    ∧ runsOnEngines dev (engineIsland 1 0) = [] ∧ islandEngines dev (engineIsland 1 0) ≠ []
    ∧ dev.regState (regQuarter 0) = 0 := by decide +kernel

def idling : State := dev.setOval keyRankPdIdle 100
theorem test_rank_power_down :
    idling.oval keyRankPdIdle ≠ 0 ∧ (idling.rank 0).lastRequest + idleNs idling ≤ idling.time.now := by
  refine ⟨by decide +kernel, ?_⟩
  have h : (idling.rank 0).lastRequest = 0 := by decide +kernel
  rw [h, Nat.zero_add, idleNs]
  exact Nat.le_trans (Nat.div_le_self _ _) (by decide +kernel)

/-- A second boundary to come, and a step that waits, asked for by a write, with time traceable or not. -/
def stepping (traced : Bool) (allow : Nat) : State :=
  { dev.setOval keyStepAllow allow with time := { dev.time with step := some 7, traced, secondDone := false } }
theorem test_steps_of_time :
    (stepping false 0).time.traced = false ∧ (stepping true 1).oval keyStepAllow ≠ 0
    ∧ (stepping true 0).time.traced = true ∧ (stepping true 0).oval keyStepAllow = 0
    ∧ (stepping true 0).time.stepDemanded = false
    ∧ (stepping true 0).time.secondDone = false ∧ (stepping true 0).time.now % 1000000000 = 0 := by decide +kernel

/-- Line bits: a whole word of each kind on a lane, a part of one, and a lane in OFF whose group may run or not. -/
def lineWord (h : Nat) : List Bool := (List.range 264).map fun i => if i < 8 then tbit h (7 - i) else i % 2 == 0
def wordKind (h : Nat) : BlkKind := headerKind (BitVec.ofNat 8 (bitsNum ((lineWord h).take 8)))
theorem test_line_bits :
    wordKind 0xA5 = .data ∧ wordKind 0x5A = .filler ∧ wordKind 0xA4 = .bad
    ∧ (destuffBits (false, 0) (lineWord 0xA5)).2.1.length = 264
    ∧ groupEnabled (dev.setOval keyGroupEnable 1) 0 = true ∧ groupEnabled (dev.setOval keyGroupEnable 0) 0 = false
    ∧ dev.serving = true ∧ dev.powered = true ∧ laneRetired (fillers .aligned) 0 = false
    ∧ laneTest (dev.setDom keyLaneConfig 0 (beBytes 8 (2 ^ 60))) 0 = true := by decide +kernel

/-- Rows to send: the first of a multi-frame, and a later one (R350). -/
theorem test_row_stamps :
    beginsMf (List.replicate 64 [0#256]) = true ∧ beginsMf (List.replicate 63 [0#256]) = false
    ∧ bits ((stampRow 7000000009 [0#256, 0#256]).getD 0 0).toNat 159 112 = 7 := by decide +kernel

/-- Sections waiting to be sent, too late and in time; a sample that is not due and one that is (R367). -/
theorem test_send_limits :
    (⟨4, fill 16 0⟩ : TxSec).limit ≤ (dev.time.now : Int) ∧ (dev.time.now : Int) < (⟨6000000000, fill 16 0⟩ : TxSec).limit
    ∧ (⟨6000000000, fill 16 0⟩ : TxSec).bytes.length ≤ 32768 - bits (linkCfg sending 0) 111 96
    ∧ (airTime container 0 (nextSample container 0).1 - (txDue container 0 : Int) < (container.time.now : Int) + 1000
      ∨ airTime { container with time := { container.time with now := 0 } } 0 (nextSample container 0).1
          - (txDue container 0 : Int) < (container.time.now : Int) + 1000) := by decide +kernel

/-- A link in SYNC whose headers say so, with a request on the management channel. -/
def managed : Link :=
  { Link.init with framer := 3, mcReq := some { tid := 4, index := 0x1000, sub := 1, sentAt := 0, tries := 0 } }
theorem test_management_channel :
    managed.framer = 3 ∧ managed.lastAis = false ∧ managed.airTimeErr = false ∧ managed.mcReq.isSome = true
    ∧ ({ RuState.init with step := some 4 } : RuState).step = some 4 ∧ RuState.init.step = none := by decide +kernel

/-- A port failed while the other is down, and one that comes up alone (R104, R105). -/
def portless : State := { dev with ports := [(0, Port.init), (1, Port.init)] }
theorem test_ports_alone :
    (portless.port 0).state = 0 ∧ (portless.port 1).state = 0 ∧ portless.serving = true ∧ (dev.port 1).state ≠ 0 := by
    decide +kernel

/-- Comparisons of the cipher engine that disagree never, once and twice (R499). -/
theorem test_cipher_comparisons :
    (cipherFault dev 0).2 = false ∧ (cipherFault dev 1).2 = false ∧ (cipherFault dev 2).2 = true
    ∧ (cipherFault dev 2).1.keys.state = 1 := by decide +kernel

/-- Objects without a row of their own, by carrier and value, among them those with a rule of their own (R64, R443). -/
def objectWrites : List (Nat × Nat × Nat) :=
  [(3, keyPfcXoff, 131072), (3, keyTransportPcp, 3), (3, keyPortMac 0, 0x0242AC110009), (3, keyPortIpv4 0, 0x0A000001),
    (3, keyMirrorMode, 0)
  , (3, keyEngineSpares, 0x1111), (3, keyMirrorFrom0, 9), (3, keyMirrorFrom1, 9), (3, keyDeskewMax, 20), (2,
    keyRankPdIdle, 100)
  , (2, keyHoldoverLimit, 3600), (2, keyPpsOutMode, 0), (2, keyPpsInMode, 0), (2, keyPtpEnable 0, 1), (2, keyPtpPorts 0, 3)
  , (2, keyWarnDays, 90), (2, keyDrainDays, 30)]
theorem test_object_writes :
    (∀ x ∈ objectWrites, hasRow x.2.1 = false) ∧ ∀ x ∈ objectWrites, Reaches dev (writes x.1 x.2.1 x.2.2) x.2.1 :=
  ⟨by decide +kernel, fun x h => reaches_of_check
    ((show ∀ x ∈ objectWrites, reachesCheck dev (writes x.1 x.2.1 x.2.2) x.2.1 = true by decide +kernel) x h)⟩

def objectSegments : List (Nat × Nat × Nat × Nat) := [(3, keyEcpriVlinks, 0, 16), (3, keyPortIpv6 0, 0, 16)]
theorem test_object_segments :
    ∀ x ∈ objectSegments, ∃ t w, Proposes dev (asks x.1 x.2.1 x.2.2.1 true (fill x.2.2.2 0)) x.2.1 4 t w :=
  fun x h => proposes_of_check
    ((show ∀ x ∈ objectSegments, segmentCheck dev (asks x.1 x.2.1 x.2.2.1 true (fill x.2.2.2 0)) x.2.1 = true by
      decide +kernel) x h)

/-! ## The spec's worked examples -/

/-- The words of R210, of the example after R249 and of R274. -/
theorem test_words :
    wordMeaning 0 0xC0E39203 = some (execLd 0 { stop := true, d := 7, a := 3, sz := 4, mode := 2, cb := 2, off := 3 })
    ∧ wordMeaning 0 0xEC8A4420
      = some (execVgath 0 { stop := true, d := 4, a := 10, b := 8, u := true, pm := false, k := 0, low := 0 })
    ∧ wordMeaning 0 0xEC8A4430
      = some (execVgathf 0 { stop := true, d := 4, a := 10, b := 8, u := true, pm := false, k := 0, low := 0 })
    ∧ wordMeaning 0 0xF8221800 = some (execMxmac 0 { stop := true, d := 1, a := 2, b := 3, k := 0 }) :=
  ⟨rfl, rfl, rfl, rfl⟩

/-- The example of R210: a step of 3 words, then one of −2, in a buffer of 192 words at 0x2000. -/
theorem test_ring :
    pointerNext (loader 0x22F8 0x2000 0x300) { word 2 2 with off := 3 } = some 0x2004
    ∧ pointerNext (loader 0x2004 0x2000 0x300) { word 2 2 with off := -2 } = some 0x22FC := by decide +kernel

/-- Entries of the worked examples after R100: an acceptance of three jobs, a repeat, and a grant of credit (R72, R75). -/
theorem test_entries :
    acceptBytes { sqid := 9, code := 0, unmirrored := false, rep := false, firstSeq := 0x311, lastSeq := 0x313,
                  nextSeq := 0x314
                  since := 0 } = beBytes 16 0x00900000000003110000031300000314
    ∧ acceptBytes { sqid := 40, code := 0, unmirrored := false, rep := true, firstSeq := 0x7A02, lastSeq := 0x7A02,
                    nextSeq := 0x7A03
                    since := 0 } = beBytes 16 0x0280010000007A0200007A0200007A03
    ∧ creditBytes 3 0x5033 0x45A00 = beBytes 16 0x00300000000050330000000000045A00 := by decide +kernel

/-- The request and the response of the example after R483. -/
theorem test_cleip_messages :
    parseReq 2 (beBytes 16 0x14403A07510001000020000002200000) true
      = (4, { src := serialSrc 2, version := 1, resp := false, last := true, tid := 0x3A07, index := 0x5100, sub := 1,
              length := 32
              offset := 0x220, body := [], frame := noFrame, flashOk := true, cipherFaults := 0 })
    ∧ cleipHeader 4 true true 0x3A07 0x5100 1 0 0 0x220 0x119 = beBytes 16 0x14C03A07510001000000000002200119 := by
    decide +kernel

/-- The audit record of the example after R505. -/
theorem test_audit_record :
    (auditBytes { seq := 0x51A3, time := 0x17A205E41B2C8000, kind := 0, role := 0, carrier := 1, long := false, sealKind := 1
                  index := 0x6000, sub := 1, status := 3, tid := 0x102, offset := 0, length := 1, source := 0x4B0A3107,
                    old := 1
                  new := 2, epoch := 0x119, mac := 0 }).take 56
      = beBytes 32 0x000051A317A205E41B2C800000A060000103010200000000000000014B0A3107
        ++ beBytes 24 0x000000000000000100000000000000020000011900000000 := by decide +kernel

/-- The FAULT_LOG record of the example after R225, which gives no region and no time. -/
theorem test_fault_record :
    faultRecNat { time := 0, region := 0x10A, cause := 4, action := 8, sqid := 12, seq := 0xA77, task := 0, start := 1
                  signature := 0xA30, address := 0x3A001F40 }
      = 0x010A040800C000000A77000100000A30000000003A001F40 := by decide +kernel

/-- The records of power states of the example after R535, and of a wake latched during Dusk. -/
theorem test_power_records :
    beBytes 16 (refusalRec 7 3 7 2 (0x17A2100000000000 + 33000)) = beBytes 16 0x0730070217A21000000080E800000000
    ∧ beBytes 16 (wakeRec 2 true 2 3 (0x17A210012A05F200 + 80000)) = beBytes 16 0x2802030017A210012A072A8000000000 := by
  decide +kernel

/-- The lane of the example after R346 and the module of the example after R515. -/
theorem test_status_records :
    laneStatusNat { Lane.init with state := .aligned, signal := true, laneSeen := 5, skew := 3, slipPos := 117 } .normal
      = 0x6105033A80000000
    ∧ moduleNat { dev with opt := { dev.opt with
        modules := [(5, { Module.init with state := 2, temp := 440, drift := 40, replaceBy := 20120, serial := some 1 })]
        lives := [(0, { serial := 1, vendor := 0, powered := 0, laserOn := 43100 * hourNs, equiv := 61000 * hourNs * 65536
                        baseSum := []
                        baseCount := 0, firstDay := 0, lastDay := 0, hist := [], equivHist := [] })] } } 5
      = 0x4001B82800004E980000EE480000A85C := by decide +kernel

/-- Cells of the example after R194, at one slot a millisecond: A to D on cluster 9, the others on their own clusters. -/
def rated (k rate : Nat) : CellCfg := { cellA k 0 with slotNs := 1000000, gBudget := rate * 1000 }
def island9 : State := { dev with
  cellCfg := [(1, rated 9 14000), (2, rated 9 12000), (3, rated 9 10000), (4, rated 9 8000)]
    ++ (List.range 16).filterMap fun k =>
      if k = 9 then none else some (16 + k, rated k (if k = 12 ∨ k = 13 ∨ k = 14 then 36000 else 47500)) }

/-- Its rates: what a cluster may carry, what cluster 9 carries, and what one of the others carries. -/
theorem test_cell_rates : gCapacity island9 9 = 50399 ∧ gRate island9 9 = 44000 ∧ gRate island9 12 = 36000 := by
  decide +kernel

/-! ## Commands that are not well formed: one for each check -/

def received (f : RxFrame → RxFrame) : RxFrame := f (frame 1 0 0 0 [])

theorem test_frames_refused :
    wellFormed (.desc (received id)) = true ∧ wellFormed (.data (received id)) = false
    ∧ wellFormed (.desc (received fun f => { f with type := 16 })) = false
    ∧ wellFormed (.desc (received fun f => { f with port := 2 })) = false
    ∧ wellFormed (.desc (received fun f => { f with dstMac := 2 ^ 48 })) = false
    ∧ wellFormed (.desc (received fun f => { f with srcMac := 2 ^ 48 })) = false
    ∧ wellFormed (.desc (received fun f => { f with encap := 3 })) = false
    ∧ wellFormed (.desc (received fun f => { f with proto := 2 ^ 16 })) = false
    ∧ wellFormed (.desc (received fun f => { f with vlan := some 4096 })) = false
    ∧ wellFormed (.desc (received fun f => { f with srcIp := 2 ^ 128 })) = false
    ∧ wellFormed (.desc (received fun f => { f with dstIp := 2 ^ 128 })) = false
    ∧ wellFormed (.desc (received fun f => { f with srcUdp := 2 ^ 16 })) = false
    ∧ wellFormed (.desc (received fun f => { f with version := 16 })) = false
    ∧ wellFormed (.desc (received fun f => { f with count := 2 ^ 16 })) = false
    ∧ wellFormed (.desc (received fun f => { f with length := 2 ^ 16 })) = false
    ∧ wellFormed (.desc (received fun f => { f with sender := 2 ^ 16 })) = false
    ∧ wellFormed (.desc (received fun f => { f with epoch := 2 ^ 32 })) = false := by decide +kernel

theorem test_requests_refused :
    wellFormed (.cleipRead (asks 0 keyBuddy 0 false [])) = true
    ∧ wellFormed (.cleipRead (asks 4 keyBuddy 0 false [])) = false
    ∧ wellFormed (.cleipRead (asks 0 (2 ^ 24) 0 false [])) = false
    ∧ wellFormed (.cleipRead (asks 0 keyBuddy (2 ^ 32) false [])) = false
    ∧ wellFormed (.cleipRead { asks 0 keyBuddy 0 false [] with version := 16 }) = false
    ∧ wellFormed (.cleipRead { asks 0 keyBuddy 0 false [] with tid := 2 ^ 16 }) = false
    ∧ wellFormed (.cleipRead { asks 0 keyBuddy 0 false [] with sub := 256 }) = false
    ∧ wellFormed (.cleipRead { asks 0 keyBuddy 0 false [] with length := 2 ^ 16 }) = false
    ∧ wellFormed (.cleipRead { asks 0 keyBuddy 0 false [] with cipherFaults := 3 }) = false
    ∧ wellFormed (.cleipRead { asks 0 keyBuddy 0 false [] with src := { asker 0 with mac := 2 ^ 48 } }) = false
    ∧ wellFormed (.cleipRead { asks 0 keyBuddy 0 false [] with src := { asker 0 with ip := 2 ^ 128 } }) = false
    ∧ wellFormed (.cleipRead { asks 0 keyBuddy 0 false [] with src := { asker 0 with udp := 2 ^ 16 } }) = false
    ∧ wellFormed (.cleipRead { asks 0 keyBuddy 0 false [] with src := { asker 0 with encap := 3 } }) = false
    ∧ wellFormed (.cleipRead { asks 0 keyBuddy 0 false [] with src := { asker 0 with vlan := some 4096 } }) = false
    ∧ wellFormed (.cleipRead { asks 0 keyBuddy 0 false [] with src := { asker 0 with pcp := 8 } }) = false := by
    decide +kernel

theorem test_units_refused :
    wellFormed (.msReadTransfer { address := 128, n := 1 }) = false
    ∧ wellFormed (.nop 575 { stop := true, d := 0, a := 0, imm := 0 }) = true
    ∧ wellFormed (.nop 576 { stop := true, d := 0, a := 0, imm := 0 }) = false ∧ wellFormed (.pfcPauseRx 0 8 1) = false
    ∧ wellFormed (.recordRelease 4096) = false ∧ wellFormed (.migrationSwitch 4095) = false
    ∧ wellFormed (.islandLoss 48) = false
    ∧ wellFormed (.strikeLapse 0x624) = false ∧ wellFormed (.subscriptionInterval 256) = false
    ∧ wellFormed (.taskDispatch { mainRef with task := 256 } (.core 0)) = false
    ∧ wellFormed (.taskDispatch mainRef (.engine 6 0)) = false ∧ wellFormed (.taskReplay mainRef (.core 576)) = false := by
    decide +kernel

theorem test_late_units_refused :
    wellFormed (.mxcLockGrant 144) = false ∧ wellFormed (.ldpcDecode 64) = false ∧ wellFormed (.ldpcEncode 32) = false
    ∧ wellFormed (.polarDecode 16) = false ∧ wellFormed (.fft 32) = false ∧ wellFormed (.nbReceive 8) = false
    ∧ wellFormed (.laneLock 68) = false ∧ wellFormed (.fillerRow 4 []) = false ∧ wellFormed (.sectionTransmit 68) = false
    ∧ wellFormed (.containerSampleTransmit 512) = false ∧ wellFormed (.defectSet 0 6) = false
    ∧ wellFormed (.chanReset 256) = false
    ∧ wellFormed (.drizzleRead 605 none) = false ∧ wellFormed (.dramRefresh 16) = false
    ∧ wellFormed (.dramFreqChangeDone 4) = false
    ∧ wellFormed (.beatTimeout 48) = false ∧ wellFormed (.omPoll 32 none) = false
    ∧ wellFormed (.gatedIslandWake 48 []) = false
    ∧ wellFormed (.interconnectTimeout (.dma 256) 0) = false ∧ wellFormed (.interconnectTimeout (.vector 576) 0) = false
    ∧ wellFormed (.commandParityError 8 true) = false ∧ wellFormed (.engineEntryEnd 1 64 none) = false := by decide +kernel

/-- An Announce whose fields are zero. -/
def spelled : Announce :=
  { source := 0, gmIdentity := 0, gmClass := 0, accuracy := 0, variance := 0, priority1 := 0, priority2 := 0,
    stepsRemoved := 0 }

theorem test_messages_refused :
    (∀ x ∈ [(peer, 0, true), (peer, 2, false), (peer, 256, false), ({ peer with mac := 2 ^ 48 }, 0, false)
      , ({ peer with encap := 3 }, 0, false), ({ peer with ip := 2 ^ 128 }, 0, false), ({ peer with udp := 2 ^ 16 }, 0,
        false)
      , ({ peer with vlan := some 4096 }, 0, false)],
        wellFormed (.ecpriIqData 0 x.1 { frame := noFrame, type := x.2.1 } 0 0 []) = x.2.2)
    ∧ wellFormed (.ptpAnnounce 0 { dstMac := 0, domain := 0, absent := none } spelled) = true
    ∧ (∀ a ∈ [{ spelled with gmIdentity := 2 ^ 64 }, { spelled with gmClass := 256 }, { spelled with accuracy := 256 }
      , { spelled with variance := 2 ^ 16 }, { spelled with priority1 := 256 }, { spelled with priority2 := 256 }
      , { spelled with stepsRemoved := 2 ^ 16 }], wellFormed (.ptpAnnounce 0 { dstMac := 0, domain := 0,
                                                                               absent := none } a) = false)
    ∧ wellFormed (.ptpDelayReq 0 { dstMac := 2 ^ 48, domain := 0, absent := none } 0 0) = false := by decide +kernel

end Sys2Proof.Tests
end

/-!
# What every step keeps: the part, the commands behind, the messages sent and the fuse (O58)

`Keeps a s` says what O58 says of two states, and each function of the model that returns a state has a lemma
`Keeps.<function>`: applied to a state that keeps the history of `s₀`, it returns one. An update of other fields is
`Keeps.frame`, and a function that is composed of others is the composition of their lemmas; a few functions of lists
are by induction. The lemmas stand in the order of the model's files, up to `keeps_of_step`.
-/

namespace Sys2Proof.Machine

/-- What no step changes or takes back, from a state `a` to a later one `s`. -/
structure Keeps (a s : State) : Prop where
  part : s.part = a.part
  pending : s.pending = a.pending
  out : ∃ l, s.out = a.out ++ l
  free : a.free ≤ s.free
  makerLock : a.flash.makerLock = true → s.flash.makerLock = true

/-- An outcome that is a next state keeps the history of `a`. Irreducible, so that no unification evaluates the
outcome. -/
@[irreducible] def KeepsRes (a : State) : Res → Prop
  | .next t => Keeps a t
  | .fault _ => True
  | .refused _ => True

/-- The state that an answer may hold keeps the history of `a`. -/
def KeepsOpt (a : State) : Option State → Prop
  | some t => Keeps a t
  | none => True

-- `Keeps.frame` has default proofs, and one thread that waits for them per theorem exhausts the address space.
set_option Elab.async false

variable {s₀ s t : State}

theorem Keeps.refl (s : State) : Keeps s s := ⟨rfl, rfl, ⟨[], (List.append_nil _).symm⟩, le_rfl, id⟩

/-- An update of any other field. -/
theorem Keeps.frame (h : Keeps s₀ s) (hp : t.part = s.part := by rfl) (hq : t.pending = s.pending := by rfl)
    (ho : t.out = s.out := by rfl) (hf : t.free = s.free := by rfl)
    (hl : t.flash.makerLock = s.flash.makerLock := by rfl) : Keeps s₀ t :=
  ⟨hp.trans h.part, hq.trans h.pending, ho ▸ h.out, hf ▸ h.free, hl ▸ h.makerLock⟩

theorem Keeps.ite {c : Prop} [Decidable c] (hs : Keeps s₀ s) (ht : Keeps s₀ t) : Keeps s₀ (if c then s else t) := by
  split
  · exact hs
  · exact ht

theorem Keeps.foldl {β : Type} {f : State → β → State} {l : List β} (h : Keeps s₀ s)
    (hf : ∀ s x, Keeps s₀ s → Keeps s₀ (f s x)) : Keeps s₀ (l.foldl f s) := by
  induction l generalizing s with
  | nil => exact h
  | cons x l ih => exact ih (hf s x h)

theorem Keeps.foldl_fst {β γ : Type} {f : State × γ → β → State × γ} {l : List β} {p : State × γ} (h : Keeps s₀ p.1)
    (hf : ∀ p x, Keeps s₀ p.1 → Keeps s₀ (f p x).1) : Keeps s₀ (l.foldl f p).1 := by
  induction l generalizing p with
  | nil => exact h
  | cons x l ih => exact ih (hf p x h)

theorem Keeps.fst {β : Type} {x : β} (h : Keeps s₀ s) : Keeps s₀ (s, x).1 := h

theorem Keeps.snd {β : Type} {x : β} (h : Keeps s₀ s) : Keeps s₀ (x, s).2 := h

theorem Keeps.of_fst_eq {β : Type} {p : State × β} {x : β} (h : Keeps s₀ p.1) (e : p = (t, x)) : Keeps s₀ t := by
  simpa [e] using h

theorem Keeps.of_snd_eq {β : Type} {p : β × State} {x : β} (h : Keeps s₀ p.2) (e : p = (x, t)) : Keeps s₀ t := by
  simpa [e] using h

theorem KeepsRes.next (h : Keeps s₀ s) : KeepsRes s₀ (.next s) := by
  unfold KeepsRes
  exact h

theorem KeepsRes.fault (f : Fault) : KeepsRes s₀ (.fault f) := by
  unfold KeepsRes
  trivial

theorem KeepsRes.of_eq {r : Res} (h : KeepsRes s₀ r) (e : r = .next t) : Keeps s₀ t := by
  subst e
  unfold KeepsRes at h
  exact h

theorem KeepsRes.done (h : Keeps s₀ s) : KeepsRes s₀ (done s) := KeepsRes.next h

theorem KeepsRes.ite {c : Prop} [Decidable c] {r r' : Res} (h : KeepsRes s₀ r) (h' : KeepsRes s₀ r') :
    KeepsRes s₀ (if c then r else r') := by
  split
  · exact h
  · exact h'

theorem KeepsRes.onUnit {n b : Nat} {r : Res} (h : KeepsRes s₀ r) : KeepsRes s₀ (onUnit n b r) :=
  h.ite (KeepsRes.fault _)

theorem KeepsRes.whenSt {c : Bool} (h : Keeps s₀ s) (h' : Keeps s₀ t) : KeepsRes s₀ (whenSt c s t) :=
  KeepsRes.ite (KeepsRes.next h') (KeepsRes.next h)

theorem KeepsOpt.some (h : Keeps s₀ s) : KeepsOpt s₀ (some s) := h

theorem KeepsOpt.none : KeepsOpt s₀ none := trivial

theorem KeepsOpt.of_eq {o : Option State} (h : KeepsOpt s₀ o) (e : o = .some t) : Keeps s₀ t := by
  subst e
  exact h

theorem KeepsOpt.of_map_fst_eq {β : Type} {o : Option (State × β)} {x : β} (h : KeepsOpt s₀ (o.map Prod.fst))
    (e : o = Option.some (t, x)) : Keeps s₀ t := by
  subst e
  exact h

theorem KeepsOpt.of_map_snd_eq {β : Type} {o : Option (β × State)} {x : β} (h : KeepsOpt s₀ (o.map Prod.snd))
    (e : o = Option.some (x, t)) : Keeps s₀ t := by
  subst e
  exact h

theorem KeepsOpt.orElse_snd {β : Type} {o : Option (β × State)} {f : Unit → Option (β × State)}
    (h : KeepsOpt s₀ (o.map Prod.snd)) (hf : KeepsOpt s₀ ((f ()).map Prod.snd)) :
    KeepsOpt s₀ ((o.orElse f).map Prod.snd) := by
  cases o with
  | none => exact hf
  | some p => exact h

theorem KeepsOpt.getD_snd {β : Type} {o : Option (β × State)} {p : β × State} (h : KeepsOpt s₀ (o.map Prod.snd))
    (hp : Keeps s₀ p.2) : Keeps s₀ (o.getD p).2 := by
  cases o with
  | none => exact hp
  | some p => exact h

theorem KeepsOpt.getD {o : Option State} (h : KeepsOpt s₀ o) (hs : Keeps s₀ s) : Keeps s₀ (o.getD s) := by
  cases o with
  | none => exact hs
  | some t => exact h

/-! ### The three operations that touch the history -/

theorem Keeps.emit {o : Out} (h : Keeps s₀ s) : Keeps s₀ (s.emit o) := by
  obtain ⟨l, e⟩ := h.out
  exact { h with out := ⟨l ++ [o], by rw [← List.append_assoc, ← e]; rfl⟩ }

theorem Keeps.drawNat (h : Keeps s₀ s) : Keeps s₀ s.drawNat.2 := { h with free := h.free.trans (Nat.le_succ _) }

theorem Keeps.drawBits {w : Nat} (h : Keeps s₀ s) : Keeps s₀ (s.drawBits w).2 :=
  { h with free := h.free.trans (Nat.le_succ _) }

theorem Keeps.addFree {n : ℕ} (h : Keeps s₀ s) : Keeps s₀ { s with free := s.free + n } :=
  { h with free := h.free.trans (Nat.le_add_right _ _) }

/-! ### The functions of `Machine/Ops` -/

theorem Keeps.setOval {k v : ℕ} (h : Keeps s₀ s) : Keeps s₀ (s.setOval k v) := h.frame
theorem Keeps.bump {k n : ℕ} (h : Keeps s₀ s) : Keeps s₀ (s.bump k n) := h.setOval
theorem Keeps.setDom {k off : ℕ} {b : List Byte} (h : Keeps s₀ s) : Keeps s₀ (s.setDom k off b) := h.frame
theorem Keeps.setCore {c : ℕ} {x : Core} (h : Keeps s₀ s) : Keeps s₀ (s.setCore c x) := h.frame
theorem Keeps.setMxc {m : ℕ} {x : Mxc} (h : Keeps s₀ s) : Keeps s₀ (s.setMxc m x) := h.frame
theorem Keeps.setCluster {k : ℕ} {x : Cluster} (h : Keeps s₀ s) : Keeps s₀ (s.setCluster k x) := h.frame
theorem Keeps.setQueue {q : ℕ} {x : Queue} (h : Keeps s₀ s) : Keeps s₀ (s.setQueue q x) := h.frame
theorem Keeps.syncAon (h : Keeps s₀ s) : Keeps s₀ (syncAon s) := h.frame
theorem Keeps.setPort {p : ℕ} {x : Port} (h : Keeps s₀ s) : Keeps s₀ (s.setPort p x) := h.frame
theorem Keeps.sendAt {p prio : ℕ} {o : Out} (h : Keeps s₀ s) : Keeps s₀ (s.sendAt p prio o) := h.frame.ite h.emit
theorem Keeps.setChan {c : ℕ} {x : Chan} (h : Keeps s₀ s) : Keeps s₀ (s.setChan c x) := h.frame
theorem Keeps.setEngine {kind n : ℕ} {x : Engine} (h : Keeps s₀ s) : Keeps s₀ (s.setEngine kind n x) := h.frame
theorem Keeps.setRegion {r : ℕ} {x : Region} (h : Keeps s₀ s) : Keeps s₀ (s.setRegion r x) := h.frame
theorem Keeps.setLane {n : ℕ} {x : Lane} (h : Keeps s₀ s) : Keeps s₀ (s.setLane n x) := h.frame
theorem Keeps.setLink {g : ℕ} {x : Link} (h : Keeps s₀ s) : Keeps s₀ (s.setLink g x) := h.frame

/-! ### The functions of `Machine/Events` -/

theorem Keeps.setSub {n : ℕ} {x : Subscr} (h : Keeps s₀ s) : Keeps s₀ (setSub s n x) := h.frame

theorem Keeps.queueEvent {n : ℕ} {x : Subscr} {msg : List Byte} (h : Keeps s₀ s) : Keeps s₀ (queueEvent s n x msg) :=
  (h.setSub.ite h.bump).ite h.emit.bump

theorem Keeps.flushEvents {n : ℕ} {x : Subscr} (h : Keeps s₀ s) : Keeps s₀ (flushEvents s n x) :=
  h.setSub.foldl fun _ _ ht => ht.emit.bump

theorem Keeps.flushSubs {p : ℕ} (h : Keeps s₀ s) : Keeps s₀ (flushSubs s p) := h.foldl fun _ _ ht => ht.flushEvents

theorem Keeps.deliverEvent {n : ℕ} {x : Subscr} {msg : List Byte} (h : Keeps s₀ s) :
    Keeps s₀ (deliverEvent s n x msg) :=
  h.queueEvent.ite ((h.frame.bump.ite h.bump).ite (h.frame.bump.ite h.bump))

theorem Keeps.sendEvent {n : ℕ} {x : Subscr} {status record : ℕ} {data : List Byte} (h : Keeps s₀ s) :
    Keeps s₀ (sendEvent s n x status record data) :=
  h.setSub.deliverEvent

theorem Keeps.raiseTo {key record : ℕ} {data : List Byte} {l : List (ℕ × Subscr)} (h : Keeps s₀ s) :
    Keeps s₀ (raiseTo s key record data l) := by
  induction l generalizing s with
  | nil => exact h
  | cons x l ih =>
    rw [Machine.raiseTo]
    exact (ih h.sendEvent).ite (ih h)

theorem Keeps.raiseEvent {key record : ℕ} {data : List Byte} (h : Keeps s₀ s) :
    Keeps s₀ (raiseEvent s key record data) :=
  h.raiseTo

theorem Keeps.raiseScalar {key : ℕ} {data : List Byte} (h : Keeps s₀ s) : Keeps s₀ (raiseScalar s key data) :=
  h.raiseEvent

/-! ### The functions of `Machine/Request` -/

theorem Keeps.fails {status : ℕ} (h : Keeps s₀ s) : Keeps s₀ (fails s status).2 := h

theorem Keeps.ifFlash {w : WReq} (hs : Keeps s₀ s) (ht : Keeps s₀ t) : Keeps s₀ (ifFlash s w t).2 := by
  unfold Machine.ifFlash
  split
  · exact hs
  · exact ht

theorem Keeps.storeVal {w : WReq} (h : Keeps s₀ s) : Keeps s₀ (storeVal s w) := h.setOval
theorem Keeps.storeDom {w : WReq} (h : Keeps s₀ s) : Keeps s₀ (storeDom s w) := h.setDom

/-! ### The functions of `Machine/Regions` -/

theorem Keeps.setRegState {r st : ℕ} (h : Keeps s₀ s) : Keeps s₀ (s.setRegState r st) := h.setRegion
theorem Keeps.logFault {f : FaultRec} (h : Keeps s₀ s) : Keeps s₀ (logFault s f) := h.frame

theorem Keeps.abandonDrain {n : ℕ} (h : Keeps s₀ s) : Keeps s₀ (abandonDrain s n) :=
  h.foldl fun _ _ ht => ht.setLane.ite ht

theorem Keeps.retireRegion {r : ℕ} (h : Keeps s₀ s) : Keeps s₀ (retireRegion s r) :=
  (h.abandonDrain.ite h).setRegion.bump

theorem Keeps.strike {r : ℕ} (h : Keeps s₀ s) : Keeps s₀ (strike s r) :=
  (h.setRegion.retireRegion.ite h.setRegion).ite h

/-! ### The functions of `Machine/Cells` -/

theorem Keeps.setCellSt {c : ℕ} {x : CellSt} (h : Keeps s₀ s) : Keeps s₀ (s.setCellSt c x) := h.frame
theorem Keeps.setJob {j : Job} (h : Keeps s₀ s) : Keeps s₀ (s.setJob j) := h.frame

theorem Keeps.chargeSlot {c : ℕ} {slot : ℤ × ℤ} {amount : ℤ} (h : Keeps s₀ s) :
    Keeps s₀ (chargeSlot s c slot amount) :=
  h.setCellSt

/-! ### The functions of `Machine/Overcast` -/

theorem Keeps.bankLow {k : ℕ} (h : Keeps s₀ s) : Keeps s₀ (bankLow s k) := h.setCluster
theorem Keeps.bankAll (h : Keeps s₀ s) : Keeps s₀ (bankAll s) := h.foldl fun _ _ hs1 => hs1.bankLow

theorem Keeps.setClock {k p : ℕ} (h : Keeps s₀ s) : Keeps s₀ (setClock s k p) :=
  (h.bankLow.foldl fun _ _ ht => ht.setCore.ite ht).setCluster

theorem Keeps.setRail {n : ℕ} (h : Keeps s₀ s) : Keeps s₀ (setRail s n) := h.ite h.frame.emit
theorem Keeps.askRail {k p : ℕ} (h : Keeps s₀ s) : Keeps s₀ (askRail s k p) := h.setCluster.setRail

theorem Keeps.switchOpp {k p : ℕ} (h : Keeps s₀ s) : Keeps s₀ (switchOpp s k p) :=
  h.ite (h.ite (h.setCluster.askRail.bump.ite (h.setCluster.askRail.ite h.setClock.askRail.bump)))

theorem Keeps.overcastEnter (h : Keeps s₀ s) : Keeps s₀ (overcastEnter s) :=
  (h.frame.bump.foldl fun _ _ ht => ht.switchOpp.ite ht).raiseScalar

theorem Keeps.overcastLeave (h : Keeps s₀ s) : Keeps s₀ (overcastLeave s) := h.frame
theorem Keeps.reOvercast (h : Keeps s₀ s) : Keeps s₀ (reOvercast s) := h.frame.overcastEnter.ite h.frame

/-! ### The functions of `Machine/Wake` -/

theorem Keeps.refuseDusk {reason inst : ℕ} (h : Keeps s₀ s) : Keeps s₀ (refuseDusk s reason inst) :=
  h.frame.bump.raiseEvent.reOvercast

theorem Keeps.startDawn {src : ℕ} {during : Bool} {seen time : ℕ} (h : Keeps s₀ s) :
    Keeps s₀ (startDawn s src during seen time) :=
  h.frame

theorem Keeps.wake {src : ℕ} (h : Keeps s₀ s) : Keeps s₀ (wake s src) := by
  unfold Machine.wake
  extract_lets
  split
  · exact h.startDawn.ite h
  · exact h.refuseDusk
  · split
    · exact h.frame.bump
    · exact h.frame
  · exact h.frame.ite h

theorem Keeps.jobWake (h : Keeps s₀ s) : Keeps s₀ (jobWake s) := h.wake.ite h

/-! ### The functions of `Machine/Pools` -/

theorem Keeps.setPool {p : ℕ} {x : PoolSt} (h : Keeps s₀ s) : Keeps s₀ (s.setPool p x) := h.frame
theorem Keeps.takePhys {p phys : ℕ} (h : Keeps s₀ s) : Keeps s₀ (takePhys s p phys) := h.setPool.ite (h.setPool.ite h)
theorem Keeps.givePhys {p phys : ℕ} (h : Keeps s₀ s) : Keeps s₀ (givePhys s p phys) := h.ite h.setPool
theorem Keeps.damageVersions {lost : ℕ → ℕ → Bool} (h : Keeps s₀ s) : Keeps s₀ (damageVersions s lost) := h.frame

/-! ### The functions of `Machine/Memory` -/

theorem Keeps.memRecord {r : MemRec} {event : Bool} (h : Keeps s₀ s) : Keeps s₀ (memRecord s r event) :=
  h.frame.raiseEvent.ite h.frame

theorem Keeps.memLog {a finder outcome use : ℕ} {event : Bool} (h : Keeps s₀ s) :
    Keeps s₀ (memLog s a finder outcome use event) :=
  h.memRecord

theorem Keeps.setBad {u : ℕ} {b : Option BadWord} (h : Keeps s₀ s) : Keeps s₀ (setBad s u b) := h.frame
theorem Keeps.setBytes {m : List Host.Cell} (h : Keeps s₀ s) : Keeps s₀ (setBytes s m) := h.frame
theorem Keeps.validLine {u : ℕ} (h : Keeps s₀ s) : Keeps s₀ (validLine s u) := h.ite h.frame

theorem Keeps.loseMemRegion {r : ℕ} (h : Keeps s₀ s) : Keeps s₀ (loseMemRegion s r) := by
  unfold Machine.loseMemRegion
  split
  · extract_lets _ t1 _ _
    have ht1 : Keeps s₀ t1 := h.setRegState.logFault
    exact (ht1.frame.ite ht1).damageVersions
  · exact h

theorem Keeps.noteLine {a : ℕ} (h : Keeps s₀ s) : Keeps s₀ (noteLine s a) := by
  unfold Machine.noteLine
  extract_lets _ go
  have hgo : ∀ (r limit : ℕ), Keeps s₀ (go r limit) := fun _ _ => h.frame.loseMemRegion.ite h.frame
  split
  · exact hgo _ _
  · exact h.loseMemRegion.ite (hgo _ _)
  · exact h

theorem Keeps.strikeAt {a : ℕ} (h : Keeps s₀ s) : Keeps s₀ (strikeAt s a) := by
  unfold Machine.strikeAt
  split
  · exact h.strike
  · exact h

theorem Keeps.logWord {u finder cause : ℕ} {struck : Bool} (h : Keeps s₀ s) :
    Keeps s₀ (logWord s u finder cause struck) :=
  h.logFault.ite h

theorem Keeps.confirmBad {u finder use : ℕ} (h : Keeps s₀ s) : Keeps s₀ (confirmBad s u finder use) :=
  h.logWord.memLog.noteLine.strikeAt.setBad.bump.bump

theorem Keeps.goodOnReread {u finder use : ℕ} (h : Keeps s₀ s) : Keeps s₀ (goodOnReread s u finder use) :=
  h.logWord.memLog.strikeAt.setBad.bump

theorem Keeps.setAonBad {o : ℕ} {b : Option BadWord} (h : Keeps s₀ s) : Keeps s₀ (setAonBad s o b) := h.frame

theorem Keeps.readAonWord {finder use o : ℕ} (h : Keeps s₀ s) : Keeps s₀ (readAonWord s finder use o).1 := by
  unfold Machine.readAonWord
  extract_lets log
  have hlog :
      ∀ (t : State), Keeps s₀ t → ∀ (cause outcome : ℕ) (event : Bool), Keeps s₀ (log t cause outcome event) :=
    fun _ ht _ _ _ => (ht.logFault.ite ht).memRecord
  split
  · exact h
  · exact h.setAonBad.bump.fst
  · exact (hlog _ h.setAonBad.bump _ _ _).fst
  · exact (hlog _ h.bump _ _ _).fst
  · exact (hlog _ h.setAonBad.bump.bump _ _ _).fst

theorem Keeps.readAon {finder : ℕ} {os : List ℕ} (h : Keeps s₀ s) : Keeps s₀ (readAon s finder os).1 :=
  h.foldl_fst fun _ _ hx => hx.readAonWord.fst

theorem Keeps.writeAon {o n : ℕ} (h : Keeps s₀ s) : Keeps s₀ (writeAon s o n) := h.ite h.frame

theorem Keeps.checkWord {finder u : ℕ} (h : Keeps s₀ s) : Keeps s₀ (checkWord s finder u).1 := by
  unfold Machine.checkWord
  extract_lets blank
  have hblank : ∀ (s : State), Keeps s₀ s → Keeps s₀ (blank s) := fun _ hs1 => hs1.bump.memLog
  split
  · exact h.logWord.bump.memLog.fst
  · split
    · exact (hblank _ h).fst
    · exact h
  · split
    · exact (hblank _ h).fst
    · exact h.setBad.bump.fst
  · split
    · exact (hblank _ h).fst
    · split
      · exact h
      · exact h.confirmBad.fst
  · split
    · exact (hblank _ h).fst
    · split
      · exact h
      · exact h.confirmBad.fst
  · split
    · exact (hblank _ h).fst
    · split
      · exact h
      · exact h.goodOnReread.fst

theorem Keeps.checkWords {finder : ℕ} {l : List ℕ} (h : Keeps s₀ s) : Keeps s₀ (checkWords s finder l).1 := by
  induction l generalizing s with
  | nil => exact h
  | cons u l ih =>
    rw [Machine.checkWords]
    split
    · rename_i t e
      exact ih (h.checkWord.of_fst_eq e)
    · rename_i t _ e
      exact (h.checkWord.of_fst_eq e).fst

theorem Keeps.reachIsland {m : MemAt} (h : Keeps s₀ s) : Keeps s₀ (reachIsland s m) := by
  unfold Machine.reachIsland
  split
  · exact h.frame.ite h
  · exact h

theorem Keeps.wakeRanks {a n : ℕ} (h : Keeps s₀ s) : Keeps s₀ (wakeRanks s a n) := h.frame

theorem Keeps.mergeWord {u : ℕ} (h : Keeps s₀ s) : Keeps s₀ (mergeWord s u).1 := by
  unfold Machine.mergeWord
  extract_lets bad struck blank
  have hbad : ∀ (t : State), Keeps s₀ t → ∀ (e : MErr) (outcome : ℕ), Keeps s₀ (bad t e outcome).1 :=
    fun _ ht _ _ => ht.bump.bump.memLog.setBad.validLine.fst
  have hstruck : ∀ (t : State), Keeps s₀ t → Keeps s₀ (struck t).1 :=
    fun _ ht => hbad _ (ht.bump.strikeAt.loseMemRegion.ite ht.bump.strikeAt) _ _
  have hblank : ∀ (t : State), Keeps s₀ t → Keeps s₀ (blank t).1 := fun _ ht => hbad _ ht.bump _ _
  split
  · exact hbad _ h _ _
  · split
    · exact hblank _ h
    · exact h
  · split
    · exact hblank _ h
    · exact h.setBad.bump.fst
  · split
    · exact hblank _ h
    · exact hstruck _ h

theorem Keeps.reportPosted {cause : ℕ} {p : ℕ × Posted} (h : Keeps s₀ s) : Keeps s₀ (reportPosted cause s p) :=
  h.setCore.ite h

theorem Keeps.issueEntry {e : WEntry} (h : Keeps s₀ s) : Keeps s₀ (issueEntry s e).1 := by
  unfold Machine.issueEntry
  extract_lets _ t
  have ht : Keeps s₀ t := h.frame
  split
  · exact ht
  · split
    · rename_i t1 e1
      exact (ht.mergeWord.of_fst_eq e1).validLine.fst
    · rename_i t1 _ e1
      exact ((ht.mergeWord.of_fst_eq e1).foldl fun _ _ hs1 => hs1.reportPosted).fst

theorem Keeps.issueWhere {p : WEntry → Bool} (h : Keeps s₀ s) : Keeps s₀ (issueWhere s p) :=
  h.foldl fun _ _ ht => ht.issueEntry

theorem Keeps.drainQueue {i : ℕ} (h : Keeps s₀ s) : Keeps s₀ (drainQueue s i) := h.issueWhere

theorem Keeps.queueReadLine {l : ℕ} (h : Keeps s₀ s) : Keeps s₀ (queueReadLine s l) := by
  unfold Machine.queueReadLine
  split
  · exact h
  · exact h.bump.ite h.issueEntry.bump

theorem Keeps.queueRead {a n : ℕ} (h : Keeps s₀ s) : Keeps s₀ (queueRead s a n) :=
  h.wakeRanks.foldl fun _ _ hs1 => hs1.queueReadLine

theorem Keeps.devRead {finder a n : ℕ} (h : Keeps s₀ s) : Keeps s₀ (devRead s finder a n).1 := by
  unfold Machine.devRead
  extract_lets _ s1 s11 _
  have hs1 : Keeps s₀ s1 := h.reachIsland
  have hs11 : Keeps s₀ s11 := hs1.queueRead.ite hs1
  split
  · exact h
  · split
    · exact h
    · split
      · exact h
      · split
        · rename_i t e
          exact hs11.checkWords.of_fst_eq e
        · rename_i t _ _ e
          exact hs11.checkWords.of_fst_eq e

theorem Keeps.writeWord {m : MemAt} {u a : ℕ} {b : List Byte} (h : Keeps s₀ s) :
    Keeps s₀ (writeWord s m u a b).1 := by
  unfold Machine.writeWord
  extract_lets _ _ _ _ _ r
  have hr : Keeps s₀ r.1 := by
    unfold r
    split
    · exact h.setBad.fst
    · exact h.mergeWord
  clear_value r
  split
  · exact hr.setBytes.fst
  · exact hr

theorem Keeps.writeWords {m : MemAt} {a : ℕ} {b : List Byte} {l : List ℕ} (h : Keeps s₀ s) :
    Keeps s₀ (writeWords s m a b l).1 := by
  induction l generalizing s with
  | nil => exact h
  | cons u l ih =>
    rw [Machine.writeWords]
    split
    · rename_i t e
      exact ih (h.writeWord.of_fst_eq e)
    · rename_i t _ e
      split
      rename_i t' _ e'
      exact ((ih (h.writeWord.of_fst_eq e)).of_fst_eq e').fst

theorem Keeps.openLine {c l : ℕ} (h : Keeps s₀ s) : Keeps s₀ (openLine s c l) := h.ite h.frame

theorem Keeps.openLines {c a n : ℕ} (h : Keeps s₀ s) : Keeps s₀ (openLines s c a n) :=
  h.foldl fun _ _ ht => ht.openLine

theorem Keeps.queueLine {who : Option (ℕ × Posted)} {a n l : ℕ} (h : Keeps s₀ s) :
    Keeps s₀ (queueLine who a n s l) := by
  unfold Machine.queueLine
  extract_lets _ _ _ _ t t1 mine
  have ht : Keeps s₀ t := h.frame
  have ht1 : Keeps s₀ t1 := ht.setBad.validLine.ite ht
  clear_value mine
  split
  · exact ht1.issueEntry.ite ht1
  · exact ht1

theorem Keeps.devQueue {who : Option (ℕ × Posted)} {a : ℕ} {b : List Byte} (h : Keeps s₀ s) :
    Keeps s₀ (devQueue s who a b).1 := by
  unfold Machine.devQueue
  extract_lets m s1
  have hs1 : Keeps s₀ s1 := h.reachIsland
  split
  · exact h
  · split
    · exact h
    · split
      · exact h
      · clear_value m
        split
        · exact (hs1.setBytes.wakeRanks.foldl fun _ _ hs2 => hs2.queueLine).fst
        · exact hs1.openLines.writeWords
        · exact hs1.writeWords

theorem Keeps.issueLines {a : ℕ} {l : List ℕ} (h : Keeps s₀ s) : Keeps s₀ (issueLines s a l).1 := by
  induction l generalizing s with
  | nil => exact h
  | cons n l ih =>
    rw [Machine.issueLines]
    split
    · exact ih h
    · split
      · exact ih h
      · split
        · rename_i t e
          exact ih (h.issueEntry.of_fst_eq e)
        · rename_i t _ e
          exact (ih (h.issueEntry.of_fst_eq e)).fst

theorem Keeps.settleRange {a n : ℕ} (h : Keeps s₀ s) : Keeps s₀ (settleRange s a n).1 := by
  unfold Machine.settleRange
  split
  · exact h.issueLines
  · exact h

theorem Keeps.devWrite {a : ℕ} {b : List Byte} (h : Keeps s₀ s) : Keeps s₀ (devWrite s a b).1 := by
  unfold Machine.devWrite
  split
  · rename_i t _ e
    exact h.devQueue.of_fst_eq e
  · rename_i t e
    exact (h.devQueue.of_fst_eq e).settleRange

theorem Keeps.blankRange {a n : ℕ} (h : Keeps s₀ s) : Keeps s₀ (blankRange s a n) := h.setBytes
theorem Keeps.zeroRange {a n : ℕ} (h : Keeps s₀ s) : Keeps s₀ (zeroRange s a n) := h.frame.ite h.frame
theorem Keeps.markGranules {gs : List ℕ} (h : Keeps s₀ s) : Keeps s₀ (markGranules s gs) := h.frame

theorem Keeps.fastFill {a n : ℕ} (h : Keeps s₀ s) : Keeps s₀ (fastFill s a n) := by
  unfold Machine.fastFill
  extract_lets t _
  have ht : Keeps s₀ t := h.zeroRange
  exact ht.frame.markGranules

theorem Keeps.fillSub {i : ℕ} (h : Keeps s₀ s) : Keeps s₀ (fillSub s i) := h.frame.markGranules
theorem Keeps.clearFillMap (h : Keeps s₀ s) : Keeps s₀ (clearFillMap s) := h.frame
theorem Keeps.loseDram (h : Keeps s₀ s) : Keeps s₀ (loseDram s) := h.frame
theorem Keeps.fillSram (h : Keeps s₀ s) : Keeps s₀ (fillSram s) := h.frame

theorem Keeps.fillIsland {k : ℕ} (h : Keeps s₀ s) : Keeps s₀ (fillIsland s k) := by
  unfold Machine.fillIsland
  extract_lets t _
  have ht : Keeps s₀ t := h.zeroRange.zeroRange
  exact ht.frame

/-! ### The functions of `Machine/Journal` -/

theorem Keeps.jPut {half slot : ℕ} (h : Keeps s₀ s) : Keeps s₀ (jPut s half slot) := h.writeAon.writeAon

theorem Keeps.jWrite {slot : ℕ} {e : JEntry} (h : Keeps s₀ s) : Keeps s₀ (jWrite s slot e) := by
  unfold Machine.jWrite
  extract_lets u
  have hu : Keeps s₀ u := h.jPut.jPut
  exact hu.frame

theorem Keeps.jFree {slot : ℕ} (h : Keeps s₀ s) : Keeps s₀ (jFree s slot) := by
  unfold Machine.jFree
  extract_lets u
  have hu : Keeps s₀ u := h.writeAon.writeAon
  exact hu.frame

theorem Keeps.jCopy {half slot : ℕ} (h : Keeps s₀ s) : Keeps s₀ (jCopy s half slot).1 := by
  unfold Machine.jCopy
  exact h.readAon.fst

theorem Keeps.jRead {slot : ℕ} (h : Keeps s₀ s) : Keeps s₀ (jRead s slot).1 := by
  unfold Machine.jRead
  extract_lets a b s1 u v
  have hs1 : Keeps s₀ s1 := h.jCopy.jCopy
  have hu : Keeps s₀ u := hs1.jPut
  have hv : Keeps s₀ v := hs1.jPut
  clear_value s1
  split
  · exact hs1
  · exact hu.frame.bump.fst
  · exact hv.frame.bump.fst
  · exact hs1.jFree.fst

/-! ### The functions of `Machine/Wire` -/

theorem Keeps.sendFrame {p : ℕ} {to' : Peer} {src : Option ℕ} {type : ℕ} {retx : Bool} {count : ℕ} {body : List Byte}
    (h : Keeps s₀ s) :
    Keeps s₀ (sendFrame s p to' src type retx count body) :=
  h.emit

/-! ### The functions of `Machine/Domains` -/

theorem Keeps.setDomain {n : ℕ} {d : Domain} (h : Keeps s₀ s) : Keeps s₀ (s.setDomain n d) := h.frame

theorem Keeps.followHoldover {n : ℕ} (h : Keeps s₀ s) : Keeps s₀ (followHoldover s n) := by
  unfold Machine.followHoldover
  extract_lets _ t _
  have ht : Keeps s₀ t := h.ite h.setRegState
  exact ht.ite ht.frame

theorem Keeps.enterDomain {n st : ℕ} (h : Keeps s₀ s) : Keeps s₀ (enterDomain s n st) :=
  (h.frame.ite h.setDomain).followHoldover

theorem Keeps.reselect {n : ℕ} (h : Keeps s₀ s) : Keeps s₀ (reselect s n) :=
  h.setDomain.enterDomain.ite (h.setDomain.enterDomain.ite h.setDomain)

theorem Keeps.portLeavesPtp {port : ℕ} (h : Keeps s₀ s) : Keeps s₀ (portLeavesPtp s port) :=
  h.foldl fun _ _ ht => ht.setDomain.reselect

/-! ### The functions of `Machine/Access` -/

theorem Keeps.writeBack {ch cur status count : ℕ} (h : Keeps s₀ s) :
    Keeps s₀ (writeBack s ch cur status count).1 := by
  unfold Machine.writeBack
  split
  · split
    · rename_i s1 _ _ e
      exact h.devWrite.of_fst_eq e
    · rename_i s1 e
      have hs1 : Keeps s₀ s1 := h.devWrite.of_fst_eq e
      split
      · rename_i s2 _ _ e1
        exact hs1.devWrite.of_fst_eq e1
      · rename_i s2 e1
        exact hs1.devWrite.of_fst_eq e1
  · exact h

theorem Keeps.ringDoorbell {ch a : ℕ} (h : Keeps s₀ s) : Keeps s₀ (ringDoorbell s ch a) := h.setChan
theorem Keeps.resetChan {ch : ℕ} (h : Keeps s₀ s) : Keeps s₀ (resetChan s ch) := (h.writeBack.ite h).setChan

theorem Keeps.windowWrite {ch off v : ℕ} (h : Keeps s₀ s) : KeepsOpt s₀ (windowWrite s ch off v) := by
  unfold Machine.windowWrite
  split
  · exact KeepsOpt.some h.ringDoorbell
  · exact KeepsOpt.some h.resetChan
  · exact KeepsOpt.some h
  · exact KeepsOpt.some h
  · exact KeepsOpt.some h
  · exact KeepsOpt.none

theorem Keeps.coreRead {c finder ea n : ℕ} (h : Keeps s₀ s) : Keeps s₀ (coreRead s c finder ea n).1 := by
  unfold Machine.coreRead
  -- with the numeral in its place the kernel would evaluate the register map at a symbolic offset
  obtain ⟨base, hb⟩ : ∃ base, windowBase = base := ⟨_, rfl⟩
  simp only [hb]
  split
  · exact h
  · exact h
  · split
    · split <;> exact h
    · split
      · rename_i t _ e
        exact (h.devRead.of_fst_eq e).fst
      · rename_i t _ _ e
        exact (h.devRead.of_fst_eq e).fst

theorem Keeps.coreQueue {c : ℕ} {who : Option Posted} {ea : ℕ} {b : List Byte} (h : Keeps s₀ s) :
    Keeps s₀ (coreQueue s c who ea b).1 := by
  unfold Machine.coreQueue
  -- with the numeral in its place the kernel would evaluate the register map at a symbolic offset
  obtain ⟨base, hb⟩ : ∃ base, windowBase = base := ⟨_, rfl⟩
  simp only [hb]
  split
  · exact h
  · exact h
  · split
    · split
      · rename_i t e
        exact (h.windowWrite.of_eq e).fst
      · exact h
    · split
      · rename_i t e
        exact (h.devQueue.of_fst_eq e).fst
      · rename_i t _ _ e
        exact (h.devQueue.of_fst_eq e).fst

/-! ### The functions of `Machine/Migration` -/

theorem Keeps.endMigration {c : ℕ} (h : Keeps s₀ s) : Keeps s₀ (endMigration s c) := by
  unfold Machine.endMigration
  split
  · exact h.setCellSt.bump.ite h
  · exact h

theorem Keeps.endMigrations (h : Keeps s₀ s) : Keeps s₀ (endMigrations s) := h.foldl fun _ _ hs1 => hs1.endMigration

theorem Keeps.retestJob {q : ℕ} {seq : BitVec 32} (h : Keeps s₀ s) : Keeps s₀ (retestJob s q seq) := by
  unfold Machine.retestJob
  split
  · exact h
  · extract_lets _ s1 best _ _ _ _
    have hs1 : Keeps s₀ s1 := h.bankAll
    have hbest : ∀ (s : State), Keeps s₀ s → ∀ (j : Job), Keeps s₀ (best s j) := by
      intro s2 x1 j
      unfold best
      extract_lets
      split
      · exact x1.setJob.switchOpp
      · exact x1.setJob
    split
    · exact h
    · split
      · split
        · exact hs1.switchOpp
        · exact hbest _ hs1.chargeSlot.setCellSt.bump _
      · exact hbest _ hs1 _
      · exact hs1

theorem Keeps.switchCell {c : ℕ} (h : Keeps s₀ s) : Keeps s₀ (switchCell s c) := by
  unfold Machine.switchCell
  split
  · exact h.ite (h.setCellSt.foldl fun _ _ ht => ht.retestJob).endMigration
  · exact h

theorem Keeps.startMigration {c target reason : ℕ} (h : Keeps s₀ s) : Keeps s₀ (startMigration s c target reason) :=
  h.setCellSt.switchCell.ite h.setCellSt

theorem Keeps.hasten {c : ℕ} {onward : State → Option ℕ} (h : Keeps s₀ s) : Keeps s₀ (hasten s c onward) := by
  unfold Machine.hasten
  split
  · exact h
  · extract_lets _ redirect
    have hredirect : ∀ (l : ℕ), Keeps s₀ (redirect l) := fun _ => h.setCellSt.ite h.setCellSt.switchCell
    split
    · split
      · exact hredirect _
      · exact h
    · exact hredirect _

theorem Keeps.abandon (h : Keeps s₀ s) : Keeps s₀ (abandon s) := by
  unfold Machine.abandon
  refine h.foldl fun t x ht => ?_
  split
  · exact ht.setCellSt.ite ht
  · exact ht

theorem Keeps.capacityCells {k : ℕ} {l : List ℕ} (h : Keeps s₀ s) : Keeps s₀ (capacityCells s k l) := by
  induction l generalizing s with
  | nil => exact h
  | cons c l ih =>
    rw [Machine.capacityCells]
    split
    · exact h
    · split
      · exact h
      · split
        · exact ih h.startMigration
        · exact ih h

theorem Keeps.forceCells {k : ℕ} (h : Keeps s₀ s) : Keeps s₀ (forceCells s k) := by
  unfold Machine.forceCells
  split
  · exact h
  · refine h.foldl fun t c ht => ?_
    extract_lets
    split
    · exact ht
    · split
      · exact ht.hasten
      · split
        · exact ht.startMigration
        · exact ht

theorem Keeps.clearShort (h : Keeps s₀ s) : Keeps s₀ (clearShort s) := h.foldl fun _ _ ht => ht.setCluster.ite ht

theorem Keeps.capacityAll (h : Keeps s₀ s) : Keeps s₀ (capacityAll s) := by
  unfold Machine.capacityAll
  extract_lets _ t
  have ht : Keeps s₀ t := h.foldl fun _ _ ht1 => ht1.ite ht1.capacityCells.forceCells
  exact ht.clearShort.foldl fun _ _ ht1 => ht1.setCluster.bump.ite ht1

theorem Keeps.loadMigrate {k : ℕ} (h : Keeps s₀ s) : Keeps s₀ (loadMigrate s k) := by
  unfold Machine.loadMigrate
  split
  · exact h
  · split
    · exact h
    · split
      · exact h.startMigration
      · exact h

theorem Keeps.thermalOne {k : ℕ} (h : Keeps s₀ s) : Keeps s₀ (thermalOne s k) := by
  unfold Machine.thermalOne
  split
  · exact h
  · extract_lets
    split
    · split
      · exact h.startMigration
      · exact h
    · exact h

theorem Keeps.placeAll {l : List ℕ} (h : Keeps s₀ s) : KeepsOpt s₀ (placeAll s l) := by
  induction l generalizing s with
  | nil => exact KeepsOpt.some h
  | cons c l ih =>
    rw [Machine.placeAll]
    split
    · exact ih h.startMigration
    · exact KeepsOpt.none

theorem Keeps.consolidate (h : Keeps s₀ s) : Keeps s₀ (consolidate s) := by
  unfold Machine.consolidate
  split
  · exact h
  · split
    · exact h
    · exact (h.placeAll.getD h).ite h

theorem Keeps.evalMigration (h : Keeps s₀ s) : Keeps s₀ (evalMigration s) := by
  unfold Machine.evalMigration
  extract_lets t _ t1 t2
  have ht : Keeps s₀ t := h.abandon.capacityAll
  have ht1 : Keeps s₀ t1 := ht.foldl fun _ _ hs1 => hs1.thermalOne
  have ht2 : Keeps s₀ t2 := (ht1.foldl fun _ _ hs1 => hs1.loadMigrate).ite ht1
  exact ht.ite (ht2.consolidate.ite ht2)

theorem Keeps.settle {before : State} (h : Keeps s₀ s) : Keeps s₀ (settle before s) :=
  (h.endMigrations.ite (h.endMigrations.ite h.endMigrations.evalMigration).clearShort).reOvercast

/-! ### The functions of `Machine/Mirror` -/

theorem Keeps.sendAck {d p : ℕ} {peer : Peer} (h : Keeps s₀ s) : Keeps s₀ (sendAck s d p peer) := by
  unfold Machine.sendAck
  split
  · exact h
  · exact h.frame.sendFrame.ite h.frame

theorem Keeps.sendMirror {due : MirrorEntry → Bool} (h : Keeps s₀ s) : Keeps s₀ (sendMirror s due) := by
  unfold Machine.sendMirror
  extract_lets
  refine h.frame.foldl fun t g ht => ?_
  split
  · exact ht
  · exact ht.sendFrame

theorem Keeps.resendMirror (h : Keeps s₀ s) : Keeps s₀ (resendMirror s) := h.sendMirror
theorem Keeps.mirrorPut {e : JEntry} (h : Keeps s₀ s) : Keeps s₀ (mirrorPut s e) := h.frame.sendMirror.ite h

theorem Keeps.mirrorJob {j : Job} (h : Keeps s₀ s) : Keeps s₀ (mirrorJob s j) := by
  unfold Machine.mirrorJob
  split
  · exact h
  · split
    · split
      · exact h.mirrorPut
      · exact h
    · exact h.mirrorPut

theorem Keeps.mirrorRelease {j : Job} (h : Keeps s₀ s) : Keeps s₀ (mirrorRelease s j) := by
  unfold Machine.mirrorRelease
  split
  · exact h.mirrorPut.ite h
  · exact h

theorem Keeps.startStream (h : Keeps s₀ s) : Keeps s₀ (startStream s) := by
  unfold Machine.startStream
  split
  · extract_lets _ _ _ t2 t3 _
    have ht2 : Keeps s₀ t2 := h.frame.mirrorPut.foldl fun _ _ ht5 => ht5.mirrorPut
    have ht3 : Keeps s₀ t3 := ht2.foldl fun _ _ ht5 => ht5.mirrorPut.ite ht5
    exact (ht3.foldl fun _ _ hs1 => hs1.mirrorJob).foldl fun _ _ hs1 => hs1.mirrorRelease
  · exact h

/-! ### The functions of `Machine/Anvil` -/

theorem Keeps.setFhv {n : ℕ} {v : FhVersion} (h : Keeps s₀ s) : Keeps s₀ (setFhv s n v) := h.frame

theorem Keeps.newFhv {container : Bool} {id : ℕ} {a : ℤ} (h : Keeps s₀ s) : Keeps s₀ (newFhv s container id a) :=
  h.frame

theorem Keeps.getFhv {container : Bool} {id : ℕ} {a : ℤ} (h : Keeps s₀ s) : Keeps s₀ (getFhv s container id a).1 := by
  unfold Machine.getFhv
  split
  · exact h
  · exact h.newFhv.fst

theorem Keeps.takeFhBuf {n : ℕ} (h : Keeps s₀ s) : Keeps s₀ (takeFhBuf s n) := by
  unfold Machine.takeFhBuf
  split
  · exact h
  · split
    · exact h
    · split
      · exact h.takePhys.setFhv
      · exact h.setFhv.bump

theorem Keeps.holdFhv {k order : ℕ} (h : Keeps s₀ s) : Keeps s₀ (holdFhv s k order).1 := by
  unfold Machine.holdFhv
  extract_lets
  split
  rename_i t _ e
  have ht : Keeps s₀ t := h.getFhv.of_fst_eq e
  split
  · exact h
  · split
    · exact (ht.ite ht.setFhv.bump).fst
    · exact ht.setFhv.fst

theorem Keeps.releaseFhv {n : ℕ} (h : Keeps s₀ s) : Keeps s₀ (releaseFhv s n) := by
  unfold Machine.releaseFhv
  split
  · exact h
  · extract_lets t
    have ht : Keeps s₀ t := h.setFhv
    split
    · exact ht.givePhys
    · exact ht

theorem Keeps.unholdFhv {n order : ℕ} (h : Keeps s₀ s) : Keeps s₀ (unholdFhv s n order) := by
  unfold Machine.unholdFhv
  split
  · exact h
  · exact h.setFhv.releaseFhv.ite h.setFhv

theorem Keeps.landBytes {a : ℕ} {b : List Byte} (h : Keeps s₀ s) : Keeps s₀ (landBytes s a b) := h.devWrite

theorem Keeps.sealFhv {n : ℕ} (h : Keeps s₀ s) : Keeps s₀ (sealFhv s n) := by
  unfold Machine.sealFhv
  split
  · exact h
  · split
    · exact h
    · extract_lets _ _ _ t _ _ _ _
      have ht : Keeps s₀ t := (h.takeFhBuf.ite h).setFhv
      split
      · exact ht
      · split
        · exact ht
        · split
          · exact (ht.foldl fun _ _ ht1 => ht1.landBytes).landBytes
          · exact ((ht.foldl fun _ _ ht1 => ht1.landBytes).foldl fun _ _ ht1 => ht1.landBytes).landBytes

/-! ### The functions of `Machine/Sections` -/

theorem Keeps.expectSection {k : SecHdr} (h : Keeps s₀ s) : Keeps s₀ (expectSection s k) := by
  unfold Machine.expectSection
  extract_lets
  split
  · exact h
  · split
    rename_i t _ e
    have ht : Keeps s₀ t := h.getFhv.of_fst_eq e
    split
    · exact ht
    · exact ht.ite ht.setFhv.takeFhBuf

theorem Keeps.queueSection {order ver : ℕ} {k : SecHdr} {b : List Byte} (h : Keeps s₀ s) :
    Keeps s₀ (queueSection s order ver k b) :=
  h.frame.expectSection.ite h.frame

theorem queueSections_succ (s : State) (order ver a len n : ℕ) : queueSections s order ver a len (n + 1) =
    if len = 0 then s
    else match devRead s 6 a (min 16 len) with
      | (t, .err _ _) => t.bump keyTxSectionsInvalid 1
      | (t, .ok hb) =>
        let k := secHdr hb
        let m := secLength k
        if !secValid t hb then t.bump keyTxSectionsInvalid 1
        else if len < m then t.bump keyTxSectionsInvalid 1
        else if k.kind = 0 then queueSections t order ver (a + m) (len - m) n
        else match devRead t 6 (a + 16) (m - 16) with
          | (u, .err _ _) => queueSections (u.bump keyTxSectionsInvalid 1) order ver (a + m) (len - m) n
          | (u, .ok b) =>
            if !fhEnable (fhCell u k.cell) then queueSections (u.bump keyTxSectionsInvalid 1) order ver (a + m) (len - m) n
            else queueSections (queueSection u order ver k (hb ++ b)) order ver (a + m) (len - m) n := by
  exact rfl

theorem Keeps.queueSections {order ver a len n : ℕ} (h : Keeps s₀ s) :
    Keeps s₀ (queueSections s order ver a len n) := by
  induction n generalizing s a len with
  | zero => exact h
  | succ n ih =>
    rw [queueSections_succ]
    split
    · exact h
    · split
      · rename_i t _ _ e
        exact (h.devRead.of_fst_eq e).bump
      · rename_i t _ e
        have ht : Keeps s₀ t := h.devRead.of_fst_eq e
        extract_lets
        split
        · exact ht.bump
        · split
          · exact ht.bump
          · split
            · exact ih ht
            · split
              · rename_i u _ _ e'
                exact ih (ht.devRead.of_fst_eq e').bump
              · rename_i u _ e'
                have hu : Keeps s₀ u := ht.devRead.of_fst_eq e'
                exact (ih hu.bump).ite (ih hu.queueSection)

/-! ### The functions of `Machine/Versions` -/

theorem Keeps.setVer {n : ℕ} {v : Version} (h : Keeps s₀ s) : Keeps s₀ (setVer s n v) := h.frame
theorem Keeps.addVer {v : Version} (h : Keeps s₀ s) : Keeps s₀ (addVer s v) := h.frame
theorem Keeps.settleLinger (h : Keeps s₀ s) : Keeps s₀ (settleLinger s) := h.frame

theorem Keeps.reclaim {n : ℕ} (h : Keeps s₀ s) : Keeps s₀ (reclaim s n) := by
  unfold Machine.reclaim
  split
  · exact h
  · exact (h.frame.givePhys.ite h.frame).settleLinger.ite h

theorem Keeps.pin {n order : ℕ} (h : Keeps s₀ s) : Keeps s₀ (pin s n order) := by
  unfold Machine.pin
  split
  · exact h
  · exact h.setVer

theorem Keeps.unpin {n order : ℕ} (h : Keeps s₀ s) : Keeps s₀ (unpin s n order) := by
  unfold Machine.unpin
  split
  · exact h
  · exact h.setVer.reclaim.settleLinger

theorem Keeps.touchHandle {k : ℕ} (h : Keeps s₀ s) : Keeps s₀ (touchHandle s k).1 := by
  unfold Machine.touchHandle
  split
  · exact h
  · split
    · exact h
    · extract_lets t
      have ht : Keeps s₀ t := h.addVer
      exact ht.frame.fst

theorem Keeps.resolveInput {k order : ℕ} (h : Keeps s₀ s) : Keeps s₀ (resolveInput s k order).1 := by
  unfold Machine.resolveInput
  split
  · exact h.holdFhv
  · split
    · exact h.pin.fst
    · split
      · rename_i t _ e
        exact (h.touchHandle.of_fst_eq e).pin.fst
      · rename_i t e
        exact h.touchHandle.of_fst_eq e

theorem Keeps.releaseInput {order : ℕ} {x2 : Option VerRef} (h : Keeps s₀ s) :
    Keeps s₀ (releaseInput s order x2) := by
  unfold Machine.releaseInput
  split
  · exact h.unpin
  · exact h.unholdFhv
  · exact h

theorem Keeps.installVersion {n : ℕ} (h : Keeps s₀ s) : Keeps s₀ (installVersion s n).1 := by
  unfold Machine.installVersion
  split
  · exact h
  · next v _ =>
    have ht : Keeps s₀ (Machine.touchHandle s v.handle).1 := h.touchHandle
    generalize Machine.touchHandle s v.handle = p at ht
    obtain ⟨t, cur⟩ := p
    dsimp only at ht ⊢
    split
    · exact ht.frame.fst
    · split
      · exact ht.frame.fst
      · split
        · exact ht.frame.setVer.reclaim.fst
        · exact ht.setVer.reclaim.fst

theorem Keeps.retireSent {n : ℕ} (h : Keeps s₀ s) : Keeps s₀ (retireSent s n) := by
  unfold Machine.retireSent
  split
  · exact h
  · split
    · exact h
    · exact (h.frame.ite h).setVer.reclaim

theorem Keeps.takeStaging {l : List (ℕ × ℕ)} (h : Keeps s₀ s) : KeepsOpt s₀ ((takeStaging s l).map Prod.fst) := by
  induction l generalizing s with
  | nil => exact KeepsOpt.some h
  | cons x l ih =>
    rw [Machine.takeStaging]
    split
    · exact KeepsOpt.none
    · split
      · exact KeepsOpt.none
      · next e => exact KeepsOpt.some ((ih h.takePhys.blankRange).of_map_fst_eq e)

theorem Keeps.dropStaging {g : Graph} {d : Desc} {t : TaskDef} {l : List (ℕ × ℕ × ℕ)} (h : Keeps s₀ s) :
    Keeps s₀ (dropStaging s g d t l) :=
  h.foldl fun _ _ hs1 => hs1.ite hs1.givePhys

/-! ### The functions of `Machine/Jobs` -/

theorem Keeps.leaveMxc {c : ℕ} {squashed : Bool} (h : Keeps s₀ s) : Keeps s₀ (leaveMxc s c squashed) :=
  (h.setMxc.bump.ite (h.setMxc.ite h.setMxc)).ite (h.ite h.setMxc)

theorem Keeps.freeCore {c : ℕ} (h : Keeps s₀ s) : Keeps s₀ (freeCore s c) := by
  unfold Machine.freeCore
  extract_lets _ _ _ t t1
  have ht : Keeps s₀ t := h.setCluster.leaveMxc
  have ht1 : Keeps s₀ t1 := by
    unfold t1
    split
    · exact ht.resetChan.setChan
    · exact ht
  exact ht1.setCore

theorem Keeps.freeEngine {kind n : ℕ} (h : Keeps s₀ s) : Keeps s₀ (freeEngine s kind n) := by
  unfold Machine.freeEngine
  extract_lets
  split
  · exact h
  · exact h.setEngine

theorem Keeps.freePlace {x1 : Place} (h : Keeps s₀ s) : Keeps s₀ (freePlace s x1) := by
  unfold Machine.freePlace
  split
  · exact h.freeCore
  · exact h.freeEngine

theorem Keeps.dropEntry {r : TaskRef} (h : Keeps s₀ s) : Keeps s₀ (dropEntry s r) := h.frame
theorem Keeps.addSample {g t n : ℕ} (h : Keeps s₀ s) : Keeps s₀ (addSample s g t n) := h.frame.ite h

theorem Keeps.sampleTask {j : Job} {status t : ℕ} {ti : TaskInst} {d : TaskDef} (h : Keeps s₀ s) :
    Keeps s₀ (sampleTask s j status t ti d) := by
  unfold Machine.sampleTask
  split
  · exact h
  · exact h.ite (h.addSample.ite (h.addSample.ite h))

theorem Keeps.sampleJob {j : Job} {status : ℕ} (h : Keeps s₀ s) : Keeps s₀ (sampleJob s j status) :=
  h.foldl fun _ _ hs1 => hs1.sampleTask

theorem Keeps.noteLate {j : Job} {t start : ℕ} {p : Place} (h : Keeps s₀ s) : Keeps s₀ (noteLate s j t start p) :=
  h.frame

theorem Keeps.lateFault {p : Place} {cause num addr : ℕ} {signed : Bool} {region : Option ℕ} (h : Keeps s₀ s) :
    Keeps s₀ (lateFault s p cause num addr signed region) := by
  unfold Machine.lateFault
  split
  · exact h
  · extract_lets t
    have ht : Keeps s₀ t := h.frame.logFault
    split
    · exact ht.ite ht.strike
    · exact ht

theorem Keeps.stopRun {j : Job} {t : ℕ} {d : TaskDef} {keep : Bool} {r : TaskRun} (h : Keeps s₀ s) :
    Keeps s₀ (stopRun s j t d keep r) := by
  unfold Machine.stopRun
  extract_lets s1 s2
  have hs1 : Keeps s₀ s1 := by
    unfold s1
    split
    · exact h.noteLate
    · exact h
  have hs2 : Keeps s₀ s2 := by
    unfold s2
    split
    · exact hs1.freeEngine.bump
    · exact hs1.freeCore
    · exact hs1.dropEntry
    · exact hs1
  exact hs2.dropStaging

theorem Keeps.stopTasks {j : Job} {commit : Bool} (h : Keeps s₀ s) : Keeps s₀ (stopTasks s j commit) :=
  h.foldl fun _ _ hs1 => hs1.foldl fun _ _ hs2 => hs2.stopRun

theorem Keeps.commitVersion {q : ℕ} {seq : BitVec 32} {order n phys len : ℕ} (h : Keeps s₀ s) :
    Keeps s₀ (commitVersion s q seq order n phys len) := by
  unfold Machine.commitVersion
  split
  · exact h
  · extract_lets
    split
    rename_i t old e
    have ht : Keeps s₀ t := h.zeroRange.setVer.installVersion.of_fst_eq e
    extract_lets u
    have hu : Keeps s₀ u := by
      unfold u
      split
      · exact ht.setJob
      · exact ht
    exact hu.frame.queueSections.retireSent.ite hu

theorem Keeps.failVersion {n : ℕ} (h : Keeps s₀ s) : Keeps s₀ (failVersion s n) := by
  unfold Machine.failVersion
  split
  · exact h
  · exact (h.frame.ite h.setVer).ite h

theorem Keeps.failHarq {j : Job} (h : Keeps s₀ s) : Keeps s₀ (failHarq s j) := by
  unfold Machine.failHarq
  split
  · extract_lets _ s1
    have hs1 : Keeps s₀ s1 := h.foldl fun _ _ hs2 => hs2.pin.setJob
    exact hs1.frame
  · exact h

theorem Keeps.countStatus {j : Job} {status : ℕ} (h : Keeps s₀ s) : Keeps s₀ (countStatus s j status) :=
  h.bump.ite (h.bump.ite h)

theorem Keeps.finalise {j0 : Job} {status : ℕ} (h : Keeps s₀ s) : Keeps s₀ (finalise s j0 status) := by
  unfold Machine.finalise
  split
  · exact h
  · split
    · exact h
    · extract_lets _ _ _ _ _ _ _ _ s3 _ _ _ _ _ s6 s7 s8 u _ s10
      have hs3 : Keeps s₀ s3 := h.sampleJob.stopTasks.countStatus
      have hs6 : Keeps s₀ s6 := by
        unfold s6
        refine (hs3.jWrite.ite hs3).setJob.foldl fun s11 x hs11 => ?_
        split
        · exact hs11.commitVersion
        · exact hs11
      have hs7 : Keeps s₀ s7 := by
        unfold s7
        split
        · exact hs6.commitVersion
        · exact hs6.failHarq
        · exact hs6
      have hs8 : Keeps s₀ s8 := by
        unfold s8
        refine hs7.foldl fun s11 v hs11 => ?_
        split
        · exact hs11.failVersion
        · exact hs11
      have hu : Keeps s₀ u := hs8.jFree
      have hs10 : Keeps s₀ s10 := (hu.frame.ite hs8).foldl fun _ _ hs11 => hs11.releaseInput
      exact hs10.mirrorPut.ite hs10

theorem Keeps.settleJob {q : ℕ} {seq : BitVec 32} (h : Keeps s₀ s) : Keeps s₀ (settleJob s q seq) := by
  unfold Machine.settleJob
  split
  · exact h
  · split
    · exact h
    · extract_lets _ _ _ _ _ _ s1 _
      have hs1 : Keeps s₀ s1 := h.setJob.ite h
      exact h.finalise.ite (h.finalise.ite (h.finalise.ite (h.finalise.ite (hs1.finalise.ite hs1))))

theorem Keeps.settleJobs (h : Keeps s₀ s) : Keeps s₀ (settleJobs s) := h.foldl fun _ _ ht => ht.settleJob
theorem Keeps.trackReady (h : Keeps s₀ s) : Keeps s₀ (trackReady s) := h.frame

theorem Keeps.settleAll {before : State} (h : Keeps s₀ s) : Keeps s₀ (settleAll before s) :=
  h.settleJobs.trackReady.settle

theorem Keeps.expandJob {q : ℕ} {seq : BitVec 32} (h : Keeps s₀ s) : Keeps s₀ (expandJob s q seq) := by
  unfold Machine.expandJob
  split
  · exact h
  · exact h.setJob.finalise.ite h.setJob

theorem Keeps.setTask {j : Job} {t : ℕ} {ti : TaskInst} (h : Keeps s₀ s) : Keeps s₀ (setTask s j t ti) := h.setJob

theorem Keeps.finishTask {j : Job} {t : ℕ} {ti : TaskInst} {kept : TaskRun} {place : Option Place} {voted : Bool}
    (h : Keeps s₀ s) :
    Keeps s₀ (finishTask s j t ti kept place voted) := by
  unfold Machine.finishTask
  extract_lets _ d s1 _ _ _
  have hs1 : Keeps s₀ s1 := by
    unfold s1
    clear_value d
    split
    · exact h.foldl fun _ _ hs3 => hs3.dropStaging
    · exact h
  exact hs1.setTask.foldl fun _ _ hs3 => hs3.strike

theorem Keeps.logTask {j : Job} {t start region cause action sig addr : ℕ} (h : Keeps s₀ s) :
    Keeps s₀ (logTask s j t start region cause action sig addr) :=
  h.logFault

theorem Keeps.haloDecide {j : Job} {t : ℕ} {ti : TaskInst} (h : Keeps s₀ s) : Keeps s₀ (haloDecide s j t ti) := by
  unfold Machine.haloDecide
  split
  · exact (h.bump.finishTask.ite h.bump.bump.logTask.setTask).ite h
  · exact (h.bump.strike.finishTask.ite (h.bump.strike.finishTask.ite h.bump.logTask.finalise)).ite h
  · exact h

theorem Keeps.runDone {ref : TaskRef} {lens : List (ℕ × ℕ)} (h : Keeps s₀ s) : Keeps s₀ (runDone s ref lens) := by
  unfold Machine.runDone
  split
  · exact h
  · extract_lets
    split
    · exact h
    · extract_lets _ _ _ s1 _ s2 _
      have hs1 : Keeps s₀ s1 := by
        unfold s1
        split
        · exact h.freePlace
        · exact h
      have hs2 : Keeps s₀ s2 := hs1.setTask
      exact hs2.haloDecide.ite hs2.finishTask

theorem Keeps.runFault {ref : TaskRef} {f : TaskFault} (h : Keeps s₀ s) : Keeps s₀ (runFault s ref f) := by
  unfold Machine.runFault
  split
  · exact h
  · extract_lets _ s1 s2 _ _ log hit _ _ s3 _
    have hs1 : Keeps s₀ s1 := by
      unfold s1
      split
      · exact h.dropStaging
      · exact h
    have hs2 : Keeps s₀ s2 := by
      unfold s2
      split
      · exact hs1.freePlace
      · exact hs1
    have hlog : ∀ (s : State), Keeps s₀ s → ∀ (action : ℕ), Keeps s₀ (log s action) := fun _ hs4 _ => hs4.logTask
    have hhit : ∀ (s : State), Keeps s₀ s → Keeps s₀ (hit s) := by
      intro s4 x
      unfold hit
      split
      · exact x.strike
      · exact x
    have hs3 : Keeps s₀ s3 := hs2.setTask
    split
    · exact hs3.finalise
    · split
      · exact (hhit _ (hlog _ hs3 _)).finalise
      · split
        · exact hhit _ (hlog _ hs3 _).setTask
        · exact (hlog _ hs3 _).finalise.ite ((hlog _ hs3 _).finalise.bump.ite (hlog _ hs3 _).setTask)

theorem Keeps.stopToWait {ref : TaskRef} (h : Keeps s₀ s) : Keeps s₀ (stopToWait s ref) := by
  unfold Machine.stopToWait
  split
  · exact h
  · extract_lets _ s1 s2
    have hs1 : Keeps s₀ s1 := by
      unfold s1
      split
      · exact h.dropStaging
      · exact h
    have hs2 : Keeps s₀ s2 := by
      unfold s2
      split
      · exact hs1.freePlace
      · exact hs1
    exact hs2.setTask

theorem Keeps.evictRun {ref : TaskRef} (h : Keeps s₀ s) : Keeps s₀ (evictRun s ref) := by
  unfold Machine.evictRun
  split
  · exact h
  · exact h.setTask.stopToWait.bump

/-! ### The functions of `Machine/Transmit` -/

theorem Keeps.sendSlot {q : ℕ} {j : Job} {p : ℕ} {retx : Bool} {k : ℕ} (h : Keeps s₀ s) :
    Keeps s₀ (sendSlot s q j p retx k) := by
  unfold Machine.sendSlot
  extract_lets _ put lost
  have hput :
      ∀ (s : State), Keeps s₀ s → ∀ (lost : Bool) (offset : ℕ) (b : List Byte), Keeps s₀ (put s lost offset b) :=
    fun _ hs1 _ _ _ => hs1.sendFrame
  have hlost : ∀ (s : State), Keeps s₀ s → Keeps s₀ (lost s) := fun _ hs1 => hput _ hs1 _ _ _
  split
  · exact h
  · split
    · exact hlost _ h
    · split
      · split
        · split
          · rename_i s1 _ e
            exact (h.devRead.of_fst_eq e).foldl fun _ _ hs2 => hput _ hs2 _ _ _
          · rename_i s1 _ _ e
            exact hlost _ (h.devRead.of_fst_eq e)
        · exact hlost _ h
      · exact hlost _ h

theorem Keeps.sendRecords {q : ℕ} {js : List Job} {p : ℕ} {retx : Bool} (h : Keeps s₀ s) :
    Keeps s₀ (sendRecords s q js p retx) := by
  unfold Machine.sendRecords
  extract_lets _ t t1
  have ht : Keeps s₀ t := h.foldl fun _ _ ht2 => ht2.foldl fun _ _ ht3 => ht3.sendSlot
  have ht1 : Keeps s₀ t1 := ht.foldl fun _ _ ht2 => ht2.sendFrame
  exact ht1.bump.ite ht1

theorem Keeps.sendFrom {q : ℕ} {held : List (BitVec 32 × ℕ)} (h : Keeps s₀ s) : Keeps s₀ (sendFrom s q held) :=
  h.sendRecords.setQueue.ite h

theorem Keeps.sendDue {q : ℕ} (h : Keeps s₀ s) : Keeps s₀ (sendDue s q) := h.sendFrom.ite h

theorem Keeps.flushEntries {p : ℕ} (h : Keeps s₀ s) : Keeps s₀ (flushEntries s p) := by
  unfold Machine.flushEntries
  split
  · extract_lets _ t _ _
    have ht : Keeps s₀ t := by
      unfold t
      refine h.foldl fun t2 g ht2 => ?_
      split
      · exact ht2
      · exact ht2.sendFrame
    exact ht.setPort.foldl fun _ _ ht2 => ht2.sendDue
  · exact h

theorem Keeps.addEntry {p : ℕ} {e : AcceptEntry} (h : Keeps s₀ s) : Keeps s₀ (addEntry s p e) :=
  h.setPort.flushEntries.ite h.setPort

theorem Keeps.refuse {q code : ℕ} {seq : BitVec 32} {p : ℕ} (h : Keeps s₀ s) : Keeps s₀ (refuse s q code seq p) :=
  h.addEntry

theorem Keeps.answerDuplicate {q : ℕ} {seq : BitVec 32} {p : ℕ} (h : Keeps s₀ s) :
    Keeps s₀ (answerDuplicate s q seq p) :=
  h.addEntry

theorem Keeps.entryReady {q : ℕ} {seq : BitVec 32} (h : Keeps s₀ s) : Keeps s₀ (entryReady s q seq) := by
  unfold Machine.entryReady
  split
  · exact h
  · exact h.setJob.addEntry

theorem Keeps.retransmit {q p : ℕ} {from_ : BitVec 32} (h : Keeps s₀ s) : Keeps s₀ (retransmit s q p from_) :=
  h.sendRecords

theorem Keeps.serveResend {p q : ℕ} {seq : BitVec 32} (h : Keeps s₀ s) : Keeps s₀ (serveResend s p q seq) :=
  h.retransmit.ite h.setQueue

theorem Keeps.serveHeld {p q : ℕ} (h : Keeps s₀ s) : Keeps s₀ (serveHeld s p q) :=
  h.ite (h.setQueue.foldl fun _ _ ht => ht.serveResend)

theorem Keeps.settleTimer {q : ℕ} (h : Keeps s₀ s) : Keeps s₀ (settleTimer s q) := by
  unfold Machine.settleTimer
  extract_lets
  split
  · split
    · exact h
    · exact h.setQueue
  · split
    · exact h.setQueue
    · exact h

theorem Keeps.flushPending {p : ℕ} (h : Keeps s₀ s) : Keeps s₀ (flushPending s p) := h.ite h.flushEntries

theorem Keeps.retxFire {q : ℕ} (h : Keeps s₀ s) : Keeps s₀ (retxFire s q) :=
  (h.flushPending.flushPending.retransmit.setQueue.ite h.setQueue.settleTimer).ite h

theorem Keeps.sendCredit {q : ℕ} (h : Keeps s₀ s) : Keeps s₀ (sendCredit s q) := h.sendFrame.setQueue.ite h.setQueue
theorem Keeps.creditHeld {q : ℕ} (h : Keeps s₀ s) : Keeps s₀ (creditHeld s q) := h.sendCredit.ite h

theorem Keeps.mirrorHeld (h : Keeps s₀ s) : Keeps s₀ (mirrorHeld s) := by
  unfold Machine.mirrorHeld
  extract_lets
  refine (h.sendMirror.ite h).foldl fun t1 x ht1 => ?_
  split
  · exact ht1.sendAck.ite ht1
  · exact ht1

theorem Keeps.heldOut {p : ℕ} (h : Keeps s₀ s) : Keeps s₀ (heldOut s p) := h.frame.foldl fun _ _ ht => ht.emit

theorem Keeps.resumePort {p : ℕ} (h : Keeps s₀ s) : Keeps s₀ (resumePort s p) := by
  unfold Machine.resumePort
  extract_lets _ t _ t2 _
  have ht : Keeps s₀ t := (h.heldOut.flushSubs.foldl fun _ _ hs2 => hs2.settleTimer).mirrorHeld
  have ht2 : Keeps s₀ t2 := (ht.flushEntries.ite ht).foldl fun _ _ hs2 => hs2.creditHeld
  exact (ht2.foldl fun _ _ hs2 => hs2.sendDue).foldl fun _ _ ht4 => ht4.serveHeld

theorem Keeps.grantTo {q : ℕ} (h : Keeps s₀ s) : Keeps s₀ (grantTo s q) :=
  (h.frame.ite h.frame).sendCredit.ite (h.frame.ite h.frame)

theorem Keeps.headroomOf {p : ℕ} (h : Keeps s₀ s) : Keeps s₀ (headroomOf s p) :=
  h.setPort.emit.ite (h.setPort.emit.ite (h.ite h.setPort))

theorem Keeps.updateHeadroom (h : Keeps s₀ s) : Keeps s₀ (updateHeadroom s) := h.headroomOf.headroomOf

theorem Keeps.retireJob {j : Job} (h : Keeps s₀ s) : Keeps s₀ (retireJob s j) := by
  unfold Machine.retireJob
  extract_lets t t1 t2
  have ht : Keeps s₀ t := h.frame
  have ht1 : Keeps s₀ t1 := by
    unfold t1
    split
    · extract_lets u
      have hu : Keeps s₀ u := ht.jFree
      exact hu.frame
    · exact ht
  have ht2 : Keeps s₀ t2 := by
    unfold t2
    refine ht1.foldl fun t3 k ht3 => ?_
    split
    · exact ht3.unpin.ite ht3
    · exact ht3
  exact ht2.frame.settleLinger

theorem Keeps.ackTo {q : ℕ} {seq : BitVec 32} (h : Keeps s₀ s) : Keeps s₀ (ackTo s q seq) := by
  unfold Machine.ackTo
  extract_lets _ _ _ _ t2
  have ht2 : Keeps s₀ t2 := (h.foldl fun _ _ hs1 => hs1.retireJob).setQueue.settleTimer
  exact ht2.mirrorPut.ite ht2

/-! ### The functions of `Machine/Frames` -/

theorem Keeps.onFrame {f : RxFrame} {type : ℕ} {fromHost : Bool} {maxCount implied : ℕ} {serve : ℕ → State}
    (h : Keeps s₀ s) (hserve : ∀ (a : ℕ), Keeps s₀ (serve a)) :
    KeepsRes s₀ (onFrame s f type fromHost maxCount implied serve) := by
  unfold Machine.onFrame
  refine KeepsRes.onUnit ?_
  refine KeepsRes.done ?_
  split
  · exact h
  · exact (hserve _).ite h.bump

theorem Keeps.learn {q : ℕ} {f : RxFrame} (h : Keeps s₀ s) : Keeps s₀ (learn s q f) := h.setQueue
theorem Keeps.asmDel {q : ℕ} {seq : BitVec 32} (h : Keeps s₀ s) : Keeps s₀ (asmDel s q seq) := h.frame

theorem Keeps.asmSet {q : ℕ} {seq : BitVec 32} {a : Asm} (h : Keeps s₀ s) : Keeps s₀ (asmSet s q seq a) :=
  h.frame.ite h.frame

theorem Keeps.mismatch {q : ℕ} {seq : BitVec 32} {p : ℕ} (h : Keeps s₀ s) : Keeps s₀ (mismatch s q seq p) :=
  h.asmDel.refuse

theorem Keeps.judgeAsm {q : ℕ} {seq : BitVec 32} {a : Asm} {p : ℕ} (h : Keeps s₀ s) :
    Keeps s₀ (judgeAsm s q seq a p) :=
  h.mismatch.ite h.asmSet

theorem Keeps.takeDesc {p : ℕ} {d : Desc} {mask : ℕ} (h : Keeps s₀ s) : Keeps s₀ (takeDesc s p d mask) := by
  unfold Machine.takeDesc
  extract_lets _ _ t _
  have ht : Keeps s₀ t := h.bump
  split
  · exact h.bump.refuse
  · split
    · split
      · exact h.bump.refuse
      · split
        · exact ht.answerDuplicate.ite ht
        · exact ht.answerDuplicate
    · exact (h.bump.ite h.judgeAsm).ite h.bump.refuse

theorem Keeps.takeData {p q k : ℕ} {seq : BitVec 32} {total off : ℕ} {b : List Byte} {bad : Option BadWord}
    (h : Keeps s₀ s) :
    Keeps s₀ (takeData s p q k seq total off b bad) :=
  h.bump.ite (h.bump.ite (h.bump.ite (h.bump.ite (h.mismatch.ite h.judgeAsm))))

theorem Keeps.takenOverDesc {base p : ℕ} {d : Desc} (h : Keeps s₀ s) : Keeps s₀ (takenOverDesc s base p d) :=
  h.answerDuplicate.ite h.refuse

/-! ### The functions of `Machine/Transport` -/

@[simp] theorem Keeps.execDesc {f : RxFrame} (h : Keeps s₀ s) : KeepsRes s₀ (execDesc f s) :=
  h.onFrame fun _ => ((h.foldl fun _ _ ht => ht.learn).foldl fun _ _ ht => ht.takeDesc.ite ht.takenOverDesc).updateHeadroom

@[simp] theorem Keeps.execData {f : RxFrame} (h : Keeps s₀ s) : KeepsRes s₀ (execData f s) :=
  h.onFrame (fun _ => h.learn.takeData.updateHeadroom.ite h.learn)

theorem Keeps.endTakeover {base : ℕ} (h : Keeps s₀ s) : Keeps s₀ (endTakeover s base) := h.frame.ite h

theorem Keeps.takeAck {q : ℕ} {seq : BitVec 32} (h : Keeps s₀ s) : Keeps s₀ (takeAck s q seq) :=
  h.bump.ite (h.ackTo.ite h)

@[simp] theorem Keeps.execAck {f : RxFrame} (h : Keeps s₀ s) : KeepsRes s₀ (execAck f s) :=
  h.onFrame (fun _ => ((h.foldl fun _ _ ht => ht.learn).foldl fun _ _ ht => ht.takeAck).endTakeover)

theorem Keeps.takeResend {p q : ℕ} {seq : BitVec 32} (h : Keeps s₀ s) : Keeps s₀ (takeResend s p q seq) :=
  h.setQueue.serveResend.ite h

@[simp] theorem Keeps.execResend {f : RxFrame} (h : Keeps s₀ s) : KeepsRes s₀ (execResend f s) :=
  h.onFrame (fun _ => (h.foldl fun _ _ ht => ht.learn).foldl fun _ _ ht => ht.takeResend)

@[simp] theorem Keeps.execPfcPauseRx {port prio quanta : ℕ} (h : Keeps s₀ s) :
    KeepsRes s₀ (execPfcPauseRx port prio quanta s) :=
  (KeepsRes.done (h.setPort.resumePort.ite (h.setPort.foldl fun _ _ hs1 => hs1.settleTimer))).onUnit.onUnit

@[simp] theorem Keeps.execPfcPauseExpiry {port prio : ℕ} (h : Keeps s₀ s) :
    KeepsRes s₀ (execPfcPauseExpiry port prio s) :=
  (KeepsRes.whenSt h h.setPort.resumePort).onUnit.onUnit

@[simp] theorem Keeps.execAssemblyTimeout {q : ℕ} {seq : BitVec 32} (h : Keeps s₀ s) :
    KeepsRes s₀ (execAssemblyTimeout q seq s) := by
  unfold Machine.execAssemblyTimeout
  split
  · exact KeepsRes.done h
  · exact KeepsRes.whenSt h h.asmDel.bump.updateHeadroom

theorem Keeps.copySlots {a : Asm} {d : Desc} {l : List ℕ} (h : Keeps s₀ s) :
    KeepsOpt s₀ ((copySlots s a d l).map Prod.fst) := by
  induction l generalizing s with
  | nil => exact KeepsOpt.some h
  | cons k l ih =>
    rw [Machine.copySlots]
    split
    · exact ih h
    · split
      · exact KeepsOpt.none
      · rw [Option.map_map]
        exact ih h.takePhys.zeroRange.devWrite

theorem Keeps.readSegs {a : Asm} (h : Keeps s₀ s) : Keeps s₀ (readSegs s a).1 := by
  unfold Machine.readSegs
  refine h.foldl_fst fun x g hx => ?_
  extract_lets log
  have hlog : ∀ (t : State), Keeps s₀ t → ∀ (outcome : ℕ) (event : Bool), Keeps s₀ (log t outcome event) :=
    fun _ ht _ _ => ht.memRecord
  split
  · exact hx
  · exact hx.bump.fst
  · exact (hlog _ hx.bump.logFault _ _).fst
  · exact (hlog _ hx.bump.logFault _ _).fst
  · exact (hlog _ hx.bump.bump.logFault _ _).fst

theorem Keeps.deliverSlot {d : Desc} {order k phys len : ℕ} (h : Keeps s₀ s) :
    Keeps s₀ (deliverSlot s d order k phys len).1 :=
  h.addVer.installVersion.fst

theorem Keeps.deliverSlots {a : Asm} {d : Desc} {order : ℕ} {l : List (ℕ × ℕ)} (h : Keeps s₀ s) :
    Keeps s₀ (deliverSlots s a d order l).1 := by
  induction l generalizing s with
  | nil => exact h
  | cons x l ih =>
    rw [Machine.deliverSlots]
    exact (ih h.deliverSlot).fst

theorem Keeps.resolveSlots {d : Desc} {g : Graph} {order : ℕ} {own : List (ℕ × ℕ)} {l : List ℕ} (h : Keeps s₀ s) :
    Keeps s₀ (resolveSlots s d g order own l).1 := by
  induction l generalizing s with
  | nil => exact h
  | cons k l ih =>
    unfold Machine.resolveSlots
    split
    rename_i t _ e
    have ht : Keeps s₀ t := by
      refine Keeps.of_fst_eq ?_ e
      split
      · extract_lets
        split
        · exact h.resolveInput.fst
        · exact h
      · split
        · exact h
        · split
          · exact h
          · exact h.resolveInput.fst
    exact (ih ht).fst

theorem Keeps.pendingSlots {d : Desc} {g : Graph} {order : ℕ} {l : List ℕ} (h : Keeps s₀ s) :
    Keeps s₀ (pendingSlots s d g order l).1 := by
  induction l generalizing s with
  | nil => exact h
  | cons k l ih =>
    unfold Machine.pendingSlots
    extract_lets
    split
    rename_i t _ e
    have ht : Keeps s₀ t := by
      refine Keeps.of_fst_eq ?_ e
      split
      · exact h
      · exact h.addVer.fst
    exact (ih ht).fst

theorem Keeps.journalJob {a : Asm} {d : Desc} {copies : List (ℕ × ℕ)} (h : Keeps s₀ s) :
    Keeps s₀ (journalJob s a d copies) := by
  unfold Machine.journalJob
  extract_lets
  split
  rename_i u _ e
  have hu : Keeps s₀ u := h.setQueue.deliverSlots.of_fst_eq e
  split
  rename_i u1 _ e1
  have hu1 : Keeps s₀ u1 := hu.resolveSlots.of_fst_eq e1
  split
  rename_i u2 _ e2
  have hu2 : Keeps s₀ u2 := hu1.pendingSlots.of_fst_eq e2
  extract_lets _ _ _ _ _ u5 s4
  have hu5 : Keeps s₀ u5 := hu2.frame.jWrite.setQueue.asmDel
  have hs4 : Keeps s₀ s4 := hu5.frame
  exact hs4.expandJob.ite hs4

theorem Keeps.mirrorStep {q : ℕ} {seq : BitVec 32} (h : Keeps s₀ s) : Keeps s₀ (mirrorStep s q seq) := by
  unfold Machine.mirrorStep
  split
  · exact h
  · exact h.entryReady.ite (h.mirrorPut.ite (h.setJob.entryReady.ite h))

@[simp] theorem Keeps.execJobAccept {q : ℕ} (h : Keeps s₀ s) : KeepsRes s₀ (execJobAccept q s) := by
  unfold Machine.execJobAccept
  refine KeepsRes.onUnit ?_
  extract_lets
  split
  · exact KeepsRes.done h
  · split
    · split
      · exact KeepsRes.done (h.bump.ite h).asmDel.refuse.updateHeadroom
      · split
        · exact KeepsRes.done (h.ite h.asmSet.bump)
        · rename_i t _ e
          have ht : Keeps s₀ t := h.copySlots.of_map_fst_eq e
          extract_lets r
          split
          · exact KeepsRes.done h.readSegs.bump.asmDel.settleAll.updateHeadroom
          · exact KeepsRes.done ht.readSegs.journalJob.mirrorStep.settleAll.updateHeadroom.jobWake
    · exact KeepsRes.done h

@[simp] theorem Keeps.execAcceptCoalesceExpiry {port : ℕ} (h : Keeps s₀ s) :
    KeepsRes s₀ (execAcceptCoalesceExpiry port s) :=
  (KeepsRes.whenSt h h.flushEntries).onUnit

@[simp] theorem Keeps.execComplCoalesceExpiry {q : ℕ} (h : Keeps s₀ s) : KeepsRes s₀ (execComplCoalesceExpiry q s) :=
  KeepsRes.done h.sendDue

@[simp] theorem Keeps.execRetxTimeout {q : ℕ} (h : Keeps s₀ s) : KeepsRes s₀ (execRetxTimeout q s) :=
  KeepsRes.whenSt h h.retxFire

@[simp] theorem Keeps.execCreditRefresh (h : Keeps s₀ s) : KeepsRes s₀ (execCreditRefresh s) :=
  KeepsRes.whenSt h (h.frame.foldl fun _ _ ht => ht.sendCredit)

@[simp] theorem Keeps.execCreditGrant (h : Keeps s₀ s) : KeepsRes s₀ (execCreditGrant s) := by
  unfold Machine.execCreditGrant
  split
  · exact KeepsRes.done h.frame.grantTo.updateHeadroom
  · exact KeepsRes.done h

theorem Keeps.markLate {j : Job} {late : Bool} (h : Keeps s₀ s) : Keeps s₀ (markLate s j late) := by
  unfold Machine.markLate
  split
  · exact h
  · split
    · split
      · exact h.jWrite
      · exact h
    · exact h

theorem Keeps.releaseJob {j : Job} {r : Rec} (h : Keeps s₀ s) : Keeps s₀ (releaseJob s j r) := by
  unfold Machine.releaseJob
  extract_lets _ _ _ _ _ _ _ t2 t3
  have ht2 : Keeps s₀ t2 := h.markLate.setJob.setQueue.settleTimer
  have ht3 : Keeps s₀ t3 := ht2.mirrorPut.ite ht2
  exact ht3.sendDue.ite ht3

@[simp] theorem Keeps.execRecordRelease {q : ℕ} (h : Keeps s₀ s) : KeepsRes s₀ (execRecordRelease q s) := by
  unfold Machine.execRecordRelease
  split
  · split
    · exact KeepsRes.done h.releaseJob
    · exact KeepsRes.done h
  · exact KeepsRes.done h

theorem Keeps.setActive {q p : ℕ} (h : Keeps s₀ s) : Keeps s₀ (setActive s q p) := h.setQueue.settleTimer
theorem Keeps.moveVlinks {f : ℕ → VLink → ℕ} (h : Keeps s₀ s) : Keeps s₀ (moveVlinks s f) := h.frame
theorem Keeps.moveFresh {a b : ℕ} (h : Keeps s₀ s) : Keeps s₀ (moveFresh s a b) := h.setPort.setPort
theorem Keeps.homeFresh {p : ℕ} (h : Keeps s₀ s) : Keeps s₀ (homeFresh s p) := h.setPort
theorem Keeps.failOver {q p : ℕ} (h : Keeps s₀ s) : Keeps s₀ (failOver s q p) := h.setActive.sendCredit.retxFire

theorem Keeps.moveEntries {a b : ℕ} (h : Keeps s₀ s) : Keeps s₀ (moveEntries s a b) :=
  h.ite h.setPort.setPort.flushEntries

@[simp] theorem Keeps.execPortDown {fault : PcsFault} (h : Keeps s₀ s) : KeepsRes s₀ (execPortDown fault s) := by
  unfold Machine.execPortDown
  extract_lets _ _ _ u1 _ _ _ _ t3 _ _
  have hu1 : Keeps s₀ u1 := h.setPort
  have ht3 : Keeps s₀ t3 := (hu1.frame.logFault.foldl fun _ _ ht6 => ht6.setActive).moveFresh.moveEntries
  exact (KeepsRes.whenSt h (ht3.foldl fun _ _ ht6 => ht6.failOver).moveVlinks.portLeavesPtp.settle).onUnit

theorem Keeps.portOpens {p : ℕ} (h : Keeps s₀ s) : Keeps s₀ (portOpens s p) :=
  h.flushPending.resumePort.foldl fun _ _ ht => ht.retxFire.ite ht

@[simp] theorem Keeps.execPortUp {port : ℕ} (h : Keeps s₀ s) : KeepsRes s₀ (execPortUp port s) := by
  unfold Machine.execPortUp
  refine KeepsRes.onUnit ?_
  refine KeepsRes.whenSt h ?_
  extract_lets _ _ t _ _ t2 _ _
  have ht : Keeps s₀ t := h.setPort
  have ht2 : Keeps s₀ t2 := (ht.foldl fun _ _ ht5 => ht5.setActive).moveFresh.moveEntries
  exact (ht.ite (ht2.foldl fun _ _ ht5 => ht5.failOver).moveVlinks).portOpens.updateHeadroom.settle

@[simp] theorem Keeps.execPortUpHoldExpiry {port : ℕ} (h : Keeps s₀ s) : KeepsRes s₀ (execPortUpHoldExpiry port s) :=
  (KeepsRes.whenSt h (h.setPort.homeFresh.foldl fun _ _ ht => ht.setActive).moveVlinks).onUnit

/-! ### The functions of `Machine/Buddy` -/

theorem Keeps.setSrc {x : MirrorSrc} (h : Keeps s₀ s) : Keeps s₀ (setSrc s x) := h.frame.ite h.frame

theorem Keeps.takeMirror {port : ℕ} {peer : Peer} {d : ℕ} {first : BitVec 32} {es : List (Option JEntry)}
    (h : Keeps s₀ s) :
    Keeps s₀ (takeMirror s port peer d first es) :=
  h.ite (h.setSrc.ite (h.setSrc.sendAck.ite h.setSrc))

@[simp] theorem Keeps.execMirror {f : RxFrame} (h : Keeps s₀ s) : KeepsRes s₀ (execMirror f s) :=
  h.onFrame (fun _ => h.takeMirror.ite h)

theorem Keeps.ackedEntry {m : MirrorEntry} (h : Keeps s₀ s) : Keeps s₀ (ackedEntry s m) := by
  unfold Machine.ackedEntry
  split
  · split
    · exact h.ite h.entryReady
    · exact h
  · exact h.setQueue
  · exact h

theorem Keeps.sendAllDue (h : Keeps s₀ s) : Keeps s₀ (sendAllDue s) := h.resumePort.resumePort

theorem Keeps.takeMirrorAck {pos : BitVec 32} (h : Keeps s₀ s) : Keeps s₀ (takeMirrorAck s pos) :=
  h.frame.startStream.sendAllDue.ite (h.frame.foldl fun _ _ hs1 => hs1.ackedEntry).sendAllDue

@[simp] theorem Keeps.execMirrorAck {f : RxFrame} (h : Keeps s₀ s) : KeepsRes s₀ (execMirrorAck f s) :=
  h.onFrame (fun _ => h.takeMirrorAck.ite h)

theorem Keeps.acceptUnmirrored (h : Keeps s₀ s) : Keeps s₀ (acceptUnmirrored s) := by
  unfold Machine.acceptUnmirrored
  refine h.foldl fun t j ht => ?_
  split
  · exact ht.setJob.entryReady
  · exact ht

theorem Keeps.declareUnreachable (h : Keeps s₀ s) : Keeps s₀ (declareUnreachable s) := h.frame

@[simp] theorem Keeps.execMirrorTimeout (h : Keeps s₀ s) : KeepsRes s₀ (execMirrorTimeout s) :=
  KeepsRes.whenSt h (h.bump.declareUnreachable.acceptUnmirrored.sendAllDue.ite h.bump.declareUnreachable)

@[simp] theorem Keeps.execMirrorResend (h : Keeps s₀ s) : KeepsRes s₀ (execMirrorResend s) :=
  KeepsRes.whenSt h h.frame.resendMirror

@[simp] theorem Keeps.execMirrorKeepalive (h : Keeps s₀ s) : KeepsRes s₀ (execMirrorKeepalive s) :=
  KeepsRes.whenSt h h.mirrorPut

@[simp] theorem Keeps.execBuddyFence (h : Keeps s₀ s) : KeepsRes s₀ (execBuddyFence s) :=
  KeepsRes.whenSt h h.frame.bump

theorem Keeps.takeJob {dev : ℕ} {es : List JEntry} {q : ℕ} {seq : BitVec 32} (h : Keeps s₀ s) :
    Keeps s₀ (takeJob s dev es q seq) := by
  unfold Machine.takeJob
  extract_lets _ _ put
  have hput : ∀ (s : State), Keeps s₀ s → ∀ (j : Job), Keeps s₀ (put s j) := fun _ hs1 _ => hs1.frame
  split
  extract_lets
  split
  · exact (hput _ h _).setQueue
  · exact hput _ h _
  · exact hput _ h _
  · split
    · exact (hput _ h _).finalise
    · split
      · split
        rename_i u1 _ e
        exact (hput _ (h.pendingSlots.of_fst_eq e) _).expandJob
      · exact (hput _ h _).finalise

theorem Keeps.takeQueue {dev : ℕ} {es : List JEntry} {q : ℕ} (h : Keeps s₀ s) : Keeps s₀ (takeQueue dev es s q) :=
  (h.setQueue.foldl fun _ _ hs1 => hs1.takeJob).sendDue

theorem Keeps.takeOver {dev : ℕ} (h : Keeps s₀ s) : Keeps s₀ (takeOver s dev) :=
  (h.setSrc.bump.foldl fun _ _ hs1 => hs1.takeQueue).endTakeover

@[simp] theorem Keeps.execBuddyDead {source : ℕ} (h : Keeps s₀ s) : KeepsRes s₀ (execBuddyDead source s) :=
  KeepsRes.whenSt h h.takeOver.settleAll

theorem Keeps.applyTakeoverCmd {w : WReq} (h : Keeps s₀ s) : Keeps s₀ (applyTakeoverCmd s w).2 := by
  unfold Machine.applyTakeoverCmd
  split
  · exact h.fails
  · split
    · exact h.fails
    · extract_lets t
      have ht : Keeps s₀ t := h.storeVal
      split
      · exact ht.frame.snd
      · exact ht.takeOver.snd

theorem Keeps.applyBuddyRelease {w : WReq} (h : Keeps s₀ s) : Keeps s₀ (applyBuddyRelease s w).2 := by
  unfold Machine.applyBuddyRelease
  split
  · exact h.fails
  · extract_lets t _ _ _ _ u _ u2 _
    have ht : Keeps s₀ t := by
      unfold t
      refine h.foldl fun t1 j ht1 => ?_
      split
      · extract_lets _ t3
        have ht3 : Keeps s₀ t3 := (ht1.ite ht1.stopTasks).foldl fun _ _ ht4 => ht4.frame.ite ht4
        exact ht3.frame
      · exact ht1
    have hu : Keeps s₀ u := ht.frame
    have hu2 : Keeps s₀ u2 := hu.frame.foldl fun _ _ hs1 => hs1.reclaim
    exact (hu2.foldl fun _ _ ht1 => ht1.sendCredit).syncAon.storeVal.updateHeadroom.snd

theorem Keeps.readCandidate {index sub : ℕ} (h : Keeps s₀ s) : Keeps s₀ (readCandidate s index sub) := by
  unfold Machine.readCandidate
  extract_lets
  split
  rename_i t e
  exact (h.drawBits.of_snd_eq e).sendAt

theorem Keeps.askCandidate {n : ℕ} (h : Keeps s₀ s) : Keeps s₀ (askCandidate s n) :=
  h.ite h.readCandidate.readCandidate

theorem Keeps.applyBuddy {answer : Option (ℕ × ℕ)} {w : WReq} (h : Keeps s₀ s) :
    Keeps s₀ (applyBuddy answer s w).2 := by
  unfold Machine.applyBuddy
  split
  · exact h.fails
  · extract_lets s1 _ t _
    have hs1 : Keeps s₀ s1 := h.askCandidate
    have ht : Keeps s₀ t := hs1.storeVal
    split
    · exact hs1.fails
    · exact hs1.ifFlash (ht.startStream.ite ht.frame)

/-! ### The functions of `Machine/Exceptions` -/

theorem Keeps.reread {a : ℕ} (h : Keeps s₀ s) : Keeps s₀ (reread s a).1 := by
  unfold Machine.reread
  extract_lets
  split
  · exact h.bump.memLog.fst
  · split
    · exact h
    · exact h.confirmBad.fst
  · split
    · exact h
    · exact h.goodOnReread.fst
  · exact h

theorem Keeps.taskFault {c : ℕ} {x : Core} {e : Exc} (h : Keeps s₀ s) : Keeps s₀ (taskFault s c x e).1 := by
  unfold Machine.taskFault
  extract_lets _ again _
  have hagain : Keeps s₀ again.1 := by
    unfold again
    split
    · split
      · exact h.reread
      · exact h
    · exact h
  exact hagain.fst

theorem Keeps.takeExc {c : ℕ} {e : Exc} (h : Keeps s₀ s) : Keeps s₀ (takeExc s c e) := by
  unfold Machine.takeExc
  extract_lets _ _ t t1 t2 _ _ r
  have ht : Keeps s₀ t := h.setCore
  have ht1 : Keeps s₀ t1 := ht.bump.ite ht
  have ht2 : Keeps s₀ t2 := ht1.bump.ite ht1
  have hr : Keeps s₀ r.1 := ht2.taskFault
  split
  · exact ht2.freeCore
  · split
    · split
      · extract_lets t3
        have ht3 : Keeps s₀ t3 := by
          unfold t3
          split
          · exact ht2.logTask
          · exact ht2
        exact ht3.stopToWait.settleAll
      · exact (hr.runFault.freeCore.ite hr.runFault).settleAll
    · split
      · extract_lets t3
        have ht3 : Keeps s₀ t3 := by
          unfold t3
          split
          · exact ht2.logTask
          · exact ht2
        exact ht3.stopToWait.settleAll
      · exact (hr.runFault.freeCore.ite hr.runFault).settleAll

theorem Keeps.imemLog {c a finder outcome use : ℕ} (h : Keeps s₀ s) : Keeps s₀ (imemLog s c a finder outcome use) :=
  h.memRecord

theorem Keeps.setIbad {k : ℕ} {b : Option BadWord} (h : Keeps s₀ s) : Keeps s₀ (setIbad s k b) := h.frame
theorem Keeps.markReload {c : ℕ} (h : Keeps s₀ s) : Keeps s₀ (markReload s c) := h.frame

theorem Keeps.logImem {c a finder cause : ℕ} (h : Keeps s₀ s) : Keeps s₀ (logImem s c a finder cause) :=
  h.logFault.ite h

theorem Keeps.rereadImem {c k finder use : ℕ} {good : Bool} (h : Keeps s₀ s) :
    Keeps s₀ (rereadImem s c k finder use good) :=
  h.logImem.setIbad.bump.imemLog.strike.ite h.logImem.setIbad.bump.bump.imemLog.strike

theorem Keeps.fetchWord {c a : ℕ} (h : Keeps s₀ s) : Keeps s₀ (fetchWord s c a).1 := by
  unfold Machine.fetchWord
  extract_lets
  split
  · exact h
  · exact h.setIbad.bump.fst
  · exact h.bump.imemLog.markReload.fst
  · exact h.rereadImem.markReload.fst
  · exact h.rereadImem.markReload.fst
  · exact h.rereadImem.markReload.fst

/-! ### The functions of `Machine/Cipher` -/

theorem Keeps.useCipher {blocks : ℕ} (h : Keeps s₀ s) : Keeps s₀ (useCipher s blocks) := h.bump

theorem Keeps.cipherFault {n : ℕ} (h : Keeps s₀ s) : Keeps s₀ (cipherFault s n).1 := by
  unfold Machine.cipherFault
  split
  · exact h
  · extract_lets t _
    have ht : Keeps s₀ t := h.bump
    split
    · exact ht
    · exact ht.frame.fst

theorem Keeps.cipherRun (h : Keeps s₀ s) : Keeps s₀ (cipherRun s).1 := by
  unfold Machine.cipherRun
  split
  rename_i t e
  exact (h.drawNat.of_snd_eq e).cipherFault

/-! ### The functions of `Machine/Audit` -/

theorem Keeps.sealTrial {key : Option (List Byte)} (h : Keeps s₀ s) : Keeps s₀ (sealTrial s key) := h.cipherRun.ite h

theorem Keeps.putAudit {key : Option (List Byte)} {kind : ℕ} {first : Bool} {r : AuditRec} (h : Keeps s₀ s) :
    Keeps s₀ (putAudit s key kind first r) :=
  (h.frame.useCipher.ite h.frame).raiseScalar.ite (h.frame.useCipher.ite h.frame)

theorem Keeps.sealRestart {key : Option (List Byte)} {old : ℕ} (h : Keeps s₀ s) :
    Keeps s₀ (sealRestart s key old) := by
  unfold Machine.sealRestart
  extract_lets t _
  have ht : Keeps s₀ t := h.putAudit
  exact ht.frame

theorem Keeps.auditUnder {key : Option (List Byte)} {r : AuditRec} (h : Keeps s₀ s) :
    Keeps s₀ (auditUnder s key r) := by
  unfold Machine.auditUnder
  extract_lets s1 s2
  have hs1 : Keeps s₀ s1 := h.sealTrial
  have hs2 : Keeps s₀ s2 := by
    unfold s2
    split
    · exact hs1.sealRestart
    · exact hs1.ite hs1.sealRestart
  exact hs2.putAudit

theorem Keeps.audit {r : AuditRec} (h : Keeps s₀ s) : Keeps s₀ (audit s r) := h.auditUnder

theorem Keeps.auditK2 {before : State} {r : AuditRec} (h : Keeps s₀ s) : Keeps s₀ (auditK2 before s r) :=
  h.auditUnder.sealTrial.sealRestart

theorem Keeps.discardBlocks (h : Keeps s₀ s) : Keeps s₀ (discardBlocks s) := by
  unfold Machine.discardBlocks
  refine h.frame.foldl fun t b ht => ?_
  split
  rename_i t1 e
  exact (ht.drawNat.of_snd_eq e).audit

theorem Keeps.loseAudit (h : Keeps s₀ s) : Keeps s₀ (loseAudit s) := h.frame

/-! ### The functions of `Machine/Restart` -/

theorem Keeps.withCause {c : ℕ} (h : Keeps s₀ s) : Keeps s₀ (withCause s c) := h.frame

theorem Keeps.dropJobStaging {j : Job} (h : Keeps s₀ s) : Keeps s₀ (dropJobStaging s j) :=
  h.foldl fun _ _ hs1 => hs1.foldl fun _ _ hs2 => hs2.dropStaging

theorem Keeps.resetVersions {keepDram : Bool} (h : Keeps s₀ s) : Keeps s₀ (resetVersions s keepDram) :=
  h.frame.settleLinger

theorem Keeps.resetReserved (h : Keeps s₀ s) : Keeps s₀ (resetReserved s) := h.frame

theorem Keeps.resetIslands {keepDram : Bool} (h : Keeps s₀ s) : Keeps s₀ (resetIslands s keepDram) := by
  unfold Machine.resetIslands
  extract_lets s1 _ t _ t2 t3 _ t5 _ _ _ _ _ _ _ _ _ _ _
  have hs1 : Keeps s₀ s1 := h.discardBlocks
  have ht : Keeps s₀ t := (hs1.issueWhere.ite hs1).foldl fun _ _ hs3 => hs3.dropJobStaging
  have ht2 : Keeps s₀ t2 := ht.frame.resetVersions
  have ht3 : Keeps s₀ t3 := (ht2.ite ht2.loseDram).fillSram
  have ht5 : Keeps s₀ t5 := (ht3.overcastLeave.ite ht3).foldl fun _ _ hu11 => hu11.ite hu11.setRegState
  exact ht5.frame.resetReserved

theorem Keeps.loseJournal (h : Keeps s₀ s) : Keeps s₀ (loseJournal s) := h.frame.syncAon

theorem Keeps.keysFromFlash (h : Keeps s₀ s) : Keeps s₀ (keysFromFlash s) := by
  unfold Machine.keysFromFlash
  split
  rename_i t e
  have ht : Keeps s₀ t := h.drawNat.of_snd_eq e
  exact ht.frame

theorem Keeps.reloadObjects {heldLost : Bool} (h : Keeps s₀ s) : Keeps s₀ (reloadObjects s heldLost) := h.frame
theorem Keeps.clearCounts (h : Keeps s₀ s) : Keeps s₀ (clearCounts s) := h.frame

theorem Keeps.loseAon (h : Keeps s₀ s) : Keeps s₀ (loseAon s) := by
  unfold Machine.loseAon
  extract_lets t _ _ _ _
  have ht : Keeps s₀ t := h.loseJournal.keysFromFlash.loseAudit.clearCounts.reloadObjects
  exact ht.frame

theorem Keeps.recoverSlot {j : Job} (h : Keeps s₀ s) : KeepsOpt s₀ (recoverSlot s j) := by
  unfold Machine.recoverSlot
  split
  · exact KeepsOpt.some h
  · extract_lets
    split
    · exact KeepsOpt.some h.jRead
    · exact KeepsOpt.none

theorem Keeps.forgetJob {j : Job} (h : Keeps s₀ s) : Keeps s₀ (forgetJob s j) := by
  unfold Machine.forgetJob
  extract_lets t _ t2 _
  have ht : Keeps s₀ t := h.jFree
  have ht2 : Keeps s₀ t2 := by
    unfold t2
    refine ht.frame.foldl fun t4 v ht4 => ?_
    split
    · exact ht4.failVersion
    · exact ht4
  refine (ht2.foldl fun _ _ ht4 => ht4.releaseInput).foldl fun t4 k ht4 => ?_
  split
  · exact ht4.unpin.ite ht4
  · exact ht4

theorem Keeps.recoverJob {ctxLost : Bool} {j0 : Job} (h : Keeps s₀ s) : Keeps s₀ (recoverJob ctxLost s j0) := by
  unfold Machine.recoverJob
  split
  · exact h
  · exact h.forgetJob
  · rename_i s1 _ e
    have hs1 : Keeps s₀ s1 := by
      obtain ⟨j, -, e'⟩ := Option.bind_eq_some_iff.mp e
      exact h.recoverSlot.of_eq e'
    extract_lets s2 _
    have hs2 : Keeps s₀ s2 := hs1.setJob
    split
    · split
      · exact hs2
      · extract_lets _ s3
        have hs3 : Keeps s₀ s3 := hs2.setJob
        split
        · exact hs3.jWrite
        · exact hs3
    · split
      · exact hs2.finalise
      · exact hs2.expandJob

theorem Keeps.recoverQueue {q : ℕ} (h : Keeps s₀ s) : Keeps s₀ (recoverQueue s q) := h.setQueue

theorem Keeps.recover {ctxLost : Bool} (h : Keeps s₀ s) : Keeps s₀ (recover s ctxLost) :=
  (h.foldl fun _ _ ht => ht.recoverQueue.ite ht).foldl fun _ _ hs1 => hs1.recoverJob

theorem Keeps.zeroRegion {r : ℕ} (h : Keeps s₀ s) : Keeps s₀ (zeroRegion s r) := h.ite (h.zeroRange.ite h.fillSub)

theorem Keeps.testRegions (h : Keeps s₀ s) : Keeps s₀ (testRegions s) := by
  unfold Machine.testRegions
  refine h.foldl fun t x ht => ?_
  split
  rename_i t1 e
  have ht1 : Keeps s₀ t1 := ht.drawNat.of_snd_eq e
  exact ht1.ite (ht1.zeroRegion.setRegion.ite ht1.setRegState)

theorem Keeps.fillPools (h : Keeps s₀ s) : Keeps s₀ (fillPools s) := h.fastFill.foldl fun _ _ ht => ht.fastFill.ite ht
theorem Keeps.enableFp (h : Keeps s₀ s) : Keeps s₀ (enableFp s) := h.frame

theorem Keeps.noteRestart {cause : ℕ} (h : Keeps s₀ s) : Keeps s₀ (noteRestart s cause) := by
  unfold Machine.noteRestart
  extract_lets t _
  have ht : Keeps s₀ t := h.bump.ite (h.bump.ite h)
  exact ht.frame

theorem Keeps.xspiUp (h : Keeps s₀ s) : Keeps s₀ (xspiUp s) := h.ite h.frame

theorem Keeps.bootUp (h : Keeps s₀ s) : Keeps s₀ (bootUp s) := by
  unfold Machine.bootUp
  split
  · exact h
  · extract_lets _ t _ _ t1 _ _ _ _ _
    have ht : Keeps s₀ t := h.reloadObjects.enableFp.noteRestart.xspiUp
    have ht1 : Keeps s₀ t1 := ht.frame
    split
    rename_i t4 e1
    have ht4 : Keeps s₀ t4 := ht1.frame.audit.drawNat.of_snd_eq e1
    extract_lets
    split
    rename_i t5 _ e2
    have ht5 : Keeps s₀ t5 := by
      refine Keeps.of_fst_eq ?_ e2
      split
      · exact ht4.cipherRun
      · exact ht4
    split
    rename_i t6 _ e3
    have ht6 : Keeps s₀ t6 := by
      refine Keeps.of_fst_eq ?_ e3
      split
      · exact ht5.cipherRun
      · exact ht5
    extract_lets img _ _
    clear_value img
    split
    · exact ht6.frame
    · extract_lets _ t8 t9 _ t10 _
      have ht8 : Keeps s₀ t8 := ht6.frame.testRegions
      have ht9 : Keeps s₀ t9 := ht8.ite ht8.fillPools
      have ht10 : Keeps s₀ t10 := ht9.frame
      exact (ht10.bump.ite ht10).recover

theorem Keeps.beginRestart {cause : ℕ} (h : Keeps s₀ s) : Keeps s₀ (beginRestart s cause) := by
  unfold Machine.beginRestart
  extract_lets t _
  have ht : Keeps s₀ t := h.resetIslands.withCause
  exact ht.frame

theorem Keeps.restartNow {cause : ℕ} (h : Keeps s₀ s) : Keeps s₀ (restartNow s cause) := h.beginRestart.bootUp

/-! ### The functions of `Machine/Fault` -/

theorem Keeps.loseEngines {i : ℕ} (h : Keeps s₀ s) : Keeps s₀ (loseEngines s i) :=
  (h.ite h.logFault).ite (h.foldl fun _ _ ht => ht.runFault.freeEngine)

theorem Keeps.resetIsland {k : ℕ} (h : Keeps s₀ s) : Keeps s₀ (resetIsland s k) := h.frame

theorem Keeps.retireIsland {k : ℕ} (h : Keeps s₀ s) : Keeps s₀ (retireIsland s k) := by
  unfold Machine.retireIsland
  exact (h.ite h.retireRegion).damageVersions

theorem Keeps.loseIsland {island : ℕ} (h : Keeps s₀ s) : Keeps s₀ (loseIsland s island) := by
  unfold Machine.loseIsland
  extract_lets _ _ _ _ t1 _ _ t3
  have ht1 : Keeps s₀ t1 := h.bump.strike.foldl fun _ _ ht4 => ht4.runFault
  have ht3 : Keeps s₀ t3 := (ht1.foldl fun _ _ ht4 => ht4.lateFault).resetIsland.setCluster
  exact h.ite (ht3.retireIsland.logFault.ite ht3.setRegState.logFault)

theorem Keeps.loseAnyIsland {i : ℕ} (h : Keeps s₀ s) : Keeps s₀ (loseAnyIsland s i) :=
  h.loseIsland.ite (h.loseMemRegion.ite h.loseEngines)

@[simp] theorem Keeps.execIslandLoss {island : ℕ} (h : Keeps s₀ s) : KeepsRes s₀ (execIslandLoss island s) :=
  (KeepsRes.done h.loseAnyIsland.settleAll).onUnit

@[simp] theorem Keeps.execIslandRestored {island : ℕ} {passed : Bool} (h : Keeps s₀ s) :
    KeepsRes s₀ (execIslandRestored island passed s) := by
  unfold Machine.execIslandRestored
  refine KeepsRes.onUnit ?_
  extract_lets _ _ _ t _ _ t2
  have ht : Keeps s₀ t := h.fillIsland.setRegState
  have ht2 : Keeps s₀ t2 := (ht.setCluster.foldl fun _ _ ht3 => ht3.setBad).bump.ite h.retireIsland
  exact (KeepsRes.done h).ite (KeepsRes.done ht2.settleAll)

@[simp] theorem Keeps.execStrikeLapse {region : ℕ} (h : Keeps s₀ s) : KeepsRes s₀ (execStrikeLapse region s) :=
  (KeepsRes.done h.setRegion).onUnit

@[simp] theorem Keeps.execOvercastExit (h : Keeps s₀ s) : KeepsRes s₀ (execOvercastExit s) :=
  KeepsRes.whenSt h h.overcastLeave

theorem Keeps.applyOvercastMask {w : WReq} (h : Keeps s₀ s) : Keeps s₀ (applyOvercastMask s w).2 :=
  h.ifFlash (h.setOval.reOvercast.overcastLeave.ite h.setOval.reOvercast)

theorem Keeps.setSv {n st : ℕ} (h : Keeps s₀ s) : Keeps s₀ (setSv s n st) := h.frame
theorem Keeps.copyToStandby (h : Keeps s₀ s) : Keeps s₀ (copyToStandby s) := h.frame
theorem Keeps.switchTo {n : ℕ} (h : Keeps s₀ s) : Keeps s₀ (switchTo s n) := h.frame.bump

@[simp] theorem Keeps.execSupervisorSwitchover {cause : ℕ} (h : Keeps s₀ s) :
    KeepsRes s₀ (execSupervisorSwitchover cause s) := by
  unfold Machine.execSupervisorSwitchover
  extract_lets _ _ _ _ t2
  have ht2 : Keeps s₀ t2 := h.logFault.strike.setSv
  exact (KeepsRes.done h).ite ((KeepsRes.done ht2.switchTo.settleAll).ite (KeepsRes.done ht2.restartNow))

@[simp] theorem Keeps.execSupervisorPairRetested {passed : Bool} (h : Keeps s₀ s) :
    KeepsRes s₀ (execSupervisorPairRetested passed s) := by
  unfold Machine.execSupervisorPairRetested
  split
  · exact KeepsRes.done h
  · exact KeepsRes.done (h.setSv.copyToStandby.ite (h.setSv.ite h.setSv.retireRegion)).settleAll

@[simp] theorem Keeps.execStandbyCopy (h : Keeps s₀ s) : KeepsRes s₀ (execStandbyCopy s) :=
  KeepsRes.whenSt h h.copyToStandby

@[simp] theorem Keeps.execSwitchOverComplete (h : Keeps s₀ s) : KeepsRes s₀ (execSwitchOverComplete s) :=
  KeepsRes.whenSt h h.frame.evalMigration.reOvercast

theorem Keeps.applyFwUpdateCmd {w : WReq} (h : Keeps s₀ s) : Keeps s₀ (applyFwUpdateCmd s w).2 := by
  unfold Machine.applyFwUpdateCmd
  split
  rename_i t _ e
  have ht : Keeps s₀ t := h.cipherFault.of_fst_eq e
  split
  · exact ht.fails
  · split
    · exact ht.fails
    · split
      · exact ht.fails
      · split
        · exact ht.fails
        · extract_lets _ _ u _
          have hu : Keeps s₀ u := ht.setSv.storeVal
          split
          · exact ht.fails
          · exact hu.frame.snd

@[simp] theorem Keeps.execFwStandbyLoaded (h : Keeps s₀ s) : KeepsRes s₀ (execFwStandbyLoaded s) := by
  unfold Machine.execFwStandbyLoaded
  split
  · exact KeepsRes.done h
  · split
    · exact KeepsRes.done h
    · extract_lets t _
      have ht : Keeps s₀ t := h.setSv.copyToStandby.switchTo
      exact KeepsRes.done ht.frame.settleAll

@[simp] theorem Keeps.execFwUpdateDone (h : Keeps s₀ s) : KeepsRes s₀ (execFwUpdateDone s) := by
  unfold Machine.execFwUpdateDone
  split
  · split
    · exact KeepsRes.done h
    · extract_lets t i
      have ht : Keeps s₀ t := h.setSv
      refine KeepsRes.done (Keeps.settleAll ?_)
      split
      · exact ht.frame
      · exact ht.frame
  · exact KeepsRes.done h

theorem Keeps.applyFwImage {w : WReq} (h : Keeps s₀ s) : Keeps s₀ (applyFwImage s w).2 := by
  unfold Machine.applyFwImage
  extract_lets _ _ u1 _ _
  have hu1 : Keeps s₀ u1 := h.frame
  split
  rename_i t _ e
  have ht : Keeps s₀ t := h.cipherFault.of_fst_eq e
  split
  · exact h.fails
  · split
    · exact ht
    · split
      · exact ht.fails
      · extract_lets u3 _ _ _
        have hu3 : Keeps s₀ u3 := (hu1.useCipher.ite hu1).setOval
        split <;> exact hu3.frame.snd

theorem Keeps.applyRegionRestore {w : WReq} (h : Keeps s₀ s) : Keeps s₀ (applyRegionRestore s w).2 := by
  unfold Machine.applyRegionRestore
  extract_lets _ _ t _ _ _
  have ht : Keeps s₀ t := h.storeVal.zeroRegion.setRegion
  split
  · exact h.fails
  · split
    · exact h.setRegState.storeVal.snd
    · split
      · exact h.fails
      · exact ht.fillIsland.setCluster.ite ((ht.setSv.ite ht).ite ht)

theorem Keeps.restoreTested {r : ℕ} {passed : Bool} (h : Keeps s₀ s) : Keeps s₀ (restoreTested s r passed).2 := by
  unfold Machine.restoreTested
  split
  · exact h.zeroRegion.setRegion.snd
  · exact h.setRegState.snd

theorem Keeps.applyRegionRetire {w : WReq} (h : Keeps s₀ s) : Keeps s₀ (applyRegionRetire s w).2 := by
  unfold Machine.applyRegionRetire
  split
  · exact h.storeVal.retireRegion.snd
  · exact h.fails

/-! ### The functions of `Machine/Dispatcher` -/

theorem Keeps.loadCore {c : ℕ} {d : TaskDef} {block : List Byte} (h : Keeps s₀ s) : Keeps s₀ (loadCore s c d block) :=
  h.frame

theorem Keeps.markStarted {j : Job} (h : Keeps s₀ s) : Keeps s₀ (markStarted s j) :=
  h.ite (h.setJob.jWrite.ite h.setJob)

theorem Keeps.startedRun {ref : TaskRef} {p : Option Place} {phase : ℕ} {staging : List (ℕ × ℕ × ℕ)}
    (h : Keeps s₀ s) :
    Keeps s₀ (startedRun s ref p phase staging) := by
  unfold Machine.startedRun
  split
  · exact h
  · exact h.markStarted.setTask

theorem Keeps.startOnCore {ref : TaskRef} {j : Job} {d : TaskDef} {c : ℕ} (h : Keeps s₀ s) :
    KeepsOpt s₀ (startOnCore s ref j d c) := by
  unfold Machine.startOnCore
  split
  · exact KeepsOpt.none
  · rename_i t _ e
    have ht : Keeps s₀ t := h.takeStaging.of_map_fst_eq e
    extract_lets chan s1 _ s2 _
    have hs1 : Keeps s₀ s1 := ht.loadCore
    have hs2 : Keeps s₀ s2 := by
      unfold s2
      clear_value chan
      split
      · exact hs1.setChan
      · exact hs1
    split
    · exact KeepsOpt.none
    · exact KeepsOpt.some hs2.setCore.startedRun

theorem Keeps.makeEntry {ref : TaskRef} {j : Job} {d : TaskDef} {r : TaskRun} {staging : List (ℕ × ℕ × ℕ)} {replay : Bool}
    (h : Keeps s₀ s) :
    Keeps s₀ (makeEntry s ref j d r staging replay).1 := by
  unfold Machine.makeEntry
  extract_lets
  split
  rename_i s1 _ e
  have hs1 : Keeps s₀ s1 := by
    refine Keeps.of_fst_eq ?_ e
    split
    · exact h
    · split
      · rename_i s2 _ e1
        exact h.devRead.of_fst_eq e1
      · rename_i s2 _ _ e1
        exact h.devRead.of_fst_eq e1
  exact hs1

theorem Keeps.queueEntry {ref : TaskRef} {j : Job} {d : TaskDef} {r : TaskRun} {replay : Bool} (h : Keeps s₀ s) :
    KeepsOpt s₀ (queueEntry s ref j d r replay) := by
  unfold Machine.queueEntry
  split
  · exact KeepsOpt.none
  · rename_i t _ e
    split
    rename_i u _ e'
    have hu : Keeps s₀ u := (h.takeStaging.of_map_fst_eq e).makeEntry.of_fst_eq e'
    split
    · exact KeepsOpt.none
    · exact KeepsOpt.some hu.frame.setTask

theorem Keeps.takeCore {ref : TaskRef} {j : Job} {d : TaskDef} {r : TaskRun} {c : ℕ} (h : Keeps s₀ s) :
    KeepsOpt s₀ (takeCore s ref j d r c) := by
  unfold Machine.takeCore
  extract_lets
  split
  · exact h.startOnCore
  · split
    · split
      · split
        · extract_lets
          split
          · split
            · exact h.evictRun.startOnCore
            · exact KeepsOpt.none
          · exact KeepsOpt.none
        · exact KeepsOpt.none
      · exact KeepsOpt.none
    · exact KeepsOpt.none

theorem Keeps.countReplay {replay : Bool} (h : Keeps s₀ s) : Keeps s₀ (countReplay s replay) := h.bump.ite h

@[simp] theorem Keeps.execTaskDispatch {t : TaskRef} {p : Place} (h : Keeps s₀ s) :
    KeepsRes s₀ (execTaskDispatch t p s) := by
  unfold Machine.execTaskDispatch
  split
  · exact KeepsRes.done h
  · split
    · exact KeepsRes.done h
    · split
      · exact KeepsRes.done h
      · split
        · split
          · refine KeepsRes.onUnit ?_
            refine KeepsRes.done ?_
            split
            · split
              · rename_i t1 e
                exact (h.takeCore.of_eq e).countReplay
              · exact h
            · exact h
          · exact KeepsRes.done h
        · exact KeepsRes.done (h.queueEntry.getD h)

@[simp] theorem Keeps.execTaskReplay {t : TaskRef} {p : Place} (h : Keeps s₀ s) :
    KeepsRes s₀ (execTaskReplay t p s) := by
  unfold Machine.execTaskReplay
  split
  · exact KeepsRes.done h
  · split
    · exact KeepsRes.done h
    · split
      · exact KeepsRes.done h
      · split
        · split
          · extract_lets
            refine KeepsRes.onUnit ?_
            refine KeepsRes.done ?_
            split
            · exact h.setTask
            · split
              · split
                · rename_i t1 e
                  exact (h.takeCore.of_eq e).bump
                · exact h
              · exact h
          · exact KeepsRes.done h
        · split
          · rename_i t1 e
            exact KeepsRes.done (h.queueEntry.of_eq e).bump
          · exact KeepsRes.done h

/-! ### The functions of `Machine/Ldpc` -/

theorem Keeps.readInput {e : Entry} (h : Keeps s₀ s) : Keeps s₀ (readInput s e).1 := by
  unfold Machine.readInput
  split
  · exact h
  · exact h.devRead

theorem Keeps.runDecode {e : Entry} (h : Keeps s₀ s) : Keeps s₀ (runDecode s e).1 := by
  unfold Machine.runDecode
  extract_lets _ soft
  have hsoft : Keeps s₀ soft.1 := by
    unfold soft
    split
    · exact h.devRead
    · exact h
  split
  · exact h
  · clear_value soft
    split
    · exact hsoft
    · split
      split
      · exact hsoft
      · split
        · rename_i u _ _ e1
          exact hsoft.readInput.of_fst_eq e1
        · rename_i u _ e1
          exact hsoft.readInput.of_fst_eq e1

theorem Keeps.runEncode {e : Entry} (h : Keeps s₀ s) : Keeps s₀ (runEncode s e).1 := by
  unfold Machine.runEncode
  extract_lets
  split
  · exact h
  · split
    · rename_i u _ _ e1
      exact h.readInput.of_fst_eq e1
    · rename_i u _ e1
      exact h.readInput.of_fst_eq e1

/-! ### The functions of `Machine/Polar` -/

theorem Keeps.runPolarEncode {e : Entry} (h : Keeps s₀ s) : Keeps s₀ (runPolarEncode s e).1 := by
  unfold Machine.runPolarEncode
  extract_lets
  split
  · exact h
  · split
    · rename_i u _ _ e1
      exact h.readInput.of_fst_eq e1
    · rename_i u _ e1
      exact h.readInput.of_fst_eq e1

theorem Keeps.runPolarDecode {e : Entry} (h : Keeps s₀ s) : Keeps s₀ (runPolarDecode s e).1 := by
  unfold Machine.runPolarDecode
  extract_lets
  split
  · exact h
  · split
    · rename_i u _ _ e1
      exact h.readInput.of_fst_eq e1
    · rename_i u _ e1
      extract_lets
      split <;> exact h.readInput.of_fst_eq e1

/-! ### The functions of `Machine/Fft` -/

theorem Keeps.runFft {e : Entry} {inverse : Bool} (h : Keeps s₀ s) : Keeps s₀ (runFft s e inverse).1 := by
  unfold Machine.runFft
  split
  · exact h
  · split
    · rename_i u _ _ e1
      exact h.readInput.of_fst_eq e1
    · rename_i u _ e1
      exact h.readInput.of_fst_eq e1

/-! ### The functions of `Machine/Power` -/

theorem Keeps.loseCluster {k : ℕ} (h : Keeps s₀ s) : Keeps s₀ (loseCluster s k) := by
  unfold Machine.loseCluster
  extract_lets _ t1 _ _
  have ht1 : Keeps s₀ t1 := h.zeroRange.foldl fun _ _ ht3 => ht3.ite ht3.zeroRange
  exact ht1.frame.resetIsland

theorem Keeps.wokenCluster {k : ℕ} (h : Keeps s₀ s) : Keeps s₀ (wokenCluster s k) := h.setCluster.setRail
theorem Keeps.poisonBank {n : ℕ} (h : Keeps s₀ s) : Keeps s₀ (poisonBank s n) := h.frame.bump.bump.strike

theorem Keeps.failBanks {ks : ℕ → Bool} {bad : List ℕ} (h : Keeps s₀ s) : Keeps s₀ (failBanks s ks bad) :=
  h.foldl fun _ _ ht => ht.poisonBank.ite ht

theorem Keeps.trackIdle (h : Keeps s₀ s) : Keeps s₀ (trackIdle s) := h.foldl fun _ _ ht => ht.ite ht.setCluster

@[simp] theorem Keeps.execGateIdleExpiry {k : ℕ} (h : Keeps s₀ s) : KeepsRes s₀ (execGateIdleExpiry k s) :=
  (KeepsRes.whenSt h h.loseCluster.setCluster.setRail).onUnit

theorem Keeps.trackEngines (h : Keeps s₀ s) : Keeps s₀ (trackEngines s) := h.frame

@[simp] theorem Keeps.execEngineIslandGate {island : ℕ} (h : Keeps s₀ s) :
    KeepsRes s₀ (execEngineIslandGate island s) :=
  (KeepsRes.whenSt h h.frame).onUnit

theorem Keeps.switchWaiting {k : ℕ} (h : Keeps s₀ s) : Keeps s₀ (switchWaiting s k) := by
  unfold Machine.switchWaiting
  refine h.foldl fun t x ht => ?_
  split
  · exact (ht.setCellSt.switchCell.ite ht.setCellSt).ite ht
  · exact ht

theorem Keeps.wakeCluster {k : ℕ} {bad : List ℕ} (h : Keeps s₀ s) : Keeps s₀ (wakeCluster s k bad) :=
  h.failBanks.wokenCluster.switchWaiting

@[simp] theorem Keeps.execGatedIslandWake {island : ℕ} {badBanks : List ℕ} (h : Keeps s₀ s) :
    KeepsRes s₀ (execGatedIslandWake island badBanks s) :=
  (((KeepsRes.done h.wakeCluster.settleAll).ite (KeepsRes.done h)).ite (KeepsRes.whenSt h h.frame)).onUnit

theorem Keeps.startDusk {target : ℕ} (h : Keeps s₀ s) : Keeps s₀ (startDusk s target) := h.frame.mirrorPut.ite h.frame

theorem Keeps.wakeAll (h : Keeps s₀ s) : Keeps s₀ (wakeAll s) := by
  unfold Machine.wakeAll
  extract_lets t _
  have ht : Keeps s₀ t := h.foldl fun _ _ ht1 => ht1.wakeCluster.ite ht1
  exact ht.frame

theorem Keeps.applyPowerTarget {w : WReq} (h : Keeps s₀ s) : Keeps s₀ (applyPowerTarget s w).2 := by
  unfold Machine.applyPowerTarget
  split
  · exact h.fails
  · split
    · exact h.fails
    · extract_lets t _ t1
      have ht : Keeps s₀ t := h.storeVal
      have ht1 : Keeps s₀ t1 := ht.frame
      split
      · exact ht
      · split
        · exact ht.startDusk.snd
        · split
          · exact ht.wake.snd
          · exact (ht1.wakeAll.ite ht1).snd

theorem Keeps.applyDeepCmd {w : WReq} (h : Keeps s₀ s) : Keeps s₀ (applyDeepCmd s w).2 := by
  unfold Machine.applyDeepCmd
  split
  · exact h.fails
  · split
    · exact h.fails
    · exact h.storeVal.startDusk.snd

theorem Keeps.blockStops (h : Keeps s₀ s) : Keeps s₀ (blockStops s) := h.frame.updateHeadroom.ite h

@[simp] theorem Keeps.execDuskVote {flashFails : Bool} (h : Keeps s₀ s) :
    KeepsRes s₀ (execDuskVote flashFails s) := by
  unfold Machine.execDuskVote
  split
  · exact KeepsRes.done h
  · split
    · exact KeepsRes.done h.setOval.wake
    · split
      · exact KeepsRes.done h.refuseDusk
      · extract_lets t _
        have ht : Keeps s₀ t := h.blockStops
        split <;> exact KeepsRes.done ht.frame

@[simp] theorem Keeps.execDuskVoteTimeout (h : Keeps s₀ s) : KeepsRes s₀ (execDuskVoteTimeout s) :=
  KeepsRes.whenSt h h.refuseDusk

theorem Keeps.enterP2 (h : Keeps s₀ s) : Keeps s₀ (enterP2 s) := by
  unfold Machine.enterP2
  extract_lets t _ _
  have ht : Keeps s₀ t := h.foldl fun _ _ hs1 => hs1.loseCluster
  exact ht.frame

@[simp] theorem Keeps.execDuskEntryComplete (h : Keeps s₀ s) : KeepsRes s₀ (execDuskEntryComplete s) := by
  unfold Machine.execDuskEntryComplete
  split
  · exact KeepsRes.done h
  · extract_lets _ _ t t1
    have ht : Keeps s₀ t := (h.resetIslands.ite h.enterP2).bump
    have ht1 : Keeps s₀ t1 := ht.frame
    refine KeepsRes.done ?_
    split
    · exact ht1.startDawn
    · exact ht1

theorem Keeps.dawnStep {n : ℕ} (h : Keeps s₀ s) : KeepsRes s₀ (dawnStep s n) := KeepsRes.whenSt h h.frame
@[simp] theorem Keeps.execAonRegRdy (h : Keeps s₀ s) : KeepsRes s₀ (execAonRegRdy s) := h.dawnStep
@[simp] theorem Keeps.execPswRdy (h : Keeps s₀ s) : KeepsRes s₀ (execPswRdy s) := h.dawnStep
@[simp] theorem Keeps.execPllLock (h : Keeps s₀ s) : KeepsRes s₀ (execPllLock s) := h.dawnStep

theorem Keeps.dawnP2 {bad : List ℕ} (h : Keeps s₀ s) : Keeps s₀ (dawnP2 s bad) := by
  unfold Machine.dawnP2
  extract_lets _ t1 t2 _ _ _ _
  have ht1 : Keeps s₀ t1 := h.failBanks.foldl fun _ _ hs1 => hs1.wokenCluster
  have ht2 : Keeps s₀ t2 := ht1.ite ht1.setOval
  exact (ht2.frame.bump.foldl fun _ _ ht6 => ht6.ite ht6.expandJob).settleJobs.evalMigration.reOvercast

theorem Keeps.retention {bad : List ℕ} (h : Keeps s₀ s) : Keeps s₀ (retention s bad) := by
  unfold Machine.retention
  extract_lets _ _ t1 _ _ _ t3 _ u
  have ht1 : Keeps s₀ t1 := h.bump.foldl fun _ _ ht5 => ht5.writeAon
  have ht3 : Keeps s₀ t3 := (ht1.loseJournal.ite ht1.frame).foldl fun _ _ ht5 => ht5.frame.ite ht5
  have hu : Keeps s₀ u := ht3.keysFromFlash.clearCounts.reloadObjects.clearFillMap
  exact hu.frame.ite ht3

theorem Keeps.dawnP3 {bad : List ℕ} (h : Keeps s₀ s) : Keeps s₀ (dawnP3 s bad) := by
  unfold Machine.dawnP3
  extract_lets _ _ t1 _ _ t2
  have ht1 : Keeps s₀ t1 := (h.ite h.bump).retention.beginRestart
  have ht2 : Keeps s₀ t2 := ht1.frame.ite ht1
  exact ht2.bootUp.ite ht2

@[simp] theorem Keeps.execMemRdy {badBanks : List ℕ} (h : Keeps s₀ s) : KeepsRes s₀ (execMemRdy badBanks s) :=
  (KeepsRes.done h).ite (KeepsRes.done (h.dawnP3.ite h.dawnP2))

@[simp] theorem Keeps.execWakeEdge (h : Keeps s₀ s) : KeepsRes s₀ (execWakeEdge s) := KeepsRes.whenSt h h.wake

@[simp] theorem Keeps.execWakeAlarm (h : Keeps s₀ s) : KeepsRes s₀ (execWakeAlarm s) :=
  KeepsRes.whenSt h h.setOval.wake

@[simp] theorem Keeps.execAonBrownout (h : Keeps s₀ s) : KeepsRes s₀ (execAonBrownout s) :=
  KeepsRes.whenSt h h.frame.bump.wake

/-! ### The functions of `Machine/Engines` -/

theorem Keeps.startEntry {kind n : ℕ} {e : Entry} {cost counter : ℕ} {out : EngOut} (hout : Keeps s₀ out.1) :
    Keeps s₀ (startEntry s kind n e cost counter out) :=
  hout.frame.startedRun.setEngine.bump.bump.ite hout.frame.startedRun.setEngine.bump

@[simp] theorem Keeps.execLdpcDecode {n : ℕ} (h : Keeps s₀ s) : KeepsRes s₀ (execLdpcDecode n s) := by
  unfold Machine.execLdpcDecode
  refine KeepsRes.onUnit ?_
  split
  · exact KeepsRes.done h.runDecode.startEntry
  · exact KeepsRes.done h

@[simp] theorem Keeps.execLdpcEncode {n : ℕ} (h : Keeps s₀ s) : KeepsRes s₀ (execLdpcEncode n s) := by
  unfold Machine.execLdpcEncode
  refine KeepsRes.onUnit ?_
  split
  · exact KeepsRes.done h.runEncode.startEntry
  · exact KeepsRes.done h

@[simp] theorem Keeps.execPolarDecode {n : ℕ} (h : Keeps s₀ s) : KeepsRes s₀ (execPolarDecode n s) := by
  unfold Machine.execPolarDecode
  refine KeepsRes.onUnit ?_
  split
  · exact KeepsRes.done h.runPolarDecode.startEntry
  · exact KeepsRes.done h

@[simp] theorem Keeps.execPolarEncode {n : ℕ} (h : Keeps s₀ s) : KeepsRes s₀ (execPolarEncode n s) := by
  unfold Machine.execPolarEncode
  refine KeepsRes.onUnit ?_
  split
  · exact KeepsRes.done h.runPolarEncode.startEntry
  · exact KeepsRes.done h

@[simp] theorem Keeps.execFft {n : ℕ} (h : Keeps s₀ s) : KeepsRes s₀ (execFft n s) := by
  unfold Machine.execFft
  refine KeepsRes.onUnit ?_
  split
  · exact KeepsRes.done h.runFft.startEntry
  · exact KeepsRes.done h

@[simp] theorem Keeps.execIfft {n : ℕ} (h : Keeps s₀ s) : KeepsRes s₀ (execIfft n s) := by
  unfold Machine.execIfft
  refine KeepsRes.onUnit ?_
  split
  · exact KeepsRes.done h.runFft.startEntry
  · exact KeepsRes.done h

theorem Keeps.withdrawSlice {kind n code : ℕ} (h : Keeps s₀ s) : Keeps s₀ (withdrawSlice s kind n code) :=
  h.setEngine.ite h

theorem Keeps.countError {code : ℕ} (h : Keeps s₀ s) : Keeps s₀ (countError s code) := h.bump.bump.ite h.bump

theorem Keeps.engineEnds {merge : Bool} {kind n : ℕ} {e : Entry} {code off addr : ℕ} (h : Keeps s₀ s) :
    Keeps s₀ (engineEnds merge s kind n e code off addr) := by
  unfold Machine.engineEnds
  extract_lets s1 again _
  have hs1 : Keeps s₀ s1 := h.countError
  have hagain : Keeps s₀ again.1 := by
    unfold again
    split
    · exact hs1.reread
    · exact hs1
  exact hagain.runFault.freeEngine.withdrawSlice

theorem Keeps.lateError {kind n code num addr : ℕ} {signed : Bool} (h : Keeps s₀ s) :
    Keeps s₀ (lateError s kind n code num addr signed) :=
  h.lateFault.countError.withdrawSlice.ite h

theorem Keeps.engineFault {kind n : ℕ} {e : Entry} {code off addr : ℕ} (h : Keeps s₀ s) :
    Keeps s₀ (engineFault s kind n e code off addr) :=
  h.engineEnds

theorem Keeps.countEntry {e : Entry} {out : List Byte} {words : ℕ} (h : Keeps s₀ s) :
    Keeps s₀ (countEntry s e out words) := by
  unfold Machine.countEntry
  split
  · exact h.bump.bump.bump
  · exact h.ite h.bump
  · exact h.bump
  · exact h.bump
  · exact h

theorem Keeps.writeOutputs {e : Entry} {out harq : List Byte} (h : Keeps s₀ s) :
    Keeps s₀ (writeOutputs s e out harq).1 := by
  unfold Machine.writeOutputs
  split
  · rename_i t _ e1
    exact h.devWrite.of_fst_eq e1
  · rename_i t e1
    have ht : Keeps s₀ t := h.devWrite.of_fst_eq e1
    split
    · exact ht
    · exact ht.devWrite

theorem Keeps.endEntry {kind n : ℕ} {e : Entry} {r : EngResult} {count : State → State}
    (h : Keeps s₀ s) (hcount : ∀ (a : State), Keeps s₀ a → Keeps s₀ (count a)) :
    Keeps s₀ (endEntry s kind n e r count) := by
  unfold Machine.endEntry
  split
  · exact h.engineFault
  · split
    · rename_i s1 _ _ e1
      have hs1 : Keeps s₀ s1 := h.writeOutputs.of_fst_eq e1
      split
      · exact hs1.engineEnds
      · exact hs1
    · rename_i s1 e1
      exact (hcount _ (h.writeOutputs.of_fst_eq e1).countEntry).runDone.freeEngine

/-! ### The functions of `Machine/Modem` -/

theorem Keeps.runNbReceive {e : Entry} (h : Keeps s₀ s) : Keeps s₀ (runNbReceive s e).1 := by
  unfold Machine.runNbReceive
  extract_lets
  split
  · exact h
  · split
    · rename_i u _ _ e1
      exact h.readInput.of_fst_eq e1
    · rename_i u _ e1
      exact h.readInput.of_fst_eq e1

theorem Keeps.runNbTransmit {e : Entry} (h : Keeps s₀ s) : Keeps s₀ (runNbTransmit s e).1 := by
  unfold Machine.runNbTransmit
  extract_lets
  split
  · exact h
  · split
    · rename_i u _ _ e1
      exact h.readInput.of_fst_eq e1
    · rename_i u _ e1
      split
      exact h.readInput.of_fst_eq e1

@[simp] theorem Keeps.execNbReceive {n : ℕ} (h : Keeps s₀ s) : KeepsRes s₀ (execNbReceive n s) := by
  unfold Machine.execNbReceive
  refine KeepsRes.onUnit ?_
  split
  · exact KeepsRes.done (h.ite h.runNbReceive.startEntry)
  · exact KeepsRes.done h

@[simp] theorem Keeps.execNbTransmit {n : ℕ} (h : Keeps s₀ s) : KeepsRes s₀ (execNbTransmit n s) := by
  unfold Machine.execNbTransmit
  refine KeepsRes.onUnit ?_
  split
  · exact KeepsRes.done (h.runNbTransmit.startEntry.ite h)
  · exact KeepsRes.done h

theorem Keeps.countNb {e : Entry} {input out : List Byte} (h : Keeps s₀ s) : Keeps s₀ (countNb s e input out) := by
  unfold Machine.countNb
  extract_lets
  split
  · exact h.bump.ite h
  · split
    exact h.bump.bump.bump.bump.bump.bump.bump

@[simp] theorem Keeps.execEngineEntryEnd {kind n : ℕ} {fail : Option ℕ} (h : Keeps s₀ s) :
    KeepsRes s₀ (execEngineEntryEnd kind n fail s) := by
  unfold Machine.execEngineEntryEnd
  refine KeepsRes.onUnit ?_
  split
  · split
    · exact KeepsRes.whenSt h h.engineFault.settleAll
    · extract_lets
      refine KeepsRes.done (h.endEntry fun t ht => ?_).settleAll
      split
      · exact ht.countNb.ite ht
      · exact ht
  · refine KeepsRes.done ?_
    split
    · exact h.lateError.ite h
    · split
      · exact h.lateError
      · exact h
    · exact h

@[simp] theorem Keeps.execEngineWatchdog {kind n : ℕ} (h : Keeps s₀ s) :
    KeepsRes s₀ (execEngineWatchdog kind n s) := by
  unfold Machine.execEngineWatchdog
  refine KeepsRes.onUnit ?_
  split
  · exact KeepsRes.done h.lateError
  · exact KeepsRes.whenSt h h.engineFault.settleAll

@[simp] theorem Keeps.execNbSliceBistDone {n : ℕ} {passed : Bool} (h : Keeps s₀ s) :
    KeepsRes s₀ (execNbSliceBistDone n passed s) := by
  unfold Machine.execNbSliceBistDone
  refine KeepsRes.onUnit ?_
  extract_lets
  split
  · exact KeepsRes.done h
  · exact KeepsRes.whenSt h (h.setEngine.ite h.setEngine.strike).settleAll

theorem Keeps.storeRecs {w : WReq} {n mask : ℕ} (h : Keeps s₀ s) : Keeps s₀ (storeRecs s w n mask) :=
  h.foldl fun _ _ ht => ht.setDom

theorem Keeps.applyNbConfig {w : WReq} (h : Keeps s₀ s) : Keeps s₀ (applyNbConfig s w).2 := by
  unfold Machine.applyNbConfig
  extract_lets
  split
  · split
    · exact h.fails
    · exact h.ifFlash h.storeRecs
  · split
    · exact h.fails
    · split
      · exact h.ifFlash h.storeRecs
      · exact h.ifFlash h.storeDom

/-! ### The functions of `Machine/Lanes` -/

theorem Keeps.bumpLink {g i n : ℕ} (h : Keeps s₀ s) : Keeps s₀ (bumpLink s g i n) := h.setLink.ite h
theorem Keeps.startLane {n : ℕ} (h : Keeps s₀ s) : Keeps s₀ (startLane s n) := h.setLane

theorem Keeps.startLanesOf {g : ℕ} (h : Keeps s₀ s) : Keeps s₀ (startLanesOf s g) :=
  h.foldl fun _ _ hs1 => hs1.startLane

theorem Keeps.startGroup {g : ℕ} (h : Keeps s₀ s) : Keeps s₀ (startGroup s g) := by
  unfold Machine.startGroup
  split
  rename_i t e
  have ht : Keeps s₀ t := h.drawNat.of_snd_eq e
  exact ht.startLanesOf.ite ht

theorem Keeps.stopGroup {g : ℕ} (h : Keeps s₀ s) : Keeps s₀ (stopGroup s g) :=
  (h.foldl fun _ _ ht => ht.setLane).setLink

theorem Keeps.referenceUp {g : ℕ} (h : Keeps s₀ s) : Keeps s₀ (referenceUp s g) :=
  h.ite (h.startLanesOf.setLink.ite h.startLanesOf)

theorem Keeps.applyGroupEnable {w : WReq} (h : Keeps s₀ s) : Keeps s₀ (applyGroupEnable s w).2 := by
  unfold Machine.applyGroupEnable
  extract_lets
  split
  · exact h.fails
  · split
    · exact h.fails
    · exact h.ifFlash (h.storeVal.foldl fun _ _ ht1 => ht1.startGroup.ite (ht1.stopGroup.ite ht1))

@[simp] theorem Keeps.execLaneBlockReceived {lane : ℕ} {header upper lower : List Bool} (h : Keeps s₀ s) :
    KeepsRes s₀ (execLaneBlockReceived lane header upper lower s) := by
  unfold Machine.execLaneBlockReceived
  refine KeepsRes.onUnit ?_
  extract_lets
  split
  · exact KeepsRes.done h.referenceUp
  · split
    exact KeepsRes.done (h.ite h.setLane)
  · exact KeepsRes.done h.setLane

@[simp] theorem Keeps.execLaneLock {lane : ℕ} (h : Keeps s₀ s) : KeepsRes s₀ (execLaneLock lane s) :=
  (KeepsRes.whenSt h h.setLane).onUnit

@[simp] theorem Keeps.execLaneLockLoss {lane : ℕ} {noSignal : Bool} (h : Keeps s₀ s) :
    KeepsRes s₀ (execLaneLockLoss lane noSignal s) := by
  unfold Machine.execLaneLockLoss
  refine KeepsRes.onUnit ?_
  extract_lets _ _ _ _ t
  have ht : Keeps s₀ t := h.setLane
  split
  · exact (KeepsRes.done h).ite (KeepsRes.done (ht.strike.abandonDrain.ite ht))
  · exact (KeepsRes.done h).ite (KeepsRes.done (ht.strike.abandonDrain.ite ht))
  · exact KeepsRes.done h.setLane
  · exact KeepsRes.done h.setLane
  · exact KeepsRes.done h

theorem Keeps.placeLane {cnt n skew : ℕ} (h : Keeps s₀ s) : Keeps s₀ (placeLane s cnt n skew) := by
  unfold Machine.placeLane
  extract_lets
  split
  · exact h.setLane.ite h
  · exact (h.setLane.strike.ite (h.setLane.ite (h.setLane.ite h.setLane))).ite (h.setLane.abandonDrain.ite h.setLane)

@[simp] theorem Keeps.execFillerRow {group : ℕ} {skews : List ℕ} (h : Keeps s₀ s) :
    KeepsRes s₀ (execFillerRow group skews s) :=
  (KeepsRes.whenSt h (h.foldl fun _ _ ht => ht.placeLane)).onUnit

theorem Keeps.settleDrains {g : ℕ} (h : Keeps s₀ s) : Keeps s₀ (settleDrains s g) :=
  h.foldl fun _ _ ht => ht.abandonDrain.ite ht

@[simp] theorem Keeps.execRowRelease {group : ℕ} (h : Keeps s₀ s) : KeepsRes s₀ (execRowRelease group s) := by
  unfold Machine.execRowRelease
  refine KeepsRes.onUnit ?_
  extract_lets _ _ _ _ _ t _
  have ht : Keeps s₀ t := h.foldl fun _ _ ht1 => ht1.setLane
  exact (KeepsRes.done h).ite (KeepsRes.done (ht.ite ht.setLink).settleDrains)

theorem Keeps.slipLane {n : ℕ} (h : Keeps s₀ s) : KeepsOpt s₀ (slipLane s n) := by
  unfold Machine.slipLane
  extract_lets
  split
  · exact KeepsOpt.none
  · exact KeepsOpt.some h.setLane

theorem Keeps.drainLane {n : ℕ} (h : Keeps s₀ s) : KeepsOpt s₀ (drainLane s n) := by
  unfold Machine.drainLane
  extract_lets
  split
  · exact KeepsOpt.none
  · exact KeepsOpt.some h.setLane

theorem Keeps.restoreLane {n : ℕ} (h : Keeps s₀ s) : KeepsOpt s₀ (restoreLane s n) := by
  unfold Machine.restoreLane
  extract_lets
  split
  · exact KeepsOpt.none
  · exact KeepsOpt.some h.setLane

theorem Keeps.applyLaneCmd {w : WReq} (h : Keeps s₀ s) : Keeps s₀ (applyLaneCmd s w).2 := by
  unfold Machine.applyLaneCmd
  extract_lets
  split
  · exact h.fails
  · split
    · rename_i t e
      have ht : Keeps s₀ t := by
        refine KeepsOpt.of_eq ?_ e
        split
        · exact h.slipLane
        · split
          · exact h.drainLane
          · exact h.restoreLane
      exact ht.storeVal.snd
    · exact h.fails

theorem Keeps.followTest {n : ℕ} (h : Keeps s₀ s) : Keeps s₀ (followTest s n) :=
  h.ite (h.setLane.ite (h.setLane.ite h))

theorem Keeps.applyLaneConfig {w : WReq} (h : Keeps s₀ s) : Keeps s₀ (applyLaneConfig s w).2 := by
  unfold Machine.applyLaneConfig
  extract_lets
  split
  · exact h.fails
  · split
    · exact h.fails
    · exact h.ifFlash (h.storeRecs.foldl fun _ _ hs1 => hs1.followTest)

theorem Keeps.applyDeskewMax {w : WReq} (h : Keeps s₀ s) : Keeps s₀ (applyDeskewMax s w).2 := by
  unfold Machine.applyDeskewMax
  split
  · exact h.fails
  · exact h.ifFlash h.storeVal

@[simp] theorem Keeps.execLaneRowTransmit {group : ℕ} (h : Keeps s₀ s) :
    KeepsRes s₀ (execLaneRowTransmit group s) := by
  unfold Machine.execLaneRowTransmit
  refine KeepsRes.onUnit ?_
  split
  · exact KeepsRes.done h
  · extract_lets
    split
    extract_lets _ _ _ _ t1 _ _
    have ht1 : Keeps s₀ t1 := (h.foldl fun _ _ ht3 => ht3.setLane).setLink
    exact KeepsRes.done (ht1.emit.ite ht1).emit

/-! ### The functions of `Machine/Radio` -/

theorem Keeps.trackDefects {g : ℕ} (h : Keeps s₀ s) : Keeps s₀ (trackDefects s g) := h.ite h.setLink

theorem Keeps.trackAllDefects (h : Keeps s₀ s) : Keeps s₀ (trackAllDefects s) :=
  h.foldl fun _ _ hs1 => hs1.trackDefects

theorem Keeps.setDefect {g d : ℕ} {set : Bool} (h : Keeps s₀ s) : Keeps s₀ (setDefect s g d set) :=
  h.setLink.trackDefects.raiseEvent

@[simp] theorem Keeps.execDefectSet {link defect : ℕ} (h : Keeps s₀ s) : KeepsRes s₀ (execDefectSet link defect s) :=
  (KeepsRes.whenSt h h.setDefect).onUnit.onUnit

@[simp] theorem Keeps.execDefectClear {link defect : ℕ} (h : Keeps s₀ s) :
    KeepsRes s₀ (execDefectClear link defect s) :=
  (KeepsRes.whenSt h h.setDefect).onUnit.onUnit

theorem Keeps.mcSend {g : ℕ} {r : McReq} (h : Keeps s₀ s) : Keeps s₀ (mcSend s g r) := h.setLink.emit
theorem Keeps.mcRequest {g index sub : ℕ} (h : Keeps s₀ s) : Keeps s₀ (mcRequest s g index sub) := h.setLink.mcSend
theorem Keeps.setRu {g : ℕ} {x : RuState} (h : Keeps s₀ s) : Keeps s₀ (s.setRu g x) := h.frame

theorem Keeps.ruNext {g step : ℕ} (h : Keeps s₀ s) : Keeps s₀ (ruNext s g step) := by
  unfold Machine.ruNext
  split
  · exact h.setRu.mcRequest
  · exact h.setRu

theorem Keeps.ruAnswer {g status : ℕ} {v : List Byte} (h : Keeps s₀ s) : Keeps s₀ (ruAnswer s g status v) := by
  unfold Machine.ruAnswer
  extract_lets
  split
  · exact h
  · exact (h.setRu.raiseEvent.ite h.setRu).ruNext

@[simp] theorem Keeps.execRuPoll {link : ℕ} (h : Keeps s₀ s) : KeepsRes s₀ (execRuPoll link s) :=
  (KeepsRes.whenSt h h.setRu.ruNext).onUnit

theorem Keeps.mcReceive {g : ℕ} {b : List Byte} (h : Keeps s₀ s) : Keeps s₀ (mcReceive s g b) := by
  unfold Machine.mcReceive
  extract_lets bad _
  have hbad : Keeps s₀ bad := h.bumpLink
  split
  · exact hbad
  · split
    · exact h.ite hbad
    · split
      · exact h.setLink.ruAnswer.ite hbad
      · exact hbad

@[simp] theorem Keeps.execMcMessageReceived {link : ℕ} {bytes : List Byte} (h : Keeps s₀ s) :
    KeepsRes s₀ (execMcMessageReceived link bytes s) :=
  (KeepsRes.whenSt h h.mcReceive).onUnit

@[simp] theorem Keeps.execMcTimeout {link : ℕ} (h : Keeps s₀ s) : KeepsRes s₀ (execMcTimeout link s) := by
  unfold Machine.execMcTimeout
  refine KeepsRes.onUnit ?_
  extract_lets
  split
  · exact KeepsRes.done h
  · exact KeepsRes.whenSt h (h.mcSend.ite h.setLink.setRu)

/-! ### The functions of `Machine/Settings` -/

theorem Keeps.setQueueCfg {q v : ℕ} (h : Keeps s₀ s) : Keeps s₀ (setQueueCfg s q v) := h.frame

theorem Keeps.applyQueueConfig {w : WReq} (h : Keeps s₀ s) : Keeps s₀ (applyQueueConfig s w).2 := by
  unfold Machine.applyQueueConfig
  extract_lets
  split
  · exact h.fails
  · split
    · exact h.fails
    · exact h.ifFlash (h.foldl fun _ _ ht => ht.setQueueCfg)

theorem Keeps.resetQueueState {q : ℕ} (h : Keeps s₀ s) : Keeps s₀ (resetQueueState s q) := h.frame.sendCredit

theorem Keeps.applyQueueReset {w : WReq} (h : Keeps s₀ s) : Keeps s₀ (applyQueueReset s w).2 := by
  unfold Machine.applyQueueReset
  split
  · exact h.fails
  · split
    · exact h.fails
    · exact h.storeVal.resetQueueState.snd

theorem Keeps.freshPool {p : ℕ} (h : Keeps s₀ s) : Keeps s₀ (freshPool s p) :=
  h.frame.ite (h.frame.ite h.frame.zeroRange)

theorem Keeps.applyPoolConfig {w : WReq} (h : Keeps s₀ s) : Keeps s₀ (applyPoolConfig s w).2 := by
  unfold Machine.applyPoolConfig
  extract_lets _ _ t
  have ht : Keeps s₀ t := h.storeVal
  split
  · exact h.fails
  · split
    · exact h.fails
    · split
      · exact h.fails
      · split
        · exact h.fails
        · exact ht.freshPool.snd

theorem Keeps.applyResultStore {w : WReq} (h : Keeps s₀ s) : Keeps s₀ (applyResultStore s w).2 := by
  unfold Machine.applyResultStore
  extract_lets
  split
  · exact h.fails
  · split
    · exact h.fails
    · split
      · exact h.fails
      · exact h.storeVal.freshPool

theorem Keeps.putCell {c : ℕ} {x : CellCfg} (h : Keeps s₀ s) : Keeps s₀ (putCell s c x) :=
  h.frame.setCellSt.ite (h.frame.setCellSt.ite (h.frame.setCellSt.startMigration.ite h.frame.setCellSt))

theorem Keeps.applyCellConfig {w : WReq} (h : Keeps s₀ s) : Keeps s₀ (applyCellConfig s w).2 := by
  unfold Machine.applyCellConfig
  extract_lets
  split
  · exact h.fails
  · split
    · exact h.fails
    · exact h.ifFlash ((h.foldl fun _ _ ht1 => ht1.putCell).foldl fun _ _ ht1 => ht1.mirrorPut)

theorem Keeps.applyMigrateCmd {w : WReq} (h : Keeps s₀ s) : Keeps s₀ (applyMigrateCmd s w).2 := by
  unfold Machine.applyMigrateCmd
  extract_lets
  split
  · exact h.fails
  · split
    · exact h.fails
    · exact h.startMigration.storeVal.snd

theorem Keeps.applyAdmitProbe {w : WReq} (h : Keeps s₀ s) : Keeps s₀ (applyAdmitProbe s w).2 := by
  unfold Machine.applyAdmitProbe
  extract_lets _ _ _ u _ _
  have hu : Keeps s₀ u := h.storeDom
  split
  · exact h.fails
  · split
    · exact hu.setOval.snd
    · exact hu.setOval.setOval.snd

theorem Keeps.applyKernelTable {w : WReq} (h : Keeps s₀ s) : Keeps s₀ (applyKernelTable s w).2 :=
  (h.foldl fun _ _ ht => ht.frame.ite ht).snd

theorem Keeps.applyPolicy {w : WReq} (h : Keeps s₀ s) : Keeps s₀ (applyPolicy s w).2 := by
  unfold Machine.applyPolicy
  extract_lets
  split
  · exact h.ifFlash h.storeVal
  · exact h.fails

theorem Keeps.applyPolicyBound {w : WReq} (h : Keeps s₀ s) : Keeps s₀ (applyPolicyBound s w).2 := by
  unfold Machine.applyPolicyBound
  extract_lets
  split
  · exact h.fails
  · split
    · exact h.fails
    · exact h.ifFlash h.storeVal

theorem Keeps.applyEtype {w : WReq} (h : Keeps s₀ s) : Keeps s₀ (applyEtype s w).2 := by
  unfold Machine.applyEtype
  extract_lets
  split
  · exact h.fails
  · exact h.ifFlash h.storeVal

theorem Keeps.applyUdp {w : WReq} (h : Keeps s₀ s) : Keeps s₀ (applyUdp s w).2 := by
  unfold Machine.applyUdp
  split
  · exact h.fails
  · exact h.ifFlash h.storeVal

theorem Keeps.applyTransportPcp {w : WReq} (h : Keeps s₀ s) : Keeps s₀ (applyTransportPcp s w).2 := by
  unfold Machine.applyTransportPcp
  extract_lets moved
  have hmoved : ∀ (t : State), Keeps s₀ t → ∀ (p : ℕ), Keeps s₀ (moved t p) :=
    fun _ ht _ => (ht.emit.emit.ite ht).resumePort
  exact h.ifFlash (h.ite (hmoved _ (hmoved _ h.storeVal _) _))

theorem Keeps.applyPortMac {w : WReq} (h : Keeps s₀ s) : Keeps s₀ (applyPortMac s w).2 := by
  unfold Machine.applyPortMac
  split
  · exact h.fails
  · exact h.ifFlash h.storeVal.mirrorPut

theorem Keeps.applyPortIp {w : WReq} (h : Keeps s₀ s) : Keeps s₀ (applyPortIp s w).2 :=
  h.ifFlash (h.storeDom.ite h.storeVal).mirrorPut

theorem Keeps.applyMirrorMode {w : WReq} (h : Keeps s₀ s) : Keeps s₀ (applyMirrorMode s w).2 :=
  h.ifFlash (h.storeVal.acceptUnmirrored.ite h.storeVal).mirrorPut

theorem Keeps.applyEngineSpares {w : WReq} (h : Keeps s₀ s) : Keeps s₀ (applyEngineSpares s w).2 := by
  unfold Machine.applyEngineSpares
  split
  · exact h.ifFlash h.storeVal
  · exact h.fails

/-! ### The functions of `Machine/Framing` -/

theorem Keeps.noteHeader {g released k : ℕ} (h : Keeps s₀ s) : Keeps s₀ (noteHeader s g released k) :=
  h.setLink.bumpLink

theorem Keeps.bf0Frame {g released : ℕ} {l : List (Option Byte)} (h : Keeps s₀ s) :
    Keeps s₀ (bf0Frame s g released l) := by
  unfold Machine.bf0Frame
  extract_lets _ _ s1 _ t _
  have hs1 : Keeps s₀ s1 := h.noteHeader.ite h
  have ht : Keeps s₀ t := hs1.bumpLink
  exact (hs1.setLink.ite (hs1.setLink.ite hs1.setLink)).ite (hs1.setLink.ite (ht.setLink.ite ht.setLink))

theorem Keeps.framerStep {g released : ℕ} {bfn : Option ℕ} {l : List (Option Byte)} (h : Keeps s₀ s) :
    Keeps s₀ (framerStep s g released bfn l) := by
  unfold Machine.framerStep
  extract_lets _ t _ _ _ u1
  have ht : Keeps s₀ t := h.bumpLink
  have hu1 : Keeps s₀ u1 := ht.setLink
  exact ht.bumpLink.setLink.ite (hu1.bf0Frame.ite ((hu1.setLink.ite hu1.setLink).ite hu1))

theorem Keeps.mcSlot {g : ℕ} {b : List Byte} (h : Keeps s₀ s) : Keeps s₀ (mcSlot s g b) := by
  unfold Machine.mcSlot
  extract_lets _ _ _ s1 _ held
  have hs1 : Keeps s₀ s1 := h.bumpLink.ite h
  split
  · exact h
  · clear_value held
    split
    · exact hs1
    · exact hs1.setLink.mcReceive.ite hs1.setLink

theorem Keeps.landSample {id n v came : ℕ} (h : Keeps s₀ s) : Keeps s₀ (landSample s id n v came) := by
  unfold Machine.landSample
  extract_lets
  split
  · exact h
  · split
    · exact h.bumpLink
    · split
      rename_i t _ e
      extract_lets t1
      have ht1 : Keeps s₀ t1 := (h.getFhv.of_fst_eq e).takeFhBuf
      split
      · exact ht1
      · split
        · exact ht1
        · exact ht1.ite ht1.landBytes.setFhv

theorem Keeps.landSamples {id k i : ℕ} {b : List (Option Bool × ℕ)} (h : Keeps s₀ s) :
    Keeps s₀ (landSamples s id k i b).1 := by
  induction k generalizing s i b with
  | zero => exact h
  | succ k ih =>
    rw [Machine.landSamples]
    split
    · exact h
    · exact ih (h.landSample.ite h)

theorem Keeps.takeContainer {g : ℕ} {times : List ℕ} {l : List (Option Byte)} {i : ℕ} (h : Keeps s₀ s) :
    Keeps s₀ (takeContainer s g times l i) := by
  unfold Machine.takeContainer
  extract_lets
  split
  · exact h
  · split
    · exact h.setLink
    · split
      extract_lets
      split
      rename_i u _ e
      have hu : Keeps s₀ u := by
        refine Keeps.of_fst_eq ?_ e
        split
        · exact h.landSamples
        · split
          rename_i u1 _ e1
          exact (h.landSamples.of_fst_eq e1).landSamples
      exact hu.setLink

theorem Keeps.takeStream {g : ℕ} {times : List ℕ} {l : List (Option Byte)} (h : Keeps s₀ s) :
    Keeps s₀ (takeStream s g times l) :=
  h.setLink

theorem Keeps.takeFrame {g own : ℕ} {times : List ℕ} {l : List (Option Byte)} (h : Keeps s₀ s) :
    Keeps s₀ (takeFrame s g own times l) :=
  (h.takeStream.mcSlot.ite h.takeStream).foldl fun _ _ ht => ht.takeContainer

@[simp] theorem Keeps.execBasicFrameReceived {link : ℕ} (h : Keeps s₀ s) :
    KeepsRes s₀ (execBasicFrameReceived link s) := by
  unfold Machine.execBasicFrameReceived
  refine KeepsRes.onUnit ?_
  extract_lets _ _ _ _ t _ _
  have ht : Keeps s₀ t := h.setLink.framerStep
  split
  · exact KeepsRes.done h
  · exact (KeepsRes.done h.setLink.trackDefects).ite (KeepsRes.done (ht.takeFrame.ite ht.setLink).trackDefects)

theorem Keeps.bumpOn {link i : ℕ} (h : Keeps s₀ s) : Keeps s₀ (bumpOn s link i) := h.bumpLink

theorem Keeps.landBlocks {n base c : ℕ} {l : List (ℕ × Option (List Byte))} (h : Keeps s₀ s) :
    Keeps s₀ (landBlocks s n base c l) := by
  induction l generalizing s with
  | nil => exact h
  | cons x l ih =>
    unfold Machine.landBlocks
    split
    · exact (ih h.landBytes.setFhv).ite (ih h)
    · exact ih h

theorem Keeps.landSection {link : ℕ} {x : RxSection} {came : ℕ} (h : Keeps s₀ s) :
    Keeps s₀ (landSection s link x came) := by
  unfold Machine.landSection
  extract_lets _ _ s1 _ _ _
  have hs1 : Keeps s₀ s1 := h.bumpOn
  split
  · exact hs1.bumpOn
  · split
    · exact hs1.bumpOn
    · split
      · exact hs1.bumpOn
      · extract_lets _ _ s2 s3
        have hs2 : Keeps s₀ s2 := hs1.ite hs1.bumpOn
        have hs3 : Keeps s₀ s3 := hs2.bumpOn.ite hs2
        split
        · exact hs3
        · extract_lets t
          have ht : Keeps s₀ t := hs3.landBlocks
          split
          · exact ht
          · exact ht.ite ht.setFhv

theorem Keeps.takeSection {link : ℕ} {l : List (Option Byte)} {came : ℕ} (h : Keeps s₀ s) :
    Keeps s₀ (takeSection s link l came) :=
  h.landSection.ite h

@[simp] theorem Keeps.execSectionReceived {link : ℕ} (h : Keeps s₀ s) : KeepsRes s₀ (execSectionReceived link s) := by
  unfold Machine.execSectionReceived
  refine KeepsRes.onUnit ?_
  extract_lets _ s1 _ t _ t1
  have hs1 : Keeps s₀ s1 := h.setLink
  have ht : Keeps s₀ t := hs1.bumpLink
  have ht1 : Keeps s₀ t1 := hs1.takeSection
  exact (KeepsRes.done hs1).ite ((KeepsRes.done ht.setLink).ite ((KeepsRes.done hs1).ite (KeepsRes.done ht1.setLink)))

/-! ### The functions of `Machine/Sending` -/

theorem Keeps.containerOut {id : ℕ} {st : ContRx} (h : Keeps s₀ s) : Keeps s₀ (containerOut s id st).1 := by
  unfold Machine.containerOut
  extract_lets
  split
  rename_i t e1
  have ht : Keeps s₀ t := by
    refine Keeps.of_snd_eq ?_ e1
    split
    · exact h.drawNat
    · exact h
  exact ht

theorem Keeps.containersOut {g n : ℕ} (h : Keeps s₀ s) : Keeps s₀ (containersOut s g n).1 := by
  unfold Machine.containersOut
  refine h.foldl_fst fun x i hx => ?_
  split
  extract_lets
  split
  · exact hx
  · split
    rename_i u _ _ _ e
    exact (hx.containerOut.of_fst_eq e).setLink.fst

@[simp] theorem Keeps.execBasicFrameTransmit {link : ℕ} (h : Keeps s₀ s) :
    KeepsRes s₀ (execBasicFrameTransmit link s) := by
  unfold Machine.execBasicFrameTransmit
  refine KeepsRes.onUnit ?_
  extract_lets
  split
  · exact KeepsRes.done h
  · split
    split
    extract_lets
    split
    extract_lets
    split
    rename_i t _ e
    exact KeepsRes.done (h.containersOut.of_fst_eq e).setLink.bumpLink.bumpLink

theorem Keeps.setVlink {v : ℕ} {x : VLink} (h : Keeps s₀ s) : Keeps s₀ (s.setVlink v x) := h.frame

theorem Keeps.ecpriSection {v : ℕ} {control : Bool} {b : List Byte} (h : Keeps s₀ s) :
    Keeps s₀ (ecpriSection s v control b) :=
  h.setVlink.emit.bump

theorem Keeps.ecpriNote {v seq : ℕ} (h : Keeps s₀ s) : Keeps s₀ (ecpriNote s v seq) := h.setVlink.bump.bump

theorem Keeps.ecpriLearn {port : ℕ} {src : Peer} {v : ℕ} (h : Keeps s₀ s) : Keeps s₀ (ecpriLearn s port src v) :=
  h.setVlink

theorem Keeps.ecpriOther {type : ℕ} (h : Keeps s₀ s) : Keeps s₀ (ecpriOther s type) := h.ite h.bump

theorem Keeps.ecpriTake {port : ℕ} {src : Peer} {form : EcpriForm} {id seqId : BitVec 16} {b : List Byte} {kind : ℕ}
    (h : Keeps s₀ s) :
    Keeps s₀ (ecpriTake s port src form id seqId b kind) :=
  h.ite (h.ecpriOther.ite (h.bump.ite (h.ecpriNote.ite h.ecpriNote.ecpriLearn.takeSection)))

@[simp] theorem Keeps.execEcpriIqData {port : ℕ} {src : Peer} {form : EcpriForm} {id seqId : BitVec 16} {bytes : List Byte}
    (h : Keeps s₀ s) :
    KeepsRes s₀ (execEcpriIqData port src form id seqId bytes s) :=
  (KeepsRes.done h.ecpriTake).onUnit

@[simp] theorem Keeps.execEcpriRtControl {port : ℕ} {src : Peer} {form : EcpriForm} {id seqId : BitVec 16} {bytes : List Byte}
    (h : Keeps s₀ s) :
    KeepsRes s₀ (execEcpriRtControl port src form id seqId bytes s) :=
  (KeepsRes.done h.ecpriTake).onUnit

@[simp] theorem Keeps.execEcpriDelayMeasurement {port : ℕ} {src : Peer} {form : EcpriForm} {action ident t2 : ℕ}
    (h : Keeps s₀ s) :
    KeepsRes s₀ (execEcpriDelayMeasurement port src form action ident t2 s) :=
  (KeepsRes.done (h.ite (h.ecpriOther.ite (h.bump.ite h.bump.sendAt.bump)))).onUnit

theorem Keeps.txHead {queue : ℕ} (h : Keeps s₀ s) : KeepsOpt s₀ ((txHead s queue).map Prod.snd) := by
  unfold Machine.txHead
  split
  · exact KeepsOpt.none
  · exact KeepsOpt.some h.frame

@[simp] theorem Keeps.execSectionTransmit {queue : ℕ} (h : Keeps s₀ s) :
    KeepsRes s₀ (execSectionTransmit queue s) := by
  unfold Machine.execSectionTransmit
  refine KeepsRes.onUnit ?_
  split
  · exact KeepsRes.done h
  · rename_i t e
    have ht : Keeps s₀ t := h.txHead.of_map_snd_eq e
    extract_lets _ u
    have hu : Keeps s₀ u := ht.emit
    split
    · exact KeepsRes.done ht.bumpOn.retireSent
    · split
      · exact KeepsRes.done ht.bump.retireSent
      · exact (KeepsRes.done h).ite (KeepsRes.done (hu.setLink.ite hu.ecpriSection).retireSent)

theorem Keeps.txSample {id : ℕ} {a : ℤ} {i : ℕ} (h : Keeps s₀ s) : Keeps s₀ (txSample s id a i).1 := by
  unfold Machine.txSample
  split
  · exact h
  · split
    · exact h
    · split
      · rename_i s1 _ e
        exact h.devRead.of_fst_eq e
      · rename_i s1 _ _ e
        exact h.devRead.of_fst_eq e

@[simp] theorem Keeps.execContainerSampleTransmit {cont : ℕ} (h : Keeps s₀ s) :
    KeepsRes s₀ (execContainerSampleTransmit cont s) := by
  unfold Machine.execContainerSampleTransmit
  refine KeepsRes.onUnit ?_
  extract_lets
  split
  · exact KeepsRes.done h
  · split
    extract_lets
    split
    · exact KeepsRes.done h
    · split
      rename_i t1 _ e1
      extract_lets _ _ _ _ u _ _ u3
      have hu : Keeps s₀ u := (h.txSample.of_fst_eq e1).setLink
      have hu3 : Keeps s₀ u3 := hu.frame.emit
      refine KeepsRes.done ?_
      split
      · split
        · exact hu3.retireSent
        · exact hu3
      · exact hu3

@[simp] theorem Keeps.execVersionSeal {v : ℕ} (h : Keeps s₀ s) : KeepsRes s₀ (execVersionSeal v s) := by
  unfold Machine.execVersionSeal
  split
  · exact KeepsRes.done h
  · exact KeepsRes.whenSt h h.sealFhv.bumpLink.settleAll

@[simp] theorem Keeps.execVersionRetainExpiry {v : ℕ} (h : Keeps s₀ s) :
    KeepsRes s₀ (execVersionRetainExpiry v s) := by
  unfold Machine.execVersionRetainExpiry
  split
  · exact KeepsRes.done h
  · exact KeepsRes.whenSt h h.releaseFhv.settleAll

theorem Keeps.followLink {g : ℕ} (h : Keeps s₀ s) : Keeps s₀ (followLink s g) :=
  (h.setLink.trackDefects.ite h).ite (h.ite h.setLink)

theorem Keeps.applyLinkConfig {w : WReq} (h : Keeps s₀ s) : Keeps s₀ (applyLinkConfig s w).2 := by
  unfold Machine.applyLinkConfig
  extract_lets
  split
  · exact h.fails
  · split
    · exact h.fails
    · exact h.ifFlash (h.storeRecs.foldl fun _ _ hs1 => hs1.followLink)

theorem Keeps.applyTdContainers {w : WReq} (h : Keeps s₀ s) : Keeps s₀ (applyTdContainers s w).2 := by
  unfold Machine.applyTdContainers
  extract_lets
  split
  · exact h.fails
  · split
    · exact h.fails
    · exact h.ifFlash h.storeRecs

theorem Keeps.applyTdLanding {w : WReq} (h : Keeps s₀ s) : Keeps s₀ (applyTdLanding s w).2 := by
  unfold Machine.applyTdLanding
  extract_lets
  split
  · exact h.fails
  · exact h.ifFlash h.storeRecs

theorem Keeps.applyAnvilPoolRole {w : WReq} (h : Keeps s₀ s) : Keeps s₀ (applyAnvilPoolRole s w).2 := by
  unfold Machine.applyAnvilPoolRole
  extract_lets
  split
  · exact h.fails
  · split
    · exact h.fails
    · split
      · exact h.fails
      · exact h.ifFlash (h.storeDom.foldl fun _ _ ht => ht.freshPool)

theorem Keeps.dropFhVersions {c : ℕ} (h : Keeps s₀ s) : Keeps s₀ (dropFhVersions s c) := by
  unfold Machine.dropFhVersions
  extract_lets _ t _ _
  have ht : Keeps s₀ t := h.foldl fun _ _ ht1 => ht1.releaseFhv
  exact ht.frame

theorem Keeps.applyFhCell {w : WReq} (h : Keeps s₀ s) : Keeps s₀ (applyFhCell s w).2 := by
  unfold Machine.applyFhCell
  extract_lets
  split
  · exact h.fails
  · split
    · exact h.fails
    · exact h.ifFlash (h.storeRecs.foldl fun _ _ hs1 => hs1.dropFhVersions)

theorem Keeps.applyEcpriVlinks {w : WReq} (h : Keeps s₀ s) : Keeps s₀ (applyEcpriVlinks s w).2 := by
  unfold Machine.applyEcpriVlinks
  extract_lets
  refine Keeps.ifFlash h ?_
  refine h.storeRecs.foldl fun u v hu => ?_
  extract_lets
  split
  · exact hu.setVlink
  · exact hu

/-! ### The functions of `Machine/Dram` -/

theorem Keeps.setDrizzle {u : ℕ} {x : Drizzle} (h : Keeps s₀ s) : Keeps s₀ (s.setDrizzle u x) := h.frame

theorem Keeps.mendCode {a : ℕ} (h : Keeps s₀ s) : Keeps s₀ (mendCode s a) := by
  unfold Machine.mendCode
  split
  · exact h
  · exact h.ite (h.frame.ite h.setBad.bump)

theorem Keeps.scrubWord {a : ℕ} (h : Keeps s₀ s) : Keeps s₀ (scrubWord s a) := by
  unfold Machine.scrubWord
  extract_lets
  split
  · exact h
  · exact h.setBad.bump
  · exact h.confirmBad.mendCode
  · exact h.confirmBad.mendCode
  · exact h.goodOnReread
  · exact h.logWord.bump.memLog.mendCode

theorem Keeps.scrubImem {c a : ℕ} (h : Keeps s₀ s) : Keeps s₀ (scrubImem s c a) := by
  unfold Machine.scrubImem
  extract_lets
  split
  · exact h
  · exact h.setIbad.bump
  · exact h.rereadImem.markReload
  · exact h.rereadImem.markReload
  · exact h.rereadImem
  · exact h.logImem.bump.imemLog.markReload

theorem Keeps.strikeWord {u off : ℕ} {found : Option BadWord} (h : Keeps s₀ s) :
    Keeps s₀ (strikeWord s u off found) := by
  unfold Machine.strikeWord
  split
  · exact h.ite h.setBad
  · exact (h.ite h.setIbad).ite (h.ite h.setAonBad)
  · exact h

theorem Keeps.raiseLap {u : ℕ} (h : Keeps s₀ s) : Keeps s₀ (raiseLap s u) := h.setDrizzle.raiseEvent.bump

theorem Keeps.endLap {u : ℕ} (h : Keeps s₀ s) : Keeps s₀ (endLap s u) :=
  (h.setDrizzle.raiseLap.ite h.setDrizzle).setDrizzle

@[simp] theorem Keeps.execDrizzleRead {unit : ℕ} {found : Option BadWord} (h : Keeps s₀ s) :
    KeepsRes s₀ (execDrizzleRead unit found s) := by
  unfold Machine.execDrizzleRead
  refine KeepsRes.onUnit ?_
  split
  · exact KeepsRes.done h
  · extract_lets s1 _
    have hs1 : Keeps s₀ s1 := h.drainQueue.ite h
    split
    · exact KeepsRes.done (hs1.ite hs1.endLap)
    · extract_lets t t1 _ _ t2
      have ht : Keeps s₀ t := hs1.strikeWord
      have ht1 : Keeps s₀ t1 := by
        unfold t1
        split
        · exact ht.scrubWord
        · exact ht.scrubImem.ite ht.readAonWord
      have ht2 : Keeps s₀ t2 := ht1.setDrizzle
      exact KeepsRes.done (ht2.endLap.ite ht2).settleAll

@[simp] theorem Keeps.execDrizzleLapLimit {unit : ℕ} (h : Keeps s₀ s) : KeepsRes s₀ (execDrizzleLapLimit unit s) :=
  (KeepsRes.whenSt h h.raiseLap).onUnit

theorem Keeps.cleanImage {image : ℕ} (h : Keeps s₀ s) : Keeps s₀ (cleanImage s image) := h.frame

theorem Keeps.loseImage {image : ℕ} (h : Keeps s₀ s) : Keeps s₀ (loseImage s image) := by
  unfold Machine.loseImage
  extract_lets _ _ u
  have hu : Keeps s₀ u := (h.foldl fun _ _ ht1 => ht1.finalise).bump
  exact hu.frame

@[simp] theorem Keeps.execCodeImageRewriteDone {image : ℕ} {ok : Bool} (h : Keeps s₀ s) :
    KeepsRes s₀ (execCodeImageRewriteDone image ok s) :=
  KeepsRes.whenSt h (h.frame.cleanImage.bump.ite h.frame.loseImage).settleAll

theorem Keeps.setRank {r : ℕ} {x : DramRank} (h : Keeps s₀ s) : Keeps s₀ (s.setRank r x) := h.frame

@[simp] theorem Keeps.execDramRefresh {rank : ℕ} (h : Keeps s₀ s) : KeepsRes s₀ (execDramRefresh rank s) :=
  (KeepsRes.whenSt h h.setRank).onUnit

@[simp] theorem Keeps.execRankPowerDown {rank : ℕ} (h : Keeps s₀ s) : KeepsRes s₀ (execRankPowerDown rank s) :=
  (KeepsRes.whenSt h h.setRank).onUnit

theorem Keeps.setDramChan {c : ℕ} {x : DramChan} (h : Keeps s₀ s) : Keeps s₀ (s.setDramChan c x) := h.frame

@[simp] theorem Keeps.execCommandParityError {sub : ℕ} {retryOk : Bool} (h : Keeps s₀ s) :
    KeepsRes s₀ (execCommandParityError sub retryOk s) :=
  (KeepsRes.whenSt h (h.setDramChan.ite h.loseMemRegion.settleAll)).onUnit

theorem Keeps.applyDramConfig {w : WReq} (h : Keeps s₀ s) : Keeps s₀ (applyDramConfig s w).2 := by
  unfold Machine.applyDramConfig
  split
  · exact h.fails
  · extract_lets
    split
    · exact h.fails
    · exact h.ifFlash h.setOval

theorem Keeps.applyTimingSet {w : WReq} (h : Keeps s₀ s) : Keeps s₀ (applyTimingSet s w).2 := by
  unfold Machine.applyTimingSet
  extract_lets
  split
  · exact h.fails
  · split
    · exact h.fails
    · exact h.ifFlash h.storeRecs

theorem Keeps.applyDramDelays {w : WReq} (h : Keeps s₀ s) : Keeps s₀ (applyDramDelays s w).2 := by
  unfold Machine.applyDramDelays
  split
  · exact h.fails
  · exact h.ifFlash h.setDom

theorem Keeps.applyDramFreqCmd {w : WReq} (h : Keeps s₀ s) : Keeps s₀ (applyDramFreqCmd s w).2 := by
  unfold Machine.applyDramFreqCmd
  extract_lets
  split
  · exact h.fails
  · split
    · exact h.fails
    · exact (h.storeVal.foldl fun _ _ ht => ht.setDramChan).snd

@[simp] theorem Keeps.execDramFreqChangeDone {chan : ℕ} (h : Keeps s₀ s) :
    KeepsRes s₀ (execDramFreqChangeDone chan s) := by
  unfold Machine.execDramFreqChangeDone
  refine KeepsRes.onUnit ?_
  extract_lets _ t _
  have ht : Keeps s₀ t := h.drainQueue.drainQueue.setDramChan
  exact KeepsRes.whenSt h ht.frame

/-! ### The functions of `Machine/Issue` -/

theorem Keeps.elemRead {c : ℕ} {a : ℤ} {n : ℕ} (h : Keeps s₀ s) : Keeps s₀ (elemRead s c a n).1 := by
  unfold Machine.elemRead
  split
  · exact h
  · split
    · exact h
    · split
      · rename_i s1 _ e
        exact h.coreRead.of_fst_eq e
      · rename_i s1 _ _ e
        exact h.coreRead.of_fst_eq e

theorem Keeps.elemWrite {c : ℕ} {a : ℤ} {n v : ℕ} (h : Keeps s₀ s) : Keeps s₀ (elemWrite s c a n v).1 := by
  unfold Machine.elemWrite
  split
  · exact h
  · split
    · exact h
    · exact h.coreQueue

theorem Keeps.loadElems {c e acc : ℕ} {l : List (ℕ × ℤ)} (h : Keeps s₀ s) : Keeps s₀ (loadElems s c e acc l).1 := by
  induction l generalizing s acc with
  | nil => exact h
  | cons x l ih =>
    rw [Machine.loadElems]
    split
    · rename_i t _ eq
      exact ih (h.elemRead.of_fst_eq eq)
    · rename_i t _ _ eq
      exact (h.elemRead.of_fst_eq eq).fst

theorem Keeps.settleElems {c n : ℕ} {l : List (ℕ × ℤ)} (h : Keeps s₀ s) : Keeps s₀ (settleElems s c n l).1 := by
  induction l generalizing s with
  | nil => exact h
  | cons x l ih =>
    rw [Machine.settleElems]
    split
    · split
      · rename_i t e
        exact ih (h.settleRange.of_fst_eq e)
      · rename_i t _ _ e
        exact (ih (h.settleRange.of_fst_eq e)).fst
    · exact ih h

theorem Keeps.storeElems {c e data : ℕ} {l : List (ℕ × ℤ)} (h : Keeps s₀ s) :
    Keeps s₀ (storeElems s c e data l).1 := by
  induction l generalizing s with
  | nil => exact h
  | cons x l ih =>
    rw [Machine.storeElems]
    split
    · rename_i t eq
      exact ih (h.elemWrite.of_fst_eq eq)
    · rename_i t _ _ eq
      exact (h.elemWrite.of_fst_eq eq).fst

theorem Keeps.storeLoose {c e data choice : ℕ} {l : List (ℕ × ℤ)} (h : Keeps s₀ s) :
    Keeps s₀ (storeLoose s c e data choice l) := by
  induction l generalizing s with
  | nil => exact h
  | cons x l ih =>
    rw [Machine.storeLoose]
    exact ih (h.elemWrite.ite h)

theorem Keeps.recordVfr {c : ℕ} {op : VMemOp} {f : ℕ × ℤ × ℕ × ℕ} (h : Keeps s₀ s) : Keeps s₀ (recordVfr s c op f) :=
  h.setCore

theorem Keeps.vmemRun {c : ℕ} {op : VMemOp} (h : Keeps s₀ s) : Keeps s₀ (vmemRun s c op) := by
  unfold Machine.vmemRun
  extract_lets
  split
  · exact h
  · split
    · split
      · rename_i t e1
        have ht : Keeps s₀ t := h.storeElems.of_fst_eq e1
        split
        · rename_i t1 e2
          exact (ht.settleElems.of_fst_eq e2).setCore
        · rename_i t1 _ e2
          exact (ht.settleElems.of_fst_eq e2).recordVfr
      · rename_i t _ e1
        extract_lets _ u
        have hu : Keeps s₀ u := (h.storeElems.of_fst_eq e1).drawNat.storeLoose
        split
        · rename_i u1 _ e2
          exact (hu.settleElems.of_fst_eq e2).recordVfr
        · rename_i u1 e2
          exact (hu.settleElems.of_fst_eq e2).settleElems.recordVfr
    · split
      · rename_i s1 _ e1
        exact (h.loadElems.of_fst_eq e1).setCore
      · rename_i s1 _ _ e1
        extract_lets _ d
        have hd : Keeps s₀ d := (h.loadElems.of_fst_eq e1).addFree
        exact hd.setCore.recordVfr

theorem Keeps.vrun {c : ℕ} (h : Keeps s₀ s) : Keeps s₀ (vrun s c) := by
  unfold Machine.vrun
  split
  · exact h
  · exact h.vmemRun.setCore

theorem Keeps.vdrain {c : ℕ} (h : Keeps s₀ s) : Keeps s₀ (vdrain s c) := h.ite h.vrun.setCore

theorem Keeps.vcomplete {c n : ℕ} (h : Keeps s₀ s) : Keeps s₀ (vcomplete s c n) :=
  h.ite (h.vdrain.ite (h.setCore.ite h.setCore))

theorem Keeps.deliverFault {c : ℕ} (h : Keeps s₀ s) : Keeps s₀ (deliverFault s c) := by
  unfold Machine.deliverFault
  extract_lets s1
  have hs1 : Keeps s₀ s1 := h.vdrain
  split
  · exact hs1
  · exact hs1.takeExc

theorem Keeps.raiseExc {c : ℕ} {e : Exc} (h : Keeps s₀ s) : Keeps s₀ (raiseExc s c e) := by
  unfold Machine.raiseExc
  extract_lets
  split <;> exact h.vdrain.takeExc

theorem Keeps.raisePrecise {c slot cause sub eaddr : ℕ} (h : Keeps s₀ s) :
    Keeps s₀ (raisePrecise s c slot cause sub eaddr) :=
  h.raiseExc

theorem Keeps.commitStore {c pc ea size v : ℕ} (h : Keeps s₀ s) : Keeps s₀ (commitStore s c pc ea size v) :=
  h.coreQueue.ite h.setCore.coreQueue.setCore

theorem Keeps.applySt {c pc : ℕ} {x3 : Eff} (h : Keeps s₀ s) : Keeps s₀ (applySt c pc s x3) := by
  unfold Machine.applySt
  split
  · exact h.commitStore
  · exact h

theorem Keeps.recordMx {c code addr : ℕ} {merge : Bool} (h : Keeps s₀ s) :
    Keeps s₀ (recordMx s c code addr merge) := by
  unfold Machine.recordMx
  extract_lets
  split
  · exact h
  · exact h.setCore

theorem Keeps.mxRead {c a n : ℕ} (h : Keeps s₀ s) : Keeps s₀ (mxRead s c a n).1 := by
  unfold Machine.mxRead
  split
  · rename_i s1 _ e
    exact h.devRead.of_fst_eq e
  · rename_i s1 _ _ e
    exact (h.devRead.of_fst_eq e).recordMx.fst

theorem Keeps.mxWrite {c a : ℕ} {b : List Byte} (h : Keeps s₀ s) : Keeps s₀ (mxWrite s c a b) := by
  unfold Machine.mxWrite
  split
  · rename_i t e
    exact h.devWrite.of_fst_eq e
  · rename_i t _ _ e
    exact (h.devWrite.of_fst_eq e).recordMx

theorem Keeps.mxRows {c : ℕ} {l : List ℕ} (h : Keeps s₀ s) : Keeps s₀ (mxRows s c l).1 := by
  induction l generalizing s with
  | nil => exact h
  | cons x l ih =>
    rw [Machine.mxRows]
    split
    · rename_i t e
      exact (h.mxRead.of_fst_eq e).fst
    · rename_i t _ e
      have ht : Keeps s₀ t := h.mxRead.of_fst_eq e
      split
      · rename_i u _ e'
        exact ((ih ht).of_fst_eq e').fst
      · rename_i u e'
        exact ((ih ht).of_fst_eq e').fst

theorem Keeps.setQuad {c : ℕ} {f : Mxc → Mxc} (h : Keeps s₀ s) : Keeps s₀ (setQuad s c f) := h.setMxc

theorem Keeps.applyMx {c : ℕ} {x2 : Eff} (h : Keeps s₀ s) : Keeps s₀ (applyMx s c x2) := by
  unfold Machine.applyMx
  split
  · exact h.setQuad
  · exact h.setQuad
  · exact h.setQuad
  · exact h.setQuad
  · split
    · rename_i s1 _ e
      exact (h.mxRows.of_fst_eq e).setQuad
    · rename_i s1 e
      exact h.mxRows.of_fst_eq e
  · exact h.foldl fun _ _ hs1 => hs1.mxWrite
  · exact h.mxWrite
  · split
    · rename_i s1 _ e
      exact (h.mxRead.of_fst_eq e).setQuad
    · rename_i s1 e
      exact h.mxRead.of_fst_eq e
  · exact h.leaveMxc
  · exact h.setQuad.ite h
  · exact h

theorem Keeps.readLengths {c : ℕ} {ref : TaskRef} (h : Keeps s₀ s) : Keeps s₀ (readLengths s c ref).1 := by
  unfold Machine.readLengths
  split
  · rename_i t _ _ e
    exact h.devRead.of_fst_eq e
  · rename_i t _ e _
    exact h.devRead.of_fst_eq e
  · rename_i t _ _ _ _ e _
    extract_lets
    split <;> exact h.devRead.of_fst_eq e

theorem Keeps.endTask {old : State} {c slot : ℕ} (hold : Keeps s₀ old) (hs : Keeps s₀ s) :
    Keeps s₀ (endTask old s c slot) := by
  unfold Machine.endTask
  split
  · exact hs.freeCore
  · split
    · exact hold.devRead.raisePrecise
    · rename_i t _ e
      have ht : Keeps s₀ t := hs.readLengths.of_fst_eq e
      exact ht.freeCore.ite (ht.runDone.freeCore.ite ht.runDone).settleAll

theorem Keeps.runReads {c : ℕ} {l : List Eff} (h : Keeps s₀ s) : Keeps s₀ (runReads s c l).1 := by
  induction l generalizing s with
  | nil => exact h
  | cons x l ih =>
    unfold Machine.runReads
    extract_lets here
    have hhere : Keeps s₀ here.1 := by
      unfold here
      split
      · split
        · rename_i t _ _ e
          exact (h.coreRead.of_fst_eq e).fst
        · rename_i t _ e
          exact (h.coreRead.of_fst_eq e).fst
      · split
        · split
          · rename_i t _ _ e
            exact (h.coreQueue.of_fst_eq e).fst
          · exact h
        · exact h
      · exact h
      · exact h
    clear_value here
    split
    · exact hhere
    · split
      · rename_i u _ e
        exact ((ih hhere).of_fst_eq e).fst
      · rename_i u _ e
        exact ((ih hhere).of_fst_eq e).fst

theorem Keeps.commitBundle {c : ℕ} (h : Keeps s₀ s) : Keeps s₀ (commitBundle s c) := by
  unfold Machine.commitBundle
  extract_lets _ _ _ _ _ _ _ _ t2
  have ht2 : Keeps s₀ t2 := (h.setCore.foldl fun _ _ hs1 => hs1.applySt).foldl fun _ _ ht3 => ht3.applyMx
  exact ((h.endTask ht2).ite ht2.deliverFault).ite ht2

theorem Keeps.beginBundle {c : ℕ} (h : Keeps s₀ s) : Keeps s₀ (beginBundle s c) := h.setCore

theorem Keeps.settleStores {c : ℕ} (h : Keeps s₀ s) : Keeps s₀ (settleStores s c) :=
  h.issueWhere.ite (h.issueWhere.ite h)

theorem Keeps.settleQueue {c : ℕ} (h : Keeps s₀ s) : Keeps s₀ (settleQueue s c) := by
  unfold Machine.settleQueue
  extract_lets _ _ _ s1 s2
  have hs1 : Keeps s₀ s1 := h.drawNat.vcomplete
  have hs2 : Keeps s₀ s2 := hs1.vdrain.ite (hs1.vcomplete.ite (hs1.vcomplete.ite hs1))
  exact h.ite (hs2.vcomplete.ite hs2)

theorem Keeps.finishBundle {c : ℕ} (h : Keeps s₀ s) : Keeps s₀ (finishBundle s c) := by
  unfold Machine.finishBundle
  extract_lets t _ _
  have ht : Keeps s₀ t := h.settleStores.settleQueue.beginBundle
  split
  · exact ht.deliverFault
  · split
    · exact ht.raisePrecise
    · split
      · rename_i u1 _ _ _ _ e
        exact (ht.runReads.of_fst_eq e).raiseExc
      · rename_i u1 _ e
        exact (ht.runReads.of_fst_eq e).setCore.commitBundle

theorem Keeps.closeBundle {c : ℕ} (h : Keeps s₀ s) : Keeps s₀ (closeBundle s c) := h.setMxc.ite h.finishBundle

theorem Keeps.formed {c a : ℕ} {mk : State → Core → ℕ → Iss} (h : Keeps s₀ s) : Keeps s₀ (formed s c a mk).1 := by
  unfold Machine.formed
  extract_lets
  split
  · exact h.vrun
  · exact h

theorem Keeps.issueM {c : ℕ} {stop : Bool} {mk : State → Core → ℕ → Iss} (h : Keeps s₀ s) :
    KeepsRes s₀ (issueM c stop s mk) := by
  unfold Machine.issueM
  refine KeepsRes.onUnit ?_
  refine KeepsRes.done ?_
  extract_lets
  split
  · exact h
  · split
    · exact h.raisePrecise
    · split
      · rename_i t _ _ e
        exact (h.fetchWord.of_fst_eq e).raisePrecise
      · rename_i fst e
        have hfst : Keeps s₀ fst := h.fetchWord.of_fst_eq e
        split
        rename_i t _ e1
        have ht : Keeps s₀ t := hfst.formed.of_fst_eq e1
        extract_lets _ _ _ u1
        have hu1 : Keeps s₀ u1 := ht.setCore
        split
        · exact ht.raisePrecise.ite ht.setCore
        · exact h.ite (hu1.closeBundle.ite hu1)

theorem Keeps.issue {c : ℕ} {stop : Bool} {mk : Core → ℕ → Iss} (h : Keeps s₀ s) : KeepsRes s₀ (issue c stop s mk) :=
  h.issueM

/-! ### The functions of `Machine/Matrix` -/

theorem Keeps.mxIssue {c : ℕ} {f : XFmt} {ok : Bool} {mk : Mxc → Core → Iss} {odd : Bool} (h : Keeps s₀ s) :
    KeepsRes s₀ (mxIssue c f s ok mk odd) :=
  h.issueM

theorem Keeps.mmOp {c : ℕ} {f : XFmt} {herm : Bool} {keep sign : ℤ} (h : Keeps s₀ s) :
    KeepsRes s₀ (mmOp c f s herm keep sign) :=
  h.mxIssue

@[simp] theorem Keeps.execMxmac {c : ℕ} {f : XFmt} (h : Keeps s₀ s) : KeepsRes s₀ (execMxmac c f s) := h.mmOp
@[simp] theorem Keeps.execMxmach {c : ℕ} {f : XFmt} (h : Keeps s₀ s) : KeepsRes s₀ (execMxmach c f s) := h.mmOp
@[simp] theorem Keeps.execMxmul {c : ℕ} {f : XFmt} (h : Keeps s₀ s) : KeepsRes s₀ (execMxmul c f s) := h.mmOp
@[simp] theorem Keeps.execMxmulh {c : ℕ} {f : XFmt} (h : Keeps s₀ s) : KeepsRes s₀ (execMxmulh c f s) := h.mmOp
@[simp] theorem Keeps.execMxmsu {c : ℕ} {f : XFmt} (h : Keeps s₀ s) : KeepsRes s₀ (execMxmsu c f s) := h.mmOp
@[simp] theorem Keeps.execMxclr {c : ℕ} {f : XFmt} (h : Keeps s₀ s) : KeepsRes s₀ (execMxclr c f s) := h.mxIssue
@[simp] theorem Keeps.execMxpack {c : ℕ} {f : XFmt} (h : Keeps s₀ s) : KeepsRes s₀ (execMxpack c f s) := h.mxIssue
@[simp] theorem Keeps.execMxtrn {c : ℕ} {f : XFmt} (h : Keeps s₀ s) : KeepsRes s₀ (execMxtrn c f s) := h.mxIssue
@[simp] theorem Keeps.execMxherm {c : ℕ} {f : XFmt} (h : Keeps s₀ s) : KeepsRes s₀ (execMxherm c f s) := h.mxIssue
@[simp] theorem Keeps.execMxrd {c : ℕ} {f : XFmt} (h : Keeps s₀ s) : KeepsRes s₀ (execMxrd c f s) := h.mxIssue
@[simp] theorem Keeps.execMxbexp {c : ℕ} {f : XFmt} (h : Keeps s₀ s) : KeepsRes s₀ (execMxbexp c f s) := h.mxIssue
@[simp] theorem Keeps.execMxwr {c : ℕ} {f : XFmt} (h : Keeps s₀ s) : KeepsRes s₀ (execMxwr c f s) := h.mxIssue
@[simp] theorem Keeps.execMxld {c : ℕ} {f : XFmt} (h : Keeps s₀ s) : KeepsRes s₀ (execMxld c f s) := h.mxIssue
@[simp] theorem Keeps.execMxst {c : ℕ} {f : XFmt} (h : Keeps s₀ s) : KeepsRes s₀ (execMxst c f s) := h.mxIssue
@[simp] theorem Keeps.execMxstz {c : ℕ} {f : XFmt} (h : Keeps s₀ s) : KeepsRes s₀ (execMxstz c f s) := h.mxIssue
@[simp] theorem Keeps.execMxsave {c : ℕ} {f : XFmt} (h : Keeps s₀ s) : KeepsRes s₀ (execMxsave c f s) := h.mxIssue

@[simp] theorem Keeps.execMxrestore {c : ℕ} {f : XFmt} (h : Keeps s₀ s) : KeepsRes s₀ (execMxrestore c f s) :=
  h.mxIssue

@[simp] theorem Keeps.execMxlock {c : ℕ} {f : XFmt} (h : Keeps s₀ s) : KeepsRes s₀ (execMxlock c f s) := h.issueM
@[simp] theorem Keeps.execMxunlock {c : ℕ} {f : XFmt} (h : Keeps s₀ s) : KeepsRes s₀ (execMxunlock c f s) := h.mxIssue
@[simp] theorem Keeps.execMxsync {c : ℕ} {f : XFmt} (h : Keeps s₀ s) : KeepsRes s₀ (execMxsync c f s) := h.mxIssue

@[simp] theorem Keeps.execMxcLockGrant {m : ℕ} (h : Keeps s₀ s) : KeepsRes s₀ (execMxcLockGrant m s) := by
  unfold Machine.execMxcLockGrant
  refine KeepsRes.onUnit ?_
  refine KeepsRes.done ?_
  extract_lets
  split
  · exact h
  · exact h.ite h.setMxc.bump.finishBundle

@[simp] theorem Keeps.execMxcWaitEvict {m : ℕ} (h : Keeps s₀ s) : KeepsRes s₀ (execMxcWaitEvict m s) := by
  unfold Machine.execMxcWaitEvict
  refine KeepsRes.onUnit ?_
  refine KeepsRes.done ?_
  extract_lets
  split
  · exact h
  · extract_lets
    split
    · exact h
    · split
      · exact h
      · exact h.evictRun.bump.settleAll.ite h

@[simp] theorem Keeps.execMxcSquashDrainEnd {m : ℕ} (h : Keeps s₀ s) : KeepsRes s₀ (execMxcSquashDrainEnd m s) :=
  (KeepsRes.done (h.setMxc.ite h)).onUnit

theorem Keeps.tickMxc {dt : ℕ} (h : Keeps s₀ s) : Keeps s₀ (tickMxc dt s) := by
  unfold Machine.tickMxc
  refine h.foldl fun t x ht => ?_
  extract_lets _ _ _ _ t1 t2
  have ht1 : Keeps s₀ t1 := ht.foldl fun _ _ ht3 => ht3.setCore
  have ht2 : Keeps s₀ t2 := by
    unfold t2
    split
    · exact ht1.ite ht1.setCore
    · exact ht1
  exact ht2.setMxc.ite ht2

theorem Keeps.noteTile {c code : ℕ} (h : Keeps s₀ s) : Keeps s₀ (noteTile s c code) := h.bump.bump.memRecord.ite h
theorem Keeps.lateMxc {c code : ℕ} (h : Keeps s₀ s) : Keeps s₀ (lateMxc s c code) := h.noteTile.lateFault.bump.ite h

@[simp] theorem Keeps.execMxcImpreciseError {c code addr : ℕ} (h : Keeps s₀ s) :
    KeepsRes s₀ (execMxcImpreciseError c code addr s) := by
  unfold Machine.execMxcImpreciseError
  refine KeepsRes.onUnit ?_
  refine KeepsRes.done ?_
  extract_lets
  split
  · exact h.lateMxc.ite h
  · split
    · exact h.deliverFault.ite h
    · exact h.noteTile.recordMx.deliverFault.ite h

/-! ### The functions of `Machine/Time` -/

theorem Keeps.flagsEvent (h : Keeps s₀ s) : Keeps s₀ (flagsEvent s) := h.raiseScalar
theorem Keeps.refuseStep (h : Keeps s₀ s) : Keeps s₀ (refuseStep s) := h.frame.bump.flagsEvent
theorem Keeps.putStep {d : ℤ} (h : Keeps s₀ s) : Keeps s₀ (putStep s d) := h.frame
theorem Keeps.addSlew {d : ℤ} (h : Keeps s₀ s) : Keeps s₀ (addSlew s d) := h.frame

theorem Keeps.switchDomain {n : ℕ} (h : Keeps s₀ s) : Keeps s₀ (switchDomain s n) := by
  unfold Machine.switchDomain
  extract_lets t _
  have ht : Keeps s₀ t := h.setOval.addSlew.bump
  exact ht.frame.followHoldover

theorem Keeps.autoSwitch (h : Keeps s₀ s) : KeepsOpt s₀ (autoSwitch s) := by
  unfold Machine.autoSwitch
  extract_lets
  split
  · exact KeepsOpt.some h.switchDomain
  · exact KeepsOpt.none

theorem Keeps.refuseDemand {n : ℕ} (h : Keeps s₀ s) : Keeps s₀ (refuseDemand s n) :=
  h.autoSwitch.getD h.refuseStep.enterDomain

theorem Keeps.demandStep {n : ℕ} (h : Keeps s₀ s) : Keeps s₀ (demandStep s n) := by
  unfold Machine.demandStep
  extract_lets _ s1 _
  have hs1 : Keeps s₀ s1 := h.setDomain
  split
  · exact h
  · split
    · rename_i t e
      exact hs1.autoSwitch.of_eq e
    · exact hs1.frame.ite hs1.refuseDemand

theorem Keeps.applyStep (h : Keeps s₀ s) : Keeps s₀ (applyStep s) := by
  unfold Machine.applyStep
  split
  · exact h
  · extract_lets _ _ t _ _ u2
    have ht : Keeps s₀ t := h.frame
    have hu2 : Keeps s₀ u2 := ht.frame.setOval.bump.flagsEvent
    exact (ht.refuseDemand.ite ht.refuseStep).ite (hu2.enterDomain.ite hu2)

theorem Keeps.followPps (h : Keeps s₀ s) : Keeps s₀ (followPps s) := h.ite h.frame

theorem Keeps.startSlot {id : ℕ} (h : Keeps s₀ s) : Keeps s₀ (startSlot s id) := by
  unfold Machine.startSlot
  extract_lets
  split
  · exact h
  · split
    rename_i t _ e
    exact (h.getFhv.of_fst_eq e).takeFhBuf

theorem Keeps.byTime (h : Keeps s₀ s) : Keeps s₀ (byTime s) :=
  (h.foldl fun _ _ hs1 => hs1.startSlot).trackIdle.trackEngines.trackAllDefects

@[simp] theorem Keeps.execTimeBeat (h : Keeps s₀ s) : KeepsRes s₀ (execTimeBeat s) := by
  unfold Machine.execTimeBeat
  split
  · exact KeepsRes.done h
  · exact (KeepsRes.done h.frame).ite (KeepsRes.done h.frame.tickMxc.emit.applyStep.followPps.byTime)

@[simp] theorem Keeps.execBeatTimeout {island : ℕ} (h : Keeps s₀ s) : KeepsRes s₀ (execBeatTimeout island s) :=
  (KeepsRes.whenSt h h.frame).onUnit

theorem Keeps.linkSecond {sec g : ℕ} (h : Keeps s₀ s) : Keeps s₀ (linkSecond s sec g) := h.setLink

@[simp] theorem Keeps.execSecondBoundary (h : Keeps s₀ s) : KeepsRes s₀ (execSecondBoundary s) := by
  unfold Machine.execSecondBoundary
  extract_lets _ t _ _ t1 t2 _
  have ht : Keeps s₀ t := h.foldl fun _ _ ht3 => ht3.linkSecond
  have ht1 : Keeps s₀ t1 := ht.frame
  have ht2 : Keeps s₀ t2 := ht1.emit.ite ht1
  exact KeepsRes.whenSt h (ht2.frame.emit.ite ht2)

@[simp] theorem Keeps.execRef10mhzLoss (h : Keeps s₀ s) : KeepsRes s₀ (execRef10mhzLoss s) :=
  KeepsRes.whenSt h h.frame

theorem Keeps.servo (h : Keeps s₀ s) : Keeps s₀ (servo s) := by
  unfold Machine.servo
  split
  · exact h
  · split
    rename_i t e
    split
    rename_i t1 e1
    have ht1 : Keeps s₀ t1 := (h.drawNat.of_snd_eq e).drawNat.of_snd_eq e1
    exact ht1.frame

theorem Keeps.exchange {n : ℕ} {offset : ℤ} {delay : ℕ} (h : Keeps s₀ s) : Keeps s₀ (exchange s n offset delay) := by
  unfold Machine.exchange
  extract_lets _ _ _ t _ t1 t2
  have ht : Keeps s₀ t := h.setDomain
  have ht1 : Keeps s₀ t1 := ht.enterDomain.ite (ht.enterDomain.ite ht)
  have ht2 : Keeps s₀ t2 := ht1.demandStep.ite (ht1.servo.ite ht1)
  exact (ht2.autoSwitch.getD ht2).ite ht2

@[simp] theorem Keeps.execPtpSync {src : SyncFrom} {port : ℕ} {t1 t2 t3 t4 correction : ℤ} (h : Keeps s₀ s) :
    KeepsRes s₀ (execPtpSync src port t1 t2 t3 t4 correction s) :=
  ((KeepsRes.done h.bump).ite (KeepsRes.whenSt h h.bump.exchange)).onUnit

@[simp] theorem Keeps.execPtpAnnounce {port : ℕ} {head : PtpHead} {a : Announce} (h : Keeps s₀ s) :
    KeepsRes s₀ (execPtpAnnounce port head a s) := by
  unfold Machine.execPtpAnnounce
  refine KeepsRes.onUnit ?_
  split
  · exact KeepsRes.done h
  · split
    · exact KeepsRes.done h.bump
    · split
      · exact KeepsRes.done h.bump
      · exact (KeepsRes.done h.bump).ite (KeepsRes.done h.bump.setDomain.reselect)

@[simp] theorem Keeps.execPtpDelayReq {port : ℕ} {head : PtpHead} {requester : ℕ} {correction : ℤ} (h : Keeps s₀ s) :
    KeepsRes s₀ (execPtpDelayReq port head requester correction s) := by
  unfold Machine.execPtpDelayReq
  refine KeepsRes.onUnit ?_
  split
  · exact KeepsRes.done h
  · split
    · exact KeepsRes.done h.bump
    · split
      · exact KeepsRes.done h.bump
      · exact (KeepsRes.done h.bump.sendAt.bump).ite (KeepsRes.done h.bump)

@[simp] theorem Keeps.execAnnounceReceiptTimeout {tb : Bool} (h : Keeps s₀ s) :
    KeepsRes s₀ (execAnnounceReceiptTimeout tb s) := by
  unfold Machine.execAnnounceReceiptTimeout
  extract_lets
  split
  · exact KeepsRes.whenSt h (h.setDomain.bump.enterDomain.ite h.setDomain.bump).reselect
  · exact KeepsRes.done h

@[simp] theorem Keeps.execPtpMessageTransmit {tb : Bool} {port kind : ℕ} (h : Keeps s₀ s) :
    KeepsRes s₀ (execPtpMessageTransmit tb port kind s) :=
  (KeepsRes.whenSt h h.sendAt.bump).onUnit

@[simp] theorem Keeps.execHoldoverLimit (h : Keeps s₀ s) : KeepsRes s₀ (execHoldoverLimit s) :=
  KeepsRes.whenSt h h.frame.followPps

@[simp] theorem Keeps.execTcForward {port dstMac domain kind : ℕ} {residence : ℤ} {frame : List Byte}
    (h : Keeps s₀ s) :
    KeepsRes s₀ (execTcForward port dstMac domain kind residence frame s) :=
  ((KeepsRes.done h).ite ((KeepsRes.done h.bump).ite (KeepsRes.done h.frame.sendAt.bump))).onUnit

@[simp] theorem Keeps.execPpsInEdge {t : ℕ} (h : Keeps s₀ s) : KeepsRes s₀ (execPpsInEdge t s) :=
  KeepsRes.whenSt h ((h.frame.enterDomain.ite h.frame).exchange.ite h.frame)

@[simp] theorem Keeps.execPpsInEdgeMissing (h : Keeps s₀ s) : KeepsRes s₀ (execPpsInEdgeMissing s) := by
  unfold Machine.execPpsInEdgeMissing
  split
  · exact KeepsRes.done h
  · exact KeepsRes.whenSt h (h.frame.enterDomain.ite h.frame)

theorem Keeps.applyTimeSet {w : WReq} (h : Keeps s₀ s) : Keeps s₀ (applyTimeSet s w).2 := by
  unfold Machine.applyTimeSet
  split
  · exact h.fails
  · split
    · exact h.refuseStep.snd
    · exact h.storeVal.putStep.snd

theorem Keeps.applyAdjust {w : WReq} (h : Keeps s₀ s) : Keeps s₀ (applyAdjust s w).2 := by
  unfold Machine.applyAdjust
  extract_lets
  split
  · exact h.fails
  · split
    · exact h.storeVal.addSlew.snd
    · split
      · exact h.refuseStep.snd
      · exact h.storeVal.putStep.snd

theorem Keeps.applyIncrement {w : WReq} (h : Keeps s₀ s) : Keeps s₀ (applyIncrement s w).2 := by
  unfold Machine.applyIncrement
  split
  · exact h.fails
  · split
    · exact h.fails
    · exact h.frame.snd

theorem Keeps.applyActiveDomain {w : WReq} (h : Keeps s₀ s) : Keeps s₀ (applyActiveDomain s w).2 := by
  unfold Machine.applyActiveDomain
  split
  · exact h.fails
  · split
    · exact h.fails
    · split
      · exact h.fails
      · exact h.ifFlash (h.ite h.switchDomain)

theorem Keeps.applyPpsOutMode {w : WReq} (h : Keeps s₀ s) : Keeps s₀ (applyPpsOutMode s w).2 :=
  h.ifFlash h.storeVal.followPps

theorem Keeps.applyPpsInMode {w : WReq} (h : Keeps s₀ s) : Keeps s₀ (applyPpsInMode s w).2 :=
  h.ifFlash h.storeVal.reselect

theorem Keeps.applyHoldoverLimit {w : WReq} (h : Keeps s₀ s) : Keeps s₀ (applyHoldoverLimit s w).2 := by
  unfold Machine.applyHoldoverLimit
  extract_lets t _ _
  have ht : Keeps s₀ t := h.storeVal
  exact h.ifFlash ht.frame.followPps

theorem Keeps.applyTimeRefSel {w : WReq} (h : Keeps s₀ s) : Keeps s₀ (applyTimeRefSel s w).2 := by
  unfold Machine.applyTimeRefSel
  split
  · exact h.fails
  · extract_lets t _
    have ht : Keeps s₀ t := h.storeVal
    exact h.ifFlash ht.frame

theorem Keeps.applyPtpDomain {w : WReq} (h : Keeps s₀ s) : Keeps s₀ (applyPtpDomain s w).2 := by
  unfold Machine.applyPtpDomain
  extract_lets _ t _ _
  have ht : Keeps s₀ t := h.storeVal
  split
  · exact h.fails
  · split
    · exact h.fails
    · exact h.ifFlash (ht.ite ht.setDomain.reselect)

theorem Keeps.applyPtpPorts {w : WReq} (h : Keeps s₀ s) : Keeps s₀ (applyPtpPorts s w).2 := by
  unfold Machine.applyPtpPorts
  extract_lets
  split
  · exact h.fails
  · exact h.ifFlash h.storeVal.reselect

theorem Keeps.applyPtpEnable {w : WReq} (h : Keeps s₀ s) : Keeps s₀ (applyPtpEnable s w).2 :=
  h.ifFlash (h.storeVal.ite h.storeVal.setDomain.followHoldover)

theorem Keeps.applyTcDomains {w : WReq} (h : Keeps s₀ s) : Keeps s₀ (applyTcDomains s w).2 := by
  unfold Machine.applyTcDomains
  extract_lets
  split
  · exact h.fails
  · exact h.ifFlash h.storeDom

/-! ### The functions of `Machine/Optics` -/

theorem Keeps.setModule {p : ℕ} {x : Module} (h : Keeps s₀ s) : Keeps s₀ (s.setModule p x) := h.frame
theorem Keeps.setLife {i : ℕ} {x : Life} (h : Keeps s₀ s) : Keeps s₀ (setLife s i x) := h.frame
theorem Keeps.moduleEvent {p : ℕ} (h : Keeps s₀ s) : Keeps s₀ (moduleEvent s p) := h.raiseEvent

theorem Keeps.getLife {serial vendor : ℕ} (h : Keeps s₀ s) : Keeps s₀ (getLife s serial vendor).1 := by
  unfold Machine.getLife
  split
  · exact h
  · exact h.setLife.fst

theorem Keeps.moduleDay {p : ℕ} (h : Keeps s₀ s) : Keeps s₀ (moduleDay s p) := by
  unfold Machine.moduleDay
  extract_lets
  split
  · exact h
  · exact h.ite h.setLife.setModule

theorem Keeps.issueLane {p : ℕ} {b : State × Bool} {n : ℕ} (hb : Keeps s₀ b.1) : Keeps s₀ (issueLane p b n).1 := by
  unfold Machine.issueLane
  extract_lets t _ drop
  have ht : Keeps s₀ t := hb
  have hdrop : ∀ (u : State), Keeps s₀ u → Keeps s₀ (drop u) := fun _ hu => hu.setModule
  split
  · split
    · exact (hdrop _ ht).fst
    · split
      · rename_i t1 e
        exact (hdrop _ (ht.restoreLane.of_eq e)).fst
      · exact ht
  · split
    · exact (hdrop _ ht).fst
    · split
      · exact hb
      · split
        · rename_i t1 e
          exact (hdrop _ (ht.drainLane.of_eq e)).fst
        · exact ht

theorem Keeps.issueTodo {p : ℕ} (h : Keeps s₀ s) : Keeps s₀ (issueTodo s p) :=
  (h.foldl_fst fun _ _ hs1 => hs1.issueLane).setModule

theorem Keeps.startDrain {p : ℕ} (h : Keeps s₀ s) : Keeps s₀ (startDrain s p) := h.setModule.issueTodo

theorem Keeps.followModule {p : ℕ} (h : Keeps s₀ s) : Keeps s₀ (followModule s p) := by
  unfold Machine.followModule
  extract_lets _ s1 _ s2 _
  have hs1 : Keeps s₀ s1 := h.setModule.moduleEvent.ite h
  have hs2 : Keeps s₀ s2 := hs1.startDrain.ite hs1
  exact h.setModule.ite (hs2.setModule.moduleEvent.bump.ite hs2)

theorem Keeps.advanceModule {p : ℕ} (h : Keeps s₀ s) : Keeps s₀ (advanceModule s p) :=
  (h.ite h.issueTodo).followModule

theorem Keeps.moduleRead {p : ℕ} {r : ModuleReading} (h : Keeps s₀ s) : Keeps s₀ (moduleRead s p r) := by
  unfold Machine.moduleRead
  extract_lets
  split
  rename_i t _ e
  have ht : Keeps s₀ t := h.getLife.of_fst_eq e
  exact (ht.setLife.setModule.ite ht.setLife.setModule).ite ht.setLife.setModule

theorem Keeps.moduleFail {p : ℕ} (h : Keeps s₀ s) : Keeps s₀ (moduleFail s p) := by
  unfold Machine.moduleFail
  extract_lets _ s1 _ _ _ s2 _
  have hs1 : Keeps s₀ s1 := h.emit.bump
  have hs2 : Keeps s₀ s2 := by
    unfold s2
    split
    · exact hs1.ite hs1.setLife
    · exact hs1
  exact hs2.setModule.ite ((hs2.setModule.ite (hs2.setModule.ite hs2.setModule.bump)).ite hs2.setModule)

@[simp] theorem Keeps.execOmPoll {pos : ℕ} {reading : Option ModuleReading} (h : Keeps s₀ s) :
    KeepsRes s₀ (execOmPoll pos reading s) := by
  unfold Machine.execOmPoll
  refine KeepsRes.onUnit ?_
  extract_lets _ s1 t _
  have hs1 : Keeps s₀ s1 := h.emit
  have ht : Keeps s₀ t := by
    unfold t
    split
    · exact hs1.moduleRead
    · exact hs1.moduleFail
  exact KeepsRes.whenSt h ht.setModule.advanceModule

@[simp] theorem Keeps.execDayBoundary (h : Keeps s₀ s) : KeepsRes s₀ (execDayBoundary s) :=
  KeepsRes.whenSt h ((h.frame.foldl fun _ _ hs1 => hs1.moduleDay).foldl fun _ _ hs1 => hs1.followModule)

theorem Keeps.applyModuleMap {w : WReq} (h : Keeps s₀ s) : Keeps s₀ (applyModuleMap s w).2 := by
  unfold Machine.applyModuleMap
  extract_lets
  split
  · exact h.fails
  · split
    · exact h.fails
    · exact h.ifFlash (h.storeRecs.foldl fun _ _ hu => hu.setModule)

theorem Keeps.applyOpticsCmd {w : WReq} (h : Keeps s₀ s) : Keeps s₀ (applyOpticsCmd s w).2 := by
  unfold Machine.applyOpticsCmd
  extract_lets
  split
  · exact h.fails
  · split
    · split
      · exact h.fails
      · exact h.storeVal.startDrain.snd
    · split
      · exact h.fails
      · exact h.storeVal.setModule.advanceModule.snd

theorem Keeps.applyOpticsDays {w : WReq} (h : Keeps s₀ s) : Keeps s₀ (applyOpticsDays s w).2 := by
  unfold Machine.applyOpticsDays
  extract_lets
  split
  · exact h.fails
  · exact h.ifFlash h.storeVal

/-! ### The functions of `Machine/Boot` -/

theorem Keeps.repeatEntry {q : ℕ} (h : Keeps s₀ s) : Keeps s₀ (repeatEntry s q) := h.ite h.addEntry
theorem Keeps.timerDue {q : ℕ} (h : Keeps s₀ s) : Keeps s₀ (timerDue s q) := h.setQueue

theorem Keeps.resumeQueues (h : Keeps s₀ s) : Keeps s₀ (resumeQueues s) := by
  unfold Machine.resumeQueues
  extract_lets _ _ t1 _
  have ht1 : Keeps s₀ t1 := (h.foldl fun _ _ ht3 => ht3.timerDue.repeatEntry).flushEntries.flushEntries
  exact (ht1.foldl fun _ _ hs1 => hs1.creditHeld).foldl fun _ _ ht3 => ht3.retxFire.ite ht3

theorem Keeps.startLanes (h : Keeps s₀ s) : Keeps s₀ (startLanes s) :=
  h.foldl fun _ _ ht => ht.startGroup.followLink.ite ht

theorem Keeps.becomeServiceable (h : Keeps s₀ s) : Keeps s₀ (becomeServiceable s) :=
  (h.frame.startLanes.startStream.foldl fun _ _ hs1 => hs1.setRail).resumeQueues.reOvercast.settleAll

/-! ### The functions of `Machine/Supply` -/

theorem Keeps.supplyRegion {r : ℕ} {bad : Bool} (h : Keeps s₀ s) : Keeps s₀ (supplyRegion s r bad) :=
  h.ite (h.setRegState.raiseScalar.ite (h.setRegState.ite h))

theorem Keeps.supplyRegions (h : Keeps s₀ s) : Keeps s₀ (supplyRegions s) := h.supplyRegion.supplyRegion

@[simp] theorem Keeps.execVinMainLow (h : Keeps s₀ s) : KeepsRes s₀ (execVinMainLow s) :=
  KeepsRes.whenSt h h.frame.bump.supplyRegions

@[simp] theorem Keeps.execVinMainRestored (h : Keeps s₀ s) : KeepsRes s₀ (execVinMainRestored s) :=
  KeepsRes.whenSt h h.frame.bump.supplyRegions

@[simp] theorem Keeps.execBkupOkMeasure {mv : ℕ} (h : Keeps s₀ s) : KeepsRes s₀ (execBkupOkMeasure mv s) :=
  KeepsRes.whenSt h h.frame.supplyRegions

@[simp] theorem Keeps.execVinBkupLoss (h : Keeps s₀ s) : KeepsRes s₀ (execVinBkupLoss s) := by
  unfold Machine.execVinBkupLoss
  extract_lets t _
  have ht : Keeps s₀ t := h.beginRestart.loseAon
  exact KeepsRes.whenSt h ht.frame

@[simp] theorem Keeps.execAlwaysOnPowerOn {mainOk : Bool} {bkupMv : ℕ} (h : Keeps s₀ s) :
    KeepsRes s₀ (execAlwaysOnPowerOn mainOk bkupMv s) := by
  unfold Machine.execAlwaysOnPowerOn
  extract_lets t _ _ t2
  have ht : Keeps s₀ t := h.loseAon.withCause
  have ht2 : Keeps s₀ t2 := ht.frame.supplyRegions
  exact KeepsRes.whenSt h (ht2.bootUp.ite ht2)

@[simp] theorem Keeps.execPwrGoodFall (h : Keeps s₀ s) : KeepsRes s₀ (execPwrGoodFall s) :=
  KeepsRes.whenSt h (h.frame.ite (h.frame.bump.beginRestart.ite h.frame.beginRestart))

@[simp] theorem Keeps.execPwrGoodRise (h : Keeps s₀ s) : KeepsRes s₀ (execPwrGoodRise s) :=
  KeepsRes.whenSt h ((h.frame.supplyRegions.ite h.frame).bootUp.ite (h.frame.supplyRegions.ite h.frame))

@[simp] theorem Keeps.execResetNFall (h : Keeps s₀ s) : KeepsRes s₀ (execResetNFall s) :=
  KeepsRes.whenSt h (h.frame.ite (h.frame.ite h.frame.beginRestart))

@[simp] theorem Keeps.execResetNCold (h : Keeps s₀ s) : KeepsRes s₀ (execResetNCold s) := by
  unfold Machine.execResetNCold
  extract_lets _ t
  have ht : Keeps s₀ t := by
    unfold t
    split
    · exact h.frame
    · exact h.beginRestart
  exact KeepsRes.whenSt h ht

@[simp] theorem Keeps.execResetNRelease {fpEn aui0 aui1 : Bool} (h : Keeps s₀ s) :
    KeepsRes s₀ (execResetNRelease fpEn aui0 aui1 s) :=
  KeepsRes.whenSt h (h.frame.bootUp.ite h.frame)

theorem Keeps.applyResetCmd {w : WReq} (h : Keeps s₀ s) : Keeps s₀ (applyResetCmd s w).2 := by
  unfold Machine.applyResetCmd
  split
  · exact h.fails
  · split
    · exact h.fails
    · extract_lets u _
      have hu : Keeps s₀ u := h.storeVal
      exact hu.frame

theorem Keeps.resetNow (h : Keeps s₀ s) : Keeps s₀ (resetNow s) := by
  unfold Machine.resetNow
  split
  · exact h.restartNow
  · exact h

@[simp] theorem Keeps.execSysRefclkLoss (h : Keeps s₀ s) : KeepsRes s₀ (execSysRefclkLoss s) := KeepsRes.done h.frame

@[simp] theorem Keeps.execTemperatureAlarm {hot : Bool} (h : Keeps s₀ s) : KeepsRes s₀ (execTemperatureAlarm hot s) :=
  KeepsRes.done h.frame

/-! ### The functions of `Machine/Keys` -/

theorem Keeps.saveKeys {slots : List (ℕ × KeySlot)} (h : Keeps s₀ s) : Keeps s₀ (saveKeys s slots) := by
  unfold Machine.saveKeys
  split
  rename_i t e
  have ht : Keeps s₀ t := h.drawNat.of_snd_eq e
  exact ht.frame.useCipher

theorem Keeps.storeKeys {w : WReq} {slots : List (ℕ × KeySlot)} (h : Keeps s₀ s) :
    Keeps s₀ (storeKeys s w slots).2 := by
  unfold Machine.storeKeys
  split
  rename_i t _ e
  have ht : Keeps s₀ t := h.cipherFault.of_fst_eq e
  split
  · exact ht
  · split
    · exact ht
    · exact ht.saveKeys.snd

theorem Keeps.loadKey {w : WReq} (h : Keeps s₀ s) : Keeps s₀ (loadKey s w).2 := by
  unfold Machine.loadKey
  extract_lets
  split
  · exact h.fails
  · split
    · exact h.fails
    · split
      · exact h.fails
      · split
        · exact h.fails
        · split
          · split
            rename_i t _ e
            exact (h.cipherFault.of_fst_eq e).useCipher.snd
          · split
            rename_i t e
            have ht : Keeps s₀ t := h.storeKeys.of_snd_eq e
            exact (ht.frame.ite ht).snd

theorem Keeps.applyKeyLoad {w : WReq} (h : Keeps s₀ s) : Keeps s₀ (applyKeyLoad s w).2 := by
  unfold Machine.applyKeyLoad
  split
  rename_i t e
  exact (h.loadKey.of_snd_eq e).bump.snd

theorem Keeps.applyKeyErase {w : WReq} (h : Keeps s₀ s) : Keeps s₀ (applyKeyErase s w).2 := by
  unfold Machine.applyKeyErase
  extract_lets
  split
  · exact h.fails
  · split
    · exact h.fails
    · exact h.storeKeys

theorem Keeps.applyCipherLock {w : WReq} (h : Keeps s₀ s) : Keeps s₀ (applyCipherLock s w).2 := by
  unfold Machine.applyCipherLock
  extract_lets
  split
  · exact h.fails
  · exact h.frame.snd

theorem Keeps.applyCipherLockBoot {w : WReq} (h : Keeps s₀ s) : Keeps s₀ (applyCipherLockBoot s w).2 := by
  unfold Machine.applyCipherLockBoot
  extract_lets
  split
  · exact h.fails
  · exact h.ifFlash h.storeVal

theorem Keeps.applyMakerLock {w : WReq} (h : Keeps s₀ s) : Keeps s₀ (applyMakerLock s w).2 := by
  unfold Machine.applyMakerLock
  split
  · exact h.fails
  · split
    · exact h.fails
    · exact Keeps.snd { (h.storeVal : Keeps s₀ (Machine.storeVal s w)) with makerLock := fun _ => rfl }

@[simp] theorem Keeps.execCipherSelfTestDone {passed : Bool} (h : Keeps s₀ s) :
    KeepsRes s₀ (execCipherSelfTestDone passed s) :=
  KeepsRes.whenSt h h.frame

theorem Keeps.applyAuditExported {w : WReq} (h : Keeps s₀ s) : Keeps s₀ (applyAuditExported s w).2 := by
  unfold Machine.applyAuditExported
  extract_lets
  split
  · exact h.fails
  · exact h.frame.snd

/-! ### The functions of `Machine/Write` -/

theorem Keeps.applyPlain {w : WReq} (h : Keeps s₀ s) : Keeps s₀ (applyPlain s w).2 :=
  h.ifFlash (h.storeDom.ite h.storeVal)

theorem Keeps.applyRankPdIdle {w : WReq} (h : Keeps s₀ s) : Keeps s₀ (applyRankPdIdle s w).2 := by
  unfold Machine.applyRankPdIdle
  split
  · exact h.fails
  · exact h.ifFlash h.storeVal

theorem Keeps.applyMirrorFrom {w : WReq} (h : Keeps s₀ s) : Keeps s₀ (applyMirrorFrom s w).2 := by
  unfold Machine.applyMirrorFrom
  extract_lets t
  have ht : Keeps s₀ t := h.storeVal
  exact h.ifFlash ht.frame

theorem Keeps.writeTransport {w : WReq} (h : Keeps s₀ s) : KeepsOpt s₀ ((writeTransport s w).map Prod.snd) := by
  unfold Machine.writeTransport
  split
  · exact KeepsOpt.some h.applyQueueConfig
  · exact KeepsOpt.some h.applyQueueReset
  · exact KeepsOpt.some h.applyResultStore
  · exact KeepsOpt.some h.applyResultStore
  · exact KeepsOpt.some h.applyResultStore
  · exact KeepsOpt.some h.applyPlain.updateHeadroom
  · exact KeepsOpt.some h.applyEtype
  · exact KeepsOpt.some h.applyEtype
  · exact KeepsOpt.some h.applyUdp
  · exact KeepsOpt.some h.applyUdp
  · exact KeepsOpt.some h.applyUdp
  · exact KeepsOpt.some h.applyMirrorMode
  · exact KeepsOpt.some h.applyTransportPcp
  · exact KeepsOpt.some h.applyPortMac
  · exact KeepsOpt.some h.applyPortMac
  · exact KeepsOpt.some h.applyPortIp
  · exact KeepsOpt.some h.applyPortIp
  · exact KeepsOpt.some h.applyPortIp
  · exact KeepsOpt.some h.applyPortIp
  · exact KeepsOpt.some h.applyCellConfig
  · exact KeepsOpt.some h.applyAdmitProbe
  · exact KeepsOpt.some h.applyMigrateCmd
  · exact KeepsOpt.some h.applyKernelTable
  · split
    · exact KeepsOpt.some h.applyPoolConfig
    · split
      · exact KeepsOpt.some h.applyPolicy
      · split
        · exact KeepsOpt.some h.applyPolicyBound
        · exact KeepsOpt.none

theorem Keeps.writeFault {answer : Option (ℕ × ℕ)} {w : WReq} (h : Keeps s₀ s) :
    KeepsOpt s₀ ((writeFault answer s w).map Prod.snd) := by
  unfold Machine.writeFault
  split
  · exact KeepsOpt.some h.applyEngineSpares
  · exact KeepsOpt.some h.applyOvercastMask
  · exact KeepsOpt.some h.applyFwUpdateCmd
  · exact KeepsOpt.some h.applyFwImage
  · exact KeepsOpt.some h.applyRegionRestore
  · exact KeepsOpt.some h.applyRegionRetire
  · exact KeepsOpt.some h.applyBuddy
  · exact KeepsOpt.some h.applyMirrorFrom
  · exact KeepsOpt.some h.applyMirrorFrom
  · exact KeepsOpt.some h.applyTakeoverCmd
  · exact KeepsOpt.some h.applyBuddyRelease
  · exact KeepsOpt.none

theorem Keeps.writeUnit {w : WReq} (h : Keeps s₀ s) : KeepsOpt s₀ ((writeUnit s w).map Prod.snd) := by
  unfold Machine.writeUnit
  split
  · exact KeepsOpt.some h.applyGroupEnable
  · exact KeepsOpt.some h.applyDeskewMax
  · exact KeepsOpt.some h.applyLaneConfig
  · exact KeepsOpt.some h.applyLaneCmd
  · exact KeepsOpt.some h.applyLinkConfig
  · exact KeepsOpt.some h.applyTdContainers
  · exact KeepsOpt.some h.applyEcpriVlinks
  · exact KeepsOpt.some h.applyNbConfig
  · exact KeepsOpt.some h.applyAnvilPoolRole
  · exact KeepsOpt.some h.applyFhCell
  · exact KeepsOpt.some h.applyTdLanding
  · exact KeepsOpt.some h.applyDramConfig
  · exact KeepsOpt.some h.applyTimingSet
  · exact KeepsOpt.some h.applyTimingSet
  · exact KeepsOpt.some h.applyDramFreqCmd
  · exact KeepsOpt.some h.applyRankPdIdle
  · exact KeepsOpt.some h.applyDramDelays
  · exact KeepsOpt.some h.applyTimeSet
  · exact KeepsOpt.some h.applyIncrement
  · exact KeepsOpt.some h.applyAdjust
  · exact KeepsOpt.some h.applyActiveDomain
  · exact KeepsOpt.some h.applyTimeRefSel
  · exact KeepsOpt.some h.applyHoldoverLimit
  · exact KeepsOpt.some h.applyPpsOutMode
  · exact KeepsOpt.some h.applyPpsInMode
  · exact KeepsOpt.some h.applyPtpEnable
  · exact KeepsOpt.some h.applyPtpEnable
  · exact KeepsOpt.some h.applyPtpDomain
  · exact KeepsOpt.some h.applyPtpDomain
  · exact KeepsOpt.some h.applyPtpPorts
  · exact KeepsOpt.some h.applyPtpPorts
  · exact KeepsOpt.some h.applyTcDomains
  · exact KeepsOpt.some h.applyOpticsDays
  · exact KeepsOpt.some h.applyOpticsDays
  · exact KeepsOpt.some h.applyModuleMap
  · exact KeepsOpt.some h.applyOpticsCmd
  · split
    · exact KeepsOpt.some h.applyNbConfig
    · exact KeepsOpt.none

theorem Keeps.writePort {w : WReq} (h : Keeps s₀ s) : KeepsOpt s₀ ((writePort s w).map Prod.snd) := by
  unfold Machine.writePort
  split
  · exact KeepsOpt.some h.applyMakerLock
  · exact KeepsOpt.some h.applyAuditExported
  · exact KeepsOpt.some h.applyKeyLoad
  · exact KeepsOpt.some h.applyKeyLoad
  · exact KeepsOpt.some h.applyKeyErase
  · exact KeepsOpt.some h.applyCipherLock
  · exact KeepsOpt.some h.applyCipherLockBoot
  · exact KeepsOpt.some h.applyPowerTarget
  · exact KeepsOpt.some h.applyDeepCmd
  · exact KeepsOpt.some h.applyResetCmd
  · exact KeepsOpt.none

theorem Keeps.applyOne {answer : Option (ℕ × ℕ)} {w : WReq} (h : Keeps s₀ s) : Keeps s₀ (applyOne answer s w).2 := by
  unfold Machine.applyOne
  exact (h.writeTransport.orElse_snd (h.writeFault.orElse_snd (h.writeUnit.orElse_snd h.writePort))).getD_snd h.applyPlain

theorem Keeps.writeObject {answer : Option (ℕ × ℕ)} {w : WReq} {block : Bool} (h : Keeps s₀ s) :
    Keeps s₀ (writeObject answer s w block).2 := by
  unfold Machine.writeObject
  split
  · exact h.fails
  · split
    · exact h.fails
    · split
      · exact h.fails
      · split
        · exact h.fails
        · exact h.applyOne

theorem Keeps.afterWrite {before : State} {k : ℕ} {a : Applied} (ha : Keeps s₀ a.2) :
    Keeps s₀ (afterWrite before k a).2 := by
  unfold Machine.afterWrite
  split
  · extract_lets u _ _
    have hu : Keeps s₀ u := ha
    exact (hu.frame.ite ha).settleAll.copyToStandby.snd
  · exact ha

theorem Keeps.freeAnswer {k : ℕ} (h : Keeps s₀ s) : Keeps s₀ (freeAnswer s k).2 := by
  unfold Machine.freeAnswer
  split
  · split
    rename_i t e
    exact h.drawNat.of_snd_eq e
  · exact h

theorem Keeps.restoreAll {w : WReq} {l : List (ℕ × List Byte)} (h : Keeps s₀ s) : Keeps s₀ (restoreAll w s l).2 := by
  induction l generalizing s with
  | nil => exact h
  | cons x l ih =>
    rw [Machine.restoreAll]
    split
    · split
      rename_i u e
      split
      rename_i t e'
      have ht : Keeps s₀ t := (h.freeAnswer.of_snd_eq e).writeObject.of_snd_eq e'
      split
      · exact ih ht
      · exact h
    · exact ih h

theorem Keeps.applyBackup {w : WReq} (h : Keeps s₀ s) : Keeps s₀ (applyBackup s w).2 := by
  unfold Machine.applyBackup
  extract_lets
  split
  rename_i t _ e
  have ht : Keeps s₀ t := h.cipherFault.of_fst_eq e
  split
  · exact h.fails
  · split
    · exact ht
    · extract_lets c
      have hc : Keeps s₀ c := ht.useCipher.ite ht
      split
      · exact hc
      · split
        rename_i t1 e1
        split
        · exact hc.restoreAll.of_snd_eq e1
        · exact hc

theorem Keeps.applyWrite {answer : Option (ℕ × ℕ)} {w : WReq} {block : Bool} (h : Keeps s₀ s) :
    Keeps s₀ (applyWrite answer s w block).2 := by
  unfold Machine.applyWrite
  refine Keeps.afterWrite ?_
  split
  · split
    · exact h.fails
    · exact h.applyBackup
  · exact h.writeObject

/-! ### The functions of `Machine/Cleip` -/

theorem Keeps.setSerial {carrier : ℕ} {x : Serial} (h : Keeps s₀ s) : Keeps s₀ (setSerial s carrier x) :=
  h.frame.ite h.frame

theorem Keeps.putResponse {src : CleipSrc} {msg : List Byte} (h : Keeps s₀ s) : Keeps s₀ (putResponse s src msg) :=
  (h.sendAt.ite h.setSerial).bump

theorem Keeps.holdResponse {k : HeldResp} (h : Keeps s₀ s) : Keeps s₀ (holdResponse s k) := h.frame

theorem Keeps.answer {op : ℕ} {r : CleipReq} {status : ℕ} {last : Bool} {body : List Byte} (h : Keeps s₀ s) :
    Keeps s₀ (answer s op r status last body) :=
  h.holdResponse.putResponse

theorem Keeps.appendFor {before : State} {w : WReq} {rec' : AuditRec} {status : ℕ} (h : Keeps s₀ t) :
    Keeps s₀ (appendFor before t w rec' status) :=
  h.auditK2.ite h.audit

theorem Keeps.auditRestored {before : State} {r : CleipReq} {w : WReq} (h : Keeps s₀ t) :
    Keeps s₀ (auditRestored before t r w) :=
  h.foldl fun _ _ hu => hu.audit

theorem Keeps.auditDamaged {op : ℕ} {r : CleipReq} (h : Keeps s₀ s) : Keeps s₀ (auditDamaged s op r) := h.audit.ite h

theorem Keeps.endWrite {before : State} {op : ℕ} {r : CleipReq} {w : WReq} {a : Applied} (ha : Keeps s₀ a.2) :
    Keeps s₀ (endWrite before op r w a) := by
  unfold Machine.endWrite
  extract_lets _ t _
  have ht : Keeps s₀ t := ha.auditRestored.ite ha
  exact ht.frame.ite ht.appendFor.answer

theorem Keeps.serveRead {r : CleipReq} (h : Keeps s₀ s) : Keeps s₀ (serveRead s r) :=
  h.answer.ite (h.answer.ite h.answer)

theorem Keeps.serveReadBlock {r : CleipReq} (h : Keeps s₀ s) : Keeps s₀ (serveReadBlock s r) :=
  h.answer.ite (h.answer.ite (h.answer.ite (h.answer.ite h.answer)))

theorem Keeps.serveWrite {buddy : Option (ℕ × ℕ)} {r : CleipReq} (h : Keeps s₀ s) :
    Keeps s₀ (serveWrite buddy s r) := by
  unfold Machine.serveWrite
  extract_lets
  refine Keeps.endWrite ?_
  split
  · exact h.fails
  · exact h.applyWrite

theorem Keeps.closeBlock {k : ℕ} (h : Keeps s₀ s) : Keeps s₀ (closeBlock s k) := h.frame

theorem Keeps.openBlock {r : CleipReq} {st : ℕ} (h : Keeps s₀ s) : Keeps s₀ (openBlock s r st) := by
  unfold Machine.openBlock
  extract_lets _ _ _ _ _ a1
  have ha1 : Keeps s₀ a1.2 := by
    unfold a1
    split
    · exact h.fails
    · split
      · exact h.fails
      · split
        · exact h.fails
        · split
          · split
            · exact h.fails
            · exact h.applyWrite
          · split
            · exact h.fails
            · exact h.frame.snd
  exact ha1.answer.ite ha1.endWrite

theorem Keeps.nextBlock {r : CleipReq} {st : ℕ} {b : BlockWrite} (h : Keeps s₀ s) : Keeps s₀ (nextBlock s r st b) :=
  h.answer.ite (h.closeBlock.fails.endWrite.ite (h.closeBlock.applyWrite.endWrite.ite h.frame.answer))

theorem Keeps.serveWriteBlock {r : CleipReq} (h : Keeps s₀ s) : Keeps s₀ (serveWriteBlock s r) := by
  unfold Machine.serveWriteBlock
  extract_lets
  split
  · exact h.nextBlock
  · exact h.openBlock

theorem Keeps.compareSub {n : ℕ} {x : Subscr} (h : Keeps s₀ s) : Keeps s₀ (compareSub s n x) :=
  h.setSub.ite h.sendEvent

theorem Keeps.newSub {r : CleipReq} {mode interval : ℕ} (h : Keeps s₀ s) : Keeps s₀ (newSub s r mode interval) := by
  unfold Machine.newSub
  split
  · exact h.answer
  · exact h.setSub.answer.compareSub.ite h.setSub.answer

theorem Keeps.cancelSubs {r : CleipReq} (h : Keeps s₀ s) : Keeps s₀ (cancelSubs s r) := by
  unfold Machine.cancelSubs
  extract_lets
  split
  · exact h.answer
  · exact h.frame.answer

theorem Keeps.serveSubscribe {r : CleipReq} (h : Keeps s₀ s) : Keeps s₀ (serveSubscribe s r) := by
  unfold Machine.serveSubscribe
  extract_lets
  split
  · exact h.answer
  · split
    · exact h.answer
    · split
      · exact h.answer
      · split
        · exact h.answer
        · split
          · exact h.cancelSubs
          · split
            · exact h.setSub.answer
            · exact h.newSub

theorem Keeps.serve {buddy : Option (ℕ × ℕ)} {op : ℕ} {r : CleipReq} (h : Keeps s₀ s) :
    Keeps s₀ (serve buddy s op r) := by
  unfold Machine.serve
  extract_lets _ s1
  have hs1 : Keeps s₀ s1 := h.ite h.setSerial
  split
  · exact hs1.serveRead
  · exact hs1.serveWrite
  · exact hs1.serveReadBlock
  · exact hs1.serveWriteBlock
  · exact hs1.serveSubscribe

theorem Keeps.takeRequest {buddy : Option (ℕ × ℕ)} {op : ℕ} {r : CleipReq} (h : Keeps s₀ s) :
    Keeps s₀ (takeRequest buddy s op r) := by
  unfold Machine.takeRequest
  split
  · exact h.bump.putResponse
  · exact h.bump.ite ((h.bump.ite h.frame).ite h.serve)

theorem Keeps.takeMessage {buddy : Option (ℕ × ℕ)} {op : ℕ} {r : CleipReq} (h : Keeps s₀ s) :
    Keeps s₀ (takeMessage buddy s op r) :=
  h.bump.bump.ite h.bump.takeRequest

theorem Keeps.serveWaiting (h : Keeps s₀ s) : Keeps s₀ (serveWaiting s) := by
  unfold Machine.serveWaiting
  refine h.frame.foldl fun t x ht => ?_
  split
  rename_i u e
  exact (ht.freeAnswer.of_snd_eq e).takeRequest

theorem Keeps.endService {i : InService} {status : ℕ} (h : Keeps s₀ s) : Keeps s₀ (endService s i status) :=
  h.frame.audit.answer.serveWaiting

/-! ### The functions of `Machine/Carriers` -/

theorem Keeps.takeTransfer {carrier : ℕ} {b : List Byte} {flashOk : Bool} (h : Keeps s₀ s) :
    Keeps s₀ (takeTransfer s carrier b flashOk) := by
  unfold Machine.takeTransfer
  extract_lets
  split
  · exact h
  · split
    · exact h.bump
    · split
      split
      · exact h.bump.bump.auditDamaged.putResponse
      · split
        rename_i u e
        exact (h.freeAnswer.of_snd_eq e).takeMessage

theorem Keeps.msMatch (h : Keeps s₀ s) : Keeps s₀ (msMatch s) := h.wake.ite h

theorem Keeps.msWrite {b : List Byte} {flashOk : Bool} (h : Keeps s₀ s) : Keeps s₀ (msWrite s b flashOk) := by
  unfold Machine.msWrite
  split
  · extract_lets t _ _
    have ht : Keeps s₀ t := h.msMatch
    exact ht.ite (ht.bump.ite ht.frame)
  · exact h.msMatch.takeTransfer.ite h

@[simp] theorem Keeps.execMsWriteTransfer {x : MsWrite} {flashOk : Bool} (h : Keeps s₀ s) :
    KeepsRes s₀ (execMsWriteTransfer x flashOk s) :=
  KeepsRes.whenSt h h.msWrite

theorem Keeps.afterDelivery {m : List Byte} (h : Keeps s₀ s) : Keeps s₀ (afterDelivery s m) := by
  unfold Machine.afterDelivery
  split
  exact h.ite (h.frame.ite (h.resetNow.ite h))

theorem Keeps.delivered {carrier status : ℕ} (h : Keeps s₀ s) : Keeps s₀ (delivered s carrier status) := by
  unfold Machine.delivered
  extract_lets
  split
  · exact h.setSerial.afterDelivery
  · exact h.setSerial
  · exact h

@[simp] theorem Keeps.execMsReadTransfer {x : MsRead} (h : Keeps s₀ s) : KeepsRes s₀ (execMsReadTransfer x s) := by
  unfold Machine.execMsReadTransfer
  extract_lets _ t
  have ht : Keeps s₀ t := h.msMatch
  split
  · exact KeepsRes.done h
  · split
    · exact KeepsRes.done h.msMatch.emit
    · split
      · split
        exact KeepsRes.done (ht.emit.delivered.ite ht.emit)
      · exact KeepsRes.done h

theorem Keeps.fpInstr {code : ℕ} {permitted : Bool} (h : Keeps s₀ s) : Keeps s₀ (fpInstr s code permitted) :=
  h.frame.ite h.frame.bump

@[simp] theorem Keeps.execBypass (h : Keeps s₀ s) : KeepsRes s₀ (execBypass s) := KeepsRes.whenSt h h.fpInstr
@[simp] theorem Keeps.execIdcode (h : Keeps s₀ s) : KeepsRes s₀ (execIdcode s) := KeepsRes.whenSt h h.fpInstr.emit

@[simp] theorem Keeps.execSamplePreload (h : Keeps s₀ s) : KeepsRes s₀ (execSamplePreload s) :=
  KeepsRes.whenSt h h.fpInstr

@[simp] theorem Keeps.execExtest (h : Keeps s₀ s) : KeepsRes s₀ (execExtest s) := KeepsRes.whenSt h h.fpInstr
@[simp] theorem Keeps.execCleip (h : Keeps s₀ s) : KeepsRes s₀ (execCleip s) := KeepsRes.whenSt h h.fpInstr

@[simp] theorem Keeps.execVendorDebug {code : BitVec 8} (h : Keeps s₀ s) : KeepsRes s₀ (execVendorDebug code s) :=
  (KeepsRes.done h).ite ((KeepsRes.done (h.fpInstr.ite h.fpInstr.emit)).ite (KeepsRes.done h.fpInstr))

@[simp] theorem Keeps.execTestLogicReset (h : Keeps s₀ s) : KeepsRes s₀ (execTestLogicReset s) :=
  KeepsRes.done h.frame

@[simp] theorem Keeps.execFpAppendByte {b : Byte} (h : Keeps s₀ s) : KeepsRes s₀ (execFpAppendByte b s) :=
  KeepsRes.whenSt h h.frame

@[simp] theorem Keeps.execFpStop {flashOk : Bool} (h : Keeps s₀ s) : KeepsRes s₀ (execFpStop flashOk s) :=
  (KeepsRes.done h).ite (KeepsRes.done (h.frame.takeTransfer.ite h.frame))

@[simp] theorem Keeps.execFpFetchByte (h : Keeps s₀ s) : KeepsRes s₀ (execFpFetchByte s) := by
  unfold Machine.execFpFetchByte
  split
  · exact KeepsRes.done h
  · extract_lets put
    have hput : ∀ (t : State), Keeps s₀ t → ∀ (v : ℕ) (rd : ℕ × List Byte), Keeps s₀ (put t v rd) :=
      fun _ ht _ _ => ht.frame.emit
    split
    · split
      exact KeepsRes.done (hput _ h _ _)
    · exact KeepsRes.done (hput _ h _ _)
    · exact KeepsRes.done ((hput _ h _ _).delivered.ite (hput _ h _ _))

theorem Keeps.arrive {buddy : Option (ℕ × ℕ)} {op : ℕ} {r : CleipReq} (h : Keeps s₀ s) :
    Keeps s₀ (arrive buddy op r s) := by
  unfold Machine.arrive
  split
  · exact h.takeMessage.ite h
  · exact (h.msWrite.ite ((h.msMatch.bump.ite h.msMatch.takeMessage).ite h)).ite ((h.bump.ite h.takeMessage).ite h)

theorem Keeps.request {mine : Bool} {buddy : Option (ℕ × ℕ)} {op : ℕ} {r : CleipReq} (h : Keeps s₀ s) :
    KeepsRes s₀ (request mine buddy op r s) :=
  (KeepsRes.whenSt h h.arrive).onUnit

theorem Keeps.rowWrite {mine : ℕ → Bool} {r : CleipReq} (h : Keeps s₀ s) : KeepsRes s₀ (rowWrite mine r s) :=
  h.request

theorem Keeps.serveStored (h : Keeps s₀ s) : Keeps s₀ (serveStored s) := by
  unfold Machine.serveStored
  split
  · exact h
  · extract_lets
    split
    rename_i t1 e
    exact (h.frame.drawNat.of_snd_eq e).takeTransfer

@[simp] theorem Keeps.execServiceable (h : Keeps s₀ s) : KeepsRes s₀ (execServiceable s) :=
  KeepsRes.whenSt h h.becomeServiceable.serveStored

/-! ### The functions of `Machine/Dma` -/

@[simp] theorem Keeps.execDoorbell {chan : ℕ} {addr : BitVec 40} (h : Keeps s₀ s) :
    KeepsRes s₀ (execDoorbell chan addr s) :=
  (KeepsRes.whenSt h h.ringDoorbell).onUnit

@[simp] theorem Keeps.execChanReset {chan : ℕ} (h : Keeps s₀ s) : KeepsRes s₀ (execChanReset chan s) :=
  (KeepsRes.whenSt h h.resetChan).onUnit

theorem Keeps.dmaOwnFault {ch status cur fa : ℕ} (h : Keeps s₀ s) : Keeps s₀ (dmaOwnFault s ch status cur fa) :=
  h.logFault.ite h

theorem Keeps.dmaTaskFault {ch status cur fa : ℕ} (h : Keeps s₀ s) : Keeps s₀ (dmaTaskFault s ch status cur fa) := by
  unfold Machine.dmaTaskFault
  split
  · exact h.strike.ite h.dmaOwnFault
  · split
    · exact h
    · extract_lets _ again _
      have hagain : Keeps s₀ again.1 := by
        unfold again
        split
        · split
          · exact h.reread
          · exact h
        · exact h
      exact hagain.runFault

theorem Keeps.haltChan {ch status fa : ℕ} (h : Keeps s₀ s) : Keeps s₀ (haltChan s ch status fa) := by
  unfold Machine.haltChan
  extract_lets _ t t1 t2 _ _ _ _
  have ht : Keeps s₀ t := h.setChan
  have ht1 : Keeps s₀ t1 := ht.bump.ite ht.bump
  have ht2 : Keeps s₀ t2 := ht1.bump.ite ht1
  exact (ht2.setDom.raiseEvent.ite ht2).dmaTaskFault.setChan

theorem Keeps.chanRead {ch a n : ℕ} (h : Keeps s₀ s) : Keeps s₀ (chanRead s ch a n).1 := by
  unfold Machine.chanRead
  split
  · exact h
  · exact h
  · split
    · exact h
    · split
      · rename_i s1 _ e
        exact h.devRead.of_fst_eq e
      · rename_i s1 _ _ e
        exact h.devRead.of_fst_eq e

theorem Keeps.chanWrite {ch a : ℕ} {b : List Byte} (h : Keeps s₀ s) : Keeps s₀ (chanWrite s ch a b).1 := by
  unfold Machine.chanWrite
  split
  · split
    · exact h
    · split
      · rename_i t e
        exact h.devQueue.of_fst_eq e
      · rename_i t _ _ e
        exact h.devQueue.of_fst_eq e
  · exact h

@[simp] theorem Keeps.execDmaDescriptorFetched {chan : ℕ} (h : Keeps s₀ s) :
    KeepsRes s₀ (execDmaDescriptorFetched chan s) := by
  unfold Machine.execDmaDescriptorFetched
  refine KeepsRes.onUnit ?_
  extract_lets
  split
  · exact KeepsRes.done h
  · refine KeepsRes.done ?_
    refine Keeps.settleAll ?_
    split
    · rename_i u _ _ e
      exact (h.chanRead.of_fst_eq e).haltChan
    · rename_i u _ e
      have hu : Keeps s₀ u := h.chanRead.of_fst_eq e
      exact hu.haltChan.ite (hu.setChan.writeBack.haltChan.ite hu.setChan)

theorem Keeps.readLines {held : Lines} {l : List ℕ} (h : Keeps s₀ s) : Keeps s₀ (readLines s held l).1 := by
  induction l generalizing s with
  | nil => exact h
  | cons n l ih =>
    unfold Machine.readLines
    extract_lets one
    have hone : Keeps s₀ one.1 := by
      unfold one
      split
      · exact h
      · exact h.devRead
    clear_value one
    split
    · exact hone
    · split
      rename_i u _ _ e
      exact ((ih hone).of_fst_eq e).fst

theorem Keeps.readSrc {ch : ℕ} {held : Lines} {a n : ℕ} (h : Keeps s₀ s) : Keeps s₀ (readSrc s ch held a n).1 := by
  unfold Machine.readSrc
  split
  · exact h
  · exact h
  · split
    · exact h
    · exact h
    · split
      · rename_i t _ _ _ e
        exact h.readLines.of_fst_eq e
      · rename_i t _ e
        exact h.readLines.of_fst_eq e

theorem Keeps.readSrcs {ch : ℕ} {held : Lines} {l : List (ℕ × ℕ)} (h : Keeps s₀ s) :
    Keeps s₀ (readSrcs s ch held l).1 := by
  induction l generalizing s held with
  | nil => exact h
  | cons x l ih =>
    rw [Machine.readSrcs]
    split
    · rename_i t _ _ _ e
      exact (h.readSrc.of_fst_eq e).fst
    · rename_i t _ _ e
      have ht : Keeps s₀ t := h.readSrc.of_fst_eq e
      split
      · rename_i u _ _ e'
        exact ((ih ht).of_fst_eq e').fst
      · rename_i u _ _ _ e'
        exact ((ih ht).of_fst_eq e').fst

theorem Keeps.looseBytes {ch : ℕ} {l : List Piece} (h : Keeps s₀ s) : Keeps s₀ (looseBytes s ch l) := by
  unfold Machine.looseBytes
  refine h.foldl fun t p ht => ?_
  split
  · split
    · exact ht
    · exact ht.addFree.setBytes
  · exact ht

theorem Keeps.noteMerge {ch : ℕ} (h : Keeps s₀ s) : Keeps s₀ (noteMerge s ch) := h.setChan

theorem Keeps.settlePieces {ch count : ℕ} {l : List Piece} (h : Keeps s₀ s) :
    Keeps s₀ (settlePieces s ch count l).1 := by
  induction l generalizing s count with
  | nil => exact h
  | cons p l ih =>
    rw [Machine.settlePieces]
    split
    · split
      · rename_i t e
        exact ih (h.settleRange.of_fst_eq e)
      · rename_i t _ _ e
        exact (h.settleRange.of_fst_eq e).noteMerge.looseBytes.fst
    · exact ih h

theorem Keeps.runFrom {ch : ℕ} {held : Lines} {count : ℕ} {all l : List Piece} (h : Keeps s₀ s) :
    Keeps s₀ (runFrom s ch held count all l).1 := by
  induction l generalizing s held count with
  | nil => exact h.settlePieces
  | cons p l ih =>
    rw [Machine.runFrom]
    split
    · rename_i t _ _ _ e
      exact (h.readSrcs.of_fst_eq e).looseBytes.fst
    · rename_i t _ _ e
      have ht : Keeps s₀ t := h.readSrcs.of_fst_eq e
      split
      · rename_i u _ _ e'
        have hu : Keeps s₀ u := ht.chanWrite.of_fst_eq e'
        exact (hu.ite hu.noteMerge).looseBytes.fst
      · rename_i u e'
        exact ih (ht.chanWrite.of_fst_eq e')

theorem Keeps.runPieces {ch : ℕ} {pieces : List Piece} (h : Keeps s₀ s) : Keeps s₀ (runPieces s ch pieces).1 :=
  h.runFrom

theorem Keeps.timeoutChan {ch a : ℕ} (h : Keeps s₀ s) : Keeps s₀ (timeoutChan s ch a) := by
  unfold Machine.timeoutChan
  extract_lets
  split
  · extract_lets
    split
    · exact h
    · split
      rename_i t _ _ _ e
      have ht : Keeps s₀ t := h.runPieces.of_fst_eq e
      exact ht.setChan.ite ht.looseBytes.setChan
  · exact h

theorem Keeps.transfer {ch op : ℕ} {pieces : Dd → List Piece} (h : Keeps s₀ s) :
    KeepsRes s₀ (transfer s ch op pieces) := by
  unfold Machine.transfer
  refine KeepsRes.onUnit ?_
  extract_lets
  split
  · extract_lets
    split
    · exact KeepsRes.done h
    · split
      rename_i t _ _ _ e
      exact KeepsRes.done (h.runPieces.of_fst_eq e).setChan.settleAll
  · exact KeepsRes.done h

@[simp] theorem Keeps.execDmaCopy {chan : ℕ} (h : Keeps s₀ s) : KeepsRes s₀ (execDmaCopy chan s) := h.transfer
@[simp] theorem Keeps.execDmaFill {chan : ℕ} (h : Keeps s₀ s) : KeepsRes s₀ (execDmaFill chan s) := h.transfer

@[simp] theorem Keeps.execDmaAntennaInterleave {chan : ℕ} (h : Keeps s₀ s) :
    KeepsRes s₀ (execDmaAntennaInterleave chan s) :=
  h.transfer

@[simp] theorem Keeps.execDmaAntennaDeinterleave {chan : ℕ} (h : Keeps s₀ s) :
    KeepsRes s₀ (execDmaAntennaDeinterleave chan s) :=
  h.transfer

@[simp] theorem Keeps.execDmaBitPlaneSplit {chan : ℕ} (h : Keeps s₀ s) : KeepsRes s₀ (execDmaBitPlaneSplit chan s) :=
  h.transfer

@[simp] theorem Keeps.execDmaBitPlaneMerge {chan : ℕ} (h : Keeps s₀ s) : KeepsRes s₀ (execDmaBitPlaneMerge chan s) :=
  h.transfer

@[simp] theorem Keeps.execDmaTransferEnd {chan : ℕ} (h : Keeps s₀ s) : KeepsRes s₀ (execDmaTransferEnd chan s) := by
  unfold Machine.execDmaTransferEnd
  refine KeepsRes.onUnit ?_
  extract_lets _
  split
  · split
    · exact KeepsRes.done h
    · split
      · exact KeepsRes.done h.addFree.haltChan.settleAll
      · split
        rename_i u _ e
        extract_lets t
        have ht : Keeps s₀ t := (h.addFree.writeBack.of_fst_eq e).bump
        refine KeepsRes.done (Keeps.settleAll ?_)
        split
        · exact ht.haltChan
        · split
          · exact ht.haltChan
          · exact ht.setChan.raiseEvent.ite ht.setChan
  · exact KeepsRes.done h

@[simp] theorem Keeps.execEndCheckReturn {chan : ℕ} (h : Keeps s₀ s) : KeepsRes s₀ (execEndCheckReturn chan s) := by
  unfold Machine.execEndCheckReturn
  refine KeepsRes.onUnit ?_
  extract_lets
  split
  · exact KeepsRes.done h
  · refine KeepsRes.done ?_
    refine Keeps.settleAll ?_
    split
    · rename_i u _ _ e
      exact (h.chanRead.of_fst_eq e).haltChan
    · rename_i u _ e
      have hu : Keeps s₀ u := h.chanRead.of_fst_eq e
      exact hu.setChan.ite hu.setChan

theorem Keeps.timeoutTo {who : Requester} {a : ℕ} (h : Keeps s₀ s) : Keeps s₀ (timeoutTo s who a) := by
  unfold Machine.timeoutTo
  split
  · extract_lets
    split
    · exact h.raisePrecise
    · split
      · exact h.setCore.ite h
      · exact h.lateFault.ite h
  · exact h.setCore.ite h
  · exact h.timeoutChan
  · exact h.haltChan.ite h
  · split
    · exact h.engineFault
    · exact h.lateError

@[simp] theorem Keeps.execInterconnectTimeout {who : Requester} {addr : ℕ} (h : Keeps s₀ s) :
    KeepsRes s₀ (execInterconnectTimeout who addr s) := by
  unfold Machine.execInterconnectTimeout
  refine KeepsRes.onUnit ?_
  extract_lets t
  have ht : Keeps s₀ t := h.timeoutTo
  split
  · exact KeepsRes.done h
  · refine KeepsRes.done ?_
    refine Keeps.settleAll ?_
    split
    · exact ht.loseIsland
    · exact ht

/-! ### The functions of `Machine/Rows` -/

theorem Keeps.writeOf {k : ℕ} {r : CleipReq} (h : Keeps s₀ s) : KeepsRes s₀ (writeOf k r s) := h.rowWrite
@[simp] theorem Keeps.execFwUpdateCmd {r : CleipReq} (h : Keeps s₀ s) : KeepsRes s₀ (execFwUpdateCmd r s) := h.writeOf
@[simp] theorem Keeps.execTakeoverCmd {r : CleipReq} (h : Keeps s₀ s) : KeepsRes s₀ (execTakeoverCmd r s) := h.writeOf

@[simp] theorem Keeps.execBuddyRelease {r : CleipReq} (h : Keeps s₀ s) : KeepsRes s₀ (execBuddyRelease r s) :=
  h.writeOf

@[simp] theorem Keeps.execBuddy {r : CleipReq} {answer : Option (ℕ × ℕ)} (h : Keeps s₀ s) :
    KeepsRes s₀ (execBuddy r answer s) :=
  h.request

@[simp] theorem Keeps.execRegionRestore {r : CleipReq} (h : Keeps s₀ s) : KeepsRes s₀ (execRegionRestore r s) :=
  h.writeOf

@[simp] theorem Keeps.execRegionRetire {r : CleipReq} (h : Keeps s₀ s) : KeepsRes s₀ (execRegionRetire r s) :=
  h.writeOf

@[simp] theorem Keeps.execOvercastMask {r : CleipReq} (h : Keeps s₀ s) : KeepsRes s₀ (execOvercastMask r s) :=
  h.writeOf

@[simp] theorem Keeps.execRegionRestoreDone {region : ℕ} {passed : Bool} (h : Keeps s₀ s) :
    KeepsRes s₀ (execRegionRestoreDone region passed s) := by
  unfold Machine.execRegionRestoreDone
  split
  rename_i t e
  have ht : Keeps s₀ t := h.restoreTested.of_snd_eq e
  extract_lets i
  refine KeepsRes.onUnit ?_
  refine KeepsRes.whenSt h ?_
  refine Keeps.settleAll ?_
  clear_value i
  split
  · exact ht.endService
  · exact ht

@[simp] theorem Keeps.execQueueReset {r : CleipReq} (h : Keeps s₀ s) : KeepsRes s₀ (execQueueReset r s) := h.writeOf
@[simp] theorem Keeps.execQueueConfig {r : CleipReq} (h : Keeps s₀ s) : KeepsRes s₀ (execQueueConfig r s) := h.writeOf
@[simp] theorem Keeps.execPoolConfig {r : CleipReq} (h : Keeps s₀ s) : KeepsRes s₀ (execPoolConfig r s) := h.rowWrite

@[simp] theorem Keeps.execResultStoreConfig {r : CleipReq} (h : Keeps s₀ s) :
    KeepsRes s₀ (execResultStoreConfig r s) :=
  h.rowWrite

@[simp] theorem Keeps.execCellConfig {r : CleipReq} (h : Keeps s₀ s) : KeepsRes s₀ (execCellConfig r s) := h.writeOf
@[simp] theorem Keeps.execMigrateCmd {r : CleipReq} (h : Keeps s₀ s) : KeepsRes s₀ (execMigrateCmd r s) := h.writeOf
@[simp] theorem Keeps.execAdmitProbe {r : CleipReq} (h : Keeps s₀ s) : KeepsRes s₀ (execAdmitProbe r s) := h.writeOf
@[simp] theorem Keeps.execKernelTable {r : CleipReq} (h : Keeps s₀ s) : KeepsRes s₀ (execKernelTable r s) := h.writeOf

@[simp] theorem Keeps.execPolicyBound {r : CleipReq} (h : Keeps s₀ s) : KeepsRes s₀ (execPolicyBound r s) :=
  h.rowWrite

@[simp] theorem Keeps.execFastFillDone {what : ℕ} (h : Keeps s₀ s) : KeepsRes s₀ (execFastFillDone what s) :=
  KeepsRes.whenSt h ((h.frame.foldl fun _ _ ht => ht.fastFill).foldl fun _ _ ht => ht.endService).settleAll

@[simp] theorem Keeps.execObjectWrite {r : CleipReq} (h : Keeps s₀ s) : KeepsRes s₀ (execObjectWrite r s) :=
  h.rowWrite

@[simp] theorem Keeps.execCleipRead {r : CleipReq} (h : Keeps s₀ s) : KeepsRes s₀ (execCleipRead r s) := h.request

@[simp] theorem Keeps.execCleipReadBlock {r : CleipReq} (h : Keeps s₀ s) : KeepsRes s₀ (execCleipReadBlock r s) :=
  h.request

@[simp] theorem Keeps.execCleipWriteBlock {r : CleipReq} (h : Keeps s₀ s) : KeepsRes s₀ (execCleipWriteBlock r s) :=
  h.request

@[simp] theorem Keeps.execCarrierIdWrite {r : CleipReq} (h : Keeps s₀ s) : KeepsRes s₀ (execCarrierIdWrite r s) :=
  h.rowWrite

@[simp] theorem Keeps.execSubscribeCancel {r : CleipReq} (h : Keeps s₀ s) : KeepsRes s₀ (execSubscribeCancel r s) :=
  h.request

@[simp] theorem Keeps.execSubscribeOnChange {r : CleipReq} (h : Keeps s₀ s) :
    KeepsRes s₀ (execSubscribeOnChange r s) :=
  h.request

@[simp] theorem Keeps.execSubscribeOnEvent {r : CleipReq} (h : Keeps s₀ s) : KeepsRes s₀ (execSubscribeOnEvent r s) :=
  h.request

@[simp] theorem Keeps.execSubscriptionInterval {n : ℕ} (h : Keeps s₀ s) :
    KeepsRes s₀ (execSubscriptionInterval n s) := by
  unfold Machine.execSubscriptionInterval
  split
  · exact KeepsRes.done h
  · exact KeepsRes.whenSt h h.compareSub

@[simp] theorem Keeps.execSubLeaseLapse {n : ℕ} (h : Keeps s₀ s) : KeepsRes s₀ (execSubLeaseLapse n s) := by
  unfold Machine.execSubLeaseLapse
  split
  · exact KeepsRes.done h
  · extract_lets _ _ t _
    have ht : Keeps s₀ t := h.foldl fun _ _ ht1 => ht1.sendAt.bump
    exact KeepsRes.whenSt h ht.frame

@[simp] theorem Keeps.execCleipBlockTimeout {key : ℕ} (h : Keeps s₀ s) :
    KeepsRes s₀ (execCleipBlockTimeout key s) := by
  unfold Machine.execCleipBlockTimeout
  split
  · exact KeepsRes.done h
  · exact KeepsRes.whenSt h h.closeBlock.audit.bump

@[simp] theorem Keeps.execCleipReplayHoldExpiry {src : CleipSrc} {tid : ℕ} (h : Keeps s₀ s) :
    KeepsRes s₀ (execCleipReplayHoldExpiry src tid s) :=
  KeepsRes.done h.frame

@[simp] theorem Keeps.execMakerLockBlow {r : CleipReq} (h : Keeps s₀ s) : KeepsRes s₀ (execMakerLockBlow r s) :=
  h.writeOf

@[simp] theorem Keeps.execAuditExported {r : CleipReq} (h : Keeps s₀ s) : KeepsRes s₀ (execAuditExported r s) :=
  h.writeOf

@[simp] theorem Keeps.execKeyLoadPlain {r : CleipReq} (h : Keeps s₀ s) : KeepsRes s₀ (execKeyLoadPlain r s) :=
  h.writeOf

@[simp] theorem Keeps.execKeyLoadWrapped {r : CleipReq} (h : Keeps s₀ s) : KeepsRes s₀ (execKeyLoadWrapped r s) :=
  h.writeOf

@[simp] theorem Keeps.execKeyErase {r : CleipReq} (h : Keeps s₀ s) : KeepsRes s₀ (execKeyErase r s) := h.writeOf
@[simp] theorem Keeps.execCipherLock {r : CleipReq} (h : Keeps s₀ s) : KeepsRes s₀ (execCipherLock r s) := h.writeOf

@[simp] theorem Keeps.execCipherLockBoot {r : CleipReq} (h : Keeps s₀ s) : KeepsRes s₀ (execCipherLockBoot r s) :=
  h.writeOf

@[simp] theorem Keeps.execConfigBackupRestore {r : CleipReq} (h : Keeps s₀ s) :
    KeepsRes s₀ (execConfigBackupRestore r s) :=
  h.writeOf

@[simp] theorem Keeps.execFwImage {r : CleipReq} (h : Keeps s₀ s) : KeepsRes s₀ (execFwImage r s) := h.writeOf

@[simp] theorem Keeps.execConfigBackupRebuild (h : Keeps s₀ s) : KeepsRes s₀ (execConfigBackupRebuild s) := by
  unfold Machine.execConfigBackupRebuild
  extract_lets _ t _ _ t1
  have ht : Keeps s₀ t := h.frame
  have ht1 : Keeps s₀ t1 := ht.frame
  split
  rename_i t2 _ e
  have ht2 : Keeps s₀ t2 := by
    refine Keeps.of_fst_eq ?_ e
    split
    · exact ht1
    · exact ht1.useCipher.cipherRun
  exact KeepsRes.whenSt h (ht2.frame.ite ht2)

@[simp] theorem Keeps.execNbConfigWrite {r : CleipReq} (h : Keeps s₀ s) : KeepsRes s₀ (execNbConfigWrite r s) :=
  h.rowWrite

@[simp] theorem Keeps.execGroupEnable {r : CleipReq} (h : Keeps s₀ s) : KeepsRes s₀ (execGroupEnable r s) := h.writeOf

@[simp] theorem Keeps.execLaneCmdSlip {r : CleipReq} (h : Keeps s₀ s) : KeepsRes s₀ (execLaneCmdSlip r s) :=
  h.rowWrite

@[simp] theorem Keeps.execLaneCmdDrain {r : CleipReq} (h : Keeps s₀ s) : KeepsRes s₀ (execLaneCmdDrain r s) :=
  h.rowWrite

@[simp] theorem Keeps.execLaneCmdRestore {r : CleipReq} (h : Keeps s₀ s) : KeepsRes s₀ (execLaneCmdRestore r s) :=
  h.rowWrite

@[simp] theorem Keeps.execLaneConfig {r : CleipReq} (h : Keeps s₀ s) : KeepsRes s₀ (execLaneConfig r s) := h.writeOf
@[simp] theorem Keeps.execLinkConfig {r : CleipReq} (h : Keeps s₀ s) : KeepsRes s₀ (execLinkConfig r s) := h.writeOf

@[simp] theorem Keeps.execTdContainers {r : CleipReq} (h : Keeps s₀ s) : KeepsRes s₀ (execTdContainers r s) :=
  h.writeOf

@[simp] theorem Keeps.execAnvilPoolRole {r : CleipReq} (h : Keeps s₀ s) : KeepsRes s₀ (execAnvilPoolRole r s) :=
  h.writeOf

@[simp] theorem Keeps.execFhCell {r : CleipReq} (h : Keeps s₀ s) : KeepsRes s₀ (execFhCell r s) := h.writeOf
@[simp] theorem Keeps.execTdLanding {r : CleipReq} (h : Keeps s₀ s) : KeepsRes s₀ (execTdLanding r s) := h.writeOf
@[simp] theorem Keeps.execDramConfig {r : CleipReq} (h : Keeps s₀ s) : KeepsRes s₀ (execDramConfig r s) := h.writeOf

@[simp] theorem Keeps.execTimingSetWrite {r : CleipReq} (h : Keeps s₀ s) : KeepsRes s₀ (execTimingSetWrite r s) :=
  h.rowWrite

@[simp] theorem Keeps.execDramDelays {r : CleipReq} (h : Keeps s₀ s) : KeepsRes s₀ (execDramDelays r s) := h.writeOf
@[simp] theorem Keeps.execDramFreqCmd {r : CleipReq} (h : Keeps s₀ s) : KeepsRes s₀ (execDramFreqCmd r s) := h.writeOf
@[simp] theorem Keeps.execTimeSet {r : CleipReq} (h : Keeps s₀ s) : KeepsRes s₀ (execTimeSet r s) := h.writeOf
@[simp] theorem Keeps.execAdjust {r : CleipReq} (h : Keeps s₀ s) : KeepsRes s₀ (execAdjust r s) := h.writeOf
@[simp] theorem Keeps.execIncrement {r : CleipReq} (h : Keeps s₀ s) : KeepsRes s₀ (execIncrement r s) := h.writeOf

@[simp] theorem Keeps.execActiveDomain {r : CleipReq} (h : Keeps s₀ s) : KeepsRes s₀ (execActiveDomain r s) :=
  h.writeOf

@[simp] theorem Keeps.execTimeRefSel {r : CleipReq} (h : Keeps s₀ s) : KeepsRes s₀ (execTimeRefSel r s) := h.writeOf
@[simp] theorem Keeps.execPtpDomain {r : CleipReq} (h : Keeps s₀ s) : KeepsRes s₀ (execPtpDomain r s) := h.rowWrite
@[simp] theorem Keeps.execTcDomains {r : CleipReq} (h : Keeps s₀ s) : KeepsRes s₀ (execTcDomains r s) := h.writeOf
@[simp] theorem Keeps.execModuleMap {r : CleipReq} (h : Keeps s₀ s) : KeepsRes s₀ (execModuleMap r s) := h.writeOf

@[simp] theorem Keeps.execOpticsCmdDrain {r : CleipReq} (h : Keeps s₀ s) : KeepsRes s₀ (execOpticsCmdDrain r s) :=
  h.rowWrite

@[simp] theorem Keeps.execOpticsCmdRestore {r : CleipReq} (h : Keeps s₀ s) : KeepsRes s₀ (execOpticsCmdRestore r s) :=
  h.rowWrite

@[simp] theorem Keeps.execPowerTarget {r : CleipReq} (h : Keeps s₀ s) : KeepsRes s₀ (execPowerTarget r s) := h.writeOf
@[simp] theorem Keeps.execDeepCmd {r : CleipReq} (h : Keeps s₀ s) : KeepsRes s₀ (execDeepCmd r s) := h.writeOf

@[simp] theorem Keeps.execResetCmdWarm {r : CleipReq} (h : Keeps s₀ s) : KeepsRes s₀ (execResetCmdWarm r s) :=
  h.rowWrite

@[simp] theorem Keeps.execResetCmdCold {r : CleipReq} (h : Keeps s₀ s) : KeepsRes s₀ (execResetCmdCold r s) :=
  h.rowWrite

/-! ### The functions of `Machine/Scalar` -/

theorem Keeps.alu {c : ℕ} {f : AFmt} {op : BitVec 32 → BitVec 32 → BitVec 32 × Bool} (h : Keeps s₀ s) :
    KeepsRes s₀ (alu c f s op) :=
  h.issue

theorem Keeps.alu1 {c : ℕ} {f : AFmt} {op : BitVec 32 → BitVec 32 × Bool} (h : Keeps s₀ s) :
    KeepsRes s₀ (alu1 c f s op) :=
  h.issue

theorem Keeps.aluSh {c : ℕ} {f : AFmt} {op : BitVec 32 → ℕ → BitVec 32 × Bool} (h : Keeps s₀ s) :
    KeepsRes s₀ (aluSh c f s op) :=
  h.issue

theorem Keeps.aluI {c : ℕ} {f : IFmt} {op : BitVec 32 → BitVec 32} (h : Keeps s₀ s) : KeepsRes s₀ (aluI c f s op) :=
  h.issue

@[simp] theorem Keeps.execMovc {c : ℕ} {stop : Bool} {d : BitVec 5} {ctrl : BitVec 10} (h : Keeps s₀ s) :
    KeepsRes s₀ (execMovc c stop d ctrl s) :=
  h.issueM

@[simp] theorem Keeps.execMovtc {c : ℕ} {stop : Bool} {a : BitVec 5} {ctrl : BitVec 10} (h : Keeps s₀ s) :
    KeepsRes s₀ (execMovtc c stop a ctrl s) :=
  h.issueM

@[simp] theorem Keeps.execJr {c : ℕ} {stop : Bool} {a : BitVec 5} (h : Keeps s₀ s) :
    KeepsRes s₀ (execJr c stop a s) := h.issue

@[simp] theorem Keeps.execAdd {c : ℕ} {f : AFmt} (h : Keeps s₀ s) : KeepsRes s₀ (execAdd c f s) := h.alu
@[simp] theorem Keeps.execSub {c : ℕ} {f : AFmt} (h : Keeps s₀ s) : KeepsRes s₀ (execSub c f s) := h.alu
@[simp] theorem Keeps.execAdds {c : ℕ} {f : AFmt} (h : Keeps s₀ s) : KeepsRes s₀ (execAdds c f s) := h.alu
@[simp] theorem Keeps.execSubs {c : ℕ} {f : AFmt} (h : Keeps s₀ s) : KeepsRes s₀ (execSubs c f s) := h.alu
@[simp] theorem Keeps.execAnd {c : ℕ} {f : AFmt} (h : Keeps s₀ s) : KeepsRes s₀ (execAnd c f s) := h.alu
@[simp] theorem Keeps.execOr {c : ℕ} {f : AFmt} (h : Keeps s₀ s) : KeepsRes s₀ (execOr c f s) := h.alu
@[simp] theorem Keeps.execXor {c : ℕ} {f : AFmt} (h : Keeps s₀ s) : KeepsRes s₀ (execXor c f s) := h.alu
@[simp] theorem Keeps.execAndn {c : ℕ} {f : AFmt} (h : Keeps s₀ s) : KeepsRes s₀ (execAndn c f s) := h.alu
@[simp] theorem Keeps.execSll {c : ℕ} {f : AFmt} (h : Keeps s₀ s) : KeepsRes s₀ (execSll c f s) := h.alu
@[simp] theorem Keeps.execSrl {c : ℕ} {f : AFmt} (h : Keeps s₀ s) : KeepsRes s₀ (execSrl c f s) := h.alu
@[simp] theorem Keeps.execSra {c : ℕ} {f : AFmt} (h : Keeps s₀ s) : KeepsRes s₀ (execSra c f s) := h.alu
@[simp] theorem Keeps.execSlt {c : ℕ} {f : AFmt} (h : Keeps s₀ s) : KeepsRes s₀ (execSlt c f s) := h.alu
@[simp] theorem Keeps.execSltu {c : ℕ} {f : AFmt} (h : Keeps s₀ s) : KeepsRes s₀ (execSltu c f s) := h.alu
@[simp] theorem Keeps.execMin {c : ℕ} {f : AFmt} (h : Keeps s₀ s) : KeepsRes s₀ (execMin c f s) := h.alu
@[simp] theorem Keeps.execMax {c : ℕ} {f : AFmt} (h : Keeps s₀ s) : KeepsRes s₀ (execMax c f s) := h.alu
@[simp] theorem Keeps.execMinu {c : ℕ} {f : AFmt} (h : Keeps s₀ s) : KeepsRes s₀ (execMinu c f s) := h.alu
@[simp] theorem Keeps.execMaxu {c : ℕ} {f : AFmt} (h : Keeps s₀ s) : KeepsRes s₀ (execMaxu c f s) := h.alu
@[simp] theorem Keeps.execMul {c : ℕ} {f : AFmt} (h : Keeps s₀ s) : KeepsRes s₀ (execMul c f s) := h.alu
@[simp] theorem Keeps.execMulh {c : ℕ} {f : AFmt} (h : Keeps s₀ s) : KeepsRes s₀ (execMulh c f s) := h.alu
@[simp] theorem Keeps.execMulhu {c : ℕ} {f : AFmt} (h : Keeps s₀ s) : KeepsRes s₀ (execMulhu c f s) := h.alu
@[simp] theorem Keeps.execMuls {c : ℕ} {f : AFmt} (h : Keeps s₀ s) : KeepsRes s₀ (execMuls c f s) := h.alu
@[simp] theorem Keeps.execAbs {c : ℕ} {f : AFmt} (h : Keeps s₀ s) : KeepsRes s₀ (execAbs c f s) := h.alu1
@[simp] theorem Keeps.execAbss {c : ℕ} {f : AFmt} (h : Keeps s₀ s) : KeepsRes s₀ (execAbss c f s) := h.alu1
@[simp] theorem Keeps.execNeg {c : ℕ} {f : AFmt} (h : Keeps s₀ s) : KeepsRes s₀ (execNeg c f s) := h.alu1
@[simp] theorem Keeps.execNegs {c : ℕ} {f : AFmt} (h : Keeps s₀ s) : KeepsRes s₀ (execNegs c f s) := h.alu1
@[simp] theorem Keeps.execSlls {c : ℕ} {f : AFmt} (h : Keeps s₀ s) : KeepsRes s₀ (execSlls c f s) := h.alu
@[simp] theorem Keeps.execAddi {c : ℕ} {f : IFmt} (h : Keeps s₀ s) : KeepsRes s₀ (execAddi c f s) := h.aluI
@[simp] theorem Keeps.execAndi {c : ℕ} {f : IFmt} (h : Keeps s₀ s) : KeepsRes s₀ (execAndi c f s) := h.aluI
@[simp] theorem Keeps.execOri {c : ℕ} {f : IFmt} (h : Keeps s₀ s) : KeepsRes s₀ (execOri c f s) := h.aluI
@[simp] theorem Keeps.execXori {c : ℕ} {f : IFmt} (h : Keeps s₀ s) : KeepsRes s₀ (execXori c f s) := h.aluI
@[simp] theorem Keeps.execLui {c : ℕ} {f : IFmt} (h : Keeps s₀ s) : KeepsRes s₀ (execLui c f s) := h.aluI

@[simp] theorem Keeps.execSllImmediate {c : ℕ} {f : AFmt} (h : Keeps s₀ s) : KeepsRes s₀ (execSllImmediate c f s) :=
  h.aluSh

@[simp] theorem Keeps.execSrlImmediate {c : ℕ} {f : AFmt} (h : Keeps s₀ s) : KeepsRes s₀ (execSrlImmediate c f s) :=
  h.aluSh

@[simp] theorem Keeps.execSraImmediate {c : ℕ} {f : AFmt} (h : Keeps s₀ s) : KeepsRes s₀ (execSraImmediate c f s) :=
  h.aluSh

@[simp] theorem Keeps.execSllsImmediate {c : ℕ} {f : AFmt} (h : Keeps s₀ s) : KeepsRes s₀ (execSllsImmediate c f s) :=
  h.aluSh

@[simp] theorem Keeps.execMac {c : ℕ} {f : AccFmt} (h : Keeps s₀ s) : KeepsRes s₀ (execMac c f s) := h.issue
@[simp] theorem Keeps.execMsu {c : ℕ} {f : AccFmt} (h : Keeps s₀ s) : KeepsRes s₀ (execMsu c f s) := h.issue
@[simp] theorem Keeps.execMachh {c : ℕ} {f : AccFmt} (h : Keeps s₀ s) : KeepsRes s₀ (execMachh c f s) := h.issue
@[simp] theorem Keeps.execAccld {c : ℕ} {f : AccFmt} (h : Keeps s₀ s) : KeepsRes s₀ (execAccld c f s) := h.issue
@[simp] theorem Keeps.execAccx {c : ℕ} {f : AccFmt} (h : Keeps s₀ s) : KeepsRes s₀ (execAccx c f s) := h.issue
@[simp] theorem Keeps.execAccx16 {c : ℕ} {f : AccFmt} (h : Keeps s₀ s) : KeepsRes s₀ (execAccx16 c f s) := h.issue
@[simp] theorem Keeps.execAccclr {c : ℕ} {f : AccFmt} (h : Keeps s₀ s) : KeepsRes s₀ (execAccclr c f s) := h.issue

theorem Keeps.keepIx {c : ℕ} {f : IxFmt} {beyond : BitVec 32 → BitVec 32 → Bool} (h : Keeps s₀ s) :
    KeepsRes s₀ (keepIx c f s beyond) :=
  h.issue

@[simp] theorem Keeps.execMaxix {c : ℕ} {f : IxFmt} (h : Keeps s₀ s) : KeepsRes s₀ (execMaxix c f s) := h.keepIx
@[simp] theorem Keeps.execMinix {c : ℕ} {f : IxFmt} (h : Keeps s₀ s) : KeepsRes s₀ (execMinix c f s) := h.keepIx
@[simp] theorem Keeps.execMaxux {c : ℕ} {f : IxFmt} (h : Keeps s₀ s) : KeepsRes s₀ (execMaxux c f s) := h.keepIx
@[simp] theorem Keeps.execMinux {c : ℕ} {f : IxFmt} (h : Keeps s₀ s) : KeepsRes s₀ (execMinux c f s) := h.keepIx

theorem Keeps.blockExp {c : ℕ} {f : IxFmt} {bad : Bool} {op : Core → BitVec 32 × Bool} (h : Keeps s₀ s) :
    KeepsRes s₀ (blockExp c f s bad op) :=
  h.issue

@[simp] theorem Keeps.execBexp {c : ℕ} {f : IxFmt} (h : Keeps s₀ s) : KeepsRes s₀ (execBexp c f s) := h.blockExp
@[simp] theorem Keeps.execBexpm {c : ℕ} {f : IxFmt} (h : Keeps s₀ s) : KeepsRes s₀ (execBexpm c f s) := h.blockExp
@[simp] theorem Keeps.execBexpa {c : ℕ} {f : IxFmt} (h : Keeps s₀ s) : KeepsRes s₀ (execBexpa c f s) := h.blockExp
@[simp] theorem Keeps.execSat16 {c : ℕ} {f : IxFmt} (h : Keeps s₀ s) : KeepsRes s₀ (execSat16 c f s) := h.blockExp

theorem Keeps.branchIf {c : ℕ} {stop : Bool} {a : BitVec 5} {off : BitVec 18} {test : BitVec 32 → Bool}
    (h : Keeps s₀ s) :
    KeepsRes s₀ (branchIf c stop a off s test) :=
  h.issue

@[simp] theorem Keeps.execBeqz {c : ℕ} {stop : Bool} {a : BitVec 5} {off : BitVec 18} (h : Keeps s₀ s) :
    KeepsRes s₀ (execBeqz c stop a off s) :=
  h.branchIf

@[simp] theorem Keeps.execBnez {c : ℕ} {stop : Bool} {a : BitVec 5} {off : BitVec 18} (h : Keeps s₀ s) :
    KeepsRes s₀ (execBnez c stop a off s) :=
  h.branchIf

@[simp] theorem Keeps.execBltz {c : ℕ} {stop : Bool} {a : BitVec 5} {off : BitVec 18} (h : Keeps s₀ s) :
    KeepsRes s₀ (execBltz c stop a off s) :=
  h.branchIf

@[simp] theorem Keeps.execBgez {c : ℕ} {stop : Bool} {a : BitVec 5} {off : BitVec 18} (h : Keeps s₀ s) :
    KeepsRes s₀ (execBgez c stop a off s) :=
  h.branchIf

@[simp] theorem Keeps.execBgtz {c : ℕ} {stop : Bool} {a : BitVec 5} {off : BitVec 18} (h : Keeps s₀ s) :
    KeepsRes s₀ (execBgtz c stop a off s) :=
  h.branchIf

@[simp] theorem Keeps.execBlez {c : ℕ} {stop : Bool} {a : BitVec 5} {off : BitVec 18} (h : Keeps s₀ s) :
    KeepsRes s₀ (execBlez c stop a off s) :=
  h.branchIf

@[simp] theorem Keeps.execBr {c : ℕ} {stop : Bool} {off : BitVec 25} (h : Keeps s₀ s) :
    KeepsRes s₀ (execBr c stop off s) :=
  h.issue

@[simp] theorem Keeps.execBal {c : ℕ} {stop : Bool} {off : BitVec 25} (h : Keeps s₀ s) :
    KeepsRes s₀ (execBal c stop off s) :=
  h.issue

@[simp] theorem Keeps.execLoop {c : ℕ} {stop : Bool} {a : BitVec 5} {lvl : Bool} {last : BitVec 20} (h : Keeps s₀ s) :
    KeepsRes s₀ (execLoop c stop a lvl last s) :=
  h.issue

@[simp] theorem Keeps.execLd {c : ℕ} {f : MFmt} (h : Keeps s₀ s) : KeepsRes s₀ (execLd c f s) := h.issue
@[simp] theorem Keeps.execSt {c : ℕ} {f : MFmt} (h : Keeps s₀ s) : KeepsRes s₀ (execSt c f s) := h.issueM

@[simp] theorem Keeps.execCbset {c : ℕ} {stop : Bool} {n : BitVec 3} {a b : BitVec 5} {res : BitVec 13}
    (h : Keeps s₀ s) :
    KeepsRes s₀ (execCbset c stop n a b res s) :=
  h.issue

theorem Keeps.system {c : ℕ} {f : IFmt} {i : Iss} (h : Keeps s₀ s) : KeepsRes s₀ (system c f s i) := h.issue
@[simp] theorem Keeps.execNop {c : ℕ} {f : IFmt} (h : Keeps s₀ s) : KeepsRes s₀ (execNop c f s) := h.system
@[simp] theorem Keeps.execTend {c : ℕ} {f : IFmt} (h : Keeps s₀ s) : KeepsRes s₀ (execTend c f s) := h.system
@[simp] theorem Keeps.execFence {c : ℕ} {f : IFmt} (h : Keeps s₀ s) : KeepsRes s₀ (execFence c f s) := h.system
@[simp] theorem Keeps.execTrap {c : ℕ} {f : IFmt} (h : Keeps s₀ s) : KeepsRes s₀ (execTrap c f s) := h.system

@[simp] theorem Keeps.execPostedStoreError {c ea cause : ℕ} (h : Keeps s₀ s) :
    KeepsRes s₀ (execPostedStoreError c ea cause s) := by
  unfold Machine.execPostedStoreError
  refine KeepsRes.onUnit ?_
  refine KeepsRes.done ?_
  extract_lets
  split
  · exact h
  · exact h.setCore.ite h

@[simp] theorem Keeps.execWatchdogExpiry {c : ℕ} (h : Keeps s₀ s) : KeepsRes s₀ (execWatchdogExpiry c s) := by
  unfold Machine.execWatchdogExpiry
  refine KeepsRes.onUnit ?_
  refine KeepsRes.done ?_
  extract_lets
  split
  · exact h.lateFault
  · exact h.takeExc.ite h

/-! ### The functions of `Machine/Sched` -/

theorem Keeps.admitBest {j : Job} (h : Keeps s₀ s) : Keeps s₀ (admitBest s j) := by
  unfold Machine.admitBest
  split
  · exact h.setJob
  · exact (h.setJob.ite h.setJob.bump).switchOpp

theorem Keeps.admitJob {j : Job} (h : Keeps s₀ s) : Keeps s₀ (admitJob s j) := by
  unfold Machine.admitJob
  split
  · split
    · exact h.chargeSlot.setJob.bump.switchOpp
    · exact h.setJob.setCellSt.bump.admitBest
  · exact h.admitBest

@[simp] theorem Keeps.execAdmission {q : ℕ} {seq : BitVec 32} (h : Keeps s₀ s) :
    KeepsRes s₀ (execAdmission q seq s) := by
  unfold Machine.execAdmission
  split
  · exact KeepsRes.done h
  · exact KeepsRes.whenSt h h.admitJob.trackReady

@[simp] theorem Keeps.execJobDeadline {q : ℕ} {seq : BitVec 32} (h : Keeps s₀ s) :
    KeepsRes s₀ (execJobDeadline q seq s) := by
  unfold Machine.execJobDeadline
  split
  · exact KeepsRes.done h
  · split
    · exact KeepsRes.done h
    · split
      · exact KeepsRes.done h.finalise.settleAll
      · exact (KeepsRes.done h).ite ((KeepsRes.done h.finalise.settleAll).ite (KeepsRes.done h.bankAll.setJob))

@[simp] theorem Keeps.execOverrunMark {t : TaskRef} (h : Keeps s₀ s) : KeepsRes s₀ (execOverrunMark t s) := by
  unfold Machine.execOverrunMark
  split
  · exact KeepsRes.done h
  · split
    · exact KeepsRes.done h
    · exact KeepsRes.whenSt h h.bankAll.setTask.bump

@[simp] theorem Keeps.execLearnPeriod (h : Keeps s₀ s) : KeepsRes s₀ (execLearnPeriod s) := KeepsRes.whenSt h h.frame
theorem Keeps.dvfsCluster {k : ℕ} (h : Keeps s₀ s) : Keeps s₀ (dvfsCluster s k) := h.ite h.switchOpp.setCluster
theorem Keeps.dvfsEngines (h : Keeps s₀ s) : Keeps s₀ (dvfsEngines s) := h.frame

@[simp] theorem Keeps.execDvfsPeriod (h : Keeps s₀ s) : KeepsRes s₀ (execDvfsPeriod s) := by
  unfold Machine.execDvfsPeriod
  refine KeepsRes.whenSt h ?_
  extract_lets t
  have ht : Keeps s₀ t := (h.foldl fun _ _ hs1 => hs1.dvfsCluster).dvfsEngines
  exact ht.frame.evalMigration.reOvercast

@[simp] theorem Keeps.execThermalCeiling {k : ℕ} {temp : ℤ} (h : Keeps s₀ s) :
    KeepsRes s₀ (execThermalCeiling k temp s) :=
  (KeepsRes.whenSt h (h.setCluster.switchOpp.ite h.setCluster).settle).onUnit

@[simp] theorem Keeps.execThermalMigrate {k : ℕ} (h : Keeps s₀ s) : KeepsRes s₀ (execThermalMigrate k s) :=
  (KeepsRes.whenSt h h.thermalOne).onUnit

@[simp] theorem Keeps.execMigrationSwitch {cell : ℕ} (h : Keeps s₀ s) : KeepsRes s₀ (execMigrationSwitch cell s) := by
  unfold Machine.execMigrationSwitch
  refine KeepsRes.onUnit ?_
  split
  · exact KeepsRes.done h
  · exact KeepsRes.whenSt h h.switchCell.settle

@[simp] theorem Keeps.execOppSwitchDone {k : ℕ} (h : Keeps s₀ s) : KeepsRes s₀ (execOppSwitchDone k s) := by
  unfold Machine.execOppSwitchDone
  refine KeepsRes.onUnit ?_
  split
  · exact KeepsRes.done h
  · exact KeepsRes.done h.setClock

/-! ### The functions of `Machine/Vector` -/

theorem Keeps.vissue {c : ℕ} {f : VFmt} {k : TyOk} {regs : List (BitVec 5 × Bool)} {mk : Core → ℕ → Iss}
    (h : Keeps s₀ s) :
    KeepsRes s₀ (vissue c f s k regs mk) :=
  h.issue

theorem Keeps.vbin {c : ℕ} {sc : Bool} {f : VFmt} {k : TyOk} {op : VTy → ℕ → ℕ → ℕ × Bool} (h : Keeps s₀ s) :
    KeepsRes s₀ (vbin c sc f s k op) :=
  h.vissue

theorem Keeps.vun {c : ℕ} {f : VFmt} {k : TyOk} {op : VTy → ℕ → ℕ → ℕ × Bool} (h : Keeps s₀ s) :
    KeepsRes s₀ (vun c f s k op) :=
  h.vissue

theorem Keeps.vshift {c : ℕ} {sc : Bool} {f : VFmt} {op : ℕ → ℕ → ℕ → ℕ × Bool} (h : Keeps s₀ s) :
    KeepsRes s₀ (vshift c sc f s op) :=
  h.vissue

theorem Keeps.vmove {c : ℕ} {sc : Bool} {f : VFmt} (h : Keeps s₀ s) : KeepsRes s₀ (vmove c sc f s) := h.vissue

theorem Keeps.vacc {c : ℕ} {f : VFmt} {k : TyOk} {op : VTy → ℕ → ℕ → ℕ → ℕ × Bool} (h : Keeps s₀ s) :
    KeepsRes s₀ (vacc c f s k op) :=
  h.vissue

theorem Keeps.vwide {c : ℕ} {f : VFmt} {k : TyOk} {op : VTy → ℕ → ℕ → ℕ → ℕ × Bool} (h : Keeps s₀ s) :
    KeepsRes s₀ (vwide c f s k op) :=
  h.vissue

theorem Keeps.vwidenOp {c : ℕ} {f : VFmt} (h : Keeps s₀ s) : KeepsRes s₀ (vwidenOp c f s) := h.vissue
theorem Keeps.vnarrow {c : ℕ} {f : VFmt} {sat : Bool} (h : Keeps s₀ s) : KeepsRes s₀ (vnarrow c f s sat) := h.vissue

theorem Keeps.vcmp {c : ℕ} {f : VFmt} {k : TyOk} {op : VTy → ℕ → ℕ → Bool} (h : Keeps s₀ s) :
    KeepsRes s₀ (vcmp c f s k op) :=
  h.vissue

theorem Keeps.klogic {c : ℕ} {f : VFmt} {op : Bool → Bool → Bool} (h : Keeps s₀ s) : KeepsRes s₀ (klogic c f s op) :=
  h.issue

theorem Keeps.klogic1 {c : ℕ} {f : VFmt} {a : BitVec 5} {op : Bool → Bool} (h : Keeps s₀ s) :
    KeepsRes s₀ (klogic1 c f s a op) :=
  h.issue

theorem Keeps.vredIx {c : ℕ} {f : VFmt} {signed : Bool} {ident : ℕ → ℤ} {beyond : ℤ → ℤ → Bool} (h : Keeps s₀ s) :
    KeepsRes s₀ (vredIx c f s signed ident beyond) :=
  h.vissue

@[simp] theorem Keeps.execVbexp {c : ℕ} {f : VFmt} (h : Keeps s₀ s) : KeepsRes s₀ (execVbexp c f s) := h.vissue
@[simp] theorem Keeps.execVredsum {c : ℕ} {f : VFmt} (h : Keeps s₀ s) : KeepsRes s₀ (execVredsum c f s) := h.vissue
@[simp] theorem Keeps.execVmvg {c : ℕ} {f : VFmt} (h : Keeps s₀ s) : KeepsRes s₀ (execVmvg c f s) := h.vissue
@[simp] theorem Keeps.execVmvv {c : ℕ} {f : VFmt} (h : Keeps s₀ s) : KeepsRes s₀ (execVmvv c f s) := h.vissue
@[simp] theorem Keeps.execKpopc {c : ℕ} {f : VFmt} (h : Keeps s₀ s) : KeepsRes s₀ (execKpopc c f s) := h.issue
@[simp] theorem Keeps.execKfirst {c : ℕ} {f : VFmt} (h : Keeps s₀ s) : KeepsRes s₀ (execKfirst c f s) := h.issue
@[simp] theorem Keeps.execViota {c : ℕ} {f : VFmt} (h : Keeps s₀ s) : KeepsRes s₀ (execViota c f s) := h.vissue

@[simp] theorem Keeps.execSpanset {c : ℕ} {stop : Bool} {d a : BitVec 5} {etype : BitVec 3} {grp : BitVec 2} {res : BitVec 5}
    (h : Keeps s₀ s) :
    KeepsRes s₀ (execSpanset c stop d a etype grp res s) :=
  h.issue

theorem Keeps.vctl {c : ℕ} {f : VFmt} {unused : List (BitVec 5)} {mk : Core → Iss} (h : Keeps s₀ s) :
    KeepsRes s₀ (vctl c f s unused mk) :=
  h.issue

@[simp] theorem Keeps.execVsync {c : ℕ} {f : VFmt} (h : Keeps s₀ s) : KeepsRes s₀ (execVsync c f s) := h.vctl
@[simp] theorem Keeps.execVmovhw {c : ℕ} {f : VFmt} (h : Keeps s₀ s) : KeepsRes s₀ (execVmovhw c f s) := h.vctl
@[simp] theorem Keeps.execVmovwh {c : ℕ} {f : VFmt} (h : Keeps s₀ s) : KeepsRes s₀ (execVmovwh c f s) := h.vctl

theorem Keeps.vmem {c : ℕ} {f : VMFmt} {store first index : Bool} {addr : Core → ℕ → ℤ} (h : Keeps s₀ s) :
    KeepsRes s₀ (vmem c f s store first index addr) :=
  h.issue

@[simp] theorem Keeps.execVld {c : ℕ} {f : VMFmt} (h : Keeps s₀ s) : KeepsRes s₀ (execVld c f s) := h.vmem
@[simp] theorem Keeps.execVst {c : ℕ} {f : VMFmt} (h : Keeps s₀ s) : KeepsRes s₀ (execVst c f s) := h.vmem
@[simp] theorem Keeps.execVlds {c : ℕ} {f : VMFmt} (h : Keeps s₀ s) : KeepsRes s₀ (execVlds c f s) := h.vmem
@[simp] theorem Keeps.execVsts {c : ℕ} {f : VMFmt} (h : Keeps s₀ s) : KeepsRes s₀ (execVsts c f s) := h.vmem
@[simp] theorem Keeps.execVgath {c : ℕ} {f : VMFmt} (h : Keeps s₀ s) : KeepsRes s₀ (execVgath c f s) := h.vmem
@[simp] theorem Keeps.execVscat {c : ℕ} {f : VMFmt} (h : Keeps s₀ s) : KeepsRes s₀ (execVscat c f s) := h.vmem
@[simp] theorem Keeps.execVgathf {c : ℕ} {f : VMFmt} (h : Keeps s₀ s) : KeepsRes s₀ (execVgathf c f s) := h.vmem

@[simp] theorem Keeps.execVectorFaultDelivery {c : ℕ} (h : Keeps s₀ s) : KeepsRes s₀ (execVectorFaultDelivery c s) :=
  (KeepsRes.done (h.deliverFault.ite h)).onUnit

@[simp] theorem Keeps.execVadd {c : ℕ} {sc : Bool} {f : VFmt} (h : Keeps s₀ s) : KeepsRes s₀ (execVadd c sc f s) :=
  h.vbin

@[simp] theorem Keeps.execVsub {c : ℕ} {sc : Bool} {f : VFmt} (h : Keeps s₀ s) : KeepsRes s₀ (execVsub c sc f s) :=
  h.vbin

@[simp] theorem Keeps.execVadds {c : ℕ} {sc : Bool} {f : VFmt} (h : Keeps s₀ s) : KeepsRes s₀ (execVadds c sc f s) :=
  h.vbin

@[simp] theorem Keeps.execVsubs {c : ℕ} {sc : Bool} {f : VFmt} (h : Keeps s₀ s) : KeepsRes s₀ (execVsubs c sc f s) :=
  h.vbin

@[simp] theorem Keeps.execVand {c : ℕ} {sc : Bool} {f : VFmt} (h : Keeps s₀ s) : KeepsRes s₀ (execVand c sc f s) :=
  h.vbin

@[simp] theorem Keeps.execVor {c : ℕ} {sc : Bool} {f : VFmt} (h : Keeps s₀ s) : KeepsRes s₀ (execVor c sc f s) :=
  h.vbin

@[simp] theorem Keeps.execVxor {c : ℕ} {sc : Bool} {f : VFmt} (h : Keeps s₀ s) : KeepsRes s₀ (execVxor c sc f s) :=
  h.vbin

@[simp] theorem Keeps.execVandn {c : ℕ} {sc : Bool} {f : VFmt} (h : Keeps s₀ s) : KeepsRes s₀ (execVandn c sc f s) :=
  h.vbin

@[simp] theorem Keeps.execVsll {c : ℕ} {sc : Bool} {f : VFmt} (h : Keeps s₀ s) : KeepsRes s₀ (execVsll c sc f s) :=
  h.vshift

@[simp] theorem Keeps.execVsrl {c : ℕ} {sc : Bool} {f : VFmt} (h : Keeps s₀ s) : KeepsRes s₀ (execVsrl c sc f s) :=
  h.vshift

@[simp] theorem Keeps.execVsra {c : ℕ} {sc : Bool} {f : VFmt} (h : Keeps s₀ s) : KeepsRes s₀ (execVsra c sc f s) :=
  h.vshift

@[simp] theorem Keeps.execVslls {c : ℕ} {sc : Bool} {f : VFmt} (h : Keeps s₀ s) : KeepsRes s₀ (execVslls c sc f s) :=
  h.vshift

@[simp] theorem Keeps.execVmin {c : ℕ} {sc : Bool} {f : VFmt} (h : Keeps s₀ s) : KeepsRes s₀ (execVmin c sc f s) :=
  h.vbin

@[simp] theorem Keeps.execVmax {c : ℕ} {sc : Bool} {f : VFmt} (h : Keeps s₀ s) : KeepsRes s₀ (execVmax c sc f s) :=
  h.vbin

@[simp] theorem Keeps.execVminu {c : ℕ} {sc : Bool} {f : VFmt} (h : Keeps s₀ s) : KeepsRes s₀ (execVminu c sc f s) :=
  h.vbin

@[simp] theorem Keeps.execVmaxu {c : ℕ} {sc : Bool} {f : VFmt} (h : Keeps s₀ s) : KeepsRes s₀ (execVmaxu c sc f s) :=
  h.vbin

@[simp] theorem Keeps.execVabs {c : ℕ} {_sc : Bool} {f : VFmt} (h : Keeps s₀ s) : KeepsRes s₀ (execVabs c _sc f s) :=
  h.vun

@[simp] theorem Keeps.execVabss {c : ℕ} {_sc : Bool} {f : VFmt} (h : Keeps s₀ s) :
    KeepsRes s₀ (execVabss c _sc f s) := h.vun

@[simp] theorem Keeps.execVneg {c : ℕ} {_sc : Bool} {f : VFmt} (h : Keeps s₀ s) : KeepsRes s₀ (execVneg c _sc f s) :=
  h.vun

@[simp] theorem Keeps.execVnegs {c : ℕ} {_sc : Bool} {f : VFmt} (h : Keeps s₀ s) :
    KeepsRes s₀ (execVnegs c _sc f s) := h.vun

@[simp] theorem Keeps.execVmul {c : ℕ} {sc : Bool} {f : VFmt} (h : Keeps s₀ s) : KeepsRes s₀ (execVmul c sc f s) :=
  h.vbin

@[simp] theorem Keeps.execVmulh {c : ℕ} {sc : Bool} {f : VFmt} (h : Keeps s₀ s) : KeepsRes s₀ (execVmulh c sc f s) :=
  h.vbin

@[simp] theorem Keeps.execVmulq {c : ℕ} {sc : Bool} {f : VFmt} (h : Keeps s₀ s) : KeepsRes s₀ (execVmulq c sc f s) :=
  h.vbin

@[simp] theorem Keeps.execVmulqs {c : ℕ} {sc : Bool} {f : VFmt} (h : Keeps s₀ s) :
    KeepsRes s₀ (execVmulqs c sc f s) := h.vbin

@[simp] theorem Keeps.execVcmul {c : ℕ} {sc : Bool} {f : VFmt} (h : Keeps s₀ s) : KeepsRes s₀ (execVcmul c sc f s) :=
  h.vbin

@[simp] theorem Keeps.execVcmuls {c : ℕ} {sc : Bool} {f : VFmt} (h : Keeps s₀ s) :
    KeepsRes s₀ (execVcmuls c sc f s) := h.vbin

@[simp] theorem Keeps.execVcmulj {c : ℕ} {sc : Bool} {f : VFmt} (h : Keeps s₀ s) :
    KeepsRes s₀ (execVcmulj c sc f s) := h.vbin

@[simp] theorem Keeps.execVcmuljs {c : ℕ} {sc : Bool} {f : VFmt} (h : Keeps s₀ s) :
    KeepsRes s₀ (execVcmuljs c sc f s) := h.vbin

@[simp] theorem Keeps.execVconj {c : ℕ} {_sc : Bool} {f : VFmt} (h : Keeps s₀ s) :
    KeepsRes s₀ (execVconj c _sc f s) := h.vun

@[simp] theorem Keeps.execVmulj {c : ℕ} {_sc : Bool} {f : VFmt} (h : Keeps s₀ s) :
    KeepsRes s₀ (execVmulj c _sc f s) := h.vun

@[simp] theorem Keeps.execVmov {c : ℕ} {f : VFmt} (h : Keeps s₀ s) : KeepsRes s₀ (execVmov c f s) := h.vmove
@[simp] theorem Keeps.execVsplat {c : ℕ} {f : VFmt} (h : Keeps s₀ s) : KeepsRes s₀ (execVsplat c f s) := h.vmove
@[simp] theorem Keeps.execVmac {c : ℕ} {f : VFmt} (h : Keeps s₀ s) : KeepsRes s₀ (execVmac c f s) := h.vacc
@[simp] theorem Keeps.execVmsu {c : ℕ} {f : VFmt} (h : Keeps s₀ s) : KeepsRes s₀ (execVmsu c f s) := h.vacc
@[simp] theorem Keeps.execVmacq {c : ℕ} {f : VFmt} (h : Keeps s₀ s) : KeepsRes s₀ (execVmacq c f s) := h.vacc
@[simp] theorem Keeps.execVmacqs {c : ℕ} {f : VFmt} (h : Keeps s₀ s) : KeepsRes s₀ (execVmacqs c f s) := h.vacc
@[simp] theorem Keeps.execVcmac {c : ℕ} {f : VFmt} (h : Keeps s₀ s) : KeepsRes s₀ (execVcmac c f s) := h.vacc
@[simp] theorem Keeps.execVcmacs {c : ℕ} {f : VFmt} (h : Keeps s₀ s) : KeepsRes s₀ (execVcmacs c f s) := h.vacc
@[simp] theorem Keeps.execVcmacj {c : ℕ} {f : VFmt} (h : Keeps s₀ s) : KeepsRes s₀ (execVcmacj c f s) := h.vacc
@[simp] theorem Keeps.execVcmacjs {c : ℕ} {f : VFmt} (h : Keeps s₀ s) : KeepsRes s₀ (execVcmacjs c f s) := h.vacc
@[simp] theorem Keeps.execVwmul {c : ℕ} {f : VFmt} (h : Keeps s₀ s) : KeepsRes s₀ (execVwmul c f s) := h.vwide
@[simp] theorem Keeps.execVwmac {c : ℕ} {f : VFmt} (h : Keeps s₀ s) : KeepsRes s₀ (execVwmac c f s) := h.vwide
@[simp] theorem Keeps.execVwcmac {c : ℕ} {f : VFmt} (h : Keeps s₀ s) : KeepsRes s₀ (execVwcmac c f s) := h.vwide
@[simp] theorem Keeps.execVwcmacj {c : ℕ} {f : VFmt} (h : Keeps s₀ s) : KeepsRes s₀ (execVwcmacj c f s) := h.vwide
@[simp] theorem Keeps.execVwiden {c : ℕ} {f : VFmt} (h : Keeps s₀ s) : KeepsRes s₀ (execVwiden c f s) := h.vwidenOp
@[simp] theorem Keeps.execVnsra {c : ℕ} {f : VFmt} (h : Keeps s₀ s) : KeepsRes s₀ (execVnsra c f s) := h.vnarrow
@[simp] theorem Keeps.execVnsras {c : ℕ} {f : VFmt} (h : Keeps s₀ s) : KeepsRes s₀ (execVnsras c f s) := h.vnarrow
@[simp] theorem Keeps.execVcmpeq {c : ℕ} {f : VFmt} (h : Keeps s₀ s) : KeepsRes s₀ (execVcmpeq c f s) := h.vcmp
@[simp] theorem Keeps.execVcmpne {c : ℕ} {f : VFmt} (h : Keeps s₀ s) : KeepsRes s₀ (execVcmpne c f s) := h.vcmp
@[simp] theorem Keeps.execVcmplt {c : ℕ} {f : VFmt} (h : Keeps s₀ s) : KeepsRes s₀ (execVcmplt c f s) := h.vcmp
@[simp] theorem Keeps.execVcmple {c : ℕ} {f : VFmt} (h : Keeps s₀ s) : KeepsRes s₀ (execVcmple c f s) := h.vcmp
@[simp] theorem Keeps.execVcmpltu {c : ℕ} {f : VFmt} (h : Keeps s₀ s) : KeepsRes s₀ (execVcmpltu c f s) := h.vcmp
@[simp] theorem Keeps.execVcmpleu {c : ℕ} {f : VFmt} (h : Keeps s₀ s) : KeepsRes s₀ (execVcmpleu c f s) := h.vcmp
@[simp] theorem Keeps.execKand {c : ℕ} {f : VFmt} (h : Keeps s₀ s) : KeepsRes s₀ (execKand c f s) := h.klogic
@[simp] theorem Keeps.execKor {c : ℕ} {f : VFmt} (h : Keeps s₀ s) : KeepsRes s₀ (execKor c f s) := h.klogic
@[simp] theorem Keeps.execKxor {c : ℕ} {f : VFmt} (h : Keeps s₀ s) : KeepsRes s₀ (execKxor c f s) := h.klogic
@[simp] theorem Keeps.execKandn {c : ℕ} {f : VFmt} (h : Keeps s₀ s) : KeepsRes s₀ (execKandn c f s) := h.klogic
@[simp] theorem Keeps.execKnot {c : ℕ} {f : VFmt} (h : Keeps s₀ s) : KeepsRes s₀ (execKnot c f s) := h.klogic1
@[simp] theorem Keeps.execKset {c : ℕ} {f : VFmt} (h : Keeps s₀ s) : KeepsRes s₀ (execKset c f s) := h.klogic1

@[simp] theorem Keeps.execVredmaxix {c : ℕ} {f : VFmt} (h : Keeps s₀ s) : KeepsRes s₀ (execVredmaxix c f s) :=
  h.vredIx

@[simp] theorem Keeps.execVredminix {c : ℕ} {f : VFmt} (h : Keeps s₀ s) : KeepsRes s₀ (execVredminix c f s) :=
  h.vredIx

@[simp] theorem Keeps.execVredmaxux {c : ℕ} {f : VFmt} (h : Keeps s₀ s) : KeepsRes s₀ (execVredmaxux c f s) :=
  h.vredIx

@[simp] theorem Keeps.execVredminux {c : ℕ} {f : VFmt} (h : Keeps s₀ s) : KeepsRes s₀ (execVredminux c f s) :=
  h.vredIx

/-! ### The functions of `Machine/Dispatch` -/

theorem Keeps.exec {i : Instr} (h : Keeps s₀ s) : KeepsRes s₀ (exec i s) := by
  cases i <;> simp [h]

/-! ### The functions of `Machine/Fetch` -/

theorem KeepsRes.of_getElem? {α : Type} {l : List α} {g : α → State → Res} {run : State → Res} {i : ℕ}
    (hl : ∀ f ∈ l, KeepsRes s₀ (g f s)) (e : (l[i]?).map g = some run) : KeepsRes s₀ (run s) := by
  obtain ⟨f, hf, rfl⟩ := Option.map_eq_some_iff.mp e
  exact hl f (List.mem_of_getElem? hf)

theorem KeepsRes.of_opAt {α : Type} {l : List (ℕ × α)} {g : α → State → Res} {run : State → Res} {code : ℕ}
    (hl : ∀ x ∈ l, KeepsRes s₀ (g x.2 s)) (e : (opAt l code).map g = some run) : KeepsRes s₀ (run s) := by
  obtain ⟨f, hf, rfl⟩ := Option.map_eq_some_iff.mp e
  obtain ⟨x, hx, rfl⟩ := Option.map_eq_some_iff.mp hf
  exact hl x (List.mem_of_find?_eq_some hx)

theorem Keeps.controlMeaning {c : ℕ} {w : BitVec 32} {run : State → Res} (h : Keeps s₀ s)
    (e : controlMeaning c w = some run) : KeepsRes s₀ (run s) := by
  unfold Machine.controlMeaning at e
  split at e <;> cases e <;> simp [h]

theorem Keeps.vectorControlMeaning {c : ℕ} {w : BitVec 32} {run : State → Res} (h : Keeps s₀ s)
    (e : vectorControlMeaning c w = some run) : KeepsRes s₀ (run s) := by
  unfold Machine.vectorControlMeaning at e
  split at e <;> cases e <;> simp [h]

theorem Keeps.wordMeaning {c : ℕ} {w : BitVec 32} {run : State → Res} (h : Keeps s₀ s)
    (e : wordMeaning c w = some run) : KeepsRes s₀ (run s) := by
  unfold Machine.wordMeaning at e
  extract_lets fn at e
  split at e
  · exact KeepsRes.of_getElem? (by simp [aluOps, h]) e
  · cases e; exact h.execAddi
  · cases e; exact h.execAndi
  · cases e; exact h.execOri
  · cases e; exact h.execXori
  · cases e; exact h.execLui
  · exact KeepsRes.of_opAt (by simp [shiftOps, h]) e
  · exact KeepsRes.of_getElem? (by simp [accOps, h]) e
  · exact KeepsRes.of_getElem? (by simp [ixOps, h]) e
  · exact h.controlMeaning e
  · exact KeepsRes.of_getElem? (by simp [condOps, h]) e
  · cases e
    split
    · exact h.execBal
    · exact h.execBr
  · cases e; exact h.execLoop
  · cases e; exact h.execLd
  · cases e; exact h.execSt
  · cases e; exact h.execCbset
  · exact KeepsRes.of_getElem? (by simp [systemOps, h]) e
  · exact KeepsRes.of_getElem? (by simp [vectorOps, h]) e
  · exact KeepsRes.of_getElem? (by simp [vectorOps, h]) e
  · exact KeepsRes.of_getElem? (by simp [wideOps, h]) e
  · exact KeepsRes.of_getElem? (by simp [vmemOps, h]) e
  · exact KeepsRes.of_opAt (by simp [reduceOps, h]) e
  · exact h.vectorControlMeaning e
  · exact KeepsRes.of_getElem? (by simp [matrixOps, h]) e
  · exact KeepsRes.of_getElem? (by simp [matrixMemOps, h]) e
  · cases e

theorem Keeps.execReserved {c : ℕ} {w : BitVec 32} (h : Keeps s₀ s) : KeepsRes s₀ (execReserved c w s) := h.issueM

theorem Keeps.fetchCore {c : ℕ} (h : Keeps s₀ s) : KeepsRes s₀ (fetchCore c s) := by
  unfold Machine.fetchCore
  split
  · next e => exact h.wordMeaning e
  · exact h.execReserved

theorem Keeps.idle (h : Keeps s₀ s) : KeepsRes s₀ (idle s) := by
  unfold Machine.idle
  split
  · exact h.frame.fetchCore
  · exact KeepsRes.next h

/-! ### The functions of `Machine/Step` -/

/-- A step keeps the history of the state whose front command it has taken. -/
theorem keeps_of_step (e : step s = .next t) : Keeps { s with pending := s.pending.tail } t := by
  unfold step at e
  split at e
  · next hp =>
    have h : Keeps s t := (Keeps.refl s).idle.of_eq e
    exact { h with pending := by rw [h.pending, hp]; rfl }
  · next hp =>
    have h := (Keeps.refl _).exec.of_eq e
    exact { h with pending := by rw [h.pending, hp]; rfl }

/-- Settles O58: every function that a step is made of keeps the history (`keeps_of_step`). -/
theorem everyStepKeepsThePartAndItsHistory : Obligations.EveryStepKeepsThePartAndItsHistory := by
  unfold Obligations.EveryStepKeepsThePartAndItsHistory
  intro s t e
  have h := keeps_of_step e
  exact ⟨h.part, h.pending, h.out, h.free, h.makerLock⟩

end Sys2Proof.Machine

/-!
# A row takes writes of its own objects, and checks them before their rule (O54)

Each row of `RowOf` is `request` on its own objects (`exec_of_rowOf`). A request that is `Served` comes to `serve` in
the state `counted`, which for a WRITE is `serveWrite` in `taken`; what `writeObject` checks is what is left.
-/

namespace Sys2Proof.Machine

variable {s : State} {r : CleipReq} {mine : Nat → Bool} {i : Instr} {a : Option (Nat × Nat)} {op : Nat}

/-! ## The rows -/

/-- Every row takes requests on its own objects; only BUDDY brings an answer with it. -/
theorem exec_of_rowOf (h : RowOf r mine i) (s : State) :
    ∃ a, exec i s = request (mine (reqKey r)) a (writeOp r) r s ∧ ((∀ b, i ≠ .buddy r b) → a = none) := by
  cases h
  case buddy b => exact ⟨b, rfl, fun h => absurd rfl (h b)⟩
  all_goals exact ⟨none, rfl, fun _ => rfl⟩

theorem request_of_not_mine (hc : r.src.carrier < 4) : request false a op r s = .next s := by
  simp [request, onUnit, whenSt, hc]

theorem request_of_mine (hc : r.src.carrier < 4) : request true a op r s = .next (arrive a op r s) := by
  simp [request, onUnit, whenSt, hc]

/-! ## From the carrier to the service -/

/-- The state in which a request is served, its response on MS or FP not yet given way. -/
def counted (s : State) (r : CleipReq) : State := (if r.src.carrier = 2 then msMatch s else s).bump keyCleipRx 1

theorem taken_eq_counted : taken s r = if r.src.carrier < 2 then counted s r
    else setSerial (counted s r) r.src.carrier { serial (counted s r) r.src.carrier with response := none } := rfl

@[simp] theorem setSerial_held (s : State) (c : Nat) (x : Serial) : (setSerial s c x).cleip.held = s.cleip.held := by
  unfold setSerial
  split <;> rfl

@[simp] theorem setSerial_inService (s : State) (c : Nat) (x : Serial) :
    (setSerial s c x).cleip.inService = s.cleip.inService := by
  unfold setSerial
  split <;> rfl

theorem heldFor_taken : heldFor (taken s r) op r = heldFor (counted s r) op r := by
  rw [taken_eq_counted]
  split <;> simp [heldFor]

theorem inService_taken : inService (taken s r) r.src = inService (counted s r) r.src := by
  rw [taken_eq_counted]
  split <;> simp [inService]

/-- A request of no requester in service, to which no response is held, is served. -/
theorem takeRequest_of_fresh {t : State} (hh : heldFor t op r = none) (hi : inService t r.src = false) :
    takeRequest a t op r = serve a t op r := by
  have hnone : (t.cleip.inService.any fun i => sameReq i.req.src r.src && decide (i.req.tid = r.tid)) = false := by
    rw [List.any_eq_false]
    intro x hx
    simp [List.any_eq_false.mp hi x hx]
  simp [takeRequest, hh, hnone, hi]

theorem takeMessage_of_served (h : Served s op r) (h0 : 0 < op) (h5 : op ≤ 5) :
    takeMessage a (if r.src.carrier = 2 then msMatch s else s) op r = serve a (counted s r) op r := by
  obtain ⟨-, -, -, -, hv, hresp, hheld, hin⟩ := h
  have hgood : badFrame op r = false := by simp [badFrame, hv, hresp]; omega
  rw [heldFor_taken] at hheld
  rw [inService_taken] at hin
  simp only [takeMessage, hgood, Bool.false_eq_true, if_false]
  exact takeRequest_of_fresh hheld hin

/-- A request whose carrier is open and not busy arrives and is served. -/
theorem arrive_of_served (h : Served s op r) (h0 : 0 < op) (h5 : op ≤ 5) :
    arrive a op r s = serve a (counted s r) op r := by
  rw [← takeMessage_of_served h h0 h5]
  obtain ⟨hc, heth, hms, hfp, -⟩ := h
  by_cases h2 : r.src.carrier < 2
  · simp [arrive, h2, heth h2, h2.ne]
  · by_cases hm : r.src.carrier = 2
    · simp [arrive, hm, hms hm]
    · simp [arrive, h2, hm, hfp (by omega)]

theorem serve_counted_write : serve a (counted s r) 2 r = serveWrite a (taken s r) r := rfl

/-! ## The checks ahead of the rule -/

theorem serveWrite_of_preStatus (h : preStatus s 2 r ≠ csOk) :
    serveWrite a s r = endWrite s 2 r (proposed r) (preStatus s 2 r, s) := by
  simp [serveWrite, h, fails, proposed]

theorem serveWrite_of_ok (h : preStatus s 2 r = csOk) (hk : reqKey r ≠ keyConfigBackup) :
    serveWrite a s r
      = endWrite s 2 r (proposed r) (afterWrite s (reqKey r) (writeObject a s (proposed r) false)) := by
  simp only [serveWrite, h, ne_eq, not_true_eq_false, if_false, applyWrite, reqWrite, hk, proposed]

/-- A request whose status so far is OK may write its object. -/
theorem write_granted_of_preStatus (h : preStatus s 2 r = csOk) :
    2 ≤ reqAccess (reqKey r) (roleOf r.src.carrier) := by
  by_contra hlt
  have hg : grants (reqAccess (reqKey r) (roleOf r.src.carrier)) 2 = false := by simpa [grants] using hlt
  unfold preStatus at h
  simp only [hg, Bool.not_false, if_true] at h
  split_ifs at h

theorem writeObject_of_granted {row : ObjRow} {t : State} {w : WReq}
    (hrow : objRow (w.key / 256) (w.key % 256) = some row)
    (ha : 2 ≤ reqAccess w.key w.role) :
    writeObject a t w false
      = if !fitsType t row w.key false w.data then fails t csType
        else if !inTable row w.val then fails t csRange else applyOne a t w := by
  have hacc : ¬ accessOf row (w.key / 256) w.role < 2 := by simpa only [reqAccess, hrow, not_lt] using ha
  simp [writeObject, hrow, hacc]

/-- A write that is refused sets nothing in motion. -/
theorem afterWrite_of_refused {t : State} {k st : Nat} (h : st ≠ csOk) (h' : st ≠ csWait) :
    afterWrite s k (fails t st) = (st, t) := by
  simp [afterWrite, fails, h, h']

theorem serveWrite_of_type {row : ObjRow} (h : preStatus s 2 r = csOk) (hk : reqKey r ≠ keyConfigBackup)
    (hrow : objRow (reqKey r / 256) (reqKey r % 256) = some row)
    (ht : fitsType s row (reqKey r) false (proposed r).data = false) :
    serveWrite a s r = endWrite s 2 r (proposed r) (csType, s) := by
  rw [serveWrite_of_ok h hk, writeObject_of_granted (w := proposed r) hrow (write_granted_of_preStatus h)]
  have hkey : (proposed r).key = reqKey r := rfl
  simp only [hkey, ht, Bool.not_false, if_true]
  rw [afterWrite_of_refused (by decide) (by decide)]

theorem serveWrite_of_range {row : ObjRow} (h : preStatus s 2 r = csOk) (hk : reqKey r ≠ keyConfigBackup)
    (hrow : objRow (reqKey r / 256) (reqKey r % 256) = some row)
    (ht : fitsType s row (reqKey r) false (proposed r).data = true) (hv : inTable row (proposed r).val = false) :
    serveWrite a s r = endWrite s 2 r (proposed r) (csRange, s) := by
  rw [serveWrite_of_ok h hk, writeObject_of_granted (w := proposed r) hrow (write_granted_of_preStatus h)]
  have hkey : (proposed r).key = reqKey r := rfl
  simp only [hkey, ht, hv, Bool.not_true, Bool.not_false, Bool.false_eq_true, if_true, if_false]
  rw [afterWrite_of_refused (by decide) (by decide)]

/-! ## The obligation -/

/-- Settles O54: the branches of `request`, `serveWrite` and `writeObject` ahead of the rule, for every row. -/
theorem writesAreCheckedBeforeTheirRules : Obligations.WritesAreCheckedBeforeTheirRules := by
  unfold Obligations.WritesAreCheckedBeforeTheirRules
  intro s r mine i hrow hc
  obtain ⟨a, hexec, ha⟩ := exec_of_rowOf hrow s
  refine ⟨fun hm => ?_, fun hm hl hd hb => ?_, fun hm hl hs => ?_⟩
  · rw [hexec, hm, request_of_not_mine hc]
  · have hop : writeOp r = 4 := by simp [writeOp, hl, hd]
    rw [hexec, ha hb, hm, hop]
    rfl
  · have hop : writeOp r = 2 := by simp [writeOp, hl]
    have hwrite : exec i s = .next (serveWrite a (taken s r) r) := by
      rw [hexec, hm, hop, request_of_mine hc, arrive_of_served hs (by decide) (by decide), serve_counted_write]
    rw [hwrite]
    refine ⟨fun hp => ?_, fun row hp hk ho => ⟨fun ht => ?_, fun ht hv => ?_⟩⟩
    · rw [serveWrite_of_preStatus hp]
    · rw [serveWrite_of_type hp hk ho ht]
    · rw [serveWrite_of_range hp hk ho ht hv]

end Sys2Proof.Machine

/-!
# The timers of the transport and the release of a record (O20)

Each of these commands acts only where its condition stands, and leaves the state otherwise. For every command one lemma
says that the condition stands under the hypotheses of the rule, and what the command then does.
-/

namespace Sys2Proof.Machine

variable {s : State} {port prio q : Nat}

theorem whenSt_of_true {c : Bool} (t : State) (h : c = true) : whenSt c s t = .next t := by simp [whenSt, h]

/-! ## Acceptance entries and records that are held (R87, R97) -/

theorem execAcceptCoalesceExpiry_of_due {e : AcceptEntry} (hp : port < 2) (he : e ∈ (s.port port).pending)
    (hd : e.since + s.oval keyAcceptCoalesce ≤ s.time.now) :
    execAcceptCoalesceExpiry port s = .next (flushEntries s port) := by
  rw [execAcceptCoalesceExpiry, onUnit_lt _ hp]
  exact whenSt_of_true _ (List.any_eq_true.2 ⟨e, he, decide_eq_true hd⟩)

theorem recordsDue_of_cons {seq : BitVec 32} {t : Nat} {rest : List (BitVec 32 × Nat)}
    (h : (s.queue q).toSend = (seq, t) :: rest) (hd : t + s.oval keyComplCoalesce ≤ s.time.now) :
    recordsDue s q = true := by
  simp [recordsDue, h, hd]

theorem execComplCoalesceExpiry_of_due (h : recordsDue s q = true) :
    execComplCoalesceExpiry q s = .next (sendFrom s q (s.queue q).toSend) := by
  rw [execComplCoalesceExpiry, done, sendDue, if_pos h]

/-! ## Retransmission (R99) -/

theorem awaitsAck_iff : awaitsAck s q = true ↔ (s.queue q).releasedSeq ≠ (s.queue q).ackSeq := decide_eq_true_iff

/-- A port sends only while the device is serviceable. -/
theorem serving_of_canSend {p : Nat} (h : canSend s p = true) : s.serving = true := by
  simp only [canSend, portSends, Bool.and_eq_true] at h
  obtain ⟨⟨⟨⟨hs, -⟩, -⟩, -⟩, -⟩ := h
  exact hs

theorem execRetxTimeout_of_due (ha : awaitsAck s q = true) (hh : (s.queue q).retxHalted = none)
    (hc : canSend s (s.queue q).activePort = true) (hd : (s.queue q).retxDue ≤ s.time.now) :
    execRetxTimeout q s = .next (retxFire s q) := by
  refine whenSt_of_true _ ?_
  simp [ha, hh, serving_of_canSend hc, hc, hd]

/-- What an expired timer sends, and when it next expires, where the active port of the queue can send. -/
theorem retxFire_of_canSend (ha : awaitsAck s q = true) (hc : canSend s (s.queue q).activePort = true) :
    retxFire s q =
      let t := retransmit (flushPending (flushPending s 0) 1) q (s.queue q).activePort ((s.queue q).ackSeq + 1)
      let next := min (2 * (s.queue q).retxInterval) 32000000
      t.setQueue q { t.queue q with retxDue := s.time.now + next, retxInterval := next, retxHalted := none } := by
  simp only [retxFire, if_pos ha, if_pos hc]

/-! ## Credit (R92, R94) -/

theorem execCreditRefresh_of_due (hs : s.serving = true) (hd : s.lastRefresh + s.oval keyCreditRefresh ≤ s.time.now) :
    execCreditRefresh s = .next ((s.queues.filter fun x => x.2.enable && decide (x.1 < 4096)).foldl
      (fun t x => sendCredit t x.1) { s with lastRefresh := s.time.now }) :=
  whenSt_of_true _ (by simp [hs, hd])

/-- The round robin of one queue: it follows itself, whichever queue was served last. -/
theorem nextGrant_of_singleton {x : Queue} (h : s.queues = [(q, x)]) (he : x.enable = true) (hq : q < 4096) :
    nextGrant s = some q := by
  by_cases hl : s.lastGrant < q <;> simp [nextGrant, h, he, hq, hl]

theorem execCreditGrant_of_nextGrant (hs : s.serving = true) (hp : s.powered = true) (hn : nextGrant s = some q) :
    execCreditGrant s = .next (updateHeadroom (grantTo { s with lastGrant := q } q)) := by
  simp [execCreditGrant, hs, hp, hn, done]

/-! ## Release (R44) -/

theorem execRecordRelease_of_nextRelease {j : Job} {r : Rec} (hs : s.serving = true) (hj : nextRelease s q = some j)
    (hr : j.record = some r) : execRecordRelease q s = .next (releaseJob s j r) := by
  simp [execRecordRelease, hs, hj, hr, done]

/-! ## Pauses (R96) -/

/-- A frame with a pause of no time ends the pause of its priority. -/
theorem execPfcPauseRx_zero (hp : port < 2) (hi : prio < 8) :
    execPfcPauseRx port prio 0 s = .next (resumePort (s.setPort port { s.port port with
      pauses := (s.port port).pauses.filter fun y => decide (y.1 ≠ prio) }) port) := by
  rw [execPfcPauseRx, onUnit_lt _ hp, onUnit_lt _ hi]
  rfl

/-- Any other frame sets the pause of its priority anew, and the timers of the port's queues halt or go on. -/
theorem execPfcPauseRx_pos {quanta : Nat} (hp : port < 2) (hi : prio < 8) (hn : 0 < quanta) :
    execPfcPauseRx port prio quanta s = .next
      (let t := s.setPort port { s.port port with
        pauses := ((s.port port).pauses.filter fun y => decide (y.1 ≠ prio)) ++ [(prio, s.time.now + quanta * 128 / 100)] }
      (queuesOn t port).foldl settleTimer t) := by
  rw [execPfcPauseRx, onUnit_lt _ hp, onUnit_lt _ hi, done]
  simp only [if_neg hn.ne']

theorem execPfcPauseExpiry_of_due {till : Nat} (hp : port < 2) (hi : prio < 8) (hm : (prio, till) ∈ (s.port port).pauses)
    (ht : till ≤ s.time.now) :
    execPfcPauseExpiry port prio s = .next (resumePort (s.setPort port { s.port port with
      pauses := (s.port port).pauses.filter fun y => !(decide (y.1 = prio) && decide (y.2 ≤ s.time.now)) }) port) := by
  rw [execPfcPauseExpiry, onUnit_lt _ hp, onUnit_lt _ hi]
  exact whenSt_of_true _ (List.any_eq_true.2 ⟨(prio, till), hm, by simp [ht]⟩)

/-! ## The obligation -/

/-- Settles O20: each clause is the lemma of its command above, whose condition the hypotheses meet. -/
theorem transportTimersDoTheirWork : Obligations.TransportTimersDoTheirWork := by
  unfold Obligations.TransportTimersDoTheirWork
  intro s
  refine ⟨fun port hp e he hd => execAcceptCoalesceExpiry_of_due hp he hd, fun q seq t rest h hd => ?compl,
    fun q ha hh hc hd => ?retx, execCreditRefresh_of_due,
    fun q x hs hp h he hq => execCreditGrant_of_nextGrant hs hp (nextGrant_of_singleton h he hq),
    fun q j r hs hj hr => execRecordRelease_of_nextRelease hs hj hr,
    fun port prio hp hi => ⟨fun quanta hn => execPfcPauseRx_pos hp hi hn, execPfcPauseRx_zero hp hi,
      fun till hm ht => execPfcPauseExpiry_of_due hp hi hm ht⟩⟩
  case compl =>
    rw [← h]
    exact execComplCoalesceExpiry_of_due (recordsDue_of_cons h hd)
  case retx =>
    rw [exec_retxTimeout, execRetxTimeout_of_due (awaitsAck_iff.2 ha) hh hc hd,
      retxFire_of_canSend (awaitsAck_iff.2 ha) hc]

end Sys2Proof.Machine

/-!
# The state before the first power-on (O60)

Every list of the state is empty, so each unit reads as its initial value, and each scalar object as its default.
-/

namespace Sys2Proof.Machine

/-- No queue is listed, and no port has sent the unused queues away. -/
theorem queue_reset (q : Nat) : State.reset.queue q = Queue.init q := rfl

/-- No scalar object is listed. -/
theorem oval_reset (k : Nat) : State.reset.oval k = odflt State.reset k := rfl

/-- Settles O60: the unlisted units and objects read as their initial values. -/
theorem resetLeavesWhatTheRulesSay : Obligations.ResetLeavesWhatTheRulesSay := by
  unfold Obligations.ResetLeavesWhatTheRulesSay
  refine ⟨rfl, rfl, rfl, rfl, rfl, fun q => ?queue, fun _ => ⟨rfl, rfl⟩, fun _ => rfl, fun _ => rfl, fun _ => rfl, rfl, rfl,
    rfl, rfl, rfl, rfl, ?objects⟩
  case queue =>
    rw [queue_reset]
    exact ⟨rfl, rfl, rfl, rfl, rfl, rfl, rfl⟩
  case objects =>
    simp only [oval_reset]
    decide

end Sys2Proof.Machine

/-!
# Transport frames (O17)

A command that takes frames is `onFrame` with what it serves: `frameTaken_onFrame` says once which frames are served. What
is left of each command is to read the fields of its body as the spec lays them out.
-/

namespace Sys2Proof.Machine

variable {s : State} {f : RxFrame}

/-! ## Fields of a frame's body -/

theorem leNat_lt (l : List Byte) : leNat l < 256 ^ l.length := by
  induction l with
  | nil => simp [leNat]
  | cons b r ih =>
    have hb := b.isLt
    simp only [leNat, List.length_cons, pow_succ]
    omega

theorem slice_length (l : List Byte) (off n : Nat) : (slice l off n).length = n := by
  simp [slice]

theorem beNat_slice_lt (l : List Byte) (off n : Nat) : beNat (slice l off n) < 256 ^ n := by
  simpa [beNat, slice_length] using leNat_lt (slice l off n).reverse

/-- Bits down from the highest that a number has: nothing is cut off above. -/
theorem bits_of_lt {v hi lo : Nat} (h : v < 2 ^ (hi + 1)) (hl : lo ≤ hi) : bits v hi lo = v / 2 ^ lo := by
  refine Nat.mod_eq_of_lt (Nat.div_lt_of_lt_mul ?_)
  rwa [← pow_add, Nat.add_sub_of_le (by omega)]

/-- A field read as a word of its own width: bits above the field drop out. -/
theorem ofNat_bits {v hi lo w : Nat} (h : hi + 1 - lo = w) : BitVec.ofNat w (bits v hi lo) = BitVec.ofNat w (v / 2 ^ lo) := by
  subst h
  exact BitVec.eq_of_toNat_eq (by simp [bits])

/-! ## The checks of a frame (R64 to R66) -/

theorem headerOk_iff {type most implied : Nat} {fromHost : Bool} :
    headerOk f type fromHost most implied = true ↔
      f.version = 1 ∧ f.type = type ∧ (if fromHost then f.sender = 0xFFFF else f.sender ≤ 0x3FF) ∧ 1 ≤ f.count ∧ f.count ≤ most
        ∧ f.length = implied ∧ f.length ≤ f.payload.length := by
  cases fromHost <;> simp [headerOk, and_assoc]

/-- A frame that may be of a TYPE is taken: discarded, counted in RX_BAD_HEADER, or served for its addressee (R64 to R66). -/
def FrameTaken (s : State) (f : RxFrame) (type : Nat) (fromHost : Bool) (most implied : Nat) (r : Res)
    (served : Nat → Res → Prop) : Prop :=
  let good := f.version = 1 ∧ f.type = type ∧ (if fromHost then f.sender = 0xFFFF else f.sender ≤ 0x3FF) ∧ 1 ≤ f.count
    ∧ f.count ≤ most ∧ f.length = implied ∧ f.length ≤ f.payload.length
  (transportFor s f = none → r = .next s)
  ∧ (∀ base, transportFor s f = some base →
      (¬good → r = .next (s.setOval keyRxBadHeader (min (s.oval keyRxBadHeader + 1) 0xFFFFFFFF)))
      ∧ (good → served base r))

theorem frameTaken_onFrame (hp : f.port < 2) {type most implied : Nat} {fromHost : Bool} {serve : Nat → State}
    {served : Nat → Res → Prop} (hs : ∀ base, served base (.next (serve base))) :
    FrameTaken s f type fromHost most implied (onFrame s f type fromHost most implied serve) served := by
  rw [onFrame, onUnit_lt _ hp]
  refine ⟨fun hn => ?_, fun base hb => ⟨fun hg => ?_, fun hg => ?_⟩⟩
  · rw [hn]; rfl
  · rw [hb, Bool.eq_false_iff.2 (mt headerOk_iff.1 hg)]; rfl
  · rw [hb, headerOk_iff.2 hg]; exact hs base

/-! ## What a body spells (R69, R76) -/

theorem takeAck_eq (s : State) (q : Nat) (seq : BitVec 32) :
    takeAck s q seq =
      if 0 < (seq - (s.queue q).releasedSeq).toInt then s.bump keyAckInvalid 1
      else if 0 < (seq - (s.queue q).ackSeq).toInt then ackTo s q seq else s := by
  simp [takeAck, precedes, sdist]

theorem queueEntries_eq (f : RxFrame) : queueEntries f = (List.range f.count).map fun i =>
    (beNat (slice f.payload (8 * i) 8) / 2 ^ 52, BitVec.ofNat 32 (beNat (slice f.payload (8 * i) 8))) := by
  refine List.map_congr_left fun i _ => Prod.ext ?queue ?seq
  case queue => exact bits_of_lt (beNat_slice_lt f.payload (8 * i) 8) (by decide)
  case seq => simpa using ofNat_bits (v := beNat (slice f.payload (8 * i) 8)) (hi := 31) (lo := 0) rfl

theorem descItems_eq (f : RxFrame) : descItems f = (List.range f.count).map fun i =>
    (descOf (beNat (slice f.payload (72 + 64 * i) 64)),
      if i % 2 = 0 then beNat (slice f.payload (i / 2) 1) / 16 else beNat (slice f.payload (i / 2) 1) % 16) := by
  refine List.map_congr_left fun i _ => ?_
  have hi : bits (beNat (slice f.payload (i / 2) 1)) 7 4 = beNat (slice f.payload (i / 2) 1) / 16 :=
    bits_of_lt (beNat_slice_lt f.payload (i / 2) 1) (by decide)
  have lo : bits (beNat (slice f.payload (i / 2) 1)) 3 0 = beNat (slice f.payload (i / 2) 1) % 16 := by simp [bits]
  simp only [hi, lo]

/-! ## The obligation -/

theorem buddyOn_iff : buddyOn s = true ↔ s.oval keyBuddy ≠ 0xFFFF := by
  simp [buddyOn]

/-- Settles O17: each command is `onFrame`, and what it serves is what the frame's body spells. -/
theorem transportFramesAreCheckedBeforeUse : Obligations.TransportFramesAreCheckedBeforeUse := by
  unfold Obligations.TransportFramesAreCheckedBeforeUse
  intro s f hp taken
  have htaken : taken = FrameTaken s f := rfl
  clear_value taken
  subst htaken
  refine ⟨?desc, ?data, ?ack, ?resend, ?mirror, ?mirrorAck⟩
  case desc =>
    refine frameTaken_onFrame hp fun base => ?_
    rw [descItems_eq]
    rfl
  case data =>
    have hbase : (bits (beNat (slice f.payload 0 16)) 15 0) = beNat (slice f.payload 0 16) % 65536 := by simp [bits]
    rw [exec_data, execData, hbase]
    refine frameTaken_onFrame hp fun base => ?_
    rw [ofNat_bits (hi := 111) (lo := 80) rfl]
    rfl
  case ack =>
    refine frameTaken_onFrame hp fun base => ?_
    simp only [queueEntries_eq, takeAck_eq]
    rfl
  case resend =>
    refine frameTaken_onFrame hp fun base => ?_
    rw [queueEntries_eq]
    rfl
  case mirror =>
    exact frameTaken_onFrame hp fun base => rfl
  case mirrorAck =>
    refine frameTaken_onFrame hp fun base => ?_
    simp only [buddyOn_iff]

end Sys2Proof.Machine

/-!
# Descriptors and DATA segments (O18)

The classes of R79 and R80 in order: one lemma for each, under what sets it apart from the classes before it.
-/

namespace Sys2Proof.Machine

variable {s : State} {p q mask k total off : Nat} {d : Desc} {seq : BitVec 32} {b : List Byte} {bad : Option BadWord}

/-! ## Descriptors (R79) -/

theorem takeDesc_of_disabled (he : (s.queue d.sqid).enable = false) :
    takeDesc s p d mask = refuse (s.bump keyRxDisabled 1) d.sqid 0x18 d.seq p := by
  simp [takeDesc, he]

theorem takeDesc_of_stale (he : (s.queue d.sqid).enable = true) (hd : dedupDist s d.sqid d.seq < -(s.oval keyDedupWindow : Int)) :
    takeDesc s p d mask = refuse (s.bump keyRxStale 1) d.sqid 0x17 d.seq p := by
  have hneg : dedupDist s d.sqid d.seq < 0 := by omega
  simp [takeDesc, he, hd, hneg]

theorem takeDesc_of_duplicate (he : (s.queue d.sqid).enable = true)
    (hw : -(s.oval keyDedupWindow : Int) ≤ dedupDist s d.sqid d.seq) (hd : dedupDist s d.sqid d.seq < 0)
    (hj : s.job d.sqid d.seq = none) :
    takeDesc s p d mask = answerDuplicate (s.bump keyRxDuplicateDesc 1) d.sqid d.seq p := by
  simp [takeDesc, he, not_lt.2 hw, hd, hj]

theorem takeDesc_of_uncredited (he : (s.queue d.sqid).enable = true) (hd : 0 ≤ dedupDist s d.sqid d.seq)
    (hc : precedes d.seq (s.queue d.sqid).creditSeq = false) :
    takeDesc s p d mask = refuse (s.bump keyRxNoCredit 1) d.sqid 0x16 d.seq p := by
  simp [takeDesc, he, not_lt.2 hd, hc]

theorem takeDesc_of_held {a : Asm} (he : (s.queue d.sqid).enable = true) (hd : 0 ≤ dedupDist s d.sqid d.seq)
    (hc : precedes d.seq (s.queue d.sqid).creditSeq = true) (ha : asmGet s d.sqid d.seq = some a) (hdesc : a.desc ≠ none) :
    takeDesc s p d mask = s.bump keyRxDuplicateDesc 1 := by
  simp [takeDesc, he, not_lt.2 hd, hc, ha, Option.isSome_iff_ne_none.2 hdesc]

theorem takeDesc_of_new (he : (s.queue d.sqid).enable = true) (hd : 0 ≤ dedupDist s d.sqid d.seq)
    (hc : precedes d.seq (s.queue d.sqid).creditSeq = true) (ha : asmGet s d.sqid d.seq = none) :
    takeDesc s p d mask
      = judgeAsm s d.sqid d.seq { Asm.new s.time.now with desc := some d, mask := mask, descPort := p } p := by
  simp [takeDesc, he, not_lt.2 hd, hc, ha, Asm.new]

/-! ## DATA segments (R80) -/

theorem takeData_of_disabled (he : (s.queue q).enable = false) :
    takeData s p q k seq total off b bad = s.bump keyRxDisabled 1 := by
  simp [takeData, he]

theorem takeData_of_passed (he : (s.queue q).enable = true) (hd : dedupDist s q seq < 0) :
    takeData s p q k seq total off b bad = s.bump keyRxDuplicateData 1 := by
  simp [takeData, he, hd]

theorem takeData_of_uncredited (he : (s.queue q).enable = true) (hd : 0 ≤ dedupDist s q seq)
    (hc : precedes seq (s.queue q).creditSeq = false) :
    takeData s p q k seq total off b bad = s.bump keyRxNoCredit 1 := by
  simp [takeData, he, not_lt.2 hd, hc]

/-- An assembly that holds nothing covers no byte. -/
theorem covered_new {now lo hi : Nat} (h : lo < hi) : covered (Asm.new now) k lo hi = false := by
  simpa [covered, coveredTo, Asm.new] using h

/-- The faults of a segment of which nothing else is held for its slot (R70). -/
theorem segFault_new_iff {now : Nat} (hb : b ≠ []) :
    segFault (Asm.new now) k total off b.length = true ↔
      off % 64 ≠ 0 ∨ total = 0 ∨ 8960 < b.length ∨ (b.length % 64 ≠ 0 ∧ off + b.length ≠ total) ∨ total < off + b.length := by
  have hlen : b.length ≠ 0 := by simpa using hb
  simp [segFault, slotTotal, Asm.new, hb, or_assoc]

theorem takeData_of_first (he : (s.queue q).enable = true) (hd : 0 ≤ dedupDist s q seq)
    (hc : precedes seq (s.queue q).creditSeq = true) (ha : asmGet s q seq = none) (hb : b ≠ []) :
    takeData s p q k seq total off b bad =
      if off % 64 ≠ 0 ∨ total = 0 ∨ 8960 < b.length ∨ (b.length % 64 ≠ 0 ∧ off + b.length ≠ total) ∨ total < off + b.length
      then mismatch s q seq p
      else judgeAsm s q seq
        { Asm.new s.time.now with segs := [{ port := p, slot := k, total := total, offset := off, bytes := b, bad }] } p := by
  have hcov : covered (Asm.new s.time.now) k off (off + b.length) = false :=
    covered_new (by have := List.length_pos_of_ne_nil hb; omega)
  simp only [takeData, he, not_lt.2 hd, hc, ha, hcov, segFault_new_iff hb, Option.getD_none, Bool.not_true, Bool.and_false,
    Bool.false_eq_true, if_false]
  rfl

/-! ## The obligation -/

/-- Settles O18: one lemma for each class of R79 and R80. -/
theorem descriptorsAndSegmentsAreClassified : Obligations.DescriptorsAndSegmentsAreClassified := by
  unfold Obligations.DescriptorsAndSegmentsAreClassified
  intro s p q d mask seq k total off b bad x dist credited
  have hcredit (n : BitVec 32) : precedes n x.creditSeq = true ↔ credited n := decide_eq_true_iff
  have hnocredit (n : BitVec 32) (h : ¬credited n) : precedes n x.creditSeq = false := decide_eq_false h
  refine ⟨?desc, takeData_of_disabled, takeData_of_passed, fun he hd hc => takeData_of_uncredited he hd (hnocredit _ hc),
    fun he hd hc ha hb => takeData_of_first he hd ((hcredit _).2 hc) ha hb⟩
  rintro rfl
  exact ⟨takeDesc_of_disabled, takeDesc_of_stale, takeDesc_of_duplicate, fun he hd hc => takeDesc_of_uncredited he hd (hnocredit _ hc),
    fun a he hd hc ha hdesc => takeDesc_of_held he hd ((hcredit _).2 hc) ha hdesc,
    fun he hd hc ha => takeDesc_of_new he hd ((hcredit _).2 hc) ha⟩

end Sys2Proof.Machine

/-!
# Job acceptance (O19)

A complete assembly at the head of its queue comes to the checks of R73, then to the copy of its slots, then to the read of
its data: one lemma for each way it can end.
-/

namespace Sys2Proof.Machine

variable {s : State} {q : Nat} {a : Asm} {d : Desc}

/-! ## The first failing check (R73) -/

theorem refusalOf_of_noGraph (h : s.graph d.graph = none) : refusalOf s a d = some 0x10 := by
  simp [refusalOf, h]

theorem refusalOf_of_timedNull {g : Graph} (h : s.graph d.graph = some g) (h0 : d.graph = 0) (ht : d.timed = true) :
    refusalOf s a d = some 0x19 := by
  rw [refusalOf, h]
  simp [h0, ht]

/-! ## The steps (R81, R83, R84) -/

section
variable (hq : q < 4096) (ha : asmGet s q (s.queue q).nextSeq = some a) (hd : a.desc = some d) (hc : a.complete = true)
  (hs : s.serving = true) (hp : s.powered = true) (hph : s.power.phase = 0)
include hq ha hd hc hs hp hph

theorem execJobAccept_of_refused {code : Nat} (hr : refusalOf s a d = some code) :
    execJobAccept q s = .next (updateHeadroom (refuse
      (asmDel (if code = 0x16 then s.bump keyRxNoCredit 1 else s) q (s.queue q).nextSeq) q code (s.queue q).nextSeq a.descPort)) := by
  simp [execJobAccept, onUnit_lt _ hq, ha, hd, hc, hs, hp, hph, hr, done]

theorem execJobAccept_of_noBuffer (hr : refusalOf s a d = none) (hb : copySlots s a d [0, 1, 2, 3] = none) :
    execJobAccept q s = .next (if a.waiting then s
      else (asmSet s q (s.queue q).nextSeq { a with waiting := true }).bump keyPoolWaits 1) := by
  simp [execJobAccept, onUnit_lt _ hq, ha, hd, hc, hs, hp, hph, hr, hb, done]

theorem execJobAccept_of_accepted {t : State} {copies : List (Nat × Nat)} (hr : refusalOf s a d = none)
    (hb : copySlots s a d [0, 1, 2, 3] = some (t, copies)) (hg : (readSegs t a).2 = false) :
    execJobAccept q s = .next (jobWake (updateHeadroom (settleAll s
      (mirrorStep (journalJob (readSegs t a).1 a d copies) q (s.queue q).nextSeq)))) := by
  simp [execJobAccept, onUnit_lt _ hq, ha, hd, hc, hs, hp, hph, hr, hb, hg, done]

theorem execJobAccept_of_unreadable {t : State} {copies : List (Nat × Nat)} (hr : refusalOf s a d = none)
    (hb : copySlots s a d [0, 1, 2, 3] = some (t, copies)) (hg : (readSegs t a).2 = true) :
    execJobAccept q s = .next (updateHeadroom (settleAll s
      (asmDel ((readSegs s a).1.bump keyIngressErrors 1) q (s.queue q).nextSeq))) := by
  simp [execJobAccept, onUnit_lt _ hq, ha, hd, hc, hs, hp, hph, hr, hb, hg, done]

end

/-! ## ASSEMBLY_TIMEOUT (R81) -/

theorem execAssemblyTimeout_of_due {seq : BitVec 32} (ha : asmGet s q seq = some a) (hc : a.complete = false)
    (hd : a.started + s.oval keyAssemblyTimeout * 1000 ≤ s.time.now) :
    execAssemblyTimeout q seq s = .next (updateHeadroom ((asmDel s q seq).bump keyAssemblyExpired 1)) := by
  rw [execAssemblyTimeout, ha]
  exact whenSt_of_true _ (by simp [hc, hd])

/-! ## The obligation -/

/-- Settles O19: each outcome of `execJobAccept` under the checks that lead to it, and the timeout. -/
theorem jobAcceptanceFollowsItsSteps : Obligations.JobAcceptanceFollowsItsSteps := by
  unfold Obligations.JobAcceptanceFollowsItsSteps
  intro s q a d hq seq
  refine ⟨fun ha hd hc hs hp hph => ⟨fun code hr hne => ?refused, fun hr => ?noCredit, fun hr hb hw => ?noBuffer,
    fun t copies hr hb => ⟨fun hg => ?accepted, fun hg => ?unreadable⟩, refusalOf_of_noGraph,
    fun g => refusalOf_of_timedNull⟩, fun seq' => execAssemblyTimeout_of_due⟩
  case refused => rw [exec_jobAccept, execJobAccept_of_refused hq ha hd hc hs hp hph hr, if_neg hne]
  case noCredit => rw [exec_jobAccept, execJobAccept_of_refused hq ha hd hc hs hp hph hr, if_pos rfl]
  case noBuffer => rw [exec_jobAccept, execJobAccept_of_noBuffer hq ha hd hc hs hp hph hr hb, hw]; rfl
  case accepted => exact execJobAccept_of_accepted hq ha hd hc hs hp hph hr hb hg
  case unreadable => exact execJobAccept_of_unreadable hq ha hd hc hs hp hph hr hb hg

end Sys2Proof.Machine

/-!
# Ports and the mirror stream (O21)

Each command acts only where its condition stands. One lemma for each says that it stands under the hypotheses of the
rule, and what the command then does.
-/

namespace Sys2Proof.Machine
variable {s : State} {p : Nat}

/-! ## Port failover (R104, R105) -/

theorem portUp_iff : portUp s p = true ↔ (s.port p).state ≠ 0 := decide_eq_true_iff

theorem portUp_false_iff : portUp s p = false ↔ (s.port p).state = 0 := by simp [portUp]

/-- A write of one port leaves whether the other is up. -/
theorem portUp_setPort_other (hp : p < 2) (x : Port) : portUp (s.setPort p x) (1 - p) = portUp s (1 - p) := by
  rw [portUp, State.port_setPort_ne _ _ _ _ (by omega), portUp]

theorem execPortDown_of_persisted {since : Nat} (hp : p < 2) (hu : (s.port p).state ≠ 0)
    (hd : since + s.oval keyPortDownTime ≤ s.time.now) :
    execPortDown ⟨p, since⟩ s = .next (
      let u := { s.setPort p { s.port p with state := 0, xoff := false } with held := s.held.filter fun x => decide (x.1 ≠ p) }
      let t := logFault u (faultNoJob u (regPort p) 0x0E 0x0D)
      let qs := queuesOn t p
      let moved := moveEntries (moveFresh (qs.foldl (fun t q => setActive t q (1 - p)) t) p (1 - p)) p (1 - p)
      let again := qs.foldl (fun t q => failOver t q (1 - p)) moved
      settle s (portLeavesPtp (moveVlinks again fun _ x => if x.activePort = p then 1 - p else x.activePort) p)) := by
  rw [execPortDown, onUnit_lt _ hp]
  exact whenSt_of_true _ (by simp [portUp_iff.2 hu, hd])

theorem execPortUp_of_down (hp : p < 2) (hd : (s.port p).state = 0) (hs : s.serving = true) (hw : s.powered = true) :
    execPortUp p s = .next (
      let t := s.setPort p { s.port p with state := 2, upSince := s.time.now }
      let qs := queuesOn t (1 - p)
      let moved := moveEntries (moveFresh (qs.foldl (fun t q => setActive t q p) t) (1 - p) p) (1 - p) p
      let across := moveVlinks (qs.foldl (fun t q => failOver t q p) moved) fun _ _ => p
      settle s (updateHeadroom (portOpens (if portUp s (1 - p) then t else across) p))) := by
  rw [execPortUp, onUnit_lt _ hp, whenSt_of_true _ (by simp [portUp_false_iff.2 hd, hs, hw])]
  simp only [portUp_setPort_other hp]

theorem execPortUpHoldExpiry_of_due (hp : p < 2) (h2 : (s.port p).state = 2)
    (hd : (s.port p).upSince + s.oval keyPortUpHold * 1000000 ≤ s.time.now) :
    execPortUpHoldExpiry p s = .next (
      let t := s.setPort p { s.port p with state := 1 }
      let back := (t.queues.filter fun y => decide (y.2.homePort = p) && decide (y.2.activePort ≠ p)).foldl
        (fun t y => setActive t y.1 p) (homeFresh t p)
      moveVlinks back fun n y =>
        if tbit (beNat (s.domBytes keyEcpriVlinks (16 * n) 16)) 126 = decide (p = 1) then p else y.activePort) := by
  rw [execPortUpHoldExpiry, onUnit_lt _ hp]
  exact whenSt_of_true _ (by simp [h2, hd])

/-! ## The mirror stream (R89, R177, R178, R180, R181) -/

section
variable (hs : s.serving = true)
include hs

theorem execMirrorTimeout_of_due (hb : buddyOn s = true) (hr : s.mirrorTx.reachable = true) (hu : s.mirrorTx.unacked ≠ [])
    (ht : 1 ≤ s.mirrorTx.tries) (hd : s.mirrorTx.sentAt + s.oval keyMirrorTimeout ≤ s.time.now) :
    execMirrorTimeout s = .next (
      let t := declareUnreachable (s.bump keyMirrorTimeouts 1)
      if s.oval keyMirrorMode = 0 then sendAllDue (acceptUnmirrored t) else t) := by
  have hmode : (declareUnreachable (s.bump keyMirrorTimeouts 1)).oval keyMirrorMode = s.oval keyMirrorMode :=
    State.oval_bump_ne s keyMirrorTimeouts keyMirrorMode 1 (by decide)
  simp only [execMirrorTimeout, hmode]
  exact whenSt_of_true _ (by simp [hs, hb, hr, hu, ht, hd])

theorem execMirrorResend_of_due {m : MirrorEntry} (hw : s.powered = true) (hb : buddyOn s = true)
    (hm : m ∈ s.mirrorTx.unacked) (hd : m.sent + s.oval keyMirrorTimeout / 4 ≤ s.time.now) :
    execMirrorResend s = .next (resendMirror { s with mirrorTx := { s.mirrorTx with tries := s.mirrorTx.tries + 1 } }) := by
  have hany : (s.mirrorTx.unacked.any fun m => decide (m.sent + s.oval keyMirrorTimeout / 4 ≤ s.time.now)) = true :=
    List.any_eq_true.2 ⟨m, hm, decide_eq_true hd⟩
  exact whenSt_of_true _ (by simp only [hs, hw, hb, hany, Bool.and_self])

theorem execMirrorKeepalive_of_due (hw : s.powered = true) (hb : buddyOn s = true) (hr : s.mirrorTx.reachable = true)
    (hd : s.mirrorTx.lastSend + 1000000 ≤ s.time.now) : execMirrorKeepalive s = .next (mirrorPut s keepAlive) :=
  whenSt_of_true _ (by simp [hs, hw, hb, hr, hd])

theorem execBuddyFence_of_due (hm : s.oval keyMirrorMode = 1) (hf : s.mirrorTx.fenced = false)
    (hd : s.mirrorTx.lastAck + s.oval keyBuddyFenceTime * 1000000 ≤ s.time.now) :
    execBuddyFence s = .next ({ s with mirrorTx := { s.mirrorTx with fenced := true } }.bump keyFences 1) :=
  whenSt_of_true _ (by simp [hs, hm, hf, hd])

theorem execBuddyDead_of_due {source : Nat} (hsrc : isSource s source = true)
    (hm : s.oval keyTakeoverMode = 1) (ht : (srcOf s source).takeover = 0) (hn : (srcOf s source).dormant = false)
    (hi : nth0 (srcOf s source).identity 2 % 2 = 1)
    (hd : (srcOf s source).lastFrame + s.oval keyBuddyDeadTime * 1000000 ≤ s.time.now) :
    execBuddyDead source s = .next (settleAll s (takeOver s source)) :=
  whenSt_of_true _ (by simp [hs, hsrc, hm, ht, hn, tbit, hi, hd])

end

/-! ## Sources (R175) -/

theorem isSource_iff {d : Nat} :
    isSource s d = true ↔ d ≠ 0xFFFF ∧ (s.oval keyMirrorFrom0 = d ∨ s.oval keyMirrorFrom1 = d) := by
  simp [isSource]

theorem srcOf_of_find {d : Nat} {y : MirrorSrc} (h : (s.srcs.find? fun z => decide (z.source = d)) = some y) :
    srcOf s d = y := by
  rw [srcOf, h]
  rfl

/-! ## The obligation -/

/-- Settles O21: each clause is the lemma of its command, whose condition the hypotheses meet. -/
theorem portsAndMirrorFollowTheRules : Obligations.PortsAndMirrorFollowTheRules := by
  unfold Obligations.PortsAndMirrorFollowTheRules
  refine ⟨fun s p since hp => ⟨execPortDown_of_persisted hp, fun hd hs hw ho => ?bothUp, fun hd hs hw ho => ?takesOver,
    execPortUpHoldExpiry_of_due hp⟩, fun s => ⟨fun hs hb => ?buddy, fun hs => execBuddyFence_of_due hs,
    fun source y hs hy hne hfrom hm ht hn hi hd => ?dead⟩⟩
  case bothUp =>
    have hup := portUp_iff.2 ho
    rw [exec_portUp, execPortUp_of_down hp hd hs hw, hup]
    rfl
  case takesOver =>
    have hdown := portUp_false_iff.2 ho
    rw [exec_portUp, execPortUp_of_down hp hd hs hw, hdown]
    rfl
  case buddy =>
    have hbuddy : buddyOn s = true := buddyOn_iff.2 hb
    exact ⟨execMirrorTimeout_of_due hs hbuddy, fun m hm hw hd => execMirrorResend_of_due hs hw hbuddy hm hd,
      fun hw => execMirrorKeepalive_of_due hs hw hbuddy⟩
  case dead =>
    have hx := srcOf_of_find hy
    subst hx
    exact execBuddyDead_of_due hs (isSource_iff.2 ⟨hne, hfrom⟩) hm ht hn hi hd

end Sys2Proof.Machine

/-!
# Cleip writes that reach the rule of their object

`Proposes` says which writes come to the rule of an object. The row that takes such a write runs that rule, so that what a
row's command does is `applyOne` of the object, and the rest is one lemma for each object that says which rule that is.
-/

namespace Sys2Proof.Machine

variable {s t : State} {r : CleipReq} {k op : Nat} {w : WReq} {mine : Nat → Bool} {i : Instr}
variable {answer : Option (Nat × Nat)} {rule : State → WReq → Applied}

/-! ## What a proposed write is -/

theorem Proposes.key (h : Proposes s r k op t w) : w.key = k := by
  cases h with
  | whole h => exact h.2.1
  | segment h few free start => exact h.2.1
  | staged b h mine next start => exact h.2.1

theorem Proposes.reqKey (h : Proposes s r k op t w) : reqKey r = k := by
  cases h with
  | whole h => exact h.2.1
  | segment h few free start => exact h.2.1
  | staged b h mine next start => exact h.2.1

theorem isDomain_iff : isDomain k = true ↔ ∃ row, objRow (k / 256) (k % 256) = some row ∧ row.ty = .domain := by
  unfold isDomain
  split <;> simp [*]

theorem inTable_of_domain {row : ObjRow} (h : row.ty = .domain) (v : Nat) : inTable row v = true := by
  simp [inTable, h]

/-- A value that reaches its object's rule lies in the range of the table. -/
theorem Proposes.inTable (h : Proposes s r k op t w) :
    ∃ row, objRow (k / 256) (k % 256) = some row ∧ inTable row w.val = true := by
  have ofDomain (hd : isDomain k = true) (v : Nat) :
      ∃ row, objRow (k / 256) (k % 256) = some row ∧ Machine.inTable row v = true := by
    obtain ⟨row, hrow, hty⟩ := isDomain_iff.1 hd
    exact ⟨row, hrow, inTable_of_domain hty v⟩
  cases h with
  | whole h =>
    obtain ⟨-, -, -, -, row, hrow, -, hv⟩ := h
    exact ⟨row, hrow, hv⟩
  | segment h few free start => exact ofDomain h.2.2.1 _
  | staged b h mine next start => exact ofDomain h.2.2.1 _

/-- A scalar is written by a WRITE alone. -/
theorem Proposes.of_scalar (h : Proposes s r k op t w) (hk : isDomain k = false) :
    Reaches s r k ∧ op = 2 ∧ t = taken s r ∧ w = proposed r := by
  cases h with
  | whole h => exact ⟨h, rfl, rfl, rfl⟩
  | segment h few free start => simp [h.2.2.1] at hk
  | staged b h mine next start => simp [h.2.2.1] at hk

/-! ## From the row to the rule of the object -/

/-- A segment whose status so far is OK may write its object. -/
theorem block_granted_of_preStatus (h : preStatus s 4 r = csOk) : 2 ≤ reqAccess (reqKey r) (roleOf r.src.carrier) := by
  by_contra hlt
  have hg : grants (reqAccess (reqKey r) (roleOf r.src.carrier)) 4 = false := by simpa [grants] using hlt
  unfold preStatus at h
  simp only [hg, Bool.not_false, if_true] at h
  split_ifs at h

/-- A request that reaches the rule of its object may write it. -/
theorem Proposes.granted (h : Proposes s r k op t w) : 2 ≤ reqAccess k (roleOf r.src.carrier) := by
  cases h with
  | whole h =>
    obtain ⟨-, rfl, -, hst, -⟩ := h
    exact write_granted_of_preStatus hst
  | segment h few free start =>
    obtain ⟨-, rfl, -, -, hst⟩ := h
    exact block_granted_of_preStatus hst
  | staged b h mine next start =>
    obtain ⟨-, rfl, -, -, hst⟩ := h
    exact block_granted_of_preStatus hst

theorem applyWrite_of_granted {row : ObjRow} {block : Bool} (hk : w.key ≠ keyConfigBackup)
    (hrow : objRow (w.key / 256) (w.key % 256) = some row) (ha : 2 ≤ reqAccess w.key w.role)
    (hf : fitsType s row w.key block w.data = true) (hv : inTable row w.val = true) :
    applyWrite answer s w block = afterWrite s w.key (applyOne answer s w) := by
  have hacc : ¬ accessOf row (w.key / 256) w.role < 2 := by simpa only [reqAccess, hrow, not_lt] using ha
  simp [applyWrite, hk, writeObject, hrow, hacc, hf, hv]

theorem applyWrite_of_segment {u : State} (h : LastSegment s r k) (hk : k ≠ keyConfigBackup) (off : Nat) (b : List Byte) :
    applyWrite none u (reqWrite r off b) true
      = afterWrite u k (applyOne none u (reqWrite r off b)) := by
  obtain ⟨-, hkey, hdom, -, hst⟩ := h
  obtain ⟨row, hrow, hty⟩ := isDomain_iff.1 hdom
  subst hkey
  exact applyWrite_of_granted (w := reqWrite r off b) hk hrow (block_granted_of_preStatus hst)
    (by simp [fitsType, hty]) (inTable_of_domain hty _)

/-- The only segment of a block write, where nothing stands in its way. -/
theorem openBlock_of_last (hd : isDomain (reqKey r) = true) (hl : r.last = true) (few : s.cleip.blocks.length < 4)
    (free : ∀ b ∈ s.cleip.blocks, b.key ≠ reqKey r) (start : isVariable (reqKey r) = true → r.offset = 0) :
    openBlock s r csOk = endWrite s 4 r (reqWrite r r.offset (r.body.take r.length))
      (applyWrite none s (reqWrite r r.offset (r.body.take r.length)) true) := by
  have hfree : (s.cleip.blocks.any fun b => decide (b.key = reqKey r)) = false := by simpa using free
  have hstart : (isVariable (reqKey r) && decide (r.offset ≠ 0)) = false := by simpa using start
  simp only [openBlock, hd, hl, hfree, hstart, not_le.2 few, ne_eq, not_true_eq_false, if_false, if_true, Bool.not_true,
    Bool.false_eq_true, decide_false, Bool.or_false, Bool.false_and, and_false]

/-- The last of several segments, which follows the one before. -/
theorem nextBlock_of_last {b : BlockWrite} (hl : r.last = true) (hn : r.offset = b.start + b.data.length) :
    nextBlock s r csOk b = endWrite (closeBlock s b.key) 4 r (reqWrite r b.start (b.data ++ r.body.take r.length))
      (applyWrite none (closeBlock s b.key) (reqWrite r b.start (b.data ++ r.body.take r.length)) true) := by
  simp [nextBlock, hl, hn]

theorem serve_counted_writeBlock : serve answer (counted s r) 4 r = serveWriteBlock (taken s r) r := rfl

/-- A WRITE that reaches the rule of its object, in the row that takes it. -/
theorem request_of_reaches (h : Reaches s r k) (hk : k ≠ keyConfigBackup) :
    request true answer 2 r s
      = .next (endWrite (taken s r) 2 r (proposed r) (afterWrite (taken s r) k (applyOne answer (taken s r) (proposed r)))) := by
  obtain ⟨hs, hkey, hl, hst, row, hrow, hf, hv⟩ := h
  subst hkey
  rw [request_of_mine hs.1, arrive_of_served hs (by decide) (by decide), serve_counted_write]
  have hw : applyWrite answer (taken s r) (proposed r) false
      = afterWrite (taken s r) (reqKey r) (applyOne answer (taken s r) (proposed r)) :=
    applyWrite_of_granted hk hrow (write_granted_of_preStatus hst) hf hv
  rw [← hw, serveWrite, hst]
  rfl

/-- What a row's command does with a write that reaches the rule of an object of the row. -/
theorem exec_of_proposes (hrow : RowOf r mine i) (hm : mine (reqKey r) = true) (hb : ∀ b, i ≠ .buddy r b)
    (hk : k ≠ keyConfigBackup) (h : Proposes s r k op t w) :
    exec i s = .next (endWrite t op r w (afterWrite t k (applyOne none t w))) := by
  obtain ⟨answer, hexec, hnone⟩ := exec_of_rowOf hrow s
  rw [hexec, hnone hb, hm]
  cases h with
  | whole h =>
    have hop : writeOp r = 2 := by simp [writeOp, h.2.2.1]
    rw [hop, request_of_reaches h hk]
  | segment h few free start =>
    obtain ⟨hs, hkey, hdom, hl, hst⟩ := id h
    subst hkey
    have hop : writeOp r = 4 := by simp [writeOp, hl, hdom]
    have hnew : ((taken s r).cleip.blocks.find? fun b => decide (b.key = reqKey r) && sameReq b.requester r.src) = none := by
      rw [List.find?_eq_none]
      intro b hmem
      simp [free b hmem]
    rw [hop, request_of_mine hs.1, arrive_of_served hs (by decide) (by decide), serve_counted_writeBlock, serveWriteBlock,
      hnew, hst]
    dsimp only
    rw [openBlock_of_last hdom hl few free start, applyWrite_of_segment h hk]
  | staged b h mine next start =>
    obtain ⟨hs, hkey, hdom, hl, hst⟩ := id h
    subst hkey
    have hop : writeOp r = 4 := by simp [writeOp, hl, hdom]
    have hbkey : b.key = reqKey r := by
      have := List.find?_some mine
      simp only [Bool.and_eq_true, decide_eq_true_eq] at this
      exact this.1
    rw [hop, request_of_mine hs.1, arrive_of_served hs (by decide) (by decide), serve_counted_writeBlock, serveWriteBlock,
      mine, hst]
    dsimp only
    rw [nextBlock_of_last hl next, applyWrite_of_segment h hk, hbkey]

/-! ## The tables of rules -/

theorem getD_orElse_of_some {α : Type} {x : Option α} {a : α} (h : x = some a) (f : Unit → Option α) (d : α) :
    (x.orElse f).getD d = a := by
  subst h
  rfl

theorem getD_orElse_of_none {α : Type} {x : Option α} (h : x = none) (f : Unit → Option α) (d : α) :
    (x.orElse f).getD d = (f ()).getD d := by
  subst h
  rfl

section
variable {a : Applied}

theorem applyOne_of_transport (h : writeTransport t w = some a) : applyOne answer t w = a :=
  getD_orElse_of_some h _ _

theorem applyOne_of_fault (ht : writeTransport t w = none) (h : writeFault answer t w = some a) : applyOne answer t w = a :=
  (getD_orElse_of_none ht _ _).trans (getD_orElse_of_some h _ _)

theorem applyOne_of_unit (ht : writeTransport t w = none) (hf : writeFault answer t w = none) (h : writeUnit t w = some a) :
    applyOne answer t w = a :=
  (getD_orElse_of_none ht _ _).trans ((getD_orElse_of_none hf _ _).trans (getD_orElse_of_some h _ _))

theorem applyOne_of_port (ht : writeTransport t w = none) (hf : writeFault answer t w = none) (hu : writeUnit t w = none)
    (h : writePort t w = some a) : applyOne answer t w = a := by
  have hport : applyOne answer t w = (writePort t w).getD (applyPlain t w) :=
    (getD_orElse_of_none ht _ _).trans ((getD_orElse_of_none hf _ _).trans (getD_orElse_of_none hu _ _))
  rw [hport, h]
  rfl

/-- An object in none of the tables takes any value that its type and range allow. -/
theorem applyOne_of_none (ht : writeTransport t w = none) (hf : writeFault answer t w = none) (hu : writeUnit t w = none)
    (hp : writePort t w = none) : applyOne answer t w = applyPlain t w := by
  have hport : applyOne answer t w = (writePort t w).getD (applyPlain t w) :=
    (getD_orElse_of_none ht _ _).trans ((getD_orElse_of_none hf _ _).trans (getD_orElse_of_none hu _ _))
  rw [hport, hp]
  rfl

end

/-- A row answers as the rule of its object says, where the model's rule of that object is that rule. -/
theorem written_of_applyOne (hrow : RowOf r mine i) (hm : mine k = true) (hb : ∀ b, i ≠ .buddy r b)
    (hk : k ≠ keyConfigBackup)
    (hrule : ∀ op t w, Proposes s r k op t w → applyOne none t w = rule t w) : Written s r k rule (exec i s) := by
  intro op t w h
  rw [exec_of_proposes hrow (h.reqKey ▸ hm) hb hk h, hrule op t w h]

end Sys2Proof.Machine

/-!
# Queues, pools and the result store (O48)

What is left of each write is the rule of its object, with its conditions put as the spec puts them.
-/

namespace Sys2Proof.Machine

variable {s t : State} {r : CleipReq} {k op q p : Nat} {w : WReq} {answer : Option (Nat × Nat)}

/-! ## The rules by their objects -/

theorem applyOne_queueReset (h : w.key = keyQueueReset) : applyOne answer t w = applyQueueReset t w :=
  applyOne_of_transport (by simp [writeTransport, h])

theorem applyOne_queueConfig (h : w.key = keyQueueConfig) : applyOne answer t w = applyQueueConfig t w :=
  applyOne_of_transport (by simp [writeTransport, h])

theorem applyOne_resultStore (h : w.key = keyResultStoreBytes ∨ w.key = keyResultBufSize ∨ w.key = keyResultHandles) :
    applyOne answer t w = applyResultStore t w :=
  applyOne_of_transport (by rcases h with h | h | h <;> simp [writeTransport, h])

/-- Between the single objects below and above stand the families: the pools, the policy values and their bounds. -/
theorem writeTransport_of_family (hlo : 0x430100 ≤ w.key) (hhi : w.key < 0x510000) : writeTransport t w =
    if 0x430100 ≤ w.key ∧ w.key < 0x43FF00 then some (applyPoolConfig t w)
    else if w.key / 256 = 0x5000 then some (applyPolicy t w)
    else if w.key / 256 = 0x5001 ∨ w.key / 256 = 0x5002 then some (applyPolicyBound t w)
    else none := by
  unfold writeTransport
  split
  any_goals omega
  rfl

theorem applyOne_poolConfig (hlo : 0x430100 ≤ w.key) (hhi : w.key < 0x43FF00) :
    applyOne answer t w = applyPoolConfig t w :=
  applyOne_of_transport (by rw [writeTransport_of_family hlo (by omega), if_pos ⟨hlo, hhi⟩])

/-! ## Queues (R107, R108, R110) -/

theorem queueBusy_iff : queueBusy t q = true ↔ (∃ j ∈ t.jobs, j.qn = q) ∨ (∃ a ∈ t.asms, a.1.1 = q) := by
  simp [queueBusy]

theorem not_queueCfgOk_iff {v : Nat} : (!queueCfgOk v) = true ↔
    4 < bits v 122 120 ∨ bits v 111 96 < 1 ∨ 32768 < bits v 111 96 ∨ bits v 95 64 < 1 ∨ 1048576 < bits v 95 64 := by
  simp only [queueCfgOk, Bool.not_eq_true', Bool.and_eq_false_iff, decide_eq_false_iff_not, not_le, or_assoc]

/-- A CREDIT entry changes of its queue only whether one is due: it is where the port cannot send. -/
theorem queue_sendCredit_same {x : Queue} (h : t.queue q = x) :
    (sendCredit t q).queue q = { x with creditDue := !canSend t x.activePort } := by
  subst h
  cases h : canSend t (t.queue q).activePort <;> simp [sendCredit, h]

theorem queue_sendCredit_ne (h : p ≠ q) : (sendCredit t q).queue p = t.queue p := by
  unfold sendCredit
  dsimp only
  split
  all_goals exact State.queue_setQueue_ne _ _ _ _ h

@[simp] theorem sendCredit_jobs : (sendCredit t q).jobs = t.jobs := by
  unfold sendCredit
  dsimp only
  split <;> rfl

@[simp] theorem sendCredit_jReserved : (sendCredit t q).jReserved = t.jReserved := by
  unfold sendCredit
  dsimp only
  split <;> rfl

/-- A queue in the state of R107, enabled; a queue that was not is active on its home port while that is up (R104). -/
def Queue.reset (t : State) (x : Queue) : Queue :=
  { x with
    enable := true, nextSeq := 0, creditSeq := 0, releasedSeq := 0xFFFFFFFF, ackSeq := 0xFFFFFFFF, acceptedUnits := 0
    creditUnits := 0, pendingRec := none, retxDue := 0, retxInterval := 0, retxHalted := none, lastResend := none
    toSend := [], resends := []
    activePort := if x.enable then x.activePort else if portUp t x.homePort then x.homePort else 1 - x.homePort }

theorem queue_resetQueueState_same : (resetQueueState t q).queue q =
    { (t.queue q).reset t with creditDue := !canSend t ((t.queue q).reset t).activePort } :=
  queue_sendCredit_same (State.queue_setQueue t q ((t.queue q).reset t))

theorem queue_resetQueueState_ne (h : p ≠ q) : (resetQueueState t q).queue p = t.queue p :=
  (queue_sendCredit_ne h).trans (State.queue_setQueue_ne _ _ _ _ h)

@[simp] theorem resetQueueState_jobs : (resetQueueState t q).jobs = t.jobs := sendCredit_jobs

theorem resetQueueState_jReserved :
    (resetQueueState t q).jReserved = t.jReserved - 2 * ((t.queue q).creditSeq - (t.queue q).nextSeq).toNat :=
  sendCredit_jReserved

/-! ## The result store (R102) -/

/-- The DRAM pools are those from 1 to 0x7E (R31). -/
theorem anyDramPool_iff {c d : Nat → Prop} [DecidablePred c] [DecidablePred d] :
    (((List.range 0x7E).map (· + 1)).any fun p => decide (c p) && decide (d p)) = true
      ↔ ∃ p ∈ List.range 0x7F, 1 ≤ p ∧ c p ∧ d p := by
  simp only [List.any_eq_true, List.mem_map, List.mem_range, Bool.and_eq_true, decide_eq_true_eq]
  constructor
  · rintro ⟨-, ⟨p, hp, rfl⟩, hc⟩
    exact ⟨p + 1, by omega, by omega, hc⟩
  · rintro ⟨p, hp, hpos, hc⟩
    exact ⟨p, ⟨p - 1, by omega, by omega⟩, hc⟩

/-! ## The obligation -/

/-- Settles O48: the rule that the tables give each object, its tests read as the conditions of the spec. -/
theorem queueAndPoolWritesFollowTheRules : Obligations.QueueAndPoolWritesFollowTheRules := by
  unfold Obligations.QueueAndPoolWritesFollowTheRules
  intro s r
  refine ⟨written_of_applyOne .queueReset (by decide) (by simp) (by decide) fun op t w h => ?queueReset,
    fun t q => ?resetState,
    written_of_applyOne .queueConfig (by decide) (by simp) (by decide) fun op t w h => ?queueConfig,
    fun p sub hp1 hp hne hs2 hs6 => written_of_applyOne .poolConfig ?poolMine (by simp) (by unfold keyConfigBackup; omega)
      fun op t w h => ?pool,
    fun k hk => written_of_applyOne .resultStoreConfig (by rcases hk with rfl | rfl | rfl <;> decide) (by simp)
      (by rcases hk with rfl | rfl | rfl <;> decide) fun op t w h => ?resultStore⟩
  case queueReset =>
    rw [applyOne_queueReset h.key, applyQueueReset]
    exact if_congr Iff.rfl rfl (if_congr queueBusy_iff rfl rfl)
  case resetState =>
    dsimp only
    rw [queue_resetQueueState_same]
    exact ⟨rfl, rfl, rfl, rfl, rfl, rfl, rfl, rfl, rfl, rfl, rfl, resetQueueState_jReserved, resetQueueState_jobs, rfl,
      fun p hp => queue_resetQueueState_ne hp⟩
  case queueConfig =>
    rw [applyOne_queueConfig h.key, applyQueueConfig]
    simp only [List.any_map, List.foldl_map]
    refine if_congr ?_ rfl (if_congr ?_ rfl rfl)
    · simp only [List.any_eq_true, Function.comp_apply, not_queueCfgOk_iff]
    · simp [and_assoc]
  case poolMine =>
    simp only [isPoolSetting, Bool.and_eq_true, decide_eq_true_eq]
    omega
  case pool =>
    have hkey := h.key
    rw [applyOne_poolConfig (by omega) (by omega), applyPoolConfig]
    have hpool : w.key / 256 - 0x4300 = p := by omega
    have hsub : w.key % 256 = sub := by omega
    simp only [hpool, hsub, if_neg hne]
    rfl
  case resultStore =>
    have hkey := h.key
    rw [applyOne_resultStore (by rwa [hkey]), applyResultStore]
    exact if_congr (by simp only [anyDramPool_iff]) rfl rfl

end Sys2Proof.Machine

/-!
# What the end of a job's tasks leaves

BUDDY_RELEASE stops the tasks of the device's own jobs. Every operation that this comes to, down to the memories, leaves the
list of jobs and the outgoing mirror stream as they are.
-/

namespace Sys2Proof.Machine

/-- Two states with the same unretired jobs and the same outgoing mirror stream. -/
def SameJobs (a s : State) : Prop := s.jobs = a.jobs ∧ s.mirrorTx = a.mirrorTx

variable {a s t : State}

theorem SameJobs.refl (s : State) : SameJobs s s := ⟨rfl, rfl⟩

/-- An update of any other field. -/
theorem SameJobs.frame (h : SameJobs a s) (e : SameJobs s t := by exact ⟨rfl, rfl⟩) : SameJobs a t :=
  ⟨e.1.trans h.1, e.2.trans h.2⟩

theorem SameJobs.ite {c : Prop} [Decidable c] (hs : SameJobs a s) (ht : SameJobs a t) : SameJobs a (if c then s else t) := by
  split
  · exact hs
  · exact ht

theorem SameJobs.foldl {β : Type} {f : State → β → State} {l : List β} (h : SameJobs a s)
    (hf : ∀ s x, SameJobs a s → SameJobs a (f s x)) : SameJobs a (l.foldl f s) :=
  List.foldlRecOn l f h fun s hs x _ => hf s x hs

theorem SameJobs.of_fst_eq {β : Type} {p : State × β} {x : β} (h : SameJobs a p.1) (e : p = (t, x)) : SameJobs a t := by
  simpa [e] using h

theorem SameJobs.bump {k n : Nat} (h : SameJobs a s) : SameJobs a (s.bump k n) := h.frame

theorem SameJobs.setBad {u : Nat} {b : Option BadWord} (h : SameJobs a s) : SameJobs a (setBad s u b) := h.frame

theorem SameJobs.damageVersions {lost : Nat → Nat → Bool} (h : SameJobs a s) : SameJobs a (damageVersions s lost) := h.frame

/-! ## Events and strikes (R160, R161, R472 to R474) -/

theorem SameJobs.queueEvent {n : Nat} {x : Subscr} {m : List Byte} (h : SameJobs a s) : SameJobs a (queueEvent s n x m) :=
  (h.frame.ite h.frame).ite h.frame

theorem SameJobs.sendEvent {n status record : Nat} {x : Subscr} {data : List Byte} (h : SameJobs a s) :
    SameJobs a (sendEvent s n x status record data) :=
  h.frame.queueEvent.ite ((h.frame.ite h.frame).ite (h.frame.ite h.frame))

theorem SameJobs.raiseTo {key record : Nat} {data : List Byte} {l : List (Nat × Subscr)} (h : SameJobs a s) :
    SameJobs a (raiseTo s key record data l) := by
  induction l generalizing s with
  | nil => exact h
  | cons x l ih =>
    rw [Machine.raiseTo]
    exact (ih h.sendEvent).ite (ih h)

theorem SameJobs.abandonDrain {n : Nat} (h : SameJobs a s) : SameJobs a (abandonDrain s n) :=
  h.foldl fun _ _ ht => ht.frame.ite ht

theorem SameJobs.retireRegion {r : Nat} (h : SameJobs a s) : SameJobs a (retireRegion s r) :=
  (h.abandonDrain.ite h).frame

theorem SameJobs.strike {r : Nat} (h : SameJobs a s) : SameJobs a (strike s r) :=
  (h.frame.retireRegion.ite h.frame).ite h

/-! ## Memories (R410 to R426, R432) -/

theorem SameJobs.memRecord {r : MemRec} {event : Bool} (h : SameJobs a s) : SameJobs a (memRecord s r event) :=
  h.frame.raiseTo.ite h.frame

theorem SameJobs.memLog {u finder outcome use : Nat} {event : Bool} (h : SameJobs a s) :
    SameJobs a (memLog s u finder outcome use event) :=
  h.memRecord

theorem SameJobs.validLine {u : Nat} (h : SameJobs a s) : SameJobs a (validLine s u) := h.ite h.frame

theorem SameJobs.strikeAt {u : Nat} (h : SameJobs a s) : SameJobs a (strikeAt s u) := by
  unfold Machine.strikeAt
  split
  · exact h.strike
  · exact h

theorem SameJobs.loseMemRegion {r : Nat} (h : SameJobs a s) : SameJobs a (loseMemRegion s r) := by
  unfold Machine.loseMemRegion
  split
  · extract_lets _ logged _ _
    have hlogged : SameJobs a logged := h.frame
    exact (hlogged.frame.ite hlogged).damageVersions
  · exact h

theorem SameJobs.reachIsland {m : MemAt} (h : SameJobs a s) : SameJobs a (reachIsland s m) := by
  unfold Machine.reachIsland
  split
  · exact h.frame.ite h
  · exact h

theorem SameJobs.mergeWord {u : Nat} (h : SameJobs a s) : SameJobs a (mergeWord s u).1 := by
  unfold Machine.mergeWord
  extract_lets bad struck blank
  have hbad (t : State) (ht : SameJobs a t) (e : MErr) (outcome : Nat) : SameJobs a (bad t e outcome).1 :=
    ht.bump.bump.memLog.setBad.validLine
  have hstruck (t : State) (ht : SameJobs a t) : SameJobs a (struck t).1 :=
    hbad _ (ht.bump.strikeAt.loseMemRegion.ite ht.bump.strikeAt) _ _
  have hblank (t : State) (ht : SameJobs a t) : SameJobs a (blank t).1 := hbad _ ht.bump _ _
  split
  · exact hbad _ h _ _
  · split
    · exact hblank _ h
    · exact h
  · split
    · exact hblank _ h
    · exact h.frame
  · split
    · exact hblank _ h
    · exact hstruck _ h

theorem SameJobs.issueEntry {e : WEntry} (h : SameJobs a s) : SameJobs a (issueEntry s e).1 := by
  unfold Machine.issueEntry
  extract_lets _ t
  have ht : SameJobs a t := h.frame
  split
  · exact ht
  · split
    · next e1 => exact (ht.mergeWord.of_fst_eq e1).validLine
    · next e1 => exact (ht.mergeWord.of_fst_eq e1).foldl fun _ _ hs => hs.frame.ite hs

theorem SameJobs.writeWord {m : MemAt} {u n : Nat} {b : List Byte} (h : SameJobs a s) :
    SameJobs a (writeWord s m u n b).1 := by
  unfold Machine.writeWord
  extract_lets _ _ _ _ _ r
  have hr : SameJobs a r.1 := by
    unfold r
    split
    · exact h.frame
    · exact h.mergeWord
  clear_value r
  split
  · exact hr.frame
  · exact hr

theorem SameJobs.writeWords {m : MemAt} {n : Nat} {b : List Byte} {l : List Nat} (h : SameJobs a s) :
    SameJobs a (writeWords s m n b l).1 := by
  induction l generalizing s with
  | nil => exact h
  | cons u l ih =>
    rw [Machine.writeWords]
    split
    · next e => exact ih (h.writeWord.of_fst_eq e)
    · next e =>
      split
      next e' => exact (ih (h.writeWord.of_fst_eq e)).of_fst_eq e'

theorem SameJobs.openLines {c u n : Nat} (h : SameJobs a s) : SameJobs a (openLines s c u n) :=
  h.foldl fun _ _ ht => ht.ite ht.frame

theorem SameJobs.queueLine {who : Option (Nat × Posted)} {u n l : Nat} (h : SameJobs a s) :
    SameJobs a (queueLine who u n s l) := by
  unfold Machine.queueLine
  extract_lets _ _ _ _ t t1 mine
  have ht : SameJobs a t := h.frame
  have ht1 : SameJobs a t1 := ht.frame.validLine.ite ht
  clear_value mine
  split
  · exact ht1.issueEntry.ite ht1
  · exact ht1

theorem SameJobs.devQueue {who : Option (Nat × Posted)} {u : Nat} {b : List Byte} (h : SameJobs a s) :
    SameJobs a (devQueue s who u b).1 := by
  unfold Machine.devQueue
  extract_lets m s1
  have hs1 : SameJobs a s1 := h.reachIsland
  split_ifs
  · exact h
  · exact h
  · exact h
  · clear_value m
    split
    · exact hs1.frame.foldl fun _ _ ht => ht.queueLine
    · exact hs1.openLines.writeWords
    · exact hs1.writeWords

theorem SameJobs.issueLines {u : Nat} {l : List Nat} (h : SameJobs a s) : SameJobs a (issueLines s u l).1 := by
  induction l generalizing s with
  | nil => exact h
  | cons n l ih =>
    rw [Machine.issueLines]
    split
    · exact ih h
    · split
      · exact ih h
      · split
        · next e => exact ih (h.issueEntry.of_fst_eq e)
        · next e => exact ih (h.issueEntry.of_fst_eq e)

theorem SameJobs.devWrite {u : Nat} {b : List Byte} (h : SameJobs a s) : SameJobs a (devWrite s u b).1 := by
  unfold Machine.devWrite
  split
  · next e => exact h.devQueue.of_fst_eq e
  · next e =>
    unfold settleRange
    split
    · exact (h.devQueue.of_fst_eq e).issueLines
    · exact h.devQueue.of_fst_eq e

/-! ## The end of a job's tasks (R53, R399) -/

theorem SameJobs.writeBack {ch cur status count : Nat} (h : SameJobs a s) :
    SameJobs a (writeBack s ch cur status count).1 := by
  unfold Machine.writeBack
  split
  · split
    · next e => exact h.devWrite.of_fst_eq e
    · next e =>
      split
      · next e1 => exact (h.devWrite.of_fst_eq e).devWrite.of_fst_eq e1
      · next e1 => exact (h.devWrite.of_fst_eq e).devWrite.of_fst_eq e1
  · exact h

theorem SameJobs.setMxc {m : Nat} {x : Mxc} (h : SameJobs a s) : SameJobs a (s.setMxc m x) := h.frame

theorem SameJobs.leaveMxc {c : Nat} {squashed : Bool} (h : SameJobs a s) : SameJobs a (leaveMxc s c squashed) :=
  (h.setMxc.bump.ite (h.setMxc.ite h.setMxc)).ite (h.ite h.setMxc)

theorem SameJobs.resetChan {ch : Nat} (h : SameJobs a s) : SameJobs a (resetChan s ch) := (h.writeBack.ite h).frame

theorem SameJobs.freeCore {c : Nat} (h : SameJobs a s) : SameJobs a (freeCore s c) := by
  unfold Machine.freeCore
  extract_lets _ _ _ left reset
  have hleft : SameJobs a left := h.frame.leaveMxc
  have hreset : SameJobs a reset := by
    unfold reset
    split
    · exact hleft.resetChan.frame
    · exact hleft
  exact hreset.frame

theorem SameJobs.freeEngine {kind n : Nat} (h : SameJobs a s) : SameJobs a (freeEngine s kind n) := by
  unfold Machine.freeEngine
  extract_lets
  split
  · exact h
  · exact h.frame

theorem SameJobs.stopRun {j : Job} {n : Nat} {d : TaskDef} {keep : Bool} {r : TaskRun} (h : SameJobs a s) :
    SameJobs a (stopRun s j n d keep r) := by
  unfold Machine.stopRun
  extract_lets noted freed
  have hnoted : SameJobs a noted := by
    unfold noted
    split
    · exact h.frame
    · exact h
  have hfreed : SameJobs a freed := by
    unfold freed
    split
    · exact hnoted.freeEngine.frame
    · exact hnoted.freeCore
    · exact hnoted.frame
    · exact hnoted
  exact hfreed.foldl fun _ _ ht => ht.ite (ht.ite ht.frame)

theorem SameJobs.stopTasks {j : Job} {commit : Bool} (h : SameJobs a s) : SameJobs a (stopTasks s j commit) :=
  h.foldl fun _ _ hs => hs.foldl fun _ _ ht => ht.stopRun

end Sys2Proof.Machine

/-!
# The buddy, power and reset objects (O51)

A write of BUDDY is told by what the candidate answered, and BUDDY_RELEASE by what it leaves. Each other object has its
rule, its conditions put as the spec puts them.
-/

namespace Sys2Proof.Machine

variable {s t : State} {r : CleipReq} {k op q : Nat} {w : WReq} {answer : Option (Nat × Nat)}

/-! ## The rules by their objects -/

theorem applyOne_buddy (h : w.key = keyBuddy) : applyOne answer t w = applyBuddy answer t w :=
  applyOne_of_fault (by simp [writeTransport, h, keyBuddy]) (by simp [writeFault, h, keyBuddy])

theorem applyOne_takeoverCmd (h : w.key = keyTakeoverCmd) : applyOne answer t w = applyTakeoverCmd t w :=
  applyOne_of_fault (by simp [writeTransport, h, keyTakeoverCmd]) (by simp [writeFault, h, keyTakeoverCmd])

theorem applyOne_buddyRelease (h : w.key = keyBuddyRelease) : applyOne answer t w = applyBuddyRelease t w :=
  applyOne_of_fault (by simp [writeTransport, h, keyBuddyRelease]) (by simp [writeFault, h, keyBuddyRelease])

theorem applyOne_powerTarget (h : w.key = keyPowerTarget) : applyOne answer t w = applyPowerTarget t w := by
  apply applyOne_of_port <;> simp [writeTransport, writeFault, writeUnit, writePort, h, keyPowerTarget]

theorem applyOne_deepCmd (h : w.key = keyDeepCmd) : applyOne answer t w = applyDeepCmd t w := by
  apply applyOne_of_port <;> simp [writeTransport, writeFault, writeUnit, writePort, h, keyDeepCmd]

theorem applyOne_resetCmd (h : w.key = keyResetCmd) : applyOne answer t w = applyResetCmd t w := by
  apply applyOne_of_port <;> simp [writeTransport, writeFault, writeUnit, writePort, h, keyResetCmd]

/-! ## The jobs that a release ends (R184) -/

/-- What a release does with one job: the tasks of a job of the device's own stop, its pending versions are dropped and it
goes. -/
def dropJob (t : State) (j : Job) : State :=
  if j.buddyOf.isNone then
    let t := if j.final then t else stopTasks t j false
    let t := j.outVers.foldl (fun (t : State) v =>
      if ((v.bind (kget t.vers ·)).any fun x => decide (x.st = .pending)) then { t with vers := kdel t.vers (v.getD 0) }
      else t) t
    { t with jobs := t.jobs.filter fun i => !(decide (i.qn = j.qn) && decide (i.desc.seq = j.desc.seq)) }
  else t

theorem dropJob_spec (t : State) (j : Job) :
    (dropJob t j).mirrorTx = t.mirrorTx
      ∧ (dropJob t j).jobs = if j.buddyOf.isNone then
          t.jobs.filter fun i => !(decide (i.qn = j.qn) && decide (i.desc.seq = j.desc.seq)) else t.jobs := by
  unfold dropJob
  split
  · extract_lets stopped dropped
    have hstopped : SameJobs t stopped := (SameJobs.refl t).ite (SameJobs.refl t).stopTasks
    have hdropped : SameJobs t dropped := hstopped.foldl fun _ _ h => h.frame.ite h
    exact ⟨hdropped.2, by rw [← hdropped.1]⟩
  · exact ⟨rfl, rfl⟩

theorem mirrorTx_foldl_dropJob (l : List Job) (t : State) : (l.foldl dropJob t).mirrorTx = t.mirrorTx :=
  foldl_keeps State.mirrorTx dropJob (fun t j => (dropJob_spec t j).1) l t

/-- A job that is left was there, and is none of the device's own among those that go. -/
theorem mem_jobs_foldl_dropJob {j : Job} (l : List Job) (t : State) (h : j ∈ (l.foldl dropJob t).jobs) :
    j ∈ t.jobs ∧ ∀ i ∈ l, i.buddyOf = none → ¬(j.qn = i.qn ∧ j.desc.seq = i.desc.seq) := by
  induction l generalizing t with
  | nil => exact ⟨h, by simp⟩
  | cons i l ih =>
    obtain ⟨hmem, hl⟩ := ih _ h
    rw [(dropJob_spec t i).2] at hmem
    cases hi : i.buddyOf with
    | none =>
      simp only [hi, Option.isNone_none, if_true, List.mem_filter, Bool.not_eq_true', Bool.and_eq_false_iff,
        decide_eq_false_iff_not] at hmem
      refine ⟨hmem.1, List.forall_mem_cons.2 ⟨fun _ => by tauto, hl⟩⟩
    | some d =>
      simp only [hi, Option.isNone_some, Bool.false_eq_true, if_false] at hmem
      exact ⟨hmem, List.forall_mem_cons.2 ⟨by simp [hi], hl⟩⟩

/-- No job of the device's own is left. -/
theorem buddyOf_of_mem_foldl_dropJob {j : Job} (h : j ∈ (t.jobs.foldl dropJob t).jobs) : j.buddyOf ≠ none := by
  obtain ⟨hmem, hnot⟩ := mem_jobs_foldl_dropJob t.jobs t h
  exact fun hn => hnot j hmem hn ⟨rfl, rfl⟩

/-! ## What is released (R107) -/

theorem mem_of_kget {α : Type} {m : List (Nat × α)} {k : Nat} {x : α} (h : kget m k = some x) : (k, x) ∈ m := by
  induction m with
  | nil => simp [kget] at h
  | cons p m ih =>
    obtain ⟨a, y⟩ := p
    unfold kget at h
    split at h
    · simp_all
    · exact List.mem_cons_of_mem _ (ih h)

/-- The job transport holds nothing of the device's own: no job, no journal entry, no reservation and no credit; the fence
stands as it was. -/
structure Released (fence : Bool) (s : State) : Prop where
  jobs : ∀ j ∈ s.jobs, j.buddyOf ≠ none
  ja : s.ja = []
  jb : s.jb = []
  jReserved : s.jReserved = 0
  iReserved : s.iReserved = 0
  fenced : s.mirrorTx.fenced = fence
  credit : ∀ q x, q < 4096 → kget s.queues q = some x → x.creditSeq = 0 ∧ x.creditUnits = 0

variable {fence : Bool}

/-- A queue that is not listed has no credit either. -/
theorem Released.queue (h : Released fence s) (hq : q < 4096) : (s.queue q).creditSeq = 0 ∧ (s.queue q).creditUnits = 0 := by
  unfold State.queue kgetD
  cases hx : kget s.queues q with
  | some x => exact h.credit q x hq hx
  | none =>
    unfold freshQueue
    dsimp only [Option.getD_none]
    split <;> exact ⟨rfl, rfl⟩

/-- An update of any other field. -/
theorem Released.frame (h : Released fence s) (hj : t.jobs = s.jobs := by rfl) (ha : t.ja = s.ja := by rfl)
    (hb : t.jb = s.jb := by rfl) (hr : t.jReserved = s.jReserved := by rfl) (hi : t.iReserved = s.iReserved := by rfl)
    (hm : t.mirrorTx = s.mirrorTx := by rfl) (hq : t.queues = s.queues := by rfl) : Released fence t :=
  ⟨hj ▸ h.jobs, ha.trans h.ja, hb.trans h.jb, hr.trans h.jReserved, hi.trans h.iReserved, hm ▸ h.fenced, hq ▸ h.credit⟩

theorem Released.foldl {β : Type} {f : State → β → State} {l : List β} (h : Released fence s)
    (hf : ∀ s x, Released fence s → Released fence (f s x)) : Released fence (l.foldl f s) :=
  List.foldlRecOn l f h fun s hs x _ => hf s x hs

theorem Released.setQueue {x : Queue} (h : Released fence s) (hx : q < 4096 → x.creditSeq = 0 ∧ x.creditUnits = 0) :
    Released fence (s.setQueue q x) where
  jobs := h.jobs
  ja := h.ja
  jb := h.jb
  jReserved := h.jReserved
  iReserved := h.iReserved
  fenced := h.fenced
  credit p y hp hy := by
    by_cases hpq : p = q
    · subst hpq
      obtain rfl : x = y := by simpa [State.setQueue] using hy
      exact hx hp
    · exact h.credit p y hp (by rwa [State.setQueue, kget_kset_ne _ _ _ _ hpq] at hy)

theorem Released.ite {c : Prop} [Decidable c] (hs : Released fence s) (ht : Released fence t) :
    Released fence (if c then s else t) := by
  split
  · exact hs
  · exact ht

theorem Released.givePhys {p phys : Nat} (h : Released fence s) : Released fence (givePhys s p phys) := h.ite h.frame

theorem Released.settleLinger (h : Released fence s) : Released fence (settleLinger s) := h.frame

theorem Released.reclaim {n : Nat} (h : Released fence s) : Released fence (reclaim s n) := by
  unfold Machine.reclaim
  split
  · exact h
  · extract_lets t
    have ht : Released fence t := h.frame
    exact (ht.givePhys.ite ht).settleLinger.ite h

theorem Released.sendCredit (h : Released fence s) : Released fence (sendCredit s q) := by
  unfold Machine.sendCredit
  dsimp only
  split
  · have hsent : Released fence (s.emit (.frame (transportFrame s (s.queue q).activePort (peerOf s q (s.queue q).activePort)
        (queueSource q) 6 false 1 (creditBytes q (s.queue q).creditSeq (s.queue q).creditUnits)))) := h.frame
    exact hsent.setQueue h.queue
  · exact h.setQueue h.queue

theorem Released.headroomOf {p : Nat} (h : Released fence s) : Released fence (headroomOf s p) := by
  unfold Machine.headroomOf
  dsimp only
  split_ifs
  · exact h.frame
  · exact h.frame
  · exact h
  · exact h.frame

theorem Released.updateHeadroom (h : Released fence s) : Released fence (updateHeadroom s) := h.headroomOf.headroomOf

/-- BUDDY_RELEASE with the device's own number leaves nothing of its own (R107, R184). -/
theorem applyBuddyRelease_released (hw : w.val = t.oval keyDeviceNumber) :
    (applyBuddyRelease t w).1 = csOk ∧ Released t.mirrorTx.fenced (applyBuddyRelease t w).2 := by
  rw [applyBuddyRelease, if_neg (not_not.2 hw)]
  refine ⟨rfl, ?_⟩
  extract_lets left keep srcs qs vs u1 u2 u3 u4
  have hu2 : Released t.mirrorTx.fenced u2 :=
    { jobs := fun j hj => buddyOf_of_mem_foldl_dropJob (t := t) hj
      ja := rfl
      jb := rfl
      jReserved := rfl
      iReserved := rfl
      fenced := congrArg MirrorTx.fenced (mirrorTx_foldl_dropJob t.jobs t)
      credit := fun q x hq hx => by
        rcases List.mem_append.1 (mem_of_kget hx) with hown | hother
        · obtain ⟨y, -, hy⟩ := List.mem_map.1 hown
          obtain rfl := (Prod.ext_iff.1 hy).2
          exact ⟨rfl, rfl⟩
        · have := (List.mem_filter.1 hother).2
          simp at this
          omega }
  have hu3 : Released t.mirrorTx.fenced u3 := hu2.foldl fun _ _ h => h.reclaim
  have hu4 : Released t.mirrorTx.fenced u4 := hu3.foldl fun _ _ h => h.sendCredit
  exact Released.updateHeadroom hu4.frame

/-! ## BUDDY (R175) -/

/-- No buddy is asked for, or the candidate has the features of the device's variant (R175). -/
def HasFeatures (t : State) (w : WReq) (answer : Option (Nat × Nat)) : Prop :=
  w.val = 0xFFFF ∨ ∃ a ∈ answer, Nat.land (a.2 % 16) (featBits t.part.variant) = featBits t.part.variant

/-- To ask the candidate changes nothing of the part. -/
theorem hasFeatures_askCandidate {n : Nat} : HasFeatures (askCandidate t n) w answer ↔ HasFeatures t w answer := by
  rw [HasFeatures, (Keeps.refl t).askCandidate.part, HasFeatures]

theorem hasFeatures_iff : (decide (w.val = 0xFFFF) || (match answer with
      | some (_, feat) => decide (feat % 16 &&& featBits t.part.variant = featBits t.part.variant)
      | none => false)) = true ↔ HasFeatures t w answer := by
  cases answer with
  | none => simp [HasFeatures]
  | some a => simp [HasFeatures]

theorem applyBuddy_of_large (h : w.val ≠ 0xFFFF ∧ 1023 < w.val) : applyBuddy answer t w = (csRange, t) := if_pos h

theorem applyBuddy_of_not_hasFeatures (h : w.val = 0xFFFF ∨ w.val ≤ 1023) (hf : ¬ HasFeatures t w answer) :
    applyBuddy answer t w = (csConflict, askCandidate t w.val) := by
  rw [← hasFeatures_askCandidate (n := w.val), ← hasFeatures_iff, Bool.not_eq_true] at hf
  rw [applyBuddy, if_neg (by omega)]
  extract_lets v ok u
  rw [if_pos (show (!ok) = true from congrArg not hf)]
  rfl

theorem applyBuddy_of_hasFeatures (h : w.val = 0xFFFF ∨ w.val ≤ 1023) (hf : HasFeatures t w answer) :
    applyBuddy answer t w =
      let v := askCandidate t w.val
      let u := storeVal v w
      ifFlash v w (if buddyOn u = true then startStream u
        else { u with mirrorTx := { u.mirrorTx with reachable := false, unacked := [] } }) := by
  rw [← hasFeatures_askCandidate (n := w.val), ← hasFeatures_iff] at hf
  rw [applyBuddy, if_neg (by omega)]
  extract_lets v ok u
  have hok : ok = true := hf
  rw [if_neg (by simp [hok])]

/-! ## Power and resets (R517, R547) -/

theorem isDomain_buddyRelease : isDomain keyBuddyRelease = false := by decide +kernel

theorem isDomain_deepCmd : isDomain keyDeepCmd = false := by decide +kernel

theorem isDomain_powerTarget : isDomain keyPowerTarget = false := by decide +kernel

theorem isDomain_resetCmd : isDomain keyResetCmd = false := by decide +kernel

theorem objRow_powerTarget :
    objRow (keyPowerTarget / 256) (keyPowerTarget % 256) = some ⟨0xA000, 1, 0x02, .u8, 3, 3, 3, 1, false, 0, 2⟩ := by
  decide +kernel

/-- The table takes the states P0 to P2 alone. -/
theorem Proposes.powerTarget_le (h : Proposes s r keyPowerTarget op t w) : w.val ≤ 2 := by
  obtain ⟨row, hrow, hv⟩ := h.inTable
  rw [objRow_powerTarget] at hrow
  obtain rfl := Option.some.inj hrow
  simpa [Machine.inTable, tyInt] using hv

/-- What a WRITE of a scalar proposes is the request's own value, to the state as it took the request. -/
theorem Proposes.scalar_val (h : Proposes s r k op t w) (hk : isDomain k = false) : t = taken s r ∧ w.val = reqVal r := by
  obtain ⟨-, -, ht, rfl⟩ := h.of_scalar hk
  exact ⟨ht, rfl⟩

theorem powerBusy_iff : powerBusy t = true ↔ t.overcast.on = true ∨ t.power.phase ≠ 0 ∨ t.sv.updState = 2 := by
  simp [powerBusy, or_assoc]

theorem applyPowerTarget_of_busy (hw : w.val ≤ 2) (h : powerBusy t = true) : applyPowerTarget t w = (csConflict, t) := by
  rw [applyPowerTarget, if_neg (not_lt.2 hw), if_pos h]
  rfl

theorem applyPowerTarget_of_not_busy (hw : w.val ≤ 2) (h : ¬ powerBusy t = true) :
    applyPowerTarget t w =
      let u := storeVal t w
      if w.val = t.power.state then (csOk, u)
      else if w.val = 2 then
        (csOk, { u with power := { u.power with phase := 1, target := 2, block := 2, prepAt := t.time.now } })
      else if t.power.state = 2 then (csOk, wake u 4)
      else
        let v : State := { u with power := { u.power with state := w.val } }
        (csOk, if w.val = 0 then wakeAll v else v) := by
  rw [applyPowerTarget, if_neg (not_lt.2 hw), if_neg h]
  rfl

theorem applyDeepCmd_of_one (hw : w.val = 1) :
    applyDeepCmd t w = if powerBusy t = true then (csConflict, t) else (csOk, startDusk (storeVal t w) 3) := by
  rw [applyDeepCmd, if_neg (not_not.2 hw)]
  rfl

theorem applyResetCmd_of_known {c : Nat} (hw : w.val = 1 ∧ c = 6 ∨ w.val = 2 ∧ c = 4) :
    applyResetCmd t w = if t.sv.updState = 2 ∨ t.power.phase ≠ 0 then (csConflict, t)
      else (csOk, { storeVal t w with supply := { t.supply with resetAfter := some c } }) := by
  rcases hw with ⟨hw, rfl⟩ | ⟨hw, rfl⟩
  · simp [applyResetCmd, hw, fails]
  · simp [applyResetCmd, hw, fails]

/-! ## The obligation -/

/-- BUDDY is served with what the candidate answered. -/
theorem exec_buddy_of_reaches (h : Reaches s r keyBuddy) :
    exec (.buddy r answer) s = .next (endWrite (taken s r) 2 r (proposed r)
      (afterWrite (taken s r) keyBuddy (applyBuddy answer (taken s r) (proposed r)))) := by
  have hkey : decide (reqKey r = keyBuddy) = true := decide_eq_true h.2.1
  have hop : writeOp r = 2 := by simp [writeOp, h.2.2.1]
  calc exec (.buddy r answer) s = request (decide (reqKey r = keyBuddy)) answer (writeOp r) r s := rfl
    _ = request true answer 2 r s := by rw [hkey, hop]
    _ = _ := by rw [request_of_reaches h (by decide), applyOne_buddy h.2.1]

/-- BUDDY_RELEASE with the device's own number is served, and leaves nothing of the device's own. -/
theorem exec_buddyRelease_of_reaches (h : Reaches s r keyBuddyRelease) :
    exec (.buddyRelease r) s = .next (endWrite (taken s r) 2 r (proposed r)
      (afterWrite (taken s r) keyBuddyRelease (applyBuddyRelease (taken s r) (proposed r)))) := by
  rw [exec_of_proposes .buddyRelease (by simpa using h.2.1) (by simp) (by decide) (.whole h), applyOne_buddyRelease h.2.1]

/-- Settles O51: BUDDY by its answer, BUDDY_RELEASE by what it leaves, and each other object by its rule. -/
theorem buddyPowerAndResetWritesFollowTheRules : Obligations.BuddyPowerAndResetWritesFollowTheRules := by
  unfold Obligations.BuddyPowerAndResetWritesFollowTheRules
  refine ⟨fun s r => ⟨fun answer h => ?buddy,
      written_of_applyOne .takeoverCmd (by decide) (by simp) (by decide) fun op t w h => ?takeover,
      fun hne => written_of_applyOne .buddyRelease (by decide) (by simp) (by decide) fun op t w h => ?foreign,
      fun h hown => ?release⟩,
    fun s r => ⟨⟨fun hbusy => written_of_applyOne .powerTarget (by decide) (by simp) (by decide) fun op t w h => ?powerBusy,
        fun hbusy => written_of_applyOne .powerTarget (by decide) (by simp) (by decide) fun op t w h => ?power⟩,
      fun hne => written_of_applyOne .deepCmd (by decide) (by simp) (by decide) fun op t w h => ?deepOther,
      fun hone => ⟨fun hbusy => written_of_applyOne .deepCmd (by decide) (by simp) (by decide) fun op t w h => ?deepBusy,
        fun hbusy => written_of_applyOne .deepCmd (by decide) (by simp) (by decide) fun op t w h => ?deep⟩,
      fun hone hbusy => written_of_applyOne .resetCmdWarm (by simp [hone]) (by simp) (by decide) fun op t w h => ?warmBusy,
      fun hone hbusy => written_of_applyOne .resetCmdWarm (by simp [hone]) (by simp) (by decide) fun op t w h => ?warm,
      fun htwo hbusy => written_of_applyOne .resetCmdCold (by simp [htwo]) (by simp) (by decide) fun op t w h => ?coldBusy,
      fun htwo hbusy => written_of_applyOne .resetCmdCold (by simp [htwo]) (by simp) (by decide) fun op t w h => ?cold,
      fun hone htwo => written_of_applyOne .resetCmdWarm (by simp [htwo]) (by simp) (by decide)
        fun op t w h => ?resetOther⟩⟩
  case buddy =>
    have hexec : exec (.buddy r answer) s = .next (endWrite (taken s r) 2 r (proposed r)
        (afterWrite (taken s r) keyBuddy (applyBuddy answer (taken s r) (proposed r)))) := exec_buddy_of_reaches h
    exact ⟨fun hl => by rw [hexec, applyBuddy_of_large hl],
      fun hn hf => by rw [hexec, applyBuddy_of_not_hasFeatures hn hf],
      fun hn hf => by rw [hexec, applyBuddy_of_hasFeatures hn hf]⟩
  case takeover =>
    rw [applyOne_takeoverCmd h.key, applyTakeoverCmd]
    refine if_congr Iff.rfl rfl (if_congr (by simp) rfl rfl)
  case foreign =>
    obtain ⟨rfl, hval⟩ := h.scalar_val isDomain_buddyRelease
    rw [applyOne_buddyRelease h.key, applyBuddyRelease, if_pos (hval ▸ hne)]
    rfl
  case release =>
    obtain ⟨hok, hleft⟩ := applyBuddyRelease_released (t := taken s r) (w := proposed r) hown
    exact ⟨exec_buddyRelease_of_reaches h, hok, hleft.jobs, hleft.ja, hleft.jb, hleft.jReserved, hleft.iReserved, hleft.fenced,
      fun q hq => hleft.queue hq⟩
  case powerBusy =>
    obtain ⟨rfl, -⟩ := h.scalar_val isDomain_powerTarget
    rw [applyOne_powerTarget h.key, applyPowerTarget_of_busy h.powerTarget_le (powerBusy_iff.2 hbusy)]
  case power =>
    obtain ⟨rfl, -⟩ := h.scalar_val isDomain_powerTarget
    rw [applyOne_powerTarget h.key, applyPowerTarget_of_not_busy h.powerTarget_le (powerBusy_iff.not.2 hbusy)]
  case deepOther =>
    obtain ⟨-, hval⟩ := h.scalar_val isDomain_deepCmd
    rw [applyOne_deepCmd h.key, applyDeepCmd, if_pos (hval ▸ hne)]
    rfl
  case deepBusy =>
    obtain ⟨rfl, hval⟩ := h.scalar_val isDomain_deepCmd
    rw [applyOne_deepCmd h.key, applyDeepCmd_of_one (hval.trans hone), if_pos (powerBusy_iff.2 hbusy)]
  case deep =>
    obtain ⟨rfl, hval⟩ := h.scalar_val isDomain_deepCmd
    rw [applyOne_deepCmd h.key, applyDeepCmd_of_one (hval.trans hone), if_neg (powerBusy_iff.not.2 hbusy)]
    rfl
  case warmBusy =>
    obtain ⟨rfl, hval⟩ := h.scalar_val isDomain_resetCmd
    rw [applyOne_resetCmd h.key, applyResetCmd_of_known (.inl ⟨hval.trans hone, rfl⟩), if_pos hbusy]
  case warm =>
    obtain ⟨rfl, hval⟩ := h.scalar_val isDomain_resetCmd
    rw [applyOne_resetCmd h.key, applyResetCmd_of_known (.inl ⟨hval.trans hone, rfl⟩), if_neg hbusy]
  case coldBusy =>
    obtain ⟨rfl, hval⟩ := h.scalar_val isDomain_resetCmd
    rw [applyOne_resetCmd h.key, applyResetCmd_of_known (.inr ⟨hval.trans htwo, rfl⟩), if_pos hbusy]
  case cold =>
    obtain ⟨rfl, hval⟩ := h.scalar_val isDomain_resetCmd
    rw [applyOne_resetCmd h.key, applyResetCmd_of_known (.inr ⟨hval.trans htwo, rfl⟩), if_neg hbusy]
  case resetOther =>
    obtain ⟨-, hval⟩ := h.scalar_val isDomain_resetCmd
    rw [applyOne_resetCmd h.key, applyResetCmd, if_pos (hval ▸ ⟨hone, htwo⟩)]
    rfl

end Sys2Proof.Machine

/-!
# Cells, policy and the objects without a row of their own (O49)

Each object's rule in the model's tables, its tests put as the conditions of the spec. An object that is in no table is
stored: the tables hold the objects that a row takes, those of `ruledObjects` and the policy values, and of the families
that they hold the dictionary lets no other object be written.
-/

namespace Sys2Proof.Machine

variable {s t : State} {r : CleipReq} {k op c : Nat} {w : WReq} {answer : Option (Nat × Nat)}

/-! ## Cells (R119, R150, R151) -/

theorem applyOne_cellConfig (h : w.key = keyCellConfig) : applyOne answer t w = applyCellConfig t w :=
  applyOne_of_transport (by simp [writeTransport, h])

theorem applyOne_migrateCmd (h : w.key = keyMigrateCmd) : applyOne answer t w = applyMigrateCmd t w :=
  applyOne_of_transport (by simp [writeTransport, h])

theorem applyOne_admitProbe (h : w.key = keyAdmitProbe) : applyOne answer t w = applyAdmitProbe t w :=
  applyOne_of_transport (by simp [writeTransport, h])

theorem applyOne_kernelTable (h : w.key = keyKernelTable) : applyOne answer t w = applyKernelTable t w :=
  applyOne_of_transport (by simp [writeTransport, h])

theorem cellNamed_iff : cellNamed t c = true ↔ ∃ j ∈ t.jobs, j.desc.cell = c := by
  simp [cellNamed]

theorem homeMoves_iff {x : CellCfg} : homeMoves t c x = true ↔ (t.cell c).enable = true ∧ x.home ≠ (t.cell c).home := by
  simp [homeMoves]

theorem homeBarred_iff {x : CellCfg} : homeBarred t c x = true ↔
    ((t.cell c).enable = true ∧ x.home ≠ (t.cell c).home) ∧ x.enable = true ∧ x.home ≠ (t.cellState c).cluster
      ∧ (clusterUp t x.home = false ∨ haloFits { t with cellCfg := kset t.cellCfg c x } c x.home = false) := by
  simp [homeBarred, homeMoves, and_assoc]

theorem State.cellState_setCellSt (x : CellSt) : (t.setCellSt c x).cellState c = x := kgetD_kset _ _ _ _

theorem State.cellState_setCellSt_ne {d : Nat} (x : CellSt) (h : d ≠ c) : (t.setCellSt c x).cellState d = t.cellState d :=
  kgetD_kset_ne _ _ _ _ _ h

/-- A cell moves to a cluster on request since a time. -/
def State.moving (t : State) (c k start : Nat) : State :=
  t.setCellSt c { t.cellState c with
    migration := some { target := k, reason := 5, startTime := start, switched := false, source := (t.cellState c).cluster } }

/-- The cell check counts a cell where it is and where it moves to, whenever the move began. -/
theorem cellCounts_moving (m n l d : Nat) : cellCounts (t.moving c k m) l d = cellCounts (t.moving c k n) l d := by
  by_cases hd : d = c
  · subst hd
    simp only [cellCounts, State.moving, State.cellState_setCellSt]
    rfl
  · simp only [cellCounts, State.moving, State.cellState_setCellSt_ne _ hd]
    rfl

theorem cellCheck_moving (m n l : Nat) : cellCheck (t.moving c k m) l = cellCheck (t.moving c k n) l := by
  have hrate : gRateFrac (t.moving c k m) l = gRateFrac (t.moving c k n) l := by
    simp only [gRateFrac, cellCounts_moving m n]
    rfl
  rw [cellCheck, hrate]
  rfl

/-- A migration on request asks for no ratio and no temperature: its target needs the cell checks alone (R139). -/
theorem eligible_five : eligible t c k 5 = true ↔ clusterUp t k = true ∧ k ≠ (t.cellState c).cluster
    ∧ cellCheck (startMigration t c k 5) k = true ∧ haloFits t c k = true := by
  have hnow : startMigration t c k 5 = t.moving c k t.time.now := rfl
  rw [hnow, cellCheck_moving _ 0]
  simp [eligible, State.moving, and_assoc]

section
variable {cs : List (Nat × CellCfg)} {u : State}

/-- A write of cells is refused for what it changes of a cell that a job names, and for how it moves one (R119, R139). -/
theorem cellBarred_iff :
    (cs.any (fun x => cellChanges (t.cell x.1) x.2 && cellNamed t x.1)
      || cs.any (fun x => homeMoves t x.1 x.2 && (t.cellState x.1).migration.isSome)
      || cs.any (fun x => homeBarred t x.1 x.2) || (cs.any (fun x => homeMoves t x.1 x.2) && decide (4 < nMigrating u))) = true
    ↔ ∃ x ∈ cs, (cellChanges (t.cell x.1) x.2 = true ∧ ∃ j ∈ t.jobs, j.desc.cell = x.1)
        ∨ ((t.cell x.1).enable = true ∧ x.2.home ≠ (t.cell x.1).home
          ∧ ((t.cellState x.1).migration ≠ none ∨ 4 < nMigrating u
            ∨ (x.2.enable = true ∧ x.2.home ≠ (t.cellState x.1).cluster ∧ (clusterUp t x.2.home = false
              ∨ haloFits { t with cellCfg := kset t.cellCfg x.1 x.2 } x.1 x.2.home = false)))) := by
  simp only [Bool.or_eq_true, Bool.and_eq_true, List.any_eq_true, decide_eq_true_eq, cellNamed_iff, homeMoves_iff,
    homeBarred_iff, Option.isSome_iff_ne_none]
  constructor
  · rintro (((⟨x, hx, h⟩ | ⟨x, hx, h⟩) | ⟨x, hx, h⟩) | ⟨⟨x, hx, h⟩, hmany⟩)
    · exact ⟨x, hx, .inl h⟩
    · exact ⟨x, hx, .inr ⟨h.1.1, h.1.2, .inl h.2⟩⟩
    · exact ⟨x, hx, .inr ⟨h.1.1, h.1.2, .inr (.inr h.2)⟩⟩
    · exact ⟨x, hx, .inr ⟨h.1, h.2, .inr (.inl hmany)⟩⟩
  · rintro ⟨x, hx, hnamed | ⟨hon, hmove, hmig | hmany | hbar⟩⟩
    · exact .inl (.inl (.inl ⟨x, hx, hnamed⟩))
    · exact .inl (.inl (.inr ⟨x, hx, ⟨hon, hmove⟩, hmig⟩))
    · exact .inr ⟨⟨x, hx, hon, hmove⟩, hmany⟩
    · exact .inl (.inr ⟨x, hx, ⟨hon, hmove⟩, hbar⟩)

end

theorem cellNotOk_iff {cs : List (Nat × CellCfg)} : (cs.any fun x => !cellOk t x.2) = true ↔ ∃ x ∈ cs, cellOk t x.2 = false := by
  simp

theorem cellCheckLost_iff {l : List Nat} {u : State} :
    (l.any fun k => cellCheck t k && !cellCheck u k) = true ↔ ∃ k ∈ l, cellCheck t k = true ∧ cellCheck u k = false := by
  simp

theorem applyCellConfig_eq : applyCellConfig t w =
    let cs := (touched w 32).map fun c => (c, cellOf (recWith w (cellNat (t.cell c)) 32 c))
    let u := cs.foldl (fun (u : State) x => putCell u x.1 x.2) t
    if ∃ x ∈ cs, cellOk t x.2 = false then (csRange, t)
    else if ∃ x ∈ cs, (cellChanges (t.cell x.1) x.2 = true ∧ ∃ j ∈ t.jobs, j.desc.cell = x.1)
        ∨ ((t.cell x.1).enable = true ∧ x.2.home ≠ (t.cell x.1).home
          ∧ ((t.cellState x.1).migration ≠ none ∨ 4 < nMigrating u
            ∨ (x.2.enable = true ∧ x.2.home ≠ (t.cellState x.1).cluster ∧ (clusterUp t x.2.home = false
              ∨ haloFits { t with cellCfg := kset t.cellCfg x.1 x.2 } x.1 x.2.home = false)))) then (csConflict, t)
    else if ∃ k ∈ List.range (nClusters t.part.variant), cellCheck t k = true ∧ cellCheck u k = false then (csConflict, t)
    else ifFlash t w (cs.foldl (fun (u : State) x => mirrorPut u (cellMarker x.1 x.2)) u) := by
  unfold applyCellConfig
  extract_lets cs u clusters
  refine if_congr cellNotOk_iff rfl ?_
  rw [← ite_or]
  exact if_congr ((Bool.or_eq_true _ _).to_iff.trans (or_congr cellBarred_iff cellCheckLost_iff)) rfl rfl

theorem applyMigrateCmd_eq : applyMigrateCmd t w =
    let c := w.val % 4096
    let k := bits w.val 19 16
    let u := startMigration t c k 5
    if (t.cell c).enable = false ∨ c = 4095 ∨ nClusters t.part.variant ≤ k then (csRange, t)
    else if (t.cellState c).migration ≠ none ∨ (t.cellState c).cluster = k ∨ 4 ≤ nMigrating t ∨ clusterUp t k = false
        ∨ cellCheck u k = false ∨ haloFits t c k = false then (csConflict, t)
    else (csOk, storeVal u w) := by
  unfold applyMigrateCmd
  extract_lets c k u
  refine if_congr (by simp [or_assoc]) rfl (if_congr ?_ rfl rfl)
  have he : (!eligible t c k 5) = true ↔ ¬ (clusterUp t k = true ∧ k ≠ (t.cellState c).cluster
      ∧ cellCheck (startMigration t c k 5) k = true ∧ haloFits t c k = true) := by
    rw [Bool.not_eq_true', ← eligible_five, Bool.not_eq_true]
  simp only [Bool.or_eq_true, he, decide_eq_true_eq, Option.isSome_iff_ne_none, ← Bool.not_eq_true, ← ne_eq, u]
  rw [ne_comm (a := k)]
  tauto

theorem b2n_not (b : Bool) : b2n (!b) = if b = true then 0 else 1 := by
  cases b <;> rfl

theorem applyAdmitProbe_eq : applyAdmitProbe t w =
    let v := newRec t w 34 0
    let c := bits v 271 256
    let x := cellOf v
    let u := storeDom t w
    let with' := cellAt { t with cellCfg := kset t.cellCfg c x } c x.home
    if 4094 < c then (csRange, t)
    else if cellOk t x = false then (csOk, u.setOval keyProbeResult 2)
    else (csOk, (u.setOval keyProbeResult (if cellCheck with' x.home = true then 0 else 1)).setOval keyProbeHeadroom
      (unsgn 32 (headroom with' x.home / (32768 * 1000000)))) := by
  unfold applyAdmitProbe
  dsimp only
  refine if_congr Iff.rfl rfl (if_congr (by simp) rfl ?_)
  rw [b2n_not]

theorem kernelNamed_iff {g n : Nat} : ((kernelTasks t).any fun x => decide (x.1 = g) && decide (x.2.1 = n)) = true
    ↔ ∃ x ∈ kernelTasks t, x.1 = g ∧ x.2.1 = n := by
  simp

theorem applyKernelTable_eq : applyKernelTable t w = (csOk, (touched w 16).foldl (fun (u : State) i =>
      let v := recWith w (((kernelTasks t)[i]?.map (kernelRec t)).getD 0) 16 i
      let g := bits v 127 112
      let n := bits v 111 104
      if ∃ x ∈ kernelTasks t, x.1 = g ∧ x.2.1 = n then
        { u with budgets := kset u.budgets (g * 256 + n) { u.budget g n with learned := bits v 95 64, valid := tbit v 96 } }
      else u) t) :=
  Prod.ext rfl (congrArg (fun f => (touched w 16).foldl f t) (funext₂ fun _ _ => if_congr kernelNamed_iff rfl rfl))

/-! ## Policy and carriers (R146, R461) -/

theorem applyOne_policy (h : w.key / 256 = 0x5000) : applyOne answer t w = applyPolicy t w :=
  applyOne_of_transport (by rw [writeTransport_of_family (by omega) (by omega), if_neg (by omega), if_pos h])

theorem applyOne_policyBound (h : w.key / 256 = 0x5001 ∨ w.key / 256 = 0x5002) :
    applyOne answer t w = applyPolicyBound t w :=
  applyOne_of_transport (by
    rw [writeTransport_of_family (by omega) (by omega), if_neg (by omega), if_neg (by omega), if_pos h])

theorem applyOne_etype (h : w.key = keyCleipEtype ∨ w.key = keyTransportEtype) : applyOne answer t w = applyEtype t w :=
  applyOne_of_transport (by rcases h with h | h <;> simp [writeTransport, h])

theorem applyOne_udp (h : w.key = keyCleipUdp ∨ w.key = keyTransportUdp ∨ w.key = keyEcpriUdp) :
    applyOne answer t w = applyUdp t w :=
  applyOne_of_transport (by rcases h with h | h | h <;> simp [writeTransport, h])

theorem applyPolicy_eq : applyPolicy t w =
    if withinBounds (w.key % 256) (numOf (storeVal t w) w.key) (numOf t (0x500100 + w.key % 256))
        (numOf t (0x500200 + w.key % 256)) = true then ifFlash t w (storeVal t w) else (csRange, t) :=
  rfl

theorem boundsCrossed_iff {ss : Nat} {lo hi : Int} :
    (if ss = 0x0F then decide (lo.toNat &&& hi.toNat ≠ lo.toNat) else decide (hi < lo)) = true
      ↔ (ss = 0x0F ∧ lo.toNat &&& hi.toNat ≠ lo.toNat) ∨ (ss ≠ 0x0F ∧ hi < lo) := by
  by_cases h : ss = 0x0F <;> simp [h]

theorem applyPolicyBound_eq : applyPolicyBound t w =
    let ss := w.key % 256
    let u := storeVal t w
    let lo := numOf u (0x500100 + ss)
    let hi := numOf u (0x500200 + ss)
    let now := numOf t (0x500000 + ss)
    if (ss = 0x0F ∧ lo.toNat &&& hi.toNat ≠ lo.toNat) ∨ (ss ≠ 0x0F ∧ hi < lo)
        ∨ ¬(∃ x, objRow 0x5000 ss = some x ∧ x.lo ≤ numOf u w.key ∧ numOf u w.key ≤ x.hi) then (csRange, t)
    else if withinBounds ss now lo hi = false then (csConflict, t)
    else ifFlash t w u := by
  unfold applyPolicyBound
  dsimp only
  refine if_congr ?_ rfl (if_congr (by simp [okey]) rfl rfl)
  rw [Bool.or_eq_true, boundsCrossed_iff, ← or_assoc]
  exact or_congr Iff.rfl (by cases objRow 0x5000 (w.key % 256) <;> simp [imp_iff_not_or])

theorem applyEtype_eq {other : Nat} (h : (if w.key = keyCleipEtype then keyTransportEtype else keyCleipEtype) = other) :
    applyEtype t w =
      if w.val ∈ [0x0800, 0x0806, 0x86DD, 0x8100, 0x88A8, 0x8808, 0x88F7, 0xAEFE] ∨ w.val = t.oval other then (csRange, t)
      else ifFlash t w (storeVal t w) := by
  subst h
  unfold applyEtype
  dsimp only
  exact if_congr (by simp [protocolEtypes]) rfl rfl

theorem applyUdp_eq : applyUdp t w =
    if ∃ o ∈ [keyCleipUdp, keyTransportUdp, keyEcpriUdp], o ≠ w.key ∧ t.oval o = w.val then (csRange, t)
    else ifFlash t w (storeVal t w) :=
  if_congr (by simp only [List.any_eq_true, Bool.and_eq_true, decide_eq_true_eq]) rfl rfl

/-! ## The objects without a row of their own -/

theorem applyPlain_of_scalar (h : isDomain w.key = false) : applyPlain t w = ifFlash t w (storeVal t w) := by
  rw [applyPlain, h]
  rfl

theorem isDomain_pfcXoff : isDomain keyPfcXoff = false := by decide +kernel

theorem applyOne_pfcXoff (h : w.key = keyPfcXoff) : applyOne answer t w =
    ((ifFlash t w (storeVal t w)).1, updateHeadroom (ifFlash t w (storeVal t w)).2) := by
  rw [← applyPlain_of_scalar (h ▸ isDomain_pfcXoff)]
  exact applyOne_of_transport (by simp [writeTransport, h])

theorem applyOne_transportPcp (h : w.key = keyTransportPcp) : applyOne answer t w = applyTransportPcp t w :=
  applyOne_of_transport (by simp [writeTransport, h])

theorem applyOne_portMac (h : w.key = keyPortMac 0 ∨ w.key = keyPortMac 1) : applyOne answer t w = applyPortMac t w :=
  applyOne_of_transport (by rcases h with h | h <;> simp [writeTransport, h])

theorem applyOne_portIp (h : (w.key = keyPortIpv4 0 ∨ w.key = keyPortIpv4 1) ∨ w.key = keyPortIpv6 0 ∨ w.key = keyPortIpv6 1) :
    applyOne answer t w = applyPortIp t w :=
  applyOne_of_transport (by rcases h with (h | h) | h | h <;> simp [writeTransport, h])

theorem applyPortIp_of_ipv4 (h : w.key = keyPortIpv4 0 ∨ w.key = keyPortIpv4 1) :
    applyPortIp t w = ifFlash t w (mirrorPut (storeVal t w) (identityMarker (storeVal t w))) := by
  rw [applyPortIp, if_neg (by rcases h with h | h <;> simp [h, keyPortIpv4])]

theorem applyPortIp_of_ipv6 (h : w.key = keyPortIpv6 0 ∨ w.key = keyPortIpv6 1) :
    applyPortIp t w = ifFlash t w (mirrorPut (storeDom t w) (identityMarker (storeDom t w))) := by
  rw [applyPortIp, if_pos (by rcases h with h | h <;> simp [h, keyPortIpv6])]

theorem applyOne_mirrorMode (h : w.key = keyMirrorMode) : applyOne answer t w = applyMirrorMode t w :=
  applyOne_of_transport (by simp [writeTransport, h])

theorem applyOne_engineSpares (h : w.key = keyEngineSpares) : applyOne answer t w = applyEngineSpares t w :=
  applyOne_of_fault (by simp [writeTransport, h, keyEngineSpares]) (by simp [writeFault, h])

theorem applyEngineSpares_eq : applyEngineSpares t w =
    if ∃ i ∈ List.range 4, 4 < w.val / 16 ^ i % 16 then (csRange, t) else ifFlash t w (storeVal t w) := by
  have hsome : (∃ i ∈ List.range 4, 4 < w.val / 16 ^ i % 16)
      ↔ ¬ ([w.val / 4096 % 16, w.val / 256 % 16, w.val / 16 % 16, w.val % 16].all fun n => decide (n ≤ 4)) = true := by
    simp only [show List.range 4 = [0, 1, 2, 3] from rfl, List.exists_mem_cons_iff, List.not_mem_nil, List.all_cons,
      List.all_nil, Bool.and_eq_true, decide_eq_true_eq, false_and, exists_false]
    norm_num
    omega
  rw [applyEngineSpares, ← ite_not]
  exact if_congr hsome.symm rfl rfl

theorem applyOne_mirrorFrom (h : w.key = keyMirrorFrom0 ∨ w.key = keyMirrorFrom1) :
    applyOne answer t w = applyMirrorFrom t w :=
  applyOne_of_fault (by rcases h with h | h <;> simp [writeTransport, h, keyMirrorFrom0, keyMirrorFrom1])
    (by rcases h with h | h <;> simp [writeFault, h])

theorem applyOne_deskewMax (h : w.key = keyDeskewMax) : applyOne answer t w = applyDeskewMax t w := by
  apply applyOne_of_unit <;> simp [writeTransport, writeFault, writeUnit, h, keyDeskewMax]

theorem applyOne_ecpriVlinks (h : w.key = keyEcpriVlinks) : applyOne answer t w = applyEcpriVlinks t w := by
  apply applyOne_of_unit <;> simp [writeTransport, writeFault, writeUnit, h, keyEcpriVlinks]

theorem applyOne_rankPdIdle (h : w.key = keyRankPdIdle) : applyOne answer t w = applyRankPdIdle t w := by
  apply applyOne_of_unit <;> simp [writeTransport, writeFault, writeUnit, h, keyRankPdIdle]

theorem applyOne_holdoverLimit (h : w.key = keyHoldoverLimit) : applyOne answer t w = applyHoldoverLimit t w := by
  apply applyOne_of_unit <;> simp [writeTransport, writeFault, writeUnit, h, keyHoldoverLimit]

theorem applyOne_ppsOutMode (h : w.key = keyPpsOutMode) : applyOne answer t w = applyPpsOutMode t w := by
  apply applyOne_of_unit <;> simp [writeTransport, writeFault, writeUnit, h, keyPpsOutMode]

theorem applyOne_ppsInMode (h : w.key = keyPpsInMode) : applyOne answer t w = applyPpsInMode t w := by
  apply applyOne_of_unit <;> simp [writeTransport, writeFault, writeUnit, h, keyPpsInMode]

theorem applyOne_ptpEnable (h : w.key = keyPtpEnable 0 ∨ w.key = keyPtpEnable 1) : applyOne answer t w = applyPtpEnable t w := by
  rcases h with h | h <;> apply applyOne_of_unit <;> simp [writeTransport, writeFault, writeUnit, h, keyPtpEnable]

theorem applyOne_ptpPorts (h : w.key = keyPtpPorts 0 ∨ w.key = keyPtpPorts 1) : applyOne answer t w = applyPtpPorts t w := by
  rcases h with h | h <;> apply applyOne_of_unit <;> simp [writeTransport, writeFault, writeUnit, h, keyPtpPorts]

theorem applyOne_opticsDays (h : w.key = keyWarnDays ∨ w.key = keyDrainDays) : applyOne answer t w = applyOpticsDays t w := by
  rcases h with h | h <;> apply applyOne_of_unit <;> simp [writeTransport, writeFault, writeUnit, h, keyWarnDays, keyDrainDays]

/-! ## The objects with no rule of their own -/

theorem objRowIn_spec {l : List ObjRow} {i sub : Nat} {row : ObjRow} (h : objRowIn l i sub = some row) :
    row ∈ l ∧ row.index ≤ i ∧ i < row.index + row.span ∧ row.sub = sub := by
  induction l with
  | nil => cases h
  | cons x l ih =>
    rw [objRowIn] at h
    split at h
    next hx =>
      obtain rfl := Option.some.inj h
      simp only [Bool.and_eq_true, decide_eq_true_eq] at hx
      obtain ⟨⟨hle, hlt⟩, hsub⟩ := hx
      exact ⟨List.mem_cons_self, hle, hlt, hsub⟩
    next =>
      obtain ⟨hmem, hx⟩ := ih h
      exact ⟨List.mem_cons_of_mem _ hmem, hx⟩

/-- The row of an object that a role may write. -/
theorem exists_row_of_writable {role : Nat} (h : 2 ≤ reqAccess k role) : ∃ row ∈ objTable,
    row.index ≤ k / 256 ∧ k / 256 < row.index + row.span ∧ row.sub = k % 256
      ∧ (2 ≤ row.host ∨ 2 ≤ row.installer ∨ 2 ≤ row.maker) := by
  unfold reqAccess at h
  split at h
  next row hrow =>
    obtain ⟨hmem, hlo, hhi, hsub⟩ := objRowIn_spec hrow
    refine ⟨row, hmem, hlo, hhi, hsub, ?_⟩
    unfold accessOf at h
    split at h
    · omega
    split at h
    · exact .inl h
    · exact .inr (.inl h)
    · exact .inr (.inr h)
  next => omega

/-- Of the pools, the policy bounds and the narrowband profiles, the table lets the settings alone be written. -/
theorem writable_rows_of_families : ∀ row ∈ objTable, (2 ≤ row.host ∨ 2 ≤ row.installer ∨ 2 ≤ row.maker) →
    (row.index < 0x43FF → 0x4301 < row.index + row.span → 2 ≤ row.sub ∧ row.sub ≤ 6)
      ∧ (row.index < 0x5003 → 0x5001 < row.index + row.span → row.sub ≠ 0)
      ∧ (row.index < 0x8120 → 0x8100 < row.index + row.span → row.sub = 1) := by
  decide +kernel

section
variable {role : Nat} (hw : 2 ≤ reqAccess k role)
include hw

theorem isPoolSetting_of_writable (hlo : 0x430100 ≤ k) (hhi : k < 0x43FF00) : isPoolSetting k = true := by
  obtain ⟨row, hmem, hle, hlt, hsub, hacc⟩ := exists_row_of_writable hw
  obtain ⟨hpool, -, -⟩ := writable_rows_of_families row hmem hacc
  have := hpool (by omega) (by omega)
  simp only [isPoolSetting, Bool.and_eq_true, decide_eq_true_eq]
  omega

theorem isPolicyBound_of_writable (h : k / 256 = 0x5001 ∨ k / 256 = 0x5002) : isPolicyBound k = true := by
  obtain ⟨row, hmem, hle, hlt, hsub, hacc⟩ := exists_row_of_writable hw
  obtain ⟨-, hbound, -⟩ := writable_rows_of_families row hmem hacc
  have := hbound (by omega) (by omega)
  simp only [isPolicyBound, Bool.and_eq_true, Bool.or_eq_true, decide_eq_true_eq]
  omega

theorem isNbSetting_of_writable (hlo : 0x810000 ≤ k) (hhi : k < 0x812000) : isNbSetting k = true := by
  obtain ⟨row, hmem, hle, hlt, hsub, hacc⟩ := exists_row_of_writable hw
  obtain ⟨-, -, hnb⟩ := writable_rows_of_families row hmem hacc
  have := hnb (by omega) (by omega)
  simp only [isNbSetting, Bool.and_eq_true, Bool.or_eq_true, decide_eq_true_eq]
  omega

end

/-- The objects that have a rule of their own though no row of the command table, the policy values apart. -/
def ruledObjects : List Nat :=
  [keyPfcXoff, keyTransportPcp, keyPortMac 0, keyPortMac 1, keyPortIpv4 0, keyPortIpv4 1, keyPortIpv6 0, keyPortIpv6 1,
   keyMirrorMode, keyEngineSpares, keyMirrorFrom0, keyMirrorFrom1, keyDeskewMax, keyEcpriVlinks, keyRankPdIdle,
   keyHoldoverLimit, keyPpsOutMode, keyPpsInMode, keyPtpEnable 0, keyPtpEnable 1, keyPtpPorts 0, keyPtpPorts 1, keyWarnDays,
   keyDrainDays]

section
variable (hr : (hasRow w.key || ruledObjects.contains w.key) = false)
include hr

theorem writeTransport_eq_none {role : Nat} (hw : 2 ≤ reqAccess w.key role) (hp : w.key / 256 ≠ 0x5000) :
    writeTransport t w = none := by
  have hrow : hasRow w.key = false := (Bool.or_eq_false_iff.1 hr).1
  have hpool : ¬ (0x430100 ≤ w.key ∧ w.key < 0x43FF00) := fun h => by
    simp [hasRow, isPoolSetting_of_writable hw h.1 h.2] at hrow
  have hbound : ¬ (w.key / 256 = 0x5001 ∨ w.key / 256 = 0x5002) := fun h => by
    simp [hasRow, isPolicyBound_of_writable hw h] at hrow
  unfold writeTransport
  split
  case h_24 => rw [if_neg hpool, if_neg hp, if_neg hbound]
  all_goals
    rename_i heq
    rw [heq] at hr
    exact absurd hr (by decide)

theorem writeFault_eq_none : writeFault answer t w = none := by
  unfold writeFault
  split
  case h_12 => rfl
  all_goals
    rename_i heq
    rw [heq] at hr
    exact absurd hr (by decide)

theorem writeUnit_eq_none {role : Nat} (hw : 2 ≤ reqAccess w.key role) : writeUnit t w = none := by
  have hrow : hasRow w.key = false := (Bool.or_eq_false_iff.1 hr).1
  have hnb : ¬ (0x810000 ≤ w.key ∧ w.key < 0x812000) := fun h => by
    simp [hasRow, isNbSetting_of_writable hw h.1 h.2] at hrow
  unfold writeUnit
  split
  case h_37 => rw [if_neg hnb]
  all_goals
    rename_i heq
    rw [heq] at hr
    exact absurd hr (by decide)

theorem writePort_eq_none : writePort t w = none := by
  unfold writePort
  split
  case h_11 => rfl
  all_goals
    rename_i heq
    rw [heq] at hr
    exact absurd hr (by decide)

theorem applyOne_of_plain {role : Nat} (hw : 2 ≤ reqAccess w.key role) (hp : w.key / 256 ≠ 0x5000) :
    applyOne answer t w = ifFlash t w (if isDomain w.key = true then storeDom t w else storeVal t w) :=
  applyOne_of_none (writeTransport_eq_none hr hw hp) (writeFault_eq_none hr) (writeUnit_eq_none hr hw) (writePort_eq_none hr)

end

/-! ## The obligation -/

theorem eq_ite_of {α : Type} {c : Prop} [Decidable c] {x a b : α} (hp : c → x = a) (hn : ¬c → x = b) :
    x = if c then a else b := by
  split
  · exact hp ‹_›
  · exact hn ‹_›

/-- Settles O49: the rule that the tables give each object, its tests read as the conditions of the spec. -/
theorem cellAndPolicyWritesFollowTheRules : Obligations.CellAndPolicyWritesFollowTheRules := by
  unfold Obligations.CellAndPolicyWritesFollowTheRules
  intro s r
  refine ⟨written_of_applyOne .cellConfig (by decide) (by simp) (by decide) fun op t w h => ?cells,
    written_of_applyOne .migrateCmd (by decide) (by simp) (by decide) fun op t w h => ?migrate,
    written_of_applyOne .admitProbe (by decide) (by simp) (by decide) fun op t w h => ?probe,
    written_of_applyOne .kernelTable (by decide) (by simp) (by decide) fun op t w h => ?kernels,
    fun k hk => written_of_applyOne .policyBound hk (by simp) ?boundKey fun op t w h => ?bound,
    fun k hk => written_of_applyOne .carrierIdWrite (by rcases hk with rfl | rfl <;> decide) (by simp)
      (by rcases hk with rfl | rfl <;> decide) fun op t w h => ?etype,
    fun k hk => written_of_applyOne .carrierIdWrite (by rcases hk with rfl | rfl | rfl <;> decide) (by simp)
      (by rcases hk with rfl | rfl | rfl <;> decide) fun op t w h => ?udp, ?rest⟩
  case cells => rw [applyOne_cellConfig h.key, applyCellConfig_eq]
  case migrate => rw [applyOne_migrateCmd h.key, applyMigrateCmd_eq]
  case probe => rw [applyOne_admitProbe h.key, applyAdmitProbe_eq]
  case kernels => rw [applyOne_kernelTable h.key, applyKernelTable_eq]
  case boundKey =>
    rintro rfl
    exact absurd hk (by decide)
  case bound =>
    have hfam : k / 256 = 0x5001 ∨ k / 256 = 0x5002 := by
      simp only [isPolicyBound, Bool.and_eq_true, Bool.or_eq_true, decide_eq_true_eq] at hk
      exact hk.1
    obtain rfl := h.key
    rw [applyOne_policyBound hfam, applyPolicyBound_eq]
  case etype =>
    obtain rfl := h.key
    rw [applyOne_etype hk, applyEtype_eq rfl]
  case udp =>
    obtain rfl := h.key
    rw [applyOne_udp hk, applyUdp_eq]
  case rest =>
    intro rule k hk
    refine written_of_applyOne .objectWrite (by simp [hk]) (by simp) ?_ fun op t w h => ?_
    · rintro rfl
      exact absurd hk (by decide)
    obtain rfl := h.key
    refine eq_ite_of (fun hpol => ?policy) fun hpol => eq_ite_of (fun he => ?pfcXoff) fun hxoff =>
      eq_ite_of (fun he => ?transportPcp) fun hpcp => eq_ite_of (fun he => ?portMac) fun hmac =>
      eq_ite_of (fun he => ?portIpv4) fun hip4 => eq_ite_of (fun he => ?portIpv6) fun hip6 =>
      eq_ite_of (fun he => ?mirrorMode) fun hmode => eq_ite_of (fun he => ?engineSpares) fun hspares =>
      eq_ite_of (fun he => ?mirrorFrom) fun hfrom => eq_ite_of (fun he => ?deskewMax) fun hdeskew =>
      eq_ite_of (fun he => ?ecpriVlinks) fun hvlinks => eq_ite_of (fun he => ?rankPdIdle) fun hidle =>
      eq_ite_of (fun he => ?holdoverLimit) fun hholdover => eq_ite_of (fun he => ?ppsOutMode) fun hppsOut =>
      eq_ite_of (fun he => ?ppsInMode) fun hppsIn => eq_ite_of (fun he => ?ptpEnable) fun henable =>
      eq_ite_of (fun he => ?ptpPorts) fun hports => eq_ite_of (fun he => ?opticsDays) fun hdays => ?plain
    case policy => rw [applyOne_policy hpol, applyPolicy_eq]
    case pfcXoff => exact applyOne_pfcXoff he
    case transportPcp => exact applyOne_transportPcp he
    case portMac => exact applyOne_portMac he
    case portIpv4 => exact (applyOne_portIp (.inl he)).trans (applyPortIp_of_ipv4 he)
    case portIpv6 => exact (applyOne_portIp (.inr he)).trans (applyPortIp_of_ipv6 he)
    case mirrorMode => exact applyOne_mirrorMode he
    case engineSpares => rw [applyOne_engineSpares he, applyEngineSpares_eq]
    case mirrorFrom => exact applyOne_mirrorFrom he
    case deskewMax =>
      rw [applyOne_deskewMax he, applyDeskewMax]
      exact if_congr List.any_eq_true rfl rfl
    case ecpriVlinks => exact applyOne_ecpriVlinks he
    case rankPdIdle => exact applyOne_rankPdIdle he
    case holdoverLimit => exact applyOne_holdoverLimit he
    case ppsOutMode => exact applyOne_ppsOutMode he
    case ppsInMode => exact applyOne_ppsInMode he
    case ptpEnable =>
      rw [applyOne_ptpEnable he]
      exact congrArg (ifFlash t w) (if_congr beq_iff_eq rfl rfl)
    case ptpPorts => exact applyOne_ptpPorts he
    case opticsDays => exact applyOne_opticsDays he
    case plain =>
      have hruled : ruledObjects.contains w.key = false := by
        simp only [not_or] at hmac hip4 hip6 hfrom henable hports hdays
        simp [ruledObjects, hxoff, hpcp, hmac, hip4, hip6, hmode, hspares, hfrom, hdeskew, hvlinks, hidle, hholdover,
          hppsOut, hppsIn, henable, hports, hdays]
      exact applyOne_of_plain (by rw [hk, hruled, Bool.false_or]) h.granted hpol

end Sys2Proof.Machine

/-!
# Learning, operating points, thermal ceilings, migration and gating (O23)

Each command acts where its condition stands: one lemma for each says that it stands under the hypotheses of the rule, and
what the command then does. What a change of a cluster's clock leaves alone is shown step by step.
-/

namespace Sys2Proof.Machine

variable {s : State} {k : Nat}

/-! ## Learning (R136) -/

theorem oflag_iff {key : Nat} : s.oflag key = true ↔ s.oval key ≠ 0 := by simp [State.oflag]

theorem execLearnPeriod_of_due (ha : s.awake = true) (hs : s.sv.switching = none) (he : s.oval keyLearnEnable ≠ 0)
    (hd : s.lastLearn + s.oval keyLearnPeriod * 1000000 ≤ s.time.now) :
    execLearnPeriod s = .next { s with
      lastLearn := s.time.now
      budgets := s.budgets.map fun x => if (s.graph (x.1 / 256)).isSome then (x.1, learnTask s x.2) else x } :=
  whenSt_of_true _ (by simp [ha, hs, oflag_iff.2 he, hd])

/-! ## Operating points (R142, R143) -/

theorem execDvfsPeriod_of_due (ha : s.awake = true) (hs : s.sv.switching = none)
    (hd : s.lastDvfs + s.oval keyDvfsPeriod * 1000 ≤ s.time.now) :
    execDvfsPeriod s = .next
      (let t := dvfsEngines ((List.range (nClusters s.part.variant)).foldl dvfsCluster s)
       reOvercast (evalMigration { t with lastDvfs := s.time.now })) :=
  whenSt_of_true _ (by simp [ha, hs, hd])

/-- A state with the clusters and cores of another: two states agree in all else when these of them are equal. -/
def withClocksOf (x t : State) : State := { t with clusters := x.clusters, cores := x.cores }

theorem withClocksOf_setCluster (x t : State) (k : Nat) (c : Cluster) :
    withClocksOf x (t.setCluster k c) = withClocksOf x t := rfl

theorem withClocksOf_setCore (x t : State) (n : Nat) (c : Core) : withClocksOf x (t.setCore n c) = withClocksOf x t := rfl

/-- A clock changes nothing but clusters and cores. -/
theorem withClocksOf_setClock (x s : State) (k p : Nat) : withClocksOf x (setClock s k p) = withClocksOf x s := by
  rw [setClock, withClocksOf_setCluster, foldl_keeps (withClocksOf x), bankLow, withClocksOf_setCluster]
  intro t i
  dsimp only
  split
  · exact withClocksOf_setCore ..
  · rfl

theorem setClock_frame (s : State) (k p : Nat) :
    { setClock s k p with clusters := s.clusters, cores := s.cores } = s := withClocksOf_setClock s s k p

theorem setClock_opp (s : State) (k p : Nat) : ((setClock s k p).cluster k).opp = p := by simp [setClock]

theorem setClock_oppPending (s : State) (k p : Nat) : ((setClock s k p).cluster k).oppPending = none := by simp [setClock]

theorem execOppSwitchDone_of_pending {p : Nat} (hk : k < 16) (h : (s.cluster k).oppPending = some p) :
    execOppSwitchDone k s = .next (setClock s k p) := by
  rw [execOppSwitchDone, onUnit_lt _ hk, h]
  rfl

/-! ## Temperature (R138, R144) -/

theorem nClusters_le (v : Variant) : nClusters v ≤ 16 := by cases v <;> decide

theorem execThermalCeiling_of_present {temp : Int} (h : k < nClusters s.part.variant) :
    execThermalCeiling k temp s = .next (
      let x := s.cluster k
      let hot := if s.ovalInt keyThermalMigrate 16 * 8 < temp then some (x.hotSince.getD s.time.now) else none
      let t := s.setCluster k { x with
        temp := temp, thermal := thermalOf (s.ovalInt keyThermalOpp 16 * 8) temp x.thermal, hotSince := hot }
      settle s (if schedOpp t k < ceilingOf t k then switchOpp t k (ceilingOf t k) else t)) := by
  rw [execThermalCeiling, onUnit_lt _ (h.trans_le (nClusters_le _))]
  exact whenSt_of_true _ (decide_eq_true h)

theorem tooHot_of_hotSince {t : Nat} (h : (s.cluster k).hotSince = some t) (hd : t + 100000000 ≤ s.time.now) :
    tooHot s k = true := by
  rw [tooHot, h]
  exact decide_eq_true hd

theorem execThermalMigrate_of_tooHot (hk : k < 16) (ha : s.awake = true) (hs : s.sv.switching = none)
    (h : tooHot s k = true) : execThermalMigrate k s = .next (thermalOne s k) := by
  rw [execThermalMigrate, onUnit_lt _ hk]
  exact whenSt_of_true _ (by simp [h, ha, hs])

/-! ## The switch of a migrating cell (R140) -/

theorem execMigrationSwitch_of_due {cell : Nat} {m : Migration} (hc : cell < 4095)
    (hm : (s.cellState cell).migration = some m) (hsw : m.switched = false) (hg : (s.cluster m.target).gated = false)
    (hu : clusterUp s m.target = true)
    (hd : m.reason = 3 ∨ (s.sv.switching = none ∧ nextSlotBoundary (s.cell cell) m.startTime ≤ s.time.now)) :
    execMigrationSwitch cell s = .next (settle s (switchCell s cell)) := by
  rw [execMigrationSwitch, onUnit_lt _ hc, hm]
  exact whenSt_of_true _ (by simp [hsw, hg, hu, hd])

/-! ## Gating (R145) -/

theorem mayGate_iff : mayGate s = true ↔
    s.awake = true ∧ s.power.phase = 0 ∧ s.power.state = 1 ∧ s.overcast.on = false ∧ s.sv.switching = none := by
  simp [mayGate, and_assoc]

theorem execGateIdleExpiry_of_due {t : Nat} (hk : k < 16) (hm : mayGate s = true) (hg : gateable s k = true)
    (hi : (s.cluster k).idleSince = some t) (hd : t + s.oval keyGateIdle * 1000 ≤ s.time.now) :
    execGateIdleExpiry k s = .next (setRail ((loseCluster s k).setCluster k
      { s.cluster k with gated := true, idleSince := none, oppPending := none }) (k / 4)) := by
  rw [execGateIdleExpiry, onUnit_lt _ hk, hi]
  exact whenSt_of_true _ (by simp [hm, hg, hd])

/-! ## The obligation -/

/-- Settles O23: each clause is the lemma of its command above; a switch of the clock is `setClock` with its frame. -/
theorem policyTimersFollowTheRules : Obligations.PolicyTimersFollowTheRules := by
  unfold Obligations.PolicyTimersFollowTheRules
  intro s
  exact ⟨fun ha hs => ⟨execLearnPeriod_of_due ha hs, execDvfsPeriod_of_due ha hs,
      fun k t hk ht hd => execThermalMigrate_of_tooHot hk ha hs (tooHot_of_hotSince ht hd)⟩,
    fun k temp hk => execThermalCeiling_of_present hk,
    fun cell m hc hm hsw hg hu hd => execMigrationSwitch_of_due hc hm hsw hg hu hd,
    fun k p hk hp => ⟨setClock s k p, execOppSwitchDone_of_pending hk hp, setClock_opp s k p, setClock_oppPending s k p,
      setClock_frame s k p⟩,
    fun k t hk ha hp hst ho hs hg hi hd => execGateIdleExpiry_of_due hk (mayGate_iff.2 ⟨ha, hp, hst, ho, hs⟩) hg hi hd⟩

end Sys2Proof.Machine

/-!
# Starts of runs, admission, overrun and deadlines (O22)

A start on a free core is `startOnCore`, whose last step that touches a core lays `startCore` on it. Admission is `admitJob`
of a job whose turn it is: one lemma for each of its outcomes. Overrun and deadlines are read from their commands.
-/

namespace Sys2Proof.Machine

variable {s u : State} {t : TaskRef} {j : Job} {ti : TaskInst} {r : TaskRun} {d : TaskDef} {c q : Nat} {seq : BitVec 32}

/-! ## The start state of a core (R202) -/

@[simp] theorem writeAon_cores (s : State) (o n : Nat) : (writeAon s o n).cores = s.cores := by
  unfold writeAon
  split <;> rfl

@[simp] theorem jWrite_cores (s : State) (slot : Nat) (e : JEntry) : (jWrite s slot e).cores = s.cores := by
  simp [jWrite, jPut]

@[simp] theorem setTask_cores (s : State) (j : Job) (t : Nat) (ti : TaskInst) : (setTask s j t ti).cores = s.cores := rfl

@[simp] theorem markStarted_cores (s : State) (j : Job) : (markStarted s j).cores = s.cores := by
  unfold markStarted
  split
  · rfl
  · dsimp only
    split
    · exact jWrite_cores ..
    · rfl

@[simp] theorem startedRun_cores (s : State) (ref : TaskRef) (p : Option Place) (phase : Nat)
    (staging : List (Nat × Nat × Nat)) : (startedRun s ref p phase staging).cores = s.cores := by
  unfold startedRun
  split
  · rfl
  · exact (setTask_cores ..).trans (markStarted_cores ..)

theorem core_startedRun (s : State) (ref : TaskRef) (p : Option Place) (phase : Nat) (staging : List (Nat × Nat × Nat))
    (c : Nat) : (startedRun s ref p phase staging).core c = s.core c := by
  rw [State.core, startedRun_cores, State.core]

theorem startOnCore_core (h : startOnCore s t j d c = some u) :
    ∃ v segs chan, u.core c = startCore v t d segs chan := by
  unfold startOnCore at h
  split at h
  · cases h
  · obtain ⟨-, h⟩ := Option.ite_none_left_eq_some.1 h
    obtain rfl := Option.some.inj h
    exact ⟨_, _, _, (core_startedRun ..).trans (State.core_setCore ..)⟩

/-! ## Dispatch and replay of a run (R128, R156, R281) -/

theorem takeCore_of_free (h : c ∈ freeCores s j d r) : takeCore s t j d r c = startOnCore s t j d c := by
  simp [takeCore, h]

theorem execTaskDispatch_core (hf : findRun s t = some (j, ti, r)) (hd : (jobGraph s j).tasks[t.task]? = some d)
    (hc : c < 576) (hk : d.kind = 0) (hfree : c ∈ freeCores s j d r) (hu : startOnCore s t j d c = some u)
    (hr : runReady s j t.task d r 0 = true) (hh : isHead s j d r = true) :
    execTaskDispatch t (.core c) s = .next (if r.replay = true then u.bump keyReplays 1 else u) := by
  simp [execTaskDispatch, hf, hd, hr, hk, onUnit_lt _ hc, hh, takeCore_of_free hfree, hu, done, countReplay]

theorem execTaskDispatch_engine {p : Place} (hf : findRun s t = some (j, ti, r))
    (hd : (jobGraph s j).tasks[t.task]? = some d) (hk : d.kind ≠ 0) (hr : runReady s j t.task d r 0 = true)
    (hu : queueEntry s t j d r false = some u) : execTaskDispatch t p s = .next u := by
  simp [execTaskDispatch, hf, hd, hr, hk, hu, done]

/-- The spare-reserve cores among the free ones leave a core to a replay when it is one of them, or when there are none. -/
theorem spare_leaves (hfree : c ∈ freeCores s j d r)
    (hs : ∀ x ∈ freeCores s j d r, coreReserve s x = true → coreReserve s c = true) :
    (((freeCores s j d r).filter fun x => coreReserve s x).isEmpty
      || ((freeCores s j d r).filter fun x => coreReserve s x).contains c) = true := by
  by_cases hc : coreReserve s c = true
  · simp [hfree, hc]
  · have hnone : ((freeCores s j d r).filter fun x => coreReserve s x) = [] :=
      List.filter_eq_nil_iff.2 fun x hx hr => hc (hs x hx hr)
    rw [hnone]
    rfl

theorem execTaskReplay_core (hf : findRun s t = some (j, ti, r)) (hd : (jobGraph s j).tasks[t.task]? = some d)
    (hc : c < 576) (hk : d.kind = 0) (hfree : c ∈ freeCores s j d r) (hu : startOnCore s t j d c = some u)
    (hr : runReady s j t.task d r 3 = true)
    (hs : ∀ x ∈ freeCores s j d r, coreReserve s x = true → coreReserve s c = true) :
    execTaskReplay t (.core c) s = .next (u.bump keyReplays 1) := by
  have hne : (freeCores s j d r).isEmpty = false := List.isEmpty_eq_false_iff.2 (List.ne_nil_of_mem hfree)
  simp only [execTaskReplay, hf, hd, hr, hk, onUnit_lt _ hc, hne, spare_leaves hfree hs, takeCore_of_free hfree, hu]
  rfl

theorem execTaskReplay_waits (hf : findRun s t = some (j, ti, r)) (hd : (jobGraph s j).tasks[t.task]? = some d)
    (hc : c < 576) (hk : d.kind = 0) (hfree : freeCores s j d r = []) (hr : runReady s j t.task d r 3 = true) :
    execTaskReplay t (.core c) s = .next (setTask s j t.task (ti.setRun { r with phase := 0, replay := true })) := by
  simp [execTaskReplay, hf, hd, hr, hk, onUnit_lt _ hc, hfree, done]

theorem execTaskReplay_engine {p : Place} (hf : findRun s t = some (j, ti, r))
    (hd : (jobGraph s j).tasks[t.task]? = some d) (hk : d.kind ≠ 0) (hr : runReady s j t.task d r 3 = true)
    (hu : queueEntry s t j d r true = some u) : execTaskReplay t p s = .next (u.bump keyReplays 1) := by
  simp [execTaskReplay, hf, hd, hr, hk, hu, done]

/-! ## Admission (R120, R123 to R125) -/

theorem entersBefore_iff {a b : Job} : entersBefore s a b = true ↔
    entryTime s a < entryTime s b ∨ entryTime s a = entryTime s b ∧ (a.dl < b.dl ∨ a.dl = b.dl ∧ a.order < b.order) := by
  simp [entersBefore]

theorem itsTurn_of_first (h : j.tried = false → ∀ i ∈ s.jobs, i.tried = false → awaitsAdmission s i = true →
      entryTime s j < entryTime s i
        ∨ (entryTime s j = entryTime s i ∧ (j.dl < i.dl ∨ (j.dl = i.dl ∧ j.order ≤ i.order)))) :
    itsTurn s j = true := by
  rcases Bool.eq_false_or_eq_true j.tried with ht | ht
  · simp [itsTurn, ht]
  · rw [itsTurn, ht, Bool.false_or, List.all_eq_true]
    intro i hi
    by_contra hn
    simp only [Bool.or_eq_true, Bool.not_eq_true', not_or, Bool.not_eq_true, Bool.not_eq_false, entersBefore_iff] at hn
    obtain ⟨⟨htried, hawaits⟩, hbefore⟩ := hn
    have hfirst := h ht i hi htried hawaits
    omega

theorem awaitsAdmission_of_none (ht : j.desc.timed = true) (he : j.expanded = true) (hf : j.final = false)
    (ha : j.admission = .none)
    (hw : j.dl - s.time.now ≤ horizonOf s j.desc.cell * (s.cell j.desc.cell).slotNs) : awaitsAdmission s j = true := by
  simp [awaitsAdmission, ht, he, hf, ha, withinHorizon, hw]

theorem execAdmission_of_turn (hj : s.job q seq = some j) (ha : s.awake = true) (hs : s.schedStopped = false)
    (hw : awaitsAdmission s j = true) (ht : itsTurn s j = true) (hu : admitJob s { j with tried := true } = u) :
    execAdmission q seq s = .next (trackReady u) := by
  rw [execAdmission, hj, ← hu]
  exact whenSt_of_true _ (by simp [ha, hs, hw, ht])

theorem admitJob_of_guaranteed {p : Nat} (hg : j.desc.guaranteed = true) (hd : j.demoted = false)
    (hp : guaranteedTest s j = some p) :
    admitJob s j = switchOpp
      (((chargeSlot s j.desc.cell (slotOfDeadline (s.cell j.desc.cell) j.dl) (chargeOf s j)).setJob
        { j with admission := .guaranteed, charge := chargeOf s j, cluster := jobCluster s j }).bump keyAdmitGuaranteed 1)
      (jobCluster s j) p := by
  simp [admitJob, hg, hd, hp]

theorem admitJob_of_demotion (hg : j.desc.guaranteed = true) (hd : j.demoted = false) (hp : guaranteedTest s j = none) :
    admitJob s j =
      let x := s.cellState j.desc.cell
      let m := { j with demoted := true }
      admitBest (((s.setJob m).setCellSt j.desc.cell { x with demoted := x.demoted + 1 }).bump keyAdmitDemoted 1) m := by
  simp [admitJob, hg, hd, hp]

theorem admitJob_of_failed (hg : j.desc.guaranteed = false) (hp : bestEffortTest s j = none) :
    admitJob s j = s.setJob j := by
  simp [admitJob, admitBest, hg, hp]

theorem admitJob_of_bestEffort {p : Nat} (hg : j.desc.guaranteed = false) (hd : j.demoted = false)
    (hp : bestEffortTest s j = some p) :
    admitJob s j = switchOpp ((s.setJob { j with admission := .bestEffort, cluster := jobCluster s j }).bump
      keyAdmitBestEffort 1) (jobCluster s j) p := by
  simp [admitJob, admitBest, hg, hd, hp]

/-! ## Deadlines (R132) -/

/-- The deadline of an expanded timed job has come, and the job is not finalised. -/
theorem execJobDeadline_of_due (hj : s.job q seq = some j) (ht : j.desc.timed = true) (he : j.expanded = true)
    (hf : j.final = false) (hd : j.dl ≤ s.time.now) :
    execJobDeadline q seq s =
      if j.started = false then .next (settleAll s (finalise s j 0x02))
      else if j.tasks.all (·.done) = true then .next s
      else if (jobGraph s j).abort = true then .next (settleAll s (finalise s j 0x06))
      else .next ((bankAll s).setJob { j with admission := .bestEffort }) := by
  simp [execJobDeadline, hj, ht, he, hf, not_lt.2 hd, done]

theorem not_all_done (h : ∃ t ∈ j.tasks, t.done = false) : ¬ j.tasks.all (·.done) = true := by
  simpa using h

/-! ## Overrun (R131) -/

theorem execOverrunMark_of_running (hf : findRun s t = some (j, ti, r)) (hd : (jobGraph s j).tasks[t.task]? = some d)
    (hk : d.kind = 0) (hp : r.phase = 1) (hg : j.isG = true) :
    execOverrunMark t s = .next (
      if budgetL s j.desc.graph t.task d * (32768 + s.oval keyOverrunMargin) < runCycles s r * 32768
      then (setTask (bankAll s) { j with overrun := true } t.task
        { ti with runs := ti.runs.map fun x => { x with marked := true } }).bump keyOverrunMarks 1
      else s) := by
  simp only [execOverrunMark, hf, hd, hk, hp, hg, whenSt, decide_true, Bool.true_and, decide_eq_true_eq]
  split <;> rfl

/-! ## The obligation -/

/-- Settles O22: the place of a run and the state of its core, the outcomes of admission, the deadline and the overrun are
each a lemma above. -/
theorem runsStartAndDeadlinesFollowTheRules : Obligations.RunsStartAndDeadlinesFollowTheRules := by
  unfold Obligations.RunsStartAndDeadlinesFollowTheRules
  refine ⟨fun s t j ti r d hf hd => ⟨fun c u hc hk hfree hu => ?core, fun c hc hk hfree hr =>
      execTaskReplay_waits hf hd hc hk hfree hr, fun p u hk => ⟨execTaskDispatch_engine hf hd hk,
      execTaskReplay_engine hf hd hk⟩⟩,
    fun s q seq j hj ht he hf => ⟨fun ha haw hs hw hfirst => ?admission, fun hdl => ?deadline,
      fun t ti r d hrun hd hk hp hg => execOverrunMark_of_running hrun hd hk hp hg⟩⟩
  case core =>
    refine ⟨execTaskDispatch_core hf hd hc hk hfree hu, execTaskReplay_core hf hd hc hk hfree hu, ?_⟩
    obtain ⟨v, segs, chan, hcore⟩ := startOnCore_core hu
    rw [hcore]
    exact ⟨rfl, rfl, rfl, rfl, rfl, rfl, rfl⟩
  case admission =>
    have hadmit {u : State} : admitJob s { j with tried := true } = u → exec (.admission q seq) s = .next (trackReady u) :=
      execAdmission_of_turn hj haw hs (awaitsAdmission_of_none ht he hf ha hw) (itsTurn_of_first hfirst)
    exact ⟨fun p hg hdem hp => hadmit (admitJob_of_guaranteed hg hdem hp),
      fun hg hdem hp => hadmit (admitJob_of_demotion hg hdem hp),
      fun hg hp => hadmit (admitJob_of_failed hg hp),
      fun p hg hdem hp => hadmit (admitJob_of_bestEffort hg hdem hp)⟩
  case deadline =>
    rw [exec_jobDeadline, execJobDeadline_of_due hj ht he hf hdl]
    refine ⟨fun hst => if_pos hst, fun hst htask => ?_⟩
    rw [if_neg (by simp [hst]), if_neg (not_all_done htask)]
    exact ⟨fun hab => if_pos hab, fun hab => if_neg (by simp [hab])⟩

end Sys2Proof.Machine

/-!
# Supervisor switch-over, retest and firmware update (O25)

Each command acts where its condition stands: one lemma for each says what it then does, in the model's own terms for the
two pairs (`svPair`, `setSv`), which are those of the statement by definition.
-/

namespace Sys2Proof.Machine

variable {s : State} {m n t cause : Nat} {i : Image}

/-! ## The pairs (R172) -/

theorem svIn_of_svPair (hn : n < 2) (h : svPair s n = m) (hne : svPair s (1 - n) ≠ m) : svIn s m = some n := by
  obtain rfl | rfl : n = 0 ∨ n = 1 := by omega
  · exact if_pos h
  · exact (if_neg hne).trans (if_pos h)

theorem svIn_eq_none_iff : svIn s m = none ↔ s.sv.pair0 ≠ m ∧ s.sv.pair1 ≠ m := by
  unfold svIn
  split_ifs <;> simp_all

theorem isSome_svIn_iff : (svIn s m).isSome = true ↔ s.sv.pair0 = m ∨ s.sv.pair1 = m := by
  rw [← Option.ne_none_iff_isSome, ne_eq, svIn_eq_none_iff]
  tauto

/-- Of two pairs in the same state the first is taken. -/
theorem svIn_of_some (h : svIn s m = some n) :
    (s.sv.pair0 = m ∨ s.sv.pair1 = m) ∧ n = if s.sv.pair0 = m then 0 else 1 := by
  unfold svIn at h
  split_ifs at h <;> simp_all

/-! ## Failure and retest of a pair (R172) -/

/-- The active pair has failed: logged with its cause and charged a strike, which may retire it. -/
def failActive (s : State) (cause : Nat) : State :=
  let a := s.sv.active
  let t := strike (logFault s (faultNoJob s (regSv a) cause 0x06)) (regSv a)
  setSv t a (if t.regState (regSv a) = 2 then 3 else 2)

theorem execSupervisorSwitchover_of_active (h : svPair s s.sv.active = 0) :
    execSupervisorSwitchover cause s =
      if svPair s (1 - s.sv.active) = 1 then .next (settleAll s (switchTo (failActive s cause) (1 - s.sv.active)))
      else .next (restartNow (failActive s cause) 7) := by
  simp only [execSupervisorSwitchover, h, ne_eq, not_true_eq_false, if_false, done, decide_eq_true_eq, failActive]

theorem execSupervisorPairRetested_passed (h : svIn s 2 = some n) :
    execSupervisorPairRetested true s = .next (settleAll s (copyToStandby (setSv s n 1))) := by
  rw [execSupervisorPairRetested, h]
  rfl

theorem execSupervisorPairRetested_failed (h : svIn s 2 = some n) (hr : s.regState (regSv n) ≠ 2) :
    execSupervisorPairRetested false s = .next (settleAll s (retireRegion (setSv s n 3) (regSv n))) := by
  have hkept : (setSv s n 3).regState (regSv n) ≠ 2 := hr
  simp only [execSupervisorPairRetested, h, Bool.false_eq_true, if_false, if_neg hkept, done]

theorem execStandbyCopy_of_due (h : s.sv.pair0 = 1 ∨ s.sv.pair1 = 1) (hd : s.sv.lastCopy + 1000000 ≤ s.time.now) :
    execStandbyCopy s = .next (copyToStandby s) :=
  whenSt_of_true _ (by simp [isSome_svIn_iff.2 h, hd])

theorem execSwitchOverComplete_of_switching (h : s.sv.switching = some t) :
    execSwitchOverComplete s = .next (reOvercast (evalMigration { s with sv := { s.sv with switching := none } })) :=
  whenSt_of_true _ (by simp [h])

/-! ## Firmware update (R174) -/

theorem execFwStandbyLoaded_of_loading (h : svIn s 4 = some n) (hu : s.sv.updState = 2) (hs : s.sv.updStep = 0) :
    execFwStandbyLoaded s = .next (settleAll s
      (let t := switchTo (copyToStandby (setSv s s.sv.active 4)) n
       { t with sv := { t.sv with updStep := 1 } })) := by
  rw [execFwStandbyLoaded, h]
  exact if_neg (by simp [hu, hs])

theorem execFwUpdateDone_of_loaded (h : svIn s 4 = some n) (hi : authenticFw s = some i) (hu : s.sv.updState = 2)
    (hs : s.sv.updStep = 1) (hw : s.sv.switching = none) :
    execFwUpdateDone s = .next (settleAll s
      (let t := setSv s n 1
       let i := i.withGeneration (s.supply.bootGeneration + 1)
       { t with
         sv := { t.sv with updState := 3, fwRunning := i.release }
         keys := { t.keys with bootPending := false }
         graphs := joinGraphs t i
         flash := if s.supply.bootSlot = 0 then { t.flash with slotB := some i } else { t.flash with slotA := some i } })) := by
  rw [execFwUpdateDone, h, hi]
  exact if_neg (by simp [hu, hs, hw])

/-! ## The obligation -/

/-- Settles O25: each clause is the lemma of its command above. -/
theorem supervisorsFollowTheRules : Obligations.SupervisorsFollowTheRules := by
  unfold Obligations.SupervisorsFollowTheRules
  intro s pair put a
  refine ⟨fun cause h => ⟨fun hs => ?standby, fun hs => ?alone⟩, fun n hn h hne => ?retested, execStandbyCopy_of_due,
    fun t => execSwitchOverComplete_of_switching, fun hu hs ha h0 h1 => ?loaded,
    fun i n hi hu hs hw hn h hne => ?updated⟩
  case standby => exact (execSupervisorSwitchover_of_active h).trans (if_pos hs)
  case alone => exact (execSupervisorSwitchover_of_active h).trans (if_neg hs)
  case retested =>
    have hin : svIn s 2 = some n := svIn_of_svPair hn h hne
    exact ⟨execSupervisorPairRetested_passed hin, execSupervisorPairRetested_failed hin⟩
  case loaded =>
    have hin : svIn s 4 = some 1 := svIn_of_svPair (n := 1) (by decide) h1 (by simp [svPair, h0])
    have hput : setSv s s.sv.active 4 = { s with sv := { s.sv with pair0 := 4 } } := by rw [ha]; rfl
    rw [exec_fwStandbyLoaded, execFwStandbyLoaded_of_loading hin hu hs, hput]
    rfl
  case updated => exact execFwUpdateDone_of_loaded (svIn_of_svPair hn h hne) hi hu hs hw

end Sys2Proof.Machine

/-!
# Writes of firmware, regions and the Overcast mask (O50)

Each object has its rule, its conditions put as the spec puts them. A write of FW_UPDATE_CMD that passes the cipher engine
and the check of the stored image comes to `startUpdate`.
-/

namespace Sys2Proof.Machine

variable {s t : State} {r : CleipReq} {k n op : Nat} {w : WReq} {answer : Option (Nat × Nat)} {i : Image}

/-! ## The rules by their objects -/

theorem applyOne_fwUpdateCmd (h : w.key = keyFwUpdateCmd) : applyOne answer t w = applyFwUpdateCmd t w :=
  applyOne_of_fault (by simp [writeTransport, h, keyFwUpdateCmd]) (by simp [writeFault, h, keyFwUpdateCmd])

theorem applyOne_fwImage (h : w.key = keyFwImage) : applyOne answer t w = applyFwImage t w :=
  applyOne_of_fault (by simp [writeTransport, h, keyFwImage]) (by simp [writeFault, h, keyFwImage])

theorem applyOne_regionRestore (h : w.key = keyRegionRestore) : applyOne answer t w = applyRegionRestore t w :=
  applyOne_of_fault (by simp [writeTransport, h, keyRegionRestore]) (by simp [writeFault, h, keyRegionRestore])

theorem applyOne_regionRetire (h : w.key = keyRegionRetire) : applyOne answer t w = applyRegionRetire t w :=
  applyOne_of_fault (by simp [writeTransport, h, keyRegionRetire]) (by simp [writeFault, h, keyRegionRetire])

theorem applyOne_overcastMask (h : w.key = keyOvercastMask) : applyOne answer t w = applyOvercastMask t w :=
  applyOne_of_fault (by simp [writeTransport, h, keyOvercastMask]) (by simp [writeFault, h, keyOvercastMask])

/-! ## The cipher engine (R499) -/

@[simp] theorem cipherFault_zero : cipherFault t 0 = (t, false) := rfl

/-- An engine that finds its comparisons to disagree changes the objects and its own state, and nothing else. -/
theorem cipherFault_keeps {α : Type} (p : State → α) (hp : ∀ o x, p { t with obj := o, keys := x } = p t) :
    p (cipherFault t n).1 = p t := by
  unfold cipherFault
  split
  · rfl
  · dsimp only
    split
    · exact hp _ t.keys
    · exact hp _ _

/-- Work of the engine that does not fail leaves its state. -/
theorem keys_cipherFault (h : (cipherFault t n).2 = false) : (cipherFault t n).1.keys = t.keys := by
  obtain rfl | rfl | hn : n = 0 ∨ n = 1 ∨ 2 ≤ n := by omega
  · rfl
  · rfl
  · have h0 : n ≠ 0 := by omega
    have h1 : n ≠ 1 := by omega
    simp [cipherFault, h0, h1] at h

theorem part_cipherFault : (cipherFault t n).1.part = t.part := cipherFault_keeps State.part fun _ _ => rfl

theorem sv_cipherFault : (cipherFault t n).1.sv = t.sv := cipherFault_keeps State.sv fun _ _ => rfl

theorem overcast_cipherFault : (cipherFault t n).1.overcast = t.overcast := cipherFault_keeps State.overcast fun _ _ => rfl

theorem time_cipherFault : (cipherFault t n).1.time = t.time := cipherFault_keeps State.time fun _ _ => rfl

theorem runningFormat_cipherFault : runningFormat (cipherFault t n).1 = runningFormat t :=
  cipherFault_keeps runningFormat fun _ _ => rfl

theorem cipherMissing_iff : cipherMissing t = true ↔ (keyOf t 1).isSome = true ∧ cipherUp t = false := by
  simp [cipherMissing]

theorem cipherMissing_cipherFault (h : (cipherFault t n).2 = false) :
    cipherMissing (cipherFault t n).1 = cipherMissing t := by
  simp only [cipherMissing, keyOf, cipherUp, keys_cipherFault h, part_cipherFault]

/-! ## FW_UPDATE_CMD (R174) -/

/-- A write of FW_UPDATE_CMD once the stored image i is found authentic. -/
def startUpdate (s : State) (w : WReq) (i : Image) : Applied :=
  if w.val ≠ 1 then (csRange, s)
  else if (s.sv.pair0 ≠ 1 ∧ s.sv.pair1 ≠ 1) ∨ s.overcast.on = true ∨ runningFormat s + 1 < i.stateFormat
      ∨ i.stateFormat + 1 < runningFormat s then (csConflict, s)
  else
    let u := storeVal (setSv s (if s.sv.pair0 = 1 then 0 else 1) 4) w
    (csOk, { u with sv := { u.sv with updState := 2, updStep := 0, updStart := s.time.now } })

/-- The pair that loads the new release is the standby. -/
theorem startUpdate_eq : startUpdate t w i =
    if w.val ≠ 1 then (csRange, t)
    else match svIn t 1 with
    | none => (csConflict, t)
    | some n =>
      if t.overcast.on = true ∨ runningFormat t + 1 < i.stateFormat ∨ i.stateFormat + 1 < runningFormat t then
        (csConflict, t)
      else
        let u := setSv t n 4
        (csOk, { storeVal u w with sv := { u.sv with updState := 2, updStep := 0, updStart := t.time.now } }) := by
  unfold startUpdate
  refine if_congr Iff.rfl rfl ?_
  cases h : svIn t 1 with
  | none => exact if_pos (.inl (svIn_eq_none_iff.1 h))
  | some n =>
    obtain ⟨hany, rfl⟩ := svIn_of_some h
    exact if_congr (by tauto) rfl rfl

/-- How often the engine's comparisons disagree in a write of FW_UPDATE_CMD: only an engine that is used and in service
works. -/
def updateFaults (t : State) (w : WReq) : Nat :=
  if (keyOf t 1).isSome = true ∧ cipherUp t = true then w.cipherFaults else 0

theorem updateFaults_eq : (if (keyOf t 1).isSome && !cipherMissing t then w.cipherFaults else 0) = updateFaults t w := by
  unfold updateFaults cipherMissing
  cases (keyOf t 1).isSome <;> simp

theorem updateFaults_of_missing (h : cipherMissing t = true) : updateFaults t w = 0 := by
  simp [updateFaults, cipherMissing_iff.1 h]

theorem applyFwUpdateCmd_eq : applyFwUpdateCmd t w =
    if cipherMissing t = true then (csTimeout, t)
    else
      let tried := cipherFault t (updateFaults t w)
      if tried.2 = true then (csTimeout, tried.1)
      else (authenticFw tried.1).elim (csIntegrity, tried.1) (startUpdate tried.1 w) := by
  rw [applyFwUpdateCmd, updateFaults_eq]
  dsimp only
  by_cases hm : cipherMissing t = true
  · simp [hm, updateFaults_of_missing, fails]
  · rw [if_neg hm]
    cases hf : (cipherFault t (updateFaults t w)).2 with
    | true => simp [fails]
    | false =>
      rw [cipherMissing_cipherFault hf, if_neg (by simpa using hm), if_neg Bool.false_ne_true]
      cases authenticFw (cipherFault t (updateFaults t w)).1 with
      | none => rfl
      | some i => exact startUpdate_eq.symm

/-! ## FW_IMAGE (R501, R551) -/

/-- An object of variable size is written from its first byte. -/
theorem Proposes.off_eq_zero (h : Proposes s r k op t w) (hk : isVariable k = true) : w.off = 0 := by
  cases h with
  | whole h => rfl
  | segment h few free start => exact start hk
  | staged b h mine next start => exact start hk

/-! ## REGION_RESTORE and REGION_RETIRE (R162, R171) -/

theorem isMemRegion_iff : isMemRegion n = true ↔ n ∈ memRegions := by simp [isMemRegion]

theorem memRegions_lt : ∀ n ∈ memRegions, n < regLane 0 := by decide

/-- No memory region is a lane, whose retirement touches its group. -/
theorem retireRegion_of_memRegion (h : n ∈ memRegions) :
    retireRegion t n = (t.setRegion n { t.region n with state := 2, retiredAt := t.time.now }).bump keyRetirements 1 := by
  have hlane : ¬ (regLane 0 ≤ n ∧ n < regLane 68) := fun hl => (memRegions_lt n h).not_ge hl.1
  simp only [retireRegion, if_neg hlane]

/-- To zero a memory region changes memory alone. -/
theorem zeroRegion_keeps {α : Type} (p : State → α) (hp : ∀ m, p { t with mem := m } = p t) :
    p (zeroRegion t n) = p t := by
  unfold zeroRegion
  split
  · rfl
  · split
    · unfold zeroRange
      dsimp only
      split <;> exact hp _
    · exact hp _

theorem zeroRegion_sv : (zeroRegion t n).sv = t.sv := zeroRegion_keeps State.sv fun _ => rfl

/-- A supervisor pair that was retired returns as the standby (R162). -/
theorem restorePair_eq :
    (if n = 0x5CE ∨ n = 0x5CF then (if svPair t (n - 0x5CE) = 3 then setSv t (n - 0x5CE) 1 else t) else t)
      = if (n = 0x5CE ∧ t.sv.pair0 = 3) ∨ (n = 0x5CF ∧ t.sv.pair1 = 3) then setSv t (n - 0x5CE) 1 else t := by
  by_cases h0 : n = 0x5CE
  · simp [h0, svPair]
  · by_cases h1 : n = 0x5CF
    · simp [h1, svPair]
    · simp [h0, h1]

/-! ## The obligation -/

/-- Settles O50: the rule that the tables give each object, its tests read as the conditions of the spec. -/
theorem faultAndFirmwareWritesFollowTheRules : Obligations.FaultAndFirmwareWritesFollowTheRules := by
  unfold Obligations.FaultAndFirmwareWritesFollowTheRules
  intro s r
  refine ⟨written_of_applyOne .fwUpdateCmd (by decide) (by simp) (by decide) fun op t w h => ?update,
    written_of_applyOne .fwImage (by decide) (by simp) (by decide) fun op t w h => ?image,
    written_of_applyOne .regionRestore (by decide) (by simp) (by decide) fun op t w h => ?restore,
    written_of_applyOne .regionRetire (by decide) (by simp) (by decide) fun op t w h => ?retire,
    written_of_applyOne .overcastMask (by decide) (by simp) (by decide) fun op t w h => ?mask⟩
  case update =>
    rw [applyOne_fwUpdateCmd h.key, applyFwUpdateCmd_eq]
    dsimp only
    rw [← updateFaults]
    refine if_congr cipherMissing_iff rfl (if_congr Iff.rfl rfl ?_)
    cases authenticFw (cipherFault t (updateFaults t w)).1 with
    | none => rfl
    | some i =>
      simp only [Option.elim_some, startUpdate, sv_cipherFault, overcast_cipherFault, runningFormat_cipherFault,
        time_cipherFault]
  case image =>
    rw [applyOne_fwImage h.key, applyFwImage, if_pos (h.off_eq_zero (by simp [isVariable]))]
    exact if_congr cipherMissing_iff rfl rfl
  case restore =>
    rw [applyOne_regionRestore h.key, applyRegionRestore]
    refine if_congr Iff.rfl rfl (if_congr (by simp [isMemRegion_iff]) rfl (if_congr Iff.rfl rfl ?_))
    dsimp only
    by_cases hisland : 0x2D0 ≤ w.val ∧ w.val < 0x2E0
    · rw [if_pos hisland, if_pos hisland]
    · rw [if_neg hisland, if_neg hisland, restorePair_eq]
      simp only [State.setRegion_sv, zeroRegion_sv, storeVal, State.setOval_sv]
      exact apply_ite (Prod.mk csOk) _ _ _
  case retire =>
    rw [applyOne_regionRetire h.key, applyRegionRetire]
    refine if_ctx_congr (by simp [isMemRegion_iff]) (fun hmem => ?_) fun _ => rfl
    rw [retireRegion_of_memRegion hmem.1]
    rfl
  case mask =>
    rw [applyOne_overcastMask h.key, applyOvercastMask, h.key]

end Sys2Proof.Machine

/-!
# Islands, regions and the end of Overcast (O24)

ISLAND_LOSS takes a cluster, an Anvil quarter or an island of engines by its number. Each command acts where its condition
stands: one lemma for each says what it then does.
-/

namespace Sys2Proof.Machine

variable {s : State} {i k r : Nat} {passed : Bool}

/-! ## Loss of an island (R167 to R169, R297, R432) -/

theorem execIslandLoss_of_lt (h : i < 48) : execIslandLoss i s = .next (settleAll s (loseAnyIsland s i)) := onUnit_lt _ h

theorem loseAnyIsland_cluster (h : i < 16) : loseAnyIsland s i = loseIsland s i := if_pos h

theorem loseAnyIsland_quarter (hlo : 21 ≤ i) (hhi : i ≤ 24) :
    loseAnyIsland s i = loseMemRegion s (regQuarter (i - 21)) := by
  rw [loseAnyIsland, if_neg (by omega), if_pos ⟨hlo, hhi⟩]

theorem loseAnyIsland_engines (h : 25 ≤ i) : loseAnyIsland s i = loseEngines s i := by
  rw [loseAnyIsland, if_neg (by omega), if_neg (by omega)]

theorem loseEngines_of_runs (h : runsOnEngines s i ≠ []) : loseEngines s i =
    (runsOnEngines s i).foldl (fun (t : State) x => freeEngine (runFault t x.1 lossFault) x.2.1 x.2.2) s := by
  simp [loseEngines, h]

theorem loseEngines_of_idle (h : runsOnEngines s i = []) (he : islandEngines s i ≠ []) :
    loseEngines s i = logFault s (faultNoJob s 0xFFFF 0x09 0x0E) := by
  simp [loseEngines, h, he]

/-! ## Return of an island (R167, R169) -/

theorem execIslandRestored_of_restoring (hk : k < 16) (h : s.regState (regIsland k) = 1) :
    execIslandRestored k passed s = .next (settleAll s (
      if passed = true then
        let x := s.cluster k
        let t := ((fillIsland s k).setRegState (regIsland k) 0).setCluster k
          { Cluster.init with losses := x.losses, temp := x.temp, thermal := x.thermal }
        ((liveWords s k).foldl (fun t u => setBad t u (some .poison)) t).bump keyPoisonedWords (liveWords s k).length
      else retireIsland s k)) := by
  rw [execIslandRestored, onUnit_lt _ hk]
  exact if_neg (not_not.2 h)

/-! ## Strikes and the test of a region (R160, R171) -/

theorem restoreTested_passed : restoreTested s r true = (csOk, (zeroRegion s r).setRegion r Region.init) := if_pos rfl

theorem restoreTested_failed : restoreTested s r false = (csConflict, s.setRegState r 3) := if_neg Bool.false_ne_true

theorem restoreTested_inService : (restoreTested s r passed).2.cleip.inService = s.cleip.inService := by
  cases passed with
  | false => rw [restoreTested_failed]; rfl
  | true =>
    rw [restoreTested_passed]
    exact zeroRegion_keeps (fun t => t.cleip.inService) fun _ => rfl

/-- The test of a region whose restoring no request awaits. -/
theorem execRegionRestoreDone_of_restoring (hr : r < 0x624) (hp : s.powered = true) (hm : isMemRegion r = true)
    (h : s.regState r = 1) (hs : ∀ i ∈ s.cleip.inService, i.key ≠ keyRegionRestore) :
    execRegionRestoreDone r passed s = .next (settleAll s (restoreTested s r passed).2) := by
  have hnone : ((restoreTested s r passed).2.cleip.inService.find? fun i =>
      decide (i.key = keyRegionRestore) && decide (i.rec'.new = r)) = none := by
    rw [restoreTested_inService, List.find?_eq_none]
    intro i hi
    simp [hs i hi]
  simp only [execRegionRestoreDone, onUnit_lt _ hr, hnone]
  exact whenSt_of_true _ (by simp [hp, hm, h])

/-! ## Overcast (R188) -/

theorem mayLeaveOvercast_of_held (ho : s.overcast.on = true)
    (hc : s.overcast.cause &&& (s.oval keyOvercastMask ||| 1) = 0)
    (hh : ∀ b t, s.overcast.lastHeld[b]? = some t → tbit (s.oval keyOvercastMask ||| 1) b = true →
      t + s.oval keyOvercastExitHold * 1000000 ≤ s.time.now) : mayLeaveOvercast s = true := by
  have hcause : anyEnabled s s.overcast.cause = false := by simp [anyEnabled, enabledMask, hc]
  rw [mayLeaveOvercast, ho, hcause, Bool.not_false, Bool.and_self, Bool.true_and, List.all_eq_true]
  rintro ⟨t, b⟩ hx
  by_cases hb : tbit (s.oval keyOvercastMask ||| 1) b = true
  · simp [hh b t (List.mem_zipIdx_iff_getElem?.1 hx) hb]
  · simp [enabledMask, hb]

/-! ## The obligation -/

/-- Settles O24: an island's loss by its kind, and each other command by its lemma above. -/
theorem islandsRegionsAndOvercastFollowTheRules : Obligations.IslandsRegionsAndOvercastFollowTheRules := by
  unfold Obligations.IslandsRegionsAndOvercastFollowTheRules
  intro s
  refine ⟨fun k hk h => ?lost, fun k hk h => ?down, fun i hlo hhi => ?quarter, fun i hlo hhi h => ?runs,
    fun i hlo hhi h he => ?idle, fun k hk h => ?restored, fun r hr => onUnit_lt _ hr, fun r hr hp hm h hs => ?tested,
    fun ho hc hh => whenSt_of_true _ (mayLeaveOvercast_of_held ho hc hh)⟩
  case lost =>
    rw [exec_islandLoss, execIslandLoss_of_lt (by omega), loseAnyIsland_cluster hk, loseIsland, if_neg (not_not.2 h)]
  case down =>
    rw [exec_islandLoss, execIslandLoss_of_lt (by omega), loseAnyIsland_cluster hk, loseIsland, if_pos h]
  case quarter => rw [exec_islandLoss, execIslandLoss_of_lt (by omega), loseAnyIsland_quarter hlo hhi]
  case runs => rw [exec_islandLoss, execIslandLoss_of_lt (by omega), loseAnyIsland_engines hlo, loseEngines_of_runs h]
  case idle => rw [exec_islandLoss, execIslandLoss_of_lt (by omega), loseAnyIsland_engines hlo, loseEngines_of_idle h he]
  case restored => exact ⟨execIslandRestored_of_restoring hk h, execIslandRestored_of_restoring hk h⟩
  case tested =>
    constructor
    · rw [exec_regionRestoreDone, execRegionRestoreDone_of_restoring hr hp hm h hs, restoreTested_failed]
    · rw [exec_regionRestoreDone, execRegionRestoreDone_of_restoring hr hp hm h hs, restoreTested_passed]

end Sys2Proof.Machine

/-!
# Engines take and end their entries (O37)

What a command that takes an entry does is told by the entry that its engine would take (`takes`); the commands that end
one are told by the entry that the engine holds. One lemma for each says what it then does.
-/

namespace Sys2Proof.Machine

variable {s : State} {n kind code off addr : Nat} {e : Entry} {r : EngResult} {passed : Bool}

/-! ## Taking an entry (R156, R281) -/

/-- A command that acts on the entry taken, and on none leaves the state. -/
theorem onUnit_takes {b : Nat} (h : n < b) (x : Option Entry) (f : Entry → State) :
    onUnit n b (match x with | some e => done (f e) | none => done s) = .next (x.elim s f) := by
  rw [onUnit_lt _ h]
  cases x <;> rfl

theorem next_elim_of_some {x : Option Entry} (h : x = some e) (f : Entry → State) :
    (.next (x.elim s f) : Res) = .next (f e) := by
  rw [h]
  rfl

theorem next_elim_of_none {x : Option Entry} (h : x = none) (f : Entry → State) :
    (.next (x.elim s f) : Res) = .next s := by
  rw [h]
  rfl

theorem execLdpcDecode_of_lt (h : n < 64) : execLdpcDecode n s = .next ((takes s 1 n 1).elim s fun e =>
    startEntry s 1 n e (decodeCost (ldpcPar e.block.toNat)) keyAccEntries (runDecode s e)) := onUnit_takes h _ _

theorem execLdpcEncode_of_lt (h : n < 32) : execLdpcEncode n s = .next ((takes s 2 n 2).elim s fun e =>
    startEntry s 2 n e (encodeCost (ldpcPar e.block.toNat)) keyAccEntries (runEncode s e)) := onUnit_takes h _ _

theorem execPolarDecode_of_lt (h : n < 16) : execPolarDecode n s = .next ((takes s 3 n 3).elim s fun e =>
    startEntry s 3 n e (polarCost e.block.toNat false) keyAccEntries (runPolarDecode s e)) := onUnit_takes h _ _

theorem execPolarEncode_of_lt (h : n < 16) : execPolarEncode n s = .next ((takes s 3 n 4).elim s fun e =>
    startEntry s 3 n e (polarCost e.block.toNat true) keyAccEntries (runPolarEncode s e)) := onUnit_takes h _ _

theorem execFft_of_lt (h : n < 32) : execFft n s = .next ((takes s 4 n 5).elim s fun e =>
    startEntry s 4 n e (fftCost e.block.toNat) keyAccEntries (runFft s e false)) := onUnit_takes h _ _

theorem execIfft_of_lt (h : n < 32) : execIfft n s = .next ((takes s 4 n 6).elim s fun e =>
    startEntry s 4 n e (fftCost e.block.toNat) keyAccEntries (runFft s e true)) := onUnit_takes h _ _

theorem execNbReceive_of_lt (h : n < 8) : execNbReceive n s = .next ((takes s 5 n 0).elim s fun e =>
    if nbIsTx e.block.toNat = true then s
    else startEntry s 5 n e (nbCost s e) keyNbEntries (runNbReceive s e)) := onUnit_takes h _ _

theorem execNbTransmit_of_lt (h : n < 8) : execNbTransmit n s = .next ((takes s 5 n 0).elim s fun e =>
    if nbIsTx e.block.toNat = true then startEntry s 5 n e (nbCost s e) keyNbEntries (runNbTransmit s e)
    else s) := onUnit_takes h _ _

/-! ## What an engine holds that has taken an entry (R294) -/

@[simp] theorem State.engine_setEngine (s : State) (kind n : Nat) (x : Engine) :
    (s.setEngine kind n x).engine kind n = x := by
  simp [State.engine, State.setEngine]

@[simp] theorem engine_bump (s : State) (k m kind n : Nat) : (s.bump k m).engine kind n = s.engine kind n := rfl

@[simp] theorem writeAon_entries (s : State) (o n : Nat) : (writeAon s o n).entries = s.entries := by
  unfold writeAon
  split <;> rfl

@[simp] theorem jWrite_entries (s : State) (slot : Nat) (e : JEntry) : (jWrite s slot e).entries = s.entries := by
  simp [jWrite, jPut]

@[simp] theorem setTask_entries (s : State) (j : Job) (t : Nat) (ti : TaskInst) :
    (setTask s j t ti).entries = s.entries := rfl

@[simp] theorem markStarted_entries (s : State) (j : Job) : (markStarted s j).entries = s.entries := by
  unfold markStarted
  split
  · rfl
  · dsimp only
    split
    · exact jWrite_entries ..
    · rfl

@[simp] theorem startedRun_entries (s : State) (ref : TaskRef) (p : Option Place) (phase : Nat)
    (staging : List (Nat × Nat × Nat)) : (startedRun s ref p phase staging).entries = s.entries := by
  unfold startedRun
  split
  · rfl
  · exact (setTask_entries ..).trans (markStarted_entries ..)

section
variable {cost counter : Nat} {out : EngOut}

theorem startEntry_entry : ((startEntry s kind n e cost counter out).engine kind n).entry = some e := by
  unfold startEntry
  split_ifs <;> simp

theorem startEntry_result : ((startEntry s kind n e cost counter out).engine kind n).result = some out.2 := by
  unfold startEntry
  split_ifs <;> simp

theorem startEntry_entries : (startEntry s kind n e cost counter out).entries = s.entries.erase e := by
  unfold startEntry
  split_ifs <;> simp

end

/-! ## The end of an entry (R297, R298) -/

theorem execEngineEntryEnd_error (hn : n < nEngines .m5f kind) (he : (s.engine kind n).entry = some e)
    (hr : (s.engine kind n).result = some r) (hc : code = 0x20 ∨ code = 0x21) :
    execEngineEntryEnd kind n (some code) s = .next (settleAll s (engineFault s kind n e code 0 0)) := by
  rw [execEngineEntryEnd, onUnit_lt _ hn, he, hr]
  exact whenSt_of_true _ (by simpa using hc)

/-- What a finished entry counts besides the counters of its kind: a modem's run by its receptions (R323). -/
def countRun (s : State) (kind : Nat) (e : Entry) (r : EngResult) (t : State) : State :=
  match r with
  | .done out _ _ => if kind = 5 then countNb t e (inputBytes s e) out else t
  | .error _ _ _ => t

theorem countRun_of_ne (h : kind ≠ 5) : countRun s kind e r = id := by
  funext t
  cases r with
  | done out harq words => exact if_neg h
  | error code off addr => rfl

theorem execEngineEntryEnd_done (hn : n < nEngines .m5f kind) (he : (s.engine kind n).entry = some e)
    (hr : (s.engine kind n).result = some r) :
    execEngineEntryEnd kind n none s = .next (settleAll s (endEntry s kind n e r (countRun s kind e r))) := by
  unfold execEngineEntryEnd
  rw [onUnit_lt _ hn, he, hr]
  rfl

theorem execEngineWatchdog_of_entry (hn : n < nEngines .m5f kind) (he : (s.engine kind n).entry = some e) :
    execEngineWatchdog kind n s =
      if watchdogDue s (s.engine kind n) (entryCost s e) = true then .next (settleAll s (engineFault s kind n e 0x22 0 0))
      else .next s := by
  rw [execEngineWatchdog, onUnit_lt _ hn, he]
  rfl

/-! ## Errors that come late (R298) -/

theorem execEngineEntryEnd_late_code (hn : n < nEngines .m5f kind) (he : (s.engine kind n).entry = none)
    (hc : code = 0x20 ∨ code = 0x21) :
    execEngineEntryEnd kind n (some code) s = .next (lateError s kind n code (code * 2 ^ 16) 0 true) := by
  rw [execEngineEntryEnd, onUnit_lt _ hn, he]
  exact congrArg Host.Outcome.next (if_pos hc)

theorem execEngineEntryEnd_late_none (hn : n < nEngines .m5f kind) (he : (s.engine kind n).entry = none)
    (hl : s.late.find? (fun x => decide (x.place = .engine kind n)) = none) :
    execEngineEntryEnd kind n none s = .next s := by
  unfold execEngineEntryEnd
  rw [onUnit_lt _ hn, he, hl]
  rfl

theorem execEngineEntryEnd_late_error {x : LateRun} (hn : n < nEngines .m5f kind) (he : (s.engine kind n).entry = none)
    (hl : s.late.find? (fun x => decide (x.place = .engine kind n)) = some x) (hx : x.err = some (code, off, addr)) :
    execEngineEntryEnd kind n none s
      = .next (lateError s kind n code (code * 2 ^ 16 + off) addr (!unsigned code)) := by
  unfold execEngineEntryEnd
  rw [onUnit_lt _ hn, he, hl]
  dsimp only
  rw [hx]
  rfl

theorem execEngineWatchdog_late (hn : n < nEngines .m5f kind) (he : (s.engine kind n).entry = none) :
    execEngineWatchdog kind n s = .next (lateError s kind n 0x22 (0x22 * 2 ^ 16) 0 true) := by
  rw [execEngineWatchdog, onUnit_lt _ hn, he]
  rfl

/-! ## The test of a modem slice (R322) -/

theorem execNbSliceBistDone_of_none (hn : n < 8) (h : (s.engine 5 n).testing = none) :
    execNbSliceBistDone n passed s = .next s := by
  rw [execNbSliceBistDone, onUnit_lt _ hn]
  dsimp only
  rw [h]
  rfl

theorem execNbSliceBistDone_of_due {t : Nat} (hn : n < 8) (h : (s.engine 5 n).testing = some t)
    (hf : (s.engine 5 n).failed = false) (hd : t + 1000000 ≤ s.time.now) :
    execNbSliceBistDone n passed s = .next (settleAll s
      (let x := s.engine 5 n
       if passed = true then s.setEngine 5 n { x with testing := none }
       else strike (s.setEngine 5 n { x with testing := none, failed := true }) (regEngine 5 n))) := by
  rw [execNbSliceBistDone, onUnit_lt _ hn]
  dsimp only
  rw [h]
  exact whenSt_of_true _ (by simp [hf, hd])

/-! ## The obligation -/

/-- Settles O37: each clause is the lemma of its command above, for the entry taken or held. -/
theorem enginesTakeAndEndTheirEntries : Obligations.EnginesTakeAndEndTheirEntries := by
  unfold Obligations.EnginesTakeAndEndTheirEntries
  intro s n e b
  refine ⟨fun hn h => (execLdpcDecode_of_lt hn).trans (next_elim_of_some h _),
    fun hn h => (execLdpcEncode_of_lt hn).trans (next_elim_of_some h _),
    fun hn h => (execPolarDecode_of_lt hn).trans (next_elim_of_some h _),
    fun hn h => (execPolarEncode_of_lt hn).trans (next_elim_of_some h _),
    fun hn h => (execFft_of_lt hn).trans (next_elim_of_some h _),
    fun hn h => (execIfft_of_lt hn).trans (next_elim_of_some h _),
    fun hn h => ?modem,
    ⟨fun hn h => (execLdpcDecode_of_lt hn).trans (next_elim_of_none h _),
      fun hn h => (execLdpcEncode_of_lt hn).trans (next_elim_of_none h _),
      fun hn h => (execPolarDecode_of_lt hn).trans (next_elim_of_none h _),
      fun hn h => (execPolarEncode_of_lt hn).trans (next_elim_of_none h _),
      fun hn h => (execFft_of_lt hn).trans (next_elim_of_none h _),
      fun hn h => (execIfft_of_lt hn).trans (next_elim_of_none h _),
      fun hn h => ⟨(execNbReceive_of_lt hn).trans (next_elim_of_none h _),
        (execNbTransmit_of_lt hn).trans (next_elim_of_none h _)⟩⟩,
    fun kind cost counter out => ⟨startEntry_entry, startEntry_result, startEntry_entries⟩,
    fun kind r hn he hr => ⟨fun code => execEngineEntryEnd_error hn he hr, fun hk => ?ended, fun hk => ?modemEnded,
      fun hw => (execEngineWatchdog_of_entry hn he).trans (if_pos hw),
      fun hw => (execEngineWatchdog_of_entry hn he).trans (if_neg (by simp [hw]))⟩,
    fun kind hn he => ⟨fun code => execEngineEntryEnd_late_code hn he, execEngineWatchdog_late hn he,
      execEngineEntryEnd_late_none hn he, fun x code off addr => execEngineEntryEnd_late_error hn he⟩,
    fun hn h passed => execNbSliceBistDone_of_none hn h,
    fun t hn h hf hd => ⟨execNbSliceBistDone_of_due hn h hf hd, execNbSliceBistDone_of_due hn h hf hd⟩⟩
  case modem =>
    have hrx := (execNbReceive_of_lt hn).trans (next_elim_of_some h _)
    have htx := (execNbTransmit_of_lt hn).trans (next_elim_of_some h _)
    exact ⟨fun hb => ⟨htx.trans (congrArg _ (if_neg (by simpa [b] using hb))),
        hrx.trans (congrArg _ (if_neg (by simpa [b] using hb)))⟩,
      fun hb => ⟨hrx.trans (congrArg _ (if_pos hb)), htx.trans (congrArg _ (if_pos hb))⟩⟩
  case ended => rw [exec_engineEntryEnd, execEngineEntryEnd_done hn he hr, countRun_of_ne hk]
  case modemEnded =>
    subst hk
    exact execEngineEntryEnd_done hn he hr

end Sys2Proof.Machine

/-!
# The ALU group (O1)

An operation of the group is one of two forms (`alu`, `alu1`), whose lemmas say what it adds to its bundle; what is left is
that its value is the integer that the rule names.
-/

namespace Sys2Proof.Machine

variable {s : State} {c : Nat}

/-! ## Words as integers (R211, R212) -/

theorem ofNat_b2n_decide (p : Prop) [Decidable p] : BitVec.ofNat 32 (b2n (decide p)) = if p then 1 else 0 := by
  by_cases h : p <;> simp [b2n, h]

theorem ite_slt_eq_min (a b : BitVec 32) : (if b.slt a then b else a) = BitVec.ofInt 32 (min a.toInt b.toInt) := by
  simp only [BitVec.slt_iff_toInt_lt]
  split
  · rw [min_eq_right (by omega), BitVec.ofInt_toInt]
  · rw [min_eq_left (by omega), BitVec.ofInt_toInt]

theorem ite_slt_eq_max (a b : BitVec 32) : (if a.slt b then b else a) = BitVec.ofInt 32 (max a.toInt b.toInt) := by
  simp only [BitVec.slt_iff_toInt_lt]
  split
  · rw [max_eq_right (by omega), BitVec.ofInt_toInt]
  · rw [max_eq_left (by omega), BitVec.ofInt_toInt]

theorem ite_ult_eq_min (a b : BitVec 32) : (if b.ult a then b else a) = BitVec.ofNat 32 (min a.toNat b.toNat) := by
  simp only [BitVec.ult_iff_lt, BitVec.lt_def]
  split
  · rw [min_eq_right (by omega), BitVec.ofNat_toNat, BitVec.setWidth_eq]
  · rw [min_eq_left (by omega), BitVec.ofNat_toNat, BitVec.setWidth_eq]

theorem ite_ult_eq_max (a b : BitVec 32) : (if a.ult b then b else a) = BitVec.ofNat 32 (max a.toNat b.toNat) := by
  simp only [BitVec.ult_iff_lt, BitVec.lt_def]
  split
  · rw [max_eq_right (by omega), BitVec.ofNat_toNat, BitVec.setWidth_eq]
  · rw [max_eq_left (by omega), BitVec.ofNat_toNat, BitVec.setWidth_eq]

theorem natAbs_eq_max (v : Int) : (v.natAbs : Int) = max v (-v) := by omega

/-- The arithmetic shift right is the floor of the quotient (R211). -/
theorem sra32_eq_sshiftRight (a : BitVec 32) (n : Nat) : sra32 a n = a.sshiftRight n := by
  simp [sra32, floorShift, BitVec.sshiftRight, Int.shiftRight_eq_div_pow]

theorem slls32_eq_clamp32 (a : BitVec 32) (n : Nat) : slls32 a n = clamp32 (a.toInt * 2 ^ n) := by
  simp [slls32]

theorem mul_eq_ofInt (a b : BitVec 32) : a * b = BitVec.ofInt 32 (a.toInt * b.toInt) := by
  rw [BitVec.ofInt_mul, BitVec.ofInt_toInt, BitVec.ofInt_toInt]

/-! ## The shared forms of the ALU group (R217, R218) -/

section
variable {f : AFmt} {x : Res} {v : BitVec 32 × Bool}

theorem alu_issues {op : BitVec 32 → BitVec 32 → BitVec 32 × Bool} (hx : x = alu c f s op)
    (hv : op ((s.core c).rg f.a) ((s.core c).rg f.b) = v) : Issues s c f.stop (Iss.toG f.d v) x :=
  hx ▸ issue_toG (congrArg _ hv)

/-- A one-operand form with B zero. -/
theorem alu1_issues {op : BitVec 32 → BitVec 32 × Bool} (hx : x = alu1 c f s op) (hb : f.b = 0)
    (hv : op ((s.core c).rg f.a) = v) : Issues s c f.stop (Iss.toG f.d v) x :=
  hx ▸ issue_toG ((if_neg (not_not_intro hb)).trans (congrArg _ hv))

/-- A one-operand form whose reserved field B is not zero. -/
theorem alu1_raises {op : BitVec 32 → BitVec 32 × Bool} (hx : x = alu1 c f s op) (hb : f.b ≠ 0) :
    Raises s c f.stop .scalar 0x01 0 x :=
  hx ▸ issue_raises _ _ _ (if_pos hb)

end

/-! ## The obligation -/

/-- Settles O1: each operation is a form of the group, its value put as an integer. -/
theorem aluOperationsWriteTheirResult : Obligations.AluOperationsWriteTheirResult := by
  unfold Obligations.AluOperationsWriteTheirResult
  constructor
  · intro s c f
    exact ⟨alu_issues (exec_add ..) rfl, alu_issues (exec_sub ..) rfl, alu_issues (exec_adds ..) (fit32_true _),
      alu_issues (exec_subs ..) (fit32_true _), alu_issues (exec_and ..) rfl, alu_issues (exec_or ..) rfl,
      alu_issues (exec_xor ..) rfl, alu_issues (exec_andn ..) rfl, alu_issues (exec_sll ..) rfl,
      alu_issues (exec_srl ..) rfl, alu_issues (exec_sra ..) (congrArg plain (sra32_eq_sshiftRight _ _)),
      alu_issues (exec_slls ..) (slls32_eq_clamp32 _ _),
      alu_issues (exec_slt ..) (congrArg plain (ofNat_b2n_decide _)),
      alu_issues (exec_sltu ..) (congrArg plain (ofNat_b2n_decide _)),
      alu_issues (exec_min ..) (congrArg plain (ite_slt_eq_min _ _)),
      alu_issues (exec_max ..) (congrArg plain (ite_slt_eq_max _ _)),
      alu_issues (exec_minu ..) (congrArg plain (ite_ult_eq_min _ _)),
      alu_issues (exec_maxu ..) (congrArg plain (ite_ult_eq_max _ _)),
      alu_issues (exec_mul ..) (congrArg plain (mul_eq_ofInt _ _)), alu_issues (exec_mulh ..) rfl,
      alu_issues (exec_mulhu ..) rfl, alu_issues (exec_muls ..) (fit32_true _)⟩
  · intro s c f
    refine ⟨fun hb => ⟨alu1_issues (exec_abs ..) hb ?_, alu1_issues (exec_abss ..) hb ?_, alu1_issues (exec_neg ..) hb ?_,
        alu1_issues (exec_negs ..) hb (fit32_true _)⟩,
      fun hb => ⟨alu1_raises (exec_abs ..) hb, alu1_raises (exec_abss ..) hb, alu1_raises (exec_neg ..) hb,
        alu1_raises (exec_negs ..) hb⟩⟩
    · rw [fit32_false, natAbs_eq_max]
    · rw [fit32_true, natAbs_eq_max]
    · rw [fit32_false, BitVec.ofInt_neg, BitVec.ofInt_toInt]

end Sys2Proof.Machine

/-!
# Immediates and accumulators (O2)

The forms of the immediates and of the accumulator group, and their values as integers.
-/

namespace Sys2Proof.Machine

variable {s : State} {c : Nat} {x : Res}

/-! ## Immediates (R217) -/

theorem setWidth_shiftLeft_eq_append (i : BitVec 16) : i.setWidth 32 <<< 16 = i ++ (0 : BitVec 16) := by
  ext j hj
  rw [BitVec.getElem_shiftLeft, BitVec.getElem_append]
  split
  · simp [show ¬16 ≤ j by omega]
  · next h => simpa [h] using BitVec.getLsbD_eq_getElem (x := i) (show j - 16 < 16 by omega)

theorem aluI_issues {f : IFmt} {op : BitVec 32 → BitVec 32} {v : BitVec 32} (hx : x = aluI c f s op)
    (hv : op ((s.core c).rg f.a) = v) : Issues s c f.stop (Iss.toG f.d (v, false)) x :=
  hx ▸ issue_toG (congrArg (fun v => Iss.toG f.d (v, false)) hv)

theorem aluSh_issues {f : AFmt} {op : BitVec 32 → Nat → BitVec 32 × Bool} {v : BitVec 32 × Bool} (hx : x = aluSh c f s op)
    (hv : op ((s.core c).rg f.a) f.b.toNat = v) : Issues s c f.stop (Iss.toG f.d v) x :=
  hx ▸ issue_toG (congrArg _ hv)

/-! ## Accumulators (R219) -/

theorem accResult_ok (n : BitVec 2) (sat : Bool) (v : Int) : (accResult n sat v).effs.all Eff.ofCore = true := by
  unfold accResult
  dsimp only
  split_ifs <;> rfl

/-- An instruction that writes an accumulator. -/
theorem issue_accResult {stop : Bool} {mk : Core → Nat → Iss} {n : BitVec 2} {sat : Bool} {v : Int} (hx : x = issue c stop s mk)
    (hv : mk (s.core c) ((s.core c).pc + 4 * (s.core c).bundle.count) = Iss.toAcc n sat v) :
    Issues s c stop (accResult n sat v) x :=
  hx ▸ issue_issues _ _ (hv.trans (toAcc_eq n sat v)) rfl rfl rfl (accResult_ok n sat v)

theorem clampTo_bounds (w : Nat) (v : Int) : -(2 ^ (w - 1)) ≤ clampTo w v ∧ clampTo w v < 2 ^ (w - 1) := by
  have : (0 : Int) < 2 ^ (w - 1) := by positivity
  unfold clampTo
  omega

/-- Sixteen bits that hold an integer hold it in 32 after sign extension. -/
theorem signExtend_ofInt_clampTo (v : Int) :
    (BitVec.ofInt 16 (clampTo 16 v)).signExtend 32 = BitVec.ofInt 32 (clampTo 16 v) := by
  obtain ⟨hlo, hhi⟩ := clampTo_bounds 16 v
  rw [BitVec.signExtend, BitVec.toInt_ofInt_eq_self (by decide) hlo hhi]

theorem floorShift_eq_div (v : Int) (k : Nat) : floorShift v k = v / 2 ^ k := by simp [floorShift]

theorem fit32_floorShift (sat : Bool) (v : Int) (k : Nat) : fit32 sat (floorShift v k)
    = if sat then clamp32 (v / 2 ^ k) else (BitVec.ofInt 32 (v / 2 ^ k), false) := by
  rw [floorShift_eq_div]
  cases sat
  · exact fit32_false _
  · exact fit32_true _

theorem fit16_floorShift (sat : Bool) (v : Int) (k : Nat) :
    ((BitVec.ofNat 16 (fit sat 16 (floorShift v k)).1).signExtend 32, (fit sat 16 (floorShift v k)).2)
      = if sat then (BitVec.ofInt 32 (clampTo 16 (v / 2 ^ k)), decide (clampTo 16 (v / 2 ^ k) ≠ v / 2 ^ k))
        else ((BitVec.ofInt 16 (v / 2 ^ k)).signExtend 32, false) := by
  rw [floorShift_eq_div]
  cases sat
  · rw [fit_false, ofNat_unsgn]; rfl
  · rw [fit_true, ofNat_unsgn, signExtend_ofInt_clampTo]; rfl

/-! ## The obligation -/

/-- Settles O2: each operation is a form of its group, its value put as an integer. -/
theorem immediateAndAccumulatorFormsFollowTheRules : Obligations.ImmediateAndAccumulatorFormsFollowTheRules := by
  unfold Obligations.ImmediateAndAccumulatorFormsFollowTheRules
  constructor
  · intro s c i f
    exact ⟨aluI_issues (exec_addi ..) rfl, aluI_issues (exec_andi ..) rfl, aluI_issues (exec_ori ..) rfl,
      aluI_issues (exec_xori ..) rfl, aluI_issues (exec_lui ..) (setWidth_shiftLeft_eq_append _),
      aluSh_issues (exec_sllImmediate ..) rfl, aluSh_issues (exec_srlImmediate ..) rfl,
      aluSh_issues (exec_sraImmediate ..) (congrArg plain (sra32_eq_sshiftRight _ _)),
      aluSh_issues (exec_sllsImmediate ..) (slls32_eq_clamp32 _ _)⟩
  · intro s c f
    refine ⟨issue_accResult (exec_mac ..) rfl, issue_accResult (exec_msu ..) rfl, issue_accResult (exec_machh ..) rfl,
      issue_accResult (exec_accld ..) ?_, exec_accx s c f ▸ issue_toG (congrArg _ (fit32_floorShift ..)),
      exec_accx16 s c f ▸ issue_toG (congrArg (Iss.toG f.d) (fit16_floorShift ..)), issue_accResult (exec_accclr ..) rfl⟩
    push_cast
    rfl

end Sys2Proof.Machine

/-!
# Indices and block exponents (O3)

The forms of the group of major 0x09; `rsb_signBits` says what the redundant sign bits of a pattern are.
-/

namespace Sys2Proof.Machine

variable {s : State} {c : Nat} {x : Res}

/-! ## Min/max with index (R213) -/

/-- What a min/max with index does, by whether gA is strictly beyond gD. -/
theorem keepIx_keeps {f : IxFmt} {beyond : BitVec 32 → BitVec 32 → Bool} {p : Prop} (hx : x = keepIx c f s beyond)
    (hp : beyond ((s.core c).rg f.a) ((s.core c).rg f.d) = true ↔ p) :
    (f.low = 0 → f.d.getLsbD 0 = false →
      (p → Issues s c f.stop { writes := [.g f.d.toNat, .g (f.d + 1).toNat]
                               effs := [.wg f.d ((s.core c).rg f.a), .wg (f.d + 1) ((s.core c).rg f.b)] } x)
      ∧ (¬p → Issues s c f.stop { writes := [.g f.d.toNat, .g (f.d + 1).toNat] } x))
    ∧ (f.low ≠ 0 → Raises s c f.stop .scalar 0x01 0 x)
    ∧ (f.low = 0 → f.d.getLsbD 0 = true → Raises s c f.stop .scalar 0x01 4 x) := by
  subst hx
  refine ⟨fun hl hd => ⟨fun h => ?_, fun h => ?_⟩, fun hl => issue_raises _ _ _ (if_pos hl),
    fun hl hd => issue_raises _ _ _ ((if_neg (not_not_intro hl)).trans (if_pos hd))⟩
  all_goals
    refine issue_issues _ _ ((if_neg (not_not_intro hl)).trans ((if_neg (Bool.eq_false_iff.mp hd)).trans ?_)) rfl rfl rfl rfl
    simp only [hp, h, if_true, if_false, pairOf]

/-! ## Block exponents (R214, R220) -/

theorem blockExp_issues {f : IxFmt} {bad : Bool} {op : Core → BitVec 32 × Bool} {v : BitVec 32 × Bool}
    (hx : x = blockExp c f s bad op) (hl : f.low = 0) (hb : bad = false) (hv : op (s.core c) = v) :
    Issues s c f.stop (Iss.toG f.d v) x :=
  hx ▸ issue_toG ((if_neg (by simp [hl, hb])).trans (congrArg _ hv))

theorem blockExp_raises {f : IxFmt} {bad : Bool} {op : Core → BitVec 32 × Bool} (hx : x = blockExp c f s bad op)
    (h : f.low ≠ 0 ∨ bad = true) : Raises s c f.stop .scalar 0x01 0 x :=
  hx ▸ issue_raises _ _ _ (if_pos h)

/-- Of a word and a small number the lower one, as signed numbers (assumption 21). -/
theorem ite_slt_ofNat_eq_min (d : BitVec 32) (n : Nat) (hn : n < 32) :
    (if d.slt (BitVec.ofNat 32 n) then d else BitVec.ofNat 32 n) = BitVec.ofInt 32 (min d.toInt n) := by
  have h : (BitVec.ofNat 32 n).toInt = n := by rw [BitVec.toInt_ofNat']; exact Int.bmod_eq_of_le (by omega) (by omega)
  rw [ite_slt_eq_min, h, min_comm]

theorem sat16_eq (v : Int) : ((BitVec.ofNat 16 (clipTo 16 v).1).signExtend 32, (clipTo 16 v).2)
    = (BitVec.ofInt 32 (clampTo 16 v), decide (clampTo 16 v ≠ v)) := by
  rw [clipTo_eq, ofNat_unsgn, signExtend_ofInt_clampTo]

/-! ## The obligation -/

/-- Settles O3: the index forms by their tests, and the block exponents by the redundant sign bits of their pattern. -/
theorem indexAndExponentOperationsFollowTheRules : Obligations.IndexAndExponentOperationsFollowTheRules := by
  unfold Obligations.IndexAndExponentOperationsFollowTheRules
  intro s c f
  have hsign := rsb_signBits 32 (by decide) ((s.core c).rg f.a)
  refine ⟨keepIx_keeps (exec_maxix ..) BitVec.slt_iff_toInt_lt, keepIx_keeps (exec_minix ..) BitVec.slt_iff_toInt_lt,
    keepIx_keeps (exec_maxux ..) BitVec.ult_iff_lt, keepIx_keeps (exec_minux ..) BitVec.ult_iff_lt,
    fun hl => ⟨_, hsign, blockExp_issues (exec_bexp ..) hl rfl rfl,
      blockExp_issues (exec_bexpm ..) hl rfl (congrArg plain (ite_slt_ofNat_eq_min _ _ hsign.1))⟩,
    fun hl hb => ⟨_, rsb_signBits 40 (by decide) _, blockExp_issues (exec_bexpa ..) hl (decide_eq_false (by omega)) rfl⟩,
    fun hl => blockExp_issues (exec_sat16 ..) hl rfl (sat16_eq _),
    fun hl => ⟨blockExp_raises (exec_bexp ..) (.inl hl), blockExp_raises (exec_bexpm ..) (.inl hl),
      blockExp_raises (exec_bexpa ..) (.inl hl), blockExp_raises (exec_sat16 ..) (.inl hl)⟩,
    fun hb => blockExp_raises (exec_bexpa ..) (.inr (decide_eq_true hb))⟩

end Sys2Proof.Machine

/-!
# Bundles of one instruction

What a core does whose bundle of one instruction is complete: it takes the exception of the instruction, or makes the
accesses and commits. The lemmas of `Laws/Issue` say so for instructions that stay in the core; these serve the others.
-/

namespace Sys2Proof.Machine

variable {s : State} {c : Nat} {i : Iss} {b : Bundle} {x : Res} {stop : Bool}

theorem adds_of_issue {mk : Core → Nat → Iss} (hx : x = issue c stop s mk)
    (hm : mk (s.core c) ((s.core c).pc + 4 * (s.core c).bundle.count) = i) : Adds s c stop i x :=
  hx ▸ issueM_adds _ i hm

theorem raises_of_issue {mk : Core → Nat → Iss} {cls : Cls} {sub : Nat} (hx : x = issue c stop s mk)
    (hm : mk (s.core c) ((s.core c).pc + 4 * (s.core c).bundle.count) = Iss.bad cls sub) :
    Raises s c stop cls 0x01 sub x :=
  hx ▸ issue_raises mk cls sub hm

/-- A bundle that waits neither for the matrix lock nor for posted stores. -/
structure Bundle.WaitsForNone (b : Bundle) : Prop where
  noLock : b.effs.contains .mxlock = false
  noFence : b.effs.contains .fence = false
  noTend : b.effs.contains .tend = false
  noPost : b.posts = false

/-- An instruction that waits for none goes on waiting for none beside effects of the core. -/
theorem Bundle.WaitsForNone.cons {e : Eff} {l : List Eff} (he : ({ b with effs := [e] } : Bundle).WaitsForNone)
    (hl : l.all Eff.ofCore = true) : ({ b with effs := e :: l } : Bundle).WaitsForNone := by
  have h (e' : Eff) (hn : [e].contains e' = false) (ho : e'.ofCore = false) : (e :: l).contains e' = false := by
    rw [List.contains_cons, List.contains_nil, Bool.or_false] at hn
    rw [List.contains_cons, hn, not_contains_ofCore e' hl ho, Bool.or_self]
  obtain ⟨hlock, hfence, htend, hpost⟩ := he
  refine ⟨h _ hlock rfl, h _ hfence rfl, h _ htend rfl, ?_⟩
  have hrest := posts_ofCore (b := { b with effs := l }) hl
  unfold Bundle.posts at hpost hrest ⊢
  rw [List.any_cons, List.any_nil, Bool.or_false] at hpost
  rw [List.any_cons, hpost, hrest, Bool.or_self]

/-- The exception of a bundle of one instruction is that of its execution. -/
theorem exc_add_init (hi : i.illegal = none) (ha : i.absentUnit = false) : (Bundle.init.add i).exc
    = i.exc.map fun e => { slot := slotNo Bundle.init i.cls, cause := e.1, sub := e.2.1, eaddr := e.2.2 } := by
  have hp : (Bundle.init.add i).exc = i.pend Bundle.init := rfl
  rw [hp, Iss.pend, if_pos (bundleOk_init i), hi, ha]
  exact firstExc_none _

/-- An instruction with its stop bit, alone in its bundle, closes it. -/
theorem issueM_closes_alone {mk : State → Core → Nat → Iss} (ho : Opens s c)
    (hm : mk s (s.core c) ((s.core c).pc + 4 * (s.core c).bundle.count) = i) (hi : i.illegal = none)
    (ha : i.absentUnit = false) (hx : ∀ e ∈ i.exc, 3 < e.1) (ht : i.effs.contains .tend = false) :
    issueM c true s mk
      = .next (closeBundle (s.setCore c { s.core c with bundle := Bundle.init.add i }) c) := by
  obtain ⟨hf, hb, hw, -⟩ := ho
  have hexc : (Bundle.init.add i).exc.filter PendExc.atDecode = none := by
    rw [exc_add_init hi ha, Option.filter_eq_none_iff]
    simp only [Option.map_eq_some_iff, forall_exists_index, and_imp]
    rintro p e he rfl
    have := hx e he
    simp only [PendExc.atDecode, decide_eq_true_eq]
    omega
  rw [issueM_closes mk i hf hw.2.2.2 hm (by rw [hb]; exact hexc)
    (by rw [hb, show (Bundle.init.add i).effs = i.effs from rfl, tendWaits, ht]; rfl), hb]

/-- Past RD the exception of the bundle's execution is taken (R222). -/
theorem finishBundle_takes {u t : State} {e : PendExc} (ht : beginBundle (settleQueue (settleStores u c) c) c = t)
    (hw : NoneWaits (t.core c)) (hx : (t.core c).bundle.exc = some e) : finishBundle u c = takeExc t c
      { cause := e.cause, sub := e.sub, slot := e.slot, eaddr := e.eaddr, epc := (t.core c).pc, imprecise := false } := by
  unfold finishBundle
  simp only [ht, mustDeliver_none hw, hx, Bool.false_eq_true, if_false, raisePrecise_now hw]

/-- Past RD the accesses are made, and the bundle commits with what they gave (R199, R209). -/
theorem finishBundle_commits {u t : State} {l : List Eff} (ht : beginBundle (settleQueue (settleStores u c) c) c = t)
    (hw : NoneWaits (t.core c)) (hx : (t.core c).bundle.exc = none)
    (hr : runReads t c (t.core c).bundle.effs = (t, .inl l)) : finishBundle u c
      = commitBundle (t.setCore c { t.core c with bundle := { (t.core c).bundle with effs := l } }) c := by
  unfold finishBundle
  simp only [ht, mustDeliver_none hw, hx, Bool.false_eq_true, if_false, hr]

section
variable (hw : NoneWaits (s.core c)) (hb : b.WaitsForNone)
include hw hb

/-- Nothing has held up a bundle that waits for nothing. -/
theorem begin_settled : beginBundle (settleQueue (settleStores (s.setCore c { s.core c with bundle := b }) c) c) c
    = s.setCore c { s.core c with bundle := { b with begun := true } } := by
  rw [settleStores_none, settleQueue_empty, beginBundle]
  · simp only [State.core_setCore, State.setCore_setCore]
  all_goals simp only [State.core_setCore]
  exacts [hw.2.2.1, hb.noFence, hb.noTend, hb.noPost]

theorem closeBundle_takes {e : PendExc} (hx : b.exc = some e) :
    closeBundle (s.setCore c { s.core c with bundle := b }) c
      = takeExc (s.setCore c { s.core c with bundle := { b with begun := true } }) c
          { cause := e.cause, sub := e.sub, slot := e.slot, eaddr := e.eaddr, epc := (s.core c).pc, imprecise := false } := by
  rw [closeBundle, State.core_setCore, if_neg (ne_true_of_eq_false hb.noLock), finishBundle_takes (e := e) (begin_settled hw hb)]
  all_goals rw [State.core_setCore]
  · exact hw
  · exact hx

theorem closeBundle_reads {l : List Eff} (hx : b.exc = none)
    (hr : runReads (s.setCore c { s.core c with bundle := { b with begun := true } }) c b.effs
      = (s.setCore c { s.core c with bundle := { b with begun := true } }, .inl l)) :
    closeBundle (s.setCore c { s.core c with bundle := b }) c
      = commitBundle (s.setCore c { s.core c with bundle := { b with begun := true, effs := l } }) c := by
  rw [closeBundle, State.core_setCore, if_neg (ne_true_of_eq_false hb.noLock), finishBundle_commits (l := l) (begin_settled hw hb)]
  all_goals rw [State.core_setCore]
  · rw [State.setCore_setCore]
  · exact hw
  · exact hx
  · exact hr

end

/-- The commit of a bundle of one instruction, by the core that goes on from it (R197, R199). -/
theorem commitBundle_one {z : Core} (hc : b.count = 1) (hv : b.effs.findSome? vmemOf = none) (hq : (s.core c).vq = [])
    (ht : (inOrder b.effs).contains .tend = false)
    (hz : nextFetch s c (s.core c).pc ((s.core c).pc + 4)
      { (inOrder b.effs).foldl (applyEff ((s.core c).pc + 4)) (s.core c) with bundle := b } (inOrder b.effs)
        = { z with bundle := b }) :
    commitBundle (s.setCore c { s.core c with bundle := b }) c
      = (inOrder b.effs).foldl (fun t e => applyMx t c e)
          ((inOrder b.effs).foldl (applySt c ((s.core c).pc + 4 * b.memAt))
            (s.setCore c { z with bundle := Bundle.init, commits := (s.core c).commits + 1 })) := by
  have hqueue : enterQueue { (inOrder b.effs).foldl (applyEff ((s.core c).pc + 4)) (s.core c) with bundle := b } b
      = { (inOrder b.effs).foldl (applyEff ((s.core c).pc + 4)) (s.core c) with bundle := b } :=
    enterQueue_none hv (by dsimp only; rw [foldl_applyEff_vq]; exact hq)
  unfold commitBundle
  simp only [State.core_setCore]
  rw [hc, Nat.mul_one, foldl_applyEff_bundle, hqueue, ht, State.setCore_setCore]
  rw [show nextFetch (s.setCore c _) c = nextFetch s c from rfl, hz]
  rfl

/-- Without a branch or a loop, and where no loop ends, the next bundle follows (R197). -/
theorem nextFetch_next {pc next : Nat} {y : Core} {l : List Eff} (hg : l.findSome? gotoOf = none)
    (hl : l.findSome? loopOf = none) (h0 : vget y.lpcnt 0 0 = 0 ∨ (vget y.lpend 0 0).toNat ≠ pc)
    (h1 : vget y.lpcnt 1 0 = 0 ∨ (vget y.lpend 1 0).toNat ≠ pc) :
    nextFetch s c pc next y l = { y with pc := next } := by
  unfold nextFetch
  rw [hg, hl]
  exact fetchOn_next none h0 h1

/-- A bundle of one instruction whose effects, once its accesses are made, stay in the core (R197, R199). -/
theorem commitBundle_ofCore (ho : Opens s c) (hc : b.count = 1) (hb : b.effs.all Eff.ofCore = true) :
    commitBundle (s.setCore c { s.core c with bundle := b }) c = s.setCore c (committed (s.core c) b.effs) := by
  obtain ⟨-, -, hw, h0, h1⟩ := ho
  have hi := inOrder_ofCore hb
  obtain ⟨hcnt, hend, -⟩ := foldl_applyEff_flow ((s.core c).pc + 4) (s.core c) _ hi
  have hz := nextFetch_ofCore (s := s) (c := c) (pc := (s.core c).pc) (next := (s.core c).pc + 4)
    (x := { (inOrder b.effs).foldl (applyEff ((s.core c).pc + 4)) (s.core c) with bundle := b }) hi
    (by simpa only [hcnt, hend] using h0) (by simpa only [hcnt, hend] using h1)
  rw [commitBundle_one (z := { (inOrder b.effs).foldl (applyEff ((s.core c).pc + 4)) (s.core c) with
      pc := (s.core c).pc + 4 }) hc (vmemOf_ofCore hb) hw.2.2.1 (not_contains_ofCore _ hi rfl) hz,
    foldl_applySt_ofCore _ _ _ _ hi, foldl_applyMx_ofCore _ _ _ hi]
  rfl

/-- An instruction alone in its bundle that makes its accesses and then writes registers of the core. -/
theorem issueM_reads {mk : State → Core → Nat → Iss} {l : List Eff} (ho : Opens s c)
    (hm : mk s (s.core c) ((s.core c).pc + 4 * (s.core c).bundle.count) = i) (hi : i.illegal = none)
    (ha : i.absentUnit = false) (hx : i.exc = none) (hb : (Bundle.init.add i).WaitsForNone)
    (hr : runReads (s.setCore c { s.core c with bundle := { Bundle.init.add i with begun := true } }) c i.effs
      = (s.setCore c { s.core c with bundle := { Bundle.init.add i with begun := true } }, .inl l))
    (hl : l.all Eff.ofCore = true) : issueM c true s mk = .next (s.setCore c (committed (s.core c) l)) := by
  rw [issueM_closes_alone ho hm hi ha (by simp [hx]) hb.noTend,
    closeBundle_reads ho.2.2.1 hb (by rw [exc_add_init hi ha, hx]; rfl) hr, commitBundle_ofCore ho rfl hl]

/-- An instruction whose exception is found at its execution. -/
theorem issueM_raisesAtExecute {mk : State → Core → Nat → Iss} {slot cause sub ea : Nat}
    (hm : mk s (s.core c) ((s.core c).pc + 4 * (s.core c).bundle.count) = { i with exc := some (cause, sub, ea) })
    (hi : i.illegal = none) (ha : i.absentUnit = false) (he : i.effs = []) (hs : slotNo Bundle.init i.cls = slot)
    (hc : 3 < cause) : RaisesAtExecute s c stop i slot cause sub ea (issueM c stop s mk) := by
  refine ⟨issueM_adds mk _ hm, ?_⟩
  rintro rfl ho
  have hb : (Bundle.init.add { i with exc := some (cause, sub, ea) }).effs = [] := he
  have hfree : (Bundle.init.add { i with exc := some (cause, sub, ea) }).WaitsForNone := by
    constructor
    case noPost =>
      unfold Bundle.posts
      rw [hb]
      rfl
    all_goals
      rw [hb]
      rfl
  rw [issueM_closes_alone ho hm hi ha (by simpa using hc) hfree.noTend,
    closeBundle_takes ho.2.2.1 hfree (exc_add_init hi ha), ← hs]

end Sys2Proof.Machine

/-!
# Branches and loops (O4)

Branches go by `issue_goes`. LOOP commits with its loop started, which no level ends in the same bundle.
-/

namespace Sys2Proof.Machine

variable {s : State} {c : Nat} {x : Res} {stop : Bool}

/-! ## Branches (R197, R216) -/

/-- A conditional branch by its test. -/
theorem branchIf_branches {a : BitVec 5} {off : BitVec 18} {test : BitVec 32 → Bool} {p : Prop}
    (hx : x = branchIf c stop a off s test) (hp : test ((s.core c).rg a) = true ↔ p) : BranchesIf s c stop off p x := by
  subst hx
  refine ⟨fun h => issue_goes _ _ ?_ rfl rfl rfl (.inl rfl), fun h => issue_issues _ _ ?_ rfl rfl rfl rfl⟩
  · simp only [hp, h, if_true, branchTo]
  · simp only [hp, h, if_false]

/-! ## Loops (R215) -/

theorem vget_vput_same {α : Type} {n i : Nat} (v : Vector α n) (a d : α) (h : i < n) : vget (vput v i a) i d = a := by
  simp [vget, vput, h]

theorem vget_vput_ne {α : Type} {n i j : Nat} (v : Vector α n) (a d : α) (h : i ≠ j) :
    vget (vput v i a) j d = vget v j d := by
  simp [vget, vput, h]

/-- The core after the effect of LOOP. -/
def loopStarted (x : Core) (next : Nat) (lvl : Bool) (n : BitVec 32) (last : Nat) : Core :=
  { x with lpcnt := vput x.lpcnt (if lvl then 1 else 0) n
           lpstart := vput x.lpstart (if lvl then 1 else 0) (BitVec.ofNat 32 next)
           lpend := vput x.lpend (if lvl then 1 else 0) (BitVec.ofNat 32 last) }

section
variable {y : Core} {next last : Nat} {lvl : Bool} {n : BitVec 32}

/-- A level that starts in a bundle does not end in it. -/
theorem loopEnd_fresh (pc i : Nat) : loopEnd y pc i true = (y, none) := by simp [loopEnd]

/-- Where no loop ended, none ends in the bundle that starts one. -/
theorem fetchOn_loopStarted (h : NoLoopEnd y) : fetchOn y.pc next (loopStarted y next lvl n last) (some lvl)
    = { loopStarted y next lvl n last with pc := next } := by
  obtain ⟨h0, h1⟩ := h
  have other (j : Nat) (hj : (if lvl then 1 else 0) ≠ j) (hy : vget y.lpcnt j 0 = 0 ∨ (vget y.lpend j 0).toNat ≠ y.pc)
      (fresh : Bool) : loopEnd (loopStarted y next lvl n last) y.pc j fresh = (loopStarted y next lvl n last, none) := by
    apply loopEnd_none
    simpa only [loopStarted, vget_vput_ne _ _ _ hj] using hy
  unfold fetchOn
  cases lvl with
  | false =>
    rw [other 1 (by decide) h1]
    dsimp only
    rw [show (some false == some false) = true from rfl, loopEnd_fresh]
  | true =>
    rw [show (some true == some true) = true from rfl, loopEnd_fresh]
    dsimp only
    rw [other 0 (by decide) h0]

/-- LOOP leads to the body of its loop, or past it where the count is zero. -/
theorem nextFetch_loopStarted (h : NoLoopEnd y) : nextFetch s c y.pc next (loopStarted y next lvl n last) [.loop lvl n last]
    = { loopStarted y next lvl n last with pc := if n = 0 then afterBundle s c last else next } := by
  have hz : n.toNat = 0 ↔ n = 0 := by simp [← BitVec.toNat_inj]
  simp only [nextFetch, List.findSome?_cons, List.findSome?_nil, gotoOf, loopOf, hz]
  split
  · rfl
  · exact fetchOn_loopStarted h

end

/-- What LOOP adds to its bundle. -/
def loopIss (lvl : Bool) (n : BitVec 32) (last : Nat) : Iss :=
  { writes := [.ctl (0x010 + 4 * if lvl then 1 else 0), .ctl (0x011 + 4 * if lvl then 1 else 0),
      .ctl (0x012 + 4 * if lvl then 1 else 0)]
    flow := true, effs := [.loop lvl n last] }

/-- The commit of LOOP alone in its bundle. -/
theorem commitBundle_loop {b : Bundle} {lvl : Bool} {n : BitVec 32} {last : Nat} (ho : Opens s c) (hc : b.count = 1)
    (he : b.effs = [.loop lvl n last]) : commitBundle (s.setCore c { s.core c with bundle := b }) c
      = s.setCore c { loopStarted (s.core c) ((s.core c).pc + 4) lvl n last with
          pc := if n = 0 then afterBundle s c last else (s.core c).pc + 4
          bundle := Bundle.init, commits := (s.core c).commits + 1 } := by
  obtain ⟨-, -, hw, hloop⟩ := ho
  have hi : inOrder b.effs = [.loop lvl n last] := by
    rw [he]
    rfl
  have hz := nextFetch_loopStarted (s := s) (c := c) (y := { s.core c with bundle := b }) (next := (s.core c).pc + 4)
    (lvl := lvl) (n := n) (last := last) hloop
  rw [commitBundle_one (z := { loopStarted (s.core c) ((s.core c).pc + 4) lvl n last with
      pc := if n = 0 then afterBundle s c last else (s.core c).pc + 4 }) hc (by rw [he]; rfl) hw.2.2.1 (by rw [hi]; rfl)
    (by rw [hi]; exact hz), hi]
  rfl

/-- LOOP of a level that is not running, alone in its bundle (R215). -/
theorem execLoop_starts {a : BitVec 5} {lvl : Bool} {last : BitVec 20} {n : BitVec 32} {last' : Nat} (ho : Opens s c)
    (h : vget (s.core c).lpcnt (if lvl then 1 else 0) 0 = 0) (hn : (s.core c).rg a = n)
    (hl : (s.core c).pc + 4 * (s.core c).bundle.count + 4 * last.toNat = last') :
    execLoop c true a lvl last s = .next (s.setCore c { loopStarted (s.core c) ((s.core c).pc + 4) lvl n last' with
      pc := if n = 0 then afterBundle s c last' else (s.core c).pc + 4
      bundle := Bundle.init, commits := (s.core c).commits + 1 }) := by
  subst hn hl
  obtain ⟨-, -, hw, -⟩ := id ho
  have hb (n : BitVec 32) (l : Nat) : (Bundle.init.add (loopIss lvl n l)).WaitsForNone := ⟨rfl, rfl, rfl, rfl⟩
  rw [execLoop, issue, issueM_closes_alone ho (i := loopIss ..) (if_neg (not_not_intro h)) rfl rfl (by simp [loopIss]) rfl,
    closeBundle_reads hw (hb _ _) (exc_add_init rfl rfl) rfl, commitBundle_loop ho rfl rfl]

/-! ## The obligation -/

/-- Settles O4: each test by its integer, the jumps by their target, and LOOP by the core with its loop started. -/
theorem branchesAndLoopsGoWhereTheRulesSay : Obligations.BranchesAndLoopsGoWhereTheRulesSay := by
  unfold Obligations.BranchesAndLoopsGoWhereTheRulesSay
  constructor
  · intro s c stop a off far
    refine ⟨branchIf_branches (exec_beqz ..) ?_, branchIf_branches (exec_bnez ..) ?_,
      branchIf_branches (exec_bltz ..) decide_eq_true_iff, branchIf_branches (exec_bgez ..) decide_eq_true_iff,
      branchIf_branches (exec_bgtz ..) decide_eq_true_iff, branchIf_branches (exec_blez ..) decide_eq_true_iff,
      exec_br s c stop far ▸ issue_goes _ _ rfl rfl rfl rfl (.inl rfl),
      exec_bal s c stop far ▸ issue_goes _ _ rfl rfl rfl rfl (.inr rfl),
      exec_jr s c stop a ▸ issue_goes _ _ rfl rfl rfl rfl (.inl rfl)⟩
    · rw [beq_iff_eq, ← BitVec.toInt_inj]
      rfl
    · rw [bne_iff_ne, ne_eq, ← BitVec.toInt_inj]
      rfl
  · intro s c stop a lvl last
    refine ⟨fun h => ⟨adds_of_issue (exec_loop ..) (if_neg (not_not_intro h)), ?_⟩,
      fun h => raises_of_issue (exec_loop ..) (if_pos h)⟩
    rintro rfl ho
    rw [exec_loop, execLoop_starts ho h rfl rfl]
    rfl

end Sys2Proof.Machine

/-!
# Control registers and system instructions (O6)

MOVC is an instruction that reads; a write of a loop counter commits as LOOP does. FENCE issues entries of the DRAM write
queue, which leaves all of a core but the error of its posted stores.
-/

namespace Sys2Proof.Machine

variable {s : State} {c n : Nat} {x : Res} {stop : Bool}

/-! ## Bundles that the next one follows -/

/-- Effects of which none branches, starts a loop, enters the vector queue or ends the task. -/
def Eff.follows : Eff → Bool
  | .goto _ | .loop _ _ _ | .vmem _ | .tend => false
  | _ => true

theorem inOrder_all {p : Eff → Bool} {l : List Eff} (h : l.all p = true) : (inOrder l).all p = true := by
  rw [List.all_eq_true] at h ⊢
  intro e he
  simp only [inOrder, List.mem_append, List.mem_filter] at he
  exact h e (by rcases he with g | g <;> exact g.1)

theorem findSome?_follows {α : Type} {f : Eff → Option α} {l : List Eff} (h : l.all Eff.follows = true)
    (hf : ∀ e, e.follows = true → f e = none) : l.findSome? f = none :=
  List.findSome?_eq_none_iff.2 fun e he => hf e (List.all_eq_true.1 h e he)

/-- The commit of such a bundle of one instruction, by the core with its effects, where no loop ends (R197, R199). -/
theorem commitBundle_follows {b : Bundle} {y : Core} (hc : b.count = 1) (hb : b.effs.all Eff.follows = true)
    (hq : (s.core c).vq = []) (hy : (inOrder b.effs).foldl (applyEff ((s.core c).pc + 4)) (s.core c) = y)
    (h0 : vget y.lpcnt 0 0 = 0 ∨ (vget y.lpend 0 0).toNat ≠ (s.core c).pc)
    (h1 : vget y.lpcnt 1 0 = 0 ∨ (vget y.lpend 1 0).toNat ≠ (s.core c).pc) :
    commitBundle (s.setCore c { s.core c with bundle := b }) c
      = (inOrder b.effs).foldl (fun t e => applyMx t c e) ((inOrder b.effs).foldl (applySt c ((s.core c).pc + 4 * b.memAt))
          (s.setCore c { y with pc := (s.core c).pc + 4, bundle := Bundle.init, commits := (s.core c).commits + 1 })) := by
  have hi := inOrder_all hb
  have htend : (inOrder b.effs).contains .tend = false := by
    rw [← Bool.not_eq_true, List.contains_iff_mem]
    intro h
    cases List.all_eq_true.1 hi _ h
  subst hy
  exact commitBundle_one (z := { (inOrder b.effs).foldl (applyEff ((s.core c).pc + 4)) (s.core c) with pc := (s.core c).pc + 4 })
    hc (findSome?_follows hb fun e he => by cases e <;> first | rfl | cases he) hq htend
    (nextFetch_next (findSome?_follows hi fun e he => by cases e <;> first | rfl | cases he)
      (findSome?_follows hi fun e he => by cases e <;> first | rfl | cases he) h0 h1)

/-! ## Control registers (R201, R216) -/

/-- A control register does not depend on the open bundle. -/
theorem ctlRead_setBundle (b : Bundle) : ctlRead (s.setCore c { s.core c with bundle := b }) c { s.core c with bundle := b } n
    = ctlRead s c (s.core c) n := by
  have hcycles : coreCycles (s.setCore c { s.core c with bundle := b }) c = coreCycles s c := by
    simp only [coreCycles, State.core_setCore]
    rfl
  unfold ctlRead
  rw [hcycles]
  rfl

/-- The registers that exceptions, loops, buffers and vectors show (R201, R234). -/
theorem ctlRead_shown (s : State) (c : Nat) (y : Core) : ctlRead s c y 0x002 = y.epc ∧ ctlRead s c y 0x003 = y.ecause
    ∧ ctlRead s c y 0x004 = y.eaddr ∧ ctlRead s c y 0x005 = y.kbase ∧ ctlRead s c y 0x006 = y.klimit
    ∧ ctlRead s c y 0x010 = vget y.lpcnt 0 0 ∧ ctlRead s c y 0x016 = vget y.lpend 1 0
    ∧ ctlRead s c y 0x021 = vget y.cbLen 0 0 ∧ ctlRead s c y 0x080 = BitVec.ofNat 32 y.span :=
  ⟨rfl, rfl, rfl, rfl, rfl, rfl, rfl, rfl, rfl⟩

theorem ctlSync_ofCore (s : State) (n : Nat) : (ctlSync s n).all Eff.ofCore = true := by
  unfold ctlSync
  split_ifs <;> rfl

/-- What MOVC of a listed register adds to its bundle. -/
def movcIss (s : State) (d : BitVec 5) (n : Nat) : Iss := { writes := [.g d.toNat], effs := .movc d n :: ctlSync s n }

/-- MOVC waits for units, but for no lock and no posted store. -/
theorem waitsForNone_movc (d : BitVec 5) : (Bundle.init.add (movcIss s d n)).WaitsForNone :=
  .cons (b := Bundle.init.add (movcIss s d n)) ⟨rfl, rfl, rfl, rfl⟩ (ctlSync_ofCore s n)

/-- The read that MOVC makes when its bundle is complete. -/
theorem runReads_movc {t : State} {l : List Eff} (d : BitVec 5) (hl : l.all Eff.ofCore = true) :
    runReads t c (.movc d n :: l) = (t, .inl (.wg d (ctlRead t c (t.core c) n) :: l)) := by
  simp only [runReads, runReads_plain t c l (plain_ofCore hl)]
  rfl

theorem execMovc_reads {d : BitVec 5} {ctrl : BitVec 10} (ho : Opens s c) (h : ctlListed ctrl.toNat = true) :
    execMovc c true d ctrl s = .next (s.setCore c (committed (s.core c)
      (.wg d (ctlRead s c (s.core c) ctrl.toNat) :: ctlSync s ctrl.toNat))) := by
  rw [execMovc]
  refine issueM_reads (i := movcIss s d ctrl.toNat) ho (if_pos h) rfl rfl rfl (waitsForNone_movc d) ?_ ?_
  · rw [show (movcIss s d ctrl.toNat).effs = .movc d ctrl.toNat :: ctlSync s ctrl.toNat from rfl,
      runReads_movc d (ctlSync_ofCore s _), State.core_setCore, ctlRead_setBundle]
  · rw [List.all_cons, ctlSync_ofCore]
    rfl

/-- What MOVTC of a register adds to its bundle. -/
def movtcIss (s : State) (n : Nat) (v : BitVec 32) : Iss :=
  if !ctlListed n then Iss.bad .scalar 0
  else if ctlWritable n && !(decide (n = 0x100) && !hasMxc s.part.variant) then
    { writes := [.ctl n], effs := .wctl n v :: (if n = 0x100 then [.mxsync] else []) }
  else {}

theorem execMovtc_eq (a : BitVec 5) (ctrl : BitVec 10) : execMovtc c stop a ctrl s
    = issueM c stop s fun s x _ => movtcIss s ctrl.toNat (x.rg a) := rfl

/-- MOVTC of a writable register of the core. -/
theorem movtcIss_writes {v : BitVec 32} (h : n = 0x001 ∨ n = 0x010 ∨ n = 0x014 ∨ (0x020 ≤ n ∧ n < 0x030)) :
    movtcIss s n v = { writes := [.ctl n], effs := [.wctl n v] } := by
  have hl : ctlListed n = true := by
    simp only [ctlListed, Bool.or_eq_true, Bool.and_eq_true, decide_eq_true_eq]
    omega
  have hw : ctlWritable n = true := by
    simp only [ctlWritable, Bool.or_eq_true, Bool.and_eq_true, decide_eq_true_eq]
    omega
  have hm : n ≠ 0x100 := by omega
  simp [movtcIss, hl, hw, hm]

/-- The core after a write of a loop counter. -/
def counterWritten (x : Core) (n : Nat) (v : BitVec 32) : Core :=
  { x with lpcnt := vput x.lpcnt (if n = 0x010 then 0 else 1) v }

/-- The commit of a write of a loop counter alone in its bundle, where no loop ends (R201, R215). -/
theorem commitBundle_counter {b : Bundle} {v : BitVec 32} (hn : n = 0x010 ∨ n = 0x014) (hc : b.count = 1)
    (he : b.effs = [.wctl n v]) (hq : (s.core c).vq = []) (h0 : (vget (s.core c).lpend 0 0).toNat ≠ (s.core c).pc)
    (h1 : (vget (s.core c).lpend 1 0).toNat ≠ (s.core c).pc) : commitBundle (s.setCore c { s.core c with bundle := b }) c
      = s.setCore c (committed (counterWritten (s.core c) n v) []) := by
  have hmx (t : State) : applyMx t c (.wctl n v) = t := if_neg (by omega)
  have hi : inOrder b.effs = [.wctl n v] := by
    rw [he]
    rfl
  rw [commitBundle_follows (y := counterWritten (s.core c) n v) hc (by rw [he]; rfl) hq ?_ (.inr h0) (.inr h1), hi]
  · exact hmx _
  · rw [hi]
    rcases hn with rfl | rfl <;> rfl

/-- MOVTC of a loop counter, alone in its bundle. -/
theorem execMovtc_counter {a : BitVec 5} {ctrl : BitVec 10} (hn : ctrl.toNat = 0x010 ∨ ctrl.toNat = 0x014) (ho : Opens s c)
    (h0 : (vget (s.core c).lpend 0 0).toNat ≠ (s.core c).pc) (h1 : (vget (s.core c).lpend 1 0).toNat ≠ (s.core c).pc) :
    execMovtc c true a ctrl s
      = .next (s.setCore c (committed (counterWritten (s.core c) ctrl.toNat ((s.core c).rg a)) [])) := by
  have hw := ho.2.2.1
  have hm : movtcIss s ctrl.toNat ((s.core c).rg a)
      = { writes := [.ctl ctrl.toNat], effs := [.wctl ctrl.toNat ((s.core c).rg a)] } := movtcIss_writes (by omega)
  rw [execMovtc_eq, issueM_closes_alone ho hm rfl rfl (fun e he => by cases he) rfl,
    closeBundle_reads hw ⟨rfl, rfl, rfl, rfl⟩ (exc_add_init rfl rfl) rfl, commitBundle_counter hn rfl rfl hw.2.2.1 h0 h1]

/-! ## Posted stores (R221, R224, R414) -/

/-- A core without the error of its posted stores. -/
def withoutSberr (s : State) (c : Nat) : Core := { s.core c with sberr := none }

theorem withoutSberr_of_cores {t : State} (h : t.cores = s.cores) : withoutSberr t c = withoutSberr s c := by
  unfold withoutSberr State.core
  rw [h]

theorem abandonDrain_cores (s : State) (l : Nat) : (abandonDrain s l).cores = s.cores :=
  foldl_keeps State.cores _ (fun t m => by split <;> rfl) _ s

theorem retireRegion_cores (s : State) (r : Nat) : (retireRegion s r).cores = s.cores := by
  unfold retireRegion
  rw [State.bump_cores, State.setRegion_cores]
  split
  · exact abandonDrain_cores ..
  · rfl

theorem strike_cores (s : State) (r : Nat) : (strike s r).cores = s.cores := by
  unfold strike
  dsimp only
  split_ifs
  · rw [retireRegion_cores, State.setRegion_cores]
  · rw [State.setRegion_cores]
  · rfl

theorem strikeAt_cores (s : State) (a : Nat) : (strikeAt s a).cores = s.cores := by
  unfold strikeAt
  split
  · exact strike_cores ..
  · rfl

theorem loseMemRegion_cores (s : State) (r : Nat) : (loseMemRegion s r).cores = s.cores := by
  unfold loseMemRegion
  extract_lets t u _ v
  have hv : v.cores = s.cores := by
    unfold v
    split <;> rfl
  split
  · exact hv
  · rfl

theorem validLine_cores (s : State) (u : Nat) : (validLine s u).cores = s.cores := by
  unfold validLine
  split <;> rfl

theorem setBad_cores (s : State) (u : Nat) (b : Option BadWord) : (setBad s u b).cores = s.cores := rfl

/-- A record of the error log that raises no event changes no core. -/
theorem memLog_cores (s : State) (a finder outcome use : Nat) : (memLog s a finder outcome use false).cores = s.cores := by
  unfold memLog memRecord
  dsimp only
  rw [if_neg Bool.false_ne_true]

/-- A merge changes no core. -/
theorem mergeWord_cores (s : State) (u : Nat) : (mergeWord s u).1.cores = s.cores := by
  unfold mergeWord
  extract_lets bad struck blank
  have hbad (t : State) (e : MErr) (o : Nat) : (bad t e o).1.cores = t.cores := by
    unfold bad
    rw [validLine_cores, setBad_cores, memLog_cores, State.bump_cores, State.bump_cores]
  clear_value bad
  have hblank : (blank s).1.cores = s.cores := hbad ..
  have hstruck : (struck s).1.cores = s.cores := by
    unfold struck
    extract_lets t u
    rw [hbad]
    have ht : t.cores = s.cores := strikeAt_cores ..
    unfold u
    split
    · exact (loseMemRegion_cores ..).trans ht
    · exact ht
  split
  · exact hbad ..
  all_goals split
  all_goals first | exact hblank | exact hstruck | rfl

theorem reportPosted_core (cause : Nat) (s : State) (p : Nat × Posted) :
    withoutSberr (reportPosted cause s p) c = withoutSberr s c := by
  unfold reportPosted
  dsimp only
  split
  · by_cases h : c = p.1
    · subst h
      rw [withoutSberr, State.core_setCore, withoutSberr]
    · rw [withoutSberr, State.core_setCore_ne _ _ _ _ h, withoutSberr]
  · rfl

theorem issueEntry_core (s : State) (e : WEntry) : withoutSberr (issueEntry s e).1 c = withoutSberr s c := by
  unfold issueEntry
  extract_lets _ t
  have ht : withoutSberr t c = withoutSberr s c := withoutSberr_of_cores rfl
  split
  · exact ht
  · have hm := mergeWord_cores t (64 * e.line)
    split
    next u hu =>
      rw [hu] at hm
      exact (withoutSberr_of_cores ((validLine_cores ..).trans hm)).trans ht
    next u er hu =>
      rw [hu] at hm
      exact (foldl_keeps (withoutSberr · c) _ (reportPosted_core _) _ u).trans ((withoutSberr_of_cores hm).trans ht)

/-- Entries that are issued leave all of a core but the error of its posted stores. -/
theorem issueWhere_core (s : State) (p : WEntry → Bool) : withoutSberr (issueWhere s p) c = withoutSberr s c :=
  foldl_keeps (withoutSberr · c) _ issueEntry_core _ s

/-- What FENCE adds to its bundle. -/
def fenceIss : Iss := { effs := [.fence] }

/-- The state in which FENCE has had the entries of the core's posted stores issued (R221). -/
def fenced (s : State) (c : Nat) : State :=
  issueWhere (s.setCore c { s.core c with bundle := Bundle.init.add fenceIss }) fun e => e.posted.any fun p => decide (p.1 = c)

/-- Only the error of its posted stores can be new in the core of FENCE. -/
theorem fenced_core (s : State) (c : Nat) : (fenced s c).core c
    = { s.core c with bundle := Bundle.init.add fenceIss, sberr := ((fenced s c).core c).sberr } := by
  have h := issueWhere_core (c := c) (s.setCore c { s.core c with bundle := Bundle.init.add fenceIss })
    fun e => e.posted.any fun p => decide (p.1 = c)
  rw [withoutSberr, withoutSberr, State.core_setCore] at h
  exact congrArg (fun x : Core => { x with sberr := ((fenced s c).core c).sberr }) h

/-- What FENCE finds once the entries are issued. -/
theorem fence_settled (hq : (s.core c).vq = []) : beginBundle (settleQueue (settleStores
    (s.setCore c { s.core c with bundle := Bundle.init.add fenceIss }) c) c) c = beginBundle (fenced s c) c := by
  have hf : settleStores (s.setCore c { s.core c with bundle := Bundle.init.add fenceIss }) c = fenced s c := by
    unfold settleStores
    rw [State.core_setCore]
    rfl
  have hq' : ((fenced s c).core c).vq = [] := by
    rw [fenced_core]
    exact hq
  rw [hf, settleQueue_empty hq']

section
variable {f : IFmt} (hd : f.d = 0) (hs : f.stop = true) (ho : Opens s c)
include hd hs ho

theorem execFence_closes : execFence c f s
    = .next (finishBundle (s.setCore c { s.core c with bundle := Bundle.init.add fenceIss }) c) := by
  rw [execFence, system, hs, issue, issueM_closes_alone ho (i := fenceIss) (if_neg (not_not_intro hd)) rfl rfl
    (fun e he => by cases he) rfl, closeBundle, State.core_setCore]
  rfl

/-- FENCE whose stores have all been written clears them. -/
theorem execFence_commits (hb : ((fenced s c).core c).sberr = none) : execFence c f s
    = .next ((fenced s c).setCore c (committed ((fenced s c).core c) [.fence])) := by
  obtain ⟨-, -, ⟨⟨hvf, -, hmx⟩, hvs, hq, hvp⟩, h0, h1⟩ := id ho
  have hcore := fenced_core s c
  rw [hb] at hcore
  have hbundle : ((fenced s c).core c).bundle = Bundle.init.add fenceIss := by rw [hcore]
  have hw : NoneWaits ((fenced s c).core c) := by
    rw [hcore]
    exact ⟨⟨hvf, rfl, hmx⟩, hvs, hq, hvp⟩
  have hl : NoLoopEnd ((fenced s c).core c) := by
    rw [hcore]
    exact ⟨h0, h1⟩
  have hbegun : (beginBundle (fenced s c) c).core c
      = { (fenced s c).core c with bundle := { Bundle.init.add fenceIss with begun := true } } := by
    rw [beginBundle, State.core_setCore, hbundle]
  rw [execFence_closes hd hs ho, finishBundle_commits (l := [.fence]) (fence_settled hq)]
  all_goals rw [hbegun]
  · rw [beginBundle, State.setCore_setCore,
      commitBundle_follows (y := { (fenced s c).core c with sbuf := [] }) rfl rfl hw.2.2.1 rfl hl.1 hl.2]
    rfl
  · exact hw
  · rfl
  · rfl

/-- FENCE delivers the error of a posted store. -/
theorem execFence_delivers (hb : ((fenced s c).core c).sberr ≠ none) : execFence c f s
    = .next (deliverFault (beginBundle (fenced s c) c) c) := by
  have hbundle : ((fenced s c).core c).bundle = Bundle.init.add fenceIss := by rw [fenced_core]
  have hdue : mustDeliver ((beginBundle (fenced s c) c).core c) ((beginBundle (fenced s c) c).core c).bundle = true := by
    rw [beginBundle, State.core_setCore, hbundle, mustDeliver]
    simp [Bundle.add, Bundle.init, fenceIss, Option.isSome_iff_ne_none.2 hb]
  rw [execFence_closes hd hs ho, finishBundle]
  dsimp only
  rw [fence_settled ho.2.2.1.2.2.1, if_pos hdue]

end

/-! ## The forms of the group (R201, R210, R216, R217) -/

section
variable {a : BitVec 5} {ctrl : BitVec 10}

theorem execMovc_adds {d : BitVec 5} (h : ctlListed ctrl.toNat = true) :
    Adds s c stop (movcIss s d ctrl.toNat) (execMovc c stop d ctrl s) := by
  rw [execMovc]
  exact issueM_adds _ _ (if_pos h)

theorem execMovc_raises {d : BitVec 5} (h : ctlListed ctrl.toNat = false) :
    Raises s c stop .scalar 0x01 0 (execMovc c stop d ctrl s) :=
  issueM_raises _ _ _ (if_neg (ne_true_of_eq_false h))

theorem execMovtc_raises (h : ctlListed ctrl.toNat = false) : Raises s c stop .scalar 0x01 0 (execMovtc c stop a ctrl s) := by
  rw [execMovtc_eq]
  exact issueM_raises _ _ _ (by simp [movtcIss, h])

/-- MOVTC of an ordinary writable register. -/
theorem execMovtc_writes (h : ctrl.toNat = 0x001 ∨ (0x020 ≤ ctrl.toNat ∧ ctrl.toNat < 0x030)) : Issues s c stop
    { writes := [.ctl ctrl.toNat], effs := [.wctl ctrl.toNat ((s.core c).rg a)] } (execMovtc c stop a ctrl s) := by
  rw [execMovtc_eq]
  refine issueM_issues _ _ (movtcIss_writes (by omega)) rfl rfl rfl ?_
  rw [List.all_cons, (ofCore_wctl _ _).2 (by omega)]
  rfl

/-- MOVTC of a read-only register does nothing. -/
theorem execMovtc_ignored (hl : ctlListed ctrl.toNat = true) (hw : ctlWritable ctrl.toNat = false) :
    Issues s c stop {} (execMovtc c stop a ctrl s) := by
  rw [execMovtc_eq]
  exact issueM_issues _ _ (by simp [movtcIss, hl, hw]) rfl rfl rfl rfl

theorem execCbset_issues {m : BitVec 3} {b : BitVec 5} {res : BitVec 13} (h : res = 0) : Issues s c stop
    { writes := [.ctl (0x020 + 2 * m.toNat), .ctl (0x021 + 2 * m.toNat)]
      effs := [.wctl (0x020 + 2 * m.toNat) ((s.core c).rg a), .wctl (0x021 + 2 * m.toNat) ((s.core c).rg b)] }
    (execCbset c stop m a b res s) := by
  rw [execCbset]
  refine issue_issues _ _ (if_neg (not_not_intro h)) rfl rfl rfl ?_
  rw [List.all_cons, List.all_cons, (ofCore_wctl _ _).2 (by omega), (ofCore_wctl _ _).2 (by omega)]
  rfl

theorem execNop_issues {f : IFmt} (h : f.d = 0) : Issues s c f.stop {} (execNop c f s) := by
  rw [execNop, system]
  exact issue_issues _ _ (if_neg (not_not_intro h)) rfl rfl rfl rfl

theorem execFence_adds {f : IFmt} (h : f.d = 0) : Adds s c f.stop fenceIss (execFence c f s) := by
  rw [execFence, system]
  exact issueM_adds _ _ (if_neg (not_not_intro h))

theorem execTrap_raises {f : IFmt} (h : f.d = 0) :
    RaisesAtExecute s c f.stop {} 0 0x06 0 f.imm.toNat (execTrap c f s) := by
  rw [execTrap, system, issue]
  exact issueM_raisesAtExecute (i := {}) (if_neg (not_not_intro h)) rfl rfl rfl rfl (by decide)

/-- A system instruction whose D field is not zero. -/
theorem system_raises {f : IFmt} {i : Iss} (h : f.d ≠ 0) : Raises s c f.stop .scalar 0x01 0 (system c f s i) :=
  issue_raises _ _ _ (if_pos h)

end

/-! ## The obligation -/

/-- Settles O6: a register's read, its write by what MOVTC adds, and the system instructions by their form. -/
theorem controlRegisterAndSystemInstructionsFollowTheRules : Obligations.ControlRegisterAndSystemInstructionsFollowTheRules := by
  unfold Obligations.ControlRegisterAndSystemInstructionsFollowTheRules
  intro s c stop d a b ctrl m res f x n fence
  simp only [exec_movc, exec_movtc, exec_cbset, exec_nop, exec_fence, exec_trap, exec_tend]
  obtain ⟨r2, r3, r4, r5, r6, r10, r16, r21, r80⟩ := ctlRead_shown s c x
  refine ⟨fun h => ⟨execMovc_adds h, ?_⟩, r2, r3, r4, r5, r6, r10, r16, r21, r80, ?_⟩
  · rintro rfl ho
    exact execMovc_reads ho h
  refine ⟨fun h => ⟨execMovc_raises h, execMovtc_raises h⟩, execMovtc_writes, execMovtc_ignored, ?_,
    execCbset_issues, fun h => issue_raises _ _ _ (if_pos h), ?_, ?_⟩
  · rintro hn rfl ho h0 h1
    exact execMovtc_counter hn ho h0 h1
  · intro h
    exact ⟨execNop_issues h, execFence_adds h,
      fun hs ho => ⟨execFence_commits h hs ho, execFence_delivers h hs ho⟩, execTrap_raises h⟩
  · intro h
    rw [execNop, execFence, execTrap, execTend]
    exact ⟨system_raises h, system_raises h, system_raises h, system_raises h⟩

end Sys2Proof.Machine

/-!
# Reads and writes of TCM

What the memory operations do for an access that lies in one core's TCM, powered and with good words: a read gives the bytes
as they stand (R204, R206) and changes nothing; a write within one word opens its line and stores its bytes.
-/

namespace Sys2Proof.Machine

variable {s : State} {c ea n : Nat}

/-! ## Cells -/

theorem mget_mset_same (m : List Host.Cell) (a : Nat) (b : Byte) : mget (mset m a b) a = b := by
  unfold mget mset
  split
  · rename_i h
    rw [kgetD, kget_kdel, h]
    rfl
  · exact kgetD_kset ..

theorem mget_mset_ne (m : List Host.Cell) {a k : Nat} (b : Byte) (h : k ≠ a) : mget (mset m a b) k = mget m k := by
  unfold mget mset
  split
  · rw [kgetD, kget_kdel_ne _ _ _ h, kgetD]
  · exact kgetD_kset_ne _ _ _ _ _ h

theorem mget_msetAll_outside (b : List Byte) (m : List Host.Cell) {a k : Nat} (h : k < a ∨ a + b.length ≤ k) :
    mget (msetAll m a b) k = mget m k := by
  induction b generalizing m a with
  | nil => rfl
  | cons x r ih =>
    rw [List.length_cons] at h
    rw [msetAll, ih _ (by omega), mget_mset_ne _ _ (by omega)]

theorem mget_msetAll_inside (b : List Byte) (m : List Host.Cell) (a : Nat) {i : Nat} (h : i < b.length) :
    mget (msetAll m a b) (a + i) = b[i] := by
  induction b generalizing m a i with
  | nil => cases h
  | cons x r ih =>
    cases i with
    | zero => rw [msetAll, mget_msetAll_outside _ _ (by omega), Nat.add_zero, mget_mset_same, List.getElem_cons_zero]
    | succ i =>
      rw [List.length_cons] at h
      rw [msetAll, show a + (i + 1) = a + 1 + i by omega, ih _ _ (by omega), List.getElem_cons_succ]

/-- Reading a map from which some keys are dropped. -/
theorem kget_filter {α : Type} (p : Nat → Bool) (m : List (Nat × α)) (k : Nat) :
    kget (m.filter fun x => p x.1) k = if p k then kget m k else none := by
  induction m with
  | nil => simp [kget]
  | cons x r ih =>
    obtain ⟨a, v⟩ := x
    rw [List.filter_cons]
    by_cases ha : a = k
    · subst ha
      cases hp : p a <;> simp [hp, kget, ih]
    · split <;> simp [kget, ha, ih]

theorem mget_mzero (m : List Host.Cell) (a n k : Nat) :
    mget (mzero m a n) k = if a ≤ k ∧ k < a + n then 0 else mget m k := by
  unfold mget mzero kgetD
  rw [kget_filter fun k => !(decide (a ≤ k) && decide (k < a + n))]
  by_cases h : a ≤ k ∧ k < a + n
  · simp [h]
  · have hk : (!(decide (a ≤ k) && decide (k < a + n))) = true := by
      simp only [Bool.not_eq_true', Bool.and_eq_false_iff, decide_eq_false_iff_not]
      omega
    rw [if_neg h, if_pos hk]

theorem mem_sinsert {l : List Nat} {j k : Nat} : j ∈ sinsert l k ↔ j = k ∨ j ∈ l := by
  induction l with
  | nil => simp [sinsert]
  | cons a r ih =>
    unfold sinsert
    split
    · simp
    · split
      · subst_vars
        simp
      · simp only [List.mem_cons, ih]
        tauto

/-! ## Numbers in bytes (R206) -/

theorem length_leBytes (n v : Nat) : (leBytes n v).length = n := by
  induction n generalizing v with
  | zero => rfl
  | succ n ih => rw [leBytes, List.length_cons, ih]

theorem getElem_leBytes (n v : Nat) {i : Nat} (h : i < (leBytes n v).length) : (leBytes n v)[i] = BitVec.ofNat 8 (v / 256 ^ i) := by
  induction n generalizing v i with
  | zero => cases h
  | succ n ih =>
    cases i with
    | zero => simp [leBytes]
    | succ i => simp [leBytes, ih, Nat.pow_succ', Nat.div_div_eq_div_mul]

theorem leNat_append (l m : List Byte) : leNat (l ++ m) = leNat l + 256 ^ l.length * leNat m := by
  induction l with
  | nil => simp [leNat]
  | cons x r ih =>
    simp only [List.cons_append, leNat, ih, List.length_cons, Nat.pow_succ']
    ring

/-! ## Where TCM lies (R205, R407) -/

theorem memAt_dram_iff {a : Nat} : memAt s a = .dram ↔ a < dramCapacity s := by
  unfold memAt
  dsimp only
  split_ifs with h <;> simp [h]

theorem windowBase_le_of_memAt {a ch : Nat} (h : memAt s a = .window ch) : windowBase ≤ a := by
  unfold memAt at h
  dsimp only at h
  split_ifs at h with _ _ _ _ hw
  exact hw.1

theorem eight_dvd_dramCapacity (s : State) : 8 ∣ dramCapacity s :=
  Dvd.dvd.mul_left (Dvd.dvd.mul_right (by decide) _) _

/-- No core's TCM is a channel window. -/
theorem not_window_of_tcm (hc : c < 576) (hn : ea < 0x40000) (ch : Nat) : memAt s (tcmBase c + ea) ≠ .window ch := by
  intro h
  have := windowBase_le_of_memAt h
  unfold tcmBase windowBase at this
  omega

/-- The words of a range outside DRAM lie outside DRAM. -/
theorem memAt_word_ne_dram {a u : Nat} (h : memAt s a = .tcm c) (hu : u ∈ wordsOf (.tcm c) a n) : memAt s u ≠ .dram := by
  have ha : ¬a < dramCapacity s := fun hd => by simp [memAt_dram_iff.2 hd] at h
  obtain ⟨k, hk⟩ := eight_dvd_dramCapacity s
  simp only [wordsOf, unitOf, List.mem_map, List.mem_range] at hu
  obtain ⟨i, -, rfl⟩ := hu
  rw [Ne, memAt_dram_iff]
  omega

/-! ## Reads (R204, R206, R209) -/

/-- Whether TCM is good does not depend on the cores. -/
theorem TcmGood.setCore (h : TcmGood s c ea n) (j : Nat) (y : Core) : TcmGood (s.setCore j y) c ea n := h

theorem TcmGood.not_silent (h : TcmGood s c ea n) : silent s (tcmBase c + ea) n = false := by
  obtain ⟨-, -, hm, -, hr, -⟩ := h
  unfold rangeUsable rangeIn at hr
  unfold silent rangeAnswers rangeIn
  rw [hm] at hr ⊢
  simp [hr]

/-- A good word outside DRAM reads good. -/
theorem checkWord_good {finder u : Nat} (hb : kget s.mem.bad u = none) (hm : memAt s u ≠ .dram) :
    checkWord s finder u = (s, none) := by
  simp [checkWord, badAt, hb, unwritten, unfilled, hm]

theorem checkWords_good {finder : Nat} {l : List Nat} (h : ∀ u ∈ l, checkWord s finder u = (s, none)) :
    checkWords s finder l = (s, none) := by
  induction l with
  | nil => rfl
  | cons u r ih =>
    rw [checkWords, h u List.mem_cons_self]
    exact ih fun v hv => h v (List.mem_cons_of_mem _ hv)

theorem lineClear_tcm (a : Nat) : lineClear s c (tcmBase c + ea + a) = !(s.core c).lines.contains ((ea + a) / 64) := by
  rw [lineClear, show tcmBase c + ea + a - tcmBase c = ea + a by omega]

/-- A read of TCM gives its bytes and changes nothing. -/
theorem devRead_tcm {finder : Nat} (hn : 0 < n) (h : TcmGood s c ea n) :
    devRead s finder (tcmBase c + ea) n = (s, .ok ((List.range n).map fun i => tcmByte s c (ea + i))) := by
  have hs := h.not_silent
  obtain ⟨-, hg, hm, hl, -, hb⟩ := h
  have hwords : checkWords s finder ((wordsOf (.tcm c) (tcmBase c + ea) n).filter fun u => !lineClear s c u) = (s, none) :=
    checkWords_good fun u hu =>
      have hu := (List.mem_filter.1 hu).1
      checkWord_good (hb u hu) (memAt_word_ne_dram hm hu)
  have hreach : reachIsland s (.tcm c) = s := reachIsland_powered s _ _ rfl hg
  unfold devRead
  simp only [hm, hl, hs, hreach, Nat.ne_of_gt hn, hwords, reduceCtorEq, ne_eq, not_true_eq_false, or_self, if_false, Bool.false_eq_true]
  refine congrArg (fun l => (s, Rd.ok l)) (List.map_congr_left fun i _ => ?_)
  rw [lineClear_tcm, tcmByte, Nat.add_assoc]
  cases (s.core c).lines.contains ((ea + i) / 64) <;> rfl

/-- A core's read of its TCM. -/
theorem coreRead_tcm {finder : Nat} (hn : 0 < n) (h : TcmGood s c ea n) :
    coreRead s c finder ea n = (s, .ok ((List.range n).map fun i => tcmByte s c (ea + i))) := by
  have hat : coreAt (s.core c) c ea n false = .dev (tcmBase c + ea) := if_pos h.1
  have hm := h.2.2.1
  simp only [coreRead, hat, hm, devRead_tcm hn h]

/-! ## What a write to TCM leaves unchanged -/

/-- Of a state only the written lines of one core, the bytes of memory and its bad words are changed. -/
structure OnlyTcm (s t : State) (c : Nat) : Prop where
  core : t.core c = { s.core c with lines := (t.core c).lines }
  others : ∀ j, j ≠ c → t.core j = s.core j
  mem : { t.mem with bytes := s.mem.bytes, bad := s.mem.bad } = s.mem
  rest : { t with cores := s.cores, mem := s.mem } = s

theorem core_of_cores {t : State} (h : t.cores = s.cores) (j : Nat) : t.core j = s.core j := by
  unfold State.core
  rw [h]

theorem OnlyTcm.memAt {t : State} (h : OnlyTcm s t c) (a : Nat) : memAt t a = memAt s a := by
  have hpart : t.part = s.part := by
    have := congrArg State.part h.rest
    exact this
  have hcfg : t.mem.inEffect = s.mem.inEffect := by
    have := congrArg Mem.inEffect h.mem
    exact this
  unfold Machine.memAt dramCapacity nSubs
  rw [hpart, hcfg]

theorem OnlyTcm.writeBytes {t : State} (h : OnlyTcm s t c) (bytes : List Host.Cell) (bad : List (Nat × BadWord)) :
    OnlyTcm s { t with mem := { t.mem with bytes, bad } } c :=
  ⟨h.core, h.others, h.mem, h.rest⟩

/-! ## The first write to a line (R204) -/

section
variable {l : Nat}

theorem openLine_open (h : l ∈ (s.core c).lines) : openLine s c l = s :=
  if_pos (List.contains_iff_mem.2 h)

theorem openLine_clear (h : l ∉ (s.core c).lines) : openLine s c l
    = { s.setCore c { s.core c with lines := sinsert (s.core c).lines l } with mem := { s.mem with
        bytes := mzero s.mem.bytes (tcmBase c + 64 * l) 64
        bad := s.mem.bad.filter fun y =>
          !(decide (tcmBase c + 64 * l ≤ y.1) && decide (y.1 < tcmBase c + 64 * l + 64)) } } :=
  if_neg (mt List.contains_iff_mem.1 h)

theorem openLine_onlyTcm (s : State) (c l : Nat) : OnlyTcm s (openLine s c l) c := by
  by_cases h : l ∈ (s.core c).lines
  · rw [openLine_open h]
    exact ⟨rfl, fun _ _ => rfl, rfl, rfl⟩
  · have hcores : (openLine s c l).cores = (s.setCore c { s.core c with lines := sinsert (s.core c).lines l }).cores := by
      rw [openLine_clear h]
    refine ⟨?_, fun j hj => ?_, ?_, ?_⟩
    · rw [core_of_cores hcores, State.core_setCore]
    · rw [core_of_cores hcores, State.core_setCore_ne _ _ _ _ hj]
    · rw [openLine_clear h]
    · rw [openLine_clear h]
      rfl

theorem mem_lines_openLine {j : Nat} : j ∈ ((openLine s c l).core c).lines ↔ j = l ∨ j ∈ (s.core c).lines := by
  by_cases h : l ∈ (s.core c).lines
  · rw [openLine_open h]
    exact ⟨.inr, fun hj => hj.elim (· ▸ h) id⟩
  · have hcores : (openLine s c l).cores = (s.setCore c { s.core c with lines := sinsert (s.core c).lines l }).cores := by
      rw [openLine_clear h]
    rw [core_of_cores hcores, State.core_setCore, mem_sinsert]

/-- A line that opens holds zeros. -/
theorem mget_openLine (k : Nat) : mget (openLine s c l).mem.bytes k
    = if l ∉ (s.core c).lines ∧ tcmBase c + 64 * l ≤ k ∧ k < tcmBase c + 64 * l + 64 then 0 else mget s.mem.bytes k := by
  by_cases h : l ∈ (s.core c).lines
  · rw [openLine_open h, if_neg fun g => g.1 h]
  · rw [openLine_clear h]
    simp only [mget_mzero, h, not_false_eq_true, true_and]

/-- Opening a line makes no word bad. -/
theorem openLine_bad {u : Nat} (h : kget s.mem.bad u = none) : kget (openLine s c l).mem.bad u = none := by
  by_cases hl : l ∈ (s.core c).lines
  · rw [openLine_open hl, h]
  · rw [openLine_clear hl]
    refine (kget_filter (fun k => !(decide (tcmBase c + 64 * l ≤ k) && decide (k < tcmBase c + 64 * l + 64))) _ _).trans ?_
    rw [h, ite_self]

/-- A TCM reads the same once one of its lines is open. -/
theorem tcmByte_openLine (a : Nat) : tcmByte (openLine s c l) c a = tcmByte s c a := by
  unfold tcmByte
  simp only [List.contains_iff_mem, mem_lines_openLine, mget_openLine]
  by_cases ha : a / 64 = l
  · subst ha
    rw [if_pos (.inl rfl)]
    by_cases hl : a / 64 ∈ (s.core c).lines
    · rw [if_neg fun g => g.1 hl, if_pos hl]
    · rw [if_pos ⟨hl, by omega, by omega⟩, if_neg hl]
  · simp only [ha, false_or]
    rw [if_neg (c := _ ∧ _) fun g => ha (by omega)]

end

/-! ## Writes within one word (R204, R206, R412) -/

/-- n bytes of TCM lie in one word. -/
def InOneWord (ea n : Nat) : Prop := 0 < n ∧ ea % 8 + n ≤ 8

theorem wordsOf_inOneWord (h : InOneWord ea n) : wordsOf (.tcm c) (tcmBase c + ea) n = [(tcmBase c + ea) / 8 * 8] := by
  obtain ⟨h0, h8⟩ := h
  have hone : (tcmBase c + ea + n + 8 - 1) / 8 - (tcmBase c + ea) / 8 = 1 := by
    unfold tcmBase
    omega
  simp only [wordsOf, unitOf, hone]
  simp

theorem openLines_inOneWord (h : InOneWord ea n) : openLines s c (tcmBase c + ea) n = openLine s c (ea / 64) := by
  obtain ⟨h0, h8⟩ := h
  have hone : (tcmBase c + ea + n + 63) / 64 - (tcmBase c + ea) / 64 = 1 := by
    unfold tcmBase
    omega
  simp only [openLines, hone, Nat.add_sub_cancel_left]
  simp

/-- A word whose memory is not DRAM and which is good takes a write: it stores the bytes. -/
theorem writeWord_good {t : State} {m : MemAt} {a : Nat} {b : List Byte} (hm : unitOf m = 8) (hb : a % 8 + b.length ≤ 8)
    (hg : kget t.mem.bad (a / 8 * 8) = none) (hd : memAt t (a / 8 * 8) ≠ .dram) : ∃ bad, writeWord t m (a / 8 * 8) a b
      = ({ t with mem := { t.mem with bytes := msetAll t.mem.bytes a b, bad } }, none) := by
  have hlo : max (a / 8 * 8) a = a := by omega
  have hhi : min (a / 8 * 8 + 8) (a + b.length) = a + b.length := by omega
  have hcut : cut b (a - a) (a + b.length - a) = b := by simp [cut]
  have hmerge : mergeWord t (a / 8 * 8) = (t, none) := by
    simp [mergeWord, badAt, hg, unwritten, unfilled, hd]
  simp only [writeWord, hm, hlo, hhi, hcut, hmerge]
  by_cases hwhole : a + b.length - a = 8
  · simp only [hwhole, decide_true, if_true]
    exact ⟨_, rfl⟩
  · simp only [hwhole, decide_false, Bool.false_eq_true, if_false]
    exact ⟨_, rfl⟩

/-- The state after a write of bytes to a core's TCM; bad words may have been written whole. -/
def tcmStored (s : State) (c ea : Nat) (b : List Byte) (bad : List (Nat × BadWord)) : State :=
  { openLine s c (ea / 64) with mem := { (openLine s c (ea / 64)).mem with
      bytes := msetAll (openLine s c (ea / 64)).mem.bytes (tcmBase c + ea) b, bad } }

/-- A write to TCM within one word opens its line and stores its bytes. -/
theorem devQueue_tcm {who : Option (Nat × Posted)} {b : List Byte} (hw : InOneWord ea b.length) (h : TcmGood s c ea b.length) :
    ∃ bad, devQueue s who (tcmBase c + ea) b = (tcmStored s c ea b bad, none) := by
  have hs := h.not_silent
  obtain ⟨-, hg, hm, hl, -, hbad⟩ := h
  rw [wordsOf_inOneWord hw] at hbad
  have hreach : reachIsland s (.tcm c) = s := reachIsland_powered s _ _ rfl hg
  have hdram := memAt_word_ne_dram (n := b.length) (u := (tcmBase c + ea) / 8 * 8) hm (by rw [wordsOf_inOneWord hw]; simp)
  obtain ⟨bad, hword⟩ := writeWord_good (t := openLine s c (ea / 64)) (m := .tcm c) (a := tcmBase c + ea) (b := b) rfl
    (by have := hw.2; unfold tcmBase; omega) (openLine_bad (hbad _ (by simp)))
    (by rw [(openLine_onlyTcm s c _).memAt]; exact hdram)
  refine ⟨bad, ?_⟩
  unfold devQueue
  simp only [hm, hl, hs, hreach, Nat.ne_of_gt hw.1, wordsOf_inOneWord hw, openLines_inOneWord hw, writeWords, hword, tcmStored,
    reduceCtorEq, ne_eq, not_true_eq_false, or_self, if_false, Bool.false_eq_true]

/-- A core's write to its TCM within one word. -/
theorem coreQueue_tcm {who : Option Posted} {b : List Byte} (hw : InOneWord ea b.length) (h : TcmGood s c ea b.length) :
    ∃ bad, coreQueue s c who ea b = (tcmStored s c ea b bad, none) := by
  obtain ⟨bad, hq⟩ := devQueue_tcm (who := who.map fun p => (c, p)) hw h
  have hat : coreAt (s.core c) c ea b.length true = .dev (tcmBase c + ea) := if_pos h.1
  have hm := h.2.2.1
  exact ⟨bad, by simp only [coreQueue, hat, hm, hq]⟩

section
variable {b : List Byte} {bad : List (Nat × BadWord)} {a : Nat}

theorem tcmStored_onlyTcm : OnlyTcm s (tcmStored s c ea b bad) c :=
  (openLine_onlyTcm s c _).writeBytes _ _

theorem tcmByte_tcmStored : tcmByte (tcmStored s c ea b bad) c a
    = if a / 64 = ea / 64 ∨ a / 64 ∈ (s.core c).lines then
        mget (msetAll (openLine s c (ea / 64)).mem.bytes (tcmBase c + ea) b) (tcmBase c + a) else 0 := by
  have hcore : (tcmStored s c ea b bad).core c = (openLine s c (ea / 64)).core c := core_of_cores rfl c
  simp only [tcmByte, hcore, List.contains_iff_mem, mem_lines_openLine]
  rfl

theorem tcmByte_tcmStored_inside {i : Nat} (hw : InOneWord ea b.length) (hi : i < b.length) :
    tcmByte (tcmStored s c ea b bad) c (ea + i) = b[i] := by
  have hline : (ea + i) / 64 = ea / 64 := by
    have := hw.2
    omega
  rw [tcmByte_tcmStored, if_pos (.inl hline), ← Nat.add_assoc, mget_msetAll_inside _ _ _ hi]

theorem tcmByte_tcmStored_outside (ha : a < ea ∨ ea + b.length ≤ a) :
    tcmByte (tcmStored s c ea b bad) c a = tcmByte s c a := by
  rw [tcmByte_tcmStored, mget_msetAll_outside _ _ (by omega), ← tcmByte_openLine (l := ea / 64)]
  simp only [tcmByte, List.contains_iff_mem, mem_lines_openLine]

/-- A write to a core's TCM leaves every byte outside it. -/
theorem mget_tcmStored_outside (he : ea + b.length ≤ 0x40000) (h0 : 0 < b.length)
    (ha : a < tcmBase c ∨ tcmBase c + 0x40000 ≤ a) :
    mget (tcmStored s c ea b bad).mem.bytes a = mget s.mem.bytes a := by
  refine (mget_msetAll_outside _ _ (by omega)).trans ?_
  rw [mget_openLine, if_neg]
  omega

end

end Sys2Proof.Machine

/-!
# Loads and stores (O5)

The encoding fixes the size, the address and the pointer's update; the access itself is a read or a write of TCM.
-/

namespace Sys2Proof.Machine

variable {s : State} {c : Nat} {f : MFmt} {x : Core}

/-! ## The encoding of an access (R209, R210, R216) -/

theorem szBytes_eq {sz : BitVec 3} (h : sz.toNat ≤ 5) : szBytes sz = some (accessBytes sz) := by
  revert sz
  decide

theorem memBad_eq_none {store : Bool} (h : AccessEncoded f store) : memBad f store = none := by
  obtain ⟨hsz, hsigned, hmode, hcb, hpair, hptr⟩ := h
  have hfive : f.sz.toNat = 5 ↔ f.sz = 5 := BitVec.toNat_inj (y := 5)
  have hodd : f.sz = 5 → oddReg f.d = false := hpair
  have hsign : store = true → szSigned f.sz = false := fun hs => by
    obtain ⟨h1, h3⟩ := hsigned hs
    have h1' : f.sz.toNat ≠ 1 := fun e => h1 (BitVec.eq_of_toNat_eq e)
    have h3' : f.sz.toNat ≠ 3 := fun e => h3 (BitVec.eq_of_toNat_eq e)
    simp [szSigned, h1', h3']
  unfold memBad
  rw [if_neg, if_neg, if_neg]
  · rintro ⟨rfl, hm, he | ⟨h5, he⟩⟩
    · exact (hptr rfl hm).1 he
    · exact (hptr rfl hm).2 (hfive.1 h5) he
  · rintro ⟨h5, ho⟩
    simp [hodd (hfive.1 h5)] at ho
  · rintro (hn | ⟨hs, hg⟩ | hm | ⟨hc, hm⟩)
    · simp [szBytes_eq hsz] at hn
    · simp [hsign hs] at hg
    · exact hmode hm
    · exact hcb.elim hc hm

theorem outsideCb_iff (x : Core) (f : MFmt) : outsideCb x f (accessAt x f) (accessBytes f.sz) = true ↔ ¬InRing x f := by
  simp only [outsideCb, InRing, ringOf, Bool.and_eq_true, Bool.or_eq_true, decide_eq_true_eq, Classical.not_imp]
  rw [and_assoc]
  exact and_congr_right' (and_congr_right' (by omega))

theorem memPtr_eq (x : Core) (f : MFmt) : memPtr x f (accessAt x f) (accessBytes f.sz) = pointerNext x f := by
  unfold memPtr pointerNext ringOf
  dsimp only
  rw [show ((accessAt x f : Int) - (vget x.cbBase f.cb.toNat 0).toNat + f.off.toInt * accessBytes f.sz)
    = (accessAt x f : Int) + f.off.toInt * accessBytes f.sz - (vget x.cbBase f.cb.toNat 0).toNat by ring]

theorem accessBytes_pos (sz : BitVec 3) : 0 < accessBytes sz := Nat.two_pow_pos _

/-- An aligned access lies in one word. -/
theorem inOneWord_of_aligned {ea : Nat} {sz : BitVec 3} (h : ea % accessBytes sz = 0) (hs : sz.toNat ≤ 5) :
    InOneWord ea (accessBytes sz) := by
  have hn : accessBytes sz = 1 ∨ accessBytes sz = 2 ∨ accessBytes sz = 4 ∨ accessBytes sz = 8 := by
    revert hs
    exact (by decide : ∀ z : BitVec 3, z.toNat ≤ 5 →
      accessBytes z = 1 ∨ accessBytes z = 2 ∨ accessBytes z = 4 ∨ accessBytes z = 8) sz
  unfold InOneWord
  rcases hn with hn | hn | hn | hn <;> rw [hn] at h ⊢ <;> omega

/-! ## The update of the pointer -/

section
variable {p : Option (BitVec 32)}

theorem ptrEffs_eq (x : Core) (f : MFmt) : ptrEffs f (pointerNext x f) = pointerEffs x f := by
  unfold pointerEffs
  cases pointerNext x f <;> rfl

theorem pointerEffs_ofCore (x : Core) (f : MFmt) : (pointerEffs x f).all Eff.ofCore = true := by
  rw [← ptrEffs_eq]
  cases pointerNext x f <;> rfl

/-- The update of a pointer changes general registers only. -/
theorem foldl_pointerEffs (y : Core) (next : Nat) (x : Core) (f : MFmt) :
    ∃ g, (inOrder (pointerEffs x f)).foldl (applyEff next) y = { y with g } := by
  rw [← ptrEffs_eq]
  cases pointerNext x f
  · exact ⟨y.g, rfl⟩
  · exact ⟨_, rfl⟩

theorem inOrder_store (ea n : Nat) (v : BitVec 64) (x : Core) (f : MFmt) :
    inOrder (.store ea n v :: pointerEffs x f) = .store ea n v :: inOrder (pointerEffs x f) := by
  rw [← ptrEffs_eq]
  cases pointerNext x f <;> rfl

end

/-! ## Accesses outside their buffer or unaligned (R209, R223) -/

/-- What an access adds that passes the checks of its encoding: `good` where it lies in its buffer and is aligned. -/
def accessIss (x : Core) (f : MFmt) (writes : List WReg) (good : Iss) : Iss :=
  if outsideCb x f (accessAt x f) (accessBytes f.sz) then { cls := .mem, writes, exc := some (0x04, 0x01, accessAt x f) }
  else if accessAt x f % accessBytes f.sz ≠ 0 then { cls := .mem, writes, exc := some (0x04, 0x00, accessAt x f) }
  else good

section
variable {writes : List WReg} {good : Iss} {stop : Bool} {mk : State → Core → Nat → Iss}

theorem accessIss_good (hr : InRing x f) (ha : accessAt x f % accessBytes f.sz = 0) : accessIss x f writes good = good := by
  rw [accessIss, if_neg (mt (outsideCb_iff _ _).1 (not_not_intro hr)), if_neg (not_not_intro ha)]

theorem access_raisesOutside
    (hm : mk s (s.core c) ((s.core c).pc + 4 * (s.core c).bundle.count) = accessIss (s.core c) f writes good)
    (hr : ¬InRing (s.core c) f) :
    RaisesAtExecute s c stop { cls := .mem, writes } 2 0x04 0x01 (accessAt (s.core c) f) (issueM c stop s mk) := by
  refine issueM_raisesAtExecute (hm.trans ?_) rfl rfl rfl rfl (by decide)
  rw [accessIss, if_pos ((outsideCb_iff _ _).2 hr)]

theorem access_raisesUnaligned
    (hm : mk s (s.core c) ((s.core c).pc + 4 * (s.core c).bundle.count) = accessIss (s.core c) f writes good)
    (hr : InRing (s.core c) f) (ha : accessAt (s.core c) f % accessBytes f.sz ≠ 0) :
    RaisesAtExecute s c stop { cls := .mem, writes } 2 0x04 0x00 (accessAt (s.core c) f) (issueM c stop s mk) := by
  refine issueM_raisesAtExecute (hm.trans ?_) rfl rfl rfl rfl (by decide)
  rw [accessIss, if_neg (mt (outsideCb_iff _ _).1 (not_not_intro hr)), if_pos ha]

end

/-! ## What a load adds (R209) -/

/-- What a load writes for the number that it read. -/
def loadData (f : MFmt) (v : Nat) : List Eff :=
  if f.sz = 5 then [.wg f.d (BitVec.ofNat 32 v), .wg (f.d + 1) (BitVec.ofNat 32 (v / 2 ^ 32))]
  else if f.sz = 1 then [.wg f.d ((BitVec.ofNat 8 v).signExtend 32)]
  else if f.sz = 3 then [.wg f.d ((BitVec.ofNat 16 v).signExtend 32)]
  else [.wg f.d (BitVec.ofNat 32 v)]

/-- The two words of eight bytes. -/
theorem leNat_halves {b : List Byte} (h : b.length = 8) : leNat b = leNat (b.take 4) + 2 ^ 32 * leNat (b.drop 4) := by
  have h4 : (b.take 4).length = 4 := by simp [h]
  conv_lhs => rw [← List.take_append_drop 4 b, leNat_append, h4]
  norm_num

theorem loadEffs_eq {b : List Byte} (hs : f.sz.toNat ≤ 5) (hb : b.length = accessBytes f.sz) :
    loadEffs f b = loadData f (leNat b) := by
  have hcases : f.sz = 0 ∨ f.sz = 1 ∨ f.sz = 2 ∨ f.sz = 3 ∨ f.sz = 4 ∨ f.sz = 5 := by
    revert hs
    exact (by decide : ∀ z : BitVec 3, z.toNat ≤ 5 → z = 0 ∨ z = 1 ∨ z = 2 ∨ z = 3 ∨ z = 4 ∨ z = 5) f.sz
  unfold loadEffs loadData
  rcases hcases with h | h | h | h | h | h
  case inr.inr.inr.inr.inr =>
    rw [h] at hb
    have hlow : leNat (b.take 4) < 2 ^ 32 := by
      have := leNat_lt (b.take 4)
      rwa [List.length_take, hb] at this
    have hlo : BitVec.ofNat 32 (leNat b) = BitVec.ofNat 32 (leNat (b.take 4)) := by
      apply BitVec.eq_of_toNat_eq
      simp only [BitVec.toNat_ofNat, leNat_halves hb]
      omega
    have hhi : leNat b / 2 ^ 32 = leNat (b.drop 4) := by
      rw [leNat_halves hb]
      omega
    rw [h, hlo, hhi]
    rfl
  all_goals
    rw [h]
    rfl

theorem loadData_ofCore (f : MFmt) (v : Nat) : (loadData f v).all Eff.ofCore = true := by
  unfold loadData
  split_ifs <;> rfl

theorem loadWrites_eq (f : MFmt) : loadWrites f
    = (if f.sz = 5 then [.g f.d.toNat, .g (f.d + 1).toNat] else [.g f.d.toNat]) ++ pointerWrites f := by
  have hfive : f.sz.toNat = 5 ↔ f.sz = 5 := BitVec.toNat_inj (y := 5)
  simp only [loadWrites, hfive]
  rfl

/-- What LD adds to its bundle in its buffer and aligned. -/
def loadIss (x : Core) (f : MFmt) : Iss :=
  { cls := .mem, writes := loadWrites f, effs := [.load f (accessAt x f) (accessBytes f.sz) (pointerNext x f)] }

theorem execLd_eq (he : AccessEncoded f false) :
    execLd c f s = issueM c f.stop s fun _ x _ => accessIss x f (loadWrites f) (loadIss x f) := by
  unfold execLd
  simp only [memBad_eq_none he, szBytes_eq he.1, loadIss, ← memPtr_eq]
  rfl

theorem execLd_adds (he : AccessEncoded f false) (hr : InRing (s.core c) f)
    (ha : accessAt (s.core c) f % accessBytes f.sz = 0) : Adds s c f.stop (loadIss (s.core c) f) (execLd c f s) := by
  rw [execLd_eq he]
  exact issueM_adds _ _ (accessIss_good hr ha)

/-- The read that LD makes of TCM when its bundle is complete. -/
theorem runReads_load {n ea : Nat} {p : Option (BitVec 32)} (hz : f.sz.toNat ≤ 5) (hn : n = accessBytes f.sz)
    (hg : TcmGood s c ea n) :
    runReads s c [.load f ea n p] = (s, .inl (loadData f (tcmWord s c ea n) ++ ptrEffs f p)) := by
  subst hn
  have hdata := loadEffs_eq hz (b := (List.range (accessBytes f.sz)).map fun i => tcmByte s c (ea + i)) (by simp)
  simp only [runReads, coreRead_tcm (accessBytes_pos _) hg, hdata, List.append_nil]
  rfl

/-- LD from TCM alone in its bundle. -/
theorem execLd_reads (he : AccessEncoded f false) (hs : f.stop = true) (ho : Opens s c) (hr : InRing (s.core c) f)
    (ha : accessAt (s.core c) f % accessBytes f.sz = 0) (hg : TcmGood s c (accessAt (s.core c) f) (accessBytes f.sz)) :
    execLd c f s = .next (s.setCore c (committed (s.core c)
      (loadData f (tcmWord s c (accessAt (s.core c) f) (accessBytes f.sz)) ++ pointerEffs (s.core c) f))) := by
  rw [execLd_eq he, hs]
  refine issueM_reads (i := loadIss (s.core c) f) ho (accessIss_good hr ha) rfl rfl rfl ⟨rfl, rfl, rfl, rfl⟩ ?_ ?_
  · have hword (b : Bundle) (ea n : Nat) : tcmWord (s.setCore c { s.core c with bundle := b }) c ea n = tcmWord s c ea n := by
      simp only [tcmWord, tcmByte, State.core_setCore, State.setCore_mem]
    refine (runReads_load he.1 rfl (hg.setCore c _)).trans ?_
    rw [hword, ptrEffs_eq]
  · rw [List.all_append, loadData_ofCore, pointerEffs_ofCore]
    rfl

/-! ## What a store adds (R206, R209, R224) -/

/-- The number that a store writes: gD, or its pair. -/
def storeData (x : Core) (f : MFmt) : Nat := (x.rg f.d).toNat + (if f.sz = 5 then (x.rg (f.d + 1)).toNat * 2 ^ 32 else 0)

theorem storeData_lt (x : Core) (f : MFmt) : storeData x f < 2 ^ 64 := by
  have hlo := (x.rg f.d).isLt
  have hhi := (x.rg (f.d + 1)).isLt
  unfold storeData
  split <;> omega

theorem ptrVal_eq (x : Core) (f : MFmt) : ptrVal x f = BitVec.ofNat 64 (storeData x f) := by
  have hfive : f.sz.toNat = 5 ↔ f.sz = 5 := BitVec.toNat_inj (y := 5)
  apply BitVec.eq_of_toNat_eq
  rw [BitVec.toNat_ofNat, Nat.mod_eq_of_lt (storeData_lt x f)]
  unfold ptrVal storeData pairOf
  simp only [hfive]
  split
  · rw [BitVec.toNat_append, ← Nat.shiftLeft_add_eq_or_of_lt (x.rg f.d).isLt, Nat.shiftLeft_eq, Nat.add_comm]
  · rw [BitVec.toNat_setWidth, Nat.add_zero, Nat.mod_eq_of_lt]
    have := (x.rg f.d).isLt
    omega

/-- What ST adds to its bundle in its buffer, aligned and to memory that it can reach. -/
def storeIss (x : Core) (f : MFmt) : Iss :=
  { cls := .mem, writes := ptrWrites f
    effs := .store (accessAt x f) (accessBytes f.sz) (BitVec.ofNat 64 (storeData x f)) :: pointerEffs x f }

/-- What ST adds to its bundle by where its address leads. -/
def storeAtIss (s : State) (x : Core) (c : Nat) (f : MFmt) : Iss :=
  let stopped (cause sub : Nat) : Iss := { cls := .mem, writes := ptrWrites f, exc := some (cause, sub, accessAt x f) }
  match coreAt x c (accessAt x f) (accessBytes f.sz) true with
  | .bad sub => stopped 0x05 sub
  | .virt _ _ => stopped 0x05 0x01
  | .dev a =>
    match memAt s a with
    | .window ch => if (windowWrite s ch ((a - windowBase) % 64) 0).isNone then stopped 0x05 0x00 else storeIss x f
    | _ => storeIss x f

theorem execSt_eq (he : AccessEncoded f true) :
    execSt c f s = issueM c f.stop s fun s x _ => accessIss x f (ptrWrites f) (storeAtIss s x c f) := by
  unfold execSt
  simp only [memBad_eq_none he, szBytes_eq he.1, storeAtIss, storeIss, ← memPtr_eq, ← ptrEffs_eq, ← ptrVal_eq] <;> rfl

/-- A store to a core's own TCM. -/
theorem storeAtIss_tcm {x : Core} (hc : c < 576) (ht : accessAt x f + accessBytes f.sz ≤ 0x40000) :
    storeAtIss s x c f = storeIss x f := by
  have hat : coreAt x c (accessAt x f) (accessBytes f.sz) true = .dev (tcmBase c + accessAt x f) := if_pos ht
  have hlt : accessAt x f < 0x40000 := by
    have := accessBytes_pos f.sz
    omega
  unfold storeAtIss
  simp only [hat]
  split
  next ch hw => exact absurd hw (not_window_of_tcm hc hlt ch)
  · rfl

theorem execSt_adds (he : AccessEncoded f true) (hr : InRing (s.core c) f)
    (ha : accessAt (s.core c) f % accessBytes f.sz = 0) (ht : accessAt (s.core c) f + accessBytes f.sz ≤ 0x40000) :
    Adds s c f.stop (storeIss (s.core c) f) (execSt c f s) := by
  intro hs hf
  rw [execSt_eq he]
  exact issueM_adds _ _ ((accessIss_good hr ha).trans (storeAtIss_tcm hf.1 ht)) hs hf

/-! ## The commit of a store to TCM -/

section
variable {ea n : Nat} {v : BitVec 64} {x : Core}

theorem waitsForNone_store (h : accessAt x f + accessBytes f.sz ≤ 0x40000) :
    (Bundle.init.add (storeIss x f)).WaitsForNone := by
  refine .cons (b := Bundle.init.add (storeIss x f)) ⟨rfl, rfl, rfl, ?_⟩ (pointerEffs_ofCore x f)
  simp [Bundle.posts, h]

/-- The merge that a store to TCM makes when its bundle is complete finds no bad word. -/
theorem runReads_store (hw : InOneWord ea n) (hg : TcmGood s c ea n) : runReads s c (.store ea n v :: pointerEffs x f)
    = (s, .inl (.store ea n v :: pointerEffs x f)) := by
  obtain ⟨bad, hq⟩ := coreQueue_tcm (who := none) (b := leBytes n v.toNat) (by rwa [length_leBytes]) (by rwa [length_leBytes])
  simp only [runReads, hg.1, hq, if_true, runReads_plain _ _ _ (plain_ofCore (pointerEffs_ofCore x f))]
  rfl

/-- The store itself, when its bundle commits. -/
theorem foldl_applySt_store {pc : Nat} (hw : InOneWord ea n) (hg : TcmGood s c ea n) :
    ∃ bad, (.store ea n v :: inOrder (pointerEffs x f)).foldl (applySt c pc) s
      = tcmStored s c ea (leBytes n v.toNat) bad := by
  obtain ⟨bad, hq⟩ := coreQueue_tcm (who := none) (b := leBytes n v.toNat) (by rwa [length_leBytes]) (by rwa [length_leBytes])
  refine ⟨bad, ?_⟩
  rw [List.foldl_cons, foldl_applySt_ofCore _ _ _ _ (inOrder_ofCore (pointerEffs_ofCore x f))]
  simp only [applySt, commitStore, hg.1, hq, if_true]

end

/-- The commit of ST alone in its bundle: the pointer, then the bytes. -/
theorem commitBundle_store {b : Bundle} {ea n : Nat} {v : BitVec 64} (ho : Opens s c) (hc : b.count = 1)
    (hb : b.effs = .store ea n v :: pointerEffs (s.core c) f) (hw : InOneWord ea n) (hg : TcmGood s c ea n) :
    ∃ bad, commitBundle (s.setCore c { s.core c with bundle := b }) c
      = tcmStored (s.setCore c (committed (s.core c) (pointerEffs (s.core c) f))) c ea (leBytes n v.toNat) bad := by
  obtain ⟨-, -, hwait, h0, h1⟩ := ho
  have hi : inOrder b.effs = .store ea n v :: inOrder (pointerEffs (s.core c) f) := by rw [hb, inOrder_store]
  have hp := pointerEffs_ofCore (s.core c) f
  obtain ⟨g, hy⟩ := foldl_pointerEffs (s.core c) ((s.core c).pc + 4) (s.core c) f
  have hfollows : b.effs.all Eff.follows = true := by
    rw [hb, List.all_cons, List.all_eq_true.2 fun e he => ?_]
    · rfl
    · have := List.all_eq_true.1 hp e he
      cases e <;> first | rfl | cases this
  obtain ⟨bad, hst⟩ := foldl_applySt_store (s := s.setCore c (committed (s.core c) (pointerEffs (s.core c) f))) (x := s.core c)
    (f := f) (pc := (s.core c).pc + 4 * b.memAt) (v := v) hw (hg.setCore c _)
  refine ⟨bad, ?_⟩
  rw [commitBundle_follows (y := { s.core c with g }) hc hfollows hwait.2.2.1 (by rw [hi]; exact hy) h0 h1, hi, ← hst,
    List.foldl_cons, foldl_applyMx_ofCore _ _ _ (inOrder_ofCore hp)]
  unfold committed
  rw [hy]
  rfl

/-- ST to TCM alone in its bundle. -/
theorem execSt_stores (he : AccessEncoded f true) (hs : f.stop = true) (ho : Opens s c) (hr : InRing (s.core c) f)
    (ha : accessAt (s.core c) f % accessBytes f.sz = 0) (hg : TcmGood s c (accessAt (s.core c) f) (accessBytes f.sz)) :
    ∃ bad, execSt c f s = .next (tcmStored (s.setCore c (committed (s.core c) (pointerEffs (s.core c) f))) c
      (accessAt (s.core c) f) (leBytes (accessBytes f.sz) (storeData (s.core c) f)) bad) := by
  have hw := inOneWord_of_aligned ha he.1
  have hm := (accessIss_good (writes := ptrWrites f) hr ha).trans (storeAtIss_tcm (s := s) ho.1.1 hg.1)
  have hv : (BitVec.ofNat 64 (storeData (s.core c) f)).toNat = storeData (s.core c) f := by
    rw [BitVec.toNat_ofNat, Nat.mod_eq_of_lt (storeData_lt _ _)]
  obtain ⟨bad, hcommit⟩ := commitBundle_store (f := f) (b := { Bundle.init.add (storeIss (s.core c) f) with
    begun := true, effs := (storeIss (s.core c) f).effs }) ho rfl rfl hw hg
  have hwait := waitsForNone_store (x := s.core c) hg.1
  rw [hv] at hcommit
  refine ⟨bad, ?_⟩
  rw [execSt_eq he, hs, issueM_closes_alone ho (i := storeIss (s.core c) f) hm rfl rfl (fun e h => by cases h) hwait.noTend,
    closeBundle_reads ho.2.2.1 hwait (exc_add_init rfl rfl) (runReads_store hw (hg.setCore c _))]
  exact congrArg _ hcommit

/-- What ST to TCM leaves and changes: its bytes, every other byte, the registers and the rest of the state. -/
theorem tcmStored_frame {ea n v : Nat} {bad : List (Nat × BadWord)} {t : State} (hw : InOneWord ea n) (he : ea + n ≤ 0x40000)
    (ht : t = tcmStored (s.setCore c (committed (s.core c) (pointerEffs (s.core c) f))) c ea (leBytes n v) bad) :
    (∀ i < n, tcmByte t c (ea + i) = BitVec.ofNat 8 (v / 256 ^ i))
      ∧ (∀ a, a < ea ∨ ea + n ≤ a → a < 0x40000 → tcmByte t c a = tcmByte s c a)
      ∧ (∀ a, a < tcmBase c ∨ tcmBase c + 0x40000 ≤ a → mget t.mem.bytes a = mget s.mem.bytes a)
      ∧ { t.core c with lines := (s.core c).lines } = committed (s.core c) (pointerEffs (s.core c) f)
      ∧ (∀ j, j ≠ c → t.core j = s.core j) ∧ { t.mem with bytes := s.mem.bytes, bad := s.mem.bad } = s.mem
      ∧ { t with cores := s.cores, mem := s.mem } = s := by
  have hn := length_leBytes n v
  have hw' : InOneWord ea (leBytes n v).length := by rwa [hn]
  have hlines : (committed (s.core c) (pointerEffs (s.core c) f)).lines = (s.core c).lines := by
    obtain ⟨g, hy⟩ := foldl_pointerEffs (s.core c) ((s.core c).pc + 4) (s.core c) f
    rw [committed, hy]
  have hsame (a : Nat) : tcmByte (s.setCore c (committed (s.core c) (pointerEffs (s.core c) f))) c a = tcmByte s c a := by
    rw [tcmByte, State.core_setCore, hlines]
    rfl
  have hframe := tcmStored_onlyTcm (s := s.setCore c (committed (s.core c) (pointerEffs (s.core c) f))) (c := c) (ea := ea)
    (b := leBytes n v) (bad := bad)
  rw [← ht] at hframe
  obtain ⟨hcore, hothers, hmem, hrest⟩ := hframe
  rw [State.core_setCore] at hcore
  refine ⟨fun i hi => ?_, fun a ha _ => ?_, fun a ha => ?_, ?_, fun j hj => ?_, hmem, ?_⟩
  · rw [ht, tcmByte_tcmStored_inside hw' (by rwa [hn]), getElem_leBytes]
  · rw [ht, tcmByte_tcmStored_outside (by rwa [hn]), hsame]
  · rw [ht, mget_tcmStored_outside (by rwa [hn]) hw'.1 ha, State.setCore_mem]
  · rw [hcore, ← hlines]
  · rw [hothers j hj, State.core_setCore_ne _ _ _ _ hj]
  · exact congrArg (fun u : State => { u with cores := s.cores }) hrest

/-! ## The obligation -/

/-- Settles O5: the forms of LD and ST, and what a write to TCM changes. -/
theorem loadsAndStoresAccessTcmAndUpdateTheirPointer : Obligations.LoadsAndStoresAccessTcmAndUpdateTheirPointer := by
  unfold Obligations.LoadsAndStoresAccessTcmAndUpdateTheirPointer
  constructor
  · intro s c f he x n ea v data writes
    have hwrites : writes = loadWrites f := (loadWrites_eq f).symm
    rw [exec_ld, hwrites]
    refine ⟨fun hr ha => ⟨execLd_adds he hr ha, fun hs ho hg => execLd_reads he hs ho hr ha hg⟩, fun hr => ?_, fun hr ha => ?_⟩
    all_goals rw [execLd_eq he]
    · exact access_raisesOutside rfl hr
    · exact access_raisesUnaligned rfl hr ha
  · intro s c f he x n ea v
    rw [exec_st]
    refine ⟨fun hr ha ht => execSt_adds he hr ha ht, fun hs ho hr ha hg => ?_, fun hr => ?_, fun hr ha => ?_⟩
    · obtain ⟨bad, hst⟩ := execSt_stores he hs ho hr ha hg
      exact ⟨_, hst, tcmStored_frame (inOneWord_of_aligned ha he.1) hg.1 rfl⟩
    all_goals rw [execSt_eq he]
    · exact access_raisesOutside rfl hr
    · exact access_raisesUnaligned rfl hr ha

end Sys2Proof.Machine

/-!
# A step is the front of the queue, or a core's turn (O55)
-/

namespace Sys2Proof.Machine

variable {s : State} {c : Nat}

theorem step_of_front (i : Instr) (rest : List Instr) : step { s with pending := i :: rest } = exec i { s with pending := rest } := rfl

theorem step_of_empty (h : s.pending = []) : step s = idle s := by
  unfold step
  rw [h]

/-- A block in which no core runs idles (assumption 1). -/
theorem idle_of_none (h : ∀ c, c < 576 → coreRuns s c = false) : idle s = .next s := by
  have hn : nextCore s = none := by
    unfold nextCore
    rw [List.find?_eq_none]
    intro c hc
    obtain ⟨i, -, rfl⟩ := List.mem_map.mp hc
    rw [h _ (Nat.mod_lt _ (by decide))]
    exact Bool.false_ne_true
  unfold idle
  rw [hn]

/-- The first core that runs, from the one whose turn it is, executes its next instruction (assumption 1). -/
theorem idle_of_first {n : Nat} (hn : n < 576) (h : coreRuns s ((s.turn + n) % 576) = true)
    (first : ∀ m, m < n → coreRuns s ((s.turn + m) % 576) = false) :
    idle s = fetchCore ((s.turn + n) % 576) { s with turn := (s.turn + n) % 576 + 1 } := by
  have hc : nextCore s = some ((s.turn + n) % 576) := by
    unfold nextCore
    rw [List.find?_map, (List.find?_range_eq_some (p := _) (i := n)).mpr]
    · rfl
    · exact ⟨h, List.mem_range.mpr hn, fun m hm => by simpa using first m hm⟩
  unfold idle
  rw [hc]

theorem fetchCore_of_some {run : State → Res} (n : Nat) (h : wordMeaning c (coreWord s c) = some run) :
    fetchCore c { s with turn := n } = run { s with turn := n } := by
  unfold fetchCore
  rw [show coreWord { s with turn := n } c = coreWord s c from rfl, h]

theorem fetchCore_of_none (n : Nat) (h : wordMeaning c (coreWord s c) = none) :
    fetchCore c { s with turn := n } = execReserved c (coreWord s c) { s with turn := n } := by
  unfold fetchCore
  rw [show coreWord { s with turn := n } c = coreWord s c from rfl, h]

/-- Settles O55: the front of the queue, else the first core that runs; the words of the worked examples are decoded by
evaluation. -/
theorem aStepServesTheFrontOfTheQueue : Obligations.AStepServesTheFrontOfTheQueue := by
  unfold Obligations.AStepServesTheFrontOfTheQueue
  intro s
  refine ⟨step_of_front, ⟨fun h => (step_of_empty rfl).trans (idle_of_none h), ?_⟩, fun c => ⟨rfl, rfl, rfl, rfl⟩⟩
  rintro n c hn rfl hc first
  have turn := (step_of_empty rfl).trans (idle_of_first (s := { s with pending := [] }) hn hc first)
  exact ⟨fun run h => turn.trans (fetchCore_of_some _ h), fun h => turn.trans (fetchCore_of_none _ h)⟩

end Sys2Proof.Machine

/-!
# The lengths that TEND reads (O13)

TEND reads `OUT_LEN0` to `OUT_LEN3` (R203, R221), and the model gives a fifth staging buffer the length zero. The statement
gives it the word of TCM behind those four, so a run with five staging buffers and a byte there refutes it.
-/

namespace Sys2Proof.Machine

/-- A run on the first core with five staging buffers. -/
def fiveStaged : TaskRun :=
  { TaskRun.new .main with
    phase := 1, place := some (.core 0), staging := [(0, 0, 0), (1, 0, 0), (2, 0, 0), (3, 0, 0), (4, 0, 0)] }

def fiveStagedRef : TaskRef := { q := 0, seq := 5, task := 0, role := .main }

/-- A core task without inputs and outputs of its own. -/
def plainTask : TaskDef :=
  { kind := 0, entry := 0x100, dma := false, internals := [], scratch := (0x200, 0x1000), ekind := 0, block := 0
    blockFrom := none, harq := false, preds := [], reads := [], writes := [], image := [], static := 1000, kbase := 0
    klimit := 0x1000, usesMxc := false, latency := 0 }

/-- The task of that run. -/
def fiveStagedInst : TaskInst := { TaskInst.new false plainTask with runs := [fiveStaged] }

/-- A job of that task and of another that has yet to start, so that the job goes on. -/
def fiveStagedJob : Job :=
  { Job.new { bareDesc 0 5 with graph := 7 } 1 0 with
    pastStep6 := true, expanded := true, started := true, admission := .untimed
    tasks := [fiveStagedInst, TaskInst.new false plainTask], inVers := List.replicate 5 none, outVers := List.replicate 5 none }

/-- The first core carries out the run, and the byte of its TCM behind `OUT_LEN3` is one. The device is past the point of no
return of a Dusk, only so that nothing evaluates migration. -/
def fiveStagedState : State :=
  { State.reset with
    cores := [(0, { Core.init with
      task := some fiveStagedRef, running := true, klimit := 0x1000, pc := 0x100, lines := [2] })]
    power := { State.reset.power with phase := 2 }, jobs := [fiveStagedJob]
    graphs := [(0, Graph.null), (7, { Graph.null with tasks := [plainTask, plainTask] })]
    mem := { Mem.init with bytes := [(tcmBase 0 + 0x90, 1)] } }

theorem fiveStagedState_opens : Opens fiveStagedState 0 := by decide +kernel

theorem findRun_fiveStagedState : findRun fiveStagedState fiveStagedRef = some (fiveStagedJob, fiveStagedInst, fiveStaged) := by
  decide +kernel

theorem fiveStagedState_tcmGood : TcmGood fiveStagedState 0 0x80 0x10 := by decide +kernel

/-- The lengths of the staging buffers of the run after an outcome. -/
def stagedLengths : Res → List Nat
  | .next t => ((findRun t fiveStagedRef).map fun x => x.2.2.staging.map fun y => y.2.2).getD []
  | _ => []

/-- TEND alone in its bundle. -/
def tendFields : IFmt := { stop := true, d := 0, a := 1, imm := 0 }

theorem stagedLengths_tend : stagedLengths (exec (.tend 0 tendFields) fiveStagedState) = [0, 0, 0, 0, 0] := by
  decide +kernel

/-- Refutes O13: the statement takes the length of a fifth staging buffer from the word behind `OUT_LEN3`. -/
theorem not_exceptionsAndCoreEventsFollowTheRules : ¬ Obligations.ExceptionsAndCoreEventsFollowTheRules := by
  unfold Obligations.ExceptionsAndCoreEventsFollowTheRules
  rintro ⟨-, events⟩
  obtain ⟨-, -, -, -, tend⟩ := events fiveStagedState 0 (by decide)
  obtain ⟨ends, -⟩ := tend tendFields fiveStagedRef _ _ _ rfl rfl fiveStagedState_opens rfl findRun_fiveStagedState
    fiveStagedState_tcmGood rfl (fun e he => absurd he List.not_mem_nil)
  have lengths := congrArg stagedLengths (ends (by decide +kernel))
  rw [stagedLengths_tend] at lengths
  exact absurd lengths (by decide +kernel)

end Sys2Proof.Machine

/-!
# Elements of vector operands

What the element operations of the vector instructions are made of: reading and replacing an element of an operand, narrowing
a part to its width, forming an element from its parts, and the write of a destination element by element.
-/

namespace Sys2Proof.Machine

variable {s : State} {c : Nat} {f : VFmt} {x : Res}

/-! ## Replacing an element (R228) -/

theorem testBit_elemAt (e v i j : Nat) : (elemAt e v i).testBit j = (decide (j < e) && v.testBit (e * i + j)) := by
  rw [elemAt, Nat.testBit_mod_two_pow, Nat.testBit_div_two_pow]
  congr 2
  omega

/-- The bits of an operand with an element replaced. -/
theorem testBit_elemSet (e v i a b : Nat) : (elemSet e v i a).testBit b
    = if e * i ≤ b ∧ b < e * i + e then a.testBit (b - e * i) else v.testBit b := by
  have hsplit : v = 2 ^ (e * i) * (2 ^ e * (v / 2 ^ (e * i) / 2 ^ e) + elemAt e v i) + v % 2 ^ (e * i) := by
    rw [elemAt, Nat.div_add_mod, Nat.div_add_mod]
  have hset : elemSet e v i a = 2 ^ (e * i) * (2 ^ e * (v / 2 ^ (e * i) / 2 ^ e) + a % 2 ^ e) + v % 2 ^ (e * i) := by
    rw [elemSet]
    conv_lhs => arg 1; arg 1; rw [hsplit]
    rw [Nat.mul_add, Nat.mul_comm (elemAt e v i), Nat.mul_add, Nat.mul_comm (a % 2 ^ e)]
    omega
  have hlow : v % 2 ^ (e * i) < 2 ^ (e * i) := Nat.mod_lt _ (Nat.two_pow_pos _)
  rw [hset, Nat.testBit_two_pow_mul_add _ hlow]
  by_cases h1 : b < e * i
  · rw [if_pos h1, if_neg (by omega), Nat.testBit_mod_two_pow, decide_eq_true h1, Bool.true_and]
  rw [if_neg h1, Nat.testBit_two_pow_mul_add _ (Nat.mod_lt _ (Nat.two_pow_pos _))]
  by_cases h2 : b - e * i < e
  · rw [if_pos h2, if_pos (by omega), Nat.testBit_mod_two_pow, decide_eq_true h2, Bool.true_and]
  · rw [if_neg h2, if_neg (by omega), Nat.testBit_div_two_pow, Nat.testBit_div_two_pow]
    congr 1
    omega

/-- An element after one was replaced. -/
theorem elemAt_elemSet (e v i j a : Nat) : elemAt e (elemSet e v i a) j = if j = i then a % 2 ^ e else elemAt e v j := by
  apply Nat.eq_of_testBit_eq
  intro k
  rw [apply_ite (Nat.testBit · k), testBit_elemAt, testBit_elemSet, testBit_elemAt, Nat.testBit_mod_two_pow]
  by_cases hk : k < e
  · rcases lt_trichotomy j i with h | rfl | h
    · have := Nat.mul_le_mul_left e h
      rw [Nat.mul_succ] at this
      rw [if_neg (by omega), if_neg h.ne]
    · rw [if_pos (by omega), if_pos rfl, Nat.add_sub_cancel_left]
    · have := Nat.mul_le_mul_left e h
      rw [Nat.mul_succ] at this
      rw [if_neg (by omega), if_neg h.ne']
  · simp [hk]

theorem elemAt_lt (e v i : Nat) : elemAt e v i < 2 ^ e := Nat.mod_lt _ (Nat.two_pow_pos _)

/-! ## Narrowing (R211, R237) -/

theorem unsgn_lt (w : Nat) (v : Int) : unsgn w v < 2 ^ w := by
  have := Int.emod_lt_of_pos v (b := ((2 ^ w : Nat) : Int)) (by positivity)
  have := Int.emod_nonneg v (b := ((2 ^ w : Nat) : Int)) (by positivity)
  unfold unsgn
  omega

theorem unsgn_sgn (w v : Nat) : unsgn w (sgn w v) = v % 2 ^ w := by
  have hlt := Nat.mod_lt v (Nat.two_pow_pos w)
  unfold unsgn sgn
  split
  · rw [Int.emod_eq_of_lt (by omega) (by omega), Int.toNat_natCast]
  · rw [Int.sub_emod_right, Int.emod_eq_of_lt (by omega) (by omega), Int.toNat_natCast]

/-- A clipped value stands for itself. -/
theorem sgn_unsgn_clampTo {w : Nat} (hw : 0 < w) (v : Int) : sgn w (unsgn w (clampTo w v)) = clampTo w v := by
  obtain ⟨hlo, hhi⟩ := clampTo_bounds w v
  obtain ⟨k, rfl⟩ : ∃ k, w = k + 1 := ⟨w - 1, by omega⟩
  rw [Nat.add_sub_cancel] at hlo hhi
  have hp : ((2 ^ (k + 1) : Nat) : Int) = 2 * 2 ^ k := by
    push_cast
    ring
  have hk : ((2 ^ k : Nat) : Int) = 2 ^ k := by push_cast; rfl
  have hz : (2 : Int) ^ k > 0 := by positivity
  unfold sgn
  rw [Nat.mod_eq_of_lt (unsgn_lt _ _), Nat.add_sub_cancel]
  by_cases h : 0 ≤ clampTo (k + 1) v
  · have hu : (unsgn (k + 1) (clampTo (k + 1) v) : Int) = clampTo (k + 1) v := by
      rw [unsgn, Int.emod_eq_of_lt h (by omega), Int.toNat_of_nonneg h]
    rw [if_pos (by omega), hu]
  · have hu : (unsgn (k + 1) (clampTo (k + 1) v) : Int) = clampTo (k + 1) v + (2 ^ (k + 1) : Nat) := by
      rw [unsgn, ← Int.add_emod_right, Int.emod_eq_of_lt (by omega) (by omega), Int.toNat_of_nonneg (by omega)]
    rw [if_neg (by omega), hu]
    omega

/-- The model's narrowing is the statement's. -/
theorem fit_eq_narrow (sat : Bool) (w : Nat) (v : Int) : fit sat w v = narrow sat w v := by
  cases sat
  · exact fit_false w v
  · exact fit_true w v

theorem fitPair_eq_complexOf (sat : Bool) (w : Nat) (p : Int × Int) : fitPair sat w p = complexOf sat w p.1 p.2 := by
  unfold fitPair complexOf
  rw [fit_eq_narrow, fit_eq_narrow]

theorem cmulExact_eq_complexProduct (conj : Bool) (a b : Int × Int) : cmulExact conj a b = complexProduct conj a b := by
  unfold cmulExact complexProduct
  cases conj with
  | false => rfl
  | true =>
    simp only [if_true, Prod.mk.injEq]
    constructor <;> ring

theorem cmulQ_eq (w : Nat) (conj : Bool) (a b : Int × Int) : cmulQ w conj a b
    = ((complexProduct conj a b).1 / 2 ^ (w - 1), (complexProduct conj a b).2 / 2 ^ (w - 1)) := by
  simp only [cmulQ, cmulExact_eq_complexProduct, floorShift_eq_div]

theorem mulQ_eq (w : Nat) (a b : Int) : mulQ w a b = a * b / 2 ^ (w - 1) := floorShift_eq_div _ _

/-! ## Elements and their parts (R227, R237) -/

theorem partsOf_lt {t : VTy} {v p : Nat} (h : p ∈ partsOf t v) : p < 2 ^ t.w := by
  unfold partsOf at h
  split at h <;> simp only [List.mem_cons, List.not_mem_nil, or_false] at h
  · rcases h with rfl | rfl <;> exact Nat.mod_lt _ (Nat.two_pow_pos _)
  · exact h ▸ Nat.mod_lt _ (Nat.two_pow_pos _)

/-- Operations on parts are equal that agree on the parts' patterns. -/
theorem byParts_congr {g h : Nat → Nat → Nat → Nat × Bool} {t : VTy}
    (hgh : ∀ p q, p < 2 ^ t.w → q < 2 ^ t.w → g t.w p q = h t.w p q) (a b : Nat) : byParts g t a b = byParts h t a b := by
  have hz : List.zipWith (g t.w) (partsOf t a) (partsOf t b) = List.zipWith (h t.w) (partsOf t a) (partsOf t b) := by
    refine List.zipWith_congr _ _ _ _ (List.forall₂_iff_get.2 ⟨?_, fun i hi hj => ?_⟩)
    · unfold partsOf
      split <;> rfl
    · exact hgh _ _ (partsOf_lt (List.get_mem _ _)) (partsOf_lt (List.get_mem _ _))
  unfold byParts
  rw [hz]

/-- An operation on parts whose result is an exact integer narrowed. -/
theorem byParts_eq_eachPart {h : Nat → Nat → Nat → Nat × Bool} {sat : Bool} {g : Nat → Int → Int → Int} {t : VTy}
    (hg : ∀ p q, p < 2 ^ t.w → q < 2 ^ t.w → h t.w p q = narrow sat t.w (g t.w (sgn t.w p) (sgn t.w q))) (a b : Nat) :
    byParts h t a b = eachPart sat g t a b :=
  byParts_congr (h := fun w p q => narrow sat w (g w (sgn w p) (sgn w q))) hg a b

/-- An operation on the bits of the parts. -/
theorem byParts_eq_eachPartBits (g : Nat → Nat → Nat → Nat) (t : VTy) (a b : Nat) :
    byParts (fun w p q => (g w p q, false)) t a b = eachPartBits g t a b := by
  simp only [byParts, eachPartBits, List.map_zipWith]
  refine Prod.ext rfl ?_
  dsimp only
  rw [List.any_eq_false]
  intro p hp
  obtain ⟨i, hi, rfl⟩ := List.getElem_of_mem hp
  rw [List.getElem_zipWith]
  exact Bool.false_ne_true

/-! ## The destination (R231, R232, R236) -/

/-- What a fold over the first n elements has replaced. -/
theorem foldl_range_elemSet (p : Nat → Bool) (g : Nat → Nat × Bool) (e old n : Nat) :
    let r := (List.range n).foldl (fun (acc : Nat × Bool) i =>
      if p i then (elemSet e acc.1 i (g i).1, acc.2 || (g i).2) else acc) (old, false)
    (∀ i, elemAt e r.1 i = if i < n ∧ p i = true then (g i).1 % 2 ^ e else elemAt e old i)
      ∧ (r.2 = true ↔ ∃ i, i < n ∧ p i = true ∧ (g i).2 = true) := by
  induction n with
  | zero => simp
  | succ n ih =>
    obtain ⟨hel, hclip⟩ := ih
    simp only [List.range_succ, List.foldl_append, List.foldl_cons, List.foldl_nil, Nat.lt_succ_iff_lt_or_eq, or_and_right,
      exists_or, exists_eq_left]
    by_cases hp : p n = true
    · rw [if_pos hp]
      refine ⟨fun i => ?_, ?_⟩
      · rw [elemAt_elemSet, hel]
        by_cases hi : i = n
        · subst hi
          simp [hp]
        · simp [hi]
      · rw [Bool.or_eq_true, hclip]
        simp [hp]
    · rw [if_neg hp]
      refine ⟨fun i => ?_, ?_⟩
      · rw [hel]
        by_cases hi : i = n
        · subst hi
          simp [hp]
        · simp [hi]
      · rw [hclip]
        simp [hp]

theorem lt_span_of_active {y : Core} {u pm : Bool} {k : BitVec 3} {i : Nat} (h : y.active u pm k i = true) : i < y.span' u := by
  simp only [Core.active, Bool.and_eq_true, decide_eq_true_eq] at h
  exact h.1

section
variable (y : Core) (u pm : Bool) (k : BitVec 3) (e old : Nat) (g : Nat → Nat × Bool)

/-- Each active element is replaced, and every other stays. -/
theorem elemAt_vmap (i : Nat) : elemAt e (vmap y u pm k e old g).1 i
    = if y.active u pm k i then (g i).1 % 2 ^ e else elemAt e old i := by
  refine ((foldl_range_elemSet (y.active u pm k) g e old (y.span' u)).1 i).trans (if_congr ?_ rfl rfl)
  exact and_iff_right_of_imp lt_span_of_active

/-- The clip mark says whether an active element clipped. -/
theorem vmap_clips : (vmap y u pm k e old g).2 = true ↔ ∃ i, y.active u pm k i = true ∧ (g i).2 = true := by
  refine (foldl_range_elemSet (y.active u pm k) g e old (y.span' u)).2.trans (exists_congr fun i => ?_)
  exact and_iff_right_of_imp fun h => lt_span_of_active h.1

end

theorem toV_ofCore (u : Bool) (d : BitVec 5) (n : Nat) (r : Nat × Bool) : (toV u d n r).all Eff.ofCore = true := by
  rw [toV, List.all_append, Bool.and_eq_true]
  constructor
  · cases u with
    | true => rfl
    | false =>
      rw [if_neg Bool.false_ne_true, List.all_map]
      exact List.all_eq_true.2 fun _ _ => rfl
  · cases r.2 <;> rfl

/-! ## What a vector instruction issues (R251) -/

theorem vissue_legal_iff {k : TyOk} {y : Core} {regs : List (BitVec 5 × Bool)} :
    (!k.allows y.ty || !(regs.all fun r => opOk y f.u r.2 r.1)) = true ↔ ¬(k.allows y.ty = true ∧ VNames y f regs) := by
  rw [Bool.or_eq_true, Bool.not_eq_true', Bool.not_eq_true', ← Bool.not_eq_true, ← Bool.not_eq_true, List.all_eq_true,
    not_and_or]

section
variable {k : TyOk} {regs : List (BitVec 5 × Bool)} {mk : Core → Nat → Iss}

/-- A vector instruction of a permitted type that names operands. -/
theorem vissue_issues {writes : List WReg} {effs : List Eff} (hx : x = vissue c f s k regs mk)
    (hk : k.allows (s.core c).ty = true) (hn : VNames (s.core c) f regs)
    (hm : mk (s.core c) ((s.core c).pc + 4 * (s.core c).bundle.count) = { cls := .vec, writes, effs })
    (he : effs.all Eff.ofCore = true) : Issues s c f.stop { cls := .vec, writes, effs } x :=
  hx ▸ issue_issues _ _ ((if_neg (mt vissue_legal_iff.1 (not_not_intro ⟨hk, hn⟩))).trans hm) rfl rfl rfl he

/-- A type that is not permitted, or a field that names no operand. -/
theorem vissue_raises (hx : x = vissue c f s k regs mk) (h : ¬(k.allows (s.core c).ty = true ∧ VNames (s.core c) f regs)) :
    Raises s c f.stop .vec 0x01 0 x :=
  hx ▸ issue_raises _ _ _ (if_pos (vissue_legal_iff.2 h))

/-- Another reason to raise ILLEGAL. -/
theorem vissue_raisesSub {sub : Nat} (hx : x = vissue c f s k regs mk) (hk : k.allows (s.core c).ty = true)
    (hn : VNames (s.core c) f regs)
    (hm : mk (s.core c) ((s.core c).pc + 4 * (s.core c).bundle.count) = Iss.bad .vec sub) :
    Raises s c f.stop .vec 0x01 sub x :=
  hx ▸ issue_raises _ _ _ ((if_neg (mt vissue_legal_iff.1 (not_not_intro ⟨hk, hn⟩))).trans hm)

/-- A vector instruction that writes a destination element by element. -/
theorem vissue_writes {wide : Bool} {e : Nat} {g : Nat → Nat → Nat × Bool} {op : Nat → Nat × Bool}
    (hx : x = vissue c f s k regs mk) (hk : k.allows (s.core c).ty = true) (hn : VNames (s.core c) f regs)
    (hm : mk (s.core c) ((s.core c).pc + 4 * (s.core c).bundle.count) = vout (s.core c) f wide e g)
    (hop : ∀ i, g (elemAt e ((s.core c).vop f.u f.d.toNat (regsOf f.u (s.core c).grp wide)) i) i = op i) :
    VWrites s c f wide e op x := by
  obtain ⟨v, clip, hv⟩ : ∃ v clip, vmap (s.core c) f.u f.pm f.k e
      ((s.core c).vop f.u f.d.toNat (regsOf f.u (s.core c).grp wide)) op = (v, clip) := ⟨_, _, rfl⟩
  have hel := elemAt_vmap (s.core c) f.u f.pm f.k e ((s.core c).vop f.u f.d.toNat (regsOf f.u (s.core c).grp wide)) op
  have hclip := vmap_clips (s.core c) f.u f.pm f.k e ((s.core c).vop f.u f.d.toNat (regsOf f.u (s.core c).grp wide)) op
  rw [hv] at hel hclip
  refine ⟨v, clip, vissue_issues hx hk hn (hm.trans ?_) (toV_ofCore ..), fun i hi => ?_, fun i hi => ?_, hclip⟩
  · simp only [vout, hop, hv]
  · exact (hel i).trans (if_pos hi)
  · exact (hel i).trans (if_neg (ne_true_of_eq_false hi))

/-- Where the type is permitted and the fields name operands the destination is written; elsewhere ILLEGAL is raised. -/
theorem vissue_writesOrRaises {permitted : Prop} {wide : Bool} {e : Nat} {g : Nat → Nat → Nat × Bool} {op : Nat → Nat × Bool}
    (hx : x = vissue c f s k regs mk) (hk : k.allows (s.core c).ty = true ↔ permitted)
    (hm : mk (s.core c) ((s.core c).pc + 4 * (s.core c).bundle.count) = vout (s.core c) f wide e g)
    (hop : permitted → ∀ i, g (elemAt e ((s.core c).vop f.u f.d.toNat (regsOf f.u (s.core c).grp wide)) i) i = op i) :
    (permitted ∧ VNames (s.core c) f regs → VWrites s c f wide e op x)
      ∧ (¬(permitted ∧ VNames (s.core c) f regs) → Raises s c f.stop .vec 0x01 0 x) := by
  rw [← hk] at hop ⊢
  exact ⟨fun ⟨ha, hn⟩ => vissue_writes hx ha hn hm (hop ha), vissue_raises hx⟩

end

theorem allows_all_iff (t : VTy) : TyOk.all.allows t = true ↔ True := by simp [TyOk.allows]
theorem allows_int_iff (t : VTy) : TyOk.int.allows t = true ↔ t.cplx = false := by simp [TyOk.allows]
theorem allows_cplx_iff (t : VTy) : TyOk.cplx.allows t = true ↔ t.cplx = true := Iff.rfl
theorem allows_narrowInt_iff (t : VTy) : TyOk.narrowInt.allows t = true ↔ t.cplx = false ∧ t.e ≤ 16 := by simp [TyOk.allows]
theorem allows_c16_iff (t : VTy) : TyOk.c16.allows t = true ↔ t.cplx = true ∧ t.w = 16 := by simp [TyOk.allows]
theorem allows_narrow_iff (t : VTy) : TyOk.narrow.allows t = true ↔ t.w ≤ 16 := by simp [TyOk.allows]
theorem allows_intC16_iff (t : VTy) : TyOk.intC16.allows t = true ↔ (t.cplx = true → t.w = 16) := by
  cases h : t.cplx <;> simp [TyOk.allows, h]

end Sys2Proof.Machine

/-!
# Element operations (O7)

A binary, unary or shift form of majors 0x18 and 0x19 is one shape each; what is left is that its function on parts is the
exact result narrowed.
-/

namespace Sys2Proof.Machine

variable {s : State} {c : Nat} {sc : Bool} {f : VFmt} {x : Res} {k : TyOk} {permitted : VTy → Prop}

/-! ## The shapes of majors 0x18 and 0x19 (R252) -/

/-- An instruction of which an odd pair for gB raises ILLEGAL with SUB 4 (R251). -/
theorem vissue_pairWrites {regs : List (BitVec 5 × Bool)} {g : Core → Nat → Nat × Bool} {op : Nat → Nat × Bool} {p : Prop}
    (hx : x = vissue c f s k regs fun y _ =>
      if pairBad y sc f.b then Iss.bad .vec 4 else vout y f false y.ty.e fun _ i => g y i)
    (hk : k.allows (s.core c).ty = true ↔ p) (hop : p → ∀ i, g (s.core c) i = op i) :
    let legal := p ∧ VNames (s.core c) f regs
    let oddPair := sc = true ∧ (s.core c).ty.e = 64 ∧ f.b.getLsbD 0 = true
    (legal → ¬oddPair → VWrites s c f false (s.core c).ty.e op x)
      ∧ (¬legal → Raises s c f.stop .vec 0x01 0 x) ∧ (legal → oddPair → Raises s c f.stop .vec 0x01 4 x) := by
  have hodd : pairBad (s.core c) sc f.b = true ↔ sc = true ∧ (s.core c).ty.e = 64 ∧ f.b.getLsbD 0 = true := by
    simp only [pairBad, oddReg, Bool.and_eq_true, decide_eq_true_eq, and_assoc]
  rw [← hk] at hop ⊢
  exact ⟨fun ⟨ha, hn⟩ ho => vissue_writes hx ha hn (if_neg (mt hodd.1 ho)) (hop ha), vissue_raises hx,
    fun ⟨ha, hn⟩ ho => vissue_raisesSub hx ha hn (if_pos (hodd.2 ho))⟩

theorem vbin_binary {op op' : VTy → Nat → Nat → Nat × Bool} (hx : x = vbin c sc f s k op)
    (hk : ∀ t, k.allows t = true ↔ permitted t) (hop : ∀ t a b, permitted t → op t a b = op' t a b) :
    VBinary s c sc f permitted op' x :=
  vissue_pairWrites hx (hk _) fun hp _ => hop _ _ _ hp

theorem vun_unary {op : VTy → Nat → Nat → Nat × Bool} {op' : VTy → Nat → Nat × Bool} (hx : x = vun c f s k op)
    (hk : ∀ t, k.allows t = true ↔ permitted t) (hop : ∀ t a, permitted t → op t a 0 = op' t a) :
    VUnary s c f permitted op' x := by
  refine ⟨fun ⟨hp, hn, hb⟩ => vissue_writes hx ((hk _).2 hp) hn (if_neg (not_not_intro hb)) fun i => hop _ _ hp, fun hl => ?_⟩
  by_cases hn : permitted (s.core c).ty ∧ VNames (s.core c) f [(f.d, false), (f.a, false)]
  · exact vissue_raisesSub hx ((hk _).2 hn.1) hn.2 (if_pos fun hb => hl ⟨hn.1, hn.2, hb⟩)
  · exact vissue_raises hx (by rwa [hk])

theorem vshift_shifts {op op' : Nat → Nat → Nat → Nat × Bool} (hx : x = vshift c sc f s op)
    (hop : ∀ w a n, op w a n = op' w a n) : VShift s c sc f op' x := by
  obtain rfl : op = op' := by
    funext w a n
    exact hop w a n
  have h := vissue_writesOrRaises hx (allows_all_iff _) (op := fun i =>
    let p := List.zipWith (op (s.core c).ty.w) (partsOf (s.core c).ty (vel (s.core c) f.u false f.a i))
      (if sc then (partsOf (s.core c).ty 0).map fun _ => ((s.core c).rg f.b).toNat % 64
        else (partsOf (s.core c).ty (vel (s.core c) f.u false f.b i)).map (· % 64))
    (ofParts (s.core c).ty (p.map (·.1)), p.any (·.2))) rfl fun _ i => by
      cases sc
      · simp only [byParts, List.zipWith_map_right, Bool.false_eq_true, if_false]
      · simp only [byParts, List.zipWith_map_right, if_true]
  simp only [true_and] at h
  exact h

/-- A binary form whose parts are exact integers narrowed. -/
theorem vbin_eachPart {h : Nat → Nat → Nat → Nat × Bool} {sat : Bool} {g : Nat → Int → Int → Int}
    (hx : x = vbin c sc f s k (byParts h)) (hk : ∀ t, k.allows t = true ↔ permitted t)
    (hg : ∀ w p q, p < 2 ^ w → q < 2 ^ w → h w p q = narrow sat w (g w (sgn w p) (sgn w q))) :
    VBinary s c sc f permitted (eachPart sat g) x :=
  vbin_binary hx hk fun _ _ _ _ => byParts_eq_eachPart (hg _) _ _

theorem vbin_eachPartBits {g : Nat → Nat → Nat → Nat} (hx : x = vbin c sc f s k (byParts fun w p q => (g w p q, false)))
    (hk : ∀ t, k.allows t = true ↔ permitted t) : VBinary s c sc f permitted (eachPartBits g) x :=
  vbin_binary hx hk fun _ _ _ _ => byParts_eq_eachPartBits g _ _ _

/-- A unary form whose parts are exact integers narrowed. -/
theorem vun_eachPart {h : Nat → Nat → Nat → Nat × Bool} {sat : Bool} {g : Int → Int}
    (hx : x = vun c f s k (byParts h)) (hk : ∀ t, k.allows t = true ↔ permitted t)
    (hg : ∀ w p q, h w p q = narrow sat w (g (sgn w p))) :
    VUnary s c f permitted (fun t a => eachPart sat (fun _ p _ => g p) t a 0) x :=
  vun_unary hx hk fun t a _ => byParts_eq_eachPart (g := fun _ p _ => g p) (fun p q _ _ => hg t.w p q) a 0

/-! ## Functions on parts (R237, R238) -/

theorem ite_sgn_eq_min {w p q : Nat} (hp : p < 2 ^ w) (hq : q < 2 ^ w) :
    ((if sgn w q < sgn w p then q else p), false) = narrow false w (min (sgn w p) (sgn w q)) := by
  refine Prod.ext ?_ rfl
  show _ = unsgn w _
  split
  · rw [min_eq_right (by omega), unsgn_sgn, Nat.mod_eq_of_lt hq]
  · rw [min_eq_left (by omega), unsgn_sgn, Nat.mod_eq_of_lt hp]

theorem ite_sgn_eq_max {w p q : Nat} (hp : p < 2 ^ w) (hq : q < 2 ^ w) :
    ((if sgn w p < sgn w q then q else p), false) = narrow false w (max (sgn w p) (sgn w q)) := by
  refine Prod.ext ?_ rfl
  show _ = unsgn w _
  split
  · rw [max_eq_right (by omega), unsgn_sgn, Nat.mod_eq_of_lt hq]
  · rw [max_eq_left (by omega), unsgn_sgn, Nat.mod_eq_of_lt hp]

theorem fit_floorShift (sat : Bool) (w n : Nat) (v : Int) : fit sat w (floorShift v n) = narrow sat w (v / 2 ^ n) := by
  rw [floorShift_eq_div, fit_eq_narrow]

theorem fit_mul_two_pow (sat : Bool) (w n : Nat) (v : Int) : fit sat w (v * (2 ^ n : Nat)) = narrow sat w (v * 2 ^ n) := by
  rw [fit_eq_narrow, Nat.cast_pow, Nat.cast_ofNat]

theorem fit_natAbs (sat : Bool) (w : Nat) (v : Int) : fit sat w (v.natAbs : Int) = narrow sat w (max v (-v)) := by
  rw [natAbs_eq_max, fit_eq_narrow]

/-! ## The obligation -/

/-- Settles O7: each operation is a form of majors 0x18 and 0x19, its function on parts an exact result narrowed. -/
theorem vectorElementOperationsFollowTheRules : Obligations.VectorElementOperationsFollowTheRules := by
  unfold Obligations.VectorElementOperationsFollowTheRules
  intro s c sc f any' int'
  exact ⟨vbin_eachPart (exec_vadd ..) allows_all_iff fun _ _ _ _ _ => fit_eq_narrow ..,
    vbin_eachPart (exec_vsub ..) allows_all_iff fun _ _ _ _ _ => fit_eq_narrow ..,
    vbin_eachPart (exec_vadds ..) allows_all_iff fun _ _ _ _ _ => fit_eq_narrow ..,
    vbin_eachPart (exec_vsubs ..) allows_all_iff fun _ _ _ _ _ => fit_eq_narrow ..,
    vbin_eachPartBits (exec_vand ..) allows_all_iff, vbin_eachPartBits (exec_vor ..) allows_all_iff,
    vbin_eachPartBits (exec_vxor ..) allows_all_iff, vbin_eachPartBits (exec_vandn ..) allows_all_iff,
    vbin_eachPart (exec_vmin ..) allows_int_iff fun _ _ _ => ite_sgn_eq_min,
    vbin_eachPart (exec_vmax ..) allows_int_iff fun _ _ _ => ite_sgn_eq_max,
    vbin_eachPartBits (exec_vminu ..) allows_int_iff, vbin_eachPartBits (exec_vmaxu ..) allows_int_iff,
    vbin_eachPart (exec_vmul ..) allows_int_iff fun _ _ _ _ _ => fit_eq_narrow ..,
    vbin_eachPart (exec_vmulh ..) allows_int_iff fun _ _ _ _ _ => fit_floorShift ..,
    vbin_eachPart (exec_vmulq ..) allows_int_iff fun _ _ _ _ _ => fit_floorShift ..,
    vbin_eachPart (exec_vmulqs ..) allows_int_iff fun _ _ _ _ _ => fit_floorShift ..,
    vshift_shifts (exec_vsll ..) fun _ _ _ => (congrArg _ (Nat.cast_mul ..)).trans (fit_mul_two_pow ..),
    vshift_shifts (exec_vsrl ..) fun _ _ _ => rfl,
    vshift_shifts (exec_vsra ..) fun _ _ _ => fit_floorShift ..,
    vshift_shifts (exec_vslls ..) fun _ _ _ => fit_mul_two_pow ..,
    vun_eachPart (exec_vabs ..) allows_int_iff fun _ _ _ => fit_natAbs ..,
    vun_eachPart (exec_vabss ..) allows_int_iff fun _ _ _ => fit_natAbs ..,
    vun_eachPart (exec_vneg ..) allows_all_iff fun _ _ _ => fit_eq_narrow ..,
    vun_eachPart (exec_vnegs ..) allows_all_iff fun _ _ _ => fit_eq_narrow ..⟩

end Sys2Proof.Machine

/-!
# Complex products and moves (O8)
-/

namespace Sys2Proof.Machine

variable {s : State} {c : Nat} {sc : Bool} {f : VFmt} {x : Res}

/-- A complex product shifted by w − 1 and narrowed (R238). -/
def shiftedProduct (sat conj : Bool) (t : VTy) (a b : Nat) : Nat × Bool :=
  complexOf sat t.w ((complexProduct conj (cplxOf t a) (cplxOf t b)).1 / 2 ^ (t.w - 1))
    ((complexProduct conj (cplxOf t a) (cplxOf t b)).2 / 2 ^ (t.w - 1))

theorem byCplx_cmulQ (sat conj : Bool) (t : VTy) (a b : Nat) :
    byCplx sat (fun w a b => cmulQ w conj a b) t a b = shiftedProduct sat conj t a b := by
  rw [byCplx, fitPair_eq_complexOf, cmulQ_eq, shiftedProduct]

theorem vbin_product {sat conj : Bool} (hx : x = vbin c sc f s .cplx (byCplx sat fun w a b => cmulQ w conj a b)) :
    VBinary s c sc f (fun t => t.cplx = true) (shiftedProduct sat conj) x :=
  vbin_binary hx allows_cplx_iff fun _ _ _ _ => byCplx_cmulQ ..

/-- VMOV and VSPLAT (R252). -/
theorem vmove_moves (hx : x = vmove c sc f s) :
    let legal := VNames (s.core c) f ((f.d, false) :: if sc then [] else [(f.b, false)])
    let oddPair := sc = true ∧ (s.core c).ty.e = 64 ∧ f.b.getLsbD 0 = true
    (legal → ¬oddPair → VWrites s c f false (s.core c).ty.e (fun i => (operandB (s.core c) sc f i, false)) x)
      ∧ (¬legal → Raises s c f.stop .vec 0x01 0 x) ∧ (legal → oddPair → Raises s c f.stop .vec 0x01 4 x) := by
  have h := vissue_pairWrites hx (allows_all_iff _) (op := fun i => (operandB (s.core c) sc f i, false)) fun _ _ => rfl
  simpa only [true_and] using h

/-- Settles O8: the products by their exact integers, VCONJ and VMULJ by their parts, and the moves. -/
theorem vectorComplexAndMoveOperationsFollowTheRules : Obligations.VectorComplexAndMoveOperationsFollowTheRules := by
  unfold Obligations.VectorComplexAndMoveOperationsFollowTheRules
  intro s c sc f y complex product
  obtain ⟨hmov, hmovBad, -⟩ := vmove_moves (exec_vmov s c f)
  obtain ⟨hsplat, hsplatBad, hsplatOdd⟩ := vmove_moves (exec_vsplat s c f)
  exact ⟨vbin_product (exec_vcmul ..), vbin_product (exec_vcmuls ..), vbin_product (exec_vcmulj ..),
    vbin_product (exec_vcmuljs ..), vun_unary (exec_vconj ..) allows_cplx_iff fun _ _ _ => fitPair_eq_complexOf ..,
    vun_unary (exec_vmulj ..) allows_cplx_iff fun _ _ _ => fitPair_eq_complexOf ..,
    fun hn => hmov hn fun h => Bool.false_ne_true h.1, hmovBad, fun hn ho => hsplat hn fun h => ho h.2,
    fun hn ho => hsplatOdd hn ⟨rfl, ho⟩, hsplatBad⟩

end Sys2Proof.Machine

/-!
# Accumulating, widening and narrowing forms (O9)
-/

namespace Sys2Proof.Machine

variable {s : State} {c : Nat} {f : VFmt} {x : Res}

theorem ty_w_pos (y : Core) : 0 < y.ty.w := by
  unfold Core.ty tyOf
  split <;> decide

/-- A sum whose product and sum saturate, by exact integers (R253). -/
theorem satSum_eq {w : Nat} (hw : 0 < w) (d p : Int) : satSum w d p
    = ((narrow true w (d + clampTo w p)).1, (narrow true w (d + clampTo w p)).2 || decide (clampTo w p ≠ p)) := by
  unfold satSum
  simp only [clipTo_eq, sgn_unsgn_clampTo hw, narrow, if_true]
  rw [Bool.or_comm]

theorem accCplx_false (conj : Bool) (t : VTy) (d a b : Nat) : accCplx false conj t d a b
    = complexOf false t.w ((cplxOf t d).1 + (complexProduct conj (cplxOf t a) (cplxOf t b)).1 / 2 ^ (t.w - 1))
        ((cplxOf t d).2 + (complexProduct conj (cplxOf t a) (cplxOf t b)).2 / 2 ^ (t.w - 1)) := by
  simp only [accCplx, cmulQ_eq, fitPair_eq_complexOf, Bool.false_eq_true, if_false]

/-- The saturating complex accumulation clips its products, then its sums. -/
theorem accCplx_true (conj : Bool) {t : VTy} (hw : 0 < t.w) (d a b : Nat) : accCplx true conj t d a b
    = (let p := complexProduct conj (cplxOf t a) (cplxOf t b)
       let q := (p.1 / 2 ^ (t.w - 1), p.2 / 2 ^ (t.w - 1))
       let z := complexOf true t.w ((cplxOf t d).1 + clampTo t.w q.1) ((cplxOf t d).2 + clampTo t.w q.2)
       (z.1, z.2 || decide (clampTo t.w q.1 ≠ q.1) || decide (clampTo t.w q.2 ≠ q.2))) := by
  simp only [accCplx, cmulQ_eq, satSum_eq hw, complexOf, if_true]
  refine Prod.ext rfl ?_
  simp only [Bool.or_assoc, Bool.or_left_comm]

/-- The wide complex accumulation of c16 elements. -/
theorem wideCplx_c16 (conj : Bool) {t : VTy} (hw : t.w = 16) (d a b : Nat) : wideCplx conj t d a b
    = complexOf false 32 (sgn 32 d + (complexProduct conj (cplxOf t a) (cplxOf t b)).1)
        (sgn 32 (d / 2 ^ 32) + (complexProduct conj (cplxOf t a) (cplxOf t b)).2) := by
  rw [wideCplx, fitPair_eq_complexOf, cmulExact_eq_complexProduct, hw]
  simp only [cplxOf, VTy.wide, hw]

section
variable {k : TyOk} {permitted : Prop} {g : VTy → Nat → Nat → Nat → Nat × Bool} {op : Nat → Nat × Bool}

/-- An accumulating form. -/
theorem vacc_writes (hx : x = vacc c f s k g) (hk : k.allows (s.core c).ty = true ↔ permitted)
    (hop : permitted → ∀ i, g (s.core c).ty (vel (s.core c) f.u false f.d i) (vel (s.core c) f.u false f.a i)
      (vel (s.core c) f.u false f.b i) = op i) :
    (permitted ∧ VNames (s.core c) f [(f.d, false), (f.a, false), (f.b, false)] → VWrites s c f false (s.core c).ty.e op x)
      ∧ (¬(permitted ∧ VNames (s.core c) f [(f.d, false), (f.a, false), (f.b, false)]) → Raises s c f.stop .vec 0x01 0 x) :=
  vissue_writesOrRaises hx hk rfl hop

/-- A widening form. -/
theorem vwide_writes {p q : Prop} (hx : x = vwide c f s k g) (hk : k.allows (s.core c).ty = true ↔ p ∧ q)
    (hop : p ∧ q → ∀ i, g (s.core c).ty (vel (s.core c) f.u true f.d i) (vel (s.core c) f.u false f.a i)
      (vel (s.core c) f.u false f.b i) = op i) :
    (p ∧ q ∧ VNames (s.core c) f [(f.d, true), (f.a, false), (f.b, false)] →
        VWrites s c f true (2 * (s.core c).ty.e) op x)
      ∧ (¬(p ∧ q ∧ VNames (s.core c) f [(f.d, true), (f.a, false), (f.b, false)]) → Raises s c f.stop .vec 0x01 0 x) := by
  have h := vissue_writesOrRaises (op := op) hx hk rfl hop
  simpa only [and_assoc] using h

end

/-- VNSRA and VNSRAS (R253). -/
theorem vnarrow_writes {sat : Bool} (hx : x = vnarrow c f s sat) :
    let y := s.core c
    let p (i : Nat) : List (Nat × Bool) := (partsOf y.ty.wide (vel y f.u true f.a i)).map fun q =>
      narrow sat y.ty.w (sgn (2 * y.ty.w) q / 2 ^ ((y.rg f.b).toNat % 64))
    (y.ty.w ≤ 16 ∧ VNames y f [(f.d, false), (f.a, true)] →
        VWrites s c f false y.ty.e (fun i => (ofParts y.ty ((p i).map (·.1)), (p i).any (·.2))) x)
      ∧ (¬(y.ty.w ≤ 16 ∧ VNames y f [(f.d, false), (f.a, true)]) → Raises s c f.stop .vec 0x01 0 x) :=
  vissue_writesOrRaises hx (allows_narrow_iff _) rfl fun _ i => by simp only [fit_floorShift]

/-- VMACQS clips its product, then its sum (R253). -/
theorem execVmacqs_writes (s : State) (c : Nat) (f : VFmt) :
    let y := s.core c
    let w := y.ty.w
    let q (i : Nat) : Int := sgn w (vel y f.u false f.a i) * sgn w (vel y f.u false f.b i) / 2 ^ (w - 1)
    let z (i : Nat) : Nat × Bool := narrow true w (sgn w (vel y f.u false f.d i) + clampTo w (q i))
    let legal := y.ty.cplx = false ∧ VNames y f [(f.d, false), (f.a, false), (f.b, false)]
    (legal → VWrites s c f false y.ty.e (fun i => ((z i).1, (z i).2 || decide (clampTo w (q i) ≠ q i))) (execVmacqs c f s))
      ∧ (¬legal → Raises s c f.stop .vec 0x01 0 (execVmacqs c f s)) :=
  vacc_writes rfl (allows_int_iff _) fun _ i => by
    rw [accParts, satSum_eq (ty_w_pos _), mulQ_eq]

/-- VWIDEN extends the sign of each part (R253). -/
theorem execVwiden_writes (s : State) (c : Nat) (f : VFmt) :
    let y := s.core c
    let legal := y.ty.w ≤ 16 ∧ VNames y f [(f.d, true), (f.a, false)]
    (legal → VWrites s c f true (2 * y.ty.e) (fun i => (ofParts y.ty.wide ((partsOf y.ty (vel y f.u false f.a i)).map fun p =>
        unsgn (2 * y.ty.w) (sgn y.ty.w p)), false)) (execVwiden c f s))
      ∧ (¬legal → Raises s c f.stop .vec 0x01 0 (execVwiden c f s)) := by
  unfold execVwiden vwidenOp
  exact vissue_writesOrRaises rfl (allows_narrow_iff _) rfl fun _ _ => rfl

theorem fit_mulQ (w : Nat) (d a b : Int) : fit false w (d + mulQ w a b) = narrow false w (d + a * b / 2 ^ (w - 1)) := by
  rw [mulQ_eq, fit_eq_narrow]

/-- Settles O9: each form by its shape, its function put as exact integers. -/
theorem vectorAccumulateWidenAndNarrowFollowTheRules : Obligations.VectorAccumulateWidenAndNarrowFollowTheRules := by
  unfold Obligations.VectorAccumulateWidenAndNarrowFollowTheRules
  intro s c f y w a b d wd same widens int3 prod cplx3 cplx3s wide3 wcplx narrows
  have hw := ty_w_pos y
  refine ⟨vacc_writes (exec_vmac ..) (allows_int_iff _) fun _ _ => fit_eq_narrow ..,
    vacc_writes (exec_vmsu ..) (allows_int_iff _) fun _ _ => fit_eq_narrow ..,
    vacc_writes (exec_vmacq ..) (allows_int_iff _) fun _ _ => fit_mulQ ..,
    (execVmacqs_writes s c f).1, (execVmacqs_writes s c f).2,
    vacc_writes (exec_vcmac ..) (allows_cplx_iff _) fun _ _ => accCplx_false ..,
    vacc_writes (exec_vcmacj ..) (allows_cplx_iff _) fun _ _ => accCplx_false ..,
    vacc_writes (exec_vcmacs ..) (allows_cplx_iff _) fun _ _ => accCplx_true _ hw ..,
    vacc_writes (exec_vcmacjs ..) (allows_cplx_iff _) fun _ _ => accCplx_true _ hw ..,
    vwide_writes (exec_vwmul ..) (allows_narrowInt_iff _) fun _ _ => fit_eq_narrow ..,
    vwide_writes (exec_vwmac ..) (allows_narrowInt_iff _) fun _ _ => fit_eq_narrow ..,
    vwide_writes (exec_vwcmac ..) (allows_c16_iff _) fun h _ => wideCplx_c16 _ h.2 ..,
    vwide_writes (exec_vwcmacj ..) (allows_c16_iff _) fun h _ => wideCplx_c16 _ h.2 ..,
    (execVwiden_writes s c f).1, (execVwiden_writes s c f).2, vnarrow_writes (exec_vnsra ..), vnarrow_writes (exec_vnsras ..)⟩

end Sys2Proof.Machine

/-!
# Compares and predicate logic (O10)
-/

namespace Sys2Proof.Machine

variable {s : State} {c : Nat} {f : VFmt} {x : Res}

/-! ## Predicates (R236) -/

theorem testBit_elemSet_one (v i b : Nat) (p : Bool) :
    (elemSet 1 v i (b2n p)).testBit b = if b = i then p else v.testBit b := by
  rw [testBit_elemSet]
  by_cases h : b = i
  · subst h
    rw [if_pos (by omega), if_pos rfl, Nat.one_mul, Nat.sub_self]
    cases p <;> rfl
  · rw [if_neg (by omega), if_neg h]

/-- A predicate of which the bits below a bound are written where the function gives one. -/
theorem getLsbD_kmap (old : BitVec 1024) (n : Nat) (g : Nat → Option Bool) {i : Nat} (hi : i < 1024) :
    (kmap old n g).getLsbD i = if i < n then (g i).getD (old.getLsbD i) else old.getLsbD i := by
  have hfold (m : Nat) : ((List.range m).foldl (fun acc j => match g j with
      | some b => elemSet 1 acc j (b2n b)
      | none => acc) old.toNat).testBit i = if i < m then (g i).getD (old.getLsbD i) else old.getLsbD i := by
    induction m with
    | zero => rfl
    | succ m ih =>
      rw [List.range_succ, List.foldl_append, List.foldl_cons, List.foldl_nil]
      by_cases him : i = m
      · subst him
        rw [if_neg (Nat.lt_irrefl i)] at ih
        rw [if_pos (Nat.lt_succ_self i)]
        cases hg : g i with
        | none => exact ih
        | some b => exact (testBit_elemSet_one ..).trans (if_pos rfl)
      · rw [if_congr (show i < m + 1 ↔ i < m by omega) rfl rfl, ← ih]
        cases hg : g m with
        | none => rfl
        | some b => exact (testBit_elemSet_one ..).trans (if_neg him)
  rw [kmap, BitVec.getLsbD_ofNat, decide_eq_true hi, Bool.true_and]
  exact hfold n

/-- A field names a predicate register. -/
theorem predOk_iff (r : BitVec 5) : predOk r = true ↔ r.toNat < 8 := decide_eq_true_iff

/-! ## The two shapes -/

section
variable {k : TyOk} {permitted : Prop} {op : VTy → Nat → Nat → Bool} {p : Nat → Nat → Bool}

/-- A compare writes the bits of the active elements (R236, R255). -/
theorem vcmp_compares (hx : x = vcmp c f s k op) (hk : k.allows (s.core c).ty = true ↔ permitted)
    (hop : ∀ a b, op (s.core c).ty a b = p a b) :
    let y := s.core c
    let legal := permitted ∧ VNames y f [(f.a, false), (f.b, false)] ∧ f.d.toNat < 8
    (legal → ∃ k : BitVec 1024, Issues s c f.stop { cls := .vec, effs := [.wk (f.d.setWidth 3) k] } x
      ∧ ∀ i < 1024, k.getLsbD i = if y.active f.u f.pm f.k i then p (vel y f.u false f.a i) (vel y f.u false f.b i)
          else (y.kr f.d.toNat).getLsbD i)
    ∧ (¬legal → Raises s c f.stop .vec 0x01 0 x) := by
  intro y legal
  have hd : (!predOk f.d) = true ↔ ¬f.d.toNat < 8 := by rw [← predOk_iff, Bool.not_eq_true', Bool.not_eq_true]
  refine ⟨fun ⟨hp, hn, h8⟩ => ⟨_, vissue_issues hx (hk.2 hp) hn (if_neg (mt hd.1 (not_not_intro h8))) rfl, fun i hi => ?_⟩,
    fun hl => ?_⟩
  · rw [getLsbD_kmap _ _ _ hi]
    by_cases ha : y.active f.u f.pm f.k i = true
    · rw [if_pos (lt_span_of_active ha), if_pos ha, if_pos ha, Option.getD_some, hop]
    · rw [if_neg ha, if_neg ha, Option.getD_none, ite_self]
  · by_cases hn : k.allows y.ty = true ∧ VNames y f [(f.a, false), (f.b, false)]
    · exact vissue_raisesSub hx hn.1 hn.2 (if_pos (hd.2 fun h8 => hl ⟨hk.1 hn.1, hn.2, h8⟩))
    · exact vissue_raises hx hn

end

section
variable {named : Prop} {bad : Bool} {g p : Nat → Bool}

/-- Predicate logic writes every bit below the bound (R236, R255). -/
theorem issue_logic {mk : Core → Nat → Iss} (hx : x = issue c f.stop s mk)
    (hm : mk (s.core c) ((s.core c).pc + 4 * (s.core c).bundle.count) = if f.pm || !predOk f.d || bad then Iss.bad .vec 0
      else { cls := .vec, effs := [.wk (f.d.setWidth 3) (kmap ((s.core c).kr f.d.toNat) ((s.core c).span' f.u) fun i => some (p i))] })
    (hb : bad = false ↔ named) :
    let legal := f.pm = false ∧ f.d.toNat < 8 ∧ named
    (legal → ∃ k : BitVec 1024, Issues s c f.stop { cls := .vec, effs := [.wk (f.d.setWidth 3) k] } x
      ∧ ∀ i < 1024, k.getLsbD i = if i < (s.core c).span' f.u then p i else ((s.core c).kr f.d.toNat).getLsbD i)
    ∧ (¬legal → Raises s c f.stop .vec 0x01 0 x) := by
  have hlegal : ¬(f.pm || !predOk f.d || bad) = true ↔ f.pm = false ∧ f.d.toNat < 8 ∧ named := by
    rw [← hb, ← predOk_iff, Bool.not_eq_true, Bool.or_eq_false_iff, Bool.or_eq_false_iff, Bool.not_eq_false', and_assoc]
  subst hx
  exact ⟨fun hl => ⟨_, issue_issues _ _ (hm.trans (if_neg (hlegal.2 hl))) rfl rfl rfl rfl, fun i hi => getLsbD_kmap _ _ _ hi⟩,
    fun hl => issue_raises _ _ _ (hm.trans (if_pos (not_not.1 (mt hlegal.1 hl))))⟩

end

theorem klogic_logic {op : Bool → Bool → Bool} (hx : x = klogic c f s op) :
    let y := s.core c
    let legal := f.pm = false ∧ f.d.toNat < 8 ∧ f.a.toNat < 8 ∧ f.b.toNat < 8
    (legal → ∃ k : BitVec 1024, Issues s c f.stop { cls := .vec, effs := [.wk (f.d.setWidth 3) k] } x
      ∧ ∀ i < 1024, k.getLsbD i = if i < y.span' f.u then
          op ((y.kr f.a.toNat).getLsbD i) ((y.kr f.b.toNat).getLsbD i) else (y.kr f.d.toNat).getLsbD i)
    ∧ (¬legal → Raises s c f.stop .vec 0x01 0 x) :=
  issue_logic (bad := !predOk f.a || !predOk f.b) hx (by rw [← Bool.or_assoc])
    (by rw [Bool.or_eq_false_iff, Bool.not_eq_false', Bool.not_eq_false', predOk_iff, predOk_iff])

theorem klogic1_logic {op : Bool → Bool} {a : BitVec 5} {named : Prop} (hx : x = klogic1 c f s a op)
    (ha : a.toNat < 8 ↔ named) :
    let y := s.core c
    let legal := f.pm = false ∧ f.d.toNat < 8 ∧ named
    (legal → ∃ k : BitVec 1024, Issues s c f.stop { cls := .vec, effs := [.wk (f.d.setWidth 3) k] } x
      ∧ ∀ i < 1024, k.getLsbD i = if i < y.span' f.u then op ((y.kr a.toNat).getLsbD i) else (y.kr f.d.toNat).getLsbD i)
    ∧ (¬legal → Raises s c f.stop .vec 0x01 0 x) :=
  issue_logic (bad := !predOk a) hx rfl (by rw [Bool.not_eq_false', predOk_iff, ha])

/-- Settles O10: the compares and the predicate logic by their two shapes. -/
theorem vectorPredicateOperationsFollowTheRules : Obligations.VectorPredicateOperationsFollowTheRules := by
  unfold Obligations.VectorPredicateOperationsFollowTheRules
  intro s c f y compares logic ka kb e int' two
  exact ⟨vcmp_compares (exec_vcmpeq ..) (allows_all_iff _) fun _ _ => rfl,
    vcmp_compares (exec_vcmpne ..) (allows_all_iff _) fun _ _ => by rw [Bool.eq_iff_iff, decide_eq_true_iff, bne_iff_ne],
    vcmp_compares (exec_vcmplt ..) (allows_int_iff _) fun _ _ => rfl,
    vcmp_compares (exec_vcmple ..) (allows_int_iff _) fun _ _ => rfl,
    vcmp_compares (exec_vcmpltu ..) (allows_int_iff _) fun _ _ => rfl,
    vcmp_compares (exec_vcmpleu ..) (allows_int_iff _) fun _ _ => rfl,
    klogic_logic (exec_kand ..), klogic_logic (exec_kor ..), klogic_logic (exec_kxor ..), klogic_logic (exec_kandn ..),
    klogic1_logic (exec_knot ..) Iff.rfl, klogic1_logic (exec_kset ..) (by simp)⟩

end Sys2Proof.Machine

/-!
# Reductions, moves and control (O11)
-/

namespace Sys2Proof.Machine

variable {s : State} {c : Nat} {f : VFmt} {x : Res} {k : TyOk} {regs : List (BitVec 5 × Bool)}

/-! ## Extremes (R239) -/

/-- The extreme of the elements so far, with its index, after one more element. -/
def furthest (beyond : Int → Int → Bool) (val : Nat → Int) (acc : Option (Int × Nat)) (i : Nat) : Option (Int × Nat) :=
  match acc with
  | none => some (val i, i)
  | some (v, j) => if beyond (val i) v then some (val i, i) else some (v, j)

/-- Element i of a list is the extreme of its elements, and the lowest that is. -/
def IsExtreme (key : Int → Int) (val : Nat → Int) (l : List Nat) (i : Nat) : Prop :=
  i ∈ l ∧ ∀ j ∈ l, key (val i) ≤ key (val j) ∧ (j < i → key (val i) < key (val j))

section
variable {beyond : Int → Int → Bool} {key : Int → Int} (hkey : ∀ a b, beyond a b = true ↔ key a < key b) {val : Nat → Int}

/-- A list has one lowest extreme. -/
theorem IsExtreme.unique {l : List Nat} {i j : Nat} (hi : IsExtreme key val l i) (hj : IsExtreme key val l j) : i = j := by
  have h1 := hi.2 j hj.1
  have h2 := hj.2 i hi.1
  rcases lt_trichotomy i j with h | h | h
  · have := h2.2 h
    omega
  · exact h
  · have := h1.2 h
    omega

include hkey in
/-- The extreme of a rising list of elements. -/
theorem foldl_furthest {l : List Nat} (hl : l.Pairwise (· < ·)) (hne : l ≠ []) :
    ∃ i, l.foldl (furthest beyond val) none = some (val i, i) ∧ IsExtreme key val l i := by
  induction l using List.reverseRecOn with
  | nil => exact absurd rfl hne
  | append_singleton l a ih =>
    obtain ⟨hrise, -, hlast⟩ := List.pairwise_append.1 hl
    rw [List.foldl_append, List.foldl_cons, List.foldl_nil]
    by_cases hnil : l = []
    · subst hnil
      exact ⟨a, rfl, by simp [IsExtreme]⟩
    · obtain ⟨i, hfold, hmem, hext⟩ := ih hrise hnil
      have hia := hlast i hmem a List.mem_cons_self
      rw [hfold, furthest]
      by_cases hb : beyond (val a) (val i) = true
      · have hlt := (hkey _ _).1 hb
        refine ⟨a, if_pos hb, List.mem_append_right _ List.mem_cons_self, fun j hj => ?_⟩
        rcases List.mem_append.1 hj with hj | hj
        · have := (hext j hj).1
          omega
        · rw [List.mem_singleton.1 hj]
          omega
      · have hge := mt (hkey _ _).2 hb
        refine ⟨i, if_neg hb, List.mem_append_left _ hmem, fun j hj => ?_⟩
        rcases List.mem_append.1 hj with hj | hj
        · exact hext j hj
        · rw [List.mem_singleton.1 hj]
          omega

end

theorem mem_activeIx {y : Core} {i : Nat} : i ∈ activeIx y f ↔ y.active f.u f.pm f.k i = true := by
  rw [activeIx, List.mem_filter, List.mem_range]
  exact and_iff_right_of_imp lt_span_of_active

/-- The number that an index reduction compares. -/
def redVal (y : Core) (f : VFmt) (signed : Bool) (i : Nat) : Int :=
  if signed then sgn y.ty.e (vel y f.u false f.b i) else (vel y f.u false f.b i : Int)

/-- The extreme of the active elements with its index, where there is one. -/
def extremeOf (y : Core) (f : VFmt) (beyond : Int → Int → Bool) (val : Nat → Int) : Option (Int × Nat) :=
  (activeIx y f).foldl (furthest beyond val) none

/-- The pair of registers that an index reduction writes (R255). -/
def extremePair (ident : Int) : Option (Int × Nat) → BitVec 32 × BitVec 32
  | some (v, i) => (BitVec.ofInt 32 v, BitVec.ofNat 32 i)
  | none => (BitVec.ofInt 32 ident, 0xFFFFFFFF)

theorem extremeOf_none {y : Core} {beyond : Int → Int → Bool} {val : Nat → Int} (h : ∀ i, ¬y.active f.u f.pm f.k i = true) :
    extremeOf y f beyond val = none := by
  rw [extremeOf, List.eq_nil_iff_forall_not_mem.2 fun i hi => h i (mem_activeIx.1 hi)]
  rfl

section
variable {beyond : Int → Int → Bool} {key : Int → Int} (hkey : ∀ a b, beyond a b = true ↔ key a < key b)

include hkey in
/-- The lowest active element that no other is beyond is the extreme. -/
theorem extremeOf_some {y : Core} {val : Nat → Int} (hinj : Function.Injective key) {i : Nat}
    (hi : y.active f.u f.pm f.k i = true) (hmax : ∀ j, y.active f.u f.pm f.k j = true → ¬key (val j) < key (val i))
    (hlow : ∀ j < i, y.active f.u f.pm f.k j = true → val j ≠ val i) : extremeOf y f beyond val = some (val i, i) := by
  have hne : activeIx y f ≠ [] := List.ne_nil_of_mem (mem_activeIx.2 hi)
  obtain ⟨j, hfold, hj⟩ := foldl_furthest hkey (val := val) (List.pairwise_lt_range.filter _) hne
  have hext : IsExtreme key val (activeIx y f) i := by
    refine ⟨mem_activeIx.2 hi, fun m hm => ?_⟩
    have hge := hmax m (mem_activeIx.1 hm)
    refine ⟨by omega, fun hmi => ?_⟩
    have := hinj.ne (hlow m hmi (mem_activeIx.1 hm))
    omega
  rw [hext.unique hj]
  exact hfold

/-- An index reduction writes its pair of registers. -/
theorem vredIx_issues {signed : Bool} {ident : Nat → Int} (hx : x = vredIx c f s signed ident beyond)
    (hc : (s.core c).ty.cplx = false) (hn : VNames (s.core c) f [(f.b, false)]) (hd : f.d.getLsbD 0 = false)
    {p : BitVec 32 × BitVec 32}
    (hp : extremePair (ident (s.core c).ty.e) (extremeOf (s.core c) f beyond (redVal (s.core c) f signed)) = p) :
    Issues s c f.stop { cls := .vec, writes := [.g f.d.toNat, .g (f.d + 1).toNat]
                        effs := [.wg f.d p.1, .wg (f.d + 1) p.2, .vsync] } x :=
  hp ▸ vissue_issues hx ((allows_int_iff _).2 hc) hn (if_neg (ne_true_of_eq_false hd)) rfl

include hkey in
/-- An index reduction (R239, R255). -/
theorem vredIx_extreme {signed : Bool} {ident : Nat → Int} {val : Nat → Int} {ident' : Int} {beyond' : Int → Int → Prop}
    (hx : x = vredIx c f s signed ident beyond) (hinj : Function.Injective key)
    (hbeyond : ∀ a b, beyond' a b ↔ key a < key b) (hident : ident (s.core c).ty.e = ident')
    (hval : ∀ i, redVal (s.core c) f signed i = val i) :
    let y := s.core c
    let act (i : Nat) : Prop := y.active f.u f.pm f.k i = true
    let pair (p q : BitVec 32) : Prop :=
      Issues s c f.stop { cls := .vec, writes := [.g f.d.toNat, .g (f.d + 1).toNat]
                          effs := [.wg f.d p, .wg (f.d + 1) q, .vsync] } x
    (y.ty.cplx = false → VNames y f [(f.b, false)] → f.d.getLsbD 0 = false →
        (∀ i, act i → (∀ j, act j → ¬beyond' (val j) (val i)) → (∀ j < i, act j → val j ≠ val i) →
          pair (BitVec.ofInt 32 (val i)) (BitVec.ofNat 32 i))
        ∧ ((∀ i, ¬act i) → pair (BitVec.ofInt 32 ident') 0xFFFFFFFF))
      ∧ (¬(y.ty.cplx = false ∧ VNames y f [(f.b, false)]) → Raises s c f.stop .vec 0x01 0 x)
      ∧ (y.ty.cplx = false → VNames y f [(f.b, false)] → f.d.getLsbD 0 = true → Raises s c f.stop .vec 0x01 4 x) := by
  obtain rfl : redVal (s.core c) f signed = val := funext hval
  simp only [hbeyond]
  refine ⟨fun hc hn hd => ⟨fun i hi hmax hlow => ?_, fun hnone => ?_⟩, fun h => vissue_raises hx (by rwa [allows_int_iff]),
    fun hc hn hd => vissue_raisesSub hx ((allows_int_iff _).2 hc) hn (if_pos hd)⟩
  · exact vredIx_issues (p := (_, _)) hx hc hn hd (congrArg _ (extremeOf_some hkey hinj hi hmax hlow))
  · exact vredIx_issues (p := (_, _)) hx hc hn hd ((congrArg _ (extremeOf_none hnone)).trans (by rw [hident]; rfl))

end

/-! ## The other reductions (R239, R255) -/

/-- The least of a number and a list. -/
theorem foldl_min_spec (l : List Nat) (n : Nat) :
    l.foldl min n ≤ n ∧ (∀ p ∈ l, l.foldl min n ≤ p) ∧ (l.foldl min n = n ∨ l.foldl min n ∈ l) := by
  induction l generalizing n with
  | nil => simp
  | cons a l ih =>
    obtain ⟨hle, hall, hmem⟩ := ih (min n a)
    rw [List.foldl_cons]
    refine ⟨by omega, fun p hp => ?_, ?_⟩
    · rcases List.mem_cons.1 hp with rfl | hp
      · omega
      · exact hall p hp
    · rcases hmem with h | h
      · rw [h, List.mem_cons]
        omega
      · exact .inr (List.mem_cons_of_mem _ h)

/-- A synchronising instruction that writes gD. -/
theorem vissue_gives {mk : Core → Nat → Iss} {v : BitVec 32} (hx : x = vissue c f s k regs mk)
    (hk : k.allows (s.core c).ty = true) (hn : VNames (s.core c) f regs)
    (hm : mk (s.core c) ((s.core c).pc + 4 * (s.core c).bundle.count) = toGSync f.d v) :
    Issues s c f.stop { cls := .vec, writes := [.g f.d.toNat], effs := [.wg f.d v, .vsync] } x :=
  vissue_issues hx hk hn hm rfl

/-- VBEXP gives the least redundant sign bits of the active elements (R239). -/
theorem execVbexp_gives (hn : VNames (s.core c) f [(f.b, false)]) :
    let y := s.core c
    let act (i : Nat) : Prop := y.active f.u f.pm f.k i = true
    let parts (i : Nat) : List Nat := partsOf y.ty (vel y f.u false f.b i)
    ∃ n, Issues s c f.stop { cls := .vec, writes := [.g f.d.toNat], effs := [.wg f.d (BitVec.ofNat 32 n), .vsync] }
          (execVbexp c f s)
      ∧ n ≤ y.ty.w - 1 ∧ (∀ i, act i → ∀ p ∈ parts i, n ≤ rsb y.ty.w p)
      ∧ (n = y.ty.w - 1 ∨ ∃ i, act i ∧ ∃ p ∈ parts i, rsb y.ty.w p = n) := by
  intro y act parts
  obtain ⟨hle, hall, hmem⟩ := foldl_min_spec ((activeIx y f).flatMap fun i => (parts i).map (rsb y.ty.w)) (y.ty.w - 1)
  refine ⟨_, vissue_gives rfl ((allows_all_iff _).2 trivial) hn ?_, hle, fun i hi p hp => hall _ ?_, hmem.imp_right ?_⟩
  · rw [List.foldl_flatMap]
  · exact List.mem_flatMap.2 ⟨i, mem_activeIx.2 hi, List.mem_map_of_mem hp⟩
  · rw [List.mem_flatMap]
    rintro ⟨i, hi, hp⟩
    exact ⟨i, mem_activeIx.1 hi, List.mem_map.1 hp⟩

/-- The sum over the active elements. -/
theorem foldl_activeIx_add (y : Core) (g : Nat → Int) : (activeIx y f).foldl (fun a i => a + g i) 0
    = ((List.range (y.span' f.u)).map fun i => if y.active f.u f.pm f.k i then g i else 0).sum := by
  rw [← List.foldl_map (f := g) (g := (· + ·)), ← List.sum_eq_foldl, activeIx]
  induction List.range (y.span' f.u) with
  | nil => rfl
  | cons i l ih =>
    rw [List.filter_cons, List.map_cons, List.sum_cons, ← ih]
    split
    · rw [List.map_cons, List.sum_cons]
    · rw [zero_add]

/-! ## Predicates in a general register (R255) -/

/-- A synchronising instruction that reads a predicate register. -/
theorem issue_gives {mk : Core → Nat → Iss} {v : BitVec 32} (hx : x = issue c f.stop s mk)
    (hm : mk (s.core c) ((s.core c).pc + 4 * (s.core c).bundle.count) = if !predOk f.a then Iss.bad .vec 0 else toGSync f.d v)
    (ha : f.a.toNat < 8) :
    Issues s c f.stop { cls := .vec, writes := [.g f.d.toNat], effs := [.wg f.d v, .vsync] } x := by
  refine hx ▸ issue_issues _ _ (hm.trans (if_neg ?_)) rfl rfl rfl rfl
  rw [(predOk_iff _).2 ha]
  decide

/-- KFIRST gives the lowest set bit. -/
theorem execKfirst_gives (ha : f.a.toNat < 8) :
    let ka (i : Nat) : Prop := i < (s.core c).span' f.u ∧ ((s.core c).kr f.a.toNat).getLsbD i = true
    let gives (v : BitVec 32) : Prop :=
      Issues s c f.stop { cls := .vec, writes := [.g f.d.toNat], effs := [.wg f.d v, .vsync] } (execKfirst c f s)
    (∀ i, ka i → (∀ j < i, ¬ka j) → gives (BitVec.ofNat 32 i)) ∧ ((∀ i, ¬ka i) → gives 0xFFFFFFFF) := by
  intro ka gives
  refine ⟨fun i hi hlow => issue_gives rfl ?_ ha, fun hnone => issue_gives rfl ?_ ha⟩
  · rw [(List.find?_range_eq_some (i := i)).2]
    refine ⟨hi.2, List.mem_range.2 hi.1, fun j hj => ?_⟩
    rw [Bool.not_eq_true', ← Bool.not_eq_true]
    exact fun h => hlow j hj ⟨hj.trans hi.1, h⟩
  · rw [List.find?_eq_none.2 fun i hi h => hnone i ⟨List.mem_range.1 hi, h⟩]

/-! ## Element moves (R255) -/

theorem VWrites.congr {wide : Bool} {e : Nat} {op op' : Nat → Nat × Bool} (h : VWrites s c f wide e op x)
    (he : ∀ i, (op i).1 % 2 ^ e = (op' i).1 % 2 ^ e ∧ (op i).2 = (op' i).2) : VWrites s c f wide e op' x := by
  obtain ⟨v, clip, hissues, hact, hrest, hclip⟩ := h
  refine ⟨v, clip, hissues, fun i hi => (hact i hi).trans (he i).1, hrest, hclip.trans (exists_congr fun i => ?_)⟩
  rw [(he i).2]

theorem execVmvv_writes (hk : (s.core c).ty.cplx = true → (s.core c).ty.w = 16) (hn : VNames (s.core c) f [(f.d, false)]) :
    VWrites s c f false (s.core c).ty.e (fun i =>
      (if i = ((s.core c).rg f.a).toNat then ((s.core c).rg f.b).toNat else vel (s.core c) f.u false f.d i, false))
      (execVmvv c f s) := by
  refine (vissue_writes rfl ((allows_intC16_iff _).2 hk) hn rfl fun _ => rfl).congr fun i => ⟨?_, rfl⟩
  dsimp only
  split
  · exact Nat.mod_mod _ _
  · rfl

/-! ## Control (R230, R248, R256) -/

/-- The element bits of a type by its code (R227). -/
theorem tyOf_of_lt {n : Nat} (h : n < 5) : ∃ t, tyOf n = some t
    ∧ t.e = if n = 0 then 8 else if n = 1 then 16 else if n = 4 then 64 else 32 := by
  interval_cases n <;> exact ⟨_, rfl, rfl⟩

theorem tyOf_of_ge {n : Nat} (h : 5 ≤ n) : tyOf n = none := by
  obtain ⟨m, rfl⟩ := Nat.exists_eq_add_of_le' h
  rfl

section
variable {stop : Bool} {d a : BitVec 5} {etype : BitVec 3} {grp : BitVec 2} {res : BitVec 5}

/-- SPANSET sets VTYPE, and SPAN to the least of gA and VLMAX (R230). -/
theorem execSpanset_issues (hr : res = 0) (ht : etype.toNat < 5) :
    let bitsOf : Nat := if etype.toNat = 0 then 8 else if etype.toNat = 1 then 16 else if etype.toNat = 4 then 64 else 32
    let n := min ((s.core c).rg a).toNat (1024 * 2 ^ grp.toNat / bitsOf)
    Issues s c stop { cls := .vec, writes := [.g d.toNat], effs := [.wg d (BitVec.ofNat 32 n), .spanset (grp ++ etype) n] }
      (execSpanset c stop d a etype grp res s) := by
  obtain ⟨t, hty, he⟩ := tyOf_of_lt ht
  intro bitsOf n
  refine issue_issues _ _ ?_ rfl rfl rfl rfl
  simp only [hty]
  rw [if_neg (not_not_intro hr), vlMax, he]

theorem execSpanset_raises (h : res ≠ 0 ∨ 5 ≤ etype.toNat) :
    Raises s c stop .vec 0x01 0 (execSpanset c stop d a etype grp res s) := by
  refine issue_raises _ _ _ ?_
  dsimp only
  split
  · rfl
  · rename_i t hty
    refine if_pos (h.resolve_right fun h5 => ?_)
    rw [tyOf_of_ge h5] at hty
    cases hty

end

section
variable {unused : List (BitVec 5)} {mk : Core → Iss}

/-- A control operation whose unused fields are zero (R256). -/
theorem vctl_issues {effs : List Eff} (hx : x = vctl c f s unused mk) (hp : f.u = false ∧ f.pm = false ∧ f.k = 0)
    (hz : ∀ r ∈ unused, r = 0) (hm : mk (s.core c) = { cls := .vec, effs }) (he : effs.all Eff.ofCore = true) :
    Issues s c f.stop { cls := .vec, effs } x := by
  obtain ⟨hu, hpm, hk⟩ := hp
  refine hx ▸ issue_issues _ _ ((if_neg ?_).trans hm) rfl rfl rfl he
  simpa [hu, hpm, hk] using hz

theorem vctl_raises (hx : x = vctl c f s unused mk) (hp : ¬(f.u = false ∧ f.pm = false ∧ f.k = 0)) :
    Raises s c f.stop .vec 0x01 0 x := by
  refine hx ▸ issue_raises _ _ _ (if_pos ?_)
  contrapose! hp
  simp only [Bool.not_eq_true, Bool.or_eq_false_iff, decide_eq_false_iff_not, not_not] at hp
  exact ⟨hp.1.1.1, hp.1.1.2, hp.1.2⟩

end

/-- An operand of one register. -/
theorem vop_one (y : Core) (u : Bool) (r : Nat) : y.vop u r 1 = if u then (vget y.w r 0).toNat else (vget y.h r 0).toNat := by
  cases u <;> simp [Core.vop]

/-- VMOVHW replaces the low 128 bits (R256). -/
theorem execVmovhw_issues (hp : f.u = false ∧ f.pm = false ∧ f.k = 0) (ha : f.a = 0) :
    ∃ v, Issues s c f.stop { cls := .vec, effs := [.ww f.d 1 v] } (execVmovhw c f s)
      ∧ elemAt 128 v 0 = (vget (s.core c).h f.b.toNat 0).toNat
      ∧ ∀ i, 0 < i → elemAt 128 v i = elemAt 128 (vget (s.core c).w f.d.toNat 0).toNat i := by
  refine ⟨_, vctl_issues rfl hp (by simpa using ha) rfl rfl, ?_, fun i hi => ?_⟩
  · rw [elemAt_elemSet, if_pos rfl, vop_one]
    exact Nat.mod_eq_of_lt (BitVec.isLt _)
  · rw [elemAt_elemSet, if_neg hi.ne', vop_one]
    rfl

theorem execVmovwh_issues (hp : f.u = false ∧ f.pm = false ∧ f.k = 0) (ha : f.a = 0) : Issues s c f.stop
    { cls := .vec, effs := [.wh f.d (BitVec.ofNat 128 (vget (s.core c).w f.b.toNat 0).toNat)] } (execVmovwh c f s) :=
  vctl_issues rfl hp (by simpa using ha) (by rw [vop_one]; rfl) rfl

/-! ## The obligation -/

/-- Settles O11: the extremes by the lowest extreme of a list, the others by their value. -/
theorem vectorReductionsMovesAndControlFollowTheRules : Obligations.VectorReductionsMovesAndControlFollowTheRules := by
  unfold Obligations.VectorReductionsMovesAndControlFollowTheRules
  intro s c f stop d a etype grp res y e el act gives pair extreme ka plain'
  have hlt (p q : Int) : decide (p < q) = true ↔ id p < id q := decide_eq_true_iff
  have hgt (p q : Int) : decide (q < p) = true ↔ -p < -q := by rw [decide_eq_true_iff]; omega
  refine ⟨vredIx_extreme hgt (exec_vredmaxix ..) neg_injective (fun _ _ => neg_lt_neg_iff.symm) (by rw [minS]; push_cast; rfl)
      fun _ => rfl,
    vredIx_extreme hlt (exec_vredminix ..) Function.injective_id (fun _ _ => Iff.rfl) (by rw [maxS]; push_cast; rfl) fun _ => rfl,
    vredIx_extreme hgt (exec_vredmaxux ..) neg_injective (fun _ _ => neg_lt_neg_iff.symm) rfl fun _ => rfl,
    vredIx_extreme hlt (exec_vredminux ..) Function.injective_id (fun _ _ => Iff.rfl) (by push_cast; rfl) fun _ => rfl,
    execVbexp_gives, fun hc hn => vissue_gives (exec_vredsum ..) ((allows_int_iff _).2 hc) hn ?_,
    fun hk hn => vissue_gives (exec_vmvg ..) ((allows_intC16_iff _).2 hk) hn rfl, execVmvv_writes,
    fun ha => ⟨_, List.nodup_range.filter _, fun i => ?_, issue_gives (exec_kpopc ..) rfl ha⟩, execKfirst_gives,
    fun hn => vissue_writes (exec_viota ..) ((allows_all_iff _).2 trivial) hn rfl fun _ => rfl,
    execSpanset_issues, execSpanset_raises, execVmovhw_issues, execVmovwh_issues,
    fun hp hd ha hb => vctl_issues (exec_vsync ..) hp (by simp [hd, ha, hb]) rfl rfl,
    fun hp => ⟨vctl_raises (exec_vmovhw ..) hp, vctl_raises (exec_vmovwh ..) hp, vctl_raises (exec_vsync ..) hp⟩⟩
  · rw [foldl_activeIx_add]
  · rw [List.mem_filter, List.mem_range]

end Sys2Proof.Machine

/-!
# Writes of TCM of any length

A write to one core's TCM, powered and with good words, opens its lines and stores its bytes, whatever number of words and
lines it covers (R204, R206, R412).
-/

namespace Sys2Proof.Machine

variable {s t : State} {c ea n : Nat}

/-! ## What a write leaves unchanged -/

/-- A state of which only one core's lines and the stored bytes were changed, by what was changed. -/
theorem OnlyTcm.eq (h : OnlyTcm s t c) :
    t = { s with cores := t.cores, mem := { s.mem with bytes := t.mem.bytes, bad := t.mem.bad } } := by
  obtain ⟨-, -, hmem, hrest⟩ := h
  have hm : t.mem = { s.mem with bytes := t.mem.bytes, bad := t.mem.bad } := by rw [← hmem]
  have ht : t = { ({ t with cores := s.cores, mem := s.mem } : State) with cores := t.cores, mem := t.mem } := rfl
  rw [hrest, hm] at ht
  exact ht

theorem OnlyTcm.refl (s : State) (c : Nat) : OnlyTcm s s c := ⟨rfl, fun _ _ => rfl, rfl, rfl⟩

theorem OnlyTcm.trans {u : State} (h : OnlyTcm s t c) (g : OnlyTcm t u c) : OnlyTcm s u c := by
  refine ⟨?_, fun j hj => (g.others j hj).trans (h.others j hj), ?_, ?_⟩
  · rw [g.core, h.core]
  · rw [g.eq, h.eq]
  · rw [g.eq, h.eq]

/-- Of a state a write to one core's TCM changed only that, and it made no word bad. -/
structure WritesTcm (s t : State) (c : Nat) : Prop where
  only : OnlyTcm s t c
  bad : ∀ u, kget s.mem.bad u = none → kget t.mem.bad u = none

theorem WritesTcm.refl (s : State) (c : Nat) : WritesTcm s s c := ⟨.refl s c, fun _ h => h⟩

theorem WritesTcm.trans {u : State} (h : WritesTcm s t c) (g : WritesTcm t u c) : WritesTcm s u c :=
  ⟨h.only.trans g.only, fun a ha => g.bad a (h.bad a ha)⟩

/-- Good TCM stays good. -/
theorem WritesTcm.tcmGood (h : WritesTcm s t c) (hg : TcmGood s c ea n) : TcmGood t c ea n := by
  obtain ⟨hlim, hgate, hfirst, hlast, husable, hbad⟩ := hg
  refine ⟨hlim, ?_, ?_, ?_, ?_, fun u hu => h.bad u (hbad u hu)⟩
  all_goals rw [h.only.eq]
  · exact hgate
  · exact hfirst
  · exact hlast
  · exact husable

/-! ## The lines of a write (R204) -/

/-- What opening lines does: it changes no byte as TCM reads, and the lines are open. -/
theorem foldl_openLine (L : List Nat) (s : State) (c : Nat) :
    WritesTcm s (L.foldl (fun t l => openLine t c l) s) c
      ∧ (∀ a, tcmByte (L.foldl (fun t l => openLine t c l) s) c a = tcmByte s c a)
      ∧ ∀ j, j ∈ ((L.foldl (fun t l => openLine t c l) s).core c).lines ↔ j ∈ L ∨ j ∈ (s.core c).lines := by
  induction L generalizing s with
  | nil => exact ⟨.refl s c, fun _ => rfl, fun j => by simp⟩
  | cons l L ih =>
    obtain ⟨hw, hbyte, hlines⟩ := ih (openLine s c l)
    refine ⟨.trans ⟨openLine_onlyTcm s c l, fun _ => openLine_bad⟩ hw, fun a => (hbyte a).trans (tcmByte_openLine a), fun j => ?_⟩
    rw [List.foldl_cons, hlines, mem_lines_openLine, List.mem_cons]
    tauto

/-! ## The words of a write (R412) -/

/-- A state with other stored bytes and bad words. -/
def State.withCells (s : State) (bytes : List Host.Cell) (bad : List (Nat × BadWord)) : State :=
  { s with mem := { s.mem with bytes, bad } }

@[simp] theorem State.withCells_bytes (s : State) (bytes : List Host.Cell) (bad : List (Nat × BadWord)) :
    (s.withCells bytes bad).mem.bytes = bytes := rfl

@[simp] theorem State.core_withCells (s : State) (bytes : List Host.Cell) (bad : List (Nat × BadWord)) (j : Nat) :
    (s.withCells bytes bad).core j = s.core j := rfl

@[simp] theorem State.withCells_withCells (s : State) (bytes bytes' : List Host.Cell) (bad bad' : List (Nat × BadWord)) :
    (s.withCells bytes bad).withCells bytes' bad' = s.withCells bytes' bad' := rfl

/-- A byte after a piece of a list of bytes was stored at its place. -/
theorem mget_msetAll_piece {m : List Host.Cell} {a p q : Nat} {b : List Byte} (hp : a ≤ p) (hq : q ≤ a + b.length) (k : Nat) :
    mget (msetAll m p (cut b (p - a) (q - p))) k = if p ≤ k ∧ k < q then b.getD (k - a) 0 else mget m k := by
  have hlen : (cut b (p - a) (q - p)).length = q - p := by
    rw [cut, List.length_take, List.length_drop, Nat.min_eq_left (by omega)]
  split
  next h =>
    obtain ⟨i, rfl⟩ := Nat.exists_eq_add_of_le h.1
    have hi : i < q - p := by omega
    rw [mget_msetAll_inside _ _ _ (by rwa [hlen]), List.getD_eq_getElem _ _ (by omega)]
    simp only [cut, List.getElem_take, List.getElem_drop, Nat.sub_add_comm hp]
  next h => exact mget_msetAll_outside _ _ (by omega)

/-- The part of a write that lies in a word. -/
theorem mget_msetAll_part {m : List Host.Cell} {u a : Nat} {b : List Byte} (hu : u % 8 = 0) (k : Nat) :
    mget (msetAll m (max u a) (cut b (max u a - a) (min (u + 8) (a + b.length) - max u a))) k
      = if (a ≤ k ∧ k < a + b.length) ∧ k / 8 * 8 = u then b.getD (k - a) 0 else mget m k := by
  have hword : k / 8 * 8 = u ↔ u ≤ k ∧ k < u + 8 := by omega
  rw [mget_msetAll_piece (Nat.le_max_right _ _) (Nat.min_le_right _ _)]
  refine if_congr ?_ rfl rfl
  rw [hword, Nat.max_le, Nat.lt_min]
  tauto

/-- A good word takes the part of a write that lies in it. -/
theorem writeWord_part {m : MemAt} {u a : Nat} {b : List Byte} (hm : unitOf m = 8) (hu : u % 8 = 0)
    (hg : kget s.mem.bad u = none) (hd : memAt s u ≠ .dram) :
    ∃ bytes bad, writeWord s m u a b = (s.withCells bytes bad, none)
      ∧ (∀ v, kget s.mem.bad v = none → kget bad v = none)
      ∧ ∀ k, mget bytes k = if (a ≤ k ∧ k < a + b.length) ∧ k / 8 * 8 = u then b.getD (k - a) 0 else mget s.mem.bytes k := by
  have hmerge : mergeWord s u = (s, none) := by simp [mergeWord, badAt, hg, unwritten, unfilled, hd]
  simp only [writeWord, hm, hmerge]
  by_cases hwhole : min (u + 8) (a + b.length) - max u a = 8
  · simp only [decide_eq_true hwhole, if_true]
    refine ⟨_, kdel s.mem.bad u, rfl, fun v hv => ?_, mget_msetAll_part hu⟩
    by_cases hvu : v = u
    · rw [hvu, kget_kdel]
    · rw [kget_kdel_ne _ _ _ hvu, hv]
  · simp only [decide_eq_false hwhole, Bool.false_eq_true, if_false]
    exact ⟨_, s.mem.bad, rfl, fun _ h => h, mget_msetAll_part hu⟩

/-- The words of a list take their parts of a write. -/
theorem writeWords_parts {m : MemAt} {a : Nat} {b : List Byte} (hm : unitOf m = 8) (us : List Nat) (s : State)
    (h : ∀ u ∈ us, u % 8 = 0 ∧ kget s.mem.bad u = none ∧ memAt s u ≠ .dram) :
    ∃ bytes bad, writeWords s m a b us = (s.withCells bytes bad, none)
      ∧ (∀ v, kget s.mem.bad v = none → kget bad v = none)
      ∧ ∀ k, mget bytes k
          = if (a ≤ k ∧ k < a + b.length) ∧ k / 8 * 8 ∈ us then b.getD (k - a) 0 else mget s.mem.bytes k := by
  induction us generalizing s with
  | nil => exact ⟨_, _, rfl, fun _ h => h, fun k => by simp⟩
  | cons u us ih =>
    obtain ⟨hu, hg, hd⟩ := h u List.mem_cons_self
    obtain ⟨bytes, bad, hword, hkeep, hbyte⟩ := writeWord_part (b := b) (a := a) hm hu hg hd
    obtain ⟨bytes', bad', hwords, hkeep', hbyte'⟩ := ih (s.withCells bytes bad) fun v hv => by
      obtain ⟨hv8, hvg, hvd⟩ := h v (List.mem_cons_of_mem _ hv)
      exact ⟨hv8, hkeep v hvg, hvd⟩
    refine ⟨bytes', bad', ?_, fun v hv => hkeep' v (hkeep v hv), fun k => ?_⟩
    · simp only [writeWords, hword, hwords, State.withCells_withCells]
    · rw [hbyte', State.withCells_bytes, hbyte, ← ite_or]
      exact if_congr (by rw [← and_or_left, or_comm, List.mem_cons]) rfl rfl

/-- The block of an address of a range is one of the range's blocks. -/
theorem exists_block {w a k : Nat} (hw : 0 < w) (hlo : a ≤ k) (hhi : k < a + n) :
    ∃ i < (a + n + w - 1) / w - a / w, a / w + i = k / w := by
  have hle : a / w ≤ k / w := Nat.div_le_div_right hlo
  have hlt : k / w < (a + n + w - 1) / w := by
    rw [Nat.lt_iff_add_one_le, ← Nat.add_div_right k hw]
    exact Nat.div_le_div_right (by omega)
  exact ⟨k / w - a / w, Nat.sub_lt_sub_right hle hlt, Nat.add_sub_cancel' hle⟩

theorem mem_wordsOf_tcm {a k : Nat} (h : a ≤ k ∧ k < a + n) : k / 8 * 8 ∈ wordsOf (.tcm c) a n := by
  obtain ⟨i, hi, hk⟩ := exists_block (w := 8) (by decide) h.1 h.2
  exact List.mem_map.2 ⟨i, List.mem_range.2 hi, congrArg (· * 8) hk⟩

theorem wordsOf_tcm_aligned {a u : Nat} (h : u ∈ wordsOf (.tcm c) a n) : u % 8 = 0 := by
  simp only [wordsOf, unitOf, List.mem_map, List.mem_range] at h
  obtain ⟨i, -, rfl⟩ := h
  omega

/-! ## The write (R204, R206) -/

/-- A byte of TCM by its line. -/
theorem tcmByte_eq (s : State) (c a : Nat) :
    tcmByte s c a = if a / 64 ∈ (s.core c).lines then mget s.mem.bytes (tcmBase c + a) else 0 :=
  if_congr List.contains_iff_mem rfl rfl

theorem tcmBase_add_div (c x : Nat) : (tcmBase c + x) / 64 = tcmBase c / 64 + x / 64 :=
  Nat.add_div_of_dvd_right (Nat.dvd_add (by decide) (Nat.dvd_mul_right_of_dvd (by decide) c))

/-- What opening the lines of a write does. -/
theorem openLines_opens (s : State) (c ea n : Nat) :
    WritesTcm s (openLines s c (tcmBase c + ea) n) c
      ∧ (∀ a, tcmByte (openLines s c (tcmBase c + ea) n) c a = tcmByte s c a)
      ∧ ∀ a, ea ≤ a → a < ea + n → a / 64 ∈ ((openLines s c (tcmBase c + ea) n).core c).lines := by
  obtain ⟨hopen, hsame, hlines⟩ := foldl_openLine
    ((List.range ((tcmBase c + ea + n + 63) / 64 - (tcmBase c + ea) / 64)).map fun i => (tcmBase c + ea - tcmBase c) / 64 + i) s c
  refine ⟨hopen, hsame, fun a hlo hhi => (hlines _).2 (.inl ?_)⟩
  have hhi' : tcmBase c + a < tcmBase c + ea + n := by
    rw [Nat.add_assoc (tcmBase c) ea n]
    exact Nat.add_lt_add_left hhi _
  obtain ⟨i, hi, hk⟩ := exists_block (w := 64) (by decide) (Nat.add_le_add_left hlo (tcmBase c))
    hhi'
  refine List.mem_map.2 ⟨i, List.mem_range.2 hi, ?_⟩
  rw [tcmBase_add_div, tcmBase_add_div] at hk
  rw [Nat.add_sub_cancel_left]
  omega

/-- A write to a core's own TCM stores its bytes. -/
theorem coreQueue_writesTcm {who : Option Posted} {b : List Byte} (h0 : 0 < b.length) (h : TcmGood s c ea b.length) :
    ∃ t, coreQueue s c who ea b = (t, none) ∧ WritesTcm s t c
      ∧ ∀ a, tcmByte t c a = if ea ≤ a ∧ a < ea + b.length then b.getD (a - ea) 0 else tcmByte s c a := by
  have hs := h.not_silent
  obtain ⟨hlim, hg, hm, hl, -, hbad⟩ := h
  have hat : coreAt (s.core c) c ea b.length true = .dev (tcmBase c + ea) := if_pos hlim
  have hreach : reachIsland s (.tcm c) = s := reachIsland_powered s _ _ rfl hg
  obtain ⟨hopen, hsame, hlines⟩ := openLines_opens s c ea b.length
  obtain ⟨bytes, bad, hwords, hkeep, hbyte⟩ := writeWords_parts (m := .tcm c) (a := tcmBase c + ea) (b := b) rfl
    (wordsOf (.tcm c) (tcmBase c + ea) b.length) (openLines s c (tcmBase c + ea) b.length) fun u hu =>
      ⟨wordsOf_tcm_aligned hu, hopen.bad u (hbad u hu), by rw [hopen.only.memAt]; exact memAt_word_ne_dram hm hu⟩
  refine ⟨(openLines s c (tcmBase c + ea) b.length).withCells bytes bad, ?_,
    ⟨hopen.only.writeBytes _ _, fun u hu => hkeep u (hopen.bad u hu)⟩, fun a => ?_⟩
  · simp only [coreQueue, hat, hm, devQueue, hl, hs, hreach, Nat.ne_of_gt h0, hwords, reduceCtorEq, ne_eq, not_true_eq_false,
      or_self, if_false, Bool.false_eq_true]
  · rw [tcmByte_eq, State.withCells_bytes, State.core_withCells, hbyte]
    by_cases ha : ea ≤ a ∧ a < ea + b.length
    · rw [if_pos (hlines a ha.1 ha.2), if_pos ⟨by omega, mem_wordsOf_tcm (by omega)⟩, if_pos ha, Nat.add_sub_add_left]
    · rw [if_neg (c := _ ∧ _) fun g => ha (by omega), if_neg ha, ← hsame a, tcmByte_eq]

theorem leNat_leBytes (n v : Nat) : leNat (leBytes n v) = v % 256 ^ n := by
  induction n generalizing v with
  | zero => simp [leBytes, leNat, Nat.mod_one]
  | succ n ih => rw [leBytes, leNat, ih, BitVec.toNat_ofNat, Nat.pow_succ' (n := n), Nat.mod_mul]

/-- The number of TCM bytes just written. -/
theorem tcmWord_eq_leNat {b : List Byte} (h : ∀ i, (hi : i < b.length) → tcmByte s c (ea + i) = b[i]) :
    tcmWord s c ea b.length = leNat b := by
  refine congrArg leNat (List.ext_getElem (by simp) fun i _ hi => ?_)
  rw [List.getElem_map, List.getElem_range, h i hi]

theorem tcmWord_congr (h : ∀ i < n, tcmByte t c (ea + i) = tcmByte s c (ea + i)) : tcmWord t c ea n = tcmWord s c ea n :=
  congrArg leNat (List.map_congr_left fun i hi => h i (List.mem_range.1 hi))

theorem tcmWord_lt (s : State) (c ea n : Nat) : tcmWord s c ea n < 2 ^ (8 * n) := by
  have h := leNat_lt ((List.range n).map fun i => tcmByte s c (ea + i))
  rw [List.length_map, List.length_range, show (256 : Nat) = 2 ^ 8 from rfl, ← Nat.pow_mul] at h
  exact h

end Sys2Proof.Machine

/-!
# Vector memory instructions (O12)

At issue a vector memory instruction carries its element addresses into its bundle and enters the vector queue when that
commits. When it is carried out, its elements are read or written in order.
-/

namespace Sys2Proof.Machine

variable {s t : State} {c : Nat} {x : Res}

/-! ## Issue (R241, R242, R244, R254) -/

/-- A core that has taken a vector memory instruction into its empty queue (R244). -/
def Core.queued (y : Core) (op : VMemOp) : Core :=
  { y with vq := [if op.store then .store else .load], vpend := some op }

/-- The commit of a bundle whose one effect is a vector memory instruction, by the core that goes on from it. -/
theorem commitBundle_goesOn {op : VMemOp} {z : Core} (hc : (s.core c).bundle.count = 1)
    (hi : inOrder (s.core c).bundle.effs = [.vmem op])
    (hz : nextFetch s c (s.core c).pc ((s.core c).pc + 4) (enterQueue (s.core c) (s.core c).bundle) [.vmem op] = z) :
    commitBundle s c = s.setCore c { z with bundle := Bundle.init, commits := (s.core c).commits + 1 } := by
  have ht : [Eff.vmem op].contains .tend = false := rfl
  unfold commitBundle
  dsimp only
  rw [hi, hc, ht, ← hz]
  rfl

/-- The commit of a bundle whose one effect is a vector memory instruction (R244). -/
theorem commitBundle_vmem {op : VMemOp} (hc : (s.core c).bundle.count = 1) (hb : (s.core c).bundle.effs = [.vmem op])
    (hw : (s.core c).vq = []) (hl : NoLoopEnd (s.core c)) :
    commitBundle s c = s.setCore c { (s.core c).queued op with
      pc := (s.core c).pc + 4, bundle := Bundle.init, commits := (s.core c).commits + 1 } := by
  have hi : inOrder (s.core c).bundle.effs = [.vmem op] := by
    rw [hb]
    rfl
  have hqueue : enterQueue (s.core c) (s.core c).bundle = (s.core c).queued op := by
    simp only [enterQueue, hb, List.findSome?_cons, vmemOf, hw, List.nil_append, Core.queued]
  refine commitBundle_goesOn (z := { (s.core c).queued op with pc := (s.core c).pc + 4 }) hc hi ?_
  rw [hqueue]
  exact nextFetch_next rfl rfl hl.1 hl.2

/-- A vector memory instruction alone in its bundle. -/
theorem issue_vmem {mk : Core → Nat → Iss} {op : VMemOp} (hx : x = issue c true s mk) (ho : Opens s c)
    (hm : mk (s.core c) ((s.core c).pc + 4 * (s.core c).bundle.count) = { cls := .vec, effs := [.vmem op] }) :
    x = .next (s.setCore c ((committed (s.core c) []).queued op)) := by
  have hfree : (Bundle.init.add { cls := .vec, effs := [.vmem op] }).WaitsForNone := ⟨rfl, rfl, rfl, rfl⟩
  rw [hx, issue, issueM_closes_alone ho hm rfl rfl (fun e h => by cases h) rfl,
    closeBundle_reads ho.2.2.1 hfree (exc_add_init rfl rfl) (runReads_plain _ _ _ rfl)]
  refine congrArg _ ((commitBundle_vmem (op := op) ?_ ?_ ?_ ?_).trans ?_)
  all_goals rw [State.core_setCore]
  · rfl
  · rfl
  · exact ho.2.2.1.2.2.1
  · exact ho.2.2.2
  · exact State.setCore_setCore ..

/-- The encoding of a vector memory instruction is legal (R241, R242, R254). -/
abbrev VMemLegal (y : Core) (f : VMFmt) (first index : Bool) : Prop :=
  f.low = 0 ∧ opOk y f.u false f.d = true ∧ (index = true → opOk y f.u false f.b = true) ∧ (first = true → f.u = true)

theorem vmem_bad_iff {y : Core} {f : VMFmt} {first index : Bool} :
    (f.low ≠ 0 ∨ (first && !f.u) = true ∨ opOk y f.u false f.d = false ∨ (index && !opOk y f.u false f.b) = true)
      ↔ ¬VMemLegal y f first index := by
  simp only [VMemLegal, Bool.and_eq_true, Bool.not_eq_true', ← Bool.not_eq_true]
  tauto

/-- The shape of the vector memory instructions. -/
theorem vmem_memory {f : VMFmt} {store first index : Bool} {addr : Core → Nat → Int} {addr' : Nat → Int}
    (hx : x = vmem c f s store first index addr) (ha : ∀ i, addr (s.core c) i = addr' i) :
    VMemory s c f store first index addr' x := by
  obtain rfl : addr (s.core c) = addr' := funext ha
  unfold vmem at hx
  refine ⟨fun hl => adds_of_issue hx (if_neg (mt vmem_bad_iff.1 (not_not_intro hl))), fun hl hs ho => ?_,
    fun hl => raises_of_issue hx (if_pos (vmem_bad_iff.2 hl))⟩
  rw [hs] at hx
  exact issue_vmem hx ho (if_neg (mt vmem_bad_iff.1 (not_not_intro hl)))

/-! ## The active elements of an instruction -/

/-- Active elements in order, each with its address. -/
def activeElems (op : VMemOp) : List (Nat × Int) := (op.elems.zipIdx.filter fun y => y.1.2).map fun y => (y.2, y.1.1)

variable {op : VMemOp}

theorem mem_activeElems {i : Nat} {a : Int} : (i, a) ∈ activeElems op ↔ op.elems[i]? = some (a, true) := by
  simp only [activeElems, List.mem_map, List.mem_filter, Prod.mk.injEq, Prod.exists, List.mem_zipIdx_iff_getElem?]
  constructor
  · rintro ⟨b, act, j, ⟨h, hact⟩, rfl, rfl⟩
    obtain rfl : act = true := hact
    exact h
  · exact fun h => ⟨a, true, i, ⟨h, rfl⟩, rfl, rfl⟩

theorem activeElems_rise (op : VMemOp) : (activeElems op).Pairwise fun y z => y.1 < z.1 := by
  rw [activeElems, List.pairwise_map]
  refine List.Pairwise.filter _ ?_
  rw [← List.pairwise_map (f := Prod.snd) (R := (· < ·)), List.zipIdx_map_snd]
  exact List.pairwise_lt_range'

/-- The active elements before one are those below it. -/
theorem activeElems_split {i : Nat} {a : Int} (h : op.elems[i]? = some (a, true)) :
    ∃ l₁ l₂, activeElems op = l₁ ++ (i, a) :: l₂ ∧ (l₁.Pairwise fun y z => y.1 < z.1)
      ∧ ∀ j b, (j, b) ∈ l₁ ↔ j < i ∧ op.elems[j]? = some (b, true) := by
  obtain ⟨l₁, l₂, hl⟩ := List.append_of_mem (mem_activeElems.2 h)
  have hrise := activeElems_rise op
  rw [hl, List.pairwise_append, List.pairwise_cons] at hrise
  obtain ⟨hrise, ⟨hafter, -⟩, hbefore⟩ := hrise
  refine ⟨l₁, l₂, hl, hrise, fun j b => ?_⟩
  rw [← mem_activeElems, hl, List.mem_append, List.mem_cons]
  refine ⟨fun hj => ⟨hbefore _ hj _ List.mem_cons_self, .inl hj⟩, ?_⟩
  rintro ⟨hlt, hj | hj | hj⟩
  · exact hj
  · cases hj
    omega
  · have := hafter _ hj
    omega

/-! ## Elements read (R241, R242) -/

theorem elemBad_good {a : Int} (h : ElementGood s c op a) (store : Bool) : elemBad (s.core c) c a op.ebytes store = none := by
  obtain ⟨h0, hal, hlim, -⟩ := h
  rw [elemBad, if_neg (not_not_intro hal), if_neg (by omega), coreAt, if_pos hlim]

theorem elemRead_good {a : Int} (hn : 0 < op.ebytes) (h : ElementGood s c op a) (hs : (s.core c).slow ≠ some a.toNat) :
    elemRead s c a op.ebytes = (s, .inl (tcmWord s c a.toNat op.ebytes)) := by
  simp only [elemRead, elemBad_good h, if_neg hs, coreRead_tcm hn h.2.2]
  rfl

/-- An operand with elements replaced. -/
def elemsSet (e : Nat) (g : Int → Nat) (v : Nat) (l : List (Nat × Int)) : Nat := l.foldl (fun v y => elemSet e v y.1 (g y.2)) v

theorem elemAt_elemsSet_other {e v j : Nat} {g : Int → Nat} {l : List (Nat × Int)} (h : ∀ y ∈ l, y.1 ≠ j) :
    elemAt e (elemsSet e g v l) j = elemAt e v j := by
  induction l generalizing v with
  | nil => rfl
  | cons y l ih =>
    rw [elemsSet, List.foldl_cons]
    refine (ih fun z hz => h z (List.mem_cons_of_mem _ hz)).trans ?_
    rw [elemAt_elemSet, if_neg (h y List.mem_cons_self).symm]

theorem elemAt_elemsSet_mem {e v j : Nat} {g : Int → Nat} {b : Int} {l : List (Nat × Int)}
    (hl : l.Pairwise fun y z => y.1 < z.1) (h : (j, b) ∈ l) : elemAt e (elemsSet e g v l) j = g b % 2 ^ e := by
  obtain ⟨l₁, l₂, rfl⟩ := List.append_of_mem h
  rw [List.pairwise_append, List.pairwise_cons] at hl
  obtain ⟨-, ⟨hafter, -⟩, -⟩ := hl
  rw [elemsSet, List.foldl_append, List.foldl_cons]
  refine (elemAt_elemsSet_other fun y hy => (hafter y hy).ne').trans ?_
  rw [elemAt_elemSet, if_pos rfl]

section
variable {e v : Nat} {g : Int → Nat} {l₁ l₂ : List (Nat × Int)}

/-- Elements that can all be read replace those of the operand. -/
theorem loadElems_append (h : ∀ y ∈ l₁, elemRead s c y.2 (e / 8) = (s, .inl (g y.2))) :
    loadElems s c e v (l₁ ++ l₂) = loadElems s c e (elemsSet e g v l₁) l₂ := by
  induction l₁ generalizing v with
  | nil => rfl
  | cons y l ih =>
    obtain ⟨i, a⟩ := y
    rw [List.cons_append, loadElems, h (i, a) List.mem_cons_self]
    exact ih fun z hz => h z (List.mem_cons_of_mem _ hz)

theorem loadElems_all (h : ∀ y ∈ l₁, elemRead s c y.2 (e / 8) = (s, .inl (g y.2))) :
    loadElems s c e v l₁ = (s, elemsSet e g v l₁, none) := by
  have := loadElems_append (v := v) (l₂ := []) h
  rwa [List.append_nil] at this

/-- The first element that cannot be read ends a load. -/
theorem loadElems_faults {i : Nat} {a : Int} {cause sub : Nat} (h : ∀ y ∈ l₁, elemRead s c y.2 (e / 8) = (s, .inl (g y.2)))
    (hf : elemRead s c a (e / 8) = (s, .inr (cause, sub))) :
    loadElems s c e v (l₁ ++ (i, a) :: l₂) = (s, elemsSet e g v l₁, some (i, a, cause, sub)) := by
  rw [loadElems_append h, loadElems, hf]

end

/-- The elements from the fault on leave those below it. -/
theorem elemAt_looseElems {e v j : Nat} {l : List (Nat × Int)} (h : ∀ y ∈ l, y.1 ≠ j) :
    elemAt e (looseElems s c e v l) j = elemAt e v j := by
  induction l generalizing v with
  | nil => rfl
  | cons y l ih =>
    obtain ⟨i, a⟩ := y
    rw [looseElems, ih fun z hz => h z (List.mem_cons_of_mem _ hz), elemAt_elemSet,
      if_neg (h (i, a) List.mem_cons_self).symm]

/-! ## Loads (R231, R241, R245) -/

/-- The word that an element of an instruction reads. -/
def wordAt (s : State) (c : Nat) (op : VMemOp) (a : Int) : Nat := tcmWord s c a.toNat op.ebytes

/-- What a load makes of an operand once it has read these elements. -/
def loadedOperand (s : State) (c : Nat) (op : VMemOp) (l : List (Nat × Int)) : Nat :=
  elemsSet (8 * op.ebytes) (wordAt s c op) ((s.core c).vop op.wide op.reg op.grp) l

theorem elemAt_loadedOperand_mem {l : List (Nat × Int)} {j : Nat} {b : Int} (hl : l.Pairwise fun y z => y.1 < z.1)
    (h : (j, b) ∈ l) : elemAt (8 * op.ebytes) (loadedOperand s c op l) j = tcmWord s c b.toNat op.ebytes :=
  (elemAt_elemsSet_mem hl h).trans (Nat.mod_eq_of_lt (tcmWord_lt ..))

theorem elemAt_loadedOperand_other {l : List (Nat × Int)} {j : Nat} (h : ∀ y ∈ l, y.1 ≠ j) :
    elemAt (8 * op.ebytes) (loadedOperand s c op l) j
      = elemAt (8 * op.ebytes) ((s.core c).vop op.wide op.reg op.grp) j :=
  elemAt_elemsSet_other h

theorem setVop_slow (y : Core) (u : Bool) (r n v : Nat) : (y.setVop u r n v).slow = y.slow := by
  unfold Core.setVop
  refine foldl_keeps (·.slow) _ ?_ _ y
  intro z i
  cases u <;> rfl

/-- Every active element below the i-th can be read. -/
abbrev ReadsBelow (s : State) (c : Nat) (op : VMemOp) (i : Nat) : Prop :=
  ∀ j b, j < i → op.elems[j]? = some (b, true) → ElementGood s c op b ∧ (s.core c).slow ≠ some b.toNat

/-- The record of a load's fault that names no sub-cause (R245). -/
theorem recordVfr_load (hld : op.store = false) (s : State) (c : Nat) (x : Core) (i cause : Nat) (a : Int) :
    recordVfr (s.setCore c x) c op (i, a, cause, 0) = s.setCore c { x with
      slow := none, vfault := true, vfaultMade := op.made, vmerge := false, vfrPc := BitVec.ofNat 32 op.pc
      vfrInfo := BitVec.ofNat 32 (cause * 2 ^ 24 + i), vfrAddr := BitVec.ofInt 32 a } := by
  simp only [recordVfr, hld, State.core_setCore, State.setCore_setCore, Bool.false_and, Nat.zero_mul, Nat.add_zero, ofNat_unsgn]

section
variable (hq : (s.core c).vfault = false) (hld : op.store = false)
include hq hld

/-- A load that meets no fault. -/
theorem vmemRun_loaded {l : List (Nat × Int)} {v : Nat} (hs : (s.core c).slow = none)
    (hl : loadElems s c (8 * op.ebytes) ((s.core c).vop op.wide op.reg op.grp) l = (s, v, none)) :
    (op.first = false → l = activeElems op → vmemRun s c op = s.setCore c ((s.core c).setVop op.wide op.reg op.grp v))
      ∧ ∀ i, op.first = true → firstAccess s c (8 * op.ebytes) (activeElems op) = (l, some i) →
        vmemRun s c op = s.setCore c { (s.core c).setVop op.wide op.reg op.grp v with span := i } := by
  have hact : ((op.elems.zipIdx.filter fun y => y.1.2).map fun y => (y.2, y.1.1)) = activeElems op := rfl
  have hslow := (setVop_slow (s.core c) op.wide op.reg op.grp v).trans hs
  refine ⟨fun hf h => ?_, fun i hf h => ?_⟩
  · subst h
    refine (if_neg (Bool.eq_false_iff.1 hq)).trans ((if_neg (Bool.eq_false_iff.1 hld)).trans ?_)
    simp only [hf, hact, hl, Bool.false_eq_true, if_false]
    rw [← hslow]
  · refine (if_neg (Bool.eq_false_iff.1 hq)).trans ((if_neg (Bool.eq_false_iff.1 hld)).trans ?_)
    simp only [hf, hact, h, hl, if_true]
    rw [← hslow]

/-- A load that meets a fault. -/
theorem vmemRun_faults {i cause v : Nat} {a : Int} (hf : op.first = false)
    (hl : loadElems s c (8 * op.ebytes) ((s.core c).vop op.wide op.reg op.grp) (activeElems op)
      = (s, v, some (i, a, cause, 0))) :
    vmemRun s c op = { s with free := s.free + op.elems.length }.setCore c
      { (s.core c).setVop op.wide op.reg op.grp
          (looseElems s c (8 * op.ebytes) v ((activeElems op).filter fun y => decide (i ≤ y.1))) with
        slow := none, vfault := true, vfaultMade := op.made, vmerge := false, vfrPc := BitVec.ofNat 32 op.pc
        vfrInfo := BitVec.ofNat 32 (cause * 2 ^ 24 + i), vfrAddr := BitVec.ofInt 32 a } := by
  have hact : ((op.elems.zipIdx.filter fun y => y.1.2).map fun y => (y.2, y.1.1)) = activeElems op := rfl
  refine (if_neg (Bool.eq_false_iff.1 hq)).trans ((if_neg (Bool.eq_false_iff.1 hld)).trans ?_)
  simp only [hf, hact, hl, Bool.false_eq_true, if_false]
  exact recordVfr_load hld ..

end

section
variable (hn : 0 < op.ebytes)
include hn

theorem elemRead_word {a : Int} (h : ElementGood s c op a) (hs : (s.core c).slow ≠ some a.toNat) :
    elemRead s c a (8 * op.ebytes / 8) = (s, .inl (wordAt s c op a)) := by
  rw [Nat.mul_div_cancel_left _ (by decide : 0 < 8), elemRead_good hn h hs]
  rfl

theorem elemRead_below {i : Nat} {l : List (Nat × Int)} (hb : ReadsBelow s c op i)
    (h : ∀ j b, (j, b) ∈ l ↔ j < i ∧ op.elems[j]? = some (b, true)) :
    ∀ y ∈ l, elemRead s c y.2 (8 * op.ebytes / 8) = (s, .inl (wordAt s c op y.2)) := by
  intro y hy
  obtain ⟨hlt, hel⟩ := (h y.1 y.2).1 hy
  obtain ⟨hgood, hs⟩ := hb y.1 y.2 hlt hel
  exact elemRead_word hn hgood hs

/-- A load whose active elements can all be read replaces exactly those. -/
theorem vmemRun_loads (hq : (s.core c).vfault = false) (hld : op.store = false) (hf : op.first = false)
    (hs : (s.core c).slow = none) (h : ∀ a, (a, true) ∈ op.elems → ElementGood s c op a) :
    vmemRun s c op = s.setCore c ((s.core c).setVop op.wide op.reg op.grp (loadedOperand s c op (activeElems op)))
      ∧ ∀ i, elemAt (8 * op.ebytes) (loadedOperand s c op (activeElems op)) i = match op.elems[i]? with
        | some (a, true) => tcmWord s c a.toNat op.ebytes
        | _ => elemAt (8 * op.ebytes) ((s.core c).vop op.wide op.reg op.grp) i := by
  have hall := loadElems_all (v := (s.core c).vop op.wide op.reg op.grp) (l₁ := activeElems op) (e := 8 * op.ebytes) fun y hy =>
    elemRead_word hn (h y.2 (List.mem_of_getElem? (mem_activeElems.1 hy))) (by simp [hs])
  refine ⟨(vmemRun_loaded hq hld hs hall).1 hf rfl, fun i => ?_⟩
  split
  next a ha => exact elemAt_loadedOperand_mem (activeElems_rise op) (mem_activeElems.2 ha)
  next hi =>
    refine elemAt_loadedOperand_other fun y hy hyi => hi y.2 ?_
    rw [← hyi]
    exact mem_activeElems.1 hy

/-- A load records the lowest active element that cannot be read, and the elements below it are loaded. -/
theorem vmemRun_records (hq : (s.core c).vfault = false) (hld : op.store = false) (hf : op.first = false) {i cause : Nat}
    {a : Int} (hi : op.elems[i]? = some (a, true)) (hb : ReadsBelow s c op i)
    (hfault : elemRead s c a op.ebytes = (s, .inr (cause, 0))) :
    ∃ v, vmemRun s c op = { s with free := s.free + op.elems.length }.setCore c
        { (s.core c).setVop op.wide op.reg op.grp v with
          slow := none, vfault := true, vfaultMade := op.made, vmerge := false, vfrPc := BitVec.ofNat 32 op.pc
          vfrInfo := BitVec.ofNat 32 (cause * 2 ^ 24 + i), vfrAddr := BitVec.ofInt 32 a }
      ∧ ∀ j b, j < i → op.elems[j]? = some (b, true) →
        elemAt (8 * op.ebytes) v j = tcmWord s c b.toNat op.ebytes := by
  obtain ⟨l₁, l₂, hl, hrise, hbelow⟩ := activeElems_split hi
  have hloads := loadElems_faults (v := (s.core c).vop op.wide op.reg op.grp) (l₂ := l₂) (i := i)
    (elemRead_below hn hb hbelow) (by rwa [Nat.mul_div_cancel_left _ (by decide : 0 < 8)])
  rw [← hl] at hloads
  refine ⟨_, vmemRun_faults hq hld hf hloads, fun j b hj hel => ?_⟩
  rw [elemAt_looseElems fun y hy => by have := of_decide_eq_true (List.mem_filter.1 hy).2; omega]
  exact elemAt_loadedOperand_mem hrise ((hbelow j b).2 ⟨hj, hel⟩)

end

theorem elemRead_unaligned {a : Int} (h : a % (op.ebytes : Int) ≠ 0) : elemRead s c a op.ebytes = (s, .inr (0x04, 0)) := by
  simp only [elemRead, elemBad, if_pos h]

theorem elemRead_slow {a : Int} (h : ElementGood s c op a) (hs : (s.core c).slow = some a.toNat) :
    elemRead s c a op.ebytes = (s, .inr (0x09, 0)) := by
  simp only [elemRead, elemBad_good h, hs, if_true]

/-! ## The gather up to the first ACCESS (R242) -/

/-- Elements of TCM do not end a gather. -/
theorem firstAccess_append {l₁ l₂ : List (Nat × Int)} (h : ∀ y ∈ l₁, ElementGood s c op y.2) :
    firstAccess s c (8 * op.ebytes) (l₁ ++ l₂) = (l₁ ++ (firstAccess s c (8 * op.ebytes) l₂).1,
      (firstAccess s c (8 * op.ebytes) l₂).2) := by
  induction l₁ with
  | nil => rfl
  | cons y l ih =>
    obtain ⟨i, a⟩ := y
    have hgood := h (i, a) List.mem_cons_self
    obtain ⟨-, -, hlim, -, hm, -⟩ := id hgood
    have hat : coreAt (s.core c) c a.toNat op.ebytes false = .dev (tcmBase c + a.toNat) := if_pos hlim
    simp only [List.cons_append, firstAccess, Nat.mul_div_cancel_left _ (by decide : 0 < 8), elemBad_good hgood, hat, hm,
      ih fun z hz => h z (List.mem_cons_of_mem _ hz), Bool.false_eq_true, if_false]

/-- An address outside the map ends a gather. -/
theorem firstAccess_outside {i : Nat} {a : Int} {l : List (Nat × Int)} (hal : a % (op.ebytes : Int) = 0) (h : a < 0 ∨ 2 ^ 32 ≤ a) :
    firstAccess s c (8 * op.ebytes) ((i, a) :: l) = ([], some i) := by
  have hbad : elemBad (s.core c) c a op.ebytes false = some (0x05, 0) := by
    rw [elemBad, if_neg (not_not_intro hal), if_pos h]
  simp only [firstAccess, Nat.mul_div_cancel_left _ (by decide : 0 < 8), hbad, decide_true, if_true]

/-- A gather up to the first ACCESS loads the elements below it and sets SPAN. -/
theorem vmemRun_gathers (hn : 0 < op.ebytes) (hq : (s.core c).vfault = false) (hld : op.store = false) (hf : op.first = true)
    {i : Nat} {a : Int} (hi : op.elems[i]? = some (a, true)) (hb : ReadsBelow s c op i) (hs : (s.core c).slow = none)
    (hal : a % (op.ebytes : Int) = 0) (ha : a < 0 ∨ 2 ^ 32 ≤ a) :
    ∃ v, vmemRun s c op = s.setCore c { (s.core c).setVop op.wide op.reg op.grp v with span := i }
      ∧ (∀ j b, j < i → op.elems[j]? = some (b, true) → elemAt (8 * op.ebytes) v j = tcmWord s c b.toNat op.ebytes)
      ∧ ∀ j, i ≤ j → elemAt (8 * op.ebytes) v j = elemAt (8 * op.ebytes) ((s.core c).vop op.wide op.reg op.grp) j := by
  obtain ⟨l₁, l₂, hl, hrise, hbelow⟩ := activeElems_split hi
  have hfirst : firstAccess s c (8 * op.ebytes) (activeElems op) = (l₁, some i) := by
    rw [hl, firstAccess_append, firstAccess_outside hal ha, List.append_nil]
    intro y hy
    obtain ⟨hlt, hel⟩ := (hbelow y.1 y.2).1 hy
    exact (hb y.1 y.2 hlt hel).1
  refine ⟨_, (vmemRun_loaded hq hld hs (loadElems_all (elemRead_below hn hb hbelow))).2 i hf hfirst,
    fun j b hj hel => elemAt_loadedOperand_mem hrise ((hbelow j b).2 ⟨hj, hel⟩),
    fun j hj => elemAt_loadedOperand_other fun y hy => ?_⟩
  have := ((hbelow y.1 y.2).1 hy).1
  omega

/-! ## Stores (R231, R241) -/

theorem WritesTcm.elementGood (h : WritesTcm s t c) {a : Int} (hg : ElementGood s c op a) : ElementGood t c op a :=
  ⟨hg.1, hg.2.1, h.tcmGood hg.2.2⟩

theorem WritesTcm.slow (h : WritesTcm s t c) (hs : (s.core c).slow = none) : (t.core c).slow = none := by
  rw [h.only.core]
  exact hs

/-- An element that a store writes to TCM. -/
theorem elemWrite_good {a : Int} {v : Nat} (hn : 0 < op.ebytes) (h : ElementGood s c op a) (hs : (s.core c).slow = none) :
    ∃ t, elemWrite s c a op.ebytes v = (t, none) ∧ WritesTcm s t c
      ∧ tcmWord t c a.toNat op.ebytes = v % 256 ^ op.ebytes
      ∧ ∀ k, k < a.toNat ∨ a.toNat + op.ebytes ≤ k → tcmByte t c k = tcmByte s c k := by
  have hlen := length_leBytes op.ebytes v
  obtain ⟨t, hq, hw, hbyte⟩ := coreQueue_writesTcm (who := none) (ea := a.toNat) (b := leBytes op.ebytes v) (by rwa [hlen])
    (by rw [hlen]; exact h.2.2)
  rw [hlen] at hbyte
  refine ⟨t, ?_, hw, ?_, fun k hk => (hbyte k).trans (if_neg (by omega))⟩
  · simp only [elemWrite, elemBad_good h, hs, hq, reduceCtorEq, if_false]
  · rw [← leNat_leBytes, ← tcmWord_eq_leNat (s := t) (c := c) (ea := a.toNat) fun i hi => ?_, hlen]
    rw [hbyte, if_pos (by omega), Nat.add_sub_cancel_left, List.getD_eq_getElem _ _ hi]

/-- Two elements share no byte. -/
abbrev Apart (op : VMemOp) (b d : Int) : Prop := d.toNat + op.ebytes ≤ b.toNat ∨ b.toNat + op.ebytes ≤ d.toNat

/-- What a store writes to TCM: each element that no later one covers, and no byte that none covers. -/
theorem storeElems_writes (hn : 0 < op.ebytes) (data : Nat) (l : List (Nat × Int)) (s : State)
    (hl : l.Pairwise fun y z => y.1 < z.1) (hs : (s.core c).slow = none) (h : ∀ y ∈ l, ElementGood s c op y.2) :
    ∃ t, storeElems s c (8 * op.ebytes) data l = (t, none) ∧ WritesTcm s t c
      ∧ (∀ k, (∀ y ∈ l, k < y.2.toNat ∨ y.2.toNat + op.ebytes ≤ k) → tcmByte t c k = tcmByte s c k)
      ∧ ∀ y ∈ l, (∀ z ∈ l, y.1 < z.1 → Apart op y.2 z.2) →
        tcmWord t c y.2.toNat op.ebytes = elemAt (8 * op.ebytes) data y.1 := by
  induction l generalizing s with
  | nil => exact ⟨s, rfl, .refl s c, fun _ _ => rfl, fun y hy => by cases hy⟩
  | cons x l ih =>
    obtain ⟨i, a⟩ := x
    obtain ⟨hhead, htail⟩ := List.pairwise_cons.1 hl
    obtain ⟨t, hwrite, hw, hword, hout⟩ := elemWrite_good (v := elemAt (8 * op.ebytes) data i) hn (h _ List.mem_cons_self) hs
    obtain ⟨u, hrest, hw', hout', hword'⟩ := ih t htail (hw.slow hs) fun y hy =>
      hw.elementGood (h y (List.mem_cons_of_mem _ hy))
    refine ⟨u, ?_, hw.trans hw', fun k hk => ?_, fun y hy hap => ?_⟩
    · simp only [storeElems, Nat.mul_div_cancel_left _ (by decide : 0 < 8), hwrite, hrest]
    · exact (hout' k fun y hy => hk y (List.mem_cons_of_mem _ hy)).trans (hout k (hk _ List.mem_cons_self))
    · rcases List.mem_cons.1 hy with rfl | hy
      · have hlt : elemAt (8 * op.ebytes) data i < 256 ^ op.ebytes := by
          rw [show (256 : Nat) = 2 ^ 8 from rfl, ← Nat.pow_mul]
          exact elemAt_lt ..
        rw [← Nat.mod_eq_of_lt hlt, ← hword]
        refine tcmWord_congr fun m hm => hout' _ fun z hz => ?_
        have hz' := hap z (List.mem_cons_of_mem _ hz) (hhead z hz)
        unfold Apart at hz'
        dsimp only at hz' ⊢
        omega
      · exact hword' y hy fun z hz => hap z (List.mem_cons_of_mem _ hz)

/-- A store to TCM leaves no line of DRAM to merge. -/
theorem settleElems_good {l : List (Nat × Int)} (h : ∀ y ∈ l, ElementGood s c op y.2) :
    settleElems s c op.ebytes l = (s, none) := by
  induction l with
  | nil => rfl
  | cons y l ih =>
    obtain ⟨i, a⟩ := y
    obtain ⟨-, -, hlim, -, hm, -⟩ := h (i, a) List.mem_cons_self
    have hat : coreAt (s.core c) c a.toNat op.ebytes true = .dev (tcmBase c + a.toNat) := if_pos hlim
    have hset : settleRange s (tcmBase c + a.toNat) op.ebytes = (s, none) := by
      simp only [settleRange, hm, reduceCtorEq, if_false]
    simp only [settleElems, hat, hset]
    exact ih fun z hz => h z (List.mem_cons_of_mem _ hz)

/-- A store whose active elements lie in good TCM. -/
theorem vmemRun_stores (hn : 0 < op.ebytes) (hq : (s.core c).vfault = false) (hst : op.store = true)
    (hs : (s.core c).slow = none) (h : ∀ a, (a, true) ∈ op.elems → ElementGood s c op a) :
    (∀ k, (∀ b, (b, true) ∈ op.elems → k < b.toNat ∨ b.toNat + op.ebytes ≤ k) →
        tcmByte (vmemRun s c op) c k = tcmByte s c k)
      ∧ ∀ i b, op.elems[i]? = some (b, true) → (∀ j d, i < j → op.elems[j]? = some (d, true) → Apart op b d) →
        tcmWord (vmemRun s c op) c b.toNat op.ebytes
          = elemAt (8 * op.ebytes) ((s.core c).vop op.wide op.reg op.grp) i := by
  have hact : ((op.elems.zipIdx.filter fun y => y.1.2).map fun y => (y.2, y.1.1)) = activeElems op := rfl
  have hel (y : Nat × Int) (hy : y ∈ activeElems op) : (y.2, true) ∈ op.elems := List.mem_of_getElem? (mem_activeElems.1 hy)
  obtain ⟨t, hstore, hw, hout, hword⟩ := storeElems_writes hn ((s.core c).vop op.wide op.reg op.grp) (activeElems op) s
    (activeElems_rise op) hs fun y hy => h _ (hel y hy)
  have hrun : vmemRun s c op = t.setCore c { t.core c with slow := none } := by
    refine (if_neg (Bool.eq_false_iff.1 hq)).trans ((if_pos hst).trans ?_)
    simp only [hact, hstore, settleElems_good fun y hy => hw.elementGood (h _ (hel y hy))]
  have hbyte (k : Nat) : tcmByte (vmemRun s c op) c k = tcmByte t c k := by
    rw [hrun]
    unfold tcmByte
    rw [State.core_setCore, State.setCore_mem]
  refine ⟨fun k hk => (hbyte k).trans (hout k fun y hy => hk _ (hel y hy)), fun i b hi hap => ?_⟩
  rw [tcmWord_congr fun k _ => hbyte (b.toNat + k)]
  exact hword (i, b) (mem_activeElems.2 hi) fun z hz hlt => hap z.1 z.2 hlt (mem_activeElems.1 hz)

/-! ## The obligation -/

/-- Settles O12: the forms by their one shape, and what an instruction does to the elements in their order. -/
theorem vectorMemoryFormsAddressesAndActsOnElements : Obligations.VectorMemoryFormsAddressesAndActsOnElements := by
  unfold Obligations.VectorMemoryFormsAddressesAndActsOnElements
  constructor
  · intro s c f x n base unit stride index
    have hunit (i : Nat) : unitAddr f x i = unit i := by
      simp only [unitAddr, unit, base, n]
      push_cast
      rfl
    have hindex (i : Nat) : indexAddr f x i = index i := by
      simp only [indexAddr, index, base, n]
      push_cast
      rfl
    exact ⟨vmem_memory (exec_vld ..) hunit, vmem_memory (exec_vst ..) hunit, vmem_memory (exec_vlds ..) fun _ => rfl,
      vmem_memory (exec_vsts ..) fun _ => rfl, vmem_memory (exec_vgath ..) hindex, vmem_memory (exec_vscat ..) hindex,
      vmem_memory (exec_vgathf ..) hindex⟩
  · intro s c op hn hq x e old below loaded faults
    refine ⟨fun hld hf hs h => ⟨_, vmemRun_loads hn hq hld hf hs h⟩, fun hld hf i a hi hb => ⟨fun hal => ?_, fun hg hs => ?_⟩,
      fun hld hf i a hi hb hs hal ha => vmemRun_gathers hn hq hld hf hi hb hs hal ha, fun hst hs h => ?_⟩
    · exact vmemRun_records hn hq hld hf hi hb (elemRead_unaligned hal)
    · exact vmemRun_records hn hq hld hf hi hb (elemRead_slow hg hs)
    · obtain ⟨hout, hword⟩ := vmemRun_stores hn hq hst hs h
      exact ⟨fun k _ => hout k, hword⟩

end Sys2Proof.Machine

/-!
# Matrix instructions on tiles (O14)

A matrix instruction alone in its bundle commits: its effects on the core are carried out, then those on the quad's
coprocessor and on TCM (`mxIssue_commits`). What is left is the value of each tile.

The compiled form of the text stands close to what the check's memory limit admits. So the proofs here give terms where a
tactic would leave a large one, and helpers that only proofs use are `noncomputable`: they leave no code.
-/

namespace Sys2Proof.Machine

variable {s : State} {c : Nat} {f : XFmt}

/-! ## The commit of a matrix instruction (R196, R199, R268) -/

/-- The state in which the core of a bundle has committed it, before its work in the coprocessor. -/
noncomputable abbrev coreDone (s : State) (c : Nat) (effs : List Eff) : State := s.setCore c (committed (s.core c) effs)

/-- The work of a bundle's effects on TCM and in the coprocessor (R199, R263 to R273). -/
noncomputable abbrev worked (t : State) (c pc : Nat) (effs : List Eff) : State :=
  effs.foldl (fun t e => applyMx t c e) (effs.foldl (applySt c pc) t)

/-- An instruction that steers no loop of its core (R197). -/
abbrev KeepsNoLoopEnd (x : Core) (i : Iss) : Prop :=
  NoLoopEnd x → NoLoopEnd { (inOrder i.effs).foldl (applyEff (x.pc + 4)) x with pc := x.pc }

theorem Opens.noneWaits (ho : Opens s c) : NoneWaits (s.core c) := ho.2.2.1
theorem Opens.noLoopEnd (ho : Opens s c) : NoLoopEnd (s.core c) := ho.2.2.2

/-- An instruction alone in its bundle raises nothing, waits for nothing, reads nothing and changes no fetch. -/
abbrev CommitsAtOnce (i : Iss) : Prop :=
  (i.illegal = none ∧ i.absentUnit = false ∧ i.exc = none)
    ∧ ((i.effs.contains .mxlock = false ∧ i.effs.contains .fence = false)
      ∧ i.effs.contains .tend = false ∧ (Bundle.init.add i).posts = false)
    ∧ i.effs.all Eff.plain = true ∧ i.effs.all Eff.follows = true

noncomputable def Iss.commitsAtOnce (i : Iss) : Bool := decide (CommitsAtOnce i)

theorem CommitsAtOnce.waitsForNone {i : Iss} (h : CommitsAtOnce i) : (Bundle.init.add i).WaitsForNone :=
  ⟨h.2.1.1.1, h.2.1.1.2, h.2.1.2.1, h.2.1.2.2⟩

theorem CommitsAtOnce.commits {mk : State → Core → Nat → Iss} {i : Iss} {stop : Bool} (h : CommitsAtOnce i)
    (hs : stop = true) (ho : Opens s c) (hm : mk s (s.core c) ((s.core c).pc + 4 * (s.core c).bundle.count) = i)
    (hl : KeepsNoLoopEnd (s.core c) i) : issueM c stop s mk = .next
      (worked (coreDone s c i.effs) c ((s.core c).pc + 4 * (Bundle.init.add i).memAt) (inOrder i.effs)) :=
  (congrArg (fun b => issueM c b s mk) hs).trans
    ((issueM_closes_alone ho hm h.1.1 h.1.2.1 (h.1.2.2 ▸ fun _ he => absurd he (Option.not_mem_none _))
        h.waitsForNone.noTend).trans
      (congrArg Host.Outcome.next
        ((closeBundle_reads ho.noneWaits h.waitsForNone
          ((exc_add_init h.1.1 h.1.2.1).trans (congrArg (Option.map _) h.1.2.2)) (runReads_plain _ _ _ h.2.2.1)).trans
        (commitBundle_follows rfl h.2.2.2 ho.noneWaits.2.2.1 rfl (hl ho.noLoopEnd).1 (hl ho.noLoopEnd).2))))

theorem bnot_eq_true {b : Bool} (h : b = false) : (!b) = true := by rw [h]; rfl

theorem bnot_ne_true {b : Bool} (h : b = true) : ¬(!b) = true := by rw [h]; decide

/-- The holder of the lock issues an instruction alone in its bundle (R260). -/
abbrev HolderIssues (s : State) (c : Nat) (f : XFmt) : Prop :=
  (hasMxc s.part.variant = true ∧ holdsMxc s c = true) ∧ f.stop = true ∧ Opens s c

/-- The holder of the lock issues a matrix instruction with legal fields, alone in its bundle (R260). -/
theorem mxIssue_commits {ok odd : Bool} {mk : Mxc → Core → Iss} {i : Iss} {t : State} (h : HolderIssues s c f)
    (hok : ok = true) (hodd : odd = false) (hm : mk (s.mxc (quadOf c)) (s.core c) = i) (hi : i.commitsAtOnce = true)
    (hl : KeepsNoLoopEnd (s.core c) i)
    (ht : worked (coreDone s c i.effs) c ((s.core c).pc + 4 * (Bundle.init.add i).memAt) (inOrder i.effs) = t) :
    mxIssue c f s ok mk odd = .next t :=
  (CommitsAtOnce.commits (of_decide_eq_true hi) h.2.1 h.2.2
    ((if_neg (bnot_ne_true h.1.1)).trans ((if_neg (bnot_ne_true hok)).trans ((if_neg (ne_true_of_eq_false hodd)).trans
      ((if_neg (bnot_ne_true h.1.2)).trans hm)))) hl).trans (congrArg Host.Outcome.next ht)

/-! ## Words and tiles (R263, R265, R274) -/

theorem toNat_setWidth_of_lt {w v : Nat} {t : BitVec w} (h : t.toNat < 2 ^ v) : (t.setWidth v).toNat = t.toNat :=
  (BitVec.toNat_setWidth ..).trans (Nat.mod_eq_of_lt h)

/-- Two parts of 16 bits in one word, the real one low. -/
theorem ofNat_parts_eq_append (re im : Int) :
    BitVec.ofNat 32 (unsgn 16 re + unsgn 16 im * 65536) = (BitVec.ofInt 16 im ++ BitVec.ofInt 16 re : BitVec 32) :=
  have h : (BitVec.ofInt 16 im ++ BitVec.ofInt 16 re : BitVec 32).toNat = unsgn 16 re + unsgn 16 im * 65536 :=
    (BitVec.toNat_append ..).trans ((Nat.shiftLeft_add_eq_or_of_lt (unsgn_lt 16 re) (unsgn 16 im)).symm.trans
      ((Nat.add_comm ..).trans (congrArg (unsgn 16 re + ·) (Nat.shiftLeft_eq ..))))
  (congrArg (BitVec.ofNat 32) h.symm).trans ((BitVec.ofNat_toNat ..).trans (BitVec.setWidth_eq _))

/-- A part of a z element narrowed by k bits, with its clip mark. -/
theorem clipTo_floorShift (k : Nat) (v : Int) : clipTo 16 (floorShift v k)
    = (unsgn 16 (clampTo 16 (v / 2 ^ k)), decide (clampTo 16 (v / 2 ^ k) ≠ v / 2 ^ k)) := by
  rw [clipTo_eq, floorShift_eq_div]

theorem packEl_eq (k : Nat) (z : BitVec 40 × BitVec 40) : packEl k z
    = ((BitVec.ofInt 16 (clampTo 16 (z.2.toInt / 2 ^ k)) ++ BitVec.ofInt 16 (clampTo 16 (z.1.toInt / 2 ^ k)) : BitVec 32),
      decide (clampTo 16 (z.1.toInt / 2 ^ k) ≠ z.1.toInt / 2 ^ k)
        || decide (clampTo 16 (z.2.toInt / 2 ^ k) ≠ z.2.toInt / 2 ^ k)) :=
  (congrArg₂ (fun re im : Nat × Bool => (BitVec.ofNat 32 (re.1 % 65536 + im.1 % 65536 * 65536), re.2 || im.2))
    (clipTo_floorShift ..) (clipTo_floorShift ..)).trans (congrArg (Prod.mk · _)
      ((congrArg₂ (fun re im => BitVec.ofNat 32 (re + im * 65536)) (Nat.mod_eq_of_lt (unsgn_lt 16 _))
        (Nat.mod_eq_of_lt (unsgn_lt 16 _))).trans (ofNat_parts_eq_append ..)))

theorem tileOf_map_range {α : Type} (d : α) (g : Nat → α) :
    tileOf d ((List.range 64).map g) = Vector.ofFn fun (i : Fin 64) => g i.val :=
  congrArg Vector.ofFn (funext fun i => by rw [List.getD_eq_getElem?_getD, List.getElem?_map, List.getElem?_range i.isLt]; rfl)

theorem tileOf_toList {α : Type} (d : α) (v : Vector α 64) : tileOf d v.toList = v :=
  Vector.ext fun _ hi => (Vector.getElem_ofFn hi).trans
    ((List.getD_eq_getElem _ _ (v.length_toList.symm ▸ hi)).trans (Vector.getElem_toList ..))

/-- The exact sum of eight products, as the sum of a list. -/
theorem mmEl_eq (m : Mxc) (a b : BitVec 5) (herm : Bool) (r k : Nat) : mmEl m a b herm r k
    = ((List.range 8).map fun i => complexProduct false (aEl m a herm r i) (mEl m b (8 * i + k))).foldl
        (fun p v => (p.1 + v.1, p.2 + v.2)) (0, 0) := by
  rw [List.foldl_map, ← funext₂ (cmulExact_eq_complexProduct false)]
  rfl

/-! ## The forms (R265, R275) -/

/-- A coprocessor with another z tile. -/
noncomputable abbrev Mxc.putZ (m : Mxc) (t : BitVec 5) (z : Nat → BitVec 40 × BitVec 40) : Mxc :=
  { m with z := vput m.z t.toNat (Vector.ofFn fun (i : Fin 64) => z i.val) }

/-- A coprocessor with another m tile. -/
noncomputable abbrev Mxc.putM (m : Mxc) (t : BitVec 5) (v : Nat → BitVec 32) : Mxc :=
  { m with m := vput m.m t.toNat (Vector.ofFn fun (i : Fin 64) => v i.val) }

theorem applyMx_wz {t : BitVec 5} (ht : t.toNat < 4) (z : Nat → BitVec 40 × BitVec 40) (u : State) :
    applyMx u c (.wz (t.setWidth 2) ((List.range 64).map z)) = setQuad u c fun m => m.putZ t z :=
  congrArg₂ (fun k v => setQuad u c fun m => { m with z := vput m.z k v }) (toNat_setWidth_of_lt (v := 2) ht)
    (tileOf_map_range ..)

theorem applyMx_wm {t : BitVec 5} (ht : t.toNat < 8) (v : Nat → BitVec 32) (u : State) :
    applyMx u c (.wm (t.setWidth 3) ((List.range 64).map v)) = setQuad u c fun m => m.putM t v :=
  congrArg₂ (fun k v => setQuad u c fun m => { m with m := vput m.m k v }) (toNat_setWidth_of_lt (v := 3) ht)
    (tileOf_map_range ..)

theorem setQuad_setMxc (t : State) (c : Nat) (m : Mxc) (g : Mxc → Mxc) :
    setQuad (t.setMxc (quadOf c) m) c g = t.setMxc (quadOf c) (g m) := by
  rw [setQuad, State.mxc_setMxc, State.setMxc_setMxc]

theorem packTile_eq {m : Mxc} {t : BitVec 5} {k : Nat} {v : Nat → BitVec 32} {clips : Nat → Bool}
    (hv : ∀ i, packEl k (zEl m t i) = (v i, clips i)) : packTile m t k = ((List.range 64).map v, (List.range 64).any clips) :=
  (congrArg (fun l : List (BitVec 32 × Bool) => (l.map (·.1), l.any (·.2))) (congrArg (List.map · _) (funext hv))).trans
    (congrArg₂ Prod.mk List.map_map List.any_map)

theorem mOk_of_lt {t : BitVec 5} (h : t.toNat < 8) : mOk t = true := decide_eq_true h
theorem zOk_of_lt {t : BitVec 5} (h : t.toNat < 4) : zOk t = true := decide_eq_true h
theorem zero5_of_eq {t : BitVec 5} (h : t = 0) : zero5 t = true := decide_eq_true h
theorem and_of_true {a b : Bool} (ha : a = true) (hb : b = true) : (a && b) = true := by rw [ha, hb]; rfl

section
variable (h : HolderIssues s c f)
include h

/-- An instruction that is a matrix operation into zD, by the sums of products. -/
theorem mmOp_puts {r : Res} {herm : Bool} {keep sign : Int} (hr : r = mmOp c f s herm keep sign) (hd : f.d.toNat < 4)
    (ha : f.a.toNat < 8) (hb : f.b.toNat < 8) (hk : f.k = 0) {p : Nat → Int × Int}
    (hp : ∀ i, mmEl (s.mxc (quadOf c)) f.a f.b herm (i / 8) (i % 8) = p i) :
    r = .next ((coreDone s c []).setMxc (quadOf c) ((s.mxc (quadOf c)).putZ f.d fun i =>
      (BitVec.ofInt 40 (keep * (zEl (s.mxc (quadOf c)) f.d i).1.toInt + sign * (p i).1),
        BitVec.ofInt 40 (keep * (zEl (s.mxc (quadOf c)) f.d i).2.toInt + sign * (p i).2)))) :=
  hr.trans (funext hp ▸ mxIssue_commits h
    (and_of_true (and_of_true (and_of_true (zOk_of_lt hd) (mOk_of_lt ha)) (mOk_of_lt hb)) (zero5_of_eq hk)) rfl rfl
    rfl id (applyMx_wz hd _ _))

theorem execMxclr_puts (hd : f.d.toNat < 4) (ha : f.a = 0) (hb : f.b = 0) (hk : f.k = 0) : exec (.mxclr c f) s
    = .next ((coreDone s c []).setMxc (quadOf c) ((s.mxc (quadOf c)).putZ f.d fun _ => (0, 0))) :=
  (exec_mxclr ..).trans <| mxIssue_commits h
    (and_of_true (and_of_true (and_of_true (zOk_of_lt hd) (zero5_of_eq ha)) (zero5_of_eq hb)) (zero5_of_eq hk)) rfl rfl rfl id
    (congrArg₂ (fun k v => setQuad (coreDone s c []) c fun m => { m with z := vput m.z k v }) (toNat_setWidth_of_lt (v := 2) hd)
      (Vector.ext fun _ hi => (Vector.getElem_replicate hi).trans (Vector.getElem_ofFn (f := fun _ => (0, 0)) hi).symm))

/-- An instruction that is a transpose into mD. -/
theorem transpose_puts {r : Res} (u : Mxc → Nat → Int × Int)
    (hr : r = mxIssue c f s (mOk f.d && mOk f.a && zero5 f.b && zero5 f.k)
      fun m _ => Iss.mx [.wm (f.d.setWidth 3) ((List.range 64).map fun i => c16Of (u m i))])
    (hd : f.d.toNat < 8) (ha : f.a.toNat < 8) (hb : f.b = 0) (hk : f.k = 0) :
    r = .next ((coreDone s c []).setMxc (quadOf c) ((s.mxc (quadOf c)).putM f.d fun i =>
      BitVec.ofInt 16 (u (s.mxc (quadOf c)) i).2 ++ BitVec.ofInt 16 (u (s.mxc (quadOf c)) i).1)) :=
  hr.trans (mxIssue_commits h
    (and_of_true (and_of_true (and_of_true (mOk_of_lt hd) (mOk_of_lt ha)) (zero5_of_eq hb)) (zero5_of_eq hk))
    rfl (congrArg (fun v => Iss.mx [.wm (f.d.setWidth 3) ((List.range 64).map v)])
      (funext fun i => ofNat_parts_eq_append (u (s.mxc (quadOf c)) i).1 (u (s.mxc (quadOf c)) i).2)) rfl id (applyMx_wm hd _ _))

theorem execMxwr_puts (hd : f.d.toNat < 8) (hk : f.k = 0) : exec (.mxwr c f) s
    = .next ((coreDone s c []).setMxc (quadOf c) { s.mxc (quadOf c) with
        m := vput (s.mxc (quadOf c)).m f.d.toNat (vput (vget (s.mxc (quadOf c)).m f.d.toNat (.replicate 64 0))
          (((s.core c).rg f.b).toNat % 64) ((s.core c).rg f.a)) }) :=
  (exec_mxwr ..).trans <| mxIssue_commits h (and_of_true (mOk_of_lt hd) (zero5_of_eq hk)) rfl rfl rfl id
    (congrArg₂ (fun k v => setQuad (coreDone s c []) c fun m => { m with m := vput m.m k v })
      (toNat_setWidth_of_lt (v := 3) hd) (tileOf_toList ..))

/-- MXPACK, whose clips set MXSTAT.SAT. -/
theorem execMxpack_puts {v : Nat → BitVec 32} {clips : Nat → Bool} {clip : Bool} (hd : f.d.toNat < 8) (ha : f.a.toNat < 4)
    (hb : f.b = 0) (hv : ∀ i, packEl f.k.toNat (zEl (s.mxc (quadOf c)) f.a i) = (v i, clips i))
    (hclip : (List.range 64).any clips = clip) : exec (.mxpack c f) s = .next ((coreDone s c []).setMxc (quadOf c)
      { (s.mxc (quadOf c)).putM f.d v with sat := (s.mxc (quadOf c)).sat || clip }) := by
  refine (exec_mxpack ..).trans ?_
  induction clip
  · exact (Bool.or_false (s.mxc (quadOf c)).sat).symm ▸ mxIssue_commits h
      (i := Iss.mx (.wm (f.d.setWidth 3) ((List.range 64).map v) :: mxSat false))
      (and_of_true (and_of_true (mOk_of_lt hd) (zOk_of_lt ha)) (zero5_of_eq hb)) rfl
      (congrArg (fun r => Iss.mx (.wm (f.d.setWidth 3) r.1 :: mxSat r.2))
        ((packTile_eq hv).trans (congrArg (Prod.mk _) hclip))) rfl id (applyMx_wm hd v (coreDone s c []))
  · exact (Bool.or_true (s.mxc (quadOf c)).sat).symm ▸ mxIssue_commits h
      (i := Iss.mx (.wm (f.d.setWidth 3) ((List.range 64).map v) :: mxSat true))
      (and_of_true (and_of_true (mOk_of_lt hd) (zOk_of_lt ha)) (zero5_of_eq hb)) rfl
      (congrArg (fun r => Iss.mx (.wm (f.d.setWidth 3) r.1 :: mxSat r.2))
        ((packTile_eq hv).trans (congrArg (Prod.mk _) hclip))) rfl id
      ((congrArg (fun u => setQuad u c fun m => { m with sat := true }) (applyMx_wm hd v (coreDone s c []))).trans
        (setQuad_setMxc (coreDone s c []) c _ _))

end

/-! ## The obligation -/

/-- Settles O14: each form by the tile it puts, whose elements are the integers that the rules name. -/
theorem matrixTileOperationsFollowTheRules : Obligations.MatrixTileOperationsFollowTheRules := by
  intro s c f hx hh hs ho x q m part mAt zAt word leaves putZ putM sum straight herm into narrowed clips
  refine ⟨fun hd ha hb hk => ⟨mmOp_puts ⟨⟨hx, hh⟩, hs, ho⟩ (exec_mxmac ..) hd ha hb hk (p := sum straight) ?_,
      mmOp_puts ⟨⟨hx, hh⟩, hs, ho⟩ (exec_mxmach ..) hd ha hb hk (p := sum herm) ?_,
      mmOp_puts ⟨⟨hx, hh⟩, hs, ho⟩ (exec_mxmul ..) hd ha hb hk (p := sum straight) ?_,
      mmOp_puts ⟨⟨hx, hh⟩, hs, ho⟩ (exec_mxmulh ..) hd ha hb hk (p := sum herm) ?_,
      mmOp_puts ⟨⟨hx, hh⟩, hs, ho⟩ (exec_mxmsu ..) hd ha hb hk (p := sum straight) ?_⟩,
    execMxclr_puts ⟨⟨hx, hh⟩, hs, ho⟩,
    fun hd ha hb => execMxpack_puts ⟨⟨hx, hh⟩, hs, ho⟩
      (v := fun i => word (narrowed (zAt f.a i).1, narrowed (zAt f.a i).2))
      (clips := fun i => decide (narrowed (zAt f.a i).1 ≠ (zAt f.a i).1.toInt / 2 ^ f.k.toNat)
        || decide (narrowed (zAt f.a i).2 ≠ (zAt f.a i).2.toInt / 2 ^ f.k.toNat)) hd ha hb
          (fun i => packEl_eq f.k.toNat (zAt f.a i)) rfl,
    fun hd ha hb hk => ⟨transpose_puts ⟨⟨hx, hh⟩, hs, ho⟩ (fun m i => mEl m f.a (8 * (i % 8) + i / 8)) (exec_mxtrn ..)
        hd ha hb hk,
      transpose_puts ⟨⟨hx, hh⟩, hs, ho⟩ (fun m i => aEl m f.a true (i / 8) (i % 8)) (exec_mxherm ..) hd ha hb hk⟩,
    execMxwr_puts ⟨⟨hx, hh⟩, hs, ho⟩⟩ <;> exact fun i => mmEl_eq ..

end Sys2Proof.Machine

/-!
# Matrix moves and the lock (O15)

The instructions that read TCM find good words and change nothing by reading; those that write it leave every coprocessor as
it is, so the mark of a narrowing is set in the coprocessor that the instruction found.
-/

namespace Sys2Proof.Machine

variable {s : State} {c a n : Nat} {f : XFmt}

/-! ## A write of TCM leaves the coprocessors (R410 to R412, R432) -/

/-- What both branches keep, the choice keeps. -/
theorem keeps_ite {α β : Type} {p : α → β} {b : Prop} [Decidable b] {x y : α} {v : β} (hx : p x = v) (hy : p y = v) :
    p (if b then x else y) = v :=
  (apply_ite p b x y).trans ((congrArg₂ (fun x y => if b then x else y) hx hy).trans (ite_self v))

theorem keeps_ite_fst {γ : Type} {b : Prop} [Decidable b] {x y : State × γ} {v : List (Nat × Mxc)} (hx : x.1.mxcs = v)
    (hy : y.1.mxcs = v) : (if b then x else y).1.mxcs = v := keeps_ite (p := fun r : State × γ => r.1.mxcs) hx hy

theorem or_keeps_ite {γ : Type} {b q : Prop} [Decidable b] {x y : State × γ} {v : List (Nat × Mxc)} (hx : q ∨ x.1.mxcs = v)
    (hy : q ∨ y.1.mxcs = v) : q ∨ (if b then x else y).1.mxcs = v :=
  hx.elim .inl fun hx => hy.imp_right (keeps_ite_fst hx)

theorem subGiB_le (cfg : Nat) : (subGiB cfg).getD 0 ≤ 32 := by
  have hkind : bits cfg 11 10 < 4 := Nat.mod_lt _ (by decide)
  have hsize : bits cfg 9 8 < 4 := Nat.mod_lt _ (by decide)
  unfold subGiB
  generalize bits cfg 11 10 = k at hkind
  generalize bits cfg 9 8 = m at hsize
  revert k m
  decide

theorem nDramCh_le (v : Variant) : nDramCh v ≤ 4 := by cases v <;> decide

/-- No TCM address lies in DRAM, whatever its geometry. -/
theorem memAt_tcmBase_ne_dram (s : State) (c a : Nat) : memAt s (tcmBase c + a) ≠ .dram := fun h =>
  Nat.not_lt.2 (Nat.le_add_right_of_le (Nat.le_add_right_of_le (Nat.le_trans
    (Nat.mul_le_mul (Nat.mul_le_mul_left 2 (nDramCh_le _)) (Nat.mul_le_mul_left _ (subGiB_le _)))
    (by decide : 2 * 4 * (2 ^ 30 * 32) ≤ 0xA800000000)))) (memAt_dram_iff.1 h)

theorem abandonDrain_mxcs (s : State) (l : Nat) : (abandonDrain s l).mxcs = s.mxcs :=
  foldl_keeps State.mxcs _ (fun _ _ => by exact keeps_ite rfl rfl) _ s

theorem retireRegion_mxcs (s : State) (r : Nat) : (retireRegion s r).mxcs = s.mxcs := keeps_ite (abandonDrain_mxcs ..) rfl

theorem strike_mxcs (s : State) (r : Nat) : (strike s r).mxcs = s.mxcs :=
  keeps_ite (keeps_ite (retireRegion_mxcs ..) rfl) rfl

theorem strikeAt_mxcs (s : State) (u : Nat) : (strikeAt s u).mxcs = s.mxcs := by
  unfold strikeAt
  generalize chargeRegion s u = r
  induction r with
  | none => rfl
  | some r => exact strike_mxcs s r

theorem damageVersions_mxcs (s : State) (lost : Nat → Nat → Bool) : (damageVersions s lost).mxcs = s.mxcs := rfl

theorem loseMemRegion_mxcs (s : State) (r : Nat) : (loseMemRegion s r).mxcs = s.mxcs := by
  unfold loseMemRegion
  refine keeps_ite ?_ rfl
  extract_lets t u v
  exact (damageVersions_mxcs ..).trans (keeps_ite (p := State.mxcs) rfl rfl)

theorem validLine_mxcs (s : State) (u : Nat) : (validLine s u).mxcs = s.mxcs := keeps_ite rfl rfl

/-- The poisoning of a unit whose merge failed changes no coprocessor. -/
theorem poisoned_mxcs {t : State} {u outcome : Nat} (h : t.mxcs = s.mxcs) :
    (validLine (setBad (memLog ((t.bump keyRmwErrors 1).bump keyPoisonedWords 1) u 8 outcome 0 false) u (some .poison)) u).mxcs
      = s.mxcs := (validLine_mxcs ..).trans h

/-- A merge changes no coprocessor. -/
theorem mergeWord_mxcs (s : State) (u : Nat) : (mergeWord s u).1.mxcs = s.mxcs := by
  unfold mergeWord
  extract_lets bad struck blank
  generalize badAt s u = b
  induction b with
  | none => exact keeps_ite_fst (poisoned_mxcs rfl) rfl
  | some b =>
    induction b with
    | poison => exact poisoned_mxcs rfl
    | correctable => exact keeps_ite_fst (poisoned_mxcs rfl) rfl
    | _ => exact keeps_ite_fst (poisoned_mxcs rfl)
            (poisoned_mxcs (keeps_ite ((loseMemRegion_mxcs ..).trans (strikeAt_mxcs ..)) (strikeAt_mxcs ..)))

theorem writeWord_mxcs (s : State) (m : MemAt) (u a : Nat) (b : List Byte) : (writeWord s m u a b).1.mxcs = s.mxcs := by
  unfold writeWord
  extract_lets _ _ _ _ _ r
  have hr : r.1.mxcs = s.mxcs := keeps_ite_fst rfl (mergeWord_mxcs ..)
  clear_value r
  obtain ⟨t, _ | e⟩ := r <;> exact hr

theorem writeWords_mxcs (m : MemAt) (a : Nat) (b : List Byte) (us : List Nat) (s : State) :
    (writeWords s m a b us).1.mxcs = s.mxcs := by
  induction us generalizing s with
  | nil => rfl
  | cons u us ih =>
    have hword := writeWord_mxcs s m u a b
    rw [writeWords]
    generalize writeWord s m u a b = r at hword
    obtain ⟨t, _ | e⟩ := r <;> exact (ih t).trans hword

theorem openLine_mxcs (s : State) (c l : Nat) : (openLine s c l).mxcs = s.mxcs := by
  unfold openLine
  extract_lets x
  exact keeps_ite rfl rfl

theorem openLines_mxcs (s : State) (c a n : Nat) : (openLines s c a n).mxcs = s.mxcs :=
  foldl_keeps State.mxcs _ (fun _ _ => openLine_mxcs ..) _ s

theorem reachIsland_mxcs (s : State) (m : MemAt) : (reachIsland s m).mxcs = s.mxcs := by
  unfold reachIsland
  generalize m.island = k
  induction k with
  | none => rfl
  | some k => exact keeps_ite rfl rfl

/-- A write outside DRAM changes no coprocessor. -/
theorem devQueue_mxcs (s : State) (who : Option (Nat × Posted)) (a : Nat) (b : List Byte) :
    memAt s a = .dram ∨ (devQueue s who a b).1.mxcs = s.mxcs := by
  unfold devQueue
  extract_lets +onlyGivenNames m
  change m = .dram ∨ _
  refine or_keeps_ite (.inr rfl) (or_keeps_ite (.inr rfl) (or_keeps_ite (.inr rfl) ?_))
  clear_value m
  induction m with
  | dram => exact .inl rfl
  | tcm k => exact .inr ((writeWords_mxcs ..).trans ((openLines_mxcs ..).trans (reachIsland_mxcs ..)))
  | _ => exact .inr ((writeWords_mxcs ..).trans (reachIsland_mxcs ..))

theorem recordMx_mxcs (s : State) (c code addr : Nat) (merge : Bool) : (recordMx s c code addr merge).mxcs = s.mxcs := by
  unfold recordMx
  extract_lets x
  generalize x.mxerr = e
  induction e <;> rfl

theorem devWrite_tcm_mxcs (s : State) (c a : Nat) (b : List Byte) : (devWrite s (tcmBase c + a) b).1.mxcs = s.mxcs := by
  have hq := (devQueue_mxcs s none (tcmBase c + a) b).resolve_left (memAt_tcmBase_ne_dram s c a)
  unfold devWrite
  generalize devQueue s none (tcmBase c + a) b = r at hq
  obtain ⟨t, _ | e⟩ := r
  · exact (congrArg (fun r : State × Option (MErr × Nat) => r.1.mxcs) (if_neg (memAt_tcmBase_ne_dram t c a))).trans hq
  · exact hq

/-- What the coprocessor writes to TCM leaves every coprocessor. -/
theorem mxWrite_mxcs (s : State) (c a : Nat) (b : List Byte) : (mxWrite s c a b).mxcs = s.mxcs := by
  have hw := devWrite_tcm_mxcs s c a b
  unfold mxWrite
  generalize devWrite s (tcmBase c + a) b = r at hw
  obtain ⟨t, _ | ⟨e, w⟩⟩ := r
  · exact hw
  · exact (recordMx_mxcs ..).trans hw

/-! ## TCM as the coprocessor reads it (R205, R266, R272) -/

theorem tcmByte_coreDone : tcmByte (coreDone s c []) c = tcmByte s c :=
  (congrArg (fun (x : Core) k => if x.lines.contains (k / 64) then mget s.mem.bytes (tcmBase c + k) else 0)
    (State.core_setCore s c (committed (s.core c) []))).trans rfl

theorem mxRead_good (hn : 0 < n) (h : TcmGood s c a n) : mxRead (coreDone s c []) c a n
    = (coreDone s c [], some ((List.range n).map fun i => tcmByte s c (a + i))) := by
  rw [mxRead, devRead_tcm hn (h.setCore ..), tcmByte_coreDone]

/-- The elements of a tile row in TCM. -/
noncomputable abbrev rowWords (s : State) (c a : Nat) : List (BitVec 32) :=
  (List.range 8).map fun i => BitVec.ofNat 32 (tcmWord s c (a + 4 * i) 4)

theorem mxRows_good {rows : List Nat} (h : ∀ a ∈ rows, TcmGood s c a 32) :
    mxRows (coreDone s c []) c rows = (coreDone s c [], some (rows.flatMap (rowWords s c))) := by
  induction rows with
  | nil => rfl
  | cons a rows ih =>
    rw [mxRows, mxRead_good (by decide) (h a List.mem_cons_self)]
    dsimp only
    rw [ih fun b hb => h b (List.mem_cons_of_mem _ hb)]
    rfl

theorem flatMap_rowAddrs (s : State) (c : Nat) (x : Core) (f : XFmt) : (rowAddrs x f).flatMap (rowWords s c)
    = (List.range 64).map fun i => BitVec.ofNat 32 (tcmWord s c ((rowAddrs x f).getD (i / 8) 0 + 4 * (i % 8)) 4) := rfl

/-! ## Operands (R265, R266, R272) -/

/-- Rows that lie aligned in TCM, which pass the check at E1 (R266). -/
abbrev RowsInTcm (rows : List Nat) : Prop := ∀ a ∈ rows, a % 4 = 0 ∧ a + 32 ≤ 0x40000

theorem rowIss_ok {x : Core} (effs : List Nat → List Eff) (h : RowsInTcm (rowAddrs x f)) :
    rowIss x f effs = Iss.mx (effs (rowAddrs x f)) := by
  have hfault : rowFault (rowAddrs x f) = none := List.head?_eq_none_iff.2 (List.filterMap_eq_nil_iff.2 fun a ha =>
    (if_neg (not_not_intro (h a ha).1)).trans (if_neg (Nat.not_lt.2 (h a ha).2)))
  rw [rowIss, hfault]

/-- The area of a save lies aligned in TCM, which passes its check (R272). -/
abbrev AreaInTcm (a : Nat) : Prop := a % 64 = 0 ∧ a + 0x1840 ≤ 0x40000

theorem areaFault_none (h : AreaInTcm a) : areaFault a = none :=
  (if_neg (not_not_intro h.1)).trans (if_neg (Nat.not_lt.2 h.2))

/-- The numbers of redundant sign bits of the parts of a z tile. -/
noncomputable def partSignBits (m : Mxc) (t : BitVec 5) : List Nat :=
  (List.range 64).flatMap fun i => [rsb 40 (zEl m t i).1.toNat, rsb 40 (zEl m t i).2.toNat]

theorem mem_partSignBits {m : Mxc} {t : BitVec 5} {n : Nat} : n ∈ partSignBits m t
    ↔ ∃ i < 64, rsb 40 (zEl m t i).1.toNat = n ∨ rsb 40 (zEl m t i).2.toNat = n :=
  List.mem_flatMap.trans (exists_congr fun _ => and_congr List.mem_range (List.mem_pair.trans (or_congr eq_comm eq_comm)))

/-- The least of the numbers of redundant sign bits, none of which is above 39. -/
noncomputable abbrev leastSignBits (m : Mxc) (t : BitVec 5) : Nat := (partSignBits m t).foldl min 39

theorem leastSignBits_le {m : Mxc} {t : BitVec 5} : ∀ n ∈ 39 :: partSignBits m t, leastSignBits m t ≤ n :=
  (List.min?_eq_some_iff.1 List.min?_cons').2

theorem leastSignBits_le_parts (m : Mxc) (t : BitVec 5) : ∀ i < 64,
    leastSignBits m t ≤ rsb 40 (zEl m t i).1.toNat ∧ leastSignBits m t ≤ rsb 40 (zEl m t i).2.toNat := fun i hi =>
  ⟨leastSignBits_le _ (List.mem_cons_of_mem _ (mem_partSignBits.2 ⟨i, hi, .inl rfl⟩)),
    leastSignBits_le _ (List.mem_cons_of_mem _ (mem_partSignBits.2 ⟨i, hi, .inr rfl⟩))⟩

theorem leastSignBits_attained (m : Mxc) (t : BitVec 5) :
    ∃ i < 64, rsb 40 (zEl m t i).1.toNat = leastSignBits m t ∨ rsb 40 (zEl m t i).2.toNat = leastSignBits m t := by
  obtain h39 | hmem := List.mem_cons.1 (List.min?_eq_some_iff.1 (List.min?_cons' (x := 39) (xs := partSignBits m t))).1
  · exact ⟨0, by decide, .inl (((Nat.sub_le 39 _).trans h39.ge).antisymm (leastSignBits_le_parts m t 0 (by decide)).1)⟩
  · exact mem_partSignBits.1 hmem

/-! ## The moves (R265, R266, R271, R272) -/

/-- A part clipped to 32 bits, with its clip mark. -/
theorem clipTo_word (v : Int) : (BitVec.ofNat 32 (clipTo 32 v).1, (clipTo 32 v).2)
    = (BitVec.ofInt 32 (clampTo 32 v), decide (clampTo 32 v ≠ v)) := by
  rw [clipTo_eq, ofNat_unsgn]

/-- Neither part clips where both keep their values. -/
theorem or_not_eq_not_and (p q : Prop) [Decidable p] [Decidable q] : (decide (¬p) || decide (¬q)) = !decide (p ∧ q) := by
  rw [Bool.decide_and, Bool.not_and, decide_not, decide_not]

/-- The rows of a tile written to TCM. -/
noncomputable abbrev rowsWritten (t : State) (c : Nat) (rows : List Nat) (data : List (BitVec 32)) : State :=
  rows.zipIdx.foldl (fun t r => mxWrite t c r.1 (tileBytes ((data.drop (8 * r.2)).take 8))) t

theorem rowsWritten_mxcs (t : State) (rows : List Nat) (data : List (BitVec 32)) : (rowsWritten t c rows data).mxcs = t.mxcs :=
  foldl_keeps State.mxcs _ (fun _ _ => mxWrite_mxcs ..) _ t

theorem applyMx_mxld {t : State} {d : BitVec 3} {rows : List Nat} {l : List (BitVec 32)}
    (h : mxRows t c rows = (t, some l)) : applyMx t c (.mxld d rows) = applyMx t c (.wm d l) := by
  dsimp only [applyMx]
  rw [h]

theorem applyMx_mxrestore {t : State} {b : List Byte} (h : mxRead t c a 0x1840 = (t, some b)) :
    applyMx t c (.mxrestore a) = setQuad t c fun m => mxRestored m b := by
  dsimp only [applyMx]
  rw [h]

theorem foldl_partSignBits (m : Mxc) (t : BitVec 5) : (List.range 64).foldl (fun n i =>
    min (min n (rsb 40 (zEl m t i).1.toNat)) (rsb 40 (zEl m t i).2.toNat)) 39 = leastSignBits m t := by
  rw [leastSignBits, partSignBits, List.foldl_flatMap]
  rfl

/-- The z element that MXRD reads. -/
noncomputable abbrev readEl (s : State) (c : Nat) (f : XFmt) : BitVec 40 × BitVec 40 :=
  zEl (s.mxc (quadOf c)) f.a (((s.core c).rg f.b).toNat % 64)

/-- The effects of MXRD: two registers, and the mark of a clip. -/
noncomputable abbrev pairRead (d : BitVec 5) (u v : BitVec 32) (clip : Bool) : Iss :=
  { cls := .vec, writes := [.g d.toNat, .g (pairOf d).toNat], effs := [.mxop, .wg d u, .wg (pairOf d) v] ++ mxSat clip }

theorem bareX_of_zero (hd : f.d = 0) (ha : f.a = 0) (hb : f.b = 0) (hk : f.k = 0) : bareX f = true :=
  and_of_true (and_of_true (and_of_true (zero5_of_eq hd) (zero5_of_eq ha)) (zero5_of_eq hb)) (zero5_of_eq hk)

/-- The holder leaves the waiting list, which it does not stand in, and the lock (R259). -/
theorem leaveMxc_releases {t : State} (hh : holdsMxc t c = true) : leaveMxc t c false = t.setMxc (quadOf c)
    { t.mxc (quadOf c) with holder := none, released := true,
                            waiting := (t.mxc (quadOf c)).waiting.filter fun w => decide (w.1 ≠ c % 36) } :=
  (if_pos (of_decide_eq_true (Bool.and_eq_true_iff.1 hh).1)).trans
    (if_neg fun hd => bnot_ne_true hd (Bool.and_eq_true_iff.1 hh).2)

section
variable (h : HolderIssues s c f)
include h

/-- A read of two parts that sets MXSTAT.SAT unless p holds. -/
theorem mxIssue_pairRead {ok odd : Bool} {mk : Mxc → Core → Iss} {u v : BitVec 32} {p : Prop} [hp : Decidable p]
    (hok : ok = true) (hodd : odd = false) (hm : mk (s.mxc (quadOf c)) (s.core c) = pairRead f.d u v (!decide p)) :
    mxIssue c f s ok mk odd = .next (if p then coreDone s c [.wg f.d u, .wg (f.d + 1) v]
      else (coreDone s c [.wg f.d u, .wg (f.d + 1) v]).setMxc (quadOf c) { s.mxc (quadOf c) with sat := true }) := by
  cases hp <;> exact mxIssue_commits h hok hodd hm rfl id rfl

theorem execMxrd_reads (ha : f.a.toNat < 4) (hk : f.k = 0) (hd : f.d.getLsbD 0 = false) : exec (.mxrd c f) s = .next
    (if clampTo 32 (readEl s c f).1.toInt = (readEl s c f).1.toInt
        ∧ clampTo 32 (readEl s c f).2.toInt = (readEl s c f).2.toInt then
      coreDone s c [.wg f.d (BitVec.ofInt 32 (clampTo 32 (readEl s c f).1.toInt)),
        .wg (f.d + 1) (BitVec.ofInt 32 (clampTo 32 (readEl s c f).2.toInt))]
    else (coreDone s c [.wg f.d (BitVec.ofInt 32 (clampTo 32 (readEl s c f).1.toInt)),
        .wg (f.d + 1) (BitVec.ofInt 32 (clampTo 32 (readEl s c f).2.toInt))]).setMxc (quadOf c)
          { s.mxc (quadOf c) with sat := true }) :=
  (exec_mxrd ..).trans (mxIssue_pairRead h (and_of_true (zOk_of_lt ha) (zero5_of_eq hk)) hd
    ((congrArg₂ (fun p q : BitVec 32 × Bool => pairRead f.d p.1 q.1 (p.2 || q.2)) (clipTo_word (readEl s c f).1.toInt)
      (clipTo_word (readEl s c f).2.toInt)).trans (congrArg (pairRead f.d _ _) (or_not_eq_not_and ..))))

theorem execMxbexp_counts (ha : f.a.toNat < 4) (hb : f.b = 0) (hk : f.k = 0) : exec (.mxbexp c f) s
    = .next (coreDone s c [.wg f.d (BitVec.ofInt 32 ((leastSignBits (s.mxc (quadOf c)) f.a : Int) - 8))]) :=
  (exec_mxbexp ..).trans <|
  mxIssue_commits h (and_of_true (and_of_true (zOk_of_lt ha) (zero5_of_eq hb)) (zero5_of_eq hk)) rfl
    (congrArg (fun n : Nat => ({ cls := .vec, writes := [.g f.d.toNat],
                                 effs := [.mxop, .wg f.d (BitVec.ofInt 32 ((n : Int) - 8))] } : Iss))
      (foldl_partSignBits ..)) rfl id rfl

/-- MXLD of rows that read good. -/
theorem execMxld_reads (hd : f.d.toNat < 8) (hk : f.k = 0) (hrows : RowsInTcm (rowAddrs (s.core c) f))
    (hgood : ∀ a ∈ rowAddrs (s.core c) f, TcmGood s c a 32) :
    exec (.mxld c f) s = .next ((coreDone s c []).setMxc (quadOf c) ((s.mxc (quadOf c)).putM f.d fun i =>
      BitVec.ofNat 32 (tcmWord s c ((rowAddrs (s.core c) f).getD (i / 8) 0 + 4 * (i % 8)) 4))) := (exec_mxld ..).trans <|
  mxIssue_commits h (and_of_true (mOk_of_lt hd) (zero5_of_eq hk)) rfl
    (rowIss_ok (fun rows => [.mxld (f.d.setWidth 3) rows]) hrows) rfl id
    ((applyMx_mxld ((mxRows_good hgood).trans (congrArg (fun l => (_, some l)) (flatMap_rowAddrs ..)))).trans (applyMx_wm hd _ _))

theorem execMxst_writes (hd : f.d.toNat < 8) (hk : f.k = 0) (hrows : RowsInTcm (rowAddrs (s.core c) f)) :
    exec (.mxst c f) s = .next (rowsWritten (coreDone s c []) c (rowAddrs (s.core c) f)
      (vget (s.mxc (quadOf c)).m f.d.toNat (.replicate 64 0)).toList) := (exec_mxst ..).trans <|
  mxIssue_commits h (and_of_true (mOk_of_lt hd) (zero5_of_eq hk)) rfl (rowIss_ok
    (fun rows => [.mxst rows (vget (s.mxc (quadOf c)).m f.d.toNat (.replicate 64 0)).toList]) hrows) rfl id rfl

section
variable (hd : f.d = 0) (hb : f.b = 0) (hk : f.k = 0) (harea : AreaInTcm ((s.core c).rg f.a).toNat)
include hd hb hk harea

theorem execMxsave_writes : exec (.mxsave c f) s
    = .next (mxWrite (coreDone s c []) c ((s.core c).rg f.a).toNat (mxSaveBytes (s.mxc (quadOf c)))) := (exec_mxsave ..).trans <|
  mxIssue_commits h (i := Iss.mx [.mxsave ((s.core c).rg f.a).toNat])
    (and_of_true (and_of_true (zero5_of_eq hd) (zero5_of_eq hb)) (zero5_of_eq hk)) rfl
    (areaFault_none harea ▸ rfl) rfl id rfl

/-- MXRESTORE of an area that reads good. -/
theorem execMxrestore_reads (hgood : TcmGood s c ((s.core c).rg f.a).toNat 0x1840) : exec (.mxrestore c f) s
    = .next ((coreDone s c []).setMxc (quadOf c) (mxRestored (s.mxc (quadOf c))
        ((List.range 0x1840).map fun i => tcmByte s c (((s.core c).rg f.a).toNat + i)))) := (exec_mxrestore ..).trans <|
  mxIssue_commits h (i := Iss.mx [.mxrestore ((s.core c).rg f.a).toNat])
    (and_of_true (and_of_true (zero5_of_eq hd) (zero5_of_eq hb)) (zero5_of_eq hk)) rfl
    (areaFault_none harea ▸ rfl) rfl id (applyMx_mxrestore (mxRead_good (by decide) hgood))

end

/-! ## The lock (R258 to R260, R271) -/

theorem execMxsync_waits (hf : bareX f = true) : exec (.mxsync c f) s = .next (coreDone s c []) := (exec_mxsync ..).trans <|
  mxIssue_commits h hf rfl rfl rfl id rfl

theorem execMxunlock_releases (hf : bareX f = true) : exec (.mxunlock c f) s
    = .next ((coreDone s c []).setMxc (quadOf c) { s.mxc (quadOf c) with
        holder := none, released := true,
        waiting := (s.mxc (quadOf c)).waiting.filter fun w => decide (w.1 ≠ c % 36) }) := (exec_mxunlock ..).trans <|
  mxIssue_commits h hf rfl rfl rfl id (leaveMxc_releases (t := coreDone s c []) h.1.2)

/-- MXSTZ of a tile that narrows to some data. -/
theorem execMxstz_writes {data : List (BitVec 32)} {clip : Bool} (hd : f.d.toNat < 4) (hrows : RowsInTcm (rowAddrs (s.core c) f))
    (hpack : packTile (s.mxc (quadOf c)) f.d f.k.toNat = (data, clip)) : exec (.mxstz c f) s
    = .next (if clip then (rowsWritten (coreDone s c []) c (rowAddrs (s.core c) f) data).setMxc (quadOf c)
          { s.mxc (quadOf c) with sat := true }
      else rowsWritten (coreDone s c []) c (rowAddrs (s.core c) f) data) := by
  refine (exec_mxstz ..).trans ?_
  induction clip
  · exact mxIssue_commits h (zOk_of_lt hd) rfl ((congrArg (fun r : List (BitVec 32) × Bool => rowIss (s.core c) f fun rows =>
      .mxst rows r.1 :: mxSat r.2) hpack).trans (rowIss_ok _ hrows)) rfl id rfl
  · exact mxIssue_commits h (zOk_of_lt hd) rfl ((congrArg (fun r : List (BitVec 32) × Bool => rowIss (s.core c) f fun rows =>
      .mxst rows r.1 :: mxSat r.2) hpack).trans (rowIss_ok _ hrows)) rfl id
      (congrArg (fun l : List (Nat × Mxc) => (rowsWritten (coreDone s c []) c (rowAddrs (s.core c) f) data).setMxc (quadOf c)
        { kgetD l (quadOf c) Mxc.init with sat := true }) (rowsWritten_mxcs ..))

end

/-- MXLOCK joins the wait for the lock (R258). -/
theorem execMxlock_waits (hx : hasMxc s.part.variant = true) (hh : holdsMxc s c = false) (hs : f.stop = true) (ho : Opens s c)
    (hf : bareX f = true) : exec (.mxlock c f) s = .next ((s.setCore c { s.core c with
        bundle := Bundle.init.add (Iss.mx [.mxlock]) }).setMxc (quadOf c)
          { s.mxc (quadOf c) with waiting := (s.mxc (quadOf c)).waiting ++ [(c % 36, 0)] }) :=
  (exec_mxlock ..).trans <| (congrArg (fun b => issueM c b s _) hs).trans <| (issueM_closes_alone ho (i := Iss.mx [.mxlock])
    ((if_neg (bnot_ne_true hx)).trans ((if_neg (bnot_ne_true hf)).trans (if_neg (ne_true_of_eq_false hh)))) rfl rfl
    (fun _ he => absurd he (Option.not_mem_none _)) rfl).trans <|
      congrArg Host.Outcome.next (if_pos (by rw [State.core_setCore]; rfl))

section
variable {ok odd : Bool} {mk : Mxc → Core → Iss}

/-- Without the lock (R260). -/
theorem mxIssue_notHolder {r : Res} (hr : r = mxIssue c f s ok mk) (hx : hasMxc s.part.variant = true)
    (hh : holdsMxc s c = false) (hok : ok = true) : RaisesAtExecute s c f.stop { cls := .vec } 3 0x0C 0x01 0 r :=
  hr ▸ issueM_raisesAtExecute (i := { cls := .vec }) ((if_neg (bnot_ne_true hx)).trans
    ((if_neg (bnot_ne_true hok)).trans ((if_neg Bool.false_ne_true).trans (if_pos (bnot_eq_true hh)))))
    rfl rfl rfl rfl (by decide)

/-- A reserved field is not zero (R274). -/
theorem mxIssue_illegal {r : Res} (hr : r = mxIssue c f s ok mk odd) (hx : hasMxc s.part.variant = true) (hok : ok = false) :
    Raises s c f.stop .vec 0x01 0 r :=
  hr ▸ issueM_raises _ _ _ ((if_neg (bnot_ne_true hx)).trans (if_pos (bnot_eq_true hok)))

/-- A part without the coprocessor (R276). -/
theorem mxIssue_absent {r : Res} (hr : r = mxIssue c f s ok mk odd) (hx : hasMxc s.part.variant = false) :
    Raises s c f.stop .vec 0x03 0x01 r := hr ▸ issueM_absent _ _ (if_pos (bnot_eq_true hx))

end

theorem execMxclr_notHolder (c : Nat) (f : XFmt) (s : State) : hasMxc s.part.variant = true → holdsMxc s c = false →
    (zOk f.d && zero5 f.a && zero5 f.b && zero5 f.k) = true →
    RaisesAtExecute s c f.stop { cls := .vec } 3 0x0C 0x01 0 (execMxclr c f s) := mxIssue_notHolder rfl

theorem execMxtrn_illegal (c : Nat) (f : XFmt) (s : State) : hasMxc s.part.variant = true →
    (mOk f.d && mOk f.a && zero5 f.b && zero5 f.k) = false → Raises s c f.stop .vec 0x01 0 (execMxtrn c f s) :=
  mxIssue_illegal rfl

theorem mmOp_absent (c : Nat) (f : XFmt) (s : State) (herm : Bool) (keep sign : Int) : hasMxc s.part.variant = false →
    Raises s c f.stop .vec 0x03 0x01 (mmOp c f s herm keep sign) := mxIssue_absent rfl

theorem and_of_zero5_ne {a b : Bool} {t : BitVec 5} (h : t ≠ 0) : (a && zero5 t && b) = false := by
  rw [zero5, decide_eq_false h, Bool.and_false]
  rfl

/-! ## The obligation -/

/-- Settles O15: the moves by what they read and write, the lock by its holder and its waiting list. -/
theorem matrixMovesAndLockFollowTheRules : Obligations.MatrixMovesAndLockFollowTheRules := by
  intro s c f x q m zAt e done' rows rowsOk area tile writesRows
  refine ⟨fun hx hh hs ho => ⟨execMxrd_reads ⟨⟨hx, hh⟩, hs, ho⟩, fun ha hb hk => ?_,
      execMxld_reads ⟨⟨hx, hh⟩, hs, ho⟩, execMxst_writes ⟨⟨hx, hh⟩, hs, ho⟩,
      fun hd hr => execMxstz_writes ⟨⟨hx, hh⟩, hs, ho⟩ hd hr rfl,
      execMxsave_writes ⟨⟨hx, hh⟩, hs, ho⟩, execMxrestore_reads ⟨⟨hx, hh⟩, hs, ho⟩,
      fun hd ha hb hk => ⟨execMxsync_waits ⟨⟨hx, hh⟩, hs, ho⟩ (bareX_of_zero hd ha hb hk),
        execMxunlock_releases ⟨⟨hx, hh⟩, hs, ho⟩ (bareX_of_zero hd ha hb hk)⟩⟩,
    fun hx hh hs ho hd ha hb hk => execMxlock_waits hx hh hs ho (bareX_of_zero hd ha hb hk),
    fun hx hh hd ha hb hk => execMxclr_notHolder c f s hx hh
      (and_of_true (and_of_true (and_of_true (zOk_of_lt hd) (zero5_of_eq ha)) (zero5_of_eq hb)) (zero5_of_eq hk)),
    fun hx hb => execMxtrn_illegal c f s hx (and_of_zero5_ne hb), mmOp_absent c f s false 1 1⟩
  exact ⟨leastSignBits m f.a, leastSignBits_le 39 List.mem_cons_self, leastSignBits_le_parts m f.a,
    leastSignBits_attained m f.a, execMxbexp_counts ⟨⟨hx, hh⟩, hs, ho⟩ ha hb hk⟩

end Sys2Proof.Machine

/-!
# The lock's grant, eviction and drain, and imprecise errors (O16)

A grant lets the waiting bundle, whose only effect was the wait, go on from RD; an error that the coprocessor found itself is
the only fault that its core has to deliver.
-/

namespace Sys2Proof.Machine

variable {s t : State} {c m : Nat}

/-! ## The grant (R258) -/

/-- A core as it stands when its wait for the lock has ended. -/
noncomputable abbrev lockBegun (x : Core) : Core := { x with bundle := { Bundle.init.add (Iss.mx [.mxlock]) with begun := true } }

theorem beginBundle_lock (hb : (s.core c).bundle = Bundle.init.add (Iss.mx [.mxlock])) (hq : (s.core c).vq = []) :
    beginBundle (settleQueue (settleStores s c) c) c = s.setCore c (lockBegun (s.core c)) := by
  rw [settleStores_none (by rw [hb]; rfl) (by rw [hb]; rfl) (by rw [hb]; rfl), settleQueue_empty hq, beginBundle, hb]

/-- The bundle that waited for the lock commits; it does nothing more. -/
theorem finishBundle_lock (hb : (s.core c).bundle = Bundle.init.add (Iss.mx [.mxlock])) (hw : NoneWaits (s.core c))
    (hl : NoLoopEnd (s.core c)) : finishBundle s c = coreDone s c [] :=
  (finishBundle_commits (l := [.mxlock]) (beginBundle_lock hb hw.2.2.1) (by rw [State.core_setCore]; exact hw)
    (by rw [State.core_setCore]; rfl) (by rw [State.core_setCore]; rfl)).trans
    (by rw [State.core_setCore, State.setCore_setCore]; exact commitBundle_follows rfl rfl hw.2.2.1 rfl hl.1 hl.2)

/-- The coprocessor as it is granted: its tiles and SAT zero, the rest of the list still waiting. -/
noncomputable abbrev granted (s : State) (l : Nat) (rest : List (Nat × Nat)) : Mxc :=
  { Mxc.init with holder := some l, waiting := rest, grantAt := s.time.now }

theorem execMxcLockGrant_commits {l w : Nat} {rest : List (Nat × Nat)} (hm : m < 144)
    (hwait : (s.mxc m).waiting = (l, w) :: rest) (hfree : (s.mxc m).holder = none)
    (hdrain : (s.mxc m).draining = false) (hx : hasMxc s.part.variant = true) (hup : s.up (regMxc m) = true)
    (hb : (s.core (m / 9 * 36 + l)).bundle = Bundle.init.add (Iss.mx [.mxlock]))
    (hw : NoneWaits (s.core (m / 9 * 36 + l))) (hl : NoLoopEnd (s.core (m / 9 * 36 + l))) : exec (.mxcLockGrant m) s
      = .next (((s.setMxc m (granted s l rest)).bump keyMxcLockGrants 1).setCore (m / 9 * 36 + l)
          (committed (s.core (m / 9 * 36 + l)) [])) := by
  refine (exec_mxcLockGrant ..).trans ((onUnit_lt _ hm).trans (congrArg Host.Outcome.next ?_))
  dsimp only [nextWaiter]
  exact hwait ▸ (if_neg (by rw [hfree, hdrain, hx, hup]; decide)).trans (finishBundle_lock hb hw hl)

/-! ## The eviction (R261) and the drain (R270) -/

theorem execMxcWaitEvict_evicts {h : Nat} {ref : TaskRef} {j : Job} {r : TaskRun} {w : Nat × Nat} (hm : m < 144)
    (hholder : (s.mxc m).holder = some h) (hdrain : (s.mxc m).draining = false)
    (htask : (s.core (m / 9 * 36 + h)).task = some ref) (hrun : refRun s ref = some (j, r)) (hwait : w ∈ (s.mxc m).waiting)
    (hrank : coreRank s (m / 9 * 36 + w.1) = some 1) (hlong : s.oval keyMxcWaitEvict * 1000 ≤ w.2)
    (hlow : ∃ k, coreRank s (m / 9 * 36 + h) = some k ∧ 2 ≤ k) (hfew : r.evictions < s.oval keyEvictMax) :
    exec (.mxcWaitEvict m) s = .next (settleAll s ((evictRun s ref).bump keyMxcWaitEvictions 1)) := by
  obtain ⟨k, hk, hle⟩ := hlow
  refine (exec_mxcWaitEvict ..).trans ((onUnit_lt _ hm).trans (congrArg Host.Outcome.next ?_))
  simp only [hholder, hdrain, Bool.false_eq_true, if_false, htask, hrun, hk]
  exact if_pos (and_of_true (and_of_true (List.any_eq_true.2 ⟨w, hwait,
    and_of_true (decide_eq_true hrank) (decide_eq_true hlong)⟩) (decide_eq_true hle)) (decide_eq_true hfew))

theorem execMxcSquashDrainEnd_releases (hm : m < 144) (hdrain : (s.mxc m).draining = true) : exec (.mxcSquashDrainEnd m) s
    = .next (s.setMxc m { s.mxc m with draining := false, holder := none, released := true }) :=
  (exec_mxcSquashDrainEnd ..).trans ((onUnit_lt _ hm).trans (congrArg Host.Outcome.next (if_pos hdrain)))

/-! ## Imprecise errors (R273) -/

theorem queueEvent_cores (s : State) (n : Nat) (x : Subscr) (d : List Byte) : (queueEvent s n x d).cores = s.cores :=
  keeps_ite (keeps_ite rfl rfl) rfl

theorem deliverEvent_cores (s : State) (n : Nat) (x : Subscr) (d : List Byte) : (deliverEvent s n x d).cores = s.cores := by
  unfold deliverEvent
  extract_lets src
  exact keeps_ite (queueEvent_cores ..) (keeps_ite (keeps_ite rfl rfl) (keeps_ite rfl rfl))

theorem raiseTo_cores (key record : Nat) (d : List Byte) (l : List (Nat × Subscr)) (s : State) :
    (raiseTo s key record d l).cores = s.cores := by
  induction l generalizing s with
  | nil => rfl
  | cons p l ih => exact keeps_ite ((ih _).trans (deliverEvent_cores ..)) (ih s)

theorem memRecord_cores (s : State) (r : MemRec) (event : Bool) : (memRecord s r event).cores = s.cores := by
  unfold memRecord
  extract_lets v n t
  exact keeps_ite (raiseTo_cores ..) rfl

/-- The record of a bad tile word is no matter of a core. -/
theorem noteTile_cores (s : State) (c code : Nat) : (noteTile s c code).cores = s.cores := keeps_ite (memRecord_cores ..) rfl

theorem vdrain_empty (hq : (t.core c).vq = []) : vdrain t c = t := if_pos (by rw [hq]; rfl)

theorem deliverFault_alone {y : Core} {n : Nat} {e : Exc} (hy : t.core c = y) (hq : y.vq = []) (hp : pendingFaults y = [(n, e)]) :
    deliverFault t c = takeExc t c e := by
  unfold deliverFault
  rw [vdrain_empty (hy ▸ hq)]
  dsimp only
  rw [hy, hp]
  rfl

/-- A core whose coprocessor has found an error itself. -/
noncomputable abbrev withMxErr (y : Core) (code : Nat) : Core := { y with mxerr := some (code, 0, y.commits), mxmerge := false }

theorem recordMx_none {code : Nat} {y : Core} (hy : t.core c = y) (hmx : y.mxerr = none) :
    recordMx t c code 0 false = t.setCore c (withMxErr y code) := by
  rw [recordMx, hy, hmx]

theorem pendingFaults_withMxErr {y : Core} (code : Nat) (hv : y.vfault = false) (hsb : y.sberr = none) :
    pendingFaults (withMxErr y code) = [(y.commits,
      { cause := 0x0C, sub := code, slot := 3, eaddr := 0, epc := y.pc, imprecise := true })] := by
  dsimp only [pendingFaults]
  rw [hv, hsb]
  rfl

theorem execMxcImpreciseError_takes {code : Nat} (hc : c < 576) (hrun : (s.core c).running = true)
    (hmx : (s.core c).mxerr = none) (hv : (s.core c).vfault = false) (hsb : (s.core c).sberr = none) (hq : (s.core c).vq = [])
    (hcode : code = 0x12 ∨ code = 0x13) (hh : holdsMxc s c = true) : exec (.mxcImpreciseError c code 0) s
      = .next (takeExc ((noteTile s c code).setCore c (withMxErr (s.core c) code)) c
            { cause := 0x0C, sub := code, slot := 3, eaddr := 0, epc := (s.core c).pc, imprecise := true }) := by
  refine (exec_mxcImpreciseError ..).trans ((onUnit_lt _ hc).trans (congrArg Host.Outcome.next
    ((if_neg (by rw [hrun]; decide)).trans ?_)))
  have hrec := recordMx_none (code := code) (core_of_cores (noteTile_cores s c code) c) hmx
  rw [hmx]
  refine (if_pos ⟨hcode, hh⟩).trans ?_
  rw [hrec]
  exact deliverFault_alone (State.core_setCore ..) hq (pendingFaults_withMxErr code hv hsb)

/-! ## The obligation -/

/-- Settles O16: each event by what it does to the coprocessor and to the core that it concerns. -/
theorem matrixLockEventsFollowTheRules : Obligations.MatrixLockEventsFollowTheRules := by
  intro s m hm x
  exact ⟨fun _ _ _ => execMxcLockGrant_commits hm,
    fun _ _ _ _ _ => execMxcWaitEvict_evicts hm,
    execMxcSquashDrainEnd_releases hm, fun _ _ => execMxcImpreciseError_takes⟩

end Sys2Proof.Machine
